-- ==== Sys2Proof/Word.lean ====
section
/-!
DEFINITION. The word types of the Aqtar A9 (spec/00_scope.md R2, R5) and their plainest arithmetic.
-/

namespace Sys2Proof

/-- A byte of memory. -/
abbrev Byte := BitVec 8
/-- A code word, a vector register of one lane, a mask register (R50, R78). -/
abbrev W32 := BitVec 32
/-- A uniform register or a 64-bit system register (R50). -/
abbrev W64 := BitVec 64
/-- A code address (R25, R78). -/
abbrev Pc := BitVec 48
/-- A vector register number (R82). -/
abbrev VReg := BitVec 7
/-- A uniform register number (R82). -/
abbrev WReg := BitVec 6
/-- A mask register number (R82). -/
abbrev MReg := BitVec 4
/-- A set of lanes: bit L stands for lane L (R24). -/
abbrev Lanes := BitVec 32
/-- A command or completion packet: its 64-bit words f0, f1, ... (R442). -/
abbrev Packet := List W64

/-- Exact power of two. -/
def pow2 (e : Int) : Rat :=
  if 0 ≤ e then ((2 ^ e.toNat : Nat) : Rat) else 1 / ((2 ^ (-e).toNat : Nat) : Rat)

/-- The number of lanes in a set. -/
def Lanes.count (m : Lanes) : Nat := ((List.range 32).filter fun i => m.getLsbD i).length

/-- The lanes of a set, ascending. -/
def Lanes.toList (m : Lanes) : List (Fin 32) := (List.finRange 32).filter fun i => m.getLsbD i

/-- The numbers of the lanes of a set, ascending. -/
def Lanes.nats (m : Lanes) : List Nat := (List.range 32).filter fun i => m.getLsbD i

/-- The set of the lanes that satisfy a test. -/
def Lanes.ofPred (p : Fin 32 → Bool) : Lanes := BitVec.ofFnLE p

end Sys2Proof
end

