-- ==== Sys2Proof/Config.lean ====
section
/-!
DEFINITION. What one implementation of the A9 fixes, and the free values: opaque constants without a body, so that
a claim about them holds for every value (log entries 1, 8-14).
-/

namespace Sys2Proof.Config

/-- Which agent moves next, for a step counted by `tick`: R10 and R223 promise no latency and no interleaving
(DESIGN CHOICE, log 1). -/
opaque nextTurn : Nat → Nat

/-- An undefined value of R9, one for each use counted by `tick` (log 8). -/
opaque undef32 : Nat → Nat → W32
/-- An undefined 64-bit value of R9 (log 8). -/
opaque undef64 : Nat → Nat → W64
/-- An undefined byte of R9 (log 8). -/
opaque undefByte : Nat → Nat → Byte

/-- The order in which the lanes of one atomic on one location are applied: R240 promises none (log 9). -/
opaque atomicOrder : Nat → List (Fin 32)

/-- Whether a host grants the lease that a deterministic entry needs at its flush point (R243, R338): the host's answer,
by step and entry (log 16). -/
opaque leaseGranted : Nat → Nat → Bool

/-- Which of the values inside the bound of R155 an approximate function returns: a function of the operation, the
type and the source alone, as R155 and R99 say (log 10). -/
opaque ulpPick : Nat → Nat → Nat → Nat

/-- The scale that BSCALE gives, with its conditions, for a format whose only finite value is 0: R162 states none; by
format and magnitude (log 8). -/
opaque freeScale : Nat → Nat → Nat → W32

/-- The parameters that a device-chosen refit proposes, as halfword bits by the region as it stands and position: R217
leaves the choice to the home, and R99 makes it the same each time (log 11). -/
opaque refitParam : List Nat → Nat → BitVec 16

/-- The bytes that one phaser (0) or one lock-table entry (1) takes in the overflow area of the engine space: R14 and R398
state none (log 31). -/
opaque engineRecord : Nat → Nat

/-- Whether a signed management command verifies (R414): the keys are fused, and no file gives them (log 12). -/
opaque commandVerifies : W32 → List Byte → Bool
/-- The device's serial number (R415, log 12). -/
opaque serial : W64
/-- The security version of the management firmware (R414, R415, log 12). -/
opaque fwVersion : W32
/-- The SHA-384 of the management firmware (R415), byte by byte (log 12). -/
opaque fwDigestByte : Nat → Byte
/-- The two signatures of an attestation report, made with identity keys from a fused secret (R415): by signature, context
and signed bytes, byte by byte (log 12). -/
opaque attestByte : Nat → Nat → List Byte → Nat → Byte

end Sys2Proof.Config
end

