-- ==== Sys2Proof/Syntax.lean ====
section
/-!
DEFINITION. The syntax: types (spec/04_encoding.md R85), trap causes (spec/00_scope.md R11), the records that
commands of the management plane carry (spec/22_host_and_recovery.md R441), and `Instr`, one constructor for every
row of spec/opcode_table.json.
-/

namespace Sys2Proof

/-- The types of R85, in code order. -/
inductive Ty where
  | s32 | n32 | b32 | s64 | n64 | b64 | s8 | n8 | s16 | n16 | f32 | f64 | f16 | bf16 | nx
  deriving DecidableEq, Repr

/-- The 4-bit code of a type (R85). -/
def Ty.code : Ty → BitVec 4
  | .s32 => 0x0#4 | .n32 => 0x1#4 | .b32 => 0x2#4 | .s64 => 0x3#4
  | .n64 => 0x4#4 | .b64 => 0x5#4 | .s8 => 0x6#4 | .n8 => 0x7#4
  | .s16 => 0x8#4 | .n16 => 0x9#4 | .f32 => 0xA#4 | .f64 => 0xB#4
  | .f16 => 0xC#4 | .bf16 => 0xD#4 | .nx => 0xE#4

/-- The type of a code; code 0xF has none (R85). -/
def Ty.ofCode (c : BitVec 4) : Option Ty :=
  match c.toNat with
  | 0 => some .s32 | 1 => some .n32 | 2 => some .b32 | 3 => some .s64
  | 4 => some .n64 | 5 => some .b64 | 6 => some .s8 | 7 => some .n8
  | 8 => some .s16 | 9 => some .n16 | 10 => some .f32 | 11 => some .f64
  | 12 => some .f16 | 13 => some .bf16 | 14 => some .nx | _ => none

/-- The width in bits of a value of the type; a narrow code fits 8 (R102, R118, R267). -/
def Ty.width : Ty → Nat
  | .s8 | .n8 | .nx => 8
  | .s16 | .n16 | .f16 | .bf16 => 16
  | .s32 | .n32 | .b32 | .f32 => 32
  | .s64 | .n64 | .b64 | .f64 => 64

/-- The size in bytes of an access of the type (R267). -/
def Ty.bytes (t : Ty) : Nat := t.width / 8

/-- A 64-bit type, whose vector operand is an even pair (R51). -/
def Ty.is64 : Ty → Bool
  | .s64 | .n64 | .b64 | .f64 => true
  | _ => false
/-- A signed integer type (R100). -/
def Ty.isSigned : Ty → Bool
  | .s8 | .s16 | .s32 | .s64 => true
  | _ => false
/-- A natural integer type (R100). -/
def Ty.isNatural : Ty → Bool
  | .n8 | .n16 | .n32 | .n64 => true
  | _ => false
/-- A raw type (R100). -/
def Ty.isRaw : Ty → Bool
  | .b32 | .b64 => true
  | _ => false
/-- An IEEE type (R102). -/
def Ty.isFloat : Ty → Bool
  | .f64 | .f32 | .f16 | .bf16 => true
  | _ => false
/-- A type read as a number by integer instructions (R130). -/
def Ty.isNumber (t : Ty) : Bool := t.isSigned || t.isNatural
/-- The integer and raw types (R129). -/
def Ty.isInt (t : Ty) : Bool := t.isNumber || t.isRaw
/-- The types of the uniform X form (R134). -/
def Ty.isUniform : Ty → Bool
  | .s64 | .n64 | .b64 => true
  | _ => false
/-- The types that FOLD, SCAN and ATOM add, min and max take (R142, R282). -/
def Ty.isFoldNumber : Ty → Bool
  | .s32 | .n32 | .s64 | .n64 | .f32 | .f64 => true
  | _ => false
/-- The types of ATOM incwrap (R282). -/
def Ty.isNat3264 : Ty → Bool
  | .n32 | .n64 => true
  | _ => false
/-- The types of CVT (R158). -/
def Ty.isCvt (t : Ty) : Bool := t.isNumber || t.isFloat
/-- The types of a memory access: all but .nx (R267). -/
def Ty.isMem (t : Ty) : Bool := t != .nx
/-- The operand types of a reservation (R173). -/
def Ty.isPanel : Ty → Bool
  | .s8 | .n8 | .f16 | .bf16 | .f32 | .f64 | .nx => true
  | _ => false
/-- A 64-bit vector operand names an even register (R51). -/
def Ty.evenOk (t : Ty) (r : VReg) : Bool := !t.is64 || r.toNat % 2 == 0

/-- The trap causes of R11. -/
inductive Cause where
  | illegal | maskPartial | collectiveMismatch | exitedMember | emptyRead
  | fpNan | fpInvalid | fpDivzero | fpOverflow | skiveDrift
  | page | stackGrow | regionDomain | regionFull | hostAtomic | memoryError
  | wound | lockHierarchy | barrierTimeout | hang | orderInsensitive | gangUnplaceable
  | brk | step | tretState
  deriving DecidableEq, Repr

/-- The cause code of R11. -/
def Cause.code : Cause → BitVec 8
  | .illegal => 0x01 | .maskPartial => 0x02 | .collectiveMismatch => 0x03
  | .exitedMember => 0x04 | .emptyRead => 0x05 | .fpNan => 0x10 | .fpInvalid => 0x11
  | .fpDivzero => 0x12 | .fpOverflow => 0x13 | .skiveDrift => 0x14 | .page => 0x20
  | .stackGrow => 0x21 | .regionDomain => 0x22 | .regionFull => 0x23 | .hostAtomic => 0x24
  | .memoryError => 0x28 | .wound => 0x30 | .lockHierarchy => 0x31 | .barrierTimeout => 0x38
  | .hang => 0x39 | .orderInsensitive => 0x3A | .gangUnplaceable => 0x3B | .brk => 0x40
  | .step => 0x41 | .tretState => 0x42

/-- All causes, in code order (R11). -/
def Cause.all : List Cause :=
  [.illegal, .maskPartial, .collectiveMismatch, .exitedMember, .emptyRead, .fpNan, .fpInvalid, .fpDivzero,
   .fpOverflow, .skiveDrift, .page, .stackGrow, .regionDomain, .regionFull, .hostAtomic, .memoryError, .wound,
   .lockHierarchy, .barrierTimeout, .hang, .orderInsensitive, .gangUnplaceable, .brk, .step, .tretState]

/-- The cause of a code, where R11 lists it. -/
def Cause.ofCode (c : BitVec 8) : Option Cause := Cause.all.find? fun k => k.code == c

/-- A host endpoint as context creation records it (R441): its port, the atomic operations it carries out natively
(operation code of R92 paired with the size in bytes) and whether it grants leases. -/
structure Endpoint where
  id : Nat
  port : Nat
  native : List (Nat × Nat)
  leases : Bool
  deriving DecidableEq, Repr

/-- An image given to the loader (R90, R379): its code window, whether its stepping record matches, its legacy mark, the
counts of `core`, `copy` and `bank` roles it declares (R407), and its bytes, which an attestation measures (R415). -/
structure Image where
  window : BitVec 16
  matched : Bool
  legacy : Bool
  coreRoles : Nat
  copyRoles : Nat
  bankRoles : Nat
  body : List (BitVec 8)
  deriving DecidableEq, Repr

/-- What the management plane gives at partition creation (R441, R398): the supervisor image with its security version
and bytes, the engine shares with the overflow area of the engine space. Clusters are numbered 13 q + c. -/
structure PartSpec where
  num : BitVec 6
  clusters : List Nat
  engines : List (Nat × Nat)
  quotas : List Nat
  phaserShare : Nat
  lockShare : Nat
  overBase : Nat
  overSize : Nat
  imageBody : List (BitVec 8)
  image : W32
  imageVerifies : Bool
  tvec : W64
  ringBase : Nat
  ringSize : Nat
  deriving DecidableEq, Repr

/-- What the management plane gives at context creation (R441); a field that is left out takes its default. The A9 assigns
the number. -/
structure CtxSpec where
  part : BitVec 6
  root : Nat
  seed : W64
  endpoints : List Endpoint
  control : Nat
  p1 : Option Nat
  p2 : Option Nat
  hangAt : Option Nat
  woundPatience : Option Nat
  slice : Option Nat
  detArea : Option (Nat × Nat)
  images : List Image
  deriving DecidableEq, Repr

/-- A watch (R431): context number, range, kinds. -/
structure Watch where
  ctx : BitVec 12
  base : Nat
  size : Nat
  fetch : Bool
  load : Bool
  store : Bool
  deriving DecidableEq, Repr

/-- Every operation and event of the opcode table, one constructor a row, operands as the fields of the encoding
(R82-R92) or, for an event, as the records it names. -/
inductive Instr where
  /-- RNG_LAND, R146. -/
  | rngLand (w n : Nat)
  /-- LOAD_LAND, R269. -/
  | loadLand (w n : Nat)
  /-- FAR_ATOMIC, R240. -/
  | farAtomic (w n : Nat)
  /-- HOST_ATOMIC_LEASE_TIMEOUT, R243. -/
  | hostAtomicLeaseTimeout (w : Nat)
  /-- COMMUTATIVE_COMBINATION, R238. -/
  | commutativeCombination (ctx line : Nat)
  /-- FENCE_COMPLETE, R248. -/
  | fenceComplete (w : Nat)
  /-- COPY_LINE_LAND, R251. -/
  | copyLineLand (k : Nat)
  /-- COPY_FAIL, R292. -/
  | copyFail (k : Nat) (cause : Cause) (kind : Nat)
  /-- CB_SLOT_CLAIM, R297. -/
  | cbSlotClaim (k : Nat)
  /-- STREAM_INSTRUCTION_EFFECT, R175. -/
  | streamInstructionEffect (w : Nat) (s : BitVec 3)
  /-- MATRIX_STEP, R177. -/
  | matrixStep (w : Nat) (s : BitVec 3)
  /-- REGION_STATUS_RETURN, R214. -/
  | regionStatusReturn (w n : Nat)
  /-- REFIT_COMMIT, R209. -/
  | refitCommit (r : Nat)
  /-- REGION_LINE_EVALUATION, R201. -/
  | regionLineEvaluation (r line : Nat)
  /-- REGION_STORE, R204. -/
  | regionStore (r off : Nat) (bytes : List Byte)
  /-- PHASER_WAIT_RELEASE, R328. -/
  | phaserWaitRelease (w : Nat)
  /-- BARRIER_TIMEOUT, R334. -/
  | barrierTimeout (g : Nat)
  /-- LOCK_GRANT, R344. -/
  | lockGrant (k : Nat)
  /-- WOUND_DELIVERY, R346. -/
  | woundDelivery (w : Nat)
  /-- WOUND_PATIENCE_EXPIRY, R347. -/
  | woundPatienceExpiry (w : Nat)
  /-- SIBLING_STOP, R425. -/
  | siblingStop (w : Nat)
  /-- CORE_STALL, R428. -/
  | coreStall (core : Nat)
  /-- SINGLE_STEP_COMPLETE, R430. -/
  | singleStepComplete (w : Nat)
  /-- PAGE_WALK, R405. -/
  | pageWalk (core ctx : Nat) (va : W64)
  /-- PAGE_MISS, R235. -/
  | pageMiss (core page : Nat)
  /-- WRITE_BACK_ARRIVAL, R236. -/
  | writeBackArrival (k : Nat)
  /-- WORKGROUP_DISPATCH, R310. -/
  | workgroupDispatch (l core : Nat)
  /-- GANG_CANDIDATE_RESERVE, R314. -/
  | gangCandidateReserve (l : Nat)
  /-- GANG_PATIENCE_EXPIRY, R314. -/
  | gangPatienceExpiry (l : Nat)
  /-- WORKGROUP_MOVE, R315. -/
  | workgroupMove (g core : Nat)
  /-- TIME_SLICE_EXPIRY, R441. -/
  | timeSliceExpiry (ctx core : Nat)
  /-- LAUNCH_END, R320. -/
  | launchEnd (l : Nat)
  /-- TOKEN_SPEND, R385. -/
  | tokenSpend (core : Nat)
  /-- TOKEN_RETURN, R386. -/
  | tokenReturn (core : Nat)
  /-- CORE_HUNGRY, R388. -/
  | coreHungry (core : Nat)
  /-- POWER_QUOTA_CHANGE, R383. -/
  | powerQuotaChange (part q quota : Nat)
  /-- SLICE_RATIO_CHANGE, R392. -/
  | sliceRatioChange (core slice : Nat) (code : BitVec 3)
  /-- SLICE_RATIO_TAKES_EFFECT, R392. -/
  | sliceRatioTakesEffect (core slice : Nat)
  /-- READ_GRANT_CHANGE, R391. -/
  | readGrantChange (core slice grants : Nat)
  /-- THERMAL_THROTTLE, R23. -/
  | thermalThrottle (q celsius : Nat)
  /-- THERMAL_RESET, R23. -/
  | thermalReset (q celsius : Nat)
  /-- CORE_CLOCK_GATE, R336. -/
  | coreClockGate (core : Nat)
  /-- CORE_POWER_GATE, R336. -/
  | corePowerGate (core : Nat)
  /-- CORE_WAKE, R336. -/
  | coreWake (core : Nat)
  /-- HANG, R337. -/
  | hang (core : Nat)
  /-- UNCONTAINED_ERROR, R433. -/
  | uncontainedError (addr : Nat) (ctxs : List Nat)
  /-- CORRECTED_ERROR_REPORT, R451. -/
  | correctedErrorReport (counts : List W64)
  /-- LAUNCH_COMMAND, R443. -/
  | launchCommand (ep : Nat) (pkt : Packet)
  /-- CANCEL, R443. -/
  | cancel (ep : Nat) (pkt : Packet)
  /-- SEED_COMMAND, R443. -/
  | seedCommand (ep : Nat) (pkt : Packet)
  /-- VACATE_COMMAND, R443. -/
  | vacateCommand (ep : Nat) (pkt : Packet)
  /-- KILL, R449. -/
  | kill (ep : Nat) (pkt : Packet)
  /-- SYNC, R445. -/
  | sync (ep : Nat) (pkt : Packet)
  /-- UNKNOWN_COMMAND, R443. -/
  | unknownCommand (ep : Nat) (pkt : Packet)
  /-- WORMUS_LINK_LOSS, R445. -/
  | wormusLinkLoss (port : Nat)
  /-- WORMUS_PORT_RESTORE, R228. -/
  | wormusPortRestore (port : Nat)
  /-- HOST_DATA_WRITE, R440. -/
  | hostDataWrite (ctx : Nat) (va : W64) (bytes : List Byte)
  /-- HOST_DATA_READ, R439. -/
  | hostDataRead (ctx : Nat) (va : W64) (n : Nat)
  /-- PARTITION_CREATE, R441. -/
  | partitionCreate (spec : PartSpec)
  /-- CONTEXT_CREATE, R441. -/
  | contextCreate (spec : CtxSpec)
  /-- CONTEXT_KILL, R449. -/
  | contextKill (ctx : Nat) (cause : W64)
  /-- PARTITION_RESET, R449. -/
  | partitionReset (part : Nat) (ok : Bool)
  /-- MODULE_RESET, R449. -/
  | moduleReset
  /-- BRING_UP, R450. -/
  | bringUp (ok : Bool)
  /-- WATCH_ARM, R431. -/
  | watchArm (core : Nat) (slot : BitVec 2) (watch : Watch)
  /-- WATCH_DISARM, R431. -/
  | watchDisarm (core : Nat) (slot : BitVec 2)
  /-- ATTESTATION_REQUEST, R415. -/
  | attestationRequest (ctx : Nat) (nonce : List Byte)
  /-- SECURITY_VERSION_RAISE, R414. -/
  | securityVersionRaise (ver : BitVec 32) (sig : List Byte)
  /-- UNASSIGNED_OPCODE, R93. -/
  | unassignedOpcode (hdr : Bool)
  /-- PHASER_RESULT_RETURN, R326. -/
  | phaserResultReturn (w n : Nat)
  /-- LINE_EVICTION, R236. -/
  | lineEviction (core line : Nat)
  /-- PAGE_RECORD_DROP, R235. -/
  | pageRecordDrop (page : Nat)
  /-- LACE_CYCLE, R385. -/
  | laceCycle
  /-- COHERENCE_LEASE_ANSWER, R243. -/
  | coherenceLeaseAnswer (w : Nat) (granted : Bool)
  /-- ADD, R125. -/
  | add (d a b : BitVec 7) (ta tb : Bool) (p : BitVec 2)
  /-- SUB, R125. -/
  | sub (d a b : BitVec 7) (ta tb : Bool) (p : BitVec 2)
  /-- MUL_LO, R125. -/
  | mulLo (d a b : BitVec 7) (ta tb : Bool) (p : BitVec 2)
  /-- MUL_HI, R125. -/
  | mulHi (d a b : BitVec 7) (ta tb : Bool) (p : BitVec 2)
  /-- MIN, R125. -/
  | min (d a b : BitVec 7) (ta tb : Bool) (p : BitVec 2)
  /-- MAX, R125. -/
  | max (d a b : BitVec 7) (ta tb : Bool) (p : BitVec 2)
  /-- AND, R125. -/
  | and (d a b : BitVec 7) (ta tb : Bool) (p : BitVec 2)
  /-- OR, R125. -/
  | or (d a b : BitVec 7) (ta tb : Bool) (p : BitVec 2)
  /-- XOR, R125. -/
  | xor (d a b : BitVec 7) (ta tb : Bool) (p : BitVec 2)
  /-- ANDN, R125. -/
  | andn (d a b : BitVec 7) (ta tb : Bool) (p : BitVec 2)
  /-- SHL, R125. -/
  | shl (d a b : BitVec 7) (ta tb : Bool) (p : BitVec 2)
  /-- SHR, R125. -/
  | shr (d a b : BitVec 7) (ta tb : Bool) (p : BitVec 2)
  /-- SAR, R125. -/
  | sar (d a b : BitVec 7) (ta tb : Bool) (p : BitVec 2)
  /-- ROT, R125. -/
  | rot (d a b : BitVec 7) (ta tb : Bool) (p : BitVec 2)
  /-- ADD_IMM, R126. -/
  | addImm (d a : BitVec 7) (imm : BitVec 8) (ta : Bool) (p : BitVec 2)
  /-- SHL_IMM, R126. -/
  | shlImm (d a : BitVec 7) (cnt : BitVec 6) (ta : Bool) (p : BitVec 2)
  /-- SHR_IMM, R126. -/
  | shrImm (d a : BitVec 7) (cnt : BitVec 6) (ta : Bool) (p : BitVec 2)
  /-- SAR_IMM, R126. -/
  | sarImm (d a : BitVec 7) (cnt : BitVec 6) (ta : Bool) (p : BitVec 2)
  /-- ROT_IMM, R126. -/
  | rotImm (d a : BitVec 7) (cnt : BitVec 6) (ta : Bool) (p : BitVec 2)
  /-- ABS, R127. -/
  | abs (d a : BitVec 7) (ta : Bool) (p : BitVec 2)
  /-- NEG, R127. -/
  | neg (d a : BitVec 7) (ta : Bool) (p : BitVec 2)
  /-- NOT, R127. -/
  | not (d a : BitVec 7) (ta : Bool) (p : BitVec 2)
  /-- CLZ, R127. -/
  | clz (d a : BitVec 7) (ta : Bool) (p : BitVec 2)
  /-- POPC, R127. -/
  | popc (d a : BitVec 7) (ta : Bool) (p : BitVec 2)
  /-- BREV, R127. -/
  | brev (d a : BitVec 7) (ta : Bool) (p : BitVec 2)
  /-- MOV, R127. -/
  | mov (d a : BitVec 7) (ta : Bool) (p : BitVec 2)
  /-- ADD_X, R130. -/
  | addX (d a b : BitVec 7) (ta tb : Bool) (p : BitVec 2) (ty : Ty)
  /-- SUB_X, R130. -/
  | subX (d a b : BitVec 7) (ta tb : Bool) (p : BitVec 2) (ty : Ty)
  /-- MUL_LO_X, R130. -/
  | mulLoX (d a b : BitVec 7) (ta tb : Bool) (p : BitVec 2) (ty : Ty)
  /-- MUL_HI_X, R130. -/
  | mulHiX (d a b : BitVec 7) (ta tb : Bool) (p : BitVec 2) (ty : Ty)
  /-- MAD, R130. -/
  | mad (d a b : BitVec 7) (ta tb : Bool) (p : BitVec 2) (c : BitVec 7) (tc : Bool) (ty : Ty)
  /-- MIN_X, R130. -/
  | minX (d a b : BitVec 7) (ta tb : Bool) (p : BitVec 2) (ty : Ty)
  /-- MAX_X, R130. -/
  | maxX (d a b : BitVec 7) (ta tb : Bool) (p : BitVec 2) (ty : Ty)
  /-- ABS_X, R130. -/
  | absX (d a : BitVec 7) (ta : Bool) (p : BitVec 2) (ty : Ty)
  /-- NEG_X, R130. -/
  | negX (d a : BitVec 7) (ta : Bool) (p : BitVec 2) (ty : Ty)
  /-- AND_X, R130. -/
  | andX (d a b : BitVec 7) (ta tb : Bool) (p : BitVec 2) (ty : Ty)
  /-- OR_X, R130. -/
  | orX (d a b : BitVec 7) (ta tb : Bool) (p : BitVec 2) (ty : Ty)
  /-- XOR_X, R130. -/
  | xorX (d a b : BitVec 7) (ta tb : Bool) (p : BitVec 2) (ty : Ty)
  /-- ANDN_X, R130. -/
  | andnX (d a b : BitVec 7) (ta tb : Bool) (p : BitVec 2) (ty : Ty)
  /-- NOT_X, R130. -/
  | notX (d a : BitVec 7) (ta : Bool) (p : BitVec 2) (ty : Ty)
  /-- SHL_X, R130. -/
  | shlX (d a b : BitVec 7) (ta tb : Bool) (p : BitVec 2) (ty : Ty) (im : Bool) (cnt : BitVec 6)
  /-- SHR_X, R130. -/
  | shrX (d a b : BitVec 7) (ta tb : Bool) (p : BitVec 2) (ty : Ty) (im : Bool) (cnt : BitVec 6)
  /-- SAR_X, R130. -/
  | sarX (d a b : BitVec 7) (ta tb : Bool) (p : BitVec 2) (ty : Ty) (im : Bool) (cnt : BitVec 6)
  /-- ROT_X, R130. -/
  | rotX (d a b : BitVec 7) (ta tb : Bool) (p : BitVec 2) (ty : Ty) (im : Bool) (cnt : BitVec 6)
  /-- CLZ_X, R130. -/
  | clzX (d a : BitVec 7) (ta : Bool) (p : BitVec 2) (ty : Ty)
  /-- POPC_X, R130. -/
  | popcX (d a : BitVec 7) (ta : Bool) (p : BitVec 2) (ty : Ty)
  /-- BREV_X, R130. -/
  | brevX (d a : BitVec 7) (ta : Bool) (p : BitVec 2) (ty : Ty)
  /-- BFE, R130. -/
  | bfe (d a : BitVec 7) (ta : Bool) (p : BitVec 2) (ty : Ty) (pos len : BitVec 6)
  /-- BFI, R130. -/
  | bfi (d a b : BitVec 7) (ta tb : Bool) (p : BitVec 2) (ty : Ty) (pos len : BitVec 6)
  /-- SEL, R130. -/
  | sel (d a b : BitVec 7) (ta tb : Bool) (p : BitVec 2) (ty : Ty) (sl : BitVec 4)
  /-- CMP, R131. -/
  | cmp (md : BitVec 4) (a b : BitVec 7) (ta tb : Bool) (p : BitVec 2) (ty : Ty) (cond : BitVec 3)
  /-- MOV_X, R130. -/
  | movX (d a : BitVec 7) (ta : Bool) (p : BitVec 2) (ty : Ty)
  /-- ADD_SAT, R130. -/
  | addSat (d a b : BitVec 7) (ta tb : Bool) (p : BitVec 2) (ty : Ty)
  /-- SUB_SAT, R130. -/
  | subSat (d a b : BitVec 7) (ta tb : Bool) (p : BitVec 2) (ty : Ty)
  /-- MOVI, R128. -/
  | movi (d : BitVec 7) (imm : BitVec 16) (p : BitVec 2)
  /-- LIT_VECTOR, R128. -/
  | litVector (d : BitVec 7) (pr : Bool) (hi : BitVec 16) (lit : W32)
  /-- UNIFORM_ADD, R132. -/
  | uniformAdd (d a b : BitVec 6) (ta tb : Bool)
  /-- UNIFORM_SUB, R132. -/
  | uniformSub (d a b : BitVec 6) (ta tb : Bool)
  /-- UNIFORM_MUL_LO, R132. -/
  | uniformMulLo (d a b : BitVec 6) (ta tb : Bool)
  /-- UNIFORM_MUL_HI_S, R132. -/
  | uniformMulHiS (d a b : BitVec 6) (ta tb : Bool)
  /-- UNIFORM_MUL_HI_N, R132. -/
  | uniformMulHiN (d a b : BitVec 6) (ta tb : Bool)
  /-- UNIFORM_MIN_S, R132. -/
  | uniformMinS (d a b : BitVec 6) (ta tb : Bool)
  /-- UNIFORM_MIN_N, R132. -/
  | uniformMinN (d a b : BitVec 6) (ta tb : Bool)
  /-- UNIFORM_MAX_S, R132. -/
  | uniformMaxS (d a b : BitVec 6) (ta tb : Bool)
  /-- UNIFORM_MAX_N, R132. -/
  | uniformMaxN (d a b : BitVec 6) (ta tb : Bool)
  /-- UNIFORM_ADD_SAT_S, R132. -/
  | uniformAddSatS (d a b : BitVec 6) (ta tb : Bool)
  /-- UNIFORM_ADD_SAT_N, R132. -/
  | uniformAddSatN (d a b : BitVec 6) (ta tb : Bool)
  /-- UNIFORM_SUB_SAT_S, R132. -/
  | uniformSubSatS (d a b : BitVec 6) (ta tb : Bool)
  /-- UNIFORM_SUB_SAT_N, R132. -/
  | uniformSubSatN (d a b : BitVec 6) (ta tb : Bool)
  /-- UNIFORM_ABS, R132. -/
  | uniformAbs (d a : BitVec 6) (ta : Bool)
  /-- UNIFORM_NEG, R132. -/
  | uniformNeg (d a : BitVec 6) (ta : Bool)
  /-- UNIFORM_AND, R132. -/
  | uniformAnd (d a b : BitVec 6) (ta tb : Bool)
  /-- UNIFORM_OR, R132. -/
  | uniformOr (d a b : BitVec 6) (ta tb : Bool)
  /-- UNIFORM_XOR, R132. -/
  | uniformXor (d a b : BitVec 6) (ta tb : Bool)
  /-- UNIFORM_ANDN, R132. -/
  | uniformAndn (d a b : BitVec 6) (ta tb : Bool)
  /-- UNIFORM_NOT, R132. -/
  | uniformNot (d a : BitVec 6) (ta : Bool)
  /-- UNIFORM_SHL, R132. -/
  | uniformShl (d a b : BitVec 6) (ta tb : Bool)
  /-- UNIFORM_SHR, R132. -/
  | uniformShr (d a b : BitVec 6) (ta tb : Bool)
  /-- UNIFORM_SAR, R132. -/
  | uniformSar (d a b : BitVec 6) (ta tb : Bool)
  /-- UNIFORM_ROT, R132. -/
  | uniformRot (d a b : BitVec 6) (ta tb : Bool)
  /-- UNIFORM_CLZ, R132. -/
  | uniformClz (d a : BitVec 6) (ta : Bool)
  /-- UNIFORM_POPC, R132. -/
  | uniformPopc (d a : BitVec 6) (ta : Bool)
  /-- UNIFORM_BREV, R132. -/
  | uniformBrev (d a : BitVec 6) (ta : Bool)
  /-- UNIFORM_MOV, R132. -/
  | uniformMov (d a : BitVec 6) (ta : Bool)
  /-- UNIFORM_ADD_IMM, R133. -/
  | uniformAddImm (d a : BitVec 6) (ta : Bool) (imm : BitVec 20)
  /-- UNIFORM_AND_IMM, R133. -/
  | uniformAndImm (d a : BitVec 6) (ta : Bool) (imm : BitVec 20)
  /-- UNIFORM_OR_IMM, R133. -/
  | uniformOrImm (d a : BitVec 6) (ta : Bool) (imm : BitVec 20)
  /-- UNIFORM_XOR_IMM, R133. -/
  | uniformXorImm (d a : BitVec 6) (ta : Bool) (imm : BitVec 20)
  /-- UNIFORM_SHL_IMM, R133. -/
  | uniformShlImm (d a : BitVec 6) (ta : Bool) (imm : BitVec 20)
  /-- UNIFORM_SHR_IMM, R133. -/
  | uniformShrImm (d a : BitVec 6) (ta : Bool) (imm : BitVec 20)
  /-- UNIFORM_SAR_IMM, R133. -/
  | uniformSarImm (d a : BitVec 6) (ta : Bool) (imm : BitVec 20)
  /-- UNIFORM_MOVI, R133. -/
  | uniformMovi (d : BitVec 6) (imm : BitVec 20)
  /-- UNIFORM_MAD, R134. -/
  | uniformMad (d a b : BitVec 6) (ta tb : Bool) (c : BitVec 6) (tc : Bool) (ty : Ty)
  /-- UNIFORM_BFE, R134. -/
  | uniformBfe (d a : BitVec 6) (ta : Bool) (ty : Ty) (pos len : BitVec 6)
  /-- UNIFORM_BFI, R134. -/
  | uniformBfi (d a b : BitVec 6) (ta tb : Bool) (ty : Ty) (pos len : BitVec 6)
  /-- UNIFORM_CMP, R134. -/
  | uniformCmp (md : BitVec 4) (a b : BitVec 6) (ta tb : Bool) (ty : Ty) (cond : BitVec 3)
  /-- UNIFORM_SEL, R134. -/
  | uniformSel (d a b : BitVec 6) (ta tb : Bool) (ty : Ty) (sl : BitVec 4)
  /-- LIT_UNIFORM, R135. -/
  | litUniform (d : BitVec 6) (hi : BitVec 16) (lit : W32)
  /-- SEED_TOP, R147. -/
  | seedTop (d : BitVec 6)
  /-- SEED_DEPTH, R147. -/
  | seedDepth (d : BitVec 6)
  /-- MAND, R136. -/
  | mand (d a b : BitVec 4)
  /-- MOR, R136. -/
  | mor (d a b : BitVec 4)
  /-- MXOR, R136. -/
  | mxor (d a b : BitVec 4)
  /-- MANDN, R136. -/
  | mandn (d a b : BitVec 4)
  /-- MNOT, R136. -/
  | mnot (d a : BitVec 4)
  /-- MMOV, R136. -/
  | mmov (d a : BitVec 4)
  /-- MGET, R136. -/
  | mget (d : BitVec 6) (ma : BitVec 4)
  /-- MSET, R136. -/
  | mset (md : BitVec 4) (a : BitVec 6) (ta : Bool)
  /-- POLL_MASK, R140. -/
  | pollMask (d a : BitVec 7) (ta : Bool) (p : BitVec 2) (mem : BitVec 4)
  /-- POLL_SOME, R140. -/
  | pollSome (md : BitVec 4) (a : BitVec 7) (ta : Bool) (p : BitVec 2) (mem : BitVec 4)
  /-- POLL_EVERY, R140. -/
  | pollEvery (md : BitVec 4) (a : BitVec 7) (ta : Bool) (p : BitVec 2) (mem : BitVec 4)
  /-- POLL_SAME, R140. -/
  | pollSame (md : BitVec 4) (a : BitVec 7) (ta : Bool) (p : BitVec 2) (ty : Ty) (mem : BitVec 4)
  /-- POLL_PEERS, R140. -/
  | pollPeers (d a : BitVec 7) (ta : Bool) (p : BitVec 2) (ty : Ty) (mem : BitVec 4)
  /-- POLL_LEAD, R140. -/
  | pollLead (md : BitVec 4) (p : BitVec 2) (mem : BitVec 4)
  /-- POLL_LEAD_WELT, R140. -/
  | pollLeadWelt (md : BitVec 4) (p : BitVec 2) (mem : BitVec 4)
  /-- POLL_COUNT, R140. -/
  | pollCount (d a : BitVec 7) (ta : Bool) (p : BitVec 2) (mem : BitVec 4)
  /-- PASS_FROM, R141. -/
  | passFrom (d a b : BitVec 7) (ta tb : Bool) (p : BitVec 2) (z : Bool) (ty : Ty) (imm : BitVec 5) (im : Bool) (mem : BitVec 4)
  /-- PASS_BACK, R141. -/
  | passBack (d a b : BitVec 7) (ta tb : Bool) (p : BitVec 2) (z : Bool) (ty : Ty) (imm : BitVec 5) (im : Bool) (mem : BitVec 4)
  /-- PASS_AHEAD, R141. -/
  | passAhead (d a b : BitVec 7) (ta tb : Bool) (p : BitVec 2) (z : Bool) (ty : Ty) (imm : BitVec 5) (im : Bool) (mem : BitVec 4)
  /-- PASS_SWAP, R141. -/
  | passSwap (d a b : BitVec 7) (ta tb : Bool) (p : BitVec 2) (z : Bool) (ty : Ty) (imm : BitVec 5) (im : Bool) (mem : BitVec 4)
  /-- PASS_TURN, R141. -/
  | passTurn (d a b : BitVec 7) (ta tb : Bool) (p : BitVec 2) (z : Bool) (ty : Ty) (imm : BitVec 5) (im : Bool) (mem : BitVec 4)
  /-- FOLD_ADD, R142. -/
  | foldAdd (d a : BitVec 7) (ta : Bool) (p : BitVec 2) (ty : Ty) (mem : BitVec 4)
  /-- FOLD_MIN, R142. -/
  | foldMin (d a : BitVec 7) (ta : Bool) (p : BitVec 2) (ty : Ty) (mem : BitVec 4)
  /-- FOLD_MAX, R142. -/
  | foldMax (d a : BitVec 7) (ta : Bool) (p : BitVec 2) (ty : Ty) (mem : BitVec 4)
  /-- FOLD_AND, R142. -/
  | foldAnd (d a : BitVec 7) (ta : Bool) (p : BitVec 2) (ty : Ty) (mem : BitVec 4)
  /-- FOLD_OR, R142. -/
  | foldOr (d a : BitVec 7) (ta : Bool) (p : BitVec 2) (ty : Ty) (mem : BitVec 4)
  /-- FOLD_XOR, R142. -/
  | foldXor (d a : BitVec 7) (ta : Bool) (p : BitVec 2) (ty : Ty) (mem : BitVec 4)
  /-- SCAN_INC, R142. -/
  | scanInc (d a : BitVec 7) (ta : Bool) (p : BitVec 2) (ty : Ty) (mem : BitVec 4)
  /-- SCAN_EXC, R142. -/
  | scanExc (d a : BitVec 7) (ta : Bool) (p : BitVec 2) (ty : Ty) (mem : BitVec 4)
  /-- RNG, R146. -/
  | rng (d a : BitVec 7) (ta : Bool) (p : BitVec 2)
  /-- IDENT, R143. -/
  | ident (d : BitVec 7) (sl : BitVec 8) (p : BitVec 2)
  /-- FADD, R153. -/
  | fadd (d a b : BitVec 7) (ta tb : Bool) (p : BitVec 2)
  /-- FSUB, R153. -/
  | fsub (d a b : BitVec 7) (ta tb : Bool) (p : BitVec 2)
  /-- FMUL, R153. -/
  | fmul (d a b : BitVec 7) (ta tb : Bool) (p : BitVec 2)
  /-- FMIN, R154. -/
  | fmin (d a b : BitVec 7) (ta tb : Bool) (p : BitVec 2)
  /-- FMAX, R154. -/
  | fmax (d a b : BitVec 7) (ta tb : Bool) (p : BitVec 2)
  /-- FDIV, R153. -/
  | fdiv (d a b : BitVec 7) (ta tb : Bool) (p : BitVec 2)
  /-- FSQRT, R153. -/
  | fsqrt (d a : BitVec 7) (ta : Bool) (p : BitVec 2)
  /-- FADD_X, R153. -/
  | faddX (d a b : BitVec 7) (ta tb : Bool) (p : BitVec 2) (ty : Ty) (rm : BitVec 3) (na aa nb ab : Bool)
  /-- FSUB_X, R153. -/
  | fsubX (d a b : BitVec 7) (ta tb : Bool) (p : BitVec 2) (ty : Ty) (rm : BitVec 3) (na aa nb ab : Bool)
  /-- FMUL_X, R153. -/
  | fmulX (d a b : BitVec 7) (ta tb : Bool) (p : BitVec 2) (ty : Ty) (rm : BitVec 3) (na aa nb ab : Bool)
  /-- FMIN_X, R154. -/
  | fminX (d a b : BitVec 7) (ta tb : Bool) (p : BitVec 2) (ty : Ty) (na aa nb ab : Bool)
  /-- FMAX_X, R154. -/
  | fmaxX (d a b : BitVec 7) (ta tb : Bool) (p : BitVec 2) (ty : Ty) (na aa nb ab : Bool)
  /-- FDIV_X, R153. -/
  | fdivX (d a b : BitVec 7) (ta tb : Bool) (p : BitVec 2) (ty : Ty) (rm : BitVec 3) (na aa nb ab : Bool)
  /-- FFMA, R153. -/
  | ffma (d a b : BitVec 7) (ta tb : Bool) (p : BitVec 2) (c : BitVec 7) (tc : Bool) (ty : Ty) (rm : BitVec 3) (na aa nb ab nc ac : Bool)
  /-- FSQRT_X, R153. -/
  | fsqrtX (d a : BitVec 7) (ta : Bool) (p : BitVec 2) (ty : Ty) (rm : BitVec 3) (na aa : Bool)
  /-- FRCP_A, R155. -/
  | frcpA (d a : BitVec 7) (ta : Bool) (p : BitVec 2) (ty : Ty) (na aa : Bool)
  /-- FRSQ_A, R155. -/
  | frsqA (d a : BitVec 7) (ta : Bool) (p : BitVec 2) (ty : Ty) (na aa : Bool)
  /-- FEXP2_A, R155. -/
  | fexp2A (d a : BitVec 7) (ta : Bool) (p : BitVec 2) (ty : Ty) (na aa : Bool)
  /-- FLOG2_A, R155. -/
  | flog2A (d a : BitVec 7) (ta : Bool) (p : BitVec 2) (ty : Ty) (na aa : Bool)
  /-- FCMP, R156. -/
  | fcmp (md : BitVec 4) (a b : BitVec 7) (ta tb : Bool) (p : BitVec 2) (cond : BitVec 3) (ty : Ty) (na aa nb ab : Bool)
  /-- FCLASS, R157. -/
  | fclass (d a : BitVec 7) (ta : Bool) (p : BitVec 2) (ty : Ty)
  /-- CVT, R159. -/
  | cvt (d a : BitVec 7) (ta : Bool) (p : BitVec 2) (c : BitVec 7) (tc : Bool) (dty : Ty) (rm : BitVec 3) (sty : Ty) (salt : BitVec 8)
  /-- CVTN, R161. -/
  | cvtn (d a : BitVec 7) (b : BitVec 6) (ta : Bool) (p : BitVec 2) (ty : Ty) (rm : BitVec 3) (salt : BitVec 8)
  /-- CVTN_FROM, R161. -/
  | cvtnFrom (d a : BitVec 7) (b : BitVec 6) (ta : Bool) (p : BitVec 2) (ty : Ty) (rm : BitVec 3)
  /-- BSCALE, R162. -/
  | bscale (d a : BitVec 7) (b : BitVec 6) (ta : Bool) (p : BitVec 2) (ty : Ty)
  /-- QNT, R161. -/
  | qnt (d a : BitVec 7) (b : BitVec 6) (ta : Bool) (p : BitVec 2) (c : BitVec 7) (tc : Bool) (ty : Ty) (rm : BitVec 3) (salt : BitVec 8)
  /-- DQNT, R161. -/
  | dqnt (d a : BitVec 7) (b : BitVec 6) (ta : Bool) (p : BitVec 2) (c : BitVec 7) (tc : Bool) (ty : Ty) (rm : BitVec 3)
  /-- LD, R273. -/
  | ld (d : BitVec 7) (w : BitVec 6) (i : BitVec 7) (f : BitVec 2) (t : Bool) (p : BitVec 2)
  /-- LD_X, R273. -/
  | ldX (d : BitVec 7) (w : BitVec 6) (i : BitVec 7) (f : BitVec 2) (t : Bool) (p : BitVec 2) (ty : Ty) (cp : BitVec 2) (disp : BitVec 13)
  /-- LD_PROBE, R203. -/
  | ldProbe (d : BitVec 7) (w : BitVec 6) (i : BitVec 7) (f : BitVec 2) (t : Bool) (p : BitVec 2) (ty : Ty) (md : BitVec 4) (cp : BitVec 2) (disp : BitVec 13)
  /-- ST, R273. -/
  | st (d : BitVec 7) (w : BitVec 6) (i : BitVec 7) (f : BitVec 2) (t : Bool) (p : BitVec 2)
  /-- ST_X, R273. -/
  | stX (d : BitVec 7) (w : BitVec 6) (i : BitVec 7) (f : BitVec 2) (t : Bool) (p : BitVec 2) (ty : Ty) (cp : BitVec 2) (disp : BitVec 13)
  /-- LDX, R274. -/
  | ldx (d : BitVec 7) (w : BitVec 6) (i : BitVec 7) (f : BitVec 2) (t : Bool) (p : BitVec 2) (ty : Ty) (n cp : BitVec 2) (disp : BitVec 13)
  /-- STX, R274. -/
  | stx (d : BitVec 7) (w : BitVec 6) (i : BitVec 7) (f : BitVec 2) (t : Bool) (p : BitVec 2) (ty : Ty) (n cp : BitVec 2) (disp : BitVec 13)
  /-- STC, R275. -/
  | stc (d : BitVec 7) (w : BitVec 6) (i : BitVec 7) (f : BitVec 2) (t : Bool) (p : BitVec 2) (ty : Ty) (cp : BitVec 2) (disp : BitVec 13)
  /-- LDW, R276. -/
  | ldw (d a : BitVec 6) (ta : Bool) (ty : Ty) (cp : BitVec 2)
  /-- STW, R276. -/
  | stw (a b : BitVec 6) (ta tb : Bool) (ty : Ty) (cp : BitVec 2)
  /-- LDS, R277. -/
  | lds (d : BitVec 7) (w : BitVec 6) (i : BitVec 7) (f : BitVec 2) (t : Bool) (p : BitVec 2) (ty : Ty) (disp : BitVec 13)
  /-- STS, R277. -/
  | sts (d : BitVec 7) (w : BitVec 6) (i : BitVec 7) (f : BitVec 2) (t : Bool) (p : BitVec 2) (ty : Ty) (disp : BitVec 13)
  /-- PREF, R278. -/
  | pref (w : BitVec 6) (i : BitVec 7) (f : BitVec 2) (t : Bool) (p cp : BitVec 2) (disp : BitVec 13)
  /-- STMAP, R279. -/
  | stmap (a b : BitVec 6) (ta : Bool)
  /-- STUNMAP, R279. -/
  | stunmap (a : BitVec 6) (ta : Bool)
  /-- STFLUSH, R279. -/
  | stflush (a : BitVec 6) (ta : Bool)
  /-- ATOM_ADD, R282. -/
  | atomAdd (d : BitVec 7) (w : BitVec 6) (i : BitVec 7) (f : BitVec 2) (t : Bool) (p : BitVec 2) (c : BitVec 7) (tc : Bool) (ty : Ty) (rt : Bool) (disp : BitVec 13)
  /-- ATOM_MIN, R282. -/
  | atomMin (d : BitVec 7) (w : BitVec 6) (i : BitVec 7) (f : BitVec 2) (t : Bool) (p : BitVec 2) (c : BitVec 7) (tc : Bool) (ty : Ty) (rt : Bool) (disp : BitVec 13)
  /-- ATOM_MAX, R282. -/
  | atomMax (d : BitVec 7) (w : BitVec 6) (i : BitVec 7) (f : BitVec 2) (t : Bool) (p : BitVec 2) (c : BitVec 7) (tc : Bool) (ty : Ty) (rt : Bool) (disp : BitVec 13)
  /-- ATOM_AND, R282. -/
  | atomAnd (d : BitVec 7) (w : BitVec 6) (i : BitVec 7) (f : BitVec 2) (t : Bool) (p : BitVec 2) (c : BitVec 7) (tc : Bool) (ty : Ty) (rt : Bool) (disp : BitVec 13)
  /-- ATOM_OR, R282. -/
  | atomOr (d : BitVec 7) (w : BitVec 6) (i : BitVec 7) (f : BitVec 2) (t : Bool) (p : BitVec 2) (c : BitVec 7) (tc : Bool) (ty : Ty) (rt : Bool) (disp : BitVec 13)
  /-- ATOM_XOR, R282. -/
  | atomXor (d : BitVec 7) (w : BitVec 6) (i : BitVec 7) (f : BitVec 2) (t : Bool) (p : BitVec 2) (c : BitVec 7) (tc : Bool) (ty : Ty) (rt : Bool) (disp : BitVec 13)
  /-- ATOM_EXCH, R282. -/
  | atomExch (d : BitVec 7) (w : BitVec 6) (i : BitVec 7) (f : BitVec 2) (t : Bool) (p : BitVec 2) (c : BitVec 7) (tc : Bool) (ty : Ty) (rt : Bool) (disp : BitVec 13)
  /-- ATOM_CAS, R282. -/
  | atomCas (d : BitVec 7) (w : BitVec 6) (i : BitVec 7) (f : BitVec 2) (t : Bool) (p : BitVec 2) (c : BitVec 7) (tc : Bool) (ty : Ty) (disp : BitVec 13)
  /-- ATOM_INCWRAP, R282. -/
  | atomIncwrap (d : BitVec 7) (w : BitVec 6) (i : BitVec 7) (f : BitVec 2) (t : Bool) (p : BitVec 2) (c : BitVec 7) (tc : Bool) (ty : Ty) (rt : Bool) (disp : BitVec 13)
  /-- ATOMD_ADD, R284. -/
  | atomdAdd (w : BitVec 6) (i : BitVec 7) (f : BitVec 2) (t : Bool) (p : BitVec 2) (c : BitVec 7) (tc : Bool) (ty : Ty) (disp : BitVec 13)
  /-- ATOMD_MIN, R284. -/
  | atomdMin (w : BitVec 6) (i : BitVec 7) (f : BitVec 2) (t : Bool) (p : BitVec 2) (c : BitVec 7) (tc : Bool) (ty : Ty) (disp : BitVec 13)
  /-- ATOMD_MAX, R284. -/
  | atomdMax (w : BitVec 6) (i : BitVec 7) (f : BitVec 2) (t : Bool) (p : BitVec 2) (c : BitVec 7) (tc : Bool) (ty : Ty) (disp : BitVec 13)
  /-- ATOMD_AND, R284. -/
  | atomdAnd (w : BitVec 6) (i : BitVec 7) (f : BitVec 2) (t : Bool) (p : BitVec 2) (c : BitVec 7) (tc : Bool) (ty : Ty) (disp : BitVec 13)
  /-- ATOMD_OR, R284. -/
  | atomdOr (w : BitVec 6) (i : BitVec 7) (f : BitVec 2) (t : Bool) (p : BitVec 2) (c : BitVec 7) (tc : Bool) (ty : Ty) (disp : BitVec 13)
  /-- ATOMD_XOR, R284. -/
  | atomdXor (w : BitVec 6) (i : BitVec 7) (f : BitVec 2) (t : Bool) (p : BitVec 2) (c : BitVec 7) (tc : Bool) (ty : Ty) (disp : BitVec 13)
  /-- ATOMD_INCWRAP, R284. -/
  | atomdIncwrap (w : BitVec 6) (i : BitVec 7) (f : BitVec 2) (t : Bool) (p : BitVec 2) (c : BitVec 7) (tc : Bool) (ty : Ty) (disp : BitVec 13)
  /-- CRDECL, R285. -/
  | crdecl (a b : BitVec 6) (ta tb : Bool) (cop : BitVec 4)
  /-- CRADD, R286. -/
  | cradd (d : BitVec 7) (w : BitVec 6) (i : BitVec 7) (f : BitVec 2) (t : Bool) (p : BitVec 2) (cop : BitVec 4) (disp : BitVec 13)
  /-- FENCE, R287. -/
  | fence (pm sm : BitVec 6) (sc : BitVec 3) (cum : Bool)
  /-- IFENCE, R288. -/
  | ifence
  /-- CPY, R291. -/
  | cpy (a b : BitVec 6) (ta tb : Bool) (c : BitVec 6) (tc : Bool) (src dst : BitVec 2) (srole drole : BitVec 8) (conv : BitVec 4)
  /-- CPY_MC, R293. -/
  | cpyMc (a b : BitVec 6) (ta tb : Bool) (c : BitVec 6) (tc : Bool) (src dst : BitVec 2) (role : BitVec 8) (set conv : BitVec 4)
  /-- CPY_COLL, R294. -/
  | cpyColl (a b : BitVec 6) (ta tb : Bool) (c : BitVec 6) (tc : Bool) (src : BitVec 2) (salt : BitVec 8) (rm : BitVec 3)
  /-- CBINIT, R296. -/
  | cbinit (a b : BitVec 6) (ta tb : Bool)
  /-- CBWAIT, R298. -/
  | cbwait (d a : BitVec 6) (ta : Bool) (n : BitVec 12)
  /-- CBPOP, R298. -/
  | cbpop (a : BitVec 6) (ta : Bool) (n : BitVec 12)
  /-- CBFREE, R298. -/
  | cbfree (a : BitVec 6) (ta : Bool)
  /-- MRES, R189. -/
  | mres (h : BitVec 4) (wr : BitVec 6) (tc : Bool) (ty : Ty)
  /-- MREL, R189. -/
  | mrel (h : BitVec 4)
  /-- MZERO, R190. -/
  | mzero (s : BitVec 3) (t : BitVec 6)
  /-- MWAIT, R193. -/
  | mwait (s : BitVec 3)
  /-- MWAIT_ALL, R193. -/
  | mwaitAll
  /-- MFMT, R190. -/
  | mfmt (s : BitVec 3) (ty : Ty)
  /-- MSTEP, R190. -/
  | mstep (s : BitVec 3) (ha hb : BitVec 4) (t : BitVec 6)
  /-- MLOOP, R178. -/
  | mloop (s : BitVec 3) (ha hb : BitVec 4) (t wr : BitVec 6) (tc : Bool) (cnt : BitVec 12)
  /-- MRD, R191. -/
  | mrd (s : BitVec 3) (t : BitVec 6) (d : BitVec 7) (row : BitVec 5) (cnt : BitVec 3)
  /-- MWR, R191. -/
  | mwr (s : BitVec 3) (t : BitVec 6) (d : BitVec 7) (tc : Bool) (row : BitVec 5) (cnt : BitVec 3)
  /-- MSKV, R192. -/
  | mskv (s : BitVec 3) (wr : BitVec 6) (tc : Bool) (dep k : BitVec 4) (act : Bool)
  /-- MSAMP, R192. -/
  | msamp (s : BitVec 3) (cnt : BitVec 12)
  /-- RGMAKE, R216. -/
  | rgmake (d a b : BitVec 6) (ta tb : Bool)
  /-- RGDROP, R219. -/
  | rgdrop (d a : BitVec 6) (ta : Bool)
  /-- RGFIT, R217. -/
  | rgfit (d a b : BitVec 6) (ta tb : Bool)
  /-- RGSTAT, R218. -/
  | rgstat (d a : BitVec 6) (ta : Bool)
  /-- PHNEW, R332. -/
  | phnew (d a : BitVec 6) (ta : Bool)
  /-- PHFREE, R332. -/
  | phfree (d a : BitVec 6) (ta : Bool)
  /-- PHREG, R332. -/
  | phreg (d a : BitVec 6) (mode : BitVec 3) (ta : Bool)
  /-- PHDROP, R332. -/
  | phdrop (d a : BitVec 6) (ta : Bool)
  /-- PHSIG, R332. -/
  | phsig (d a : BitVec 6) (ta : Bool)
  /-- PHWAIT, R332. -/
  | phwait (d a : BitVec 6) (ta : Bool)
  /-- PHARR, R332. -/
  | pharr (d a : BitVec 6) (ta : Bool)
  /-- PHBYTES, R332. -/
  | phbytes (d a b : BitVec 6) (ta tb : Bool)
  /-- BAR, R333. -/
  | bar
  /-- BARTO, R334. -/
  | barto (a b : BitVec 6) (ta tb : Bool)
  /-- FLUSHDA, R338. -/
  | flushda
  /-- LKMAT, R350. -/
  | lkmat (d a : BitVec 6) (ta : Bool)
  /-- LKBEGIN, R350. -/
  | lkbegin (d : BitVec 6)
  /-- LKBEGIN_WT, R350. -/
  | lkbeginWt (d : BitVec 6)
  /-- LKEND, R350. -/
  | lkend (d : BitVec 6)
  /-- LKABORT, R350. -/
  | lkabort (d : BitVec 6)
  /-- LKACQ, R350. -/
  | lkacq (d a : BitVec 6) (mode : BitVec 3) (ta : Bool)
  /-- LKTRY, R350. -/
  | lktry (d a : BitVec 6) (mode : BitVec 3) (ta : Bool)
  /-- LKUP, R350. -/
  | lkup (d a : BitVec 6) (mode : BitVec 3) (ta : Bool)
  /-- LKREL, R350. -/
  | lkrel (d a : BitVec 6) (ta : Bool)
  /-- LKSTAT, R350. -/
  | lkstat (d a : BitVec 6) (ta : Bool)
  /-- GO, R356. -/
  | go (off : BitVec 22)
  /-- BR, R356. -/
  | br (off : BitVec 22) (m : BitVec 3)
  /-- CALL, R357. -/
  | call (off : BitVec 22)
  /-- BRX, R356. -/
  | brx (a : BitVec 7) (ta : Bool)
  /-- CALLX, R357. -/
  | callx (a : BitVec 7) (ta : Bool)
  /-- RET, R358. -/
  | ret (a : BitVec 7) (ta : Bool)
  /-- EXIT, R359. -/
  | exit
  /-- YIELD, R360. -/
  | yield
  /-- NOP, R362. -/
  | nop
  /-- LAUNCH, R363. -/
  | launch (d a : BitVec 6) (ta : Bool)
  /-- JOIN, R364. -/
  | join (d a : BitVec 6) (ta : Bool)
  /-- TRAP, R429. -/
  | trap (a : BitVec 6) (ta : Bool)
  /-- TRAP_S, R429. -/
  | trapS (a : BitVec 6) (ta : Bool)
  /-- BRK, R429. -/
  | brk
  /-- TRET, R429. -/
  | tret
  /-- SRD, R412. -/
  | srd (d : BitVec 6) (lv : BitVec 2) (sl : BitVec 8)
  /-- SRD_LANEID, R412. -/
  | srdLaneid (d : BitVec 7)
  /-- SWR, R412. -/
  | swr (a : BitVec 6) (ta : Bool) (lv : BitVec 2) (sl : BitVec 8)
  /-- SKEY, R413. -/
  | skey (a : BitVec 6) (ta : Bool) (c : BitVec 7) (tc : Bool)
  /-- TLBINV, R406. -/
  | tlbinv (a b : BitVec 6) (ta tb : Bool)
  /-- VACATE, R437. -/
  | vacate (d a b : BitVec 6) (ta tb : Bool)
  /-- TOKQ, R394. -/
  | tokq (d a : BitVec 6) (ta : Bool)
  /-- HALTWG, R437. -/
  | haltwg (d a b : BitVec 6) (ta tb : Bool)
  deriving DecidableEq, Repr

end Sys2Proof
end

