-- ==== Sys2Proof/Machine/Flags.lean ====
section
/-!
DEFINITION. Every arithmetic and flag computation of spec/05_number_formats.md: integers (R100, R101), the IEEE
formats (R102-R104), rounding (R105-R107), exceptions (R108-R110), narrow formats (R114-R118), S20 scales (R119-R121);
and Philox (R145).
-/

namespace Sys2Proof.Machine

/-! ### Integers -/

/-- The number that a source of integer type `t` holds: its low bits, signed or natural (R100, R130). -/
def intOf (t : Ty) (x : W64) : Int :=
  if t.isSigned then (x.setWidth t.width).toInt else (x.setWidth t.width).toNat

/-- `wrap` into the type, extended to a register image as R100 says. -/
def wrapTo (t : Ty) (z : Int) : W64 :=
  let y := BitVec.ofInt t.width z
  if t.isSigned then y.signExtend 64 else y.setWidth 64

/-- The register image of the low bits of a raw string (R100). -/
def imageOf (t : Ty) (x : W64) : W64 :=
  let y := x.setWidth t.width
  if t.isSigned then y.signExtend 64 else y.setWidth 64

/-- The least number of an integer type. -/
def intMin (t : Ty) : Int := if t.isSigned then -(2 ^ (t.width - 1) : Int) else 0
/-- The greatest number of an integer type. -/
def intMax (t : Ty) : Int := if t.isSigned then (2 ^ (t.width - 1) : Int) - 1 else (2 ^ t.width : Int) - 1

/-- `sat_s` or `sat_n` of the exact result (R97, R101). -/
def satTo (t : Ty) (z : Int) : W64 := wrapTo t (max (intMin t) (min (intMax t) z))

/-- The number of leading zeros of the low `k` bits. -/
def clzK (k : Nat) (x : W64) : Nat :=
  let n := x.toNat % 2 ^ k
  if n = 0 then k else k - 1 - n.log2
/-- The number of ones among the low `k` bits. -/
def popK (k : Nat) (x : W64) : Nat := ((List.range k).filter fun i => x.getLsbD i).length
/-- The low `k` bits in reverse order. -/
def brevK (k : Nat) (x : W64) : W64 :=
  BitVec.ofNat 64 <| (List.range k).foldl (fun acc i => acc + if x.getLsbD i then 2 ^ (k - 1 - i) else 0) 0

/-- Shift left by a count below the width (R125, R130). -/
def shlK (t : Ty) (x : W64) (c : Nat) : W64 := imageOf t (x <<< c)
/-- Logical shift right of the low bits. -/
def shrK (t : Ty) (x : W64) (c : Nat) : W64 := imageOf t (((x.setWidth t.width) >>> c).setWidth 64)
/-- Arithmetic shift right of the low bits: copies of the top bit come in. -/
def sarK (t : Ty) (x : W64) (c : Nat) : W64 := imageOf t (((x.setWidth t.width).sshiftRight c).setWidth 64)
/-- Rotation left of the low bits. -/
def rotK (t : Ty) (x : W64) (c : Nat) : W64 := imageOf t (((x.setWidth t.width).rotateLeft c).setWidth 64)

/-- A bit field of `n` bits from bit `p`, extended as the type says (R130, BFE). -/
def bfeK (t : Ty) (x : W64) (p n : Nat) : W64 :=
  let f := (x >>> p).setWidth n
  imageOf t (if t.isSigned then f.signExtend 64 else f.setWidth 64)
/-- `x` with `n` bits from bit `p` replaced by the low bits of `y` (R130, BFI). -/
def bfiK (t : Ty) (x y : W64) (p n : Nat) : W64 :=
  let mask : W64 := BitVec.ofNat 64 ((2 ^ n - 1) * 2 ^ p)
  imageOf t ((x &&& ~~~mask) ||| ((y <<< p) &&& mask))

/-- The conditions of CMP by code: 0 EQ, 1 NE, 2 LT, 3 LE, 4 GT, 5 GE (R129). -/
def condInt (c : Nat) (a b : Int) : Bool :=
  match c with
  | 0 => a == b
  | 1 => a != b
  | 2 => decide (a < b)
  | 3 => decide (a ≤ b)
  | 4 => decide (b < a)
  | _ => decide (b ≤ a)

/-! ### Philox -/

/-- One round of Philox4x32 (R145). -/
def philoxRound (c : W32 × W32 × W32 × W32) (k0 k1 : W32) : W32 × W32 × W32 × W32 :=
  let p : W64 := 0xD2511F53#64 * c.1.setWidth 64
  let q : W64 := 0xCD9E8D57#64 * c.2.2.1.setWidth 64
  (q.extractLsb' 32 32 ^^^ c.2.1 ^^^ k0, q.setWidth 32, p.extractLsb' 32 32 ^^^ c.2.2.2 ^^^ k1, p.setWidth 32)

/-- The rounds of Philox4x32 that remain. -/
def philoxLoop : Nat → W32 × W32 × W32 × W32 → W32 → W32 → W32 × W32 × W32 × W32
  | 0, c, _, _ => c
  | n + 1, c, k0, k1 => philoxLoop n (philoxRound c k0 k1) (k0 + 0x9E3779B9#32) (k1 + 0xBB67AE85#32)

/-- Philox4x32-10 with the key taken from a 64-bit seed (R145, R146). -/
def philox (c0 c1 c2 c3 : W32) (seed : W64) : W32 × W32 × W32 × W32 :=
  philoxLoop 10 (c0, c1, c2, c3) (seed.setWidth 32) (seed.extractLsb' 32 32)

/-- Output word `j` of a Philox result. -/
def philoxWord (y : W32 × W32 × W32 × W32) (j : Nat) : W32 :=
  match j with
  | 0 => y.1
  | 1 => y.2.1
  | 2 => y.2.2.1
  | _ => y.2.2.2

/-! ### Exceptions -/

/-- Flag bits, placed as the sticky bits of `sr.fpctl` (R108). -/
abbrev FlagBits := BitVec 6
/-- Inexact. -/
def fNX : FlagBits := 1
/-- Underflow. -/
def fUF : FlagBits := 2
/-- Overflow. -/
def fOF : FlagBits := 4
/-- Division by zero. -/
def fDZ : FlagBits := 8
/-- Invalid operation. -/
def fNV : FlagBits := 16
/-- NaN produced. -/
def fNP : FlagBits := 32

/-- A flag word when a condition holds. -/
def flagIf (c : Bool) (f : FlagBits) : FlagBits := if c then f else 0

/-- The trap that a set of conditions raises under `sr.fpctl`: the first of FP-NAN, FP-INVALID, FP-DIVZERO and
FP-OVERFLOW that occurs and is enabled (R110). -/
def fpTrap (fpctl : W32) (f : FlagBits) : Option Cause :=
  if f.getLsbD 5 && fpctl.getLsbD 10 then some .fpNan
  else if f.getLsbD 4 && fpctl.getLsbD 9 then some .fpInvalid
  else if f.getLsbD 3 && fpctl.getLsbD 8 then some .fpDivzero
  else if f.getLsbD 2 && fpctl.getLsbD 7 then some .fpOverflow
  else none

/-- The flag bit that a floating-point cause stands for. -/
def causeFlag : Cause → FlagBits
  | .fpNan => fNP
  | .fpInvalid => fNV
  | .fpDivzero => fDZ
  | _ => fOF

/-- `sr.fpctl` with conditions ORed into its sticky bits (R110, R111). -/
def orFlags (fpctl : W32) (f : FlagBits) : W32 := fpctl ||| f.setWidth 32

/-! ### Values and formats -/

/-- A floating-point value: a NaN, signalling or quiet; an infinity; or a finite magnitude with its sign. -/
inductive FVal where
  | nan (signalling : Bool)
  | inf (neg : Bool)
  | fin (neg : Bool) (q : Rat)
  deriving DecidableEq, Repr

/-- The sign of a value; a NaN has none. -/
def FVal.neg? : FVal → Bool
  | .nan _ => false
  | .inf n => n
  | .fin n _ => n
/-- Whether the value is a NaN. -/
def FVal.isNan : FVal → Bool
  | .nan _ => true
  | _ => false
/-- Whether the value is a signalling NaN. -/
def FVal.isSnan : FVal → Bool
  | .nan s => s
  | _ => false
/-- Whether the value is a zero. -/
def FVal.isZero : FVal → Bool
  | .fin _ q => q == 0
  | _ => false
/-- The finite value as a signed rational; 0 for the others. -/
def FVal.toRat : FVal → Rat
  | .fin n q => if n then -q else q
  | _ => 0
/-- The value with its sign inverted. -/
def FVal.negate : FVal → FVal
  | .nan s => .nan s
  | .inf n => .inf (!n)
  | .fin n q => .fin (!n) q
/-- The value with its sign cleared. -/
def FVal.abs : FVal → FVal
  | .nan s => .nan s
  | .inf _ => .inf false
  | .fin _ q => .fin false q

/-- The grid of a format: precision, exponent of the smallest normal number, largest finite magnitude; a format with
E = 0 has one fixed-point step in place of both (R106, R117). -/
structure Grid where
  p : Nat
  emin : Int
  max : Rat
  fixed : Bool
  deriving DecidableEq, Repr

/-- Exponent and fraction bits of an IEEE type (R102). -/
def Ty.ebits : Ty → Nat
  | .f64 => 11
  | .f32 | .bf16 => 8
  | _ => 5
/-- Fraction bits of an IEEE type (R102). -/
def Ty.mbits : Ty → Nat
  | .f64 => 52
  | .f32 => 23
  | .bf16 => 7
  | _ => 10
/-- The exponent bias of an IEEE type (R102). -/
def Ty.bias (t : Ty) : Nat := 2 ^ (Ty.ebits t - 1) - 1
/-- The canonical NaN of an IEEE type (R102). -/
def canonNan : Ty → W64
  | .f64 => 0x7FF8000000000000#64
  | .f32 => 0x7FC00000#64
  | .bf16 => 0x7FC0#64
  | _ => 0x7E00#64
/-- The bit of `sr.fpctl` that flushes a type (R108). -/
def flushBit : Ty → Nat
  | .f64 => 15
  | .f32 => 14
  | .f16 => 13
  | _ => 12
/-- Whether `sr.fpctl` flushes a type (R104). -/
def flushes (fpctl : W32) (t : Ty) : Bool := fpctl.getLsbD (flushBit t)

/-- The grid of an IEEE type. -/
def gridOf (t : Ty) : Grid where
  p := Ty.mbits t + 1
  emin := 1 - (Ty.bias t : Int)
  max := pow2 (Ty.bias t) * (2 - pow2 (-(Ty.mbits t : Int)))
  fixed := false

/-- The value that bits of an IEEE type hold (R102, R103). -/
def decodeF (t : Ty) (bits : W64) : FVal :=
  let m := Ty.mbits t
  let e := Ty.ebits t
  let n := bits.toNat
  let f := n % 2 ^ m
  let x := n / 2 ^ m % 2 ^ e
  let s := n / 2 ^ (m + e) % 2 == 1
  if x = 2 ^ e - 1 then
    if f = 0 then .inf s else .nan (decide (f < 2 ^ (m - 1)))
  else if x = 0 then .fin s (f * pow2 (1 - (Ty.bias t : Int) - m))
  else .fin s ((2 ^ m + f : Nat) * pow2 ((x : Int) - Ty.bias t - m))

/-- A subnormal value read under a flush bit is a zero of its sign (R104). -/
def flushIn (t : Ty) (fl : Bool) (x : FVal) : FVal :=
  match x with
  | .fin n q => if fl && decide (q < pow2 (gridOf t).emin) then .fin n 0 else x
  | _ => x

/-- The exponent e with 2^e ≤ q < 2^(e+1), for a positive rational. -/
def ilog2 (q : Rat) : Int :=
  let e : Int := (q.num.natAbs.log2 : Int) - q.den.log2
  if q < pow2 e then e - 1 else e

/-- The bits of an IEEE type that hold a value on its grid; NaN is the canonical one (R103). -/
def encodeF (t : Ty) (x : FVal) : W64 :=
  let m := Ty.mbits t
  let e := Ty.ebits t
  let sign (n : Bool) : Nat := if n then 2 ^ (m + e) else 0
  match x with
  | .nan _ => canonNan t
  | .inf n => BitVec.ofNat 64 (sign n + (2 ^ e - 1) * 2 ^ m)
  | .fin n q =>
    if q = 0 then BitVec.ofNat 64 (sign n)
    else
      let ex := max (ilog2 q) (gridOf t).emin
      let sig := (q / pow2 (ex - m)).floor.natAbs
      if sig < 2 ^ m then BitVec.ofNat 64 (sign n + sig)
      else BitVec.ofNat 64 (sign n + (ex + Ty.bias t).toNat * 2 ^ m + (sig - 2 ^ m))

/-! ### Rounding -/

/-- The rounding modes of R105; stochastic rounding carries the drawn value of R107. -/
inductive Mode where
  | rne | rtz | rdn | rup | sr (u : Nat)
  deriving DecidableEq, Repr

/-- The mode of a rounding code under `sr.fpctl`; code 5 is the dynamic one (R105, R108). -/
def modeOf (fpctl : W32) (rm : BitVec 3) : Mode :=
  let c := if rm == 5 then (fpctl.extractLsb' 16 2).toNat else rm.toNat
  match c with
  | 1 => .rtz
  | 2 => .rdn
  | 3 => .rup
  | _ => .rne

/-- The draw of R107 for element `i`, salt and seed. -/
def srDraw (seed : W64) (i : W64) (salt : W32) : Mode :=
  let j := i >>> 2
  let y := philox (j.setWidth 32) (j.extractLsb' 32 32) salt 0x53520001#32 seed
  .sr (philoxWord y (i.toNat % 4)).toNat

/-- A magnitude rounded to a whole number of steps. -/
def roundStep (mode : Mode) (neg : Bool) (q step : Rat) : Rat :=
  let y := q / step
  let n := y.floor
  let r := y - n
  let up : Bool :=
    if r = 0 then false else
    match mode with
    | .rne => decide (1 / 2 < r) || (decide (r = 1 / 2) && n % 2 == 1)
    | .rtz => false
    | .rdn => neg
    | .rup => !neg
    | .sr u => decide ((u : Int) < (r * (2 ^ 32 : Nat)).floor)
  ((if up then n + 1 else n : Int) : Rat) * step

/-- A magnitude rounded to a precision with unbounded exponent range (R106 step 1). -/
def roundFree (p : Nat) (mode : Mode) (neg : Bool) (q : Rat) : Rat :=
  if q = 0 then 0 else roundStep mode neg q (pow2 (ilog2 q - (p - 1)))

/-- The result of rounding a magnitude into a grid: overflow, or a magnitude of the grid, with the conditions. -/
inductive Rounded where
  | over
  | mag (q : Rat) (flags : FlagBits)
  deriving DecidableEq, Repr

/-- The magnitude that R106 or R107 gives for a nonzero exact magnitude, before the overflow answer of the format. -/
def roundMag (g : Grid) (flush : Bool) (mode : Mode) (neg : Bool) (q : Rat) : Rounded :=
  if q = 0 then .mag 0 0
  else if g.fixed then
    let r := roundStep mode neg q (pow2 g.emin)
    if (match mode with
        | .sr _ => decide (g.max < q)
        | _ => decide (g.max < r)) then .over
    else .mag r (flagIf (r != q) fNX ||| flagIf (r != q && decide (q < pow2 g.emin)) fUF)
  else
    match mode with
    | .sr _ =>
      if g.max < q then .over
      else
        let r := roundStep mode neg q (pow2 (max (ilog2 q) g.emin - (g.p - 1)))
        let r' := if flush && decide (r < pow2 g.emin) then 0 else r
        .mag r' (flagIf (r' != q) fNX ||| flagIf (r' != q && decide (q < pow2 g.emin)) fUF)
    | _ =>
      let r := roundFree g.p mode neg q
      if g.max < r then .over
      else if r < pow2 g.emin then
        if flush then .mag 0 (fUF ||| fNX)
        else
          let r' := roundStep mode neg q (pow2 (g.emin - (g.p - 1)))
          .mag r' (flagIf (r' != q) (fUF ||| fNX))
      else .mag r (flagIf (r != q) fNX)

/-- Whether an overflow gives the largest finite magnitude rather than infinity (R106 step 2). -/
def overToMax (mode : Mode) (neg : Bool) : Bool :=
  match mode with
  | .rtz => true
  | .rdn => !neg
  | .rup => neg
  | _ => false

/-- A finite exact value rounded into an IEEE type (R104, R106, R107). -/
def roundTo (t : Ty) (flush : Bool) (mode : Mode) (neg : Bool) (q : Rat) : FVal × FlagBits :=
  match roundMag (gridOf t) flush mode neg q with
  | .over => (if overToMax mode neg then .fin neg (gridOf t).max else .inf neg, fOF ||| fNX)
  | .mag r f => (.fin neg r, f)

/-- A signed rational rounded into an IEEE type; an exact zero takes the sign given. -/
def roundRat (t : Ty) (flush : Bool) (mode : Mode) (zeroNeg : Bool) (x : Rat) : FVal × FlagBits :=
  if x = 0 then (.fin zeroNeg 0, 0) else roundTo t flush mode (decide (x < 0)) |x|

/-! ### Arithmetic -/

/-- The exact outcome of an operation before rounding (R153): a propagated NaN with NV when signalling, an invalid
operation, an infinity, an exact rational whose zero has the sign given. -/
inductive Exact where
  | propagated (nv : Bool)
  | invalid
  | infinite (neg : Bool) (dz : Bool)
  | real (x : Rat) (zeroNeg : Bool)
  deriving DecidableEq, Repr

/-- The exact outcome, rounded (R153). -/
def finish (t : Ty) (flush : Bool) (mode : Mode) (x : Exact) : FVal × FlagBits :=
  match x with
  | .propagated nv => (.nan false, flagIf nv fNV)
  | .invalid => (.nan false, fNV ||| fNP)
  | .infinite n dz => (.inf n, flagIf dz fDZ)
  | .real r z => roundRat t flush mode z r

/-- The sign of an exact zero sum or difference: +0, but −0 under RDN (R153). -/
def zeroSumSign (mode : Mode) : Bool := mode == .rdn

/-- a + b (R153). -/
def addExact (mode : Mode) (a b : FVal) : Exact :=
  if a.isNan || b.isNan then .propagated (a.isSnan || b.isSnan)
  else match a, b with
    | .inf m, .inf n => if m == n then .infinite m false else .invalid
    | .inf m, _ => .infinite m false
    | _, .inf n => .infinite n false
    | _, _ => .real (a.toRat + b.toRat) (zeroSumSign mode)

/-- a × b (R153). -/
def mulExact (a b : FVal) : Exact :=
  if a.isNan || b.isNan then .propagated (a.isSnan || b.isSnan)
  else match a, b with
    | .inf m, y => if y.isZero then .invalid else .infinite (m != y.neg?) false
    | x, .inf n => if x.isZero then .invalid else .infinite (x.neg? != n) false
    | x, y => .real (x.toRat * y.toRat) (x.neg? != y.neg?)

/-- a ÷ b (R153). -/
def divExact (a b : FVal) : Exact :=
  if a.isNan || b.isNan then .propagated (a.isSnan || b.isSnan)
  else match a, b with
    | .inf m, y => match y with
      | .inf _ => .invalid
      | _ => .infinite (m != y.neg?) y.isZero
    | x, .inf n => .real 0 (x.neg? != n)
    | x, y =>
      if y.isZero then (if x.isZero then .invalid else .infinite (x.neg? != y.neg?) true)
      else .real (x.toRat / y.toRat) (x.neg? != y.neg?)

/-- a × b + c with one rounding (R153); ∞ × 0 sets NV even beside a quiet NaN c. -/
def fmaExact (mode : Mode) (a b c : FVal) : Exact :=
  let infZero : Bool := match a, b with
    | .inf _, y => y.isZero
    | x, .inf _ => x.isZero
    | _, _ => false
  if a.isNan || b.isNan || c.isNan then .propagated (a.isSnan || b.isSnan || c.isSnan || infZero)
  else if infZero then .invalid
  else
    let pn := a.neg? != b.neg?
    let pInf : Bool := match a, b with
      | .inf _, _ => true
      | _, .inf _ => true
      | _, _ => false
    match pInf, c with
    | true, .inf n => if pn == n then .infinite pn false else .invalid
    | true, _ => .infinite pn false
    | false, .inf n => .infinite n false
    | false, _ =>
      .real (a.toRat * b.toRat + c.toRat) (zeroSumSign mode)

/-- √q to more bits than any format has, with a sticky bit when it is not exact: rounding it gives what rounding the
exact root gives. -/
def sqrtRat (q : Rat) : Rat :=
  let k : Nat := 2 * 80 + 2 * ((ilog2 q).natAbs / 2 + 1)
  let n := (q * (2 ^ (2 * k) : Nat)).floor.natAbs
  let r := n.sqrt
  let exact : Bool := decide ((r : Rat) * r = q * (2 ^ (2 * k) : Nat))
  ((r : Rat) + (if exact then 0 else 1 / 2)) / (2 ^ k : Nat)

/-- √a (R153). -/
def sqrtExact (a : FVal) : Exact :=
  match a with
  | .nan s => .propagated s
  | .inf true => .invalid
  | .inf false => .infinite false false
  | .fin n q => if q = 0 then .real 0 n else if n then .invalid else .real (sqrtRat q) false

/-- a < b for FMIN and FMAX, with −0 below +0 (R154). -/
def lessF (a b : FVal) : Bool :=
  let rank : FVal → Int := fun x => match x with
    | .inf true => -1
    | .inf false => 1
    | _ => 0
  if rank a != rank b then decide (rank a < rank b)
  else if a.toRat = b.toRat then a.neg? && !b.neg?
  else decide (a.toRat < b.toRat)

/-- FMIN and FMAX (R154): a lone NaN gives way, two give the canonical NaN, a signalling NaN sets NV. -/
def minMaxF (isMax : Bool) (a b : FVal) : FVal × FlagBits :=
  let f := flagIf (a.isSnan || b.isSnan) fNV
  if a.isNan && b.isNan then (.nan false, f)
  else if a.isNan then (b, f)
  else if b.isNan then (a, f)
  else (if lessF a b != isMax then a else b, f)

/-- The conditions of FCMP by code (R156): the answer and NV. -/
def condF (c : Nat) (a b : FVal) : Bool × FlagBits :=
  let un := a.isNan || b.isNan
  let sn := a.isSnan || b.isSnan
  let rank : FVal → Int := fun x => match x with
    | .inf true => -1
    | .inf false => 1
    | _ => 0
  let eq : Bool := !un && rank a == rank b && decide (a.toRat = b.toRat)
  let lt : Bool := !un && (if rank a == rank b then decide (a.toRat < b.toRat) else decide (rank a < rank b))
  match c with
  | 0 => (eq, flagIf sn fNV)
  | 1 => (!eq, flagIf sn fNV)
  | 2 => (lt, flagIf un fNV)
  | 3 => (lt || eq, flagIf un fNV)
  | 4 => (!un && !lt && !eq, flagIf un fNV)
  | 5 => (!un && !lt, flagIf un fNV)
  | 6 => (un, flagIf sn fNV)
  | _ => (!un, flagIf sn fNV)

/-- The class bit of FCLASS (R157), from the raw bits. -/
def classF (t : Ty) (bits : W64) : Nat :=
  match decodeF t bits with
  | .inf true => 0
  | .inf false => 7
  | .nan true => 8
  | .nan false => 9
  | .fin n q =>
    if q = 0 then (if n then 3 else 4)
    else if q < pow2 (gridOf t).emin then (if n then 2 else 5)
    else (if n then 1 else 6)

/-! ### Approximate functions (R155) -/

/-- 2^(2^-i) for i = 1, 2, ... as 256-bit fractions, by repeated square roots. -/
def rootTable : Nat → Nat → List Nat
  | 0, _ => []
  | n + 1, x => let r := (x * 2 ^ 256).sqrt
    r :: rootTable n r

/-- 2^f for a fraction f with 160 bits, as a 256-bit fraction. -/
def exp2Frac (f : Nat) : Nat :=
  ((rootTable 160 (2 ^ 257)).zipIdx).foldl
    (fun acc e => if f.testBit (159 - e.2) then acc * e.1 / 2 ^ 256 else acc) (2 ^ 256)

/-- 2^x, to some 240 bits; a source of any type has its fraction in 160 bits. -/
def exp2Rat (x : Rat) : Rat :=
  let n := x.floor
  let f := ((x - n) * (2 ^ 160 : Nat)).floor.natAbs
  ((exp2Frac f : Nat) : Rat) / (2 ^ 256 : Nat) * pow2 n

/-- The bits of log2 of a number of [1, 2) held as a 128-bit fraction, by repeated squaring. -/
def log2Bits : Nat → Nat → Nat → Nat
  | 0, _, acc => acc
  | n + 1, y, acc =>
    let z := y * y / 2 ^ 128
    if 2 ^ 129 ≤ z then log2Bits n (z / 2) (2 * acc + 1) else log2Bits n z (2 * acc)

/-- log2 of a positive number, to some 90 bits. -/
def log2Rat (q : Rat) : Rat :=
  let e := ilog2 q
  let y := (q / pow2 e * (2 ^ 128 : Nat)).floor.natAbs
  e + ((log2Bits 100 y 0 : Nat) : Rat) / (2 ^ 100 : Nat)

/-- A value of a type that the part may answer within a bound of the exact result, as the opaque choice of Config says: any
that lies within it is on offer; else the correctly rounded one (R155, log 10). -/
def approxPick (t : Ty) (flush : Bool) (op : Nat) (bits : W64) (bound x : Rat) (base : FVal) : FVal :=
  let c := decodeF t (BitVec.ofNat 64 (Config.ulpPick op t.code.toNat bits.toNat % 2 ^ t.width))
  match c with
  | .fin n q =>
    if |(if n then -q else q) - x| ≤ bound && !(flush && decide (0 < q) && decide (q < pow2 (gridOf t).emin)) then c
    else base
  | _ => base

/-- One of the results within `bound` ulps of the exact one (R155). One whose exact value overflows is +∞. -/
def approx (t : Ty) (flush : Bool) (op : Nat) (bits : W64) (bound : Nat) (x : Rat) : FVal × FlagBits :=
  if x = 0 then (.fin false 0, 0) else
  let neg := decide (x < 0)
  let q := |x|
  let g := gridOf t
  let u := pow2 (max (ilog2 q) g.emin - (g.p - 1))
  let base := roundStep .rne neg q u
  if g.max < base then (.inf false, fOF ||| fNX)
  else if q < pow2 g.emin then
    (if flush then .fin neg 0 else approxPick t flush op bits (bound * u) x (.fin neg base), fUF ||| fNX)
  else (approxPick t flush op bits (bound * u) x (.fin neg base), fNX)

/-- One of the results within the absolute bound 2^-(p-1) that FLOG2.A has for a source in [0.5, 2] (R155, log 10); under the
flush bit none is subnormal (R104). -/
def approxAbs (t : Ty) (flush : Bool) (op : Nat) (bits : W64) (x : Rat) : FVal × FlagBits :=
  (approxPick t flush op bits (pow2 (1 - (gridOf t).p)) x (roundRat t flush .rne false x).1, fNX)

/-- Whether a positive rational is a power of two. -/
def isPow2 (q : Rat) : Bool := decide (q = pow2 (ilog2 q))

/-- FRCP.A (R155). -/
def rcpA (t : Ty) (flush : Bool) (bits : W64) (a : FVal) : FVal × FlagBits :=
  match a with
  | .nan s => (.nan false, flagIf s fNV)
  | .inf n => (.fin n 0, 0)
  | .fin n q =>
    if q = 0 then (.inf n, fDZ)
    else
      let r := roundTo t flush .rne n (1 / q)
      if isPow2 q && r.2 == 0 then r else approx t flush 1 bits 1 (if n then -(1 / q) else 1 / q)

/-- FRSQ.A (R155). -/
def rsqA (t : Ty) (flush : Bool) (bits : W64) (a : FVal) : FVal × FlagBits :=
  match a with
  | .nan s => (.nan false, flagIf s fNV)
  | .inf n => if n then (.nan false, fNV ||| fNP) else (.fin false 0, 0)
  | .fin n q =>
    if q = 0 then (.inf n, fDZ)
    else if n then (.nan false, fNV ||| fNP)
    else if isPow2 q && ilog2 q % 2 == 0 then roundTo t flush .rne false (pow2 (-(ilog2 q) / 2))
    else approx t flush 2 bits 2 (sqrtRat (1 / q))

/-- FEXP2.A (R155). A source beyond any format's exponents overflows, or underflows: its exact result is then below every
half step of any type, as 2^-4096 is. -/
def exp2A (t : Ty) (flush : Bool) (bits : W64) (a : FVal) : FVal × FlagBits :=
  match a with
  | .nan s => (.nan false, flagIf s fNV)
  | .inf n => if n then (.fin false 0, 0) else (.inf false, 0)
  | .fin n q =>
    let x : Rat := if n then -q else q
    if q = 0 then (.fin false 1, 0)
    else if 2 ^ 12 ≤ q then (if n then approx t flush 3 bits 2 (pow2 (-4096)) else (.inf false, fOF ||| fNX))
    else
      let r := roundTo t flush .rne false (pow2 x.num)
      if x.den = 1 && r.2 == 0 then r else approx t flush 3 bits 2 (exp2Rat x)

/-- FLOG2.A (R155). -/
def log2A (t : Ty) (flush : Bool) (bits : W64) (a : FVal) : FVal × FlagBits :=
  match a with
  | .nan s => (.nan false, flagIf s fNV)
  | .inf n => if n then (.nan false, fNV ||| fNP) else (.inf false, 0)
  | .fin n q =>
    if q = 0 then (.inf true, fDZ)
    else if n then (.nan false, fNV ||| fNP)
    else if isPow2 q then (.fin (decide (ilog2 q < 0)) (((ilog2 q).natAbs : Nat) : Rat), 0)
    else if 1 / 2 ≤ q ∧ q ≤ 2 then approxAbs t flush 4 bits (log2Rat q)
    else approx t flush 4 bits 2 (log2Rat q)

/-! ### Narrow formats (R114-R118) -/

/-- The fields of a narrow-format descriptor (R114). -/
structure Narrow where
  s : Nat
  e : Nat
  m : Nat
  bias : Int
  specials : Nat
  sub : Bool
  sat : Bool
  deriving DecidableEq, Repr

/-- The fields of a descriptor word. -/
def narrowOf (d : W32) : Narrow where
  s := (d.extractLsb' 31 1).toNat
  e := (d.extractLsb' 28 3).toNat
  m := (d.extractLsb' 25 3).toNat
  bias := (d.extractLsb' 17 8).toInt
  specials := (d.extractLsb' 15 2).toNat
  sub := d.getLsbD 14
  sat := d.getLsbD 13

/-- Whether a descriptor passes R115. -/
def narrowOk (d : W32) : Bool :=
  let n := narrowOf d
  decide (1 ≤ n.s + n.e + n.m) && decide (n.s + n.e + n.m ≤ 8) && n.e + n.m != 0 && n.specials != 3
    && !(n.specials == 1 && (decide (n.e < 2) || n.m == 0)) && d.extractLsb' 0 13 == 0

/-- The width of a code, and the slot it takes (R116, R118). -/
def Narrow.width (n : Narrow) : Nat := n.s + n.e + n.m
/-- The slot size in bits (R118). -/
def Narrow.slot (n : Narrow) : Nat := if n.width ≤ 4 then 4 else 8

/-- The largest finite value (R116, R117); 0 where a format has no other. -/
def Narrow.maxFinite (n : Narrow) : Rat :=
  if n.e = 0 then ((2 ^ n.m - 1 - (if n.specials = 2 then 1 else 0) : Nat) : Rat) * pow2 (-n.bias)
  else
    let top : Nat := 2 ^ n.e - 1
    let F : Rat := (2 ^ n.m : Nat)
    if n.specials = 1 then pow2 ((top - 1 : Nat) - n.bias) * (2 - 1 / F)
    else if n.specials = 2 then
      if n.m = 0 then (if top = 1 then 0 else pow2 ((top - 1 : Nat) - n.bias))
      else pow2 (top - n.bias) * (2 - 2 / F)
    else pow2 (top - n.bias) * (2 - 1 / F)

/-- The grid of a narrow format. -/
def Narrow.grid (n : Narrow) : Grid where
  p := n.m + 1
  emin := if n.e = 0 then -n.bias else 1 - n.bias
  max := n.maxFinite
  fixed := n.e == 0

/-- The value of a code (R116); every narrow NaN is quiet. With specials 0b10 and E = 0 the magnitude with f all ones is
the NaN (DEDUCED, log 26). -/
def Narrow.decode (n : Narrow) (code : Nat) : FVal :=
  let c := code % 2 ^ n.width
  let f := c % 2 ^ n.m
  let e := c / 2 ^ n.m % 2 ^ n.e
  let s := n.s == 1 && c / 2 ^ (n.m + n.e) % 2 == 1
  let top := 2 ^ n.e - 1
  if n.e = 0 then (if n.specials = 2 && f == 2 ^ n.m - 1 then .nan false else .fin s (f * pow2 (-n.bias)))
  else if n.specials = 1 && e == top then (if f = 0 then .inf s else .nan false)
  else if n.specials = 2 && e == top && f == 2 ^ n.m - 1 then .nan false
  else if e = 0 then .fin s (if n.sub then f * pow2 (1 - n.bias - n.m) else 0)
  else .fin s ((2 ^ n.m + f : Nat) * pow2 ((e : Int) - n.bias - n.m))

/-- The code of a magnitude on the grid with a sign. -/
def Narrow.codeOf (n : Narrow) (neg : Bool) (q : Rat) : Nat :=
  let sg := if n.s = 1 && neg then 2 ^ (n.m + n.e) else 0
  if n.e = 0 then sg + (q * pow2 n.bias).floor.natAbs
  else if q = 0 then sg
  else
    let ex := max (ilog2 q) (1 - n.bias)
    let sig := (q / pow2 (ex - n.m)).floor.natAbs
    if sig < 2 ^ n.m then sg + sig else sg + (ex + n.bias).toNat * 2 ^ n.m + (sig - 2 ^ n.m)

/-- The format's answer to a NaN input (R117). -/
def Narrow.nanAnswer (n : Narrow) : Nat × FlagBits :=
  if n.specials = 1 then ((2 ^ n.e - 1) * 2 ^ n.m + 2 ^ (n.m - 1), 0)
  else if n.specials = 2 then (2 ^ (n.m + n.e) - 1, 0)
  else (0, fNV)

/-- The format's answer to an overflow (R106 step 2, R117); a NaN code is produced, not propagated (R109). Under SR it
is that of RNE (R107). -/
def Narrow.overAnswer (n : Narrow) (mode : Mode) (neg : Bool) : Nat × FlagBits :=
  if n.sat || n.specials == 0 || overToMax mode neg then (n.codeOf neg n.maxFinite, 0)
  else if n.specials = 1 then ((if n.s = 1 && neg then 2 ^ (n.m + n.e) else 0) + (2 ^ n.e - 1) * 2 ^ n.m, 0)
  else (2 ^ (n.m + n.e) - 1, fNP)

/-- A value rounded into a narrow format (R117). An infinite input is an overflow in the mode of the rounding (DEDUCED,
log 26). -/
def Narrow.round (n : Narrow) (mode : Mode) (x : FVal) : Nat × FlagBits :=
  match x with
  | .nan s => let (c, f) := n.nanAnswer
    (c, f ||| flagIf s fNV)
  | .inf neg =>
    if n.s = 0 && neg then (0, fNV)
    else
      let r := n.overAnswer mode neg
      (r.1, r.2 ||| fOF)
  | .fin neg q =>
    match roundMag n.grid (!n.sub) mode neg q with
    | .over =>
      if n.s = 0 && neg then (0, fNV)
      else
        let r := n.overAnswer mode neg
        (r.1, r.2 ||| fOF ||| fNX)
    | .mag r f =>
      if n.s = 0 && neg && r != 0 then (0, fNV) else (n.codeOf neg r, f)

/-! ### S20 scales (R119-R121) -/

/-- The value of an S20 scale; exponent 255 has none (R119). -/
def s20 (x : Nat) : Option Rat :=
  let e := x / 4096 % 256
  let f := x % 4096
  if e = 255 then none
  else if e = 0 then some (f * pow2 (-138))
  else some ((4096 + f : Nat) * pow2 ((e : Int) - 139))

/-- The scale for a format whose largest finite value is 0, where R162 states none, with its conditions: a free value, by
format and magnitude (R99, log 8). -/
def freeScale (n : Narrow) (m : FVal) : W32 :=
  Config.freeScale ((n.s * 8 + n.e) * 8 + n.m + 512 * (n.bias + 256).toNat + 2 ^ 20 * n.specials) m.toRat.num.natAbs
    m.toRat.den

/-- The scale that BSCALE computes for a magnitude (R162), with its conditions; `free` is the scale for a format whose
largest finite value is 0. The NaN scale of an infinite magnitude is produced, so that NP is set beside the NV of R162 (R109;
DEDUCED, log 26). The scale of m = 0 differs from the quotient, so that NX is set. -/
def bscale (n : Narrow) (free : W32) (a : FVal) : Nat × FlagBits :=
  match a with
  | .nan _ => (0xFF000, fNV)
  | .inf _ => (0xFF000, fNV ||| fNP)
  | .fin _ m =>
    if m = 0 then (0x7F000, fNX)
    else
      let y := m / n.maxFinite
      let big : Rat := (8191 : Nat) * pow2 115
      if n.maxFinite = 0 then (free.toNat % 2 ^ 20, (free.extractLsb' 20 6) &&& (fOF ||| fNX))
      else if big < y then (0xFEFFF, fOF ||| fNX)
      else if y < pow2 (-138) then (1, fNX)
      else
        let ex := max (ilog2 y) (-126)
        let st := pow2 (ex - 12)
        let r := roundStep .rup false y st
        let ex' := max (ilog2 r) (-126)
        let sig := (r / pow2 (ex' - 12)).floor.natAbs
        (if sig < 4096 then sig else (ex' + 127).toNat * 4096 + (sig - 4096), flagIf (r != y) fNX)

/-- An element under a scale as an exact input (R121, R163): `none` for the invalid case ∞ × 0. -/
def scaled (x : FVal) (sc : Option Rat) : Option FVal :=
  match sc with
  | none => some (.nan false)
  | some k => match x with
    | .nan s => some (.nan s)
    | .inf n => if k = 0 then none else some (.inf n)
    | .fin n q => some (.fin n (q * k))

/-- The quotient of QNT (R163): `none` for the invalid case 0 ÷ 0; DZ for a nonzero element under a zero scale. -/
def quotient (x : FVal) (sc : Option Rat) : Option FVal × FlagBits :=
  match sc with
  | none => (some (.nan x.isSnan), 0)
  | some k => match x with
    | .nan s => (some (.nan s), 0)
    | .inf n => (some (.inf n), 0)
    | .fin n q =>
      if k = 0 then (if q = 0 then (none, 0) else (some (.inf n), fDZ)) else (some (.fin n (q / k)), 0)

/-! ### Conversion (R159) -/

/-- A finite value rounded to an integer by a mode. -/
def roundInt (mode : Mode) (neg : Bool) (q : Rat) : Int :=
  let r := (roundStep mode neg q 1).floor
  if neg then -r else r

/-- Float to integer (R159): out of range gives the nearest bound with NV, NaN gives 0 with NV. -/
def floatToInt (t : Ty) (mode : Mode) (x : FVal) : W64 × FlagBits :=
  match x with
  | .nan _ => (0, fNV)
  | .inf n => (wrapTo t (if n then intMin t else intMax t), fNV)
  | .fin n q =>
    let z := roundInt mode n q
    if z < intMin t then (wrapTo t (intMin t), fNV)
    else if intMax t < z then (wrapTo t (intMax t), fNV)
    else (wrapTo t z, flagIf (decide ((z : Rat) ≠ (if n then -q else q))) fNX)

/-- Float to float (R159): NaN becomes the canonical one, an infinity stays. -/
def floatToFloat (t : Ty) (flush : Bool) (mode : Mode) (x : FVal) : FVal × FlagBits :=
  match x with
  | .nan s => (.nan false, flagIf s fNV)
  | .inf n => (.inf n, 0)
  | .fin n q => roundTo t flush mode n q

end Sys2Proof.Machine
end

