-- ==== Sys2Proof/WellFormed.lean ====
section
/-!
DEFINITION. Well-formedness of an instruction: the rules of spec/04_encoding.md R81 that read no operand value.
-/

namespace Sys2Proof

/-- A memory operand: in form 0b11 the base field is zero and the index names an even pair (R64). -/
def memOk (w : WReg) (i : VReg) (f : BitVec 2) : Bool := f != 3 || (w == 0 && i.toNat % 2 == 0)

/-- The data and index registers of a multi-element access stay within v127 (R274). -/
def multiOk (ty : Ty) (d i : VReg) (f n : BitVec 2) : Bool :=
  decide (d.toNat + n.toNat * (if ty.is64 then 2 else 1) + (if ty.is64 then 1 else 0) ≤ 127)
    && decide (i.toNat + n.toNat * (if f == 3 then 2 else 1) + (if f == 3 then 1 else 0) ≤ 127)

/-- A selector that R411 assigns, with a level field only where the register has a copy for each level (R412). -/
def selOk (sel : BitVec 8) (lv : BitVec 2) : Bool :=
  if sel == 0x0B || (decide (0x10 ≤ sel.toNat) && decide (sel.toNat ≤ 0x15)) then true
  else decide (sel.toNat ≤ 0x0C) && lv == 0

/-- A command packet: the header flit of eight words and up to fifteen more flits (R442). -/
def packetOk (p : Packet) : Bool := decide (8 ≤ p.length) && decide (p.length ≤ 128)

/-- The register-number, type and field rules of R81 that the encoding alone decides, instruction by instruction;
an event carries no encoding, and only its core, slice and packet sizes are checked. -/
def Instr.wellFormed : Instr → Bool
  | .add _ _ _ _ _ _ => true
  | .sub _ _ _ _ _ _ => true
  | .mulLo _ _ _ _ _ _ => true
  | .mulHi _ _ _ _ _ _ => true
  | .min _ _ _ _ _ _ => true
  | .max _ _ _ _ _ _ => true
  | .and _ _ _ _ _ _ => true
  | .or _ _ _ _ _ _ => true
  | .xor _ _ _ _ _ _ => true
  | .andn _ _ _ _ _ _ => true
  | .shl _ _ _ _ _ _ => true
  | .shr _ _ _ _ _ _ => true
  | .sar _ _ _ _ _ _ => true
  | .rot _ _ _ _ _ _ => true
  | .addImm _ _ _ _ _ => true
  | .shlImm _ _ cnt _ _ => decide (cnt.toNat < 32)
  | .shrImm _ _ cnt _ _ => decide (cnt.toNat < 32)
  | .sarImm _ _ cnt _ _ => decide (cnt.toNat < 32)
  | .rotImm _ _ cnt _ _ => decide (cnt.toNat < 32)
  | .abs _ _ _ _ => true
  | .neg _ _ _ _ => true
  | .not _ _ _ _ => true
  | .clz _ _ _ _ => true
  | .popc _ _ _ _ => true
  | .brev _ _ _ _ => true
  | .mov _ _ _ _ => true
  | .addX d a b _ _ _ ty => ty.isInt && ty.evenOk d && ty.evenOk a && ty.evenOk b
  | .subX d a b _ _ _ ty => ty.isInt && ty.evenOk d && ty.evenOk a && ty.evenOk b
  | .mulLoX d a b _ _ _ ty => ty.isInt && ty.evenOk d && ty.evenOk a && ty.evenOk b
  | .mulHiX d a b _ _ _ ty =>
    ty.isInt && ty.evenOk d && ty.evenOk a && ty.evenOk b && ty.isNumber
  | .mad d a b _ _ _ c _ ty =>
    ty.isInt && ty.evenOk d && ty.evenOk a && ty.evenOk b && ty.evenOk c
  | .minX d a b _ _ _ ty =>
    ty.isInt && ty.evenOk d && ty.evenOk a && ty.evenOk b && ty.isNumber
  | .maxX d a b _ _ _ ty =>
    ty.isInt && ty.evenOk d && ty.evenOk a && ty.evenOk b && ty.isNumber
  | .absX d a _ _ ty => ty.isInt && ty.evenOk d && ty.evenOk a && ty.isSigned
  | .negX d a _ _ ty => ty.isInt && ty.evenOk d && ty.evenOk a
  | .andX d a b _ _ _ ty => ty.isInt && ty.evenOk d && ty.evenOk a && ty.evenOk b
  | .orX d a b _ _ _ ty => ty.isInt && ty.evenOk d && ty.evenOk a && ty.evenOk b
  | .xorX d a b _ _ _ ty => ty.isInt && ty.evenOk d && ty.evenOk a && ty.evenOk b
  | .andnX d a b _ _ _ ty => ty.isInt && ty.evenOk d && ty.evenOk a && ty.evenOk b
  | .notX d a _ _ ty => ty.isInt && ty.evenOk d && ty.evenOk a
  | .shlX d a b _ tb _ ty im cnt =>
    ty.isInt && ty.evenOk d && ty.evenOk a && (if im then b == 0 && !tb && decide (cnt.toNat < ty.width) else cnt
      == 0)
  | .shrX d a b _ tb _ ty im cnt =>
    ty.isInt && ty.evenOk d && ty.evenOk a && (if im then b == 0 && !tb && decide (cnt.toNat < ty.width) else cnt
      == 0)
  | .sarX d a b _ tb _ ty im cnt =>
    ty.isInt && ty.evenOk d && ty.evenOk a && (if im then b == 0 && !tb && decide (cnt.toNat < ty.width) else cnt
      == 0)
  | .rotX d a b _ tb _ ty im cnt =>
    ty.isInt && ty.evenOk d && ty.evenOk a && (if im then b == 0 && !tb && decide (cnt.toNat < ty.width) else cnt
      == 0)
  | .clzX d a _ _ ty => ty.isInt && ty.evenOk d && ty.evenOk a
  | .popcX d a _ _ ty => ty.isInt && ty.evenOk d && ty.evenOk a
  | .brevX d a _ _ ty => ty.isInt && ty.evenOk d && ty.evenOk a
  | .bfe d a _ _ ty pos len =>
    ty.isInt && ty.evenOk d && ty.evenOk a && decide (pos.toNat + len.toNat + 1 ≤ ty.width)
  | .bfi d a b _ _ _ ty pos len =>
    ty.isInt && ty.evenOk d && ty.evenOk a && ty.evenOk b && decide (pos.toNat + len.toNat + 1 ≤ ty.width)
  | .sel d a b _ _ _ ty _ => ty.isInt && ty.evenOk d && ty.evenOk a && ty.evenOk b
  | .cmp _ a b _ _ _ ty cond =>
    ty.isInt && ty.evenOk a && ty.evenOk b && decide (cond.toNat < 6) && (ty.isNumber || decide (cond.toNat < 2))
  | .movX d a _ _ ty => ty.isInt && ty.evenOk d && ty.evenOk a
  | .addSat d a b _ _ _ ty =>
    ty.isInt && ty.evenOk d && ty.evenOk a && ty.evenOk b && ty.isNumber
  | .subSat d a b _ _ _ ty =>
    ty.isInt && ty.evenOk d && ty.evenOk a && ty.evenOk b && ty.isNumber
  | .movi _ _ _ => true
  | .litVector d pr hi _ => (if pr then d.toNat % 2 == 0 else hi == 0)
  | .uniformAdd _ _ _ _ _ => true
  | .uniformSub _ _ _ _ _ => true
  | .uniformMulLo _ _ _ _ _ => true
  | .uniformMulHiS _ _ _ _ _ => true
  | .uniformMulHiN _ _ _ _ _ => true
  | .uniformMinS _ _ _ _ _ => true
  | .uniformMinN _ _ _ _ _ => true
  | .uniformMaxS _ _ _ _ _ => true
  | .uniformMaxN _ _ _ _ _ => true
  | .uniformAddSatS _ _ _ _ _ => true
  | .uniformAddSatN _ _ _ _ _ => true
  | .uniformSubSatS _ _ _ _ _ => true
  | .uniformSubSatN _ _ _ _ _ => true
  | .uniformAbs _ _ _ => true
  | .uniformNeg _ _ _ => true
  | .uniformAnd _ _ _ _ _ => true
  | .uniformOr _ _ _ _ _ => true
  | .uniformXor _ _ _ _ _ => true
  | .uniformAndn _ _ _ _ _ => true
  | .uniformNot _ _ _ => true
  | .uniformShl _ _ _ _ _ => true
  | .uniformShr _ _ _ _ _ => true
  | .uniformSar _ _ _ _ _ => true
  | .uniformRot _ _ _ _ _ => true
  | .uniformClz _ _ _ => true
  | .uniformPopc _ _ _ => true
  | .uniformBrev _ _ _ => true
  | .uniformMov _ _ _ => true
  | .uniformAddImm _ _ _ _ => true
  | .uniformAndImm _ _ _ _ => true
  | .uniformOrImm _ _ _ _ => true
  | .uniformXorImm _ _ _ _ => true
  | .uniformShlImm _ _ _ imm => decide (imm.toNat < 64)
  | .uniformShrImm _ _ _ imm => decide (imm.toNat < 64)
  | .uniformSarImm _ _ _ imm => decide (imm.toNat < 64)
  | .uniformMovi _ _ => true
  | .uniformMad _ _ _ _ _ _ _ ty => ty.isUniform
  | .uniformBfe _ _ _ ty pos len => ty.isUniform && decide (pos.toNat + len.toNat + 1 ≤ 64)
  | .uniformBfi _ _ _ _ _ ty pos len => ty.isUniform && decide (pos.toNat + len.toNat + 1 ≤ 64)
  | .uniformCmp _ _ _ _ _ ty cond =>
    ty.isUniform && decide (cond.toNat < 6) && (ty.isNumber || decide (cond.toNat < 2))
  | .uniformSel _ _ _ _ _ ty _ => ty.isUniform
  | .litUniform _ _ _ => true
  | .seedTop _ => true
  | .seedDepth _ => true
  | .mand _ _ _ => true
  | .mor _ _ _ => true
  | .mxor _ _ _ => true
  | .mandn _ _ _ => true
  | .mnot _ _ => true
  | .mmov _ _ => true
  | .mget _ _ => true
  | .mset _ _ _ => true
  | .pollMask _ _ _ _ _ => true
  | .pollSome _ _ _ _ _ => true
  | .pollEvery _ _ _ _ _ => true
  | .pollSame _ a _ _ ty _ => ty.isRaw && ty.evenOk a
  | .pollPeers _ a _ _ ty _ => ty.isRaw && ty.evenOk a
  | .pollLead _ _ _ => true
  | .pollLeadWelt _ _ _ => true
  | .pollCount _ _ _ _ _ => true
  | .passFrom d a b _ tb _ _ ty imm im _ =>
    ty.isRaw && ty.evenOk d && ty.evenOk a && (if im then b == 0 && !tb else imm == 0)
  | .passBack d a b _ tb _ _ ty imm im _ =>
    ty.isRaw && ty.evenOk d && ty.evenOk a && (if im then b == 0 && !tb else imm == 0)
  | .passAhead d a b _ tb _ _ ty imm im _ =>
    ty.isRaw && ty.evenOk d && ty.evenOk a && (if im then b == 0 && !tb else imm == 0)
  | .passSwap d a b _ tb _ _ ty imm im _ =>
    ty.isRaw && ty.evenOk d && ty.evenOk a && (if im then b == 0 && !tb else imm == 0)
  | .passTurn d a b _ tb _ _ ty imm im _ =>
    ty.isRaw && ty.evenOk d && ty.evenOk a && (if im then b == 0 && !tb else imm == 0)
  | .foldAdd d a _ _ ty _ => ty.isFoldNumber && ty.evenOk d && ty.evenOk a
  | .foldMin d a _ _ ty _ => ty.isFoldNumber && ty.evenOk d && ty.evenOk a
  | .foldMax d a _ _ ty _ => ty.isFoldNumber && ty.evenOk d && ty.evenOk a
  | .foldAnd d a _ _ ty _ => ty.isRaw && ty.evenOk d && ty.evenOk a
  | .foldOr d a _ _ ty _ => ty.isRaw && ty.evenOk d && ty.evenOk a
  | .foldXor d a _ _ ty _ => ty.isRaw && ty.evenOk d && ty.evenOk a
  | .scanInc d a _ _ ty _ => ty.isFoldNumber && ty.evenOk d && ty.evenOk a
  | .scanExc d a _ _ ty _ => ty.isFoldNumber && ty.evenOk d && ty.evenOk a
  | .rng d a _ _ => d.toNat % 4 == 0 && a.toNat % 4 == 0
  | .ident d sl _ => (decide (sl.toNat ≤ 8) || (sl == 16 && d.toNat % 2 == 0))
  | .fadd _ _ _ _ _ _ => true
  | .fsub _ _ _ _ _ _ => true
  | .fmul _ _ _ _ _ _ => true
  | .fmin _ _ _ _ _ _ => true
  | .fmax _ _ _ _ _ _ => true
  | .fdiv _ _ _ _ _ _ => true
  | .fsqrt _ _ _ _ => true
  | .faddX d a b _ _ _ ty rm _ _ _ _ =>
    ty.isFloat && ty.evenOk d && ty.evenOk a && ty.evenOk b && rm.toNat != 4 && decide (rm.toNat < 6)
  | .fsubX d a b _ _ _ ty rm _ _ _ _ =>
    ty.isFloat && ty.evenOk d && ty.evenOk a && ty.evenOk b && rm.toNat != 4 && decide (rm.toNat < 6)
  | .fmulX d a b _ _ _ ty rm _ _ _ _ =>
    ty.isFloat && ty.evenOk d && ty.evenOk a && ty.evenOk b && rm.toNat != 4 && decide (rm.toNat < 6)
  | .fminX d a b _ _ _ ty _ _ _ _ => ty.isFloat && ty.evenOk d && ty.evenOk a && ty.evenOk b
  | .fmaxX d a b _ _ _ ty _ _ _ _ => ty.isFloat && ty.evenOk d && ty.evenOk a && ty.evenOk b
  | .fdivX d a b _ _ _ ty rm _ _ _ _ =>
    ty.isFloat && ty.evenOk d && ty.evenOk a && ty.evenOk b && rm.toNat != 4 && decide (rm.toNat < 6)
  | .ffma d a b _ _ _ c _ ty rm _ _ _ _ _ _ =>
    ty.isFloat && ty.evenOk d && ty.evenOk a && ty.evenOk b && ty.evenOk c && rm.toNat != 4 && decide (rm.toNat <
      6)
  | .fsqrtX d a _ _ ty rm _ _ =>
    ty.isFloat && ty.evenOk d && ty.evenOk a && rm.toNat != 4 && decide (rm.toNat < 6)
  | .frcpA _ _ _ _ ty _ _ => ty.isFloat && ty != .f64
  | .frsqA _ _ _ _ ty _ _ => ty.isFloat && ty != .f64
  | .fexp2A _ _ _ _ ty _ _ => ty.isFloat && ty != .f64
  | .flog2A _ _ _ _ ty _ _ => ty.isFloat && ty != .f64
  | .fcmp _ a b _ _ _ _ ty _ _ _ _ => ty.isFloat && ty.evenOk a && ty.evenOk b
  | .fclass _ a _ _ ty => ty.isFloat && ty.evenOk a
  | .cvt d a _ _ c tc dty rm sty salt =>
    dty.isCvt && sty.isCvt && (dty.isFloat || sty.isFloat) && dty.evenOk d && sty.evenOk a && decide (rm.toNat <
      6) && (if rm.toNat == 4 then (dty == .f16 || dty == .bf16) else c == 0 && !tc && salt == 0)
  | .cvtn _ a _ _ _ ty rm salt =>
    ty.isFloat && ty.evenOk a && decide (rm.toNat < 6) && (rm.toNat == 4 || salt == 0)
  | .cvtnFrom d _ _ _ _ ty rm =>
    ty.isFloat && ty.evenOk d && rm.toNat != 4 && decide (rm.toNat < 6)
  | .bscale _ a _ _ _ ty => ty.isFloat && ty.evenOk a
  | .qnt _ a _ _ _ _ _ ty rm salt =>
    ty.isFloat && ty.evenOk a && decide (rm.toNat < 6) && (rm.toNat == 4 || salt == 0)
  | .dqnt d _ _ _ _ _ _ ty rm =>
    ty.isFloat && ty.evenOk d && rm.toNat != 4 && decide (rm.toNat < 6)
  | .ld _ w i f _ _ => memOk w i f
  | .ldX d w i f _ _ ty cp _ =>
    memOk w i f && ty.isMem && ty.evenOk d && decide (cp.toNat < 3)
  | .ldProbe d w i f _ _ ty _ cp _ =>
    memOk w i f && ty.isMem && ty.evenOk d && decide (cp.toNat < 3)
  | .st _ w i f _ _ => memOk w i f
  | .stX d w i f _ _ ty cp _ =>
    memOk w i f && ty.isMem && ty.evenOk d && decide (cp.toNat < 3)
  | .ldx d w i f _ _ ty n cp _ =>
    memOk w i f && ty.isMem && ty.evenOk d && decide (cp.toNat < 3) && multiOk ty d i f n
  | .stx d w i f _ _ ty n cp _ =>
    memOk w i f && ty.isMem && ty.evenOk d && decide (cp.toNat < 3) && multiOk ty d i f n
  | .stc d w i f _ _ ty cp _ =>
    memOk w i f && ty.isMem && ty.evenOk d && decide (cp.toNat < 3)
  | .ldw _ _ _ ty cp => ty.isMem && decide (cp.toNat < 3)
  | .stw _ _ _ _ ty cp => ty.isMem && decide (cp.toNat < 3)
  | .lds d w i f _ _ ty _ => memOk w i f && ty.isMem && ty.evenOk d
  | .sts d w i f _ _ ty _ => memOk w i f && ty.isMem && ty.evenOk d
  | .pref w i f _ _ cp _ => memOk w i f && decide (cp.toNat < 2)
  | .stmap _ _ _ => true
  | .stunmap _ _ => true
  | .stflush _ _ => true
  | .atomAdd d w i f _ _ c _ ty rt _ =>
    memOk w i f && ty.isFoldNumber && ty.evenOk c && (if rt then ty.evenOk d else d == 0)
  | .atomMin d w i f _ _ c _ ty rt _ =>
    memOk w i f && ty.isFoldNumber && ty.evenOk c && (if rt then ty.evenOk d else d == 0)
  | .atomMax d w i f _ _ c _ ty rt _ =>
    memOk w i f && ty.isFoldNumber && ty.evenOk c && (if rt then ty.evenOk d else d == 0)
  | .atomAnd d w i f _ _ c _ ty rt _ =>
    memOk w i f && ty.isRaw && ty.evenOk c && (if rt then ty.evenOk d else d == 0)
  | .atomOr d w i f _ _ c _ ty rt _ =>
    memOk w i f && ty.isRaw && ty.evenOk c && (if rt then ty.evenOk d else d == 0)
  | .atomXor d w i f _ _ c _ ty rt _ =>
    memOk w i f && ty.isRaw && ty.evenOk c && (if rt then ty.evenOk d else d == 0)
  | .atomExch d w i f _ _ c _ ty rt _ =>
    memOk w i f && ty.isRaw && ty.evenOk c && (if rt then ty.evenOk d else d == 0)
  | .atomCas d w i f _ _ c _ ty _ => memOk w i f && ty.isRaw && ty.evenOk d && ty.evenOk c
  | .atomIncwrap d w i f _ _ c _ ty rt _ =>
    memOk w i f && ty.isNat3264 && ty.evenOk c && (if rt then ty.evenOk d else d == 0)
  | .atomdAdd w i f _ _ c _ ty _ => memOk w i f && ty.isFoldNumber && ty.evenOk c
  | .atomdMin w i f _ _ c _ ty _ => memOk w i f && ty.isFoldNumber && ty.evenOk c
  | .atomdMax w i f _ _ c _ ty _ => memOk w i f && ty.isFoldNumber && ty.evenOk c
  | .atomdAnd w i f _ _ c _ ty _ => memOk w i f && ty.isRaw && ty.evenOk c
  | .atomdOr w i f _ _ c _ ty _ => memOk w i f && ty.isRaw && ty.evenOk c
  | .atomdXor w i f _ _ c _ ty _ => memOk w i f && ty.isRaw && ty.evenOk c
  | .atomdIncwrap w i f _ _ c _ ty _ => memOk w i f && ty.isNat3264 && ty.evenOk c
  | .crdecl _ _ _ _ cop => decide (cop.toNat < 4)
  | .cradd _ w i f _ _ cop _ => memOk w i f && decide (cop.toNat < 4)
  | .fence _ _ _ _ => true
  | .ifence => true
  | .cpy _ _ _ _ _ _ src dst srole drole conv =>
    decide (conv.toNat < 5) && (src == 2 || srole == 0) && (dst == 2 || drole == 0)
  | .cpyMc _ _ _ _ _ _ src dst _ set conv =>
    decide (conv.toNat < 5) && (dst == 1 || dst == 3) && src != 2 && set != 0
  | .cpyColl _ _ _ _ c _ src _ rm =>
    decide (src.toNat < 2) && (rm == 0 || rm == 4) && c.toNat % 2 == 0 && decide (2 ≤ c.toNat)
  | .cbinit _ _ _ _ => true
  | .cbwait _ _ _ _ => true
  | .cbpop _ _ _ => true
  | .cbfree _ _ => true
  | .mres _ wr _ ty => ty.isPanel && wr.toNat % 2 == 0 && decide (2 ≤ wr.toNat)
  | .mrel _ => true
  | .mzero _ _ => true
  | .mwait _ => true
  | .mwaitAll => true
  | .mfmt _ ty => ty == .s32 || ty == .f32 || ty == .f64
  | .mstep _ _ _ _ => true
  | .mloop _ _ _ _ _ _ _ => true
  | .mrd _ _ d row cnt =>
    decide (row.toNat + cnt.toNat + 1 ≤ 32) && decide (d.toNat + cnt.toNat ≤ 127)
  | .mwr _ _ d _ row cnt =>
    decide (row.toNat + cnt.toNat + 1 ≤ 32) && decide (d.toNat + cnt.toNat ≤ 127)
  | .mskv _ _ _ dep k act => (dep != 0 || !act || k == 0)
  | .msamp _ _ => true
  | .rgmake _ _ _ _ _ => true
  | .rgdrop _ _ _ => true
  | .rgfit _ _ _ _ _ => true
  | .rgstat _ _ _ => true
  | .phnew _ _ _ => true
  | .phfree _ _ _ => true
  | .phreg _ _ mode _ => decide (1 ≤ mode.toNat) && decide (mode.toNat ≤ 3)
  | .phdrop _ _ _ => true
  | .phsig _ _ _ => true
  | .phwait _ _ _ => true
  | .pharr _ _ _ => true
  | .phbytes _ _ _ _ _ => true
  | .bar => true
  | .barto _ _ _ _ => true
  | .flushda => true
  | .lkmat _ _ _ => true
  | .lkbegin _ => true
  | .lkbeginWt _ => true
  | .lkend _ => true
  | .lkabort _ => true
  | .lkacq _ _ _ _ => true
  | .lktry _ _ _ _ => true
  | .lkup _ _ _ _ => true
  | .lkrel _ _ _ => true
  | .lkstat _ _ _ => true
  | .go _ => true
  | .br _ m => m != 0
  | .call _ => true
  | .brx a _ => a.toNat % 2 == 0
  | .callx a _ => a.toNat % 2 == 0
  | .ret _ _ => true
  | .exit => true
  | .yield => true
  | .nop => true
  | .launch _ _ _ => true
  | .join _ _ _ => true
  | .trap _ _ => true
  | .trapS _ _ => true
  | .brk => true
  | .tret => true
  | .srd _ lv sl => selOk sl lv && sl != 3
  | .srdLaneid _ => true
  | .swr _ _ lv sl => selOk sl lv && sl != 3
  | .skey _ _ c _ => c.toNat % 2 == 0
  | .tlbinv _ _ _ _ => true
  | .vacate _ _ _ _ _ => true
  | .tokq _ _ _ => true
  | .haltwg _ _ _ _ _ => true
  | .rngLand _ _ => true
  | .loadLand _ _ => true
  | .farAtomic _ _ => true
  | .hostAtomicLeaseTimeout _ => true
  | .commutativeCombination _ _ => true
  | .fenceComplete _ => true
  | .copyLineLand _ => true
  | .copyFail _ _ _ => true
  | .cbSlotClaim _ => true
  | .streamInstructionEffect _ _ => true
  | .matrixStep _ _ => true
  | .regionStatusReturn _ _ => true
  | .refitCommit _ => true
  | .regionLineEvaluation _ _ => true
  | .regionStore _ _ _ => true
  | .phaserWaitRelease _ => true
  | .barrierTimeout _ => true
  | .lockGrant _ => true
  | .woundDelivery _ => true
  | .woundPatienceExpiry _ => true
  | .siblingStop _ => true
  | .coreStall core => decide (core < 192)
  | .singleStepComplete _ => true
  | .pageWalk core _ _ => decide (core < 192)
  | .pageMiss core _ => decide (core < 192)
  | .writeBackArrival _ => true
  | .workgroupDispatch _ core => decide (core < 192)
  | .gangCandidateReserve _ => true
  | .gangPatienceExpiry _ => true
  | .workgroupMove _ core => decide (core < 192)
  | .timeSliceExpiry _ core => decide (core < 192)
  | .launchEnd _ => true
  | .tokenSpend core => decide (core < 192)
  | .tokenReturn core => decide (core < 192)
  | .coreHungry core => decide (core < 192)
  | .powerQuotaChange _ q _ => decide (q < 4)
  | .sliceRatioChange core slice _ => decide (core < 192) && decide (slice < 6)
  | .sliceRatioTakesEffect core slice => decide (core < 192) && decide (slice < 6)
  | .readGrantChange core slice grants => decide (core < 192) && decide (slice < 6) && decide (2 ≤ grants) && decide (grants ≤ 12)
  | .thermalThrottle q _ => decide (q < 4)
  | .thermalReset q _ => decide (q < 4)
  | .coreClockGate core => decide (core < 192)
  | .corePowerGate core => decide (core < 192)
  | .coreWake core => decide (core < 192)
  | .hang core => decide (core < 192)
  | .uncontainedError _ _ => true
  | .correctedErrorReport _ => true
  | .launchCommand _ pkt => packetOk pkt
  | .cancel _ pkt => packetOk pkt
  | .seedCommand _ pkt => packetOk pkt
  | .vacateCommand _ pkt => packetOk pkt
  | .kill _ pkt => packetOk pkt
  | .sync _ pkt => packetOk pkt
  | .unknownCommand _ pkt => packetOk pkt
  | .wormusLinkLoss port => decide (port < 32)
  | .wormusPortRestore port => decide (port < 32)
  | .hostDataWrite _ _ _ => true
  | .hostDataRead _ _ _ => true
  | .partitionCreate _ => true
  | .contextCreate _ => true
  | .contextKill _ _ => true
  | .partitionReset _ _ => true
  | .moduleReset => true
  | .bringUp _ => true
  | .watchArm core _ _ => decide (core < 192)
  | .watchDisarm core _ => decide (core < 192)
  | .attestationRequest _ _ => true
  | .securityVersionRaise _ _ => true
  | .unassignedOpcode _ => true
  | .phaserResultReturn _ _ => true
  | .lineEviction core _ => decide (core < 192)
  | .pageRecordDrop _ => true
  | .laceCycle => true
  | .coherenceLeaseAnswer _ _ => true

end Sys2Proof
end

