-- ==== Sys2Proof/Decode.lean ====
section
/-!
DEFINITION. The decoder, total on any words, and the encoder, both from the layouts of spec/04_encoding.md R79-R92
and of the instruction entries. A word that is no instruction is refused by name (R81, R93).
-/

namespace Sys2Proof

/-- Why a word is no instruction (R81, R93). -/
inductive DecodeError where
  | unassignedOpcode | reservedOrUnassigned | badType | illFormed | truncated
  deriving DecidableEq, Repr

/-- The last check of the decoder: the rules of R81 on fields. -/
def checked (i : Instr) : Except DecodeError Instr :=
  if i.wellFormed then .ok i else .error .illFormed

/-- Reads a type code; 0xF is ILLEGAL (R85). -/
def withTy (c : BitVec 4) (k : Ty → Except DecodeError Instr) : Except DecodeError Instr :=
  match Ty.ofCode c with
  | some t => k t
  | none => .error .badType

/-- Opcode 0x00: ADD (R92). -/
def decode00 (w : W32) : Except DecodeError Instr :=
  checked (.add (w.extractLsb' 18 7) (w.extractLsb' 11 7) (w.extractLsb' 4 7) (w.getLsbD 3) (w.getLsbD 2)
      (w.extractLsb' 0 2))

/-- Opcode 0x01: SUB (R92). -/
def decode01 (w : W32) : Except DecodeError Instr :=
  checked (.sub (w.extractLsb' 18 7) (w.extractLsb' 11 7) (w.extractLsb' 4 7) (w.getLsbD 3) (w.getLsbD 2)
      (w.extractLsb' 0 2))

/-- Opcode 0x02: ADD_IMM (R92). -/
def decode02 (w : W32) : Except DecodeError Instr :=
  checked (.addImm (w.extractLsb' 18 7) (w.extractLsb' 11 7) (w.extractLsb' 3 8) (w.getLsbD 2) (w.extractLsb' 0
      2))

/-- Opcode 0x03: MUL_LO (R92). -/
def decode03 (w : W32) : Except DecodeError Instr :=
  checked (.mulLo (w.extractLsb' 18 7) (w.extractLsb' 11 7) (w.extractLsb' 4 7) (w.getLsbD 3) (w.getLsbD 2)
      (w.extractLsb' 0 2))

/-- Opcode 0x04: MUL_HI (R92). -/
def decode04 (w : W32) : Except DecodeError Instr :=
  checked (.mulHi (w.extractLsb' 18 7) (w.extractLsb' 11 7) (w.extractLsb' 4 7) (w.getLsbD 3) (w.getLsbD 2)
      (w.extractLsb' 0 2))

/-- Opcode 0x05: MIN (R92). -/
def decode05 (w : W32) : Except DecodeError Instr :=
  checked (.min (w.extractLsb' 18 7) (w.extractLsb' 11 7) (w.extractLsb' 4 7) (w.getLsbD 3) (w.getLsbD 2)
      (w.extractLsb' 0 2))

/-- Opcode 0x06: MAX (R92). -/
def decode06 (w : W32) : Except DecodeError Instr :=
  checked (.max (w.extractLsb' 18 7) (w.extractLsb' 11 7) (w.extractLsb' 4 7) (w.getLsbD 3) (w.getLsbD 2)
      (w.extractLsb' 0 2))

/-- Opcode 0x07: AND (R92). -/
def decode07 (w : W32) : Except DecodeError Instr :=
  checked (.and (w.extractLsb' 18 7) (w.extractLsb' 11 7) (w.extractLsb' 4 7) (w.getLsbD 3) (w.getLsbD 2)
      (w.extractLsb' 0 2))

/-- Opcode 0x08: OR (R92). -/
def decode08 (w : W32) : Except DecodeError Instr :=
  checked (.or (w.extractLsb' 18 7) (w.extractLsb' 11 7) (w.extractLsb' 4 7) (w.getLsbD 3) (w.getLsbD 2)
      (w.extractLsb' 0 2))

/-- Opcode 0x09: XOR (R92). -/
def decode09 (w : W32) : Except DecodeError Instr :=
  checked (.xor (w.extractLsb' 18 7) (w.extractLsb' 11 7) (w.extractLsb' 4 7) (w.getLsbD 3) (w.getLsbD 2)
      (w.extractLsb' 0 2))

/-- Opcode 0x0A: ANDN (R92). -/
def decode0A (w : W32) : Except DecodeError Instr :=
  checked (.andn (w.extractLsb' 18 7) (w.extractLsb' 11 7) (w.extractLsb' 4 7) (w.getLsbD 3) (w.getLsbD 2)
      (w.extractLsb' 0 2))

/-- Opcode 0x0B: SHL (R92). -/
def decode0B (w : W32) : Except DecodeError Instr :=
  checked (.shl (w.extractLsb' 18 7) (w.extractLsb' 11 7) (w.extractLsb' 4 7) (w.getLsbD 3) (w.getLsbD 2)
      (w.extractLsb' 0 2))

/-- Opcode 0x0C: SHR (R92). -/
def decode0C (w : W32) : Except DecodeError Instr :=
  checked (.shr (w.extractLsb' 18 7) (w.extractLsb' 11 7) (w.extractLsb' 4 7) (w.getLsbD 3) (w.getLsbD 2)
      (w.extractLsb' 0 2))

/-- Opcode 0x0D: SAR (R92). -/
def decode0D (w : W32) : Except DecodeError Instr :=
  checked (.sar (w.extractLsb' 18 7) (w.extractLsb' 11 7) (w.extractLsb' 4 7) (w.getLsbD 3) (w.getLsbD 2)
      (w.extractLsb' 0 2))

/-- Opcode 0x0E: ROT (R92). -/
def decode0E (w : W32) : Except DecodeError Instr :=
  checked (.rot (w.extractLsb' 18 7) (w.extractLsb' 11 7) (w.extractLsb' 4 7) (w.getLsbD 3) (w.getLsbD 2)
      (w.extractLsb' 0 2))

/-- Opcode 0x0F: SHL_IMM, SHR_IMM, SAR_IMM, ROT_IMM (R92). -/
def decode0F (w : W32) : Except DecodeError Instr :=
  if w.extractLsb' 9 2 == 0#2 then
    checked (.shlImm (w.extractLsb' 18 7) (w.extractLsb' 11 7) (w.extractLsb' 3 6) (w.getLsbD 2) (w.extractLsb' 0
      2))
  else if w.extractLsb' 9 2 == 1#2 then
    checked (.shrImm (w.extractLsb' 18 7) (w.extractLsb' 11 7) (w.extractLsb' 3 6) (w.getLsbD 2) (w.extractLsb' 0
      2))
  else if w.extractLsb' 9 2 == 2#2 then
    checked (.sarImm (w.extractLsb' 18 7) (w.extractLsb' 11 7) (w.extractLsb' 3 6) (w.getLsbD 2) (w.extractLsb' 0
      2))
  else if w.extractLsb' 9 2 == 3#2 then
    checked (.rotImm (w.extractLsb' 18 7) (w.extractLsb' 11 7) (w.extractLsb' 3 6) (w.getLsbD 2) (w.extractLsb' 0
      2))
  else .error .reservedOrUnassigned

/-- Opcode 0x10: ABS, NEG, NOT, CLZ, POPC, BREV, MOV (R92). -/
def decode10 (w : W32) : Except DecodeError Instr :=
  if w.extractLsb' 4 7 == 0#7 && w.extractLsb' 2 1 == 0#1 then
    checked (.abs (w.extractLsb' 18 7) (w.extractLsb' 11 7) (w.getLsbD 3) (w.extractLsb' 0 2))
  else if w.extractLsb' 4 7 == 1#7 && w.extractLsb' 2 1 == 0#1 then
    checked (.neg (w.extractLsb' 18 7) (w.extractLsb' 11 7) (w.getLsbD 3) (w.extractLsb' 0 2))
  else if w.extractLsb' 4 7 == 2#7 && w.extractLsb' 2 1 == 0#1 then
    checked (.not (w.extractLsb' 18 7) (w.extractLsb' 11 7) (w.getLsbD 3) (w.extractLsb' 0 2))
  else if w.extractLsb' 4 7 == 3#7 && w.extractLsb' 2 1 == 0#1 then
    checked (.clz (w.extractLsb' 18 7) (w.extractLsb' 11 7) (w.getLsbD 3) (w.extractLsb' 0 2))
  else if w.extractLsb' 4 7 == 4#7 && w.extractLsb' 2 1 == 0#1 then
    checked (.popc (w.extractLsb' 18 7) (w.extractLsb' 11 7) (w.getLsbD 3) (w.extractLsb' 0 2))
  else if w.extractLsb' 4 7 == 5#7 && w.extractLsb' 2 1 == 0#1 then
    checked (.brev (w.extractLsb' 18 7) (w.extractLsb' 11 7) (w.getLsbD 3) (w.extractLsb' 0 2))
  else if w.extractLsb' 4 7 == 6#7 && w.extractLsb' 2 1 == 0#1 then
    checked (.mov (w.extractLsb' 18 7) (w.extractLsb' 11 7) (w.getLsbD 3) (w.extractLsb' 0 2))
  else .error .reservedOrUnassigned

/-- Opcode 0x11: ADD_X to SUB_SAT (R92). -/
def decode11 (w x : W32) : Except DecodeError Instr :=
  if x.extractLsb' 25 7 == 0#7 && x.extractLsb' 24 1 == 0#1 && x.extractLsb' 15 5 == 0#5 && x.extractLsb' 0 15 ==
     0#15 then
    withTy (x.extractLsb' 20 4) fun ty => checked (.addX (w.extractLsb' 18 7) (w.extractLsb' 11 7) (w.extractLsb'
      4 7) (w.getLsbD 3) (w.getLsbD 2) (w.extractLsb' 0 2) ty)
  else if x.extractLsb' 25 7 == 0#7 && x.extractLsb' 24 1 == 0#1 && x.extractLsb' 15 5 == 1#5 && x.extractLsb' 0 15 ==
     0#15 then
    withTy (x.extractLsb' 20 4) fun ty => checked (.subX (w.extractLsb' 18 7) (w.extractLsb' 11 7) (w.extractLsb'
      4 7) (w.getLsbD 3) (w.getLsbD 2) (w.extractLsb' 0 2) ty)
  else if x.extractLsb' 25 7 == 0#7 && x.extractLsb' 24 1 == 0#1 && x.extractLsb' 15 5 == 2#5 && x.extractLsb' 0 15 ==
     0#15 then
    withTy (x.extractLsb' 20 4) fun ty => checked (.mulLoX (w.extractLsb' 18 7) (w.extractLsb' 11 7)
      (w.extractLsb' 4 7) (w.getLsbD 3) (w.getLsbD 2) (w.extractLsb' 0 2) ty)
  else if x.extractLsb' 25 7 == 0#7 && x.extractLsb' 24 1 == 0#1 && x.extractLsb' 15 5 == 3#5 && x.extractLsb' 0 15 ==
     0#15 then
    withTy (x.extractLsb' 20 4) fun ty => checked (.mulHiX (w.extractLsb' 18 7) (w.extractLsb' 11 7)
      (w.extractLsb' 4 7) (w.getLsbD 3) (w.getLsbD 2) (w.extractLsb' 0 2) ty)
  else if x.extractLsb' 15 5 == 4#5 && x.extractLsb' 0 15 == 0#15 then
    withTy (x.extractLsb' 20 4) fun ty => checked (.mad (w.extractLsb' 18 7) (w.extractLsb' 11 7) (w.extractLsb' 4
      7) (w.getLsbD 3) (w.getLsbD 2) (w.extractLsb' 0 2) (x.extractLsb' 25 7) (x.getLsbD 24) ty)
  else if x.extractLsb' 25 7 == 0#7 && x.extractLsb' 24 1 == 0#1 && x.extractLsb' 15 5 == 5#5 && x.extractLsb' 0 15 ==
     0#15 then
    withTy (x.extractLsb' 20 4) fun ty => checked (.minX (w.extractLsb' 18 7) (w.extractLsb' 11 7) (w.extractLsb'
      4 7) (w.getLsbD 3) (w.getLsbD 2) (w.extractLsb' 0 2) ty)
  else if x.extractLsb' 25 7 == 0#7 && x.extractLsb' 24 1 == 0#1 && x.extractLsb' 15 5 == 6#5 && x.extractLsb' 0 15 ==
     0#15 then
    withTy (x.extractLsb' 20 4) fun ty => checked (.maxX (w.extractLsb' 18 7) (w.extractLsb' 11 7) (w.extractLsb'
      4 7) (w.getLsbD 3) (w.getLsbD 2) (w.extractLsb' 0 2) ty)
  else if w.extractLsb' 4 7 == 0#7 && w.extractLsb' 2 1 == 0#1 && x.extractLsb' 25 7 == 0#7 && x.extractLsb' 24 1 == 0#1
     && x.extractLsb' 15 5 == 7#5 && x.extractLsb' 0 15 == 0#15 then
    withTy (x.extractLsb' 20 4) fun ty => checked (.absX (w.extractLsb' 18 7) (w.extractLsb' 11 7) (w.getLsbD 3)
      (w.extractLsb' 0 2) ty)
  else if w.extractLsb' 4 7 == 0#7 && w.extractLsb' 2 1 == 0#1 && x.extractLsb' 25 7 == 0#7 && x.extractLsb' 24 1 == 0#1
     && x.extractLsb' 15 5 == 8#5 && x.extractLsb' 0 15 == 0#15 then
    withTy (x.extractLsb' 20 4) fun ty => checked (.negX (w.extractLsb' 18 7) (w.extractLsb' 11 7) (w.getLsbD 3)
      (w.extractLsb' 0 2) ty)
  else if x.extractLsb' 25 7 == 0#7 && x.extractLsb' 24 1 == 0#1 && x.extractLsb' 15 5 == 9#5 && x.extractLsb' 0 15 ==
     0#15 then
    withTy (x.extractLsb' 20 4) fun ty => checked (.andX (w.extractLsb' 18 7) (w.extractLsb' 11 7) (w.extractLsb'
      4 7) (w.getLsbD 3) (w.getLsbD 2) (w.extractLsb' 0 2) ty)
  else if x.extractLsb' 25 7 == 0#7 && x.extractLsb' 24 1 == 0#1 && x.extractLsb' 15 5 == 10#5 && x.extractLsb' 0 15 ==
     0#15 then
    withTy (x.extractLsb' 20 4) fun ty => checked (.orX (w.extractLsb' 18 7) (w.extractLsb' 11 7) (w.extractLsb' 4
      7) (w.getLsbD 3) (w.getLsbD 2) (w.extractLsb' 0 2) ty)
  else if x.extractLsb' 25 7 == 0#7 && x.extractLsb' 24 1 == 0#1 && x.extractLsb' 15 5 == 11#5 && x.extractLsb' 0 15 ==
     0#15 then
    withTy (x.extractLsb' 20 4) fun ty => checked (.xorX (w.extractLsb' 18 7) (w.extractLsb' 11 7) (w.extractLsb'
      4 7) (w.getLsbD 3) (w.getLsbD 2) (w.extractLsb' 0 2) ty)
  else if x.extractLsb' 25 7 == 0#7 && x.extractLsb' 24 1 == 0#1 && x.extractLsb' 15 5 == 12#5 && x.extractLsb' 0 15 ==
     0#15 then
    withTy (x.extractLsb' 20 4) fun ty => checked (.andnX (w.extractLsb' 18 7) (w.extractLsb' 11 7) (w.extractLsb'
      4 7) (w.getLsbD 3) (w.getLsbD 2) (w.extractLsb' 0 2) ty)
  else if w.extractLsb' 4 7 == 0#7 && w.extractLsb' 2 1 == 0#1 && x.extractLsb' 25 7 == 0#7 && x.extractLsb' 24 1 == 0#1
     && x.extractLsb' 15 5 == 13#5 && x.extractLsb' 0 15 == 0#15 then
    withTy (x.extractLsb' 20 4) fun ty => checked (.notX (w.extractLsb' 18 7) (w.extractLsb' 11 7) (w.getLsbD 3)
      (w.extractLsb' 0 2) ty)
  else if x.extractLsb' 25 7 == 0#7 && x.extractLsb' 24 1 == 0#1 && x.extractLsb' 15 5 == 14#5 && x.extractLsb' 12 2 ==
     0#2 && x.extractLsb' 6 6 == 0#6 then
    withTy (x.extractLsb' 20 4) fun ty => checked (.shlX (w.extractLsb' 18 7) (w.extractLsb' 11 7) (w.extractLsb'
      4 7) (w.getLsbD 3) (w.getLsbD 2) (w.extractLsb' 0 2) ty (x.getLsbD 14) (x.extractLsb' 0 6))
  else if x.extractLsb' 25 7 == 0#7 && x.extractLsb' 24 1 == 0#1 && x.extractLsb' 15 5 == 15#5 && x.extractLsb' 12 2 ==
     0#2 && x.extractLsb' 6 6 == 0#6 then
    withTy (x.extractLsb' 20 4) fun ty => checked (.shrX (w.extractLsb' 18 7) (w.extractLsb' 11 7) (w.extractLsb'
      4 7) (w.getLsbD 3) (w.getLsbD 2) (w.extractLsb' 0 2) ty (x.getLsbD 14) (x.extractLsb' 0 6))
  else if x.extractLsb' 25 7 == 0#7 && x.extractLsb' 24 1 == 0#1 && x.extractLsb' 15 5 == 16#5 && x.extractLsb' 12 2 ==
     0#2 && x.extractLsb' 6 6 == 0#6 then
    withTy (x.extractLsb' 20 4) fun ty => checked (.sarX (w.extractLsb' 18 7) (w.extractLsb' 11 7) (w.extractLsb'
      4 7) (w.getLsbD 3) (w.getLsbD 2) (w.extractLsb' 0 2) ty (x.getLsbD 14) (x.extractLsb' 0 6))
  else if x.extractLsb' 25 7 == 0#7 && x.extractLsb' 24 1 == 0#1 && x.extractLsb' 15 5 == 17#5 && x.extractLsb' 12 2 ==
     0#2 && x.extractLsb' 6 6 == 0#6 then
    withTy (x.extractLsb' 20 4) fun ty => checked (.rotX (w.extractLsb' 18 7) (w.extractLsb' 11 7) (w.extractLsb'
      4 7) (w.getLsbD 3) (w.getLsbD 2) (w.extractLsb' 0 2) ty (x.getLsbD 14) (x.extractLsb' 0 6))
  else if w.extractLsb' 4 7 == 0#7 && w.extractLsb' 2 1 == 0#1 && x.extractLsb' 25 7 == 0#7 && x.extractLsb' 24 1 == 0#1
     && x.extractLsb' 15 5 == 18#5 && x.extractLsb' 0 15 == 0#15 then
    withTy (x.extractLsb' 20 4) fun ty => checked (.clzX (w.extractLsb' 18 7) (w.extractLsb' 11 7) (w.getLsbD 3)
      (w.extractLsb' 0 2) ty)
  else if w.extractLsb' 4 7 == 0#7 && w.extractLsb' 2 1 == 0#1 && x.extractLsb' 25 7 == 0#7 && x.extractLsb' 24 1 == 0#1
     && x.extractLsb' 15 5 == 19#5 && x.extractLsb' 0 15 == 0#15 then
    withTy (x.extractLsb' 20 4) fun ty => checked (.popcX (w.extractLsb' 18 7) (w.extractLsb' 11 7) (w.getLsbD 3)
      (w.extractLsb' 0 2) ty)
  else if w.extractLsb' 4 7 == 0#7 && w.extractLsb' 2 1 == 0#1 && x.extractLsb' 25 7 == 0#7 && x.extractLsb' 24 1 == 0#1
     && x.extractLsb' 15 5 == 20#5 && x.extractLsb' 0 15 == 0#15 then
    withTy (x.extractLsb' 20 4) fun ty => checked (.brevX (w.extractLsb' 18 7) (w.extractLsb' 11 7) (w.getLsbD 3)
      (w.extractLsb' 0 2) ty)
  else if w.extractLsb' 4 7 == 0#7 && w.extractLsb' 2 1 == 0#1 && x.extractLsb' 25 7 == 0#7 && x.extractLsb' 24 1 == 0#1
     && x.extractLsb' 15 5 == 21#5 && x.extractLsb' 14 1 == 0#1 && x.extractLsb' 12 2 == 0#2 then
    withTy (x.extractLsb' 20 4) fun ty => checked (.bfe (w.extractLsb' 18 7) (w.extractLsb' 11 7) (w.getLsbD 3)
      (w.extractLsb' 0 2) ty (x.extractLsb' 6 6) (x.extractLsb' 0 6))
  else if x.extractLsb' 25 7 == 0#7 && x.extractLsb' 24 1 == 0#1 && x.extractLsb' 15 5 == 22#5 && x.extractLsb' 14 1 ==
     0#1 && x.extractLsb' 12 2 == 0#2 then
    withTy (x.extractLsb' 20 4) fun ty => checked (.bfi (w.extractLsb' 18 7) (w.extractLsb' 11 7) (w.extractLsb' 4
      7) (w.getLsbD 3) (w.getLsbD 2) (w.extractLsb' 0 2) ty (x.extractLsb' 6 6) (x.extractLsb' 0 6))
  else if x.extractLsb' 25 7 == 0#7 && x.extractLsb' 24 1 == 0#1 && x.extractLsb' 15 5 == 23#5 && x.extractLsb' 4 11 ==
     0#11 then
    withTy (x.extractLsb' 20 4) fun ty => checked (.sel (w.extractLsb' 18 7) (w.extractLsb' 11 7) (w.extractLsb' 4
      7) (w.getLsbD 3) (w.getLsbD 2) (w.extractLsb' 0 2) ty (x.extractLsb' 0 4))
  else if w.extractLsb' 22 3 == 0#3 && x.extractLsb' 25 7 == 0#7 && x.extractLsb' 24 1 == 0#1 && x.extractLsb' 15 5 ==
     24#5 && x.extractLsb' 3 12 == 0#12 then
    withTy (x.extractLsb' 20 4) fun ty => checked (.cmp (w.extractLsb' 18 4) (w.extractLsb' 11 7) (w.extractLsb' 4
      7) (w.getLsbD 3) (w.getLsbD 2) (w.extractLsb' 0 2) ty (x.extractLsb' 0 3))
  else if w.extractLsb' 4 7 == 0#7 && w.extractLsb' 2 1 == 0#1 && x.extractLsb' 25 7 == 0#7 && x.extractLsb' 24 1 == 0#1
     && x.extractLsb' 15 5 == 25#5 && x.extractLsb' 0 15 == 0#15 then
    withTy (x.extractLsb' 20 4) fun ty => checked (.movX (w.extractLsb' 18 7) (w.extractLsb' 11 7) (w.getLsbD 3)
      (w.extractLsb' 0 2) ty)
  else if x.extractLsb' 25 7 == 0#7 && x.extractLsb' 24 1 == 0#1 && x.extractLsb' 15 5 == 26#5 && x.extractLsb' 0 15 ==
     0#15 then
    withTy (x.extractLsb' 20 4) fun ty => checked (.addSat (w.extractLsb' 18 7) (w.extractLsb' 11 7)
      (w.extractLsb' 4 7) (w.getLsbD 3) (w.getLsbD 2) (w.extractLsb' 0 2) ty)
  else if x.extractLsb' 25 7 == 0#7 && x.extractLsb' 24 1 == 0#1 && x.extractLsb' 15 5 == 27#5 && x.extractLsb' 0 15 ==
     0#15 then
    withTy (x.extractLsb' 20 4) fun ty => checked (.subSat (w.extractLsb' 18 7) (w.extractLsb' 11 7)
      (w.extractLsb' 4 7) (w.getLsbD 3) (w.getLsbD 2) (w.extractLsb' 0 2) ty)
  else .error .reservedOrUnassigned

/-- Opcode 0x12: MOVI (R92). -/
def decode12 (w : W32) : Except DecodeError Instr :=
  checked (.movi (w.extractLsb' 18 7) (w.extractLsb' 2 16) (w.extractLsb' 0 2))

/-- Opcode 0x13: LIT_VECTOR (R92). -/
def decode13 (w x : W32) : Except DecodeError Instr :=
  if w.extractLsb' 0 1 == 0#1 then
    checked (.litVector (w.extractLsb' 18 7) (w.getLsbD 17) (w.extractLsb' 1 16) x)
  else .error .reservedOrUnassigned

/-- Opcode 0x18: UNIFORM_ADD to UNIFORM_NEG (R92). -/
def decode18 (w : W32) : Except DecodeError Instr :=
  if w.extractLsb' 3 4 == 0#4 && w.extractLsb' 0 1 == 0#1 then
    checked (.uniformAdd (w.extractLsb' 19 6) (w.extractLsb' 13 6) (w.extractLsb' 7 6) (w.getLsbD 2) (w.getLsbD
      1))
  else if w.extractLsb' 3 4 == 1#4 && w.extractLsb' 0 1 == 0#1 then
    checked (.uniformSub (w.extractLsb' 19 6) (w.extractLsb' 13 6) (w.extractLsb' 7 6) (w.getLsbD 2) (w.getLsbD
      1))
  else if w.extractLsb' 3 4 == 2#4 && w.extractLsb' 0 1 == 0#1 then
    checked (.uniformMulLo (w.extractLsb' 19 6) (w.extractLsb' 13 6) (w.extractLsb' 7 6) (w.getLsbD 2) (w.getLsbD
      1))
  else if w.extractLsb' 3 4 == 3#4 && w.extractLsb' 0 1 == 0#1 then
    checked (.uniformMulHiS (w.extractLsb' 19 6) (w.extractLsb' 13 6) (w.extractLsb' 7 6) (w.getLsbD 2) (w.getLsbD
      1))
  else if w.extractLsb' 3 4 == 4#4 && w.extractLsb' 0 1 == 0#1 then
    checked (.uniformMulHiN (w.extractLsb' 19 6) (w.extractLsb' 13 6) (w.extractLsb' 7 6) (w.getLsbD 2) (w.getLsbD
      1))
  else if w.extractLsb' 3 4 == 5#4 && w.extractLsb' 0 1 == 0#1 then
    checked (.uniformMinS (w.extractLsb' 19 6) (w.extractLsb' 13 6) (w.extractLsb' 7 6) (w.getLsbD 2) (w.getLsbD
      1))
  else if w.extractLsb' 3 4 == 6#4 && w.extractLsb' 0 1 == 0#1 then
    checked (.uniformMinN (w.extractLsb' 19 6) (w.extractLsb' 13 6) (w.extractLsb' 7 6) (w.getLsbD 2) (w.getLsbD
      1))
  else if w.extractLsb' 3 4 == 7#4 && w.extractLsb' 0 1 == 0#1 then
    checked (.uniformMaxS (w.extractLsb' 19 6) (w.extractLsb' 13 6) (w.extractLsb' 7 6) (w.getLsbD 2) (w.getLsbD
      1))
  else if w.extractLsb' 3 4 == 8#4 && w.extractLsb' 0 1 == 0#1 then
    checked (.uniformMaxN (w.extractLsb' 19 6) (w.extractLsb' 13 6) (w.extractLsb' 7 6) (w.getLsbD 2) (w.getLsbD
      1))
  else if w.extractLsb' 3 4 == 9#4 && w.extractLsb' 0 1 == 0#1 then
    checked (.uniformAddSatS (w.extractLsb' 19 6) (w.extractLsb' 13 6) (w.extractLsb' 7 6) (w.getLsbD 2)
      (w.getLsbD 1))
  else if w.extractLsb' 3 4 == 10#4 && w.extractLsb' 0 1 == 0#1 then
    checked (.uniformAddSatN (w.extractLsb' 19 6) (w.extractLsb' 13 6) (w.extractLsb' 7 6) (w.getLsbD 2)
      (w.getLsbD 1))
  else if w.extractLsb' 3 4 == 11#4 && w.extractLsb' 0 1 == 0#1 then
    checked (.uniformSubSatS (w.extractLsb' 19 6) (w.extractLsb' 13 6) (w.extractLsb' 7 6) (w.getLsbD 2)
      (w.getLsbD 1))
  else if w.extractLsb' 3 4 == 12#4 && w.extractLsb' 0 1 == 0#1 then
    checked (.uniformSubSatN (w.extractLsb' 19 6) (w.extractLsb' 13 6) (w.extractLsb' 7 6) (w.getLsbD 2)
      (w.getLsbD 1))
  else if w.extractLsb' 7 6 == 0#6 && w.extractLsb' 3 4 == 13#4 && w.extractLsb' 1 1 == 0#1 && w.extractLsb' 0 1 == 0#1 then
    checked (.uniformAbs (w.extractLsb' 19 6) (w.extractLsb' 13 6) (w.getLsbD 2))
  else if w.extractLsb' 7 6 == 0#6 && w.extractLsb' 3 4 == 14#4 && w.extractLsb' 1 1 == 0#1 && w.extractLsb' 0 1 == 0#1 then
    checked (.uniformNeg (w.extractLsb' 19 6) (w.extractLsb' 13 6) (w.getLsbD 2))
  else .error .reservedOrUnassigned

/-- Opcode 0x19: UNIFORM_AND to UNIFORM_MOV (R92). -/
def decode19 (w : W32) : Except DecodeError Instr :=
  if w.extractLsb' 3 4 == 0#4 && w.extractLsb' 0 1 == 0#1 then
    checked (.uniformAnd (w.extractLsb' 19 6) (w.extractLsb' 13 6) (w.extractLsb' 7 6) (w.getLsbD 2) (w.getLsbD
      1))
  else if w.extractLsb' 3 4 == 1#4 && w.extractLsb' 0 1 == 0#1 then
    checked (.uniformOr (w.extractLsb' 19 6) (w.extractLsb' 13 6) (w.extractLsb' 7 6) (w.getLsbD 2) (w.getLsbD 1))
  else if w.extractLsb' 3 4 == 2#4 && w.extractLsb' 0 1 == 0#1 then
    checked (.uniformXor (w.extractLsb' 19 6) (w.extractLsb' 13 6) (w.extractLsb' 7 6) (w.getLsbD 2) (w.getLsbD
      1))
  else if w.extractLsb' 3 4 == 3#4 && w.extractLsb' 0 1 == 0#1 then
    checked (.uniformAndn (w.extractLsb' 19 6) (w.extractLsb' 13 6) (w.extractLsb' 7 6) (w.getLsbD 2) (w.getLsbD
      1))
  else if w.extractLsb' 7 6 == 0#6 && w.extractLsb' 3 4 == 4#4 && w.extractLsb' 1 1 == 0#1 && w.extractLsb' 0 1 == 0#1 then
    checked (.uniformNot (w.extractLsb' 19 6) (w.extractLsb' 13 6) (w.getLsbD 2))
  else if w.extractLsb' 3 4 == 5#4 && w.extractLsb' 0 1 == 0#1 then
    checked (.uniformShl (w.extractLsb' 19 6) (w.extractLsb' 13 6) (w.extractLsb' 7 6) (w.getLsbD 2) (w.getLsbD
      1))
  else if w.extractLsb' 3 4 == 6#4 && w.extractLsb' 0 1 == 0#1 then
    checked (.uniformShr (w.extractLsb' 19 6) (w.extractLsb' 13 6) (w.extractLsb' 7 6) (w.getLsbD 2) (w.getLsbD
      1))
  else if w.extractLsb' 3 4 == 7#4 && w.extractLsb' 0 1 == 0#1 then
    checked (.uniformSar (w.extractLsb' 19 6) (w.extractLsb' 13 6) (w.extractLsb' 7 6) (w.getLsbD 2) (w.getLsbD
      1))
  else if w.extractLsb' 3 4 == 8#4 && w.extractLsb' 0 1 == 0#1 then
    checked (.uniformRot (w.extractLsb' 19 6) (w.extractLsb' 13 6) (w.extractLsb' 7 6) (w.getLsbD 2) (w.getLsbD
      1))
  else if w.extractLsb' 7 6 == 0#6 && w.extractLsb' 3 4 == 9#4 && w.extractLsb' 1 1 == 0#1 && w.extractLsb' 0 1 == 0#1 then
    checked (.uniformClz (w.extractLsb' 19 6) (w.extractLsb' 13 6) (w.getLsbD 2))
  else if w.extractLsb' 7 6 == 0#6 && w.extractLsb' 3 4 == 10#4 && w.extractLsb' 1 1 == 0#1 && w.extractLsb' 0 1 == 0#1 then
    checked (.uniformPopc (w.extractLsb' 19 6) (w.extractLsb' 13 6) (w.getLsbD 2))
  else if w.extractLsb' 7 6 == 0#6 && w.extractLsb' 3 4 == 11#4 && w.extractLsb' 1 1 == 0#1 && w.extractLsb' 0 1 == 0#1 then
    checked (.uniformBrev (w.extractLsb' 19 6) (w.extractLsb' 13 6) (w.getLsbD 2))
  else if w.extractLsb' 7 6 == 0#6 && w.extractLsb' 3 4 == 12#4 && w.extractLsb' 1 1 == 0#1 && w.extractLsb' 0 1 == 0#1 then
    checked (.uniformMov (w.extractLsb' 19 6) (w.extractLsb' 13 6) (w.getLsbD 2))
  else .error .reservedOrUnassigned

/-- Opcode 0x1A: UNIFORM_ADD_IMM to UNIFORM_MOVI (R92). -/
def decode1A (w x : W32) : Except DecodeError Instr :=
  if w.extractLsb' 7 6 == 0#6 && w.extractLsb' 3 4 == 0#4 && w.extractLsb' 1 1 == 0#1 && w.extractLsb' 0 1 == 0#1
     && x.extractLsb' 20 12 == 0#12 then
    checked (.uniformAddImm (w.extractLsb' 19 6) (w.extractLsb' 13 6) (w.getLsbD 2) (x.extractLsb' 0 20))
  else if w.extractLsb' 7 6 == 0#6 && w.extractLsb' 3 4 == 1#4 && w.extractLsb' 1 1 == 0#1 && w.extractLsb' 0 1 == 0#1
     && x.extractLsb' 20 12 == 0#12 then
    checked (.uniformAndImm (w.extractLsb' 19 6) (w.extractLsb' 13 6) (w.getLsbD 2) (x.extractLsb' 0 20))
  else if w.extractLsb' 7 6 == 0#6 && w.extractLsb' 3 4 == 2#4 && w.extractLsb' 1 1 == 0#1 && w.extractLsb' 0 1 == 0#1
     && x.extractLsb' 20 12 == 0#12 then
    checked (.uniformOrImm (w.extractLsb' 19 6) (w.extractLsb' 13 6) (w.getLsbD 2) (x.extractLsb' 0 20))
  else if w.extractLsb' 7 6 == 0#6 && w.extractLsb' 3 4 == 3#4 && w.extractLsb' 1 1 == 0#1 && w.extractLsb' 0 1 == 0#1
     && x.extractLsb' 20 12 == 0#12 then
    checked (.uniformXorImm (w.extractLsb' 19 6) (w.extractLsb' 13 6) (w.getLsbD 2) (x.extractLsb' 0 20))
  else if w.extractLsb' 7 6 == 0#6 && w.extractLsb' 3 4 == 4#4 && w.extractLsb' 1 1 == 0#1 && w.extractLsb' 0 1 == 0#1
     && x.extractLsb' 20 12 == 0#12 then
    checked (.uniformShlImm (w.extractLsb' 19 6) (w.extractLsb' 13 6) (w.getLsbD 2) (x.extractLsb' 0 20))
  else if w.extractLsb' 7 6 == 0#6 && w.extractLsb' 3 4 == 5#4 && w.extractLsb' 1 1 == 0#1 && w.extractLsb' 0 1 == 0#1
     && x.extractLsb' 20 12 == 0#12 then
    checked (.uniformShrImm (w.extractLsb' 19 6) (w.extractLsb' 13 6) (w.getLsbD 2) (x.extractLsb' 0 20))
  else if w.extractLsb' 7 6 == 0#6 && w.extractLsb' 3 4 == 6#4 && w.extractLsb' 1 1 == 0#1 && w.extractLsb' 0 1 == 0#1
     && x.extractLsb' 20 12 == 0#12 then
    checked (.uniformSarImm (w.extractLsb' 19 6) (w.extractLsb' 13 6) (w.getLsbD 2) (x.extractLsb' 0 20))
  else if w.extractLsb' 13 6 == 0#6 && w.extractLsb' 7 6 == 0#6 && w.extractLsb' 3 4 == 7#4 && w.extractLsb' 2 1 == 0#1
     && w.extractLsb' 1 1 == 0#1 && w.extractLsb' 0 1 == 0#1 && x.extractLsb' 20 12 == 0#12 then
    checked (.uniformMovi (w.extractLsb' 19 6) (x.extractLsb' 0 20))
  else .error .reservedOrUnassigned

/-- Opcode 0x1B: UNIFORM_MAD, UNIFORM_BFE, UNIFORM_BFI, UNIFORM_CMP, UNIFORM_SEL (R92). -/
def decode1B (w x : W32) : Except DecodeError Instr :=
  if w.extractLsb' 3 4 == 0#4 && w.extractLsb' 0 1 == 0#1 && x.extractLsb' 31 1 == 0#1 && x.extractLsb' 0 20 ==
     0#20 then
    withTy (x.extractLsb' 20 4) fun ty => checked (.uniformMad (w.extractLsb' 19 6) (w.extractLsb' 13 6)
      (w.extractLsb' 7 6) (w.getLsbD 2) (w.getLsbD 1) (x.extractLsb' 25 6) (x.getLsbD 24) ty)
  else if w.extractLsb' 7 6 == 0#6 && w.extractLsb' 3 4 == 1#4 && w.extractLsb' 1 1 == 0#1 && w.extractLsb' 0 1 == 0#1
     && x.extractLsb' 24 8 == 0#8 && x.extractLsb' 12 8 == 0#8 then
    withTy (x.extractLsb' 20 4) fun ty => checked (.uniformBfe (w.extractLsb' 19 6) (w.extractLsb' 13 6)
      (w.getLsbD 2) ty (x.extractLsb' 6 6) (x.extractLsb' 0 6))
  else if w.extractLsb' 3 4 == 2#4 && w.extractLsb' 0 1 == 0#1 && x.extractLsb' 24 8 == 0#8 && x.extractLsb' 12 8 == 0#8 then
    withTy (x.extractLsb' 20 4) fun ty => checked (.uniformBfi (w.extractLsb' 19 6) (w.extractLsb' 13 6)
      (w.extractLsb' 7 6) (w.getLsbD 2) (w.getLsbD 1) ty (x.extractLsb' 6 6) (x.extractLsb' 0 6))
  else if w.extractLsb' 23 2 == 0#2 && w.extractLsb' 3 4 == 3#4 && w.extractLsb' 0 1 == 0#1 && x.extractLsb' 24 8 == 0#8
     && x.extractLsb' 3 17 == 0#17 then
    withTy (x.extractLsb' 20 4) fun ty => checked (.uniformCmp (w.extractLsb' 19 4) (w.extractLsb' 13 6)
      (w.extractLsb' 7 6) (w.getLsbD 2) (w.getLsbD 1) ty (x.extractLsb' 0 3))
  else if w.extractLsb' 3 4 == 4#4 && w.extractLsb' 0 1 == 0#1 && x.extractLsb' 24 8 == 0#8 && x.extractLsb' 4 16 ==
     0#16 then
    withTy (x.extractLsb' 20 4) fun ty => checked (.uniformSel (w.extractLsb' 19 6) (w.extractLsb' 13 6)
      (w.extractLsb' 7 6) (w.getLsbD 2) (w.getLsbD 1) ty (x.extractLsb' 0 4))
  else .error .reservedOrUnassigned

/-- Opcode 0x1C: LIT_UNIFORM (R92). -/
def decode1C (w x : W32) : Except DecodeError Instr :=
  if w.extractLsb' 0 3 == 0#3 then
    checked (.litUniform (w.extractLsb' 19 6) (w.extractLsb' 3 16) x)
  else .error .reservedOrUnassigned

/-- Opcode 0x1D: SEED_TOP, SEED_DEPTH (R92). -/
def decode1D (w : W32) : Except DecodeError Instr :=
  if w.extractLsb' 13 6 == 0#6 && w.extractLsb' 7 6 == 0#6 && w.extractLsb' 3 4 == 0#4 && w.extractLsb' 2 1 == 0#1
     && w.extractLsb' 1 1 == 0#1 && w.extractLsb' 0 1 == 0#1 then
    checked (.seedTop (w.extractLsb' 19 6))
  else if w.extractLsb' 13 6 == 0#6 && w.extractLsb' 7 6 == 0#6 && w.extractLsb' 3 4 == 1#4 && w.extractLsb' 2 1 == 0#1
     && w.extractLsb' 1 1 == 0#1 && w.extractLsb' 0 1 == 0#1 then
    checked (.seedDepth (w.extractLsb' 19 6))
  else .error .reservedOrUnassigned

/-- Opcode 0x20: POLL_MASK to POLL_COUNT (R92). -/
def decode20 (w x : W32) : Except DecodeError Instr :=
  if w.extractLsb' 4 7 == 0#7 && w.extractLsb' 2 1 == 0#1 && x.extractLsb' 24 8 == 0#8 && x.extractLsb' 20 4 == 0#4
     && x.extractLsb' 16 4 == 0#4 && x.extractLsb' 15 1 == 0#1 && x.extractLsb' 14 1 == 0#1 && x.extractLsb' 10 4
     == 2#4 && x.extractLsb' 5 5 == 0#5 && x.extractLsb' 4 1 == 0#1 then
    checked (.pollMask (w.extractLsb' 18 7) (w.extractLsb' 11 7) (w.getLsbD 3) (w.extractLsb' 0 2) (x.extractLsb'
      0 4))
  else if w.extractLsb' 22 3 == 0#3 && w.extractLsb' 4 7 == 0#7 && w.extractLsb' 2 1 == 0#1 && x.extractLsb' 24 8 == 0#8
     && x.extractLsb' 20 4 == 1#4 && x.extractLsb' 16 4 == 0#4 && x.extractLsb' 15 1 == 0#1 && x.extractLsb' 14 1
     == 0#1 && x.extractLsb' 10 4 == 2#4 && x.extractLsb' 5 5 == 0#5 && x.extractLsb' 4 1 == 0#1 then
    checked (.pollSome (w.extractLsb' 18 4) (w.extractLsb' 11 7) (w.getLsbD 3) (w.extractLsb' 0 2) (x.extractLsb'
      0 4))
  else if w.extractLsb' 22 3 == 0#3 && w.extractLsb' 4 7 == 0#7 && w.extractLsb' 2 1 == 0#1 && x.extractLsb' 24 8 == 0#8
     && x.extractLsb' 20 4 == 2#4 && x.extractLsb' 16 4 == 0#4 && x.extractLsb' 15 1 == 0#1 && x.extractLsb' 14 1
     == 0#1 && x.extractLsb' 10 4 == 2#4 && x.extractLsb' 5 5 == 0#5 && x.extractLsb' 4 1 == 0#1 then
    checked (.pollEvery (w.extractLsb' 18 4) (w.extractLsb' 11 7) (w.getLsbD 3) (w.extractLsb' 0 2) (x.extractLsb'
      0 4))
  else if w.extractLsb' 22 3 == 0#3 && w.extractLsb' 4 7 == 0#7 && w.extractLsb' 2 1 == 0#1 && x.extractLsb' 24 8 == 0#8
     && x.extractLsb' 20 4 == 3#4 && x.extractLsb' 16 4 == 0#4 && x.extractLsb' 15 1 == 0#1 && x.extractLsb' 14 1
     == 0#1 && x.extractLsb' 5 5 == 0#5 && x.extractLsb' 4 1 == 0#1 then
    withTy (x.extractLsb' 10 4) fun ty => checked (.pollSame (w.extractLsb' 18 4) (w.extractLsb' 11 7) (w.getLsbD
      3) (w.extractLsb' 0 2) ty (x.extractLsb' 0 4))
  else if w.extractLsb' 4 7 == 0#7 && w.extractLsb' 2 1 == 0#1 && x.extractLsb' 24 8 == 0#8 && x.extractLsb' 20 4 == 4#4
     && x.extractLsb' 16 4 == 0#4 && x.extractLsb' 15 1 == 0#1 && x.extractLsb' 14 1 == 0#1 && x.extractLsb' 5 5 ==
     0#5 && x.extractLsb' 4 1 == 0#1 then
    withTy (x.extractLsb' 10 4) fun ty => checked (.pollPeers (w.extractLsb' 18 7) (w.extractLsb' 11 7) (w.getLsbD
      3) (w.extractLsb' 0 2) ty (x.extractLsb' 0 4))
  else if w.extractLsb' 22 3 == 0#3 && w.extractLsb' 11 7 == 0#7 && w.extractLsb' 4 7 == 0#7 && w.extractLsb' 2 2 == 0#2
     && x.extractLsb' 24 8 == 0#8 && x.extractLsb' 20 4 == 5#4 && x.extractLsb' 16 4 == 0#4 && x.extractLsb' 15 1
     == 0#1 && x.extractLsb' 14 1 == 0#1 && x.extractLsb' 10 4 == 0#4 && x.extractLsb' 5 5 == 0#5 && x.extractLsb'
     4 1 == 0#1 then
    checked (.pollLead (w.extractLsb' 18 4) (w.extractLsb' 0 2) (x.extractLsb' 0 4))
  else if w.extractLsb' 22 3 == 0#3 && w.extractLsb' 11 7 == 0#7 && w.extractLsb' 4 7 == 0#7 && w.extractLsb' 2 2 == 0#2
     && x.extractLsb' 24 8 == 0#8 && x.extractLsb' 20 4 == 5#4 && x.extractLsb' 16 4 == 0#4 && x.extractLsb' 15 1
     == 0#1 && x.extractLsb' 14 1 == 1#1 && x.extractLsb' 10 4 == 0#4 && x.extractLsb' 5 5 == 0#5 && x.extractLsb'
     4 1 == 0#1 then
    checked (.pollLeadWelt (w.extractLsb' 18 4) (w.extractLsb' 0 2) (x.extractLsb' 0 4))
  else if w.extractLsb' 4 7 == 0#7 && w.extractLsb' 2 1 == 0#1 && x.extractLsb' 24 8 == 0#8 && x.extractLsb' 20 4 == 6#4
     && x.extractLsb' 16 4 == 0#4 && x.extractLsb' 15 1 == 0#1 && x.extractLsb' 14 1 == 0#1 && x.extractLsb' 10 4
     == 2#4 && x.extractLsb' 5 5 == 0#5 && x.extractLsb' 4 1 == 0#1 then
    checked (.pollCount (w.extractLsb' 18 7) (w.extractLsb' 11 7) (w.getLsbD 3) (w.extractLsb' 0 2) (x.extractLsb'
      0 4))
  else .error .reservedOrUnassigned

/-- Opcode 0x21: PASS_FROM, PASS_BACK, PASS_AHEAD, PASS_SWAP, PASS_TURN (R92). -/
def decode21 (w x : W32) : Except DecodeError Instr :=
  if x.extractLsb' 24 8 == 0#8 && x.extractLsb' 20 4 == 0#4 && x.extractLsb' 16 4 == 0#4 && x.extractLsb' 14 1 ==
     0#1 then
    withTy (x.extractLsb' 10 4) fun ty => checked (.passFrom (w.extractLsb' 18 7) (w.extractLsb' 11 7)
      (w.extractLsb' 4 7) (w.getLsbD 3) (w.getLsbD 2) (w.extractLsb' 0 2) (x.getLsbD 15) ty (x.extractLsb' 5 5)
      (x.getLsbD 4) (x.extractLsb' 0 4))
  else if x.extractLsb' 24 8 == 0#8 && x.extractLsb' 20 4 == 1#4 && x.extractLsb' 16 4 == 0#4 && x.extractLsb' 14 1 ==
     0#1 then
    withTy (x.extractLsb' 10 4) fun ty => checked (.passBack (w.extractLsb' 18 7) (w.extractLsb' 11 7)
      (w.extractLsb' 4 7) (w.getLsbD 3) (w.getLsbD 2) (w.extractLsb' 0 2) (x.getLsbD 15) ty (x.extractLsb' 5 5)
      (x.getLsbD 4) (x.extractLsb' 0 4))
  else if x.extractLsb' 24 8 == 0#8 && x.extractLsb' 20 4 == 2#4 && x.extractLsb' 16 4 == 0#4 && x.extractLsb' 14 1 ==
     0#1 then
    withTy (x.extractLsb' 10 4) fun ty => checked (.passAhead (w.extractLsb' 18 7) (w.extractLsb' 11 7)
      (w.extractLsb' 4 7) (w.getLsbD 3) (w.getLsbD 2) (w.extractLsb' 0 2) (x.getLsbD 15) ty (x.extractLsb' 5 5)
      (x.getLsbD 4) (x.extractLsb' 0 4))
  else if x.extractLsb' 24 8 == 0#8 && x.extractLsb' 20 4 == 3#4 && x.extractLsb' 16 4 == 0#4 && x.extractLsb' 14 1 ==
     0#1 then
    withTy (x.extractLsb' 10 4) fun ty => checked (.passSwap (w.extractLsb' 18 7) (w.extractLsb' 11 7)
      (w.extractLsb' 4 7) (w.getLsbD 3) (w.getLsbD 2) (w.extractLsb' 0 2) (x.getLsbD 15) ty (x.extractLsb' 5 5)
      (x.getLsbD 4) (x.extractLsb' 0 4))
  else if x.extractLsb' 24 8 == 0#8 && x.extractLsb' 20 4 == 4#4 && x.extractLsb' 16 4 == 0#4 && x.extractLsb' 14 1 ==
     0#1 then
    withTy (x.extractLsb' 10 4) fun ty => checked (.passTurn (w.extractLsb' 18 7) (w.extractLsb' 11 7)
      (w.extractLsb' 4 7) (w.getLsbD 3) (w.getLsbD 2) (w.extractLsb' 0 2) (x.getLsbD 15) ty (x.extractLsb' 5 5)
      (x.getLsbD 4) (x.extractLsb' 0 4))
  else .error .reservedOrUnassigned

/-- Opcode 0x22: FOLD_ADD, FOLD_MIN, FOLD_MAX, FOLD_AND, FOLD_OR, FOLD_XOR (R92). -/
def decode22 (w x : W32) : Except DecodeError Instr :=
  if w.extractLsb' 4 7 == 0#7 && w.extractLsb' 2 1 == 0#1 && x.extractLsb' 24 8 == 0#8 && x.extractLsb' 20 4 == 0#4
     && x.extractLsb' 16 4 == 0#4 && x.extractLsb' 15 1 == 0#1 && x.extractLsb' 14 1 == 0#1 && x.extractLsb' 5 5 ==
     0#5 && x.extractLsb' 4 1 == 0#1 then
    withTy (x.extractLsb' 10 4) fun ty => checked (.foldAdd (w.extractLsb' 18 7) (w.extractLsb' 11 7) (w.getLsbD
      3) (w.extractLsb' 0 2) ty (x.extractLsb' 0 4))
  else if w.extractLsb' 4 7 == 0#7 && w.extractLsb' 2 1 == 0#1 && x.extractLsb' 24 8 == 0#8 && x.extractLsb' 20 4 == 1#4
     && x.extractLsb' 16 4 == 0#4 && x.extractLsb' 15 1 == 0#1 && x.extractLsb' 14 1 == 0#1 && x.extractLsb' 5 5 ==
     0#5 && x.extractLsb' 4 1 == 0#1 then
    withTy (x.extractLsb' 10 4) fun ty => checked (.foldMin (w.extractLsb' 18 7) (w.extractLsb' 11 7) (w.getLsbD
      3) (w.extractLsb' 0 2) ty (x.extractLsb' 0 4))
  else if w.extractLsb' 4 7 == 0#7 && w.extractLsb' 2 1 == 0#1 && x.extractLsb' 24 8 == 0#8 && x.extractLsb' 20 4 == 2#4
     && x.extractLsb' 16 4 == 0#4 && x.extractLsb' 15 1 == 0#1 && x.extractLsb' 14 1 == 0#1 && x.extractLsb' 5 5 ==
     0#5 && x.extractLsb' 4 1 == 0#1 then
    withTy (x.extractLsb' 10 4) fun ty => checked (.foldMax (w.extractLsb' 18 7) (w.extractLsb' 11 7) (w.getLsbD
      3) (w.extractLsb' 0 2) ty (x.extractLsb' 0 4))
  else if w.extractLsb' 4 7 == 0#7 && w.extractLsb' 2 1 == 0#1 && x.extractLsb' 24 8 == 0#8 && x.extractLsb' 20 4 == 3#4
     && x.extractLsb' 16 4 == 0#4 && x.extractLsb' 15 1 == 0#1 && x.extractLsb' 14 1 == 0#1 && x.extractLsb' 5 5 ==
     0#5 && x.extractLsb' 4 1 == 0#1 then
    withTy (x.extractLsb' 10 4) fun ty => checked (.foldAnd (w.extractLsb' 18 7) (w.extractLsb' 11 7) (w.getLsbD
      3) (w.extractLsb' 0 2) ty (x.extractLsb' 0 4))
  else if w.extractLsb' 4 7 == 0#7 && w.extractLsb' 2 1 == 0#1 && x.extractLsb' 24 8 == 0#8 && x.extractLsb' 20 4 == 4#4
     && x.extractLsb' 16 4 == 0#4 && x.extractLsb' 15 1 == 0#1 && x.extractLsb' 14 1 == 0#1 && x.extractLsb' 5 5 ==
     0#5 && x.extractLsb' 4 1 == 0#1 then
    withTy (x.extractLsb' 10 4) fun ty => checked (.foldOr (w.extractLsb' 18 7) (w.extractLsb' 11 7) (w.getLsbD 3)
      (w.extractLsb' 0 2) ty (x.extractLsb' 0 4))
  else if w.extractLsb' 4 7 == 0#7 && w.extractLsb' 2 1 == 0#1 && x.extractLsb' 24 8 == 0#8 && x.extractLsb' 20 4 == 5#4
     && x.extractLsb' 16 4 == 0#4 && x.extractLsb' 15 1 == 0#1 && x.extractLsb' 14 1 == 0#1 && x.extractLsb' 5 5 ==
     0#5 && x.extractLsb' 4 1 == 0#1 then
    withTy (x.extractLsb' 10 4) fun ty => checked (.foldXor (w.extractLsb' 18 7) (w.extractLsb' 11 7) (w.getLsbD
      3) (w.extractLsb' 0 2) ty (x.extractLsb' 0 4))
  else .error .reservedOrUnassigned

/-- Opcode 0x23: SCAN_INC, SCAN_EXC (R92). -/
def decode23 (w x : W32) : Except DecodeError Instr :=
  if w.extractLsb' 4 7 == 0#7 && w.extractLsb' 2 1 == 0#1 && x.extractLsb' 24 8 == 0#8 && x.extractLsb' 20 4 == 0#4
     && x.extractLsb' 16 4 == 0#4 && x.extractLsb' 15 1 == 0#1 && x.extractLsb' 14 1 == 0#1 && x.extractLsb' 5 5 ==
     0#5 && x.extractLsb' 4 1 == 0#1 then
    withTy (x.extractLsb' 10 4) fun ty => checked (.scanInc (w.extractLsb' 18 7) (w.extractLsb' 11 7) (w.getLsbD
      3) (w.extractLsb' 0 2) ty (x.extractLsb' 0 4))
  else if w.extractLsb' 4 7 == 0#7 && w.extractLsb' 2 1 == 0#1 && x.extractLsb' 24 8 == 0#8 && x.extractLsb' 20 4 == 1#4
     && x.extractLsb' 16 4 == 0#4 && x.extractLsb' 15 1 == 0#1 && x.extractLsb' 14 1 == 0#1 && x.extractLsb' 5 5 ==
     0#5 && x.extractLsb' 4 1 == 0#1 then
    withTy (x.extractLsb' 10 4) fun ty => checked (.scanExc (w.extractLsb' 18 7) (w.extractLsb' 11 7) (w.getLsbD
      3) (w.extractLsb' 0 2) ty (x.extractLsb' 0 4))
  else .error .reservedOrUnassigned

/-- Opcode 0x24: MAND, MOR, MXOR, MANDN, MNOT, MMOV (R92). -/
def decode24 (w : W32) : Except DecodeError Instr :=
  if w.extractLsb' 10 3 == 0#3 && w.extractLsb' 0 10 == 0#10 then
    checked (.mand (w.extractLsb' 21 4) (w.extractLsb' 17 4) (w.extractLsb' 13 4))
  else if w.extractLsb' 10 3 == 1#3 && w.extractLsb' 0 10 == 0#10 then
    checked (.mor (w.extractLsb' 21 4) (w.extractLsb' 17 4) (w.extractLsb' 13 4))
  else if w.extractLsb' 10 3 == 2#3 && w.extractLsb' 0 10 == 0#10 then
    checked (.mxor (w.extractLsb' 21 4) (w.extractLsb' 17 4) (w.extractLsb' 13 4))
  else if w.extractLsb' 10 3 == 3#3 && w.extractLsb' 0 10 == 0#10 then
    checked (.mandn (w.extractLsb' 21 4) (w.extractLsb' 17 4) (w.extractLsb' 13 4))
  else if w.extractLsb' 13 4 == 0#4 && w.extractLsb' 10 3 == 4#3 && w.extractLsb' 0 10 == 0#10 then
    checked (.mnot (w.extractLsb' 21 4) (w.extractLsb' 17 4))
  else if w.extractLsb' 13 4 == 0#4 && w.extractLsb' 10 3 == 5#3 && w.extractLsb' 0 10 == 0#10 then
    checked (.mmov (w.extractLsb' 21 4) (w.extractLsb' 17 4))
  else .error .reservedOrUnassigned

/-- Opcode 0x25: MGET, MSET (R92). -/
def decode25 (w : W32) : Except DecodeError Instr :=
  if w.extractLsb' 17 2 == 0#2 && w.extractLsb' 7 6 == 0#6 && w.extractLsb' 3 4 == 0#4 && w.extractLsb' 2 1 == 0#1
     && w.extractLsb' 1 1 == 0#1 && w.extractLsb' 0 1 == 0#1 then
    checked (.mget (w.extractLsb' 19 6) (w.extractLsb' 13 4))
  else if w.extractLsb' 23 2 == 0#2 && w.extractLsb' 7 6 == 0#6 && w.extractLsb' 3 4 == 1#4 && w.extractLsb' 1 1 == 0#1
     && w.extractLsb' 0 1 == 0#1 then
    checked (.mset (w.extractLsb' 19 4) (w.extractLsb' 13 6) (w.getLsbD 2))
  else .error .reservedOrUnassigned

/-- Opcode 0x26: RNG (R92). -/
def decode26 (w : W32) : Except DecodeError Instr :=
  if w.extractLsb' 4 7 == 0#7 && w.extractLsb' 2 1 == 0#1 then
    checked (.rng (w.extractLsb' 18 7) (w.extractLsb' 11 7) (w.getLsbD 3) (w.extractLsb' 0 2))
  else .error .reservedOrUnassigned

/-- Opcode 0x27: IDENT (R92). -/
def decode27 (w : W32) : Except DecodeError Instr :=
  if w.extractLsb' 11 7 == 0#7 && w.extractLsb' 2 1 == 0#1 then
    checked (.ident (w.extractLsb' 18 7) (w.extractLsb' 3 8) (w.extractLsb' 0 2))
  else .error .reservedOrUnassigned

/-- Opcode 0x28: FADD (R92). -/
def decode28 (w : W32) : Except DecodeError Instr :=
  checked (.fadd (w.extractLsb' 18 7) (w.extractLsb' 11 7) (w.extractLsb' 4 7) (w.getLsbD 3) (w.getLsbD 2)
      (w.extractLsb' 0 2))

/-- Opcode 0x29: FSUB (R92). -/
def decode29 (w : W32) : Except DecodeError Instr :=
  checked (.fsub (w.extractLsb' 18 7) (w.extractLsb' 11 7) (w.extractLsb' 4 7) (w.getLsbD 3) (w.getLsbD 2)
      (w.extractLsb' 0 2))

/-- Opcode 0x2A: FMUL (R92). -/
def decode2A (w : W32) : Except DecodeError Instr :=
  checked (.fmul (w.extractLsb' 18 7) (w.extractLsb' 11 7) (w.extractLsb' 4 7) (w.getLsbD 3) (w.getLsbD 2)
      (w.extractLsb' 0 2))

/-- Opcode 0x2B: FMIN (R92). -/
def decode2B (w : W32) : Except DecodeError Instr :=
  checked (.fmin (w.extractLsb' 18 7) (w.extractLsb' 11 7) (w.extractLsb' 4 7) (w.getLsbD 3) (w.getLsbD 2)
      (w.extractLsb' 0 2))

/-- Opcode 0x2C: FMAX (R92). -/
def decode2C (w : W32) : Except DecodeError Instr :=
  checked (.fmax (w.extractLsb' 18 7) (w.extractLsb' 11 7) (w.extractLsb' 4 7) (w.getLsbD 3) (w.getLsbD 2)
      (w.extractLsb' 0 2))

/-- Opcode 0x2D: FDIV (R92). -/
def decode2D (w : W32) : Except DecodeError Instr :=
  checked (.fdiv (w.extractLsb' 18 7) (w.extractLsb' 11 7) (w.extractLsb' 4 7) (w.getLsbD 3) (w.getLsbD 2)
      (w.extractLsb' 0 2))

/-- Opcode 0x2E: FSQRT (R92). -/
def decode2E (w : W32) : Except DecodeError Instr :=
  if w.extractLsb' 4 7 == 0#7 && w.extractLsb' 2 1 == 0#1 then
    checked (.fsqrt (w.extractLsb' 18 7) (w.extractLsb' 11 7) (w.getLsbD 3) (w.extractLsb' 0 2))
  else .error .reservedOrUnassigned

/-- Opcode 0x30: FADD_X, FSUB_X, FMUL_X, FMIN_X, FMAX_X, FDIV_X, FFMA (R92). -/
def decode30 (w x : W32) : Except DecodeError Instr :=
  if x.extractLsb' 24 8 == 0#8 && x.extractLsb' 20 4 == 0#4 && x.extractLsb' 7 2 == 0#2 && x.extractLsb' 0 7 == 0#7 then
    withTy (x.extractLsb' 16 4) fun ty => checked (.faddX (w.extractLsb' 18 7) (w.extractLsb' 11 7) (w.extractLsb'
      4 7) (w.getLsbD 3) (w.getLsbD 2) (w.extractLsb' 0 2) ty (x.extractLsb' 13 3) (x.getLsbD 12) (x.getLsbD 11)
      (x.getLsbD 10) (x.getLsbD 9))
  else if x.extractLsb' 24 8 == 0#8 && x.extractLsb' 20 4 == 1#4 && x.extractLsb' 7 2 == 0#2 && x.extractLsb' 0 7 == 0#7 then
    withTy (x.extractLsb' 16 4) fun ty => checked (.fsubX (w.extractLsb' 18 7) (w.extractLsb' 11 7) (w.extractLsb'
      4 7) (w.getLsbD 3) (w.getLsbD 2) (w.extractLsb' 0 2) ty (x.extractLsb' 13 3) (x.getLsbD 12) (x.getLsbD 11)
      (x.getLsbD 10) (x.getLsbD 9))
  else if x.extractLsb' 24 8 == 0#8 && x.extractLsb' 20 4 == 2#4 && x.extractLsb' 7 2 == 0#2 && x.extractLsb' 0 7 == 0#7 then
    withTy (x.extractLsb' 16 4) fun ty => checked (.fmulX (w.extractLsb' 18 7) (w.extractLsb' 11 7) (w.extractLsb'
      4 7) (w.getLsbD 3) (w.getLsbD 2) (w.extractLsb' 0 2) ty (x.extractLsb' 13 3) (x.getLsbD 12) (x.getLsbD 11)
      (x.getLsbD 10) (x.getLsbD 9))
  else if x.extractLsb' 24 8 == 0#8 && x.extractLsb' 20 4 == 3#4 && x.extractLsb' 13 3 == 0#3 && x.extractLsb' 7 2 ==
     0#2 && x.extractLsb' 0 7 == 0#7 then
    withTy (x.extractLsb' 16 4) fun ty => checked (.fminX (w.extractLsb' 18 7) (w.extractLsb' 11 7) (w.extractLsb'
      4 7) (w.getLsbD 3) (w.getLsbD 2) (w.extractLsb' 0 2) ty (x.getLsbD 12) (x.getLsbD 11) (x.getLsbD 10)
      (x.getLsbD 9))
  else if x.extractLsb' 24 8 == 0#8 && x.extractLsb' 20 4 == 4#4 && x.extractLsb' 13 3 == 0#3 && x.extractLsb' 7 2 ==
     0#2 && x.extractLsb' 0 7 == 0#7 then
    withTy (x.extractLsb' 16 4) fun ty => checked (.fmaxX (w.extractLsb' 18 7) (w.extractLsb' 11 7) (w.extractLsb'
      4 7) (w.getLsbD 3) (w.getLsbD 2) (w.extractLsb' 0 2) ty (x.getLsbD 12) (x.getLsbD 11) (x.getLsbD 10)
      (x.getLsbD 9))
  else if x.extractLsb' 24 8 == 0#8 && x.extractLsb' 20 4 == 5#4 && x.extractLsb' 7 2 == 0#2 && x.extractLsb' 0 7 == 0#7 then
    withTy (x.extractLsb' 16 4) fun ty => checked (.fdivX (w.extractLsb' 18 7) (w.extractLsb' 11 7) (w.extractLsb'
      4 7) (w.getLsbD 3) (w.getLsbD 2) (w.extractLsb' 0 2) ty (x.extractLsb' 13 3) (x.getLsbD 12) (x.getLsbD 11)
      (x.getLsbD 10) (x.getLsbD 9))
  else if x.extractLsb' 20 4 == 6#4 && x.extractLsb' 0 7 == 0#7 then
    withTy (x.extractLsb' 16 4) fun ty => checked (.ffma (w.extractLsb' 18 7) (w.extractLsb' 11 7) (w.extractLsb'
      4 7) (w.getLsbD 3) (w.getLsbD 2) (w.extractLsb' 0 2) (x.extractLsb' 25 7) (x.getLsbD 24) ty (x.extractLsb' 13
      3) (x.getLsbD 12) (x.getLsbD 11) (x.getLsbD 10) (x.getLsbD 9) (x.getLsbD 8) (x.getLsbD 7))
  else .error .reservedOrUnassigned

/-- Opcode 0x31: FSQRT_X, FRCP_A, FRSQ_A, FEXP2_A, FLOG2_A (R92). -/
def decode31 (w x : W32) : Except DecodeError Instr :=
  if w.extractLsb' 4 7 == 0#7 && w.extractLsb' 2 1 == 0#1 && x.extractLsb' 24 8 == 0#8 && x.extractLsb' 20 4 == 0#4
     && x.extractLsb' 9 2 == 0#2 && x.extractLsb' 7 2 == 0#2 && x.extractLsb' 0 7 == 0#7 then
    withTy (x.extractLsb' 16 4) fun ty => checked (.fsqrtX (w.extractLsb' 18 7) (w.extractLsb' 11 7) (w.getLsbD 3)
      (w.extractLsb' 0 2) ty (x.extractLsb' 13 3) (x.getLsbD 12) (x.getLsbD 11))
  else if w.extractLsb' 4 7 == 0#7 && w.extractLsb' 2 1 == 0#1 && x.extractLsb' 24 8 == 0#8 && x.extractLsb' 20 4 == 1#4
     && x.extractLsb' 13 3 == 0#3 && x.extractLsb' 9 2 == 0#2 && x.extractLsb' 7 2 == 0#2 && x.extractLsb' 0 7 ==
     0#7 then
    withTy (x.extractLsb' 16 4) fun ty => checked (.frcpA (w.extractLsb' 18 7) (w.extractLsb' 11 7) (w.getLsbD 3)
      (w.extractLsb' 0 2) ty (x.getLsbD 12) (x.getLsbD 11))
  else if w.extractLsb' 4 7 == 0#7 && w.extractLsb' 2 1 == 0#1 && x.extractLsb' 24 8 == 0#8 && x.extractLsb' 20 4 == 2#4
     && x.extractLsb' 13 3 == 0#3 && x.extractLsb' 9 2 == 0#2 && x.extractLsb' 7 2 == 0#2 && x.extractLsb' 0 7 ==
     0#7 then
    withTy (x.extractLsb' 16 4) fun ty => checked (.frsqA (w.extractLsb' 18 7) (w.extractLsb' 11 7) (w.getLsbD 3)
      (w.extractLsb' 0 2) ty (x.getLsbD 12) (x.getLsbD 11))
  else if w.extractLsb' 4 7 == 0#7 && w.extractLsb' 2 1 == 0#1 && x.extractLsb' 24 8 == 0#8 && x.extractLsb' 20 4 == 3#4
     && x.extractLsb' 13 3 == 0#3 && x.extractLsb' 9 2 == 0#2 && x.extractLsb' 7 2 == 0#2 && x.extractLsb' 0 7 ==
     0#7 then
    withTy (x.extractLsb' 16 4) fun ty => checked (.fexp2A (w.extractLsb' 18 7) (w.extractLsb' 11 7) (w.getLsbD 3)
      (w.extractLsb' 0 2) ty (x.getLsbD 12) (x.getLsbD 11))
  else if w.extractLsb' 4 7 == 0#7 && w.extractLsb' 2 1 == 0#1 && x.extractLsb' 24 8 == 0#8 && x.extractLsb' 20 4 == 4#4
     && x.extractLsb' 13 3 == 0#3 && x.extractLsb' 9 2 == 0#2 && x.extractLsb' 7 2 == 0#2 && x.extractLsb' 0 7 ==
     0#7 then
    withTy (x.extractLsb' 16 4) fun ty => checked (.flog2A (w.extractLsb' 18 7) (w.extractLsb' 11 7) (w.getLsbD 3)
      (w.extractLsb' 0 2) ty (x.getLsbD 12) (x.getLsbD 11))
  else .error .reservedOrUnassigned

/-- Opcode 0x32: FCMP (R92). -/
def decode32 (w x : W32) : Except DecodeError Instr :=
  if w.extractLsb' 22 3 == 0#3 && x.extractLsb' 24 8 == 0#8 && x.extractLsb' 23 1 == 0#1 && x.extractLsb' 13 3 ==
     0#3 && x.extractLsb' 7 2 == 0#2 && x.extractLsb' 0 7 == 0#7 then
    withTy (x.extractLsb' 16 4) fun ty => checked (.fcmp (w.extractLsb' 18 4) (w.extractLsb' 11 7) (w.extractLsb'
      4 7) (w.getLsbD 3) (w.getLsbD 2) (w.extractLsb' 0 2) (x.extractLsb' 20 3) ty (x.getLsbD 12) (x.getLsbD 11)
      (x.getLsbD 10) (x.getLsbD 9))
  else .error .reservedOrUnassigned

/-- Opcode 0x33: FCLASS (R92). -/
def decode33 (w x : W32) : Except DecodeError Instr :=
  if w.extractLsb' 4 7 == 0#7 && w.extractLsb' 2 1 == 0#1 && x.extractLsb' 24 8 == 0#8 && x.extractLsb' 20 4 == 0#4
     && x.extractLsb' 0 16 == 0#16 then
    withTy (x.extractLsb' 16 4) fun ty => checked (.fclass (w.extractLsb' 18 7) (w.extractLsb' 11 7) (w.getLsbD 3)
      (w.extractLsb' 0 2) ty)
  else .error .reservedOrUnassigned

/-- Opcode 0x40: CVT (R92). -/
def decode40 (w x : W32) : Except DecodeError Instr :=
  if w.extractLsb' 4 7 == 0#7 && w.extractLsb' 2 1 == 0#1 && x.extractLsb' 20 4 == 0#4 && x.extractLsb' 12 1 == 0#1 then
    withTy (x.extractLsb' 16 4) fun dty => withTy (x.extractLsb' 8 4) fun sty => checked (.cvt (w.extractLsb' 18
      7) (w.extractLsb' 11 7) (w.getLsbD 3) (w.extractLsb' 0 2) (x.extractLsb' 25 7) (x.getLsbD 24) dty
      (x.extractLsb' 13 3) sty (x.extractLsb' 0 8))
  else .error .reservedOrUnassigned

/-- Opcode 0x41: CVTN, CVTN_FROM (R92). -/
def decode41 (w x : W32) : Except DecodeError Instr :=
  if w.extractLsb' 3 2 == 0#2 && x.extractLsb' 24 8 == 0#8 && x.extractLsb' 20 4 == 0#4 && x.extractLsb' 8 5 == 0#5 then
    withTy (x.extractLsb' 16 4) fun ty => checked (.cvtn (w.extractLsb' 18 7) (w.extractLsb' 11 7) (w.extractLsb'
      5 6) (w.getLsbD 2) (w.extractLsb' 0 2) ty (x.extractLsb' 13 3) (x.extractLsb' 0 8))
  else if w.extractLsb' 3 2 == 1#2 && x.extractLsb' 24 8 == 0#8 && x.extractLsb' 20 4 == 0#4 && x.extractLsb' 0 13 ==
     0#13 then
    withTy (x.extractLsb' 16 4) fun ty => checked (.cvtnFrom (w.extractLsb' 18 7) (w.extractLsb' 11 7)
      (w.extractLsb' 5 6) (w.getLsbD 2) (w.extractLsb' 0 2) ty (x.extractLsb' 13 3))
  else .error .reservedOrUnassigned

/-- Opcode 0x42: BSCALE (R92). -/
def decode42 (w x : W32) : Except DecodeError Instr :=
  if w.extractLsb' 3 2 == 0#2 && x.extractLsb' 24 8 == 0#8 && x.extractLsb' 20 4 == 0#4 && x.extractLsb' 0 16 ==
     0#16 then
    withTy (x.extractLsb' 16 4) fun ty => checked (.bscale (w.extractLsb' 18 7) (w.extractLsb' 11 7)
      (w.extractLsb' 5 6) (w.getLsbD 2) (w.extractLsb' 0 2) ty)
  else .error .reservedOrUnassigned

/-- Opcode 0x43: QNT (R92). -/
def decode43 (w x : W32) : Except DecodeError Instr :=
  if w.extractLsb' 3 2 == 0#2 && x.extractLsb' 20 4 == 0#4 && x.extractLsb' 8 5 == 0#5 then
    withTy (x.extractLsb' 16 4) fun ty => checked (.qnt (w.extractLsb' 18 7) (w.extractLsb' 11 7) (w.extractLsb' 5
      6) (w.getLsbD 2) (w.extractLsb' 0 2) (x.extractLsb' 25 7) (x.getLsbD 24) ty (x.extractLsb' 13 3)
      (x.extractLsb' 0 8))
  else .error .reservedOrUnassigned

/-- Opcode 0x44: DQNT (R92). -/
def decode44 (w x : W32) : Except DecodeError Instr :=
  if w.extractLsb' 3 2 == 0#2 && x.extractLsb' 20 4 == 0#4 && x.extractLsb' 0 13 == 0#13 then
    withTy (x.extractLsb' 16 4) fun ty => checked (.dqnt (w.extractLsb' 18 7) (w.extractLsb' 11 7) (w.extractLsb'
      5 6) (w.getLsbD 2) (w.extractLsb' 0 2) (x.extractLsb' 25 7) (x.getLsbD 24) ty (x.extractLsb' 13 3))
  else .error .reservedOrUnassigned

/-- Opcode 0x48: LD (R92). -/
def decode48 (w : W32) : Except DecodeError Instr :=
  checked (.ld (w.extractLsb' 18 7) (w.extractLsb' 12 6) (w.extractLsb' 5 7) (w.extractLsb' 3 2) (w.getLsbD 2)
      (w.extractLsb' 0 2))

/-- Opcode 0x49: LD_X, LD_PROBE (R92). -/
def decode49 (w x : W32) : Except DecodeError Instr :=
  if x.extractLsb' 24 8 == 0#8 && x.extractLsb' 15 5 == 0#5 then
    withTy (x.extractLsb' 20 4) fun ty => checked (.ldX (w.extractLsb' 18 7) (w.extractLsb' 12 6) (w.extractLsb' 5
      7) (w.extractLsb' 3 2) (w.getLsbD 2) (w.extractLsb' 0 2) ty (x.extractLsb' 13 2) (x.extractLsb' 0 13))
  else if x.extractLsb' 24 8 == 0#8 && x.extractLsb' 19 1 == 1#1 then
    withTy (x.extractLsb' 20 4) fun ty => checked (.ldProbe (w.extractLsb' 18 7) (w.extractLsb' 12 6)
      (w.extractLsb' 5 7) (w.extractLsb' 3 2) (w.getLsbD 2) (w.extractLsb' 0 2) ty (x.extractLsb' 15 4)
      (x.extractLsb' 13 2) (x.extractLsb' 0 13))
  else .error .reservedOrUnassigned

/-- Opcode 0x4A: ST (R92). -/
def decode4A (w : W32) : Except DecodeError Instr :=
  checked (.st (w.extractLsb' 18 7) (w.extractLsb' 12 6) (w.extractLsb' 5 7) (w.extractLsb' 3 2) (w.getLsbD 2)
      (w.extractLsb' 0 2))

/-- Opcode 0x4B: ST_X (R92). -/
def decode4B (w x : W32) : Except DecodeError Instr :=
  if x.extractLsb' 24 8 == 0#8 && x.extractLsb' 15 5 == 0#5 then
    withTy (x.extractLsb' 20 4) fun ty => checked (.stX (w.extractLsb' 18 7) (w.extractLsb' 12 6) (w.extractLsb' 5
      7) (w.extractLsb' 3 2) (w.getLsbD 2) (w.extractLsb' 0 2) ty (x.extractLsb' 13 2) (x.extractLsb' 0 13))
  else .error .reservedOrUnassigned

/-- Opcode 0x4C: LDX (R92). -/
def decode4C (w x : W32) : Except DecodeError Instr :=
  if x.extractLsb' 24 8 == 0#8 && x.extractLsb' 15 3 == 0#3 then
    withTy (x.extractLsb' 20 4) fun ty => checked (.ldx (w.extractLsb' 18 7) (w.extractLsb' 12 6) (w.extractLsb' 5
      7) (w.extractLsb' 3 2) (w.getLsbD 2) (w.extractLsb' 0 2) ty (x.extractLsb' 18 2) (x.extractLsb' 13 2)
      (x.extractLsb' 0 13))
  else .error .reservedOrUnassigned

/-- Opcode 0x4D: STX (R92). -/
def decode4D (w x : W32) : Except DecodeError Instr :=
  if x.extractLsb' 24 8 == 0#8 && x.extractLsb' 15 3 == 0#3 then
    withTy (x.extractLsb' 20 4) fun ty => checked (.stx (w.extractLsb' 18 7) (w.extractLsb' 12 6) (w.extractLsb' 5
      7) (w.extractLsb' 3 2) (w.getLsbD 2) (w.extractLsb' 0 2) ty (x.extractLsb' 18 2) (x.extractLsb' 13 2)
      (x.extractLsb' 0 13))
  else .error .reservedOrUnassigned

/-- Opcode 0x4E: STC (R92). -/
def decode4E (w x : W32) : Except DecodeError Instr :=
  if x.extractLsb' 24 8 == 0#8 && x.extractLsb' 15 5 == 0#5 then
    withTy (x.extractLsb' 20 4) fun ty => checked (.stc (w.extractLsb' 18 7) (w.extractLsb' 12 6) (w.extractLsb' 5
      7) (w.extractLsb' 3 2) (w.getLsbD 2) (w.extractLsb' 0 2) ty (x.extractLsb' 13 2) (x.extractLsb' 0 13))
  else .error .reservedOrUnassigned

/-- Opcode 0x4F: LDW (R92). -/
def decode4F (w x : W32) : Except DecodeError Instr :=
  if w.extractLsb' 7 6 == 0#6 && w.extractLsb' 3 4 == 0#4 && w.extractLsb' 1 1 == 0#1 && w.extractLsb' 0 1 == 0#1
     && x.extractLsb' 24 8 == 0#8 && x.extractLsb' 15 5 == 0#5 && x.extractLsb' 0 13 == 0#13 then
    withTy (x.extractLsb' 20 4) fun ty => checked (.ldw (w.extractLsb' 19 6) (w.extractLsb' 13 6) (w.getLsbD 2) ty
      (x.extractLsb' 13 2))
  else .error .reservedOrUnassigned

/-- Opcode 0x50: STW (R92). -/
def decode50 (w x : W32) : Except DecodeError Instr :=
  if w.extractLsb' 19 6 == 0#6 && w.extractLsb' 3 4 == 0#4 && w.extractLsb' 0 1 == 0#1 && x.extractLsb' 24 8 == 0#8
     && x.extractLsb' 15 5 == 0#5 && x.extractLsb' 0 13 == 0#13 then
    withTy (x.extractLsb' 20 4) fun ty => checked (.stw (w.extractLsb' 13 6) (w.extractLsb' 7 6) (w.getLsbD 2)
      (w.getLsbD 1) ty (x.extractLsb' 13 2))
  else .error .reservedOrUnassigned

/-- Opcode 0x51: LDS (R92). -/
def decode51 (w x : W32) : Except DecodeError Instr :=
  if x.extractLsb' 24 8 == 0#8 && x.extractLsb' 15 5 == 0#5 && x.extractLsb' 13 2 == 0#2 then
    withTy (x.extractLsb' 20 4) fun ty => checked (.lds (w.extractLsb' 18 7) (w.extractLsb' 12 6) (w.extractLsb' 5
      7) (w.extractLsb' 3 2) (w.getLsbD 2) (w.extractLsb' 0 2) ty (x.extractLsb' 0 13))
  else .error .reservedOrUnassigned

/-- Opcode 0x52: STS (R92). -/
def decode52 (w x : W32) : Except DecodeError Instr :=
  if x.extractLsb' 24 8 == 0#8 && x.extractLsb' 15 5 == 0#5 && x.extractLsb' 13 2 == 0#2 then
    withTy (x.extractLsb' 20 4) fun ty => checked (.sts (w.extractLsb' 18 7) (w.extractLsb' 12 6) (w.extractLsb' 5
      7) (w.extractLsb' 3 2) (w.getLsbD 2) (w.extractLsb' 0 2) ty (x.extractLsb' 0 13))
  else .error .reservedOrUnassigned

/-- Opcode 0x53: PREF (R92). -/
noncomputable def decode53 (w x : W32) : Except DecodeError Instr :=
  if w.extractLsb' 18 7 == 0#7 && x.extractLsb' 20 12 == 0#12 && x.extractLsb' 15 5 == 0#5 then
    checked (.pref (w.extractLsb' 12 6) (w.extractLsb' 5 7) (w.extractLsb' 3 2) (w.getLsbD 2) (w.extractLsb' 0 2)
      (x.extractLsb' 13 2) (x.extractLsb' 0 13))
  else .error .reservedOrUnassigned

/-- Opcode 0x54: STMAP, STUNMAP, STFLUSH (R92). -/
noncomputable def decode54 (w : W32) : Except DecodeError Instr :=
  if w.extractLsb' 19 6 == 0#6 && w.extractLsb' 3 4 == 0#4 && w.extractLsb' 1 1 == 0#1 && w.extractLsb' 0 1 == 0#1 then
    checked (.stmap (w.extractLsb' 13 6) (w.extractLsb' 7 6) (w.getLsbD 2))
  else if w.extractLsb' 19 6 == 0#6 && w.extractLsb' 7 6 == 0#6 && w.extractLsb' 3 4 == 1#4 && w.extractLsb' 1 1 == 0#1
     && w.extractLsb' 0 1 == 0#1 then
    checked (.stunmap (w.extractLsb' 13 6) (w.getLsbD 2))
  else if w.extractLsb' 19 6 == 0#6 && w.extractLsb' 7 6 == 0#6 && w.extractLsb' 3 4 == 2#4 && w.extractLsb' 1 1 == 0#1
     && w.extractLsb' 0 1 == 0#1 then
    checked (.stflush (w.extractLsb' 13 6) (w.getLsbD 2))
  else .error .reservedOrUnassigned

/-- Opcode 0x58: ATOM_ADD to ATOM_INCWRAP (R92). -/
noncomputable def decode58 (w x : W32) : Except DecodeError Instr :=
  if x.extractLsb' 20 4 == 0#4 && x.extractLsb' 13 2 == 0#2 then
    withTy (x.extractLsb' 16 4) fun ty => checked (.atomAdd (w.extractLsb' 18 7) (w.extractLsb' 12 6)
      (w.extractLsb' 5 7) (w.extractLsb' 3 2) (w.getLsbD 2) (w.extractLsb' 0 2) (x.extractLsb' 25 7) (x.getLsbD 24)
      ty (x.getLsbD 15) (x.extractLsb' 0 13))
  else if x.extractLsb' 20 4 == 1#4 && x.extractLsb' 13 2 == 0#2 then
    withTy (x.extractLsb' 16 4) fun ty => checked (.atomMin (w.extractLsb' 18 7) (w.extractLsb' 12 6)
      (w.extractLsb' 5 7) (w.extractLsb' 3 2) (w.getLsbD 2) (w.extractLsb' 0 2) (x.extractLsb' 25 7) (x.getLsbD 24)
      ty (x.getLsbD 15) (x.extractLsb' 0 13))
  else if x.extractLsb' 20 4 == 2#4 && x.extractLsb' 13 2 == 0#2 then
    withTy (x.extractLsb' 16 4) fun ty => checked (.atomMax (w.extractLsb' 18 7) (w.extractLsb' 12 6)
      (w.extractLsb' 5 7) (w.extractLsb' 3 2) (w.getLsbD 2) (w.extractLsb' 0 2) (x.extractLsb' 25 7) (x.getLsbD 24)
      ty (x.getLsbD 15) (x.extractLsb' 0 13))
  else if x.extractLsb' 20 4 == 3#4 && x.extractLsb' 13 2 == 0#2 then
    withTy (x.extractLsb' 16 4) fun ty => checked (.atomAnd (w.extractLsb' 18 7) (w.extractLsb' 12 6)
      (w.extractLsb' 5 7) (w.extractLsb' 3 2) (w.getLsbD 2) (w.extractLsb' 0 2) (x.extractLsb' 25 7) (x.getLsbD 24)
      ty (x.getLsbD 15) (x.extractLsb' 0 13))
  else if x.extractLsb' 20 4 == 4#4 && x.extractLsb' 13 2 == 0#2 then
    withTy (x.extractLsb' 16 4) fun ty => checked (.atomOr (w.extractLsb' 18 7) (w.extractLsb' 12 6)
      (w.extractLsb' 5 7) (w.extractLsb' 3 2) (w.getLsbD 2) (w.extractLsb' 0 2) (x.extractLsb' 25 7) (x.getLsbD 24)
      ty (x.getLsbD 15) (x.extractLsb' 0 13))
  else if x.extractLsb' 20 4 == 5#4 && x.extractLsb' 13 2 == 0#2 then
    withTy (x.extractLsb' 16 4) fun ty => checked (.atomXor (w.extractLsb' 18 7) (w.extractLsb' 12 6)
      (w.extractLsb' 5 7) (w.extractLsb' 3 2) (w.getLsbD 2) (w.extractLsb' 0 2) (x.extractLsb' 25 7) (x.getLsbD 24)
      ty (x.getLsbD 15) (x.extractLsb' 0 13))
  else if x.extractLsb' 20 4 == 6#4 && x.extractLsb' 13 2 == 0#2 then
    withTy (x.extractLsb' 16 4) fun ty => checked (.atomExch (w.extractLsb' 18 7) (w.extractLsb' 12 6)
      (w.extractLsb' 5 7) (w.extractLsb' 3 2) (w.getLsbD 2) (w.extractLsb' 0 2) (x.extractLsb' 25 7) (x.getLsbD 24)
      ty (x.getLsbD 15) (x.extractLsb' 0 13))
  else if x.extractLsb' 20 4 == 7#4 && x.extractLsb' 15 1 == 1#1 && x.extractLsb' 13 2 == 0#2 then
    withTy (x.extractLsb' 16 4) fun ty => checked (.atomCas (w.extractLsb' 18 7) (w.extractLsb' 12 6)
      (w.extractLsb' 5 7) (w.extractLsb' 3 2) (w.getLsbD 2) (w.extractLsb' 0 2) (x.extractLsb' 25 7) (x.getLsbD 24)
      ty (x.extractLsb' 0 13))
  else if x.extractLsb' 20 4 == 8#4 && x.extractLsb' 13 2 == 0#2 then
    withTy (x.extractLsb' 16 4) fun ty => checked (.atomIncwrap (w.extractLsb' 18 7) (w.extractLsb' 12 6)
      (w.extractLsb' 5 7) (w.extractLsb' 3 2) (w.getLsbD 2) (w.extractLsb' 0 2) (x.extractLsb' 25 7) (x.getLsbD 24)
      ty (x.getLsbD 15) (x.extractLsb' 0 13))
  else .error .reservedOrUnassigned

/-- Opcode 0x59: ATOMD_ADD, ATOMD_MIN, ATOMD_MAX, ATOMD_AND, ATOMD_OR, ATOMD_XOR, ATOMD_INCWRAP (R92). -/
noncomputable def decode59 (w x : W32) : Except DecodeError Instr :=
  if w.extractLsb' 18 7 == 0#7 && x.extractLsb' 20 4 == 0#4 && x.extractLsb' 15 1 == 0#1 && x.extractLsb' 13 2 ==
     0#2 then
    withTy (x.extractLsb' 16 4) fun ty => checked (.atomdAdd (w.extractLsb' 12 6) (w.extractLsb' 5 7)
      (w.extractLsb' 3 2) (w.getLsbD 2) (w.extractLsb' 0 2) (x.extractLsb' 25 7) (x.getLsbD 24) ty (x.extractLsb' 0
      13))
  else if w.extractLsb' 18 7 == 0#7 && x.extractLsb' 20 4 == 1#4 && x.extractLsb' 15 1 == 0#1 && x.extractLsb' 13 2 ==
     0#2 then
    withTy (x.extractLsb' 16 4) fun ty => checked (.atomdMin (w.extractLsb' 12 6) (w.extractLsb' 5 7)
      (w.extractLsb' 3 2) (w.getLsbD 2) (w.extractLsb' 0 2) (x.extractLsb' 25 7) (x.getLsbD 24) ty (x.extractLsb' 0
      13))
  else if w.extractLsb' 18 7 == 0#7 && x.extractLsb' 20 4 == 2#4 && x.extractLsb' 15 1 == 0#1 && x.extractLsb' 13 2 ==
     0#2 then
    withTy (x.extractLsb' 16 4) fun ty => checked (.atomdMax (w.extractLsb' 12 6) (w.extractLsb' 5 7)
      (w.extractLsb' 3 2) (w.getLsbD 2) (w.extractLsb' 0 2) (x.extractLsb' 25 7) (x.getLsbD 24) ty (x.extractLsb' 0
      13))
  else if w.extractLsb' 18 7 == 0#7 && x.extractLsb' 20 4 == 3#4 && x.extractLsb' 15 1 == 0#1 && x.extractLsb' 13 2 ==
     0#2 then
    withTy (x.extractLsb' 16 4) fun ty => checked (.atomdAnd (w.extractLsb' 12 6) (w.extractLsb' 5 7)
      (w.extractLsb' 3 2) (w.getLsbD 2) (w.extractLsb' 0 2) (x.extractLsb' 25 7) (x.getLsbD 24) ty (x.extractLsb' 0
      13))
  else if w.extractLsb' 18 7 == 0#7 && x.extractLsb' 20 4 == 4#4 && x.extractLsb' 15 1 == 0#1 && x.extractLsb' 13 2 ==
     0#2 then
    withTy (x.extractLsb' 16 4) fun ty => checked (.atomdOr (w.extractLsb' 12 6) (w.extractLsb' 5 7)
      (w.extractLsb' 3 2) (w.getLsbD 2) (w.extractLsb' 0 2) (x.extractLsb' 25 7) (x.getLsbD 24) ty (x.extractLsb' 0
      13))
  else if w.extractLsb' 18 7 == 0#7 && x.extractLsb' 20 4 == 5#4 && x.extractLsb' 15 1 == 0#1 && x.extractLsb' 13 2 ==
     0#2 then
    withTy (x.extractLsb' 16 4) fun ty => checked (.atomdXor (w.extractLsb' 12 6) (w.extractLsb' 5 7)
      (w.extractLsb' 3 2) (w.getLsbD 2) (w.extractLsb' 0 2) (x.extractLsb' 25 7) (x.getLsbD 24) ty (x.extractLsb' 0
      13))
  else if w.extractLsb' 18 7 == 0#7 && x.extractLsb' 20 4 == 8#4 && x.extractLsb' 15 1 == 0#1 && x.extractLsb' 13 2 ==
     0#2 then
    withTy (x.extractLsb' 16 4) fun ty => checked (.atomdIncwrap (w.extractLsb' 12 6) (w.extractLsb' 5 7)
      (w.extractLsb' 3 2) (w.getLsbD 2) (w.extractLsb' 0 2) (x.extractLsb' 25 7) (x.getLsbD 24) ty (x.extractLsb' 0
      13))
  else .error .reservedOrUnassigned

/-- Opcode 0x5A: CRDECL (R92). -/
noncomputable def decode5A (w x : W32) : Except DecodeError Instr :=
  if w.extractLsb' 19 6 == 0#6 && w.extractLsb' 3 4 == 0#4 && w.extractLsb' 0 1 == 0#1 && x.extractLsb' 24 8 == 0#8
     && x.extractLsb' 0 20 == 0#20 then
    checked (.crdecl (w.extractLsb' 13 6) (w.extractLsb' 7 6) (w.getLsbD 2) (w.getLsbD 1) (x.extractLsb' 20 4))
  else .error .reservedOrUnassigned

/-- Opcode 0x5B: CRADD (R92). -/
noncomputable def decode5B (w x : W32) : Except DecodeError Instr :=
  if x.extractLsb' 24 8 == 0#8 && x.extractLsb' 13 7 == 0#7 then
    checked (.cradd (w.extractLsb' 18 7) (w.extractLsb' 12 6) (w.extractLsb' 5 7) (w.extractLsb' 3 2) (w.getLsbD
      2) (w.extractLsb' 0 2) (x.extractLsb' 20 4) (x.extractLsb' 0 13))
  else .error .reservedOrUnassigned

/-- Opcode 0x5C: FENCE (R92). -/
noncomputable def decode5C (w : W32) : Except DecodeError Instr :=
  if w.extractLsb' 0 9 == 0#9 then
    checked (.fence (w.extractLsb' 19 6) (w.extractLsb' 13 6) (w.extractLsb' 10 3) (w.getLsbD 9))
  else .error .reservedOrUnassigned

/-- Opcode 0x5D: IFENCE (R92). -/
def decode5D (w : W32) : Except DecodeError Instr :=
  if w.extractLsb' 0 25 == 0#25 then
    checked .ifence
  else .error .reservedOrUnassigned

/-- Opcode 0x60: CPY (R92). -/
noncomputable def decode60 (w x : W32) : Except DecodeError Instr :=
  if w.extractLsb' 19 6 == 0#6 && w.extractLsb' 3 4 == 0#4 && w.extractLsb' 0 1 == 0#1 && x.extractLsb' 31 1 == 0#1 then
    checked (.cpy (w.extractLsb' 13 6) (w.extractLsb' 7 6) (w.getLsbD 2) (w.getLsbD 1) (x.extractLsb' 25 6)
      (x.getLsbD 24) (x.extractLsb' 22 2) (x.extractLsb' 20 2) (x.extractLsb' 12 8) (x.extractLsb' 4 8)
      (x.extractLsb' 0 4))
  else .error .reservedOrUnassigned

/-- Opcode 0x61: CPY_MC (R92). -/
noncomputable def decode61 (w x : W32) : Except DecodeError Instr :=
  if w.extractLsb' 19 6 == 0#6 && w.extractLsb' 3 4 == 0#4 && w.extractLsb' 0 1 == 0#1 && x.extractLsb' 31 1 == 0#1
     && x.extractLsb' 4 4 == 0#4 then
    checked (.cpyMc (w.extractLsb' 13 6) (w.extractLsb' 7 6) (w.getLsbD 2) (w.getLsbD 1) (x.extractLsb' 25 6)
      (x.getLsbD 24) (x.extractLsb' 22 2) (x.extractLsb' 20 2) (x.extractLsb' 12 8) (x.extractLsb' 8 4)
      (x.extractLsb' 0 4))
  else .error .reservedOrUnassigned

/-- Opcode 0x62: CPY_COLL (R92). -/
noncomputable def decode62 (w x : W32) : Except DecodeError Instr :=
  if w.extractLsb' 19 6 == 0#6 && w.extractLsb' 3 4 == 0#4 && w.extractLsb' 0 1 == 0#1 && x.extractLsb' 31 1 == 0#1
     && x.extractLsb' 20 2 == 0#2 && x.extractLsb' 3 9 == 0#9 then
    checked (.cpyColl (w.extractLsb' 13 6) (w.extractLsb' 7 6) (w.getLsbD 2) (w.getLsbD 1) (x.extractLsb' 25 6)
      (x.getLsbD 24) (x.extractLsb' 22 2) (x.extractLsb' 12 8) (x.extractLsb' 0 3))
  else .error .reservedOrUnassigned

/-- Opcode 0x63: CBINIT, CBWAIT, CBPOP, CBFREE (R92). -/
noncomputable def decode63 (w x : W32) : Except DecodeError Instr :=
  if w.extractLsb' 19 6 == 0#6 && w.extractLsb' 3 4 == 0#4 && w.extractLsb' 0 1 == 0#1 && x.extractLsb' 0 32 ==
     0#32 then
    checked (.cbinit (w.extractLsb' 13 6) (w.extractLsb' 7 6) (w.getLsbD 2) (w.getLsbD 1))
  else if w.extractLsb' 7 6 == 0#6 && w.extractLsb' 3 4 == 1#4 && w.extractLsb' 1 1 == 0#1 && w.extractLsb' 0 1 == 0#1
     && x.extractLsb' 12 20 == 0#20 then
    checked (.cbwait (w.extractLsb' 19 6) (w.extractLsb' 13 6) (w.getLsbD 2) (x.extractLsb' 0 12))
  else if w.extractLsb' 19 6 == 0#6 && w.extractLsb' 7 6 == 0#6 && w.extractLsb' 3 4 == 2#4 && w.extractLsb' 1 1 == 0#1
     && w.extractLsb' 0 1 == 0#1 && x.extractLsb' 12 20 == 0#20 then
    checked (.cbpop (w.extractLsb' 13 6) (w.getLsbD 2) (x.extractLsb' 0 12))
  else if w.extractLsb' 19 6 == 0#6 && w.extractLsb' 7 6 == 0#6 && w.extractLsb' 3 4 == 3#4 && w.extractLsb' 1 1 == 0#1
     && w.extractLsb' 0 1 == 0#1 && x.extractLsb' 0 32 == 0#32 then
    checked (.cbfree (w.extractLsb' 13 6) (w.getLsbD 2))
  else .error .reservedOrUnassigned

/-- Opcode 0x64: MRES (R92). -/
noncomputable def decode64 (w x : W32) : Except DecodeError Instr :=
  if w.extractLsb' 22 3 == 0#3 && w.extractLsb' 14 4 == 0#4 && w.extractLsb' 8 6 == 0#6 && w.extractLsb' 4 4 == 0#4
     && w.extractLsb' 0 4 == 0#4 && x.extractLsb' 31 1 == 0#1 && x.extractLsb' 0 20 == 0#20 then
    withTy (x.extractLsb' 20 4) fun ty => checked (.mres (w.extractLsb' 18 4) (x.extractLsb' 25 6) (x.getLsbD 24)
      ty)
  else .error .reservedOrUnassigned

/-- Opcode 0x65: MREL, MZERO, MWAIT, MWAIT_ALL (R92). -/
noncomputable def decode65 (w : W32) : Except DecodeError Instr :=
  if w.extractLsb' 22 3 == 0#3 && w.extractLsb' 14 4 == 0#4 && w.extractLsb' 8 6 == 0#6 && w.extractLsb' 4 4 == 0#4
     && w.extractLsb' 0 4 == 0#4 then
    checked (.mrel (w.extractLsb' 18 4))
  else if w.extractLsb' 18 4 == 0#4 && w.extractLsb' 14 4 == 0#4 && w.extractLsb' 4 4 == 1#4 && w.extractLsb' 0 4 == 0#4 then
    checked (.mzero (w.extractLsb' 22 3) (w.extractLsb' 8 6))
  else if w.extractLsb' 18 4 == 0#4 && w.extractLsb' 14 4 == 0#4 && w.extractLsb' 8 6 == 0#6 && w.extractLsb' 4 4 == 2#4
     && w.extractLsb' 0 4 == 0#4 then
    checked (.mwait (w.extractLsb' 22 3))
  else if w.extractLsb' 22 3 == 0#3 && w.extractLsb' 18 4 == 1#4 && w.extractLsb' 14 4 == 0#4 && w.extractLsb' 8 6 ==
     0#6 && w.extractLsb' 4 4 == 2#4 && w.extractLsb' 0 4 == 0#4 then
    checked .mwaitAll
  else .error .reservedOrUnassigned

/-- Opcode 0x66: MFMT (R92). -/
noncomputable def decode66 (w x : W32) : Except DecodeError Instr :=
  if w.extractLsb' 18 4 == 0#4 && w.extractLsb' 14 4 == 0#4 && w.extractLsb' 8 6 == 0#6 && w.extractLsb' 4 4 == 0#4
     && w.extractLsb' 0 4 == 0#4 && x.extractLsb' 24 8 == 0#8 && x.extractLsb' 0 20 == 0#20 then
    withTy (x.extractLsb' 20 4) fun ty => checked (.mfmt (w.extractLsb' 22 3) ty)
  else .error .reservedOrUnassigned

/-- Opcode 0x67: MSTEP (R92). -/
noncomputable def decode67 (w : W32) : Except DecodeError Instr :=
  if w.extractLsb' 4 4 == 0#4 && w.extractLsb' 0 4 == 0#4 then
    checked (.mstep (w.extractLsb' 22 3) (w.extractLsb' 18 4) (w.extractLsb' 14 4) (w.extractLsb' 8 6))
  else .error .reservedOrUnassigned

/-- Opcode 0x68: MLOOP (R92). -/
noncomputable def decode68 (w x : W32) : Except DecodeError Instr :=
  if w.extractLsb' 4 4 == 0#4 && w.extractLsb' 0 4 == 0#4 && x.extractLsb' 31 1 == 0#1 && x.extractLsb' 20 4 == 0#4
     && x.extractLsb' 12 8 == 0#8 then
    checked (.mloop (w.extractLsb' 22 3) (w.extractLsb' 18 4) (w.extractLsb' 14 4) (w.extractLsb' 8 6)
      (x.extractLsb' 25 6) (x.getLsbD 24) (x.extractLsb' 0 12))
  else .error .reservedOrUnassigned

/-- Opcode 0x69: MRD (R92). -/
noncomputable def decode69 (w x : W32) : Except DecodeError Instr :=
  if w.extractLsb' 18 4 == 0#4 && w.extractLsb' 14 4 == 0#4 && w.extractLsb' 4 4 == 0#4 && w.extractLsb' 0 4 == 0#4
     && x.extractLsb' 24 1 == 0#1 && x.extractLsb' 20 4 == 0#4 && x.extractLsb' 0 12 == 0#12 then
    checked (.mrd (w.extractLsb' 22 3) (w.extractLsb' 8 6) (x.extractLsb' 25 7) (x.extractLsb' 15 5)
      (x.extractLsb' 12 3))
  else .error .reservedOrUnassigned

/-- Opcode 0x6A: MWR (R92). -/
noncomputable def decode6A (w x : W32) : Except DecodeError Instr :=
  if w.extractLsb' 18 4 == 0#4 && w.extractLsb' 14 4 == 0#4 && w.extractLsb' 4 4 == 0#4 && w.extractLsb' 0 4 == 0#4
     && x.extractLsb' 20 4 == 0#4 && x.extractLsb' 0 12 == 0#12 then
    checked (.mwr (w.extractLsb' 22 3) (w.extractLsb' 8 6) (x.extractLsb' 25 7) (x.getLsbD 24) (x.extractLsb' 15
      5) (x.extractLsb' 12 3))
  else .error .reservedOrUnassigned

/-- Opcode 0x6B: MSKV, MSAMP (R92). -/
noncomputable def decode6B (w x : W32) : Except DecodeError Instr :=
  if w.extractLsb' 18 4 == 0#4 && w.extractLsb' 14 4 == 0#4 && w.extractLsb' 8 6 == 0#6 && w.extractLsb' 4 4 == 0#4
     && w.extractLsb' 0 4 == 0#4 && x.extractLsb' 31 1 == 0#1 && x.extractLsb' 20 4 == 0#4 && x.extractLsb' 0 11 ==
     0#11 then
    checked (.mskv (w.extractLsb' 22 3) (x.extractLsb' 25 6) (x.getLsbD 24) (x.extractLsb' 16 4) (x.extractLsb' 12
      4) (x.getLsbD 11))
  else if w.extractLsb' 18 4 == 0#4 && w.extractLsb' 14 4 == 0#4 && w.extractLsb' 8 6 == 0#6 && w.extractLsb' 4 4 == 1#4
     && w.extractLsb' 0 4 == 0#4 && x.extractLsb' 24 8 == 0#8 && x.extractLsb' 20 4 == 0#4 && x.extractLsb' 12 8 ==
     0#8 then
    checked (.msamp (w.extractLsb' 22 3) (x.extractLsb' 0 12))
  else .error .reservedOrUnassigned

/-- Opcode 0x6C: RGMAKE, RGDROP (R92). -/
noncomputable def decode6C (w : W32) : Except DecodeError Instr :=
  if w.extractLsb' 3 4 == 0#4 && w.extractLsb' 0 1 == 0#1 then
    checked (.rgmake (w.extractLsb' 19 6) (w.extractLsb' 13 6) (w.extractLsb' 7 6) (w.getLsbD 2) (w.getLsbD 1))
  else if w.extractLsb' 7 6 == 0#6 && w.extractLsb' 3 4 == 1#4 && w.extractLsb' 1 1 == 0#1 && w.extractLsb' 0 1 == 0#1 then
    checked (.rgdrop (w.extractLsb' 19 6) (w.extractLsb' 13 6) (w.getLsbD 2))
  else .error .reservedOrUnassigned

/-- Opcode 0x6D: RGFIT, RGSTAT (R92). -/
noncomputable def decode6D (w : W32) : Except DecodeError Instr :=
  if w.extractLsb' 3 4 == 0#4 && w.extractLsb' 0 1 == 0#1 then
    checked (.rgfit (w.extractLsb' 19 6) (w.extractLsb' 13 6) (w.extractLsb' 7 6) (w.getLsbD 2) (w.getLsbD 1))
  else if w.extractLsb' 7 6 == 0#6 && w.extractLsb' 3 4 == 1#4 && w.extractLsb' 1 1 == 0#1 && w.extractLsb' 0 1 == 0#1 then
    checked (.rgstat (w.extractLsb' 19 6) (w.extractLsb' 13 6) (w.getLsbD 2))
  else .error .reservedOrUnassigned

/-- Opcode 0x6E: PHNEW, PHFREE (R92). -/
noncomputable def decode6E (w : W32) : Except DecodeError Instr :=
  if w.extractLsb' 7 6 == 0#6 && w.extractLsb' 3 4 == 0#4 && w.extractLsb' 1 1 == 0#1 && w.extractLsb' 0 1 == 0#1 then
    checked (.phnew (w.extractLsb' 19 6) (w.extractLsb' 13 6) (w.getLsbD 2))
  else if w.extractLsb' 7 6 == 0#6 && w.extractLsb' 3 4 == 1#4 && w.extractLsb' 1 1 == 0#1 && w.extractLsb' 0 1 == 0#1 then
    checked (.phfree (w.extractLsb' 19 6) (w.extractLsb' 13 6) (w.getLsbD 2))
  else .error .reservedOrUnassigned

/-- Opcode 0x6F: PHREG, PHDROP (R92). -/
noncomputable def decode6F (w : W32) : Except DecodeError Instr :=
  if w.extractLsb' 10 3 == 0#3 && w.extractLsb' 3 4 == 0#4 && w.extractLsb' 1 1 == 0#1 && w.extractLsb' 0 1 == 0#1 then
    checked (.phreg (w.extractLsb' 19 6) (w.extractLsb' 13 6) (w.extractLsb' 7 3) (w.getLsbD 2))
  else if w.extractLsb' 7 6 == 0#6 && w.extractLsb' 3 4 == 1#4 && w.extractLsb' 1 1 == 0#1 && w.extractLsb' 0 1 == 0#1 then
    checked (.phdrop (w.extractLsb' 19 6) (w.extractLsb' 13 6) (w.getLsbD 2))
  else .error .reservedOrUnassigned

/-- Opcode 0x70: PHSIG, PHWAIT, PHARR (R92). -/
noncomputable def decode70 (w : W32) : Except DecodeError Instr :=
  if w.extractLsb' 7 6 == 0#6 && w.extractLsb' 3 4 == 0#4 && w.extractLsb' 1 1 == 0#1 && w.extractLsb' 0 1 == 0#1 then
    checked (.phsig (w.extractLsb' 19 6) (w.extractLsb' 13 6) (w.getLsbD 2))
  else if w.extractLsb' 7 6 == 0#6 && w.extractLsb' 3 4 == 1#4 && w.extractLsb' 1 1 == 0#1 && w.extractLsb' 0 1 == 0#1 then
    checked (.phwait (w.extractLsb' 19 6) (w.extractLsb' 13 6) (w.getLsbD 2))
  else if w.extractLsb' 7 6 == 0#6 && w.extractLsb' 3 4 == 2#4 && w.extractLsb' 1 1 == 0#1 && w.extractLsb' 0 1 == 0#1 then
    checked (.pharr (w.extractLsb' 19 6) (w.extractLsb' 13 6) (w.getLsbD 2))
  else .error .reservedOrUnassigned

/-- Opcode 0x71: PHBYTES (R92). -/
noncomputable def decode71 (w : W32) : Except DecodeError Instr :=
  if w.extractLsb' 3 4 == 0#4 && w.extractLsb' 0 1 == 0#1 then
    checked (.phbytes (w.extractLsb' 19 6) (w.extractLsb' 13 6) (w.extractLsb' 7 6) (w.getLsbD 2) (w.getLsbD 1))
  else .error .reservedOrUnassigned

/-- Opcode 0x72: BAR, BARTO (R92). -/
noncomputable def decode72 (w : W32) : Except DecodeError Instr :=
  if w.extractLsb' 19 6 == 0#6 && w.extractLsb' 13 6 == 0#6 && w.extractLsb' 7 6 == 0#6 && w.extractLsb' 3 4 == 0#4
     && w.extractLsb' 2 1 == 0#1 && w.extractLsb' 1 1 == 0#1 && w.extractLsb' 0 1 == 0#1 then
    checked .bar
  else if w.extractLsb' 19 6 == 0#6 && w.extractLsb' 3 4 == 1#4 && w.extractLsb' 0 1 == 0#1 then
    checked (.barto (w.extractLsb' 13 6) (w.extractLsb' 7 6) (w.getLsbD 2) (w.getLsbD 1))
  else .error .reservedOrUnassigned

/-- Opcode 0x73: FLUSHDA (R92). -/
def decode73 (w : W32) : Except DecodeError Instr :=
  if w.extractLsb' 19 6 == 0#6 && w.extractLsb' 13 6 == 0#6 && w.extractLsb' 7 6 == 0#6 && w.extractLsb' 3 4 == 0#4
     && w.extractLsb' 2 1 == 0#1 && w.extractLsb' 1 1 == 0#1 && w.extractLsb' 0 1 == 0#1 then
    checked .flushda
  else .error .reservedOrUnassigned

/-- Opcode 0x74: LKMAT (R92). -/
noncomputable def decode74 (w : W32) : Except DecodeError Instr :=
  if w.extractLsb' 7 6 == 0#6 && w.extractLsb' 3 4 == 0#4 && w.extractLsb' 1 1 == 0#1 && w.extractLsb' 0 1 == 0#1 then
    checked (.lkmat (w.extractLsb' 19 6) (w.extractLsb' 13 6) (w.getLsbD 2))
  else .error .reservedOrUnassigned

/-- Opcode 0x75: LKBEGIN, LKBEGIN_WT, LKEND, LKABORT (R92). -/
noncomputable def decode75 (w : W32) : Except DecodeError Instr :=
  if w.extractLsb' 13 6 == 0#6 && w.extractLsb' 7 6 == 0#6 && w.extractLsb' 3 4 == 0#4 && w.extractLsb' 2 1 == 0#1
     && w.extractLsb' 1 1 == 0#1 && w.extractLsb' 0 1 == 0#1 then
    checked (.lkbegin (w.extractLsb' 19 6))
  else if w.extractLsb' 13 6 == 0#6 && w.extractLsb' 7 6 == 0#6 && w.extractLsb' 3 4 == 1#4 && w.extractLsb' 2 1 == 0#1
     && w.extractLsb' 1 1 == 0#1 && w.extractLsb' 0 1 == 0#1 then
    checked (.lkbeginWt (w.extractLsb' 19 6))
  else if w.extractLsb' 13 6 == 0#6 && w.extractLsb' 7 6 == 0#6 && w.extractLsb' 3 4 == 2#4 && w.extractLsb' 2 1 == 0#1
     && w.extractLsb' 1 1 == 0#1 && w.extractLsb' 0 1 == 0#1 then
    checked (.lkend (w.extractLsb' 19 6))
  else if w.extractLsb' 13 6 == 0#6 && w.extractLsb' 7 6 == 0#6 && w.extractLsb' 3 4 == 3#4 && w.extractLsb' 2 1 == 0#1
     && w.extractLsb' 1 1 == 0#1 && w.extractLsb' 0 1 == 0#1 then
    checked (.lkabort (w.extractLsb' 19 6))
  else .error .reservedOrUnassigned

/-- Opcode 0x76: LKACQ, LKTRY, LKUP (R92). -/
noncomputable def decode76 (w : W32) : Except DecodeError Instr :=
  if w.extractLsb' 10 3 == 0#3 && w.extractLsb' 3 4 == 0#4 && w.extractLsb' 1 1 == 0#1 && w.extractLsb' 0 1 == 0#1 then
    checked (.lkacq (w.extractLsb' 19 6) (w.extractLsb' 13 6) (w.extractLsb' 7 3) (w.getLsbD 2))
  else if w.extractLsb' 10 3 == 0#3 && w.extractLsb' 3 4 == 1#4 && w.extractLsb' 1 1 == 0#1 && w.extractLsb' 0 1 == 0#1 then
    checked (.lktry (w.extractLsb' 19 6) (w.extractLsb' 13 6) (w.extractLsb' 7 3) (w.getLsbD 2))
  else if w.extractLsb' 10 3 == 0#3 && w.extractLsb' 3 4 == 2#4 && w.extractLsb' 1 1 == 0#1 && w.extractLsb' 0 1 == 0#1 then
    checked (.lkup (w.extractLsb' 19 6) (w.extractLsb' 13 6) (w.extractLsb' 7 3) (w.getLsbD 2))
  else .error .reservedOrUnassigned

/-- Opcode 0x77: LKREL, LKSTAT (R92). -/
noncomputable def decode77 (w : W32) : Except DecodeError Instr :=
  if w.extractLsb' 7 6 == 0#6 && w.extractLsb' 3 4 == 0#4 && w.extractLsb' 1 1 == 0#1 && w.extractLsb' 0 1 == 0#1 then
    checked (.lkrel (w.extractLsb' 19 6) (w.extractLsb' 13 6) (w.getLsbD 2))
  else if w.extractLsb' 7 6 == 0#6 && w.extractLsb' 3 4 == 1#4 && w.extractLsb' 1 1 == 0#1 && w.extractLsb' 0 1 == 0#1 then
    checked (.lkstat (w.extractLsb' 19 6) (w.extractLsb' 13 6) (w.getLsbD 2))
  else .error .reservedOrUnassigned

/-- Opcode 0x78: GO, BR (R92). -/
noncomputable def decode78 (w : W32) : Except DecodeError Instr :=
  if w.extractLsb' 0 3 == 0#3 then
    checked (.go (w.extractLsb' 3 22))
  else
    checked (.br (w.extractLsb' 3 22) (w.extractLsb' 0 3))

/-- Opcode 0x79: CALL (R92). -/
noncomputable def decode79 (w : W32) : Except DecodeError Instr :=
  if w.extractLsb' 0 3 == 0#3 then
    checked (.call (w.extractLsb' 3 22))
  else .error .reservedOrUnassigned

/-- Opcode 0x7A: BRX, CALLX, RET, EXIT, YIELD (R92). -/
noncomputable def decode7A (w : W32) : Except DecodeError Instr :=
  if w.extractLsb' 4 13 == 0#13 && w.extractLsb' 0 4 == 0#4 then
    checked (.brx (w.extractLsb' 18 7) (w.getLsbD 17))
  else if w.extractLsb' 4 13 == 0#13 && w.extractLsb' 0 4 == 1#4 then
    checked (.callx (w.extractLsb' 18 7) (w.getLsbD 17))
  else if w.extractLsb' 4 13 == 0#13 && w.extractLsb' 0 4 == 2#4 then
    checked (.ret (w.extractLsb' 18 7) (w.getLsbD 17))
  else if w.extractLsb' 18 7 == 0#7 && w.extractLsb' 17 1 == 0#1 && w.extractLsb' 4 13 == 0#13 && w.extractLsb' 0 4 ==
     3#4 then
    checked .exit
  else if w.extractLsb' 18 7 == 0#7 && w.extractLsb' 17 1 == 0#1 && w.extractLsb' 4 13 == 0#13 && w.extractLsb' 0 4 ==
     4#4 then
    checked .yield
  else .error .reservedOrUnassigned

/-- Opcode 0x7B: NOP, LAUNCH, JOIN (R92). -/
noncomputable def decode7B (w : W32) : Except DecodeError Instr :=
  if w.extractLsb' 19 6 == 0#6 && w.extractLsb' 13 6 == 0#6 && w.extractLsb' 7 6 == 0#6 && w.extractLsb' 3 4 == 0#4
     && w.extractLsb' 2 1 == 0#1 && w.extractLsb' 1 1 == 0#1 && w.extractLsb' 0 1 == 0#1 then
    checked .nop
  else if w.extractLsb' 7 6 == 0#6 && w.extractLsb' 3 4 == 1#4 && w.extractLsb' 1 1 == 0#1 && w.extractLsb' 0 1 == 0#1 then
    checked (.launch (w.extractLsb' 19 6) (w.extractLsb' 13 6) (w.getLsbD 2))
  else if w.extractLsb' 7 6 == 0#6 && w.extractLsb' 3 4 == 2#4 && w.extractLsb' 1 1 == 0#1 && w.extractLsb' 0 1 == 0#1 then
    checked (.join (w.extractLsb' 19 6) (w.extractLsb' 13 6) (w.getLsbD 2))
  else .error .reservedOrUnassigned

/-- Opcode 0x7C: TRAP, TRAP_S, BRK, TRET (R92). -/
noncomputable def decode7C (w : W32) : Except DecodeError Instr :=
  if w.extractLsb' 19 6 == 0#6 && w.extractLsb' 7 6 == 0#6 && w.extractLsb' 3 4 == 0#4 && w.extractLsb' 1 1 == 0#1
     && w.extractLsb' 0 1 == 0#1 then
    checked (.trap (w.extractLsb' 13 6) (w.getLsbD 2))
  else if w.extractLsb' 19 6 == 0#6 && w.extractLsb' 7 6 == 1#6 && w.extractLsb' 3 4 == 0#4 && w.extractLsb' 1 1 == 0#1
     && w.extractLsb' 0 1 == 0#1 then
    checked (.trapS (w.extractLsb' 13 6) (w.getLsbD 2))
  else if w.extractLsb' 19 6 == 0#6 && w.extractLsb' 13 6 == 0#6 && w.extractLsb' 7 6 == 0#6 && w.extractLsb' 3 4 == 1#4
     && w.extractLsb' 2 1 == 0#1 && w.extractLsb' 1 1 == 0#1 && w.extractLsb' 0 1 == 0#1 then
    checked .brk
  else if w.extractLsb' 19 6 == 0#6 && w.extractLsb' 13 6 == 0#6 && w.extractLsb' 7 6 == 0#6 && w.extractLsb' 3 4 == 2#4
     && w.extractLsb' 2 1 == 0#1 && w.extractLsb' 1 1 == 0#1 && w.extractLsb' 0 1 == 0#1 then
    checked .tret
  else .error .reservedOrUnassigned

/-- Opcode 0x7D: SRD, SRD_LANEID, SWR, SKEY (R92). -/
noncomputable def decode7D (w x : W32) : Except DecodeError Instr :=
  if w.extractLsb' 13 6 == 0#6 && w.extractLsb' 7 6 == 0#6 && w.extractLsb' 3 4 == 0#4 && w.extractLsb' 2 1 == 0#1
     && w.extractLsb' 1 1 == 0#1 && w.extractLsb' 0 1 == 0#1 && x.extractLsb' 24 8 == 0#8 && x.extractLsb' 20 4 ==
     0#4 && x.extractLsb' 11 9 == 0#9 && x.extractLsb' 10 1 == 0#1 then
    checked (.srd (w.extractLsb' 19 6) (x.extractLsb' 8 2) (x.extractLsb' 0 8))
  else if w.extractLsb' 19 6 == 0#6 && w.extractLsb' 13 6 == 0#6 && w.extractLsb' 7 6 == 0#6 && w.extractLsb' 3 4 == 0#4
     && w.extractLsb' 2 1 == 0#1 && w.extractLsb' 1 1 == 0#1 && w.extractLsb' 0 1 == 0#1 && x.extractLsb' 24 1 ==
     0#1 && x.extractLsb' 20 4 == 0#4 && x.extractLsb' 11 9 == 0#9 && x.extractLsb' 10 1 == 1#1 && x.extractLsb' 8
     2 == 0#2 && x.extractLsb' 0 8 == 3#8 then
    checked (.srdLaneid (x.extractLsb' 25 7))
  else if w.extractLsb' 19 6 == 0#6 && w.extractLsb' 7 6 == 0#6 && w.extractLsb' 3 4 == 1#4 && w.extractLsb' 1 1 == 0#1
     && w.extractLsb' 0 1 == 0#1 && x.extractLsb' 24 8 == 0#8 && x.extractLsb' 20 4 == 0#4 && x.extractLsb' 11 9 ==
     0#9 && x.extractLsb' 10 1 == 0#1 then
    checked (.swr (w.extractLsb' 13 6) (w.getLsbD 2) (x.extractLsb' 8 2) (x.extractLsb' 0 8))
  else if w.extractLsb' 19 6 == 0#6 && w.extractLsb' 7 6 == 0#6 && w.extractLsb' 3 4 == 2#4 && w.extractLsb' 1 1 == 0#1
     && w.extractLsb' 0 1 == 0#1 && x.extractLsb' 20 4 == 0#4 && x.extractLsb' 0 20 == 0#20 then
    checked (.skey (w.extractLsb' 13 6) (w.getLsbD 2) (x.extractLsb' 25 7) (x.getLsbD 24))
  else .error .reservedOrUnassigned

/-- Opcode 0x7E: TLBINV, VACATE, TOKQ, HALTWG (R92). -/
noncomputable def decode7E (w : W32) : Except DecodeError Instr :=
  if w.extractLsb' 19 6 == 0#6 && w.extractLsb' 3 4 == 0#4 && w.extractLsb' 0 1 == 0#1 then
    checked (.tlbinv (w.extractLsb' 13 6) (w.extractLsb' 7 6) (w.getLsbD 2) (w.getLsbD 1))
  else if w.extractLsb' 3 4 == 1#4 && w.extractLsb' 0 1 == 0#1 then
    checked (.vacate (w.extractLsb' 19 6) (w.extractLsb' 13 6) (w.extractLsb' 7 6) (w.getLsbD 2) (w.getLsbD 1))
  else if w.extractLsb' 7 6 == 0#6 && w.extractLsb' 3 4 == 2#4 && w.extractLsb' 1 1 == 0#1 && w.extractLsb' 0 1 == 0#1 then
    checked (.tokq (w.extractLsb' 19 6) (w.extractLsb' 13 6) (w.getLsbD 2))
  else if w.extractLsb' 3 4 == 3#4 && w.extractLsb' 0 1 == 0#1 then
    checked (.haltwg (w.extractLsb' 19 6) (w.extractLsb' 13 6) (w.extractLsb' 7 6) (w.getLsbD 2) (w.getLsbD 1))
  else .error .reservedOrUnassigned

/-- The decoder, total on any two words: the instruction that `w` begins, with `x` the word after it, which is read
only where an extension or a literal word follows (R78, R92). Everything else is refused by name (R81, R93). -/
noncomputable def decode (w x : W32) : Except DecodeError Instr :=
  match (w.extractLsb' 25 7).toNat with
  | 0x00 => decode00 w
  | 0x01 => decode01 w
  | 0x02 => decode02 w
  | 0x03 => decode03 w
  | 0x04 => decode04 w
  | 0x05 => decode05 w
  | 0x06 => decode06 w
  | 0x07 => decode07 w
  | 0x08 => decode08 w
  | 0x09 => decode09 w
  | 0x0A => decode0A w
  | 0x0B => decode0B w
  | 0x0C => decode0C w
  | 0x0D => decode0D w
  | 0x0E => decode0E w
  | 0x0F => decode0F w
  | 0x10 => decode10 w
  | 0x11 => decode11 w x
  | 0x12 => decode12 w
  | 0x13 => decode13 w x
  | 0x18 => decode18 w
  | 0x19 => decode19 w
  | 0x1A => decode1A w x
  | 0x1B => decode1B w x
  | 0x1C => decode1C w x
  | 0x1D => decode1D w
  | 0x20 => decode20 w x
  | 0x21 => decode21 w x
  | 0x22 => decode22 w x
  | 0x23 => decode23 w x
  | 0x24 => decode24 w
  | 0x25 => decode25 w
  | 0x26 => decode26 w
  | 0x27 => decode27 w
  | 0x28 => decode28 w
  | 0x29 => decode29 w
  | 0x2A => decode2A w
  | 0x2B => decode2B w
  | 0x2C => decode2C w
  | 0x2D => decode2D w
  | 0x2E => decode2E w
  | 0x30 => decode30 w x
  | 0x31 => decode31 w x
  | 0x32 => decode32 w x
  | 0x33 => decode33 w x
  | 0x40 => decode40 w x
  | 0x41 => decode41 w x
  | 0x42 => decode42 w x
  | 0x43 => decode43 w x
  | 0x44 => decode44 w x
  | 0x48 => decode48 w
  | 0x49 => decode49 w x
  | 0x4A => decode4A w
  | 0x4B => decode4B w x
  | 0x4C => decode4C w x
  | 0x4D => decode4D w x
  | 0x4E => decode4E w x
  | 0x4F => decode4F w x
  | 0x50 => decode50 w x
  | 0x51 => decode51 w x
  | 0x52 => decode52 w x
  | 0x53 => decode53 w x
  | 0x54 => decode54 w
  | 0x58 => decode58 w x
  | 0x59 => decode59 w x
  | 0x5A => decode5A w x
  | 0x5B => decode5B w x
  | 0x5C => decode5C w
  | 0x5D => decode5D w
  | 0x60 => decode60 w x
  | 0x61 => decode61 w x
  | 0x62 => decode62 w x
  | 0x63 => decode63 w x
  | 0x64 => decode64 w x
  | 0x65 => decode65 w
  | 0x66 => decode66 w x
  | 0x67 => decode67 w
  | 0x68 => decode68 w x
  | 0x69 => decode69 w x
  | 0x6A => decode6A w x
  | 0x6B => decode6B w x
  | 0x6C => decode6C w
  | 0x6D => decode6D w
  | 0x6E => decode6E w
  | 0x6F => decode6F w
  | 0x70 => decode70 w
  | 0x71 => decode71 w
  | 0x72 => decode72 w
  | 0x73 => decode73 w
  | 0x74 => decode74 w
  | 0x75 => decode75 w
  | 0x76 => decode76 w
  | 0x77 => decode77 w
  | 0x78 => decode78 w
  | 0x79 => decode79 w
  | 0x7A => decode7A w
  | 0x7B => decode7B w
  | 0x7C => decode7C w
  | 0x7D => decode7D w x
  | 0x7E => decode7E w
  | _ => .error .unassignedOpcode

/-- Whether an extension or a literal word follows the instruction word: the opcode alone decides it (R78, R92). -/
def hasSecondWord (w : W32) : Bool :=
  [0x11, 0x13, 0x1A, 0x1B, 0x1C, 0x20, 0x21, 0x22, 0x23, 0x30, 0x31, 0x32, 0x33, 0x40, 0x41, 0x42, 0x43, 0x44,
   0x49, 0x4B, 0x4C, 0x4D, 0x4E, 0x4F, 0x50, 0x51, 0x52, 0x53, 0x58, 0x59, 0x5A, 0x5B, 0x60, 0x61, 0x62, 0x63,
   0x64, 0x66, 0x68, 0x69, 0x6A, 0x6B, 0x7D].contains
    (w.extractLsb' 25 7).toNat

/-- The words of a well-formed instruction, from the layouts of R82-R92; an event has none. -/
def encode : Instr → List W32
  | .add d a b ta tb p =>
    [(0#7 ++ d ++ a ++ b ++ BitVec.ofBool ta ++ BitVec.ofBool tb ++ p : W32)]
  | .sub d a b ta tb p =>
    [(1#7 ++ d ++ a ++ b ++ BitVec.ofBool ta ++ BitVec.ofBool tb ++ p : W32)]
  | .mulLo d a b ta tb p =>
    [(3#7 ++ d ++ a ++ b ++ BitVec.ofBool ta ++ BitVec.ofBool tb ++ p : W32)]
  | .mulHi d a b ta tb p =>
    [(4#7 ++ d ++ a ++ b ++ BitVec.ofBool ta ++ BitVec.ofBool tb ++ p : W32)]
  | .min d a b ta tb p =>
    [(5#7 ++ d ++ a ++ b ++ BitVec.ofBool ta ++ BitVec.ofBool tb ++ p : W32)]
  | .max d a b ta tb p =>
    [(6#7 ++ d ++ a ++ b ++ BitVec.ofBool ta ++ BitVec.ofBool tb ++ p : W32)]
  | .and d a b ta tb p =>
    [(7#7 ++ d ++ a ++ b ++ BitVec.ofBool ta ++ BitVec.ofBool tb ++ p : W32)]
  | .or d a b ta tb p =>
    [(8#7 ++ d ++ a ++ b ++ BitVec.ofBool ta ++ BitVec.ofBool tb ++ p : W32)]
  | .xor d a b ta tb p =>
    [(9#7 ++ d ++ a ++ b ++ BitVec.ofBool ta ++ BitVec.ofBool tb ++ p : W32)]
  | .andn d a b ta tb p =>
    [(10#7 ++ d ++ a ++ b ++ BitVec.ofBool ta ++ BitVec.ofBool tb ++ p : W32)]
  | .shl d a b ta tb p =>
    [(11#7 ++ d ++ a ++ b ++ BitVec.ofBool ta ++ BitVec.ofBool tb ++ p : W32)]
  | .shr d a b ta tb p =>
    [(12#7 ++ d ++ a ++ b ++ BitVec.ofBool ta ++ BitVec.ofBool tb ++ p : W32)]
  | .sar d a b ta tb p =>
    [(13#7 ++ d ++ a ++ b ++ BitVec.ofBool ta ++ BitVec.ofBool tb ++ p : W32)]
  | .rot d a b ta tb p =>
    [(14#7 ++ d ++ a ++ b ++ BitVec.ofBool ta ++ BitVec.ofBool tb ++ p : W32)]
  | .addImm d a imm ta p =>
    [(2#7 ++ d ++ a ++ imm ++ BitVec.ofBool ta ++ p : W32)]
  | .shlImm d a cnt ta p =>
    [(15#7 ++ d ++ a ++ 0#2 ++ cnt ++ BitVec.ofBool ta ++ p : W32)]
  | .shrImm d a cnt ta p =>
    [(15#7 ++ d ++ a ++ 1#2 ++ cnt ++ BitVec.ofBool ta ++ p : W32)]
  | .sarImm d a cnt ta p =>
    [(15#7 ++ d ++ a ++ 2#2 ++ cnt ++ BitVec.ofBool ta ++ p : W32)]
  | .rotImm d a cnt ta p =>
    [(15#7 ++ d ++ a ++ 3#2 ++ cnt ++ BitVec.ofBool ta ++ p : W32)]
  | .abs d a ta p =>
    [(16#7 ++ d ++ a ++ 0#7 ++ BitVec.ofBool ta ++ 0#1 ++ p : W32)]
  | .neg d a ta p =>
    [(16#7 ++ d ++ a ++ 1#7 ++ BitVec.ofBool ta ++ 0#1 ++ p : W32)]
  | .not d a ta p =>
    [(16#7 ++ d ++ a ++ 2#7 ++ BitVec.ofBool ta ++ 0#1 ++ p : W32)]
  | .clz d a ta p =>
    [(16#7 ++ d ++ a ++ 3#7 ++ BitVec.ofBool ta ++ 0#1 ++ p : W32)]
  | .popc d a ta p =>
    [(16#7 ++ d ++ a ++ 4#7 ++ BitVec.ofBool ta ++ 0#1 ++ p : W32)]
  | .brev d a ta p =>
    [(16#7 ++ d ++ a ++ 5#7 ++ BitVec.ofBool ta ++ 0#1 ++ p : W32)]
  | .mov d a ta p =>
    [(16#7 ++ d ++ a ++ 6#7 ++ BitVec.ofBool ta ++ 0#1 ++ p : W32)]
  | .addX d a b ta tb p ty =>
    [(17#7 ++ d ++ a ++ b ++ BitVec.ofBool ta ++ BitVec.ofBool tb ++ p : W32),
     (0#7 ++ 0#1 ++ ty.code ++ 0#5 ++ 0#15 : W32)]
  | .subX d a b ta tb p ty =>
    [(17#7 ++ d ++ a ++ b ++ BitVec.ofBool ta ++ BitVec.ofBool tb ++ p : W32),
     (0#7 ++ 0#1 ++ ty.code ++ 1#5 ++ 0#15 : W32)]
  | .mulLoX d a b ta tb p ty =>
    [(17#7 ++ d ++ a ++ b ++ BitVec.ofBool ta ++ BitVec.ofBool tb ++ p : W32),
     (0#7 ++ 0#1 ++ ty.code ++ 2#5 ++ 0#15 : W32)]
  | .mulHiX d a b ta tb p ty =>
    [(17#7 ++ d ++ a ++ b ++ BitVec.ofBool ta ++ BitVec.ofBool tb ++ p : W32),
     (0#7 ++ 0#1 ++ ty.code ++ 3#5 ++ 0#15 : W32)]
  | .mad d a b ta tb p c tc ty =>
    [(17#7 ++ d ++ a ++ b ++ BitVec.ofBool ta ++ BitVec.ofBool tb ++ p : W32),
     (c ++ BitVec.ofBool tc ++ ty.code ++ 4#5 ++ 0#15 : W32)]
  | .minX d a b ta tb p ty =>
    [(17#7 ++ d ++ a ++ b ++ BitVec.ofBool ta ++ BitVec.ofBool tb ++ p : W32),
     (0#7 ++ 0#1 ++ ty.code ++ 5#5 ++ 0#15 : W32)]
  | .maxX d a b ta tb p ty =>
    [(17#7 ++ d ++ a ++ b ++ BitVec.ofBool ta ++ BitVec.ofBool tb ++ p : W32),
     (0#7 ++ 0#1 ++ ty.code ++ 6#5 ++ 0#15 : W32)]
  | .absX d a ta p ty =>
    [(17#7 ++ d ++ a ++ 0#7 ++ BitVec.ofBool ta ++ 0#1 ++ p : W32),
     (0#7 ++ 0#1 ++ ty.code ++ 7#5 ++ 0#15 : W32)]
  | .negX d a ta p ty =>
    [(17#7 ++ d ++ a ++ 0#7 ++ BitVec.ofBool ta ++ 0#1 ++ p : W32),
     (0#7 ++ 0#1 ++ ty.code ++ 8#5 ++ 0#15 : W32)]
  | .andX d a b ta tb p ty =>
    [(17#7 ++ d ++ a ++ b ++ BitVec.ofBool ta ++ BitVec.ofBool tb ++ p : W32),
     (0#7 ++ 0#1 ++ ty.code ++ 9#5 ++ 0#15 : W32)]
  | .orX d a b ta tb p ty =>
    [(17#7 ++ d ++ a ++ b ++ BitVec.ofBool ta ++ BitVec.ofBool tb ++ p : W32),
     (0#7 ++ 0#1 ++ ty.code ++ 10#5 ++ 0#15 : W32)]
  | .xorX d a b ta tb p ty =>
    [(17#7 ++ d ++ a ++ b ++ BitVec.ofBool ta ++ BitVec.ofBool tb ++ p : W32),
     (0#7 ++ 0#1 ++ ty.code ++ 11#5 ++ 0#15 : W32)]
  | .andnX d a b ta tb p ty =>
    [(17#7 ++ d ++ a ++ b ++ BitVec.ofBool ta ++ BitVec.ofBool tb ++ p : W32),
     (0#7 ++ 0#1 ++ ty.code ++ 12#5 ++ 0#15 : W32)]
  | .notX d a ta p ty =>
    [(17#7 ++ d ++ a ++ 0#7 ++ BitVec.ofBool ta ++ 0#1 ++ p : W32),
     (0#7 ++ 0#1 ++ ty.code ++ 13#5 ++ 0#15 : W32)]
  | .shlX d a b ta tb p ty im cnt =>
    [(17#7 ++ d ++ a ++ b ++ BitVec.ofBool ta ++ BitVec.ofBool tb ++ p : W32),
     (0#7 ++ 0#1 ++ ty.code ++ 14#5 ++ BitVec.ofBool im ++ 0#2 ++ 0#6 ++ cnt : W32)]
  | .shrX d a b ta tb p ty im cnt =>
    [(17#7 ++ d ++ a ++ b ++ BitVec.ofBool ta ++ BitVec.ofBool tb ++ p : W32),
     (0#7 ++ 0#1 ++ ty.code ++ 15#5 ++ BitVec.ofBool im ++ 0#2 ++ 0#6 ++ cnt : W32)]
  | .sarX d a b ta tb p ty im cnt =>
    [(17#7 ++ d ++ a ++ b ++ BitVec.ofBool ta ++ BitVec.ofBool tb ++ p : W32),
     (0#7 ++ 0#1 ++ ty.code ++ 16#5 ++ BitVec.ofBool im ++ 0#2 ++ 0#6 ++ cnt : W32)]
  | .rotX d a b ta tb p ty im cnt =>
    [(17#7 ++ d ++ a ++ b ++ BitVec.ofBool ta ++ BitVec.ofBool tb ++ p : W32),
     (0#7 ++ 0#1 ++ ty.code ++ 17#5 ++ BitVec.ofBool im ++ 0#2 ++ 0#6 ++ cnt : W32)]
  | .clzX d a ta p ty =>
    [(17#7 ++ d ++ a ++ 0#7 ++ BitVec.ofBool ta ++ 0#1 ++ p : W32),
     (0#7 ++ 0#1 ++ ty.code ++ 18#5 ++ 0#15 : W32)]
  | .popcX d a ta p ty =>
    [(17#7 ++ d ++ a ++ 0#7 ++ BitVec.ofBool ta ++ 0#1 ++ p : W32),
     (0#7 ++ 0#1 ++ ty.code ++ 19#5 ++ 0#15 : W32)]
  | .brevX d a ta p ty =>
    [(17#7 ++ d ++ a ++ 0#7 ++ BitVec.ofBool ta ++ 0#1 ++ p : W32),
     (0#7 ++ 0#1 ++ ty.code ++ 20#5 ++ 0#15 : W32)]
  | .bfe d a ta p ty pos len =>
    [(17#7 ++ d ++ a ++ 0#7 ++ BitVec.ofBool ta ++ 0#1 ++ p : W32),
     (0#7 ++ 0#1 ++ ty.code ++ 21#5 ++ 0#1 ++ 0#2 ++ pos ++ len : W32)]
  | .bfi d a b ta tb p ty pos len =>
    [(17#7 ++ d ++ a ++ b ++ BitVec.ofBool ta ++ BitVec.ofBool tb ++ p : W32),
     (0#7 ++ 0#1 ++ ty.code ++ 22#5 ++ 0#1 ++ 0#2 ++ pos ++ len : W32)]
  | .sel d a b ta tb p ty sl =>
    [(17#7 ++ d ++ a ++ b ++ BitVec.ofBool ta ++ BitVec.ofBool tb ++ p : W32),
     (0#7 ++ 0#1 ++ ty.code ++ 23#5 ++ 0#11 ++ sl : W32)]
  | .cmp md a b ta tb p ty cond =>
    [(17#7 ++ 0#3 ++ md ++ a ++ b ++ BitVec.ofBool ta ++ BitVec.ofBool tb ++ p : W32),
     (0#7 ++ 0#1 ++ ty.code ++ 24#5 ++ 0#12 ++ cond : W32)]
  | .movX d a ta p ty =>
    [(17#7 ++ d ++ a ++ 0#7 ++ BitVec.ofBool ta ++ 0#1 ++ p : W32),
     (0#7 ++ 0#1 ++ ty.code ++ 25#5 ++ 0#15 : W32)]
  | .addSat d a b ta tb p ty =>
    [(17#7 ++ d ++ a ++ b ++ BitVec.ofBool ta ++ BitVec.ofBool tb ++ p : W32),
     (0#7 ++ 0#1 ++ ty.code ++ 26#5 ++ 0#15 : W32)]
  | .subSat d a b ta tb p ty =>
    [(17#7 ++ d ++ a ++ b ++ BitVec.ofBool ta ++ BitVec.ofBool tb ++ p : W32),
     (0#7 ++ 0#1 ++ ty.code ++ 27#5 ++ 0#15 : W32)]
  | .movi d imm p =>
    [(18#7 ++ d ++ imm ++ p : W32)]
  | .litVector d pr hi lit =>
    [(19#7 ++ d ++ BitVec.ofBool pr ++ hi ++ 0#1 : W32),
     lit]
  | .uniformAdd d a b ta tb =>
    [(24#7 ++ d ++ a ++ b ++ 0#4 ++ BitVec.ofBool ta ++ BitVec.ofBool tb ++ 0#1 : W32)]
  | .uniformSub d a b ta tb =>
    [(24#7 ++ d ++ a ++ b ++ 1#4 ++ BitVec.ofBool ta ++ BitVec.ofBool tb ++ 0#1 : W32)]
  | .uniformMulLo d a b ta tb =>
    [(24#7 ++ d ++ a ++ b ++ 2#4 ++ BitVec.ofBool ta ++ BitVec.ofBool tb ++ 0#1 : W32)]
  | .uniformMulHiS d a b ta tb =>
    [(24#7 ++ d ++ a ++ b ++ 3#4 ++ BitVec.ofBool ta ++ BitVec.ofBool tb ++ 0#1 : W32)]
  | .uniformMulHiN d a b ta tb =>
    [(24#7 ++ d ++ a ++ b ++ 4#4 ++ BitVec.ofBool ta ++ BitVec.ofBool tb ++ 0#1 : W32)]
  | .uniformMinS d a b ta tb =>
    [(24#7 ++ d ++ a ++ b ++ 5#4 ++ BitVec.ofBool ta ++ BitVec.ofBool tb ++ 0#1 : W32)]
  | .uniformMinN d a b ta tb =>
    [(24#7 ++ d ++ a ++ b ++ 6#4 ++ BitVec.ofBool ta ++ BitVec.ofBool tb ++ 0#1 : W32)]
  | .uniformMaxS d a b ta tb =>
    [(24#7 ++ d ++ a ++ b ++ 7#4 ++ BitVec.ofBool ta ++ BitVec.ofBool tb ++ 0#1 : W32)]
  | .uniformMaxN d a b ta tb =>
    [(24#7 ++ d ++ a ++ b ++ 8#4 ++ BitVec.ofBool ta ++ BitVec.ofBool tb ++ 0#1 : W32)]
  | .uniformAddSatS d a b ta tb =>
    [(24#7 ++ d ++ a ++ b ++ 9#4 ++ BitVec.ofBool ta ++ BitVec.ofBool tb ++ 0#1 : W32)]
  | .uniformAddSatN d a b ta tb =>
    [(24#7 ++ d ++ a ++ b ++ 10#4 ++ BitVec.ofBool ta ++ BitVec.ofBool tb ++ 0#1 : W32)]
  | .uniformSubSatS d a b ta tb =>
    [(24#7 ++ d ++ a ++ b ++ 11#4 ++ BitVec.ofBool ta ++ BitVec.ofBool tb ++ 0#1 : W32)]
  | .uniformSubSatN d a b ta tb =>
    [(24#7 ++ d ++ a ++ b ++ 12#4 ++ BitVec.ofBool ta ++ BitVec.ofBool tb ++ 0#1 : W32)]
  | .uniformAbs d a ta =>
    [(24#7 ++ d ++ a ++ 0#6 ++ 13#4 ++ BitVec.ofBool ta ++ 0#1 ++ 0#1 : W32)]
  | .uniformNeg d a ta =>
    [(24#7 ++ d ++ a ++ 0#6 ++ 14#4 ++ BitVec.ofBool ta ++ 0#1 ++ 0#1 : W32)]
  | .uniformAnd d a b ta tb =>
    [(25#7 ++ d ++ a ++ b ++ 0#4 ++ BitVec.ofBool ta ++ BitVec.ofBool tb ++ 0#1 : W32)]
  | .uniformOr d a b ta tb =>
    [(25#7 ++ d ++ a ++ b ++ 1#4 ++ BitVec.ofBool ta ++ BitVec.ofBool tb ++ 0#1 : W32)]
  | .uniformXor d a b ta tb =>
    [(25#7 ++ d ++ a ++ b ++ 2#4 ++ BitVec.ofBool ta ++ BitVec.ofBool tb ++ 0#1 : W32)]
  | .uniformAndn d a b ta tb =>
    [(25#7 ++ d ++ a ++ b ++ 3#4 ++ BitVec.ofBool ta ++ BitVec.ofBool tb ++ 0#1 : W32)]
  | .uniformNot d a ta =>
    [(25#7 ++ d ++ a ++ 0#6 ++ 4#4 ++ BitVec.ofBool ta ++ 0#1 ++ 0#1 : W32)]
  | .uniformShl d a b ta tb =>
    [(25#7 ++ d ++ a ++ b ++ 5#4 ++ BitVec.ofBool ta ++ BitVec.ofBool tb ++ 0#1 : W32)]
  | .uniformShr d a b ta tb =>
    [(25#7 ++ d ++ a ++ b ++ 6#4 ++ BitVec.ofBool ta ++ BitVec.ofBool tb ++ 0#1 : W32)]
  | .uniformSar d a b ta tb =>
    [(25#7 ++ d ++ a ++ b ++ 7#4 ++ BitVec.ofBool ta ++ BitVec.ofBool tb ++ 0#1 : W32)]
  | .uniformRot d a b ta tb =>
    [(25#7 ++ d ++ a ++ b ++ 8#4 ++ BitVec.ofBool ta ++ BitVec.ofBool tb ++ 0#1 : W32)]
  | .uniformClz d a ta =>
    [(25#7 ++ d ++ a ++ 0#6 ++ 9#4 ++ BitVec.ofBool ta ++ 0#1 ++ 0#1 : W32)]
  | .uniformPopc d a ta =>
    [(25#7 ++ d ++ a ++ 0#6 ++ 10#4 ++ BitVec.ofBool ta ++ 0#1 ++ 0#1 : W32)]
  | .uniformBrev d a ta =>
    [(25#7 ++ d ++ a ++ 0#6 ++ 11#4 ++ BitVec.ofBool ta ++ 0#1 ++ 0#1 : W32)]
  | .uniformMov d a ta =>
    [(25#7 ++ d ++ a ++ 0#6 ++ 12#4 ++ BitVec.ofBool ta ++ 0#1 ++ 0#1 : W32)]
  | .uniformAddImm d a ta imm =>
    [(26#7 ++ d ++ a ++ 0#6 ++ 0#4 ++ BitVec.ofBool ta ++ 0#1 ++ 0#1 : W32),
     (0#12 ++ imm : W32)]
  | .uniformAndImm d a ta imm =>
    [(26#7 ++ d ++ a ++ 0#6 ++ 1#4 ++ BitVec.ofBool ta ++ 0#1 ++ 0#1 : W32),
     (0#12 ++ imm : W32)]
  | .uniformOrImm d a ta imm =>
    [(26#7 ++ d ++ a ++ 0#6 ++ 2#4 ++ BitVec.ofBool ta ++ 0#1 ++ 0#1 : W32),
     (0#12 ++ imm : W32)]
  | .uniformXorImm d a ta imm =>
    [(26#7 ++ d ++ a ++ 0#6 ++ 3#4 ++ BitVec.ofBool ta ++ 0#1 ++ 0#1 : W32),
     (0#12 ++ imm : W32)]
  | .uniformShlImm d a ta imm =>
    [(26#7 ++ d ++ a ++ 0#6 ++ 4#4 ++ BitVec.ofBool ta ++ 0#1 ++ 0#1 : W32),
     (0#12 ++ imm : W32)]
  | .uniformShrImm d a ta imm =>
    [(26#7 ++ d ++ a ++ 0#6 ++ 5#4 ++ BitVec.ofBool ta ++ 0#1 ++ 0#1 : W32),
     (0#12 ++ imm : W32)]
  | .uniformSarImm d a ta imm =>
    [(26#7 ++ d ++ a ++ 0#6 ++ 6#4 ++ BitVec.ofBool ta ++ 0#1 ++ 0#1 : W32),
     (0#12 ++ imm : W32)]
  | .uniformMovi d imm =>
    [(26#7 ++ d ++ 0#6 ++ 0#6 ++ 7#4 ++ 0#1 ++ 0#1 ++ 0#1 : W32),
     (0#12 ++ imm : W32)]
  | .uniformMad d a b ta tb c tc ty =>
    [(27#7 ++ d ++ a ++ b ++ 0#4 ++ BitVec.ofBool ta ++ BitVec.ofBool tb ++ 0#1 : W32),
     (0#1 ++ c ++ BitVec.ofBool tc ++ ty.code ++ 0#20 : W32)]
  | .uniformBfe d a ta ty pos len =>
    [(27#7 ++ d ++ a ++ 0#6 ++ 1#4 ++ BitVec.ofBool ta ++ 0#1 ++ 0#1 : W32),
     (0#8 ++ ty.code ++ 0#8 ++ pos ++ len : W32)]
  | .uniformBfi d a b ta tb ty pos len =>
    [(27#7 ++ d ++ a ++ b ++ 2#4 ++ BitVec.ofBool ta ++ BitVec.ofBool tb ++ 0#1 : W32),
     (0#8 ++ ty.code ++ 0#8 ++ pos ++ len : W32)]
  | .uniformCmp md a b ta tb ty cond =>
    [(27#7 ++ 0#2 ++ md ++ a ++ b ++ 3#4 ++ BitVec.ofBool ta ++ BitVec.ofBool tb ++ 0#1 : W32),
     (0#8 ++ ty.code ++ 0#17 ++ cond : W32)]
  | .uniformSel d a b ta tb ty sl =>
    [(27#7 ++ d ++ a ++ b ++ 4#4 ++ BitVec.ofBool ta ++ BitVec.ofBool tb ++ 0#1 : W32),
     (0#8 ++ ty.code ++ 0#16 ++ sl : W32)]
  | .litUniform d hi lit =>
    [(28#7 ++ d ++ hi ++ 0#3 : W32),
     lit]
  | .seedTop d =>
    [(29#7 ++ d ++ 0#6 ++ 0#6 ++ 0#4 ++ 0#1 ++ 0#1 ++ 0#1 : W32)]
  | .seedDepth d =>
    [(29#7 ++ d ++ 0#6 ++ 0#6 ++ 1#4 ++ 0#1 ++ 0#1 ++ 0#1 : W32)]
  | .mand d a b =>
    [(36#7 ++ d ++ a ++ b ++ 0#3 ++ 0#10 : W32)]
  | .mor d a b =>
    [(36#7 ++ d ++ a ++ b ++ 1#3 ++ 0#10 : W32)]
  | .mxor d a b =>
    [(36#7 ++ d ++ a ++ b ++ 2#3 ++ 0#10 : W32)]
  | .mandn d a b =>
    [(36#7 ++ d ++ a ++ b ++ 3#3 ++ 0#10 : W32)]
  | .mnot d a =>
    [(36#7 ++ d ++ a ++ 0#4 ++ 4#3 ++ 0#10 : W32)]
  | .mmov d a =>
    [(36#7 ++ d ++ a ++ 0#4 ++ 5#3 ++ 0#10 : W32)]
  | .mget d ma =>
    [(37#7 ++ d ++ 0#2 ++ ma ++ 0#6 ++ 0#4 ++ 0#1 ++ 0#1 ++ 0#1 : W32)]
  | .mset md a ta =>
    [(37#7 ++ 0#2 ++ md ++ a ++ 0#6 ++ 1#4 ++ BitVec.ofBool ta ++ 0#1 ++ 0#1 : W32)]
  | .pollMask d a ta p mem =>
    [(32#7 ++ d ++ a ++ 0#7 ++ BitVec.ofBool ta ++ 0#1 ++ p : W32),
     (0#8 ++ 0#4 ++ 0#4 ++ 0#1 ++ 0#1 ++ 2#4 ++ 0#5 ++ 0#1 ++ mem : W32)]
  | .pollSome md a ta p mem =>
    [(32#7 ++ 0#3 ++ md ++ a ++ 0#7 ++ BitVec.ofBool ta ++ 0#1 ++ p : W32),
     (0#8 ++ 1#4 ++ 0#4 ++ 0#1 ++ 0#1 ++ 2#4 ++ 0#5 ++ 0#1 ++ mem : W32)]
  | .pollEvery md a ta p mem =>
    [(32#7 ++ 0#3 ++ md ++ a ++ 0#7 ++ BitVec.ofBool ta ++ 0#1 ++ p : W32),
     (0#8 ++ 2#4 ++ 0#4 ++ 0#1 ++ 0#1 ++ 2#4 ++ 0#5 ++ 0#1 ++ mem : W32)]
  | .pollSame md a ta p ty mem =>
    [(32#7 ++ 0#3 ++ md ++ a ++ 0#7 ++ BitVec.ofBool ta ++ 0#1 ++ p : W32),
     (0#8 ++ 3#4 ++ 0#4 ++ 0#1 ++ 0#1 ++ ty.code ++ 0#5 ++ 0#1 ++ mem : W32)]
  | .pollPeers d a ta p ty mem =>
    [(32#7 ++ d ++ a ++ 0#7 ++ BitVec.ofBool ta ++ 0#1 ++ p : W32),
     (0#8 ++ 4#4 ++ 0#4 ++ 0#1 ++ 0#1 ++ ty.code ++ 0#5 ++ 0#1 ++ mem : W32)]
  | .pollLead md p mem =>
    [(32#7 ++ 0#3 ++ md ++ 0#7 ++ 0#7 ++ 0#2 ++ p : W32),
     (0#8 ++ 5#4 ++ 0#4 ++ 0#1 ++ 0#1 ++ 0#4 ++ 0#5 ++ 0#1 ++ mem : W32)]
  | .pollLeadWelt md p mem =>
    [(32#7 ++ 0#3 ++ md ++ 0#7 ++ 0#7 ++ 0#2 ++ p : W32),
     (0#8 ++ 5#4 ++ 0#4 ++ 0#1 ++ 1#1 ++ 0#4 ++ 0#5 ++ 0#1 ++ mem : W32)]
  | .pollCount d a ta p mem =>
    [(32#7 ++ d ++ a ++ 0#7 ++ BitVec.ofBool ta ++ 0#1 ++ p : W32),
     (0#8 ++ 6#4 ++ 0#4 ++ 0#1 ++ 0#1 ++ 2#4 ++ 0#5 ++ 0#1 ++ mem : W32)]
  | .passFrom d a b ta tb p z ty imm im mem =>
    [(33#7 ++ d ++ a ++ b ++ BitVec.ofBool ta ++ BitVec.ofBool tb ++ p : W32),
     (0#8 ++ 0#4 ++ 0#4 ++ BitVec.ofBool z ++ 0#1 ++ ty.code ++ imm ++ BitVec.ofBool im ++ mem : W32)]
  | .passBack d a b ta tb p z ty imm im mem =>
    [(33#7 ++ d ++ a ++ b ++ BitVec.ofBool ta ++ BitVec.ofBool tb ++ p : W32),
     (0#8 ++ 1#4 ++ 0#4 ++ BitVec.ofBool z ++ 0#1 ++ ty.code ++ imm ++ BitVec.ofBool im ++ mem : W32)]
  | .passAhead d a b ta tb p z ty imm im mem =>
    [(33#7 ++ d ++ a ++ b ++ BitVec.ofBool ta ++ BitVec.ofBool tb ++ p : W32),
     (0#8 ++ 2#4 ++ 0#4 ++ BitVec.ofBool z ++ 0#1 ++ ty.code ++ imm ++ BitVec.ofBool im ++ mem : W32)]
  | .passSwap d a b ta tb p z ty imm im mem =>
    [(33#7 ++ d ++ a ++ b ++ BitVec.ofBool ta ++ BitVec.ofBool tb ++ p : W32),
     (0#8 ++ 3#4 ++ 0#4 ++ BitVec.ofBool z ++ 0#1 ++ ty.code ++ imm ++ BitVec.ofBool im ++ mem : W32)]
  | .passTurn d a b ta tb p z ty imm im mem =>
    [(33#7 ++ d ++ a ++ b ++ BitVec.ofBool ta ++ BitVec.ofBool tb ++ p : W32),
     (0#8 ++ 4#4 ++ 0#4 ++ BitVec.ofBool z ++ 0#1 ++ ty.code ++ imm ++ BitVec.ofBool im ++ mem : W32)]
  | .foldAdd d a ta p ty mem =>
    [(34#7 ++ d ++ a ++ 0#7 ++ BitVec.ofBool ta ++ 0#1 ++ p : W32),
     (0#8 ++ 0#4 ++ 0#4 ++ 0#1 ++ 0#1 ++ ty.code ++ 0#5 ++ 0#1 ++ mem : W32)]
  | .foldMin d a ta p ty mem =>
    [(34#7 ++ d ++ a ++ 0#7 ++ BitVec.ofBool ta ++ 0#1 ++ p : W32),
     (0#8 ++ 1#4 ++ 0#4 ++ 0#1 ++ 0#1 ++ ty.code ++ 0#5 ++ 0#1 ++ mem : W32)]
  | .foldMax d a ta p ty mem =>
    [(34#7 ++ d ++ a ++ 0#7 ++ BitVec.ofBool ta ++ 0#1 ++ p : W32),
     (0#8 ++ 2#4 ++ 0#4 ++ 0#1 ++ 0#1 ++ ty.code ++ 0#5 ++ 0#1 ++ mem : W32)]
  | .foldAnd d a ta p ty mem =>
    [(34#7 ++ d ++ a ++ 0#7 ++ BitVec.ofBool ta ++ 0#1 ++ p : W32),
     (0#8 ++ 3#4 ++ 0#4 ++ 0#1 ++ 0#1 ++ ty.code ++ 0#5 ++ 0#1 ++ mem : W32)]
  | .foldOr d a ta p ty mem =>
    [(34#7 ++ d ++ a ++ 0#7 ++ BitVec.ofBool ta ++ 0#1 ++ p : W32),
     (0#8 ++ 4#4 ++ 0#4 ++ 0#1 ++ 0#1 ++ ty.code ++ 0#5 ++ 0#1 ++ mem : W32)]
  | .foldXor d a ta p ty mem =>
    [(34#7 ++ d ++ a ++ 0#7 ++ BitVec.ofBool ta ++ 0#1 ++ p : W32),
     (0#8 ++ 5#4 ++ 0#4 ++ 0#1 ++ 0#1 ++ ty.code ++ 0#5 ++ 0#1 ++ mem : W32)]
  | .scanInc d a ta p ty mem =>
    [(35#7 ++ d ++ a ++ 0#7 ++ BitVec.ofBool ta ++ 0#1 ++ p : W32),
     (0#8 ++ 0#4 ++ 0#4 ++ 0#1 ++ 0#1 ++ ty.code ++ 0#5 ++ 0#1 ++ mem : W32)]
  | .scanExc d a ta p ty mem =>
    [(35#7 ++ d ++ a ++ 0#7 ++ BitVec.ofBool ta ++ 0#1 ++ p : W32),
     (0#8 ++ 1#4 ++ 0#4 ++ 0#1 ++ 0#1 ++ ty.code ++ 0#5 ++ 0#1 ++ mem : W32)]
  | .rng d a ta p =>
    [(38#7 ++ d ++ a ++ 0#7 ++ BitVec.ofBool ta ++ 0#1 ++ p : W32)]
  | .ident d sl p =>
    [(39#7 ++ d ++ 0#7 ++ sl ++ 0#1 ++ p : W32)]
  | .fadd d a b ta tb p =>
    [(40#7 ++ d ++ a ++ b ++ BitVec.ofBool ta ++ BitVec.ofBool tb ++ p : W32)]
  | .fsub d a b ta tb p =>
    [(41#7 ++ d ++ a ++ b ++ BitVec.ofBool ta ++ BitVec.ofBool tb ++ p : W32)]
  | .fmul d a b ta tb p =>
    [(42#7 ++ d ++ a ++ b ++ BitVec.ofBool ta ++ BitVec.ofBool tb ++ p : W32)]
  | .fmin d a b ta tb p =>
    [(43#7 ++ d ++ a ++ b ++ BitVec.ofBool ta ++ BitVec.ofBool tb ++ p : W32)]
  | .fmax d a b ta tb p =>
    [(44#7 ++ d ++ a ++ b ++ BitVec.ofBool ta ++ BitVec.ofBool tb ++ p : W32)]
  | .fdiv d a b ta tb p =>
    [(45#7 ++ d ++ a ++ b ++ BitVec.ofBool ta ++ BitVec.ofBool tb ++ p : W32)]
  | .fsqrt d a ta p =>
    [(46#7 ++ d ++ a ++ 0#7 ++ BitVec.ofBool ta ++ 0#1 ++ p : W32)]
  | .faddX d a b ta tb p ty rm na aa nb ab =>
    [(48#7 ++ d ++ a ++ b ++ BitVec.ofBool ta ++ BitVec.ofBool tb ++ p : W32),
     (0#8 ++ 0#4 ++ ty.code ++ rm ++ BitVec.ofBool na ++ BitVec.ofBool aa ++ BitVec.ofBool nb ++ BitVec.ofBool ab ++ 0#2 ++ 0#7 : W32)]
  | .fsubX d a b ta tb p ty rm na aa nb ab =>
    [(48#7 ++ d ++ a ++ b ++ BitVec.ofBool ta ++ BitVec.ofBool tb ++ p : W32),
     (0#8 ++ 1#4 ++ ty.code ++ rm ++ BitVec.ofBool na ++ BitVec.ofBool aa ++ BitVec.ofBool nb ++ BitVec.ofBool ab ++ 0#2 ++ 0#7 : W32)]
  | .fmulX d a b ta tb p ty rm na aa nb ab =>
    [(48#7 ++ d ++ a ++ b ++ BitVec.ofBool ta ++ BitVec.ofBool tb ++ p : W32),
     (0#8 ++ 2#4 ++ ty.code ++ rm ++ BitVec.ofBool na ++ BitVec.ofBool aa ++ BitVec.ofBool nb ++ BitVec.ofBool ab ++ 0#2 ++ 0#7 : W32)]
  | .fminX d a b ta tb p ty na aa nb ab =>
    [(48#7 ++ d ++ a ++ b ++ BitVec.ofBool ta ++ BitVec.ofBool tb ++ p : W32),
     (0#8 ++ 3#4 ++ ty.code ++ 0#3 ++ BitVec.ofBool na ++ BitVec.ofBool aa ++ BitVec.ofBool nb ++ BitVec.ofBool ab ++ 0#2 ++ 0#7 : W32)]
  | .fmaxX d a b ta tb p ty na aa nb ab =>
    [(48#7 ++ d ++ a ++ b ++ BitVec.ofBool ta ++ BitVec.ofBool tb ++ p : W32),
     (0#8 ++ 4#4 ++ ty.code ++ 0#3 ++ BitVec.ofBool na ++ BitVec.ofBool aa ++ BitVec.ofBool nb ++ BitVec.ofBool ab ++ 0#2 ++ 0#7 : W32)]
  | .fdivX d a b ta tb p ty rm na aa nb ab =>
    [(48#7 ++ d ++ a ++ b ++ BitVec.ofBool ta ++ BitVec.ofBool tb ++ p : W32),
     (0#8 ++ 5#4 ++ ty.code ++ rm ++ BitVec.ofBool na ++ BitVec.ofBool aa ++ BitVec.ofBool nb ++ BitVec.ofBool ab ++ 0#2 ++ 0#7 : W32)]
  | .ffma d a b ta tb p c tc ty rm na aa nb ab nc ac =>
    [(48#7 ++ d ++ a ++ b ++ BitVec.ofBool ta ++ BitVec.ofBool tb ++ p : W32),
     (c ++ BitVec.ofBool tc ++ 6#4 ++ ty.code ++ rm ++ BitVec.ofBool na ++ BitVec.ofBool aa ++ BitVec.ofBool nb ++ BitVec.ofBool ab ++ BitVec.ofBool nc ++ BitVec.ofBool ac ++ 0#7 : W32)]
  | .fsqrtX d a ta p ty rm na aa =>
    [(49#7 ++ d ++ a ++ 0#7 ++ BitVec.ofBool ta ++ 0#1 ++ p : W32),
     (0#8 ++ 0#4 ++ ty.code ++ rm ++ BitVec.ofBool na ++ BitVec.ofBool aa ++ 0#2 ++ 0#2 ++ 0#7 : W32)]
  | .frcpA d a ta p ty na aa =>
    [(49#7 ++ d ++ a ++ 0#7 ++ BitVec.ofBool ta ++ 0#1 ++ p : W32),
     (0#8 ++ 1#4 ++ ty.code ++ 0#3 ++ BitVec.ofBool na ++ BitVec.ofBool aa ++ 0#2 ++ 0#2 ++ 0#7 : W32)]
  | .frsqA d a ta p ty na aa =>
    [(49#7 ++ d ++ a ++ 0#7 ++ BitVec.ofBool ta ++ 0#1 ++ p : W32),
     (0#8 ++ 2#4 ++ ty.code ++ 0#3 ++ BitVec.ofBool na ++ BitVec.ofBool aa ++ 0#2 ++ 0#2 ++ 0#7 : W32)]
  | .fexp2A d a ta p ty na aa =>
    [(49#7 ++ d ++ a ++ 0#7 ++ BitVec.ofBool ta ++ 0#1 ++ p : W32),
     (0#8 ++ 3#4 ++ ty.code ++ 0#3 ++ BitVec.ofBool na ++ BitVec.ofBool aa ++ 0#2 ++ 0#2 ++ 0#7 : W32)]
  | .flog2A d a ta p ty na aa =>
    [(49#7 ++ d ++ a ++ 0#7 ++ BitVec.ofBool ta ++ 0#1 ++ p : W32),
     (0#8 ++ 4#4 ++ ty.code ++ 0#3 ++ BitVec.ofBool na ++ BitVec.ofBool aa ++ 0#2 ++ 0#2 ++ 0#7 : W32)]
  | .fcmp md a b ta tb p cond ty na aa nb ab =>
    [(50#7 ++ 0#3 ++ md ++ a ++ b ++ BitVec.ofBool ta ++ BitVec.ofBool tb ++ p : W32),
     (0#8 ++ 0#1 ++ cond ++ ty.code ++ 0#3 ++ BitVec.ofBool na ++ BitVec.ofBool aa ++ BitVec.ofBool nb ++ BitVec.ofBool ab ++ 0#2 ++ 0#7 : W32)]
  | .fclass d a ta p ty =>
    [(51#7 ++ d ++ a ++ 0#7 ++ BitVec.ofBool ta ++ 0#1 ++ p : W32),
     (0#8 ++ 0#4 ++ ty.code ++ 0#16 : W32)]
  | .cvt d a ta p c tc dty rm sty salt =>
    [(64#7 ++ d ++ a ++ 0#7 ++ BitVec.ofBool ta ++ 0#1 ++ p : W32),
     (c ++ BitVec.ofBool tc ++ 0#4 ++ dty.code ++ rm ++ 0#1 ++ sty.code ++ salt : W32)]
  | .cvtn d a b ta p ty rm salt =>
    [(65#7 ++ d ++ a ++ b ++ 0#2 ++ BitVec.ofBool ta ++ p : W32),
     (0#8 ++ 0#4 ++ ty.code ++ rm ++ 0#5 ++ salt : W32)]
  | .cvtnFrom d a b ta p ty rm =>
    [(65#7 ++ d ++ a ++ b ++ 1#2 ++ BitVec.ofBool ta ++ p : W32),
     (0#8 ++ 0#4 ++ ty.code ++ rm ++ 0#13 : W32)]
  | .bscale d a b ta p ty =>
    [(66#7 ++ d ++ a ++ b ++ 0#2 ++ BitVec.ofBool ta ++ p : W32),
     (0#8 ++ 0#4 ++ ty.code ++ 0#16 : W32)]
  | .qnt d a b ta p c tc ty rm salt =>
    [(67#7 ++ d ++ a ++ b ++ 0#2 ++ BitVec.ofBool ta ++ p : W32),
     (c ++ BitVec.ofBool tc ++ 0#4 ++ ty.code ++ rm ++ 0#5 ++ salt : W32)]
  | .dqnt d a b ta p c tc ty rm =>
    [(68#7 ++ d ++ a ++ b ++ 0#2 ++ BitVec.ofBool ta ++ p : W32),
     (c ++ BitVec.ofBool tc ++ 0#4 ++ ty.code ++ rm ++ 0#13 : W32)]
  | .ld d w i f t p =>
    [(72#7 ++ d ++ w ++ i ++ f ++ BitVec.ofBool t ++ p : W32)]
  | .ldX d w i f t p ty cp disp =>
    [(73#7 ++ d ++ w ++ i ++ f ++ BitVec.ofBool t ++ p : W32),
     (0#8 ++ ty.code ++ 0#5 ++ cp ++ disp : W32)]
  | .ldProbe d w i f t p ty md cp disp =>
    [(73#7 ++ d ++ w ++ i ++ f ++ BitVec.ofBool t ++ p : W32),
     (0#8 ++ ty.code ++ 1#1 ++ md ++ cp ++ disp : W32)]
  | .st d w i f t p =>
    [(74#7 ++ d ++ w ++ i ++ f ++ BitVec.ofBool t ++ p : W32)]
  | .stX d w i f t p ty cp disp =>
    [(75#7 ++ d ++ w ++ i ++ f ++ BitVec.ofBool t ++ p : W32),
     (0#8 ++ ty.code ++ 0#5 ++ cp ++ disp : W32)]
  | .ldx d w i f t p ty n cp disp =>
    [(76#7 ++ d ++ w ++ i ++ f ++ BitVec.ofBool t ++ p : W32),
     (0#8 ++ ty.code ++ n ++ 0#3 ++ cp ++ disp : W32)]
  | .stx d w i f t p ty n cp disp =>
    [(77#7 ++ d ++ w ++ i ++ f ++ BitVec.ofBool t ++ p : W32),
     (0#8 ++ ty.code ++ n ++ 0#3 ++ cp ++ disp : W32)]
  | .stc d w i f t p ty cp disp =>
    [(78#7 ++ d ++ w ++ i ++ f ++ BitVec.ofBool t ++ p : W32),
     (0#8 ++ ty.code ++ 0#5 ++ cp ++ disp : W32)]
  | .ldw d a ta ty cp =>
    [(79#7 ++ d ++ a ++ 0#6 ++ 0#4 ++ BitVec.ofBool ta ++ 0#1 ++ 0#1 : W32),
     (0#8 ++ ty.code ++ 0#5 ++ cp ++ 0#13 : W32)]
  | .stw a b ta tb ty cp =>
    [(80#7 ++ 0#6 ++ a ++ b ++ 0#4 ++ BitVec.ofBool ta ++ BitVec.ofBool tb ++ 0#1 : W32),
     (0#8 ++ ty.code ++ 0#5 ++ cp ++ 0#13 : W32)]
  | .lds d w i f t p ty disp =>
    [(81#7 ++ d ++ w ++ i ++ f ++ BitVec.ofBool t ++ p : W32),
     (0#8 ++ ty.code ++ 0#5 ++ 0#2 ++ disp : W32)]
  | .sts d w i f t p ty disp =>
    [(82#7 ++ d ++ w ++ i ++ f ++ BitVec.ofBool t ++ p : W32),
     (0#8 ++ ty.code ++ 0#5 ++ 0#2 ++ disp : W32)]
  | .pref w i f t p cp disp =>
    [(83#7 ++ 0#7 ++ w ++ i ++ f ++ BitVec.ofBool t ++ p : W32),
     (0#12 ++ 0#5 ++ cp ++ disp : W32)]
  | .stmap a b ta =>
    [(84#7 ++ 0#6 ++ a ++ b ++ 0#4 ++ BitVec.ofBool ta ++ 0#1 ++ 0#1 : W32)]
  | .stunmap a ta =>
    [(84#7 ++ 0#6 ++ a ++ 0#6 ++ 1#4 ++ BitVec.ofBool ta ++ 0#1 ++ 0#1 : W32)]
  | .stflush a ta =>
    [(84#7 ++ 0#6 ++ a ++ 0#6 ++ 2#4 ++ BitVec.ofBool ta ++ 0#1 ++ 0#1 : W32)]
  | .atomAdd d w i f t p c tc ty rt disp =>
    [(88#7 ++ d ++ w ++ i ++ f ++ BitVec.ofBool t ++ p : W32),
     (c ++ BitVec.ofBool tc ++ 0#4 ++ ty.code ++ BitVec.ofBool rt ++ 0#2 ++ disp : W32)]
  | .atomMin d w i f t p c tc ty rt disp =>
    [(88#7 ++ d ++ w ++ i ++ f ++ BitVec.ofBool t ++ p : W32),
     (c ++ BitVec.ofBool tc ++ 1#4 ++ ty.code ++ BitVec.ofBool rt ++ 0#2 ++ disp : W32)]
  | .atomMax d w i f t p c tc ty rt disp =>
    [(88#7 ++ d ++ w ++ i ++ f ++ BitVec.ofBool t ++ p : W32),
     (c ++ BitVec.ofBool tc ++ 2#4 ++ ty.code ++ BitVec.ofBool rt ++ 0#2 ++ disp : W32)]
  | .atomAnd d w i f t p c tc ty rt disp =>
    [(88#7 ++ d ++ w ++ i ++ f ++ BitVec.ofBool t ++ p : W32),
     (c ++ BitVec.ofBool tc ++ 3#4 ++ ty.code ++ BitVec.ofBool rt ++ 0#2 ++ disp : W32)]
  | .atomOr d w i f t p c tc ty rt disp =>
    [(88#7 ++ d ++ w ++ i ++ f ++ BitVec.ofBool t ++ p : W32),
     (c ++ BitVec.ofBool tc ++ 4#4 ++ ty.code ++ BitVec.ofBool rt ++ 0#2 ++ disp : W32)]
  | .atomXor d w i f t p c tc ty rt disp =>
    [(88#7 ++ d ++ w ++ i ++ f ++ BitVec.ofBool t ++ p : W32),
     (c ++ BitVec.ofBool tc ++ 5#4 ++ ty.code ++ BitVec.ofBool rt ++ 0#2 ++ disp : W32)]
  | .atomExch d w i f t p c tc ty rt disp =>
    [(88#7 ++ d ++ w ++ i ++ f ++ BitVec.ofBool t ++ p : W32),
     (c ++ BitVec.ofBool tc ++ 6#4 ++ ty.code ++ BitVec.ofBool rt ++ 0#2 ++ disp : W32)]
  | .atomCas d w i f t p c tc ty disp =>
    [(88#7 ++ d ++ w ++ i ++ f ++ BitVec.ofBool t ++ p : W32),
     (c ++ BitVec.ofBool tc ++ 7#4 ++ ty.code ++ 1#1 ++ 0#2 ++ disp : W32)]
  | .atomIncwrap d w i f t p c tc ty rt disp =>
    [(88#7 ++ d ++ w ++ i ++ f ++ BitVec.ofBool t ++ p : W32),
     (c ++ BitVec.ofBool tc ++ 8#4 ++ ty.code ++ BitVec.ofBool rt ++ 0#2 ++ disp : W32)]
  | .atomdAdd w i f t p c tc ty disp =>
    [(89#7 ++ 0#7 ++ w ++ i ++ f ++ BitVec.ofBool t ++ p : W32),
     (c ++ BitVec.ofBool tc ++ 0#4 ++ ty.code ++ 0#1 ++ 0#2 ++ disp : W32)]
  | .atomdMin w i f t p c tc ty disp =>
    [(89#7 ++ 0#7 ++ w ++ i ++ f ++ BitVec.ofBool t ++ p : W32),
     (c ++ BitVec.ofBool tc ++ 1#4 ++ ty.code ++ 0#1 ++ 0#2 ++ disp : W32)]
  | .atomdMax w i f t p c tc ty disp =>
    [(89#7 ++ 0#7 ++ w ++ i ++ f ++ BitVec.ofBool t ++ p : W32),
     (c ++ BitVec.ofBool tc ++ 2#4 ++ ty.code ++ 0#1 ++ 0#2 ++ disp : W32)]
  | .atomdAnd w i f t p c tc ty disp =>
    [(89#7 ++ 0#7 ++ w ++ i ++ f ++ BitVec.ofBool t ++ p : W32),
     (c ++ BitVec.ofBool tc ++ 3#4 ++ ty.code ++ 0#1 ++ 0#2 ++ disp : W32)]
  | .atomdOr w i f t p c tc ty disp =>
    [(89#7 ++ 0#7 ++ w ++ i ++ f ++ BitVec.ofBool t ++ p : W32),
     (c ++ BitVec.ofBool tc ++ 4#4 ++ ty.code ++ 0#1 ++ 0#2 ++ disp : W32)]
  | .atomdXor w i f t p c tc ty disp =>
    [(89#7 ++ 0#7 ++ w ++ i ++ f ++ BitVec.ofBool t ++ p : W32),
     (c ++ BitVec.ofBool tc ++ 5#4 ++ ty.code ++ 0#1 ++ 0#2 ++ disp : W32)]
  | .atomdIncwrap w i f t p c tc ty disp =>
    [(89#7 ++ 0#7 ++ w ++ i ++ f ++ BitVec.ofBool t ++ p : W32),
     (c ++ BitVec.ofBool tc ++ 8#4 ++ ty.code ++ 0#1 ++ 0#2 ++ disp : W32)]
  | .crdecl a b ta tb cop =>
    [(90#7 ++ 0#6 ++ a ++ b ++ 0#4 ++ BitVec.ofBool ta ++ BitVec.ofBool tb ++ 0#1 : W32),
     (0#8 ++ cop ++ 0#20 : W32)]
  | .cradd d w i f t p cop disp =>
    [(91#7 ++ d ++ w ++ i ++ f ++ BitVec.ofBool t ++ p : W32),
     (0#8 ++ cop ++ 0#7 ++ disp : W32)]
  | .fence pm sm sc cum =>
    [(92#7 ++ pm ++ sm ++ sc ++ BitVec.ofBool cum ++ 0#9 : W32)]
  | .ifence =>
    [(93#7 ++ 0#25 : W32)]
  | .cpy a b ta tb c tc src dst srole drole conv =>
    [(96#7 ++ 0#6 ++ a ++ b ++ 0#4 ++ BitVec.ofBool ta ++ BitVec.ofBool tb ++ 0#1 : W32),
     (0#1 ++ c ++ BitVec.ofBool tc ++ src ++ dst ++ srole ++ drole ++ conv : W32)]
  | .cpyMc a b ta tb c tc src dst role set conv =>
    [(97#7 ++ 0#6 ++ a ++ b ++ 0#4 ++ BitVec.ofBool ta ++ BitVec.ofBool tb ++ 0#1 : W32),
     (0#1 ++ c ++ BitVec.ofBool tc ++ src ++ dst ++ role ++ set ++ 0#4 ++ conv : W32)]
  | .cpyColl a b ta tb c tc src salt rm =>
    [(98#7 ++ 0#6 ++ a ++ b ++ 0#4 ++ BitVec.ofBool ta ++ BitVec.ofBool tb ++ 0#1 : W32),
     (0#1 ++ c ++ BitVec.ofBool tc ++ src ++ 0#2 ++ salt ++ 0#9 ++ rm : W32)]
  | .cbinit a b ta tb =>
    [(99#7 ++ 0#6 ++ a ++ b ++ 0#4 ++ BitVec.ofBool ta ++ BitVec.ofBool tb ++ 0#1 : W32),
     (0#32 : W32)]
  | .cbwait d a ta n =>
    [(99#7 ++ d ++ a ++ 0#6 ++ 1#4 ++ BitVec.ofBool ta ++ 0#1 ++ 0#1 : W32),
     (0#20 ++ n : W32)]
  | .cbpop a ta n =>
    [(99#7 ++ 0#6 ++ a ++ 0#6 ++ 2#4 ++ BitVec.ofBool ta ++ 0#1 ++ 0#1 : W32),
     (0#20 ++ n : W32)]
  | .cbfree a ta =>
    [(99#7 ++ 0#6 ++ a ++ 0#6 ++ 3#4 ++ BitVec.ofBool ta ++ 0#1 ++ 0#1 : W32),
     (0#32 : W32)]
  | .mres h wr tc ty =>
    [(100#7 ++ 0#3 ++ h ++ 0#4 ++ 0#6 ++ 0#4 ++ 0#4 : W32),
     (0#1 ++ wr ++ BitVec.ofBool tc ++ ty.code ++ 0#20 : W32)]
  | .mrel h =>
    [(101#7 ++ 0#3 ++ h ++ 0#4 ++ 0#6 ++ 0#4 ++ 0#4 : W32)]
  | .mzero s t =>
    [(101#7 ++ s ++ 0#4 ++ 0#4 ++ t ++ 1#4 ++ 0#4 : W32)]
  | .mwait s =>
    [(101#7 ++ s ++ 0#4 ++ 0#4 ++ 0#6 ++ 2#4 ++ 0#4 : W32)]
  | .mwaitAll =>
    [(101#7 ++ 0#3 ++ 1#4 ++ 0#4 ++ 0#6 ++ 2#4 ++ 0#4 : W32)]
  | .mfmt s ty =>
    [(102#7 ++ s ++ 0#4 ++ 0#4 ++ 0#6 ++ 0#4 ++ 0#4 : W32),
     (0#8 ++ ty.code ++ 0#20 : W32)]
  | .mstep s ha hb t =>
    [(103#7 ++ s ++ ha ++ hb ++ t ++ 0#4 ++ 0#4 : W32)]
  | .mloop s ha hb t wr tc cnt =>
    [(104#7 ++ s ++ ha ++ hb ++ t ++ 0#4 ++ 0#4 : W32),
     (0#1 ++ wr ++ BitVec.ofBool tc ++ 0#4 ++ 0#8 ++ cnt : W32)]
  | .mrd s t d row cnt =>
    [(105#7 ++ s ++ 0#4 ++ 0#4 ++ t ++ 0#4 ++ 0#4 : W32),
     (d ++ 0#1 ++ 0#4 ++ row ++ cnt ++ 0#12 : W32)]
  | .mwr s t d tc row cnt =>
    [(106#7 ++ s ++ 0#4 ++ 0#4 ++ t ++ 0#4 ++ 0#4 : W32),
     (d ++ BitVec.ofBool tc ++ 0#4 ++ row ++ cnt ++ 0#12 : W32)]
  | .mskv s wr tc dep k act =>
    [(107#7 ++ s ++ 0#4 ++ 0#4 ++ 0#6 ++ 0#4 ++ 0#4 : W32),
     (0#1 ++ wr ++ BitVec.ofBool tc ++ 0#4 ++ dep ++ k ++ BitVec.ofBool act ++ 0#11 : W32)]
  | .msamp s cnt =>
    [(107#7 ++ s ++ 0#4 ++ 0#4 ++ 0#6 ++ 1#4 ++ 0#4 : W32),
     (0#8 ++ 0#4 ++ 0#8 ++ cnt : W32)]
  | .rgmake d a b ta tb =>
    [(108#7 ++ d ++ a ++ b ++ 0#4 ++ BitVec.ofBool ta ++ BitVec.ofBool tb ++ 0#1 : W32)]
  | .rgdrop d a ta =>
    [(108#7 ++ d ++ a ++ 0#6 ++ 1#4 ++ BitVec.ofBool ta ++ 0#1 ++ 0#1 : W32)]
  | .rgfit d a b ta tb =>
    [(109#7 ++ d ++ a ++ b ++ 0#4 ++ BitVec.ofBool ta ++ BitVec.ofBool tb ++ 0#1 : W32)]
  | .rgstat d a ta =>
    [(109#7 ++ d ++ a ++ 0#6 ++ 1#4 ++ BitVec.ofBool ta ++ 0#1 ++ 0#1 : W32)]
  | .phnew d a ta =>
    [(110#7 ++ d ++ a ++ 0#6 ++ 0#4 ++ BitVec.ofBool ta ++ 0#1 ++ 0#1 : W32)]
  | .phfree d a ta =>
    [(110#7 ++ d ++ a ++ 0#6 ++ 1#4 ++ BitVec.ofBool ta ++ 0#1 ++ 0#1 : W32)]
  | .phreg d a mode ta =>
    [(111#7 ++ d ++ a ++ 0#3 ++ mode ++ 0#4 ++ BitVec.ofBool ta ++ 0#1 ++ 0#1 : W32)]
  | .phdrop d a ta =>
    [(111#7 ++ d ++ a ++ 0#6 ++ 1#4 ++ BitVec.ofBool ta ++ 0#1 ++ 0#1 : W32)]
  | .phsig d a ta =>
    [(112#7 ++ d ++ a ++ 0#6 ++ 0#4 ++ BitVec.ofBool ta ++ 0#1 ++ 0#1 : W32)]
  | .phwait d a ta =>
    [(112#7 ++ d ++ a ++ 0#6 ++ 1#4 ++ BitVec.ofBool ta ++ 0#1 ++ 0#1 : W32)]
  | .pharr d a ta =>
    [(112#7 ++ d ++ a ++ 0#6 ++ 2#4 ++ BitVec.ofBool ta ++ 0#1 ++ 0#1 : W32)]
  | .phbytes d a b ta tb =>
    [(113#7 ++ d ++ a ++ b ++ 0#4 ++ BitVec.ofBool ta ++ BitVec.ofBool tb ++ 0#1 : W32)]
  | .bar =>
    [(114#7 ++ 0#6 ++ 0#6 ++ 0#6 ++ 0#4 ++ 0#1 ++ 0#1 ++ 0#1 : W32)]
  | .barto a b ta tb =>
    [(114#7 ++ 0#6 ++ a ++ b ++ 1#4 ++ BitVec.ofBool ta ++ BitVec.ofBool tb ++ 0#1 : W32)]
  | .flushda =>
    [(115#7 ++ 0#6 ++ 0#6 ++ 0#6 ++ 0#4 ++ 0#1 ++ 0#1 ++ 0#1 : W32)]
  | .lkmat d a ta =>
    [(116#7 ++ d ++ a ++ 0#6 ++ 0#4 ++ BitVec.ofBool ta ++ 0#1 ++ 0#1 : W32)]
  | .lkbegin d =>
    [(117#7 ++ d ++ 0#6 ++ 0#6 ++ 0#4 ++ 0#1 ++ 0#1 ++ 0#1 : W32)]
  | .lkbeginWt d =>
    [(117#7 ++ d ++ 0#6 ++ 0#6 ++ 1#4 ++ 0#1 ++ 0#1 ++ 0#1 : W32)]
  | .lkend d =>
    [(117#7 ++ d ++ 0#6 ++ 0#6 ++ 2#4 ++ 0#1 ++ 0#1 ++ 0#1 : W32)]
  | .lkabort d =>
    [(117#7 ++ d ++ 0#6 ++ 0#6 ++ 3#4 ++ 0#1 ++ 0#1 ++ 0#1 : W32)]
  | .lkacq d a mode ta =>
    [(118#7 ++ d ++ a ++ 0#3 ++ mode ++ 0#4 ++ BitVec.ofBool ta ++ 0#1 ++ 0#1 : W32)]
  | .lktry d a mode ta =>
    [(118#7 ++ d ++ a ++ 0#3 ++ mode ++ 1#4 ++ BitVec.ofBool ta ++ 0#1 ++ 0#1 : W32)]
  | .lkup d a mode ta =>
    [(118#7 ++ d ++ a ++ 0#3 ++ mode ++ 2#4 ++ BitVec.ofBool ta ++ 0#1 ++ 0#1 : W32)]
  | .lkrel d a ta =>
    [(119#7 ++ d ++ a ++ 0#6 ++ 0#4 ++ BitVec.ofBool ta ++ 0#1 ++ 0#1 : W32)]
  | .lkstat d a ta =>
    [(119#7 ++ d ++ a ++ 0#6 ++ 1#4 ++ BitVec.ofBool ta ++ 0#1 ++ 0#1 : W32)]
  | .go off =>
    [(120#7 ++ off ++ 0#3 : W32)]
  | .br off m =>
    [(120#7 ++ off ++ m : W32)]
  | .call off =>
    [(121#7 ++ off ++ 0#3 : W32)]
  | .brx a ta =>
    [(122#7 ++ a ++ BitVec.ofBool ta ++ 0#13 ++ 0#4 : W32)]
  | .callx a ta =>
    [(122#7 ++ a ++ BitVec.ofBool ta ++ 0#13 ++ 1#4 : W32)]
  | .ret a ta =>
    [(122#7 ++ a ++ BitVec.ofBool ta ++ 0#13 ++ 2#4 : W32)]
  | .exit =>
    [(122#7 ++ 0#7 ++ 0#1 ++ 0#13 ++ 3#4 : W32)]
  | .yield =>
    [(122#7 ++ 0#7 ++ 0#1 ++ 0#13 ++ 4#4 : W32)]
  | .nop =>
    [(123#7 ++ 0#6 ++ 0#6 ++ 0#6 ++ 0#4 ++ 0#1 ++ 0#1 ++ 0#1 : W32)]
  | .launch d a ta =>
    [(123#7 ++ d ++ a ++ 0#6 ++ 1#4 ++ BitVec.ofBool ta ++ 0#1 ++ 0#1 : W32)]
  | .join d a ta =>
    [(123#7 ++ d ++ a ++ 0#6 ++ 2#4 ++ BitVec.ofBool ta ++ 0#1 ++ 0#1 : W32)]
  | .trap a ta =>
    [(124#7 ++ 0#6 ++ a ++ 0#6 ++ 0#4 ++ BitVec.ofBool ta ++ 0#1 ++ 0#1 : W32)]
  | .trapS a ta =>
    [(124#7 ++ 0#6 ++ a ++ 1#6 ++ 0#4 ++ BitVec.ofBool ta ++ 0#1 ++ 0#1 : W32)]
  | .brk =>
    [(124#7 ++ 0#6 ++ 0#6 ++ 0#6 ++ 1#4 ++ 0#1 ++ 0#1 ++ 0#1 : W32)]
  | .tret =>
    [(124#7 ++ 0#6 ++ 0#6 ++ 0#6 ++ 2#4 ++ 0#1 ++ 0#1 ++ 0#1 : W32)]
  | .srd d lv sl =>
    [(125#7 ++ d ++ 0#6 ++ 0#6 ++ 0#4 ++ 0#1 ++ 0#1 ++ 0#1 : W32),
     (0#8 ++ 0#4 ++ 0#9 ++ 0#1 ++ lv ++ sl : W32)]
  | .srdLaneid d =>
    [(125#7 ++ 0#6 ++ 0#6 ++ 0#6 ++ 0#4 ++ 0#1 ++ 0#1 ++ 0#1 : W32),
     (d ++ 0#1 ++ 0#4 ++ 0#9 ++ 1#1 ++ 0#2 ++ 3#8 : W32)]
  | .swr a ta lv sl =>
    [(125#7 ++ 0#6 ++ a ++ 0#6 ++ 1#4 ++ BitVec.ofBool ta ++ 0#1 ++ 0#1 : W32),
     (0#8 ++ 0#4 ++ 0#9 ++ 0#1 ++ lv ++ sl : W32)]
  | .skey a ta c tc =>
    [(125#7 ++ 0#6 ++ a ++ 0#6 ++ 2#4 ++ BitVec.ofBool ta ++ 0#1 ++ 0#1 : W32),
     (c ++ BitVec.ofBool tc ++ 0#4 ++ 0#20 : W32)]
  | .tlbinv a b ta tb =>
    [(126#7 ++ 0#6 ++ a ++ b ++ 0#4 ++ BitVec.ofBool ta ++ BitVec.ofBool tb ++ 0#1 : W32)]
  | .vacate d a b ta tb =>
    [(126#7 ++ d ++ a ++ b ++ 1#4 ++ BitVec.ofBool ta ++ BitVec.ofBool tb ++ 0#1 : W32)]
  | .tokq d a ta =>
    [(126#7 ++ d ++ a ++ 0#6 ++ 2#4 ++ BitVec.ofBool ta ++ 0#1 ++ 0#1 : W32)]
  | .haltwg d a b ta tb =>
    [(126#7 ++ d ++ a ++ b ++ 3#4 ++ BitVec.ofBool ta ++ BitVec.ofBool tb ++ 0#1 : W32)]
  | .rngLand .. => []
  | .loadLand .. => []
  | .farAtomic .. => []
  | .hostAtomicLeaseTimeout .. => []
  | .commutativeCombination .. => []
  | .fenceComplete .. => []
  | .copyLineLand .. => []
  | .copyFail .. => []
  | .cbSlotClaim .. => []
  | .streamInstructionEffect .. => []
  | .matrixStep .. => []
  | .regionStatusReturn .. => []
  | .refitCommit .. => []
  | .regionLineEvaluation .. => []
  | .regionStore .. => []
  | .phaserWaitRelease .. => []
  | .barrierTimeout .. => []
  | .lockGrant .. => []
  | .woundDelivery .. => []
  | .woundPatienceExpiry .. => []
  | .siblingStop .. => []
  | .coreStall .. => []
  | .singleStepComplete .. => []
  | .pageWalk .. => []
  | .pageMiss .. => []
  | .writeBackArrival .. => []
  | .workgroupDispatch .. => []
  | .gangCandidateReserve .. => []
  | .gangPatienceExpiry .. => []
  | .workgroupMove .. => []
  | .timeSliceExpiry .. => []
  | .launchEnd .. => []
  | .tokenSpend .. => []
  | .tokenReturn .. => []
  | .coreHungry .. => []
  | .powerQuotaChange .. => []
  | .sliceRatioChange .. => []
  | .sliceRatioTakesEffect .. => []
  | .readGrantChange .. => []
  | .thermalThrottle .. => []
  | .thermalReset .. => []
  | .coreClockGate .. => []
  | .corePowerGate .. => []
  | .coreWake .. => []
  | .hang .. => []
  | .uncontainedError .. => []
  | .correctedErrorReport .. => []
  | .launchCommand .. => []
  | .cancel .. => []
  | .seedCommand .. => []
  | .vacateCommand .. => []
  | .kill .. => []
  | .sync .. => []
  | .unknownCommand .. => []
  | .wormusLinkLoss .. => []
  | .wormusPortRestore .. => []
  | .hostDataWrite .. => []
  | .hostDataRead .. => []
  | .partitionCreate .. => []
  | .contextCreate .. => []
  | .contextKill .. => []
  | .partitionReset .. => []
  | .moduleReset => []
  | .bringUp .. => []
  | .watchArm .. => []
  | .watchDisarm .. => []
  | .attestationRequest .. => []
  | .securityVersionRaise .. => []
  | .unassignedOpcode .. => []
  | .phaserResultReturn .. => []
  | .lineEviction .. => []
  | .pageRecordDrop .. => []
  | .laceCycle => []
  | .coherenceLeaseAnswer .. => []

/-- Four bytes as a word, lowest address first (R5). -/
def wordOfBytes (b0 b1 b2 b3 : Byte) : W32 := b3 ++ b2 ++ b1 ++ b0

/-- The bytes of a word, lowest address first (R5). -/
def bytesOfWord (w : W32) : List Byte :=
  [w.extractLsb' 0 8, w.extractLsb' 8 8, w.extractLsb' 16 8, w.extractLsb' 24 8]

/-- The decoder on the bytes of memory: the word, and the word after it where one follows (R78). -/
noncomputable def decodeBytes : List Byte → Except DecodeError Instr
  | b0 :: b1 :: b2 :: b3 :: rest =>
    let w := wordOfBytes b0 b1 b2 b3
    match rest with
    | c0 :: c1 :: c2 :: c3 :: _ => decode w (wordOfBytes c0 c1 c2 c3)
    | _ => if hasSecondWord w then .error .truncated else decode w 0
  | _ => .error .truncated

/-- The engine classes of R80, in code order. -/
inductive Cls where
  | vector | uniform | memory | matrix | copy | sync | control | system
  deriving DecidableEq, Repr

/-- The class of a code (R80). -/
def Cls.ofCode (c : BitVec 3) : Cls :=
  match c.toNat with
  | 0 => .vector | 1 => .uniform | 2 => .memory | 3 => .matrix
  | 4 => .copy | 5 => .sync | 6 => .control | _ => .system

/-- The code of a class (R80). -/
def Cls.code : Cls → BitVec 3
  | .vector => 0 | .uniform => 1 | .memory => 2 | .matrix => 3
  | .copy => 4 | .sync => 5 | .control => 6 | .system => 7

/-- The class of an opcode; 0x7B has none of its own (R80, R92). -/
def opcodeClass (o : Nat) : Option Cls :=
  if o < 0x18 then some .vector else if o < 0x20 then some .uniform
  else if o < 0x48 then some .vector else if o < 0x60 then some .memory
  else if o < 0x64 then some .copy else if o < 0x6C then some .matrix
  else if o < 0x6E then some .system else if o < 0x78 then some .sync
  else if o < 0x7B then some .control else if o == 0x7B then none else some .system

/-- Whether an instruction word may stand in a clause of class `c` (R80, R81 items 2-4): NOP in any clause but a
control clause, LAUNCH and JOIN in a sync clause. -/
def wordFitsClass (w : W32) (c : Cls) : Bool :=
  match opcodeClass (w.extractLsb' 25 7).toNat with
  | some k => k == c
  | none => if w == 0xF6000000#32 then c != .control else c == .sync

/-- The fields of a clause header (R79). -/
structure Header where
  n : Nat
  cls : Cls
  start : Bool
  lasting : Bool
  reserved : BitVec 6
  deriving DecidableEq, Repr

/-- The header a word holds (R79); the hint fields change no result (R89). -/
def Header.ofWord (w : W32) : Header where
  n := (w.extractLsb' 28 4).toNat
  cls := Cls.ofCode (w.extractLsb' 25 3)
  start := w.getLsbD 24
  lasting := w.getLsbD 23
  reserved := w.extractLsb' 0 6

/-- A header word of R79 with zero hints. -/
def headerWord (n : BitVec 4) (c : Cls) (start lasting : Bool) : W32 :=
  n ++ c.code ++ BitVec.ofBool start ++ BitVec.ofBool lasting ++ 0#23

/-- A word that a successor may target: a clause header with S = 1 (R33). What else it breaks is found at the header
itself (R81 item 1). -/
def isSegmentStart (w : W32) : Bool := (Header.ofWord w).start

/-- What the decoder reads from an instruction laid out as the opcode table numbers its bits: bit 0 is the least
significant bit of the first word, and the second word's bits count on from it; bits above `nbits` are zero. -/
noncomputable def decodeTableWord (nbits w : Nat) : Option Instr :=
  let v := w % 2 ^ nbits
  let bs := bytesOfWord (BitVec.ofNat 32 v) ++ bytesOfWord (BitVec.ofNat 32 (v / 2 ^ 32))
  match decodeBytes bs with
  | .ok i => some i
  | .error _ => none

end Sys2Proof
end

