-- ==== Sys2Proof/Machine/State.lean ====
section
/-!
DEFINITION. The state of the whole device as plain data: every record that INVENTORY.md lists under its State heading,
with the rule of spec/ that names it. Records stand in lists and are named by their index there.
-/

namespace Sys2Proof.Machine

/-- Why the machine stops. No instruction of the A9 stops it: every trap has an entry (R421) and every error an
outcome. -/
inductive Fault where
  /-- Raised by nothing: where no agent has a move, a cycle passes. It names the one stop that the rules would leave,
  a machine without an agent. Safe: no state raises it. -/
  | noAgent
  deriving DecidableEq, Repr

/-- Why an instruction has no meaning. -/
inductive Refusal where
  /-- Raised by `exec` for a constructor that is not modelled yet; no arm is left that raises it. Safe: nothing is
  claimed of such a step. -/
  | notModelled (mnemonic : String)
  deriving DecidableEq, Repr

/-- Where a lane's pc stands (R78, R81): at the header of a segment, at the header of a later clause of its segment,
inside a clause of which `left` instructions have not issued, or where a handler put it (R413, R429). -/
inductive Pos where
  | start
  | cont
  | inside (cls : Cls) (left : Nat)
  | restored
  deriving DecidableEq, Repr

/-- One lane of a welt: its vector registers with their full bits (R50, R53) and the marks of those that hold an
uncorrectable error (R433), its key (R25), its place in its clause
and the address of its segment. -/
structure Lane where
  v : Vector W32 128
  full : BitVec 128
  bad : BitVec 128
  x : Bool
  h : Bool
  depth : BitVec 6
  pc : Pc
  pos : Pos
  seg : Pc
  deriving DecidableEq, Repr

/-- Serial mode (R40, R43). -/
structure Serial where
  queue : Lanes
  running : Nat
  sd : W32
  overflow : Pc
  deriving DecidableEq, Repr

/-- What a collective does once every member has arrived: nothing more than its own results (R137), or the part of an
arriving synchronisation instruction (R325) that still waits: the phaser, the destination, and whether the welt's
signal has yet to be counted (R329). -/
inductive CollWait where
  | none
  | phase (id : Nat) (implicit : Bool) (dst : Option WReg) (signal : Bool) (wait : Bool)
  deriving DecidableEq, Repr

/-- One incomplete instance of a collective (R137, R139): its key, its member set, who has arrived. -/
structure Coll where
  depth : BitVec 6
  pc : Pc
  members : Lanes
  arrived : Lanes
  wait : CollWait
  deriving DecidableEq, Repr

/-- A reservation record (R171). -/
structure Res where
  ty : Ty
  desc : W32
  base : Nat
  len : Nat
  rows : Nat
  blk : Nat
  remote : Bool
  unscaled : Bool
  role : Nat
  scaleoff : Nat
  deriving DecidableEq, Repr

/-- Where one byte of an access lies after translation: device memory, host memory (the port that carries it, and the
address of the byte, which holds the fabric number of the host endpoint), the image of a region, the stash space of
a workgroup, a byte of one of its mapped blocks (its stash offset and its device address), its operand-buffer share, or a byte that the probe form supplies (R203). -/
inductive Loc where
  | dev (a : Nat)
  | host (port a : Nat)
  | region (r off : Nat)
  | stash (g off : Nat)
  | block (g off a : Nat)
  | opbuf (g off : Nat)
  | byte (b : Byte)
  deriving DecidableEq, Repr

/-- The line of a location (R225): a space (0 device, 1 host, 2 region, 3 stash, 4 operand buffer, 5 none), the record
of that space, and the number of its 128 bytes. -/
abbrev LineKey := Nat × Nat × Nat

/-- One element of a load in flight: the lane, the first destination register, the type and the byte locations. -/
structure Elem where
  lane : Nat
  dst : Nat
  ty : Ty
  locs : List Loc
  deriving DecidableEq, Repr

/-- An atomic operation on one location for one lane: operation code of R92, type, operand, comparand. -/
structure AtomOp where
  lane : Nat
  locs : List Loc
  op : Nat
  ty : Ty
  val : W64
  cmp : W64
  dst : Option Nat
  deriving DecidableEq, Repr

/-- What a region instruction asks of the home (R214-R219), with the level of the welt that asks; then the refit that
runs, or the answer. -/
inductive RegionReq where
  | make (level desc base : Nat)
  | drop (base : Nat)
  | fit (level base : Nat) (desc : Option Nat)
  | stat (base : Nat)
  | running
  | done (val : W64)
  deriving DecidableEq, Repr

/-- A long-latency producer in flight (R53): a load, a uniform load, RNG with its counters, a far atomic, a result
word of a synchronisation engine, or a region instruction. -/
inductive FlightKind where
  | load (elems : List Elem)
  | loadW (dst : WReg) (ty : Ty) (lanes : Lanes) (locs : List Loc)
  | rng (elems : List (Nat × Nat × W32 × W32 × W32 × W32))
  | atom (ops : List AtomOp)
  | value (elems : List (Nat × Nat × Ty × W64))
  | word (dst : WReg) (val : W64)
  | region (dst : WReg) (req : RegionReq)
  deriving DecidableEq, Repr

/-- A producer in flight with its number within the welt and the program order of its instruction. -/
structure Flight where
  num : Nat
  order : Nat
  kind : FlightKind
  deriving DecidableEq, Repr

/-- A byte range of one space of a workgroup: 0 operand buffer, 1 stash. -/
structure Span where
  space : Nat
  wg : Nat
  lo : Nat
  len : Nat
  deriving DecidableEq, Repr

/-- What a welt knows of the completion of a write (R181, R250): within which scope around which welt the write is visible,
the number of the first store after the welt came to know, and whether it may pass this on by a signal or lock, and by a
store that another reads. -/
structure Known where
  scope : Nat
  welt : Nat
  since : Nat
  passes : Bool
  tells : Bool
  deriving DecidableEq, Repr

/-- A write to bytes that a welt's matrix steps may read (R181): where, by which welt (none for a synchronisation engine),
the copy that wrote, the number of the write, what the welt knows of its completion, and whether an operand-ready fence of the
welt has followed that. -/
structure Taint where
  span : Span
  by_ : Option Nat
  copy : Option Nat
  num : Nat
  known : List Known
  ready : Bool
  deriving DecidableEq, Repr

/-- An instruction captured by a stream (R175): what it needs stands in it, and nothing later changes it. -/
inductive StreamOp where
  | mfmt (ty : Ty)
  | mzero (t : Nat)
  | step (t : Nat) (ha hb : Res) (a0 b0 : Nat) (da db dt : Int) (j count : Nat) (fpctl : W32) (level : Nat) (taint : List Span)
  | mrd (t d row count : Nat) (lanes : Lanes)
  | mwr (t row count : Nat) (vals : List (Nat × List W64))
  | mskv (dep k : Nat) (act : Bool) (thr : W32)
  | msamp (count : Nat)
  deriving DecidableEq, Repr

/-- Work of a stream that is outstanding (R179): the rows and columns of the tile it touches and, for a step, where the
rows of its panels and then of its scale panels lie. -/
structure Outstanding where
  tile : Nat
  ty : Ty
  step : Bool
  row : Nat
  count : Nat
  lanes : Lanes
  aPanel : List Span
  bPanel : List Span
  deriving DecidableEq, Repr

/-- One matrix stream of a welt (R167, R175, R182, R185): the accumulator type at the head of the queue and at its end,
the queue, the skive state and the pending traps; `clash` is finished work of other streams that met queued work (R180). -/
structure Stream where
  acc : Ty
  accEnd : Ty
  queue : List StreamOp
  out : List Outstanding
  clash : List Outstanding
  dep : Nat
  k : Nat
  act : Bool
  thr : W32
  n : W64
  samp : Nat
  pendNan : Bool
  pendDrift : Bool
  pendMem : Bool
  paid : Nat
  since : Option Nat
  deriving DecidableEq, Repr

/-- The registers of one trap level (R418, R420-R426, R271). -/
structure TrapRegs where
  tcause : W64
  tlanes : W64
  tpcv : W64
  tsw : W64
  tvec : W64
  skid : W64
  restart : W64
  deriving DecidableEq, Repr

/-- What a trap saves beside the trap registers (R421): each lane's key and place, serial mode, the collectives, and the level
whose restart word still waits for the next instruction to issue (R272). -/
structure Saved where
  x : Lanes
  h : Lanes
  depth : Vector (BitVec 6) 32
  pc : Vector Pc 32
  pos : Vector Pos 32
  seg : Vector Pc 32
  serial : Option Serial
  colls : List Coll
  replay : Option Nat
  deriving DecidableEq, Repr

/-- What a welt that issues nothing waits for (R336, R337); at a buffer also how many filled slots CBWAIT needs, 0 for
CBFREE; at a lease the lines asked for, and the answers so far in their order (R243). -/
inductive Wait where
  | none
  | phaser (id : Nat)
  | barrier
  | buffer (n need : Nat)
  | join (seq : W64)
  | lock (name : W64)
  | stream (mask : Nat)
  | register (n : Nat)
  | atomicBuffer
  | service
  | tokens
  | fence (pm : BitVec 6)
  | order
  | copyQueue
  | lease (lanes : Lanes) (lines : List LineKey) (answers : List Bool) (since : Nat)
  deriving DecidableEq, Repr

/-- A transaction of a welt (R343); `grant` is a request that the engine has granted while the welt waited for it, until the
instruction that asked completes (R344, R349). -/
structure Txn where
  wt : Bool
  held : List (W64 × Nat)
  grant : Option (W64 × Nat)
  wounded : Bool
  since : Nat
  reported : Bool
  delivered : Bool
  by_ : List (Nat × Nat × Nat × W64)
  deriving DecidableEq, Repr

/-- Why a halt is sent (R425, R428, R435): a trap of a sibling at a level, the stall of the core, or the workgroup is to
leave its core or to end. Only a sibling of a trap writes a record. -/
inductive HaltKind where
  | sibling (level : Nat)
  | stall
  | leave
  deriving DecidableEq, Repr

/-- A halt that has arrived (R425, R426): why, the instructions retired since, and the cycle count at its arrival. -/
structure HaltRec where
  kind : HaltKind
  n : Nat
  at_ : W64
  deriving DecidableEq, Repr

/-- The halt of R425: not halted; halts have arrived and the welt runs to its stop point; stopped. -/
inductive Halt where
  | none
  | coming (hs : List HaltRec)
  | stopped
  deriving DecidableEq, Repr

/-- One welt (R24, R50): the welt's own registers, its lanes and the state that goes with them; the stores its loads have
observed and those its cumulative fences have ordered (R248), its last signals on phasers (phaser, phase, and the number of its
next store, R181), the code lines it has fetched (R252), and since when its next instruction is ready, and when it last came to
issue and could not (R321). -/
structure Welt where
  wg : Nat
  index : Nat
  slice : Nat
  slot : Nat
  populated : Lanes
  lanes : Vector Lane 32
  w : Vector W64 64
  wfull : BitVec 64
  wbad : BitVec 64
  m : Vector W32 16
  handles : Vector (Option Res) 16
  serial : Option Serial
  colls : List Coll
  fpctl : W32
  nanrec : W64
  skivestat : W64
  level : Nat
  inHandler : List Nat
  traps : Vector TrapRegs 3
  saved : Vector (Option Saved) 3
  halt : Halt
  service : Bool
  stepping : Bool
  stepPc : Pc
  stepDepth : BitVec 6
  stepLanes : Lanes
  stepDone : Bool
  replay : Option Nat
  atStart : Bool
  streams : Vector Stream 8
  flights : List Flight
  nextFlight : Nat
  wait : Wait
  wantPrice : Nat
  txn : Option Txn
  spent : Nat
  wantSince : Option Nat
  order : Nat
  unfenced : List Taint
  observed : List Nat
  cum : List Nat
  signalled : List (Nat × W32 × Nat)
  code : List (LineKey × List Byte)
  readyAt : Option Nat
  triedAt : Option Nat
  started : Bool
  yielded : Bool
  ended : Bool
  deriving DecidableEq, Repr

/-- A circular buffer (R295): base, slot size, count, the counters and, slot by slot from the head, whether a claimed
slot is filled and the cause of a failed one. -/
structure CircBuf where
  base : Nat
  size : Nat
  slots : Nat
  free : Nat
  claimed : Nat
  filled : Nat
  head : Nat
  tail : Nat
  ready : List Nat
  failed : List (Nat × Cause)
  freeing : Bool
  deriving DecidableEq, Repr

/-- A deterministic entry (R241): its key, logical workgroup, welt, lane and program order, the level of the welt (R403), and its
operation with its address. -/
structure DetEntry where
  launch : Nat
  wg : Nat
  welt : Nat
  lane : Nat
  order : Nat
  level : Nat
  addr : Nat
  op : AtomOp
  deriving DecidableEq, Repr

/-- A partial of a commutative line held by a workgroup or pooled (R238, R239): the launch and logical workgroup that
made it, the range it belongs to, the number of its line in the context's address space, the highest level of a welt that added
to it (R403), and the words it holds with their sums. -/
structure Partial_ where
  launch : Nat
  wg : Nat
  range : Nat
  line : Nat
  level : Nat
  words : List (Nat × W32)
  deriving DecidableEq, Repr

/-- A change of a stash block (R280): the block, the welt that issued STUNMAP or STFLUSH and waits for it, the stores that are
visible to every party once it completes, and whether it has. -/
structure Rebind where
  block : Nat
  welt : Nat
  stores : List Nat
  done : Bool
  deriving DecidableEq, Repr

/-- Whether a workgroup stands on its core, is saved off it, or has ended (R310, R435). -/
inductive WgState where
  | resident | saved | ended
  deriving DecidableEq, Repr

/-- One workgroup that has been dispatched (R44, R144, R230, R295, R333). -/
structure Wg where
  launch : Nat
  logical : Nat
  gang : Nat
  core : Nat
  st : WgState
  vacating : Bool
  moving : Option Nat
  stash : List Host.Cell
  blocks : Vector W64 32
  rebinding : List Rebind
  opbuf : List Host.Cell
  acc : List Host.Cell
  bufs : Vector (Option CircBuf) 16
  runner : Option Nat
  handlerRunner : Option Nat
  phase : W32
  members : List (Nat × Bool × W32)
  barTimeout : Nat
  barNext : Nat
  barRecord : Nat
  barRecordNext : Nat
  barSince : Option Nat
  barStop : Bool
  barHeld : Option Nat
  detBuf : List DetEntry
  partials : List Partial_
  faultCause : Option (BitVec 8)
  killed : Bool
  deriving DecidableEq, Repr

/-- The status a launch ends with (R320), gathered while it runs, and whether CANCEL stops its dispatch (R443). -/
structure Flags where
  faulted : Option (BitVec 8)
  killed : Option (BitVec 8)
  cancelled : Bool
  unplaced : Bool
  stop : Bool
  deriving DecidableEq, Repr

/-- One accepted launch (R305, R308, R310, R314, R320); `vacate` is a vacate in progress: the welt that asked, or none for
the host, the cores, and the command's number (R317, R437, R443); `candidate` is the cluster kept for a gang of it (R314). -/
structure Launch where
  ctx : Nat
  seq : Nat
  words : List W64
  seed : List W64
  host : Bool
  interlocked : Bool
  legacy : Bool
  copyRoles : Nat
  bankRoles : Nat
  done : List Nat
  failed : List Nat
  candidate : Option (Nat × Nat)
  waiting : Option Nat
  flags : Flags
  vacate : Option (Option Nat × Nat × Nat)
  join : Option W64
  deriving DecidableEq, Repr

/-- One host completion held until acknowledged (R444, R446). -/
structure Completion where
  num : Nat
  flit : List W64
  deriving DecidableEq, Repr

/-- One context (R399, R441, R445, R446). -/
structure Ctx where
  num : BitVec 12
  part : Nat
  root : Nat
  seed : List W64
  endpoints : List Endpoint
  control : Nat
  p1 : Nat
  p2 : Nat
  hangAt : Nat
  woundPatience : Nat
  slice : Nat
  detBase : Nat
  detSize : Nat
  images : List Image
  matrix : W64
  nextSeq : Nat
  nextCmd : Nat
  issued : Nat
  held : List Completion
  ack : Nat
  awaitSync : Bool
  ending : Bool
  endCause : Option W64
  ended : Bool
  charge : List (Nat × Nat)
  detArea : List DetEntry
  deriving DecidableEq, Repr

/-- One partition (R398, R441). -/
structure Part where
  num : Nat
  clusters : List Nat
  engines : List (Nat × Nat)
  quotas : Vector Nat 4
  withdraw : Vector Nat 4
  phaserShare : Nat
  lockShare : Nat
  overBase : Nat
  overSize : Nat
  tvec : W64
  ringBase : Nat
  ringSize : Nat
  image : W32
  imageBody : List Byte
  lastCtx : Nat
  live : Bool
  deriving DecidableEq, Repr

/-- One phaser (R327). A member is a welt with its mode, its signalled bit and wp. -/
structure Phaser where
  id : Nat
  ctx : Nat
  quarter : Nat
  scope : Nat
  core : Nat
  wg : Nat
  phase : W32
  members : List (Nat × Nat × Bool × W32)
  pending : BitVec 48
  fail : Option (Cause × W32)
  launches : List Nat
  deriving DecidableEq, Repr

/-- A transaction's age (R343): launch sequence number, logical workgroup, welt. -/
structure Age where
  seq : Nat
  wg : Nat
  welt : Nat
  deriving DecidableEq, Repr

/-- A waiter on a lock name (R344). -/
structure Waiter where
  age : Age
  w : Nat
  mode : Nat
  conv : Bool
  deriving DecidableEq, Repr

/-- A lock name of a context with its holders and its queue (R339, R344), and the welts that have released it, each with the
number of its next store then (R349). -/
structure Lock where
  ctx : Nat
  name : W64
  holders : List (Age × Nat × Nat)
  queue : List Waiter
  released : List (Nat × Nat)
  deriving DecidableEq, Repr

/-- One layer of a region's network (R196, R215): width, activation, weights by rows of 16, biases, all FP16 bits. -/
structure Layer where
  width : Nat
  act : Nat
  weights : List (BitVec 16)
  biases : List (BitVec 16)
  deriving DecidableEq, Repr

/-- The network of a region (R196). -/
structure Net where
  scale : List (BitVec 16)
  offset : List (BitVec 16)
  layers : List Layer
  deriving DecidableEq, Repr

/-- A refit in progress (R209, R212): the welt and flight that wait for it, the proposal, the exception list as it
stood when it began, and the indices stored to since. -/
structure Refit where
  w : Nat
  flight : Nat
  net : Option Net
  exc0 : List (Nat × W64)
  stored : List Nat
  deriving DecidableEq, Repr

/-- One fitted region (R196-R198). -/
structure Region where
  ctx : Nat
  base : Nat
  dims : List Nat
  ty : Ty
  desc : W32
  eps : W64
  fill : W64
  cap : Nat
  net : Net
  exc : List (Nat × W64)
  gen : Nat
  home : Nat
  refit : Option Refit
  cached : List Nat
  live : Bool
  deriving DecidableEq, Repr

/-- One commutative range (R237). -/
structure CRange where
  ctx : Nat
  launch : Nat
  base : Nat
  len : Nat
  op : Nat
  live : Bool
  deriving DecidableEq, Repr

/-- Where a copy reads or writes: an address of one of the four spaces of R289 with the workgroup it belongs to. -/
structure CopyEnd where
  space : Nat
  wg : Nat
  addr : Nat
  deriving DecidableEq, Repr

/-- What CPY.COLL needs (R294): descriptor, block length, residual offset, rounding code, salt and seed. -/
structure CollCopy where
  desc : W32
  blk : Nat
  res : Nat
  rm : BitVec 3
  salt : BitVec 8
  seed : W64
  deriving DecidableEq, Repr

/-- The unit of a scope of R247 around some lanes of a welt: the workgroup and core are those of the welt. -/
structure Unit_ where
  level : Nat
  welt : Nat
  lanes : Lanes
  wg : Nat
  core : Nat
  deriving DecidableEq, Repr

/-- A store that has its place in the coherence order of its bytes, while some parties may not see it yet (R246, R248):
the lanes and welt that made it with their workgroup and core, the scope of R8 within which it is visible, other units in
which fences of others have made it visible, what each byte held before it, and the stores that a cumulative fence before it
ordered before it. -/
structure Veil where
  num : Nat
  welt : Nat
  lanes : Lanes
  wg : Nat
  core : Nat
  level : Nat
  more : List Unit_
  bytes : List (Loc × Byte)
  deps : List Nat
  deriving DecidableEq, Repr

/-- Who reads (R244): lanes of a welt; a copy or a stream of a welt has no lane of its own. -/
structure Reader where
  welt : Nat
  lanes : Lanes
  deriving DecidableEq, Repr

/-- A copy in flight (R289-R294): the welt and workgroup that issued it, its ends, how it counts, its progress (the
destination line, or block of CPY.COLL, the target that gets it next, and the bytes that are carried to every target of it,
R293), the engine that carries it out (R407), the chunks paid for, and since when the next one waits for tokens. `bound` and
`resBound` are the device ranges bound to what it writes and to its residual array, where those lie in mapped blocks (R234,
R291, R294). -/
structure Copy where
  w : Nat
  wg : Nat
  ctx : Nat
  level : Nat
  src : CopyEnd
  dsts : List CopyEnd
  len : Nat
  conv : Nat
  ph : Option Nat
  cb : Option Nat
  slot : Option Nat
  coll : Option CollCopy
  line : Nat
  target : Nat
  carried : List Byte
  engine : Nat
  price : Nat
  paid : Nat
  since : Option Nat
  bound : List (Nat × Nat)
  resBound : List (Nat × Nat)
  done : Bool
  observed : Bool
  deriving DecidableEq, Repr

/-- The class of a page (R235). -/
inductive PageClass where
  | priv (core : Nat)
  | shared
  deriving DecidableEq, Repr

/-- A page of device memory that its home has classified (R235): its frame and its class. -/
structure PageRec where
  base : Nat
  size : Nat
  cls : PageClass
  deriving DecidableEq, Repr

/-- A translation that accesses of a context have used since it was last invalidated (R235, R400, R406): the virtual page, and
the frame that its leaf gives it. -/
structure PageUse where
  ctx : Nat
  page : Nat
  base : Nat
  size : Nat
  deriving DecidableEq, Repr

/-- A line that a core's L1 or one of its mapped stash blocks holds (R229, R234). The data of a line stands in memory
once; `dirty` says that only this copy has it. -/
structure CLine where
  core : Nat
  line : LineKey
  block : Option (Nat × Nat)
  excl : Bool
  dirty : Bool
  deriving DecidableEq, Repr

/-- A line of a home's directory (R229, R236): version, owner, sharers. -/
structure DirLine where
  line : LineKey
  version : BitVec 16
  owner : Option Nat
  sharers : List Nat
  deriving DecidableEq, Repr

/-- A write-back in flight, with the version under which its line was held (R236). -/
structure WriteBack where
  core : Nat
  line : LineKey
  version : BitVec 16
  deriving DecidableEq, Repr

/-- A TLB entry (R405) of a core's L1 TLB, or of a quarter's L2 TLB, whose number then stands in `core`: the level of
its leaf gives the page size, and `priv` is the private bit of R235. -/
structure Tlb where
  core : Nat
  ctx : Nat
  page : Nat
  size : Nat
  leaf : W64
  priv : Bool
  deriving DecidableEq, Repr

/-- What a walk finds (R405): a leaf with the size of its page, or the cause and kind of its fault. -/
inductive WalkEnd where
  | leaf (size : Nat) (e : W64)
  | fault (cause : Cause) (kind : Nat)
  deriving DecidableEq, Repr

/-- A walk in flight of a quarter for a context and a 64 KiB page, with what its reads have found (R405). -/
structure Walk where
  quarter : Nat
  ctx : Nat
  page : Nat
  found : WalkEnd
  deriving DecidableEq, Repr

/-- What moves in one slice of a core (R391, R392), and the cycle in which it last issued (R321). -/
structure Slice where
  ratio : BitVec 3
  pending : Option (BitVec 3 × Nat)
  grants : Nat
  issuedAt : Option Nat
  deriving DecidableEq, Repr

/-- How a core is gated (R336). -/
inductive Gate where
  | on | clock (since : Nat) | power
  deriving DecidableEq, Repr

/-- Wide work that holds tokens (R386): the instruction of a welt that follows `n` others, the head of a stream of a welt,
or chunk `n` of a copy. -/
inductive Holder where
  | welt (i n : Nat)
  | stream (i k : Nat)
  | copy (k n : Nat)
  deriving DecidableEq, Repr

/-- Tokens that wide work of a core holds: for how many more cycles at the most, of the slice named or else of the core
clock, and the figure of R387 for the work once it has issued (R386, R387). -/
structure HeldTokens where
  count : Nat
  left : Nat
  slice : Option Nat
  figure : Nat
  who : Holder
  deriving DecidableEq, Repr

/-- One core (R336, R337, R384-R388, R431); `reserveFor` is the work that its reserve is for, `busyAt` is the cycle in which
it last had a welt that does not wait (R336), and `slicedOut` the context whose workgroups are being switched out there
(R441). -/
structure Core where
  slices : Vector Slice 6
  gate : Gate
  busyAt : Nat
  timerStart : Nat
  reserve : Nat
  reserveFor : Option Holder
  held : List HeldTokens
  hungry : Bool
  cycles0 : Nat
  slicedOut : Option Nat
  watches : Vector (Option Watch) 4
  deriving DecidableEq, Repr

/-- One token ring (R381, R388): free tokens by partition at each of the 48 stations, and the hunger vector as each
station sees it. -/
structure Ring where
  free : Vector (List (Nat × Nat)) 48
  hunger : Vector (BitVec 48) 48
  deriving DecidableEq, Repr

/-- The stages of bring-up (R450): in reset, in the recovery state, up. -/
inductive Bringup where
  | reset | firmware | stacks | ports | up | recovery
  deriving DecidableEq, Repr

/-- A stitch (R34): the welts that issue together, with the number of instructions each has issued in it; the highest index
stands first, the lowest last (R96). -/
structure Stitch where
  members : List (Nat × Nat)
  deriving DecidableEq, Repr

/-- The whole device, and the model's own fields last: `turn` and `tick` choose who moves next and count free values,
`cur` names the welt that issues, `agenda` holds internal events that are due and `inbox` what arrives from outside. -/
structure State where
  bringup : Bringup
  corrected : List Nat
  countedAt : Nat
  now : Nat
  mem : List Host.Cell
  host : List Host.Cell
  bad : List Nat
  badCells : List (Nat × Nat × Nat)
  fused : Vector Nat 4
  lost : List Nat
  secVersion : BitVec 32
  mgmtTvec : W64
  mgmtOut : List (List W64)
  sent : List (Nat × List W64)
  dataOut : List (Nat × Bool × List Byte)
  parts : List Part
  ctxs : List Ctx
  launches : List Launch
  wgs : List Wg
  welts : List Welt
  phasers : List Phaser
  nextPhaser : Nat
  locks : List Lock
  regions : List Region
  ranges : List CRange
  pooled : List DetEntry
  pooledPartials : List Partial_
  copies : List Copy
  pages : List PageRec
  uses : List PageUse
  dir : List DirLine
  cached : List CLine
  l2 : List (Nat × LineKey)
  writeBacks : List WriteBack
  tlb : List Tlb
  tlb2 : List Tlb
  walks : List Walk
  veils : List Veil
  nextVeil : Nat
  messages : List (Loc × Nat × Nat)
  stitches : List Stitch
  cores : Vector Core 192
  rings : Vector Ring 4
  turn : Nat
  tick : Nat
  cur : Nat
  agenda : List Instr
  inbox : List Instr
  deriving DecidableEq, Repr

/-- What an unlisted byte of device or host memory reads as: R227 and R228 give no contents at power-on
(DESIGN CHOICE, log 2). -/
def Memory.unlisted : Byte := 0

/-- The canonical form of a memory: addresses strictly rising, and no entry that equals what an unlisted byte reads
as. -/
abbrev Memory.wf (m : List Host.Cell) : Prop :=
  m.Pairwise (fun a b => a.1 < b.1) ∧ ∀ c ∈ m, c.2 ≠ Memory.unlisted

/-- A lane before its welt starts (R26): registers zero and full, exited. -/
def Lane.init : Lane where
  v := Vector.replicate 128 0
  full := BitVec.allOnes 128
  bad := 0
  x := true
  h := false
  depth := 0
  pc := 0
  pos := .start
  seg := 0

/-- The trap registers at reset (R420-R426, R271). -/
def TrapRegs.init : TrapRegs where
  tcause := 0
  tlanes := 0
  tpcv := 0
  tsw := 0
  tvec := 0
  skid := 0
  restart := 0

/-- A stream when its welt starts (R167). -/
def Stream.init : Stream where
  acc := .f32
  accEnd := .f32
  queue := []
  out := []
  clash := []
  dep := 0
  k := 0
  act := false
  thr := 0
  n := 0
  samp := 0
  pendNan := false
  pendDrift := false
  pendMem := false
  paid := 0
  since := none

/-- A welt with no populated lane: what a welt is before R26 fills it, and what an index that names none reads as. -/
def Welt.init : Welt where
  wg := 0
  index := 0
  slice := 0
  slot := 0
  populated := 0
  lanes := Vector.replicate 32 Lane.init
  w := Vector.replicate 64 0
  wfull := BitVec.allOnes 64
  wbad := 0
  m := Vector.replicate 16 0
  handles := Vector.replicate 16 none
  serial := none
  colls := []
  fpctl := 0
  nanrec := 0
  skivestat := 0
  level := 0
  inHandler := []
  traps := Vector.replicate 3 TrapRegs.init
  saved := Vector.replicate 3 none
  halt := .none
  service := false
  stepping := false
  stepPc := 0
  stepDepth := 0
  stepLanes := 0
  stepDone := false
  replay := none
  atStart := false
  streams := Vector.replicate 8 Stream.init
  flights := []
  nextFlight := 0
  wait := .none
  wantPrice := 0
  txn := none
  spent := 0
  wantSince := none
  order := 0
  unfenced := []
  observed := []
  cum := []
  signalled := []
  code := []
  readyAt := none
  triedAt := none
  started := false
  yielded := false
  ended := false

/-- A workgroup before dispatch fills it (R165, R231, R233, R295, R334). -/
def Wg.init : Wg where
  launch := 0
  logical := 0
  gang := 0
  core := 0
  st := .resident
  vacating := false
  moving := none
  stash := []
  blocks := Vector.replicate 32 0
  rebinding := []
  opbuf := []
  acc := []
  bufs := Vector.replicate 16 none
  runner := none
  handlerRunner := none
  phase := 0
  members := []
  barTimeout := 2 ^ 31
  barNext := 2 ^ 31
  barRecord := 0
  barRecordNext := 0
  barSince := none
  barStop := false
  barHeld := none
  detBuf := []
  partials := []
  faultCause := none
  killed := false

/-- A launch that an index names when there is none. -/
def Launch.init : Launch where
  ctx := 0
  seq := 0
  words := List.replicate 32 0
  seed := [0]
  host := false
  interlocked := false
  legacy := false
  copyRoles := 0
  bankRoles := 0
  done := []
  failed := []
  candidate := none
  waiting := none
  flags := ⟨none, none, false, false, false⟩
  vacate := none
  join := none

/-- The default lock matrix (R341). -/
def defaultMatrix : W64 := 0x010329132F0F5FFF#64

/-- A context with the defaults of R441. -/
def Ctx.init : Ctx where
  num := 0
  part := 0
  root := 0
  seed := [0]
  endpoints := []
  control := 0
  p1 := 2 ^ 20
  p2 := 2 ^ 24
  hangAt := 2 ^ 32
  woundPatience := 2 ^ 22
  slice := 2 ^ 24
  detBase := 0
  detSize := 0
  images := []
  matrix := defaultMatrix
  nextSeq := 1
  nextCmd := 1
  issued := 0
  held := []
  ack := 0
  awaitSync := false
  ending := false
  endCause := none
  ended := false
  charge := []
  detArea := []

/-- A partition that an index names when there is none. -/
def Part.init : Part where
  num := 0
  clusters := []
  engines := []
  quotas := Vector.replicate 4 0
  withdraw := Vector.replicate 4 0
  phaserShare := 0
  lockShare := 0
  overBase := 0
  overSize := 0
  tvec := 0
  ringBase := 0
  ringSize := 64
  image := 0
  imageBody := []
  lastCtx := 0
  live := false

/-- A slice at reset: ratio 1/1, no change pending, 12 read grants (R391-R393). -/
def Slice.init : Slice where
  ratio := 0
  pending := none
  grants := 12
  issuedAt := none

/-- A core at reset. -/
def Core.init : Core where
  slices := Vector.replicate 6 Slice.init
  gate := .on
  busyAt := 0
  timerStart := 0
  reserve := 0
  reserveFor := none
  held := []
  hungry := false
  cycles0 := 0
  slicedOut := none
  watches := Vector.replicate 4 none

/-- The machine right after reset (R449, R450): every state lost, bring-up not begun. The fused cluster, the security
version, the management handler and the clock are the model's choices (DESIGN CHOICE, logs 3-6), and so are the
model's own fields (log 1). -/
def State.reset : State where
  bringup := .reset
  corrected := List.replicate 16 0
  countedAt := 0
  now := 0
  mem := []
  host := []
  bad := []
  badCells := []
  fused := Vector.replicate 4 12
  lost := []
  secVersion := 0
  mgmtTvec := 1
  mgmtOut := []
  sent := []
  dataOut := []
  parts := []
  ctxs := []
  launches := []
  wgs := []
  welts := []
  phasers := []
  nextPhaser := 1
  locks := []
  regions := []
  ranges := []
  pooled := []
  pooledPartials := []
  copies := []
  pages := []
  uses := []
  dir := []
  cached := []
  l2 := []
  writeBacks := []
  tlb := []
  tlb2 := []
  walks := []
  veils := []
  nextVeil := 0
  messages := []
  stitches := []
  cores := Vector.replicate 192 Core.init
  rings := Vector.replicate 4 ⟨Vector.replicate 48 [], Vector.replicate 48 0⟩
  turn := 0
  tick := 0
  cur := 0
  agenda := [.bringUp true]
  inbox := []

end Sys2Proof.Machine
end

