-- ==== Sys2Proof/Machine/Network.lean ====
section
/-!
DEFINITION. Evaluation of a fitted region's network, bit for bit (spec/09_fitted_regions.md R196-R200), and the pure
parts of its stores and refits (R204, R207-R209).
-/

namespace Sys2Proof.Machine

/-- A multiply and add rounded once into a type; subnormals are honoured and no flag is kept (R199). -/
def netFma (t : Ty) (a b c : FVal) : FVal := (finish t false .rne (fmaExact .rne a b c)).1

/-- The activations by code (R199): identity, ReLU, clamp; a NaN passes. -/
def activate (code : Nat) (x : FVal) : FVal :=
  match code with
  | 1 => match x with
    | .nan s => .nan s
    | .inf n => if n then .fin false 0 else .inf false
    | .fin n q => if n || q == 0 then .fin false 0 else .fin n q
  | 2 => match x with
    | .nan s => .nan s
    | .inf n => .fin n 1
    | .fin n q => if 1 < q then .fin n 1 else .fin n q
  | _ => x

/-- The coordinates of a linear index, dimension 0 fastest (R197). -/
def coordsOf : List Nat → Nat → List Nat
  | [], _ => []
  | d :: ds, i => i % d :: coordsOf ds (i / d)

/-- One output of a layer (R199): inputs in ascending order, one rounding each. -/
def neuron (l : Layer) (inputs : List FVal) (m : Nat) : FVal :=
  let acc := inputs.zipIdx.foldl
    (fun acc u => netFma .f32 (decodeF .f16 ((l.weights.getD (16 * m + u.2) 0).setWidth 64)) u.1 acc)
    (decodeF .f16 ((l.biases.getD m 0).setWidth 64))
  (floatToFloat .f16 false .rne (activate l.act acc)).1

/-- The layers in order (R199). -/
def runLayers : List Layer → List FVal → List FVal
  | [], u => u
  | l :: ls, u => runLayers ls ((List.range l.width).map (neuron l u))

/-- The network value of an index before its last rounding (R199). -/
def networkOut (n : Net) (dims : List Nat) (i : Nat) : FVal :=
  let u := (coordsOf dims i).zipIdx.map fun x =>
    netFma .f16 (.fin false (x.1 : Nat)) (decodeF .f16 ((n.scale.getD x.2 0).setWidth 64))
      (decodeF .f16 ((n.offset.getD x.2 0).setWidth 64))
  (runLayers n.layers u).getD 0 (.nan false)

/-- The element bits of a value in the region's format (R199). -/
def elemBits (ty : Ty) (desc : W32) (x : FVal) : W64 :=
  if ty = .nx then BitVec.ofNat 64 ((narrowOf desc).round .rne x).1
  else encodeF ty (floatToFloat ty false .rne x).1

/-- The value that element bits hold. -/
def elemVal (ty : Ty) (desc : W32) (b : W64) : FVal :=
  if ty = .nx then (narrowOf desc).decode b.toNat else decodeF ty b

/-- The network value of an index (R199). -/
def netValue (r : Region) (n : Net) (i : Nat) : W64 := elemBits r.ty r.desc (networkOut n r.dims i)

/-- The read value of an index (R200): its exception entry, else the network value. -/
def Region.read (r : Region) (i : Nat) : W64 :=
  match r.exc.find? fun e => e.1 == i with
  | some e => e.2
  | none => netValue r r.net i

/-- The number of elements (R196). -/
def Region.size (r : Region) : Nat := r.dims.foldl (· * ·) 1

/-- The slot of an element in bits (R197, R118). -/
def Region.slot (r : Region) : Nat := if r.ty = .nx then (narrowOf r.desc).slot else r.ty.width

/-- The bytes of the image, B of R197. -/
def Region.bytes (r : Region) : Nat := (r.size * r.slot + 7) / 8

/-- S_img and S_tab (R198). -/
def roundUp64K (n : Nat) : Nat := (n + 65535) / 65536 * 65536
/-- The size of the image range (R198). -/
def Region.imgSize (r : Region) : Nat := roundUp64K r.bytes
/-- The size of the table area (R198). -/
def Region.tabSize (r : Region) : Nat := roundUp64K (16 * r.cap)

/-- Byte `off` of the image (R197, R201). -/
def Region.byteAt (r : Region) (off : Nat) : Byte :=
  if r.slot = 4 then
    let lo := (r.read (2 * off)).setWidth 4
    let hi : BitVec 4 := if 2 * off + 1 < r.size then (r.read (2 * off + 1)).setWidth 4 else 0
    hi ++ lo
  else
    let k := r.slot / 8
    (r.read (off / k)).extractLsb' (8 * (off % k)) 8

/-- The exception list with an entry entered, replacing one for its index (R204); kept in index order. -/
def putExc : List (Nat × W64) → Nat → W64 → List (Nat × W64)
  | [], i, b => [(i, b)]
  | (j, c) :: t, i, b =>
    if j = i then (i, b) :: t else if i < j then (i, b) :: (j, c) :: t else (j, c) :: putExc t i b

/-- The elements that bytes `off` to `off + n - 1` of the image touch (R204). -/
def Region.touched (r : Region) (off n : Nat) : List Nat :=
  let first := 8 * off / r.slot
  let last := min ((8 * (off + n) - 1) / r.slot) (r.size - 1)
  (List.range (last + 1 - first)).map (first + ·)

/-- Element bits with one stored byte of the image merged in (R204). -/
def Region.merge (r : Region) (i : Nat) (old : W64) (off : Nat) (b : Byte) : W64 :=
  if r.slot = 4 then (if i % 2 = 0 then (b.extractLsb' 0 4).setWidth 64 else (b.extractLsb' 4 4).setWidth 64)
  else
    let sh := 8 * (off - i * (r.slot / 8))
    (old &&& ~~~((0xFF#64) <<< sh)) ||| (b.setWidth 64 <<< sh)

/-- One byte stored into the image (R204): the touched elements take entries, cached copies of the line go, and a running
refit remembers the elements (R212). -/
def Region.storeByte (r : Region) (off : Nat) (b : Byte) : Region :=
  let is := r.touched off 1
  { r with
    exc := is.foldl (fun e i => putExc e i (r.merge i (r.read i) off b)) r.exc
    cached := r.cached.filter fun l => l != off / 128
    refit := r.refit.map fun f => { f with stored := is ++ f.stored } }

/-- The elements of a stored byte, in order, until one finds no entry free (R205, R292). -/
def Region.storeFitting (r : Region) (off : Nat) (b : Byte) : Region :=
  (r.touched off 1).foldl (fun (a : Region × Bool) i =>
    if a.2 && ((a.1.exc.any fun e => e.1 == i) || decide (a.1.exc.length < a.1.cap)) then
      ({ a.1 with
        exc := putExc a.1.exc i (a.1.merge i (a.1.read i) off b)
        cached := a.1.cached.filter fun l => l != off / 128
        refit := a.1.refit.map fun f => { f with stored := i :: f.stored } }, true)
    else (a.1, false)) (r, true) |>.1

/-- How many new entries stores at the given image bytes need (R205). -/
def Region.newEntries (r : Region) (offs : List Nat) : Nat :=
  ((offs.flatMap fun o => r.touched o 1).eraseDups.filter fun i => !(r.exc.any fun e => e.1 == i)).length

/-- The budget of a generation, β_k = ε · 2^-(k+1); none from 25 on (R207). -/
def budget (eps : W64) (k : Nat) : Option Rat :=
  if k ≤ 24 then some ((decodeF .f64 eps).toRat / (2 ^ (k + 1) : Nat)) else none

/-- Whether `p` meets the budget of generation `k` against `c` (R207). -/
def meets (r : Region) (k : Nat) (p c : W64) : Bool :=
  p == c || match budget r.eps k, elemVal r.ty r.desc p, elemVal r.ty r.desc c with
    | some b, .fin m x, .fin n y => decide (|FVal.toRat (.fin m x) - FVal.toRat (.fin n y)| < b)
    | _, _, _ => false

/-- The outcome of a refit (R209, R212): the reduced list, or rejection. An index is tested against its read value from
before the refit, and one stored to since is never absorbed. -/
def refitTest (r : Region) (n : Net) (f : Refit) : Option (List (Nat × W64)) :=
  let k := r.gen + 1
  let r0 := { r with exc := f.exc0 }
  if (List.range r.size).all fun i => (f.exc0.any fun e => e.1 == i) || meets r k (netValue r n i) (r0.read i) then
    some (r.exc.filter fun e => f.stored.contains e.1 || !(meets r k (netValue r n e.1) e.2))
  else none

/-- The bits of a network, in order. -/
def Net.bits (n : Net) : List Nat :=
  (n.scale ++ n.offset ++ n.layers.flatMap fun l => l.weights ++ l.biases).map BitVec.toNat

/-- All that the home knows of a region: what a proposal of its own is a function of (R99, R217). -/
def Region.facts (r : Region) : List Nat :=
  [r.ty.code.toNat, r.desc.toNat, r.eps.toNat, r.cap, r.gen] ++ r.dims ++ r.net.bits
    ++ r.exc.flatMap fun e => [e.1, e.2.toNat]

/-- A proposal that the home chooses: the region's network with the parameters that Config leaves open (R217,
log 11). -/
def chosenNet (r : Region) : Net where
  scale := r.net.scale.zipIdx.map fun x => Config.refitParam r.facts x.2
  offset := r.net.offset.zipIdx.map fun x => Config.refitParam r.facts (16 + x.2)
  layers := r.net.layers.zipIdx.map fun l =>
    { l.1 with
      weights := l.1.weights.zipIdx.map fun x => Config.refitParam r.facts (1024 * (l.2 + 1) + x.2)
      biases := l.1.biases.zipIdx.map fun x => Config.refitParam r.facts (1024 * (l.2 + 1) + 512 + x.2) }

end Sys2Proof.Machine
end

