-- ==== Sys2Proof/Machine/Records.lean ====
section
/-!
DEFINITION. Reading and writing the records of the state: each list by index, the welt that issues, its lanes and
registers, one home for each (spec/02_execution_model.md R50-R53, R56).
-/

namespace Sys2Proof.Machine

/-! ### Memory cells -/

/-- The byte at an address; an unlisted one reads as `Memory.unlisted`. -/
def cellRead : List Host.Cell → Nat → Byte
  | [], _ => Memory.unlisted
  | (k, v) :: t, a => if k = a then v else if a < k then Memory.unlisted else cellRead t a

/-- A byte put at the head of a memory in canonical form: the byte that an unlisted address reads as is not listed. -/
def cellCons (a : Nat) (b : Byte) (m : List Host.Cell) : List Host.Cell := if b = Memory.unlisted then m else (a, b) :: m

/-- A byte written at an address, keeping the canonical form. -/
def cellWrite : List Host.Cell → Nat → Byte → List Host.Cell
  | [], a, b => cellCons a b []
  | (k, v) :: t, a, b =>
    if k = a then cellCons a b t
    else if a < k then cellCons a b ((k, v) :: t)
    else (k, v) :: cellWrite t a b

/-- `n` bytes from an address, little-endian (R5). -/
def cellsRead (m : List Host.Cell) (a : Nat) : Nat → Nat
  | 0 => 0
  | n + 1 => (cellRead m a).toNat + 256 * cellsRead m (a + 1) n

/-- Bytes written from an address on. -/
def cellsWrite : List Host.Cell → Nat → List Byte → List Host.Cell
  | m, _, [] => m
  | m, a, b :: bs => cellsWrite (cellWrite m a b) (a + 1) bs

/-- The low `n` bytes of a value, lowest first (R5). -/
def bytesLE (x : W64) (n : Nat) : List Byte := (List.range n).map fun i => x.extractLsb' (8 * i) 8

/-- The value of bytes, lowest first (R5). -/
def leValue : List Byte → Nat
  | [] => 0
  | b :: bs => b.toNat + 256 * leValue bs

/-! ### Lists by index -/

/-- A welt by index. -/
def State.weltAt (s : State) (i : Nat) : Welt := s.welts.getD i Welt.init
/-- A welt put at its index. -/
def State.setWeltAt (s : State) (i : Nat) (w : Welt) : State := { s with welts := s.welts.set i w }
/-- The welt that issues. -/
def State.cw (s : State) : Welt := s.weltAt s.cur
/-- The welt that issues, replaced. -/
def State.setCw (s : State) (w : Welt) : State := s.setWeltAt s.cur w
/-- A workgroup by index. -/
def State.wgAt (s : State) (i : Nat) : Wg := s.wgs.getD i Wg.init
/-- A workgroup put at its index. -/
def State.setWgAt (s : State) (i : Nat) (g : Wg) : State := { s with wgs := s.wgs.set i g }
/-- The workgroup of the welt that issues. -/
def State.cg (s : State) : Wg := s.wgAt s.cw.wg
/-- The workgroup of the welt that issues, replaced. -/
def State.setCg (s : State) (g : Wg) : State := s.setWgAt s.cw.wg g
/-- A launch by index. -/
def State.launchAt (s : State) (i : Nat) : Launch := s.launches.getD i Launch.init
/-- A launch put at its index. -/
def State.setLaunchAt (s : State) (i : Nat) (l : Launch) : State := { s with launches := s.launches.set i l }
/-- The launch of a workgroup. -/
def State.launchOf (s : State) (g : Wg) : Launch := s.launchAt g.launch
/-- The launch of the welt that issues. -/
def State.cl (s : State) : Launch := s.launchOf s.cg
/-- A context by index. -/
def State.ctxAt (s : State) (i : Nat) : Ctx := s.ctxs.getD i Ctx.init
/-- A context put at its index. -/
def State.setCtxAt (s : State) (i : Nat) (c : Ctx) : State := { s with ctxs := s.ctxs.set i c }
/-- The context of the welt that issues. -/
def State.cc (s : State) : Ctx := s.ctxAt s.cl.ctx
/-- A partition by number. -/
def State.partNum (s : State) (n : Nat) : Part := (s.parts.find? fun p => p.live && p.num == n).getD Part.init
/-- A live partition replaced. -/
def State.setPart (s : State) (p : Part) : State :=
  { s with parts := s.parts.map fun q => if q.live && q.num == p.num then p else q }
/-- A core by number, 48 q + station. -/
def State.coreAt (s : State) (i : Nat) : Core := s.cores.toList.getD i Core.init
/-- A core put at its number. -/
def State.setCoreAt (s : State) (i : Nat) (c : Core) : State :=
  { s with cores := s.cores.setIfInBounds i c }
/-- An internal event made due. -/
def State.post (s : State) (i : Instr) : State := { s with agenda := s.agenda ++ [i] }

/-! ### Launch records -/

/-- A word of a launch record (R305). -/
def Launch.q (l : Launch) (i : Nat) : W64 := l.words.getD i 0
/-- A field of a word. -/
def field (x : W64) (lo n : Nat) : Nat := (x.extractLsb' lo n).toNat
/-- D of the record: deterministic (R305). -/
def Launch.det (l : Launch) : Bool := (l.q 9).getLsbD 51
/-- K of the record: walker (R305). -/
def Launch.walker (l : Launch) : Bool := (l.q 9).getLsbD 50
/-- The launch's seed: the top of its stack (R319). -/
def Launch.top (l : Launch) : W64 := l.seed.getLastD 0

/-! ### Lanes and registers -/

/-- One register of a lane. -/
def Lane.rd (l : Lane) (r : Nat) : W32 := l.v.toList.getD r 0
/-- One register of a lane written, and made full (R53); an error that it held is gone (R433). -/
def Lane.wr (l : Lane) (r : Nat) (x : W32) : Lane :=
  { l with
    v := l.v.setIfInBounds r x
    full := l.full ||| BitVec.twoPow 128 r
    bad := l.bad &&& ~~~(BitVec.twoPow 128 r) }
/-- One register of a lane made empty (R53). -/
def Lane.empty (l : Lane) (r : Nat) : Lane := { l with full := l.full &&& ~~~(BitVec.twoPow 128 r) }
/-- One register of a lane made full with the value it has (R269). -/
def Lane.fill (l : Lane) (r : Nat) : Lane := { l with full := l.full ||| BitVec.twoPow 128 r }
/-- A value of a type in a lane: one register, or the even/odd pair (R51). -/
def Lane.rdTy (l : Lane) (t : Ty) (r : Nat) : W64 :=
  if t.is64 then l.rd (r + 1) ++ l.rd r else (l.rd r).setWidth 64
/-- A value of a type written: one register, or the pair (R51). -/
def Lane.wrTy (l : Lane) (t : Ty) (r : Nat) (x : W64) : Lane :=
  if t.is64 then (l.wr r (x.setWidth 32)).wr (r + 1) (x.extractLsb' 32 32) else l.wr r (x.setWidth 32)
/-- The registers of an operand of a type (R51). -/
def regsOf (t : Ty) (r : Nat) : List Nat := if t.is64 then [r, r + 1] else [r]

/-- A lane of a welt. -/
def Welt.lane (w : Welt) (i : Nat) : Lane := w.lanes.toList.getD i Lane.init
/-- The lanes of a set changed, each by its own number. -/
def Welt.mapLanes (w : Welt) (e : Lanes) (f : Nat → Lane → Lane) : Welt :=
  { w with lanes := Vector.ofFn fun i : Fin 32 => if e.getLsbD i then f i w.lanes[i] else w.lanes[i] }

/-- A uniform register; `w0` reads as zero (R50). -/
def Welt.rdW (w : Welt) (r : Nat) : W64 := if r = 0 then 0 else w.w.toList.getD r 0
/-- A uniform register written and made full; a write to `w0` is discarded (R52). -/
def Welt.wrW (w : Welt) (r : Nat) (x : W64) : Welt :=
  if r = 0 then w
  else { w with
    w := w.w.setIfInBounds r x
    wfull := w.wfull ||| BitVec.twoPow 64 r
    wbad := w.wbad &&& ~~~(BitVec.twoPow 64 r) }
/-- A uniform register made empty; `w0` is always full (R52). -/
def Welt.emptyW (w : Welt) (r : Nat) : Welt :=
  if r = 0 then w else { w with wfull := w.wfull &&& ~~~(BitVec.twoPow 64 r) }
/-- A uniform register made full with the value it has. -/
def Welt.fillW (w : Welt) (r : Nat) : Welt :=
  if r = 0 then w else { w with wfull := w.wfull ||| BitVec.twoPow 64 r }
/-- Whether a uniform register is full (R52). -/
def Welt.fullW (w : Welt) (r : Nat) : Bool := r == 0 || w.wfull.getLsbD r

/-- Whether the welt runs in legacy-width mode (R56). -/
def State.legacy (s : State) : Bool := s.cl.legacy
/-- A mask register; `m0` reads as all ones, or as the low half in legacy-width mode (R50, R56). -/
def maskRead (legacy : Bool) (w : Welt) (r : Nat) : Lanes :=
  if r = 0 then (if legacy then 0xFFFF#32 else 0xFFFFFFFF#32) else w.m.toList.getD r 0
/-- A mask register written: a write to `m0` is discarded, and legacy-width mode writes bits 31:16 as zero
(R52, R56). -/
def maskWrite (legacy : Bool) (w : Welt) (r : Nat) (x : Lanes) : Welt :=
  if r = 0 then w else { w with m := w.m.setIfInBounds r (if legacy then x &&& 0xFFFF#32 else x) }

/-- A stream of a welt. -/
def Welt.stream (w : Welt) (i : Nat) : Stream := w.streams.toList.getD i Stream.init
/-- A stream put at its number. -/
def Welt.setStream (w : Welt) (i : Nat) (st : Stream) : Welt := { w with streams := w.streams.setIfInBounds i st }
/-- The trap registers of a level. -/
def Welt.trap (w : Welt) (n : Nat) : TrapRegs := w.traps.toList.getD n TrapRegs.init
/-- The trap registers of a level, replaced. -/
def Welt.setTrap (w : Welt) (n : Nat) (t : TrapRegs) : Welt := { w with traps := w.traps.setIfInBounds n t }

/-- The non-exited lanes. -/
def Welt.living (w : Welt) : Lanes := Lanes.ofPred fun i => !(w.lanes[i]).x
/-- The live lanes: X = 0 and H = 0 (R27); in serial mode the running lane alone (R40, R42). -/
def Welt.live (w : Welt) : Lanes :=
  Lanes.ofPred fun i => !(w.lanes[i]).x && !(w.lanes[i]).h && (match w.serial with
    | none => true
    | some z => i.val == z.running)

/-- The key of a lane (R27). -/
def Lane.key (l : Lane) : Nat := (63 - l.depth.toNat) * 2 ^ 48 + l.pc.toNat

/-- The lowest lane of a set that has the least key, if the set has a lane. -/
def Welt.leader (w : Welt) : Option (Fin 32) :=
  w.live.toList.foldl (fun best i => match best with
    | none => some i
    | some b => if (w.lanes[i]).key < (w.lanes[b]).key then some i else some b) none

/-- A, the lanes at the minimum key (R27, R97). -/
def Welt.A (w : Welt) : Lanes :=
  match w.leader with
  | none => 0
  | some b => w.live &&& Lanes.ofPred fun i => (w.lanes[i]).key == (w.lanes[b]).key
/-- The lane that stands for the issue: the lowest of A. -/
def Welt.lead (w : Welt) : Lane :=
  match w.leader with
  | none => Lane.init
  | some b => w.lanes[b]
/-- The address of the instruction that issues. -/
def Welt.pc (w : Welt) : Pc := w.lead.pc
/-- E, the lanes of A whose predicate bit is 1 (R97); R56 gives `m0`. -/
def State.E (s : State) (p : BitVec 2) : Lanes := s.cw.A &&& maskRead s.legacy s.cw p.toNat

/-- The key of a lane as a 64-bit word (R25). -/
def Lane.kv (l : Lane) : W64 :=
  BitVec.ofNat 64 ((if l.x then 2 ^ 63 else 0) + (if l.h then 2 ^ 62 else 0) + l.depth.toNat * 2 ^ 56 + l.pc.toNat)

/-! ### Placement -/

/-- The quarter of an enabled core numbered 48 q + station (R14, R381). -/
def quarterOf (core : Nat) : Nat := core / 48
/-- The physical core of a station: the fused cluster is bypassed (R14, R381). -/
def State.physCore (s : State) (core : Nat) : Nat :=
  let st := core % 48
  let f := s.fused.toList.getD (core / 48) 12
  if st / 4 < f then st else st + 4
/-- The cluster of a core, numbered 13 q + c (R14). -/
def State.clusterOf (s : State) (core : Nat) : Nat := 13 * (core / 48) + s.physCore core / 4
/-- The cycle count of a core, `sr.cycles` (R6, R411). -/
def State.cyclesOf (s : State) (core : Nat) : W64 := BitVec.ofNat 64 (s.now - (s.coreAt core).cycles0)

/-- A free 32-bit value, counted by the step (R9, log 8). -/
def State.undef32 (s : State) (k : Nat) : W32 := Config.undef32 s.tick k
/-- A free 64-bit value. -/
def State.undef64 (s : State) (k : Nat) : W64 := Config.undef64 s.tick k
/-- A free byte. -/
def State.undefByte (s : State) (k : Nat) : Byte := Config.undefByte s.tick k

end Sys2Proof.Machine
end

