-- ==== Sys2Proof/Machine/Memory.lean ====
section
/-!
DEFINITION. Addresses, translation and the bytes behind them: spec/20_isolation_and_translation.md R401-R405,
spec/10_memory_spaces.md R224-R239, spec/09_fitted_regions.md R201-R206.
-/

namespace Sys2Proof.Machine

/-! ### Physical memory -/

/-- Whether a device physical address exists (R227): stack 0-11, offset below 96 GiB, nothing above bit 40. -/
def physExists (a : Nat) : Bool := decide (a / 2 ^ 37 < 12) && decide (a % 2 ^ 37 < 96 * 2 ^ 30)
/-- The quarter that is home to a device physical address (R227). -/
def homeOf (a : Nat) : Nat := a / 2 ^ 37 / 3
/-- The quarter that a Wormus port attaches to, which is home to the host lines that it carries (R12, R228). -/
def portQuarter (port : Nat) : Nat := port / 8
/-- The address of a byte of host memory: the fabric number of its endpoint and its address there. -/
def hostKey (id addr : Nat) : Nat := id * 2 ^ 52 + addr
/-- The line of a location (R225); a byte of a mapped block lies in its device line. -/
def Loc.line : Loc → LineKey
  | .dev a | .block _ _ a => (0, 0, a / 128)
  | .host p a => (1, p, a / 128)
  | .region r off => (2, r, off / 128)
  | .stash g off => (3, g, off / 128)
  | .opbuf g off => (4, g, off / 128)
  | .byte _ => (5, 0, 0)
/-- The location itself, a byte of a mapped block by its device address. -/
def Loc.home : Loc → Loc
  | .block _ _ a => .dev a
  | l => l
/-- The quarter that is home to a line of device, host or region memory (R228). -/
def State.lineHome (s : State) (k : LineKey) : Nat :=
  match k.1 with
  | 1 => portQuarter k.2.1
  | 2 => ((s.regions[k.2.1]?).map (·.home)).getD 0
  | _ => homeOf (128 * k.2.2)
/-- Whether a byte lies in a granule with an uncorrectable error (R433). -/
def State.isBad (s : State) (a : Nat) : Bool := s.bad.contains (a / 32)

/-! ### Page tables -/

/-- What an access needs in its leaf (R403). -/
inductive Need where
  | load | store | both | fetch
  deriving DecidableEq, Repr

/-- Why a translation failed: cause and kind (R403). -/
structure XFault where
  cause : Cause
  kind : Nat
  deriving DecidableEq, Repr

/-- The size of a table of a level in bytes (R401). -/
def tableSize (level : Nat) : Nat := if level = 3 ∨ level = 2 then 16384 else if level = 1 then 4096 else 256
/-- The index of an address at a level (R401). -/
def tableIndex (level va : Nat) : Nat :=
  match level with
  | 3 => va / 2 ^ 41 % 2048
  | 2 => va / 2 ^ 30 % 2048
  | 1 => va / 2 ^ 21 % 512
  | _ => va / 2 ^ 16 % 32
/-- The size of the page that a leaf of a level maps (R401). -/
def pageSize (level : Nat) : Nat :=
  match level with
  | 2 => 2 ^ 30
  | 1 => 2 ^ 21
  | _ => 2 ^ 16

/-- The address field of an entry (R402). -/
def entryAddr (e : W64) : Nat := field e 8 44 * 256

/-- Whether a valid entry of a level is malformed (R402). -/
def malformed (c : Ctx) (level : Nat) (e : W64) : Bool :=
  let a := entryAddr e
  field e 52 3 != 0 || field e 0 8 != 0
  || if e.getLsbD 62 then
      level == 0 || field e 60 2 != 0 || !(physExists a) || a % tableSize (level - 1) != 0
    else
      level == 3 || decide (2 ≤ field e 60 2)
      || if e.getLsbD 60 then decide (c.endpoints.length ≤ field e 8 8)
        else field e 8 8 != 0 || !(physExists a) || a % pageSize level != 0

/-- What a walk finds: a leaf with its level, or the fault (R403). `level` counts down to 0. -/
def walk (s : State) (c : Ctx) (va : Nat) : Nat → Nat → Except XFault (Nat × W64)
  | level, table =>
    let a := table + 8 * tableIndex level va
    if s.isBad a then .error ⟨.memoryError, 7⟩
    else
      let e : W64 := BitVec.ofNat 64 (cellsRead s.mem a 8)
      if !e.getLsbD 63 then
        if e.getLsbD 55 && level != 3 then .error ⟨.stackGrow, 2⟩ else .error ⟨.page, 1⟩
      else if malformed c level e then .error ⟨.page, 4⟩
      else if e.getLsbD 62 then
        match level with
        | 0 => .error ⟨.page, 4⟩
        | l + 1 => walk s c va l (entryAddr e)
      else .ok (level, e)

/-- The TLB entry of a core that covers an address (R405). -/
def State.tlbHit (s : State) (core ctx va : Nat) : Option Tlb :=
  s.tlb.find? fun t => t.core == core && t.ctx == ctx && decide (t.page ≤ va) && decide (va < t.page + t.size)

/-- The entry of a quarter's L2 TLB that covers an address (R405). -/
def State.tlb2Hit (s : State) (quarter ctx va : Nat) : Option Tlb :=
  s.tlb2.find? fun t => t.core == quarter && t.ctx == ctx && decide (t.page ≤ va) && decide (va < t.page + t.size)

/-- What the tables of a context hold for an address (R401-R403). -/
def State.walkEnd (s : State) (ctx va : Nat) : WalkEnd :=
  let c := s.ctxAt ctx
  match walk s c va 3 c.root with
  | .ok (level, e) => .leaf (pageSize level) e
  | .error f => .fault f.cause f.kind

/-- The walk in flight that a miss of a quarter joins (R405). -/
def State.walkOf (s : State) (quarter ctx va : Nat) : Option Walk :=
  s.walks.find? fun w => w.quarter == quarter && w.ctx == ctx && w.page == va / 65536

/-- The quarter whose L2 TLB and walkers serve an access: that of its core; an agent of no core, a copy engine, a home or the
scheduler, uses those of the first cluster of the context's partition (DEDUCED, log 14). -/
def State.tlbQuarter (s : State) (core : Option Nat) (ctx : Nat) : Nat :=
  match core with
  | some k => quarterOf k
  | none => (s.partNum (s.ctxAt ctx).part).clusters.headD 0 / 13

/-- The leaf that translates an address: an entry of the core's L1 TLB or of the quarter's L2 TLB when there is one, the
walk in flight that the miss joins, else a walk of its own (R405). -/
def State.leafOf (s : State) (core : Option Nat) (ctx va : Nat) : Except XFault (Nat × W64) :=
  let q := s.tlbQuarter core ctx
  match (core.bind fun k => s.tlbHit k ctx va).orElse fun _ => s.tlb2Hit q ctx va with
  | some t => .ok (t.size, t.leaf)
  | none =>
    match ((s.walkOf q ctx va).map (·.found)).getD (s.walkEnd ctx va) with
    | .leaf size e => .ok (size, e)
    | .fault c k => .error ⟨c, k⟩

/-- Whether a leaf gives the rights that an access needs at a level (R403). -/
def rightsOk (need : Need) (level : Nat) (e : W64) : Bool :=
  (!(e.getLsbD 56) || level != 0) &&
  match need with
  | .load => e.getLsbD 59
  | .store => e.getLsbD 58
  | .both => e.getLsbD 59 && e.getLsbD 58
  | .fetch => e.getLsbD 57

/-- The region of a context whose range holds an address (R198, R404). -/
def State.regionAt (s : State) (ctx va : Nat) : Option Nat :=
  s.regions.findIdx? fun r => r.live && r.ctx == ctx && decide (r.base ≤ va)
    && decide (va < r.base + r.imgSize + r.tabSize)
/-- A region by index. -/
def State.regionGet (s : State) (i : Nat) : Option Region := s.regions[i]?

/-- The location of a byte under a leaf: device frame, or host page on its endpoint's port (R402, R228). -/
def leafLoc (c : Ctx) (size : Nat) (e : W64) (va : Nat) : Loc :=
  if e.getLsbD 60 then
    let ep := (c.endpoints[field e 8 8]?).getD ⟨0, 0, [], false⟩
    .host ep.port (hostKey ep.id (field e 16 36 * 65536 + va % size))
  else .dev (entryAddr e + va % size)

/-- Translation of one byte (R224, R403, R404). Regions come before the page tables: the table area is kind 6, a byte
past the image is REGION-DOMAIN (R202); an atomic or a fetch in a region lacks its right (R206, kind 3: DEDUCED,
log 18). -/
def State.translate (s : State) (core : Option Nat) (ctx level : Nat) (need : Need) (va : W64) :
    Except XFault Loc :=
  if field va 52 12 ≠ 0 then .error ⟨.page, 5⟩
  else
    let a := va.toNat
    match s.regionAt ctx a with
    | some i =>
      let r := (s.regions[i]?).getD ⟨0, 0, [], .f32, 0, 0, 0, 0, ⟨[], [], []⟩, [], 0, 0, none, [], false⟩
      if r.base + r.imgSize ≤ a then .error ⟨.page, 6⟩
      else match need with
        | .both | .fetch => .error ⟨.page, 3⟩
        | _ => if r.base + r.bytes ≤ a then .error ⟨.regionDomain, 0⟩ else .ok (.region i (a - r.base))
    | none =>
      match s.leafOf core ctx a with
      | .error f => .error f
      | .ok (size, e) =>
        if !(rightsOk need level e) then .error ⟨.page, 3⟩
        else match leafLoc (s.ctxAt ctx) size e a with
          | .host p k => if s.lost.contains p then .error ⟨.page, 8⟩ else .ok (.host p k)
          | l => .ok l

/-- Translation of `n` bytes: one translation where they lie in one 64 KiB page, else byte by byte, the lowest
faulting byte first; an access that starts in an image and reaches past it is REGION-DOMAIN (R202). Two points that R198
and R202 leave open are DEDUCED (log 29): an access that starts in the image and runs into the table area is
REGION-DOMAIN, and one that starts in the table area PAGE; a plain access that starts below a region and runs past a
tiny image is REGION-DOMAIN. -/
def State.translateN (s : State) (core : Option Nat) (ctx level : Nat) (need : Need) (va : W64) (n : Nat) :
    Except XFault (List Loc) :=
  match s.translate core ctx level need va with
  | .error f => .error f
  | .ok l =>
    match l with
    | .dev a =>
      if va.toNat % 65536 + n ≤ 65536 then .ok ((List.range n).map fun i => .dev (a + i))
      else (List.range n).mapM fun i => s.translate core ctx level need (va + BitVec.ofNat 64 i)
    | .region i off =>
      if ((s.regions[i]?).map (·.bytes)).getD 0 < off + n then .error ⟨.regionDomain, 0⟩
      else .ok ((List.range n).map fun k => .region i (off + k))
    | _ => (List.range n).mapM fun i => s.translate core ctx level need (va + BitVec.ofNat 64 i)

/-! ### The stash space -/

/-- Where a byte of a workgroup's stash space lies (R230, R231, R234): scratch or spilled bytes in the workgroup,
mapped bytes in the 64 KiB range that the block is bound to, with the rights of the level that asks (R403); what is no
device memory any more has no right there (R206, R234). A block that does not exist raises PAGE (R277, kind 0). -/
def State.stashLoc (s : State) (g level off : Nat) (need : Need) : Except XFault Loc :=
  let wg := s.wgAt g
  let b := wg.blocks.toList.getD (off / 65536) 0
  if 2 ^ 21 ≤ off ∨ !(b.getLsbD 63) then .error ⟨.page, 0⟩
  else if b.getLsbD 62 then
    match s.translate (some wg.core) (s.launchOf wg).ctx level need
        (BitVec.ofNat 64 (field b 16 36 * 65536 + off % 65536)) with
    | .error f => .error f
    | .ok (.dev a) => .ok (.block g off a)
    | .ok _ => .error ⟨.page, 3⟩
  else .ok (.stash g off)

/-! ### Bytes -/

/-- Whether a range of addresses holds an address. -/
def inRange (base size a : Nat) : Bool := decide (base ≤ a) && decide (a < base + size)

/-- The stash bytes that a device address is bound to: workgroups with a mapped block over it (R234). -/
def State.blocksOver (s : State) (a : Nat) : List (Nat × Nat) :=
  (List.range s.wgs.length).flatMap fun g =>
    let wg := s.wgAt g
    if wg.st != .resident || wg.blocks.toList.all fun b => !(b.getLsbD 62) then []
    else (List.range 32).filterMap fun b =>
      let e := wg.blocks.toList.getD b 0
      if e.getLsbD 62 then
        match s.translate (some wg.core) (s.launchOf wg).ctx 1 .load (BitVec.ofNat 64 (field e 16 36 * 65536)) with
        | .ok (.dev x) => if inRange x 65536 a then some (g, 65536 * b + (a - x)) else none
        | _ => none
      else none

/-- The number under which a location has its free values: each location its own (R9, log 8). -/
def Loc.pos : Loc → Nat
  | .dev a => 4 * a
  | .host _ a => 4 * a + 1
  | .stash g off | .block g off _ => 4 * (2 ^ 21 * g + off) + 2
  | .opbuf g off => 4 * (2 ^ 21 * g + off) + 3
  | .region _ off => 4 * off
  | .byte _ => 0

/-- Whether an uncorrectable error stands in the table area of a region, which an evaluation of its lines reads (R433); the
whole of the area counts (DEDUCED, log 14). -/
def State.badRegion (s : State) (i : Nat) : Bool :=
  !(s.bad.isEmpty) && match s.regions[i]? with
    | none => false
    | some r => (List.range ((r.tabSize + 65535) / 65536)).any fun k =>
      match s.leafOf none r.ctx (r.base + r.imgSize + 65536 * k) with
      | .ok (size, e) => let x := entryAddr e + (r.base + r.imgSize + 65536 * k) % size
        s.bad.any fun g => decide (x ≤ 32 * g) && decide (32 * g < x + 65536)
      | .error _ => false

/-- Whether reading a byte consumes an uncorrectable error (R433): a byte of a region where its home must evaluate the line. -/
def State.badLoc (s : State) : Loc → Bool
  | .dev a | .block _ _ a => s.isBad a
  | .region i off => s.badRegion i && !((s.regions[i]?).any fun r => r.cached.contains (off / 128))
  | .stash g off => s.badCells.contains (1, g, off / 32)
  | .opbuf g off => s.badCells.contains (0, g, off / 32)
  | _ => false

/-- The bytes that a copy writes at each destination, where its conversion keeps, halves or doubles them (R291). -/
def Copy.dstLen (c : Copy) : Nat :=
  match c.conv with
  | 1 | 2 => c.len / 2
  | 3 | 4 => c.len * 2
  | _ => c.len

/-- Whether a byte of a workgroup's stash or operand buffer is being written by a copy of that workgroup whose
completion nobody of it has observed (R280, R291, R294). -/
def State.unobserved (s : State) (space g off : Nat) : Bool :=
  s.copies.any fun c => !c.observed && c.wg == g && (
    (c.dsts.any fun d => d.space == space && d.wg == g && decide (d.addr ≤ off) && decide (off < d.addr + c.dstLen))
    || match c.coll with
      | some k => space == 1 && decide (k.res ≤ off) && decide (off < k.res + c.len)
      | none => false)

/-- Whether a byte of a workgroup's stash lies in the residual array of a CPY.COLL whose completion nobody has observed. -/
def State.residualAt (s : State) (g off : Nat) : Bool :=
  s.copies.any fun c => !c.observed && c.wg == g && c.coll.any fun k =>
    decide (k.res ≤ off) && decide (off < k.res + c.len)

/-- The device ranges that the mapped blocks of a range of a workgroup's stash are bound to (R231, R234). -/
def State.boundRange (s : State) (g lo n : Nat) : List (Nat × Nat) :=
  let wg := s.wgAt g
  (List.range 32).filterMap fun b =>
    let e := wg.blocks.toList.getD b 0
    let a := max lo (65536 * b)
    let z := min (lo + n) (65536 * b + 65536)
    if e.getLsbD 62 && decide (a < z) then
      match s.translate (some wg.core) (s.launchOf wg).ctx 1 .load (BitVec.ofNat 64 (field e 16 36 * 65536)) with
      | .ok (.dev x) => some (x + (a - 65536 * b), z - a)
      | _ => none
    else none

/-- The device ranges bound to what a copy writes in its own workgroup's stash, as the blocks stand now, added to it. -/
def Copy.noteBound (s : State) (c : Copy) : Copy :=
  let own := c.dsts.filter fun d => d.space == 1 && d.wg == c.wg
  { c with
    bound := (c.bound ++ own.flatMap fun d => s.boundRange c.wg d.addr c.dstLen).eraseDups
    resBound := match c.coll with
      | some k => (c.resBound ++ s.boundRange c.wg k.res c.len).eraseDups
      | none => c.resBound }

/-- Whether what another party writes at a location is undefined: it lies in the residual array of a CPY.COLL whose completion
nobody has observed (R294), also by way of the range that a block is bound to (R234). -/
def State.residual (s : State) : Loc → Bool
  | .stash g off | .block g off _ => s.residualAt g off
  | .dev a => s.copies.any fun c => !c.observed && c.resBound.any fun r => inRange r.1 r.2 a
  | _ => false

/-- Whether a device byte is one that a copy writes into a mapped block with its completion unobserved: the block serves the
range that it is bound to (R234, R291). -/
def State.unobservedDev (s : State) (a : Nat) : Bool :=
  s.copies.any fun c => !c.observed && (c.bound ++ c.resBound).any fun r => inRange r.1 r.2 a

/-- The byte that stands at a location. -/
def State.rawByte (s : State) : Loc → Byte
  | .dev a | .block _ _ a => cellRead s.mem a
  | .host _ k => cellRead s.host k
  | .region i off => match s.regions[i]? with
    | some r => r.byteAt off
    | none => 0
  | .stash g off => cellRead (s.wgAt g).stash off
  | .opbuf g off => cellRead (s.wgAt g).opbuf off
  | .byte b => b

/-- The byte at a location as a reader finds it: one that an unobserved copy writes is undefined (R9, R291). -/
def State.getByte (s : State) (l : Loc) : Byte :=
  match l with
  | .stash g off | .block g off _ => if s.unobserved 1 g off then s.undefByte l.pos else s.rawByte l
  | .opbuf g off => if s.unobserved 3 g off then s.undefByte l.pos else s.rawByte l
  | .dev a => if s.unobservedDev a then s.undefByte l.pos else s.rawByte l
  | _ => s.rawByte l

/-- What a byte becomes that is written at a location: one in a residual array in use is undefined (R9, R294). -/
def State.outByte (s : State) (l : Loc) (b : Byte) : Byte := if s.residual l then s.undefByte l.pos else b

/-- A byte stored at a location. A stored byte of a granule is not itself a whole granule: errors are cleared by
`clearBad`. -/
def State.putByte (s : State) (l : Loc) (b : Byte) : State :=
  match l with
  | .dev a | .block _ _ a => { s with mem := cellWrite s.mem a b }
  | .host _ k => { s with host := cellWrite s.host k b }
  | .region i off =>
    { s with regions := match s.regions[i]? with
        | some r => s.regions.set i (r.storeByte off b)
        | none => s.regions }
  | .stash g off => s.setWgAt g { s.wgAt g with stash := cellWrite (s.wgAt g).stash off b }
  | .opbuf g off => s.setWgAt g { s.wgAt g with opbuf := cellWrite (s.wgAt g).opbuf off b }
  | .byte _ => s

/-- The value at locations, lowest byte first. -/
def State.getLocs (s : State) (ls : List Loc) : W64 := BitVec.ofNat 64 (leValue (ls.map s.getByte))

/-- Bytes stored at locations, in order. -/
def State.putLocs : State → List Loc → List Byte → State
  | s, l :: ls, b :: bs => State.putLocs (s.putByte l b) ls bs
  | s, _, _ => s

/-- A store that covers a whole 32-byte granule clears its error (R433). -/
def State.clearBad (s : State) (ls : List Loc) : State :=
  { s with
    bad := s.bad.filter fun g => !((List.range 32).all fun i => (ls.map Loc.home).contains (.dev (32 * g + i)))
    badCells := s.badCells.filter fun c => !((List.range 32).all fun i =>
      ls.contains (if c.1 = 1 then .stash c.2.1 (32 * c.2.2 + i) else .opbuf c.2.1 (32 * c.2.2 + i))) }

/-- A 64-bit word among bytes. -/
def wordAt (bs : List Byte) (i : Nat) : W64 := BitVec.ofNat 64 (leValue ((bs.drop (8 * i)).take 8))

end Sys2Proof.Machine
end

