-- ==== Sys2Proof/Machine/Caches.lean ====
section
/-!
DEFINITION. Who holds and who sees a line: TLBs (spec/20 R405), page classes and directories, the lines that cores and
mapped blocks hold (spec/10 R229, R234-R236), and the stores that some parties do not see yet (spec/11 R246-R248).
-/

namespace Sys2Proof.Machine

/-! ### TLBs (R405) -/

/-- The device frame of a TLB entry, if its leaf maps one. -/
def Tlb.frame (t : Tlb) : Option (Nat × Nat) :=
  if t.leaf.getLsbD 60 then none else some (entryAddr t.leaf, t.size)

/-- The record of the page of device memory that holds an address (R235). -/
def State.pageRec (s : State) (a : Nat) : Option PageRec := s.pages.find? fun p => inRange p.base p.size a

/-- A translation that is in use noted with its frame (R235). -/
def State.noteUse (s : State) (u : PageUse) : State := if s.uses.contains u then s else { s with uses := u :: s.uses }

/-- The translation of an address entered in the L1 TLB of a core and in the L2 TLB of its quarter, and noted as in use;
entries with V = 0 are never cached (R405). Regions come before the tables (R404). -/
def State.fillTlb (s : State) (core ctx : Nat) (va : W64) : State :=
  if field va 52 12 ≠ 0 || (s.regionAt ctx va.toNat).isSome || (s.tlbHit core ctx va.toNat).isSome then s
  else match s.leafOf (some core) ctx va.toNat with
    | .error _ => s
    | .ok (size, e) =>
      let own := !(e.getLsbD 60) && ((s.pageRec (entryAddr e)).map (·.cls)) == some (.priv core)
      let t : Tlb := ⟨core, ctx, va.toNat / size * size, size, e, own⟩
      let s1 : State := { s with
        tlb := t :: s.tlb
        tlb2 := if (s.tlb2Hit (quarterOf core) ctx va.toNat).isSome then s.tlb2
          else { t with core := quarterOf core, priv := false } :: s.tlb2 }
      if e.getLsbD 60 then s1 else s1.noteUse ⟨ctx, va.toNat / size * size, entryAddr e, size⟩

/-- Whether the frame of a translation in use holds a device address. -/
def PageUse.holds (u : PageUse) (a : Nat) : Bool := inRange u.base u.size a

/-- The page of device memory that holds an address, as some context maps it: frame and size (R235, R401). -/
def State.frameOf (s : State) (a : Nat) : Option (Nat × Nat) := (s.uses.find? (·.holds a)).map fun u => (u.base, u.size)

/-! ### Lines (R229, R234, R236) -/

/-- Whether a line lies in a range of device memory. -/
def lineIn (base size : Nat) (k : LineKey) : Bool := k.1 == 0 && inRange base size (128 * k.2.2)

/-- The address of a byte of a mapped block in its context's memory (R231). -/
def State.blockVa (s : State) (g off : Nat) : W64 :=
  BitVec.ofNat 64 (field ((s.wgAt g).blocks.toList.getD (off / 65536) 0) 16 36 * 65536 + off % 65536)

/-- The device range that a mapped block of a workgroup is bound to (R234). -/
def State.blockBase (s : State) (g b : Nat) : Option Nat :=
  let wg := s.wgAt g
  if (wg.blocks.toList.getD b 0).getLsbD 62 then
    match s.translate (some wg.core) (s.launchOf wg).ctx 1 .load (s.blockVa g (65536 * b)) with
    | .ok (.dev x) => some x
    | _ => none
  else none

/-- The mapped block of a core that holds a line, where its L1 then does not (R234). -/
def State.holder (s : State) (core : Nat) (k : LineKey) : Option (Nat × Nat) :=
  if k.1 ≠ 0 then none
  else ((s.blocksOver (128 * k.2.2)).find? fun h => (s.wgAt h.1).core == core).map fun h => (h.1, h.2 / 65536)

/-- Whether a core holds a line in a mapped block that is bound to its range as this block is: of two blocks of a core over one
range, both serve its lines (R234). -/
def State.inBlock (s : State) (g b : Nat) (c : CLine) : Bool :=
  c.core == (s.wgAt g).core && c.block.isSome && (s.blockBase g b).any fun x => lineIn x 65536 c.line

/-- The directory line of a home; a line enters with version 0 (R236). -/
def State.dirLine (s : State) (k : LineKey) : DirLine := (s.dir.find? fun d => d.line == k).getD ⟨k, 0, none, []⟩
/-- A directory line replaced. -/
def State.setDir (s : State) (d : DirLine) : State := { s with dir := d :: s.dir.filter fun e => e.line != d.line }

/-- What a core holds of a line. -/
def State.lineOf (s : State) (core : Nat) (k : LineKey) : Option CLine := s.cached.find? fun c => c.core == core && c.line == k

/-- Whether the directory accounts for a holder of a line in a quarter (R229). -/
def State.accounted (s : State) (q : Nat) (k : LineKey) : Bool :=
  s.dir.any fun d => d.line == k && (d.owner.any (fun o => quarterOf o == q) || d.sharers.any fun c => quarterOf c == q)

/-- A quarter's L2 keeps a line of another home only while the directory accounts for it (R229). -/
def State.trimL2 (s : State) (gone : LineKey → Bool) : State :=
  { s with l2 := s.l2.filter fun x => !(gone x.2) || s.accounted x.1 x.2 }

/-- Lines that a core holds given back: dirty ones are written back, the core is no longer an owner or a sharer, and a quarter's
L2 keeps no line that the directory accounts for no longer (R229). -/
def State.giveBack (s : State) (mine : CLine → Bool) : State :=
  let gone := s.cached.filter mine
  if gone.isEmpty then s
  else
    let s1 := gone.foldl (fun s c =>
      match s.dir.find? fun d => d.line == c.line with
      | some d => s.setDir { d with
          owner := if d.owner == some c.core then none else d.owner
          sharers := d.sharers.filter fun k => k != c.core }
      | none => s) { s with cached := s.cached.filter fun c => !(mine c) }
    s1.trimL2 fun k => gone.any fun c => c.line == k

/-- The L1 of a core has 2,048 lines and the L2 of a quarter 786,432 (R14, R16): the one that has been there longest gives way
(DESIGN CHOICE, log 14). -/
def State.trimCaches (s : State) (core : Nat) : State :=
  let mine := s.cached.filter fun c => c.core == core && c.block.isNone
  let s1 := if mine.length ≤ 2048 then s else match mine.getLast? with
    | some c => s.giveBack fun x => x == c
    | none => s
  let far := s1.l2.filter fun x => x.1 == quarterOf core
  if far.length ≤ 786432 then s1 else match far.getLast? with
    | some x => { s1 with l2 := s1.l2.erase x }
    | none => s1

/-- A core holds a line, in its L1 or in a mapped block of it; a quarter that is not its home caches it in its L2 under
the home's directory (R229, R234). -/
def State.hold (s : State) (core : Nat) (k : LineKey) (excl dirty : Bool) : State :=
  let q := quarterOf core
  let others := s.cached.filter fun c => !(c.core == core && c.line == k)
  State.trimCaches { s with
    cached := ⟨core, k, s.holder core k, excl, dirty⟩ :: others
    l2 := if s.lineHome k == q || s.l2.contains (q, k) then s.l2 else (q, k) :: s.l2 } core

/-- A shared grant of the home (R236): an owner's copy is recalled, written back and shared; the version stays. -/
def State.readGrant (s : State) (core : Nat) (k : LineKey) : State :=
  let d := s.dirLine k
  let was := (d.owner.map fun o => [o]).getD []
  ({ s with cached := s.cached.map fun (c : CLine) => if c.line == k then { c with excl := false, dirty := false } else c }).setDir
    { d with owner := none, sharers := (core :: was ++ d.sharers).eraseDups }

/-- An exclusive grant of the home (R236): every other copy is recalled or invalidated, and the version goes up by 1. -/
def State.ownGrant (s : State) (core : Nat) (k : LineKey) : State :=
  let d := s.dirLine k
  ({ s with
      cached := s.cached.filter fun c => c.line != k || c.core == core
      l2 := s.l2.filter fun x => x.2 != k || x.1 == quarterOf core }).setDir
    { d with version := d.version + 1, owner := some core, sharers := [] }

/-- Every copy of a line recalled to its home or invalidated; nobody owns it, and the version stays (R236, R240). -/
def State.recallLine (s : State) (k : LineKey) : State :=
  let s1 : State := { s with
    cached := s.cached.filter fun c => c.line != k
    l2 := s.l2.filter fun x => x.2 != k }
  if s.dir.any fun d => d.line == k then s1.setDir { s.dirLine k with owner := none, sharers := [] } else s1

/-- Every cached copy of a line of a region invalidated: nobody holds one (R211, R219). -/
def State.recallRegion (s : State) (i : Nat) : State :=
  let mine : LineKey → Bool := fun k => k.1 == 2 && k.2.1 == i
  { s with
    cached := s.cached.filter fun c => !(mine c.line)
    l2 := s.l2.filter fun x => !(mine x.2)
    dir := s.dir.map fun d => if mine d.line then { d with owner := none, sharers := [] } else d }

/-- A dirty copy of a line written back and kept as shared: what a read that holds no copy itself makes of it. -/
def State.cleanLine (s : State) (k : LineKey) : State :=
  let s1 : State := { s with cached := s.cached.map fun c =>
    if c.line == k then { c with excl := false, dirty := false } else c }
  match s.dir.find? fun d => d.line == k with
  | some d => s1.setDir { d with owner := none, sharers := (((d.owner.map fun o => [o]).getD []) ++ d.sharers).eraseDups }
  | none => s1

/-! ### Page classes (R235) -/

/-- A page record replaced. -/
def State.setPage (s : State) (p : PageRec) : State := { s with pages := p :: s.pages.filter fun q => q.base != p.base }

/-- A private page becomes shared (R235): the private bits of its core are cleared, that core's dirty lines of the page
are written back, and its copies enter the directory, as shared ones (DEDUCED, log 14). -/
def State.sharePage (s : State) (p : PageRec) (c : Nat) : State :=
  let mine := s.cached.filter fun x => x.core == c && lineIn p.base p.size x.line
  { s with
    tlb := s.tlb.map fun t => if t.core == c && t.frame.any (fun f => inRange f.1 f.2 p.base) then { t with priv := false } else t
    cached := s.cached.map fun x =>
      if x.core == c && lineIn p.base p.size x.line then { x with excl := false, dirty := false } else x
    dir := (mine.map fun x => ⟨x.line, 0, none, [c]⟩) ++ s.dir.filter fun d => !(mine.any fun x => x.line == d.line)
    pages := { p with cls := .shared } :: s.pages.filter fun q => q.base != p.base }

/-- A miss of a core reaches the home, which classifies or reclassifies the page (R235). -/
def State.classify (s : State) (core a : Nat) : State :=
  match s.pageRec a with
  | none => match s.frameOf a with
    | none => s
    | some f =>
      let own := quarterOf core == homeOf a
      let s1 := s.setPage ⟨f.1, f.2, if own then .priv core else .shared⟩
      if own then { s1 with tlb := s1.tlb.map fun t =>
        if t.core == core && t.frame.any (fun x => inRange x.1 x.2 a) then { t with priv := true } else t } else s1
  | some p => match p.cls with
    | .priv c => if c == core then s else s.sharePage p c
    | .shared => s

/-- A private page that an agent without a core's L1 reaches, a copy engine, a home or a host, is shared first: its
core's dirty lines come home (DEDUCED, log 14). -/
def State.unprivate (s : State) (a : Nat) : State :=
  match s.pageRec a with
  | some p => match p.cls with
    | .priv c => s.sharePage p c
    | .shared => s
  | none => s

/-- A line missed by a core: private pages are served without the directory, shared ones by a grant (R235, R236). -/
def State.missLine (s : State) (core a : Nat) (write : Bool) : State :=
  let k : LineKey := (0, 0, a / 128)
  let s1 := s.classify core a
  match (s1.pageRec a).map PageRec.cls with
  | some (.priv _) => s1.hold core k true write
  | _ => if write then (s1.ownGrant core k).hold core k true true else (s1.readGrant core k).hold core k false false

/-- An access of a core to a line of device memory: it hits a copy that gives the right, or misses (R229, R235). -/
def State.touchDev (s : State) (core a : Nat) (write : Bool) : State :=
  match s.lineOf core (0, 0, a / 128) with
  | some c =>
    if !write || (c.excl && c.dirty) then s
    else if c.excl then { s with cached := s.cached.map fun x => if x == c then { x with dirty := true } else x }
    else s.missLine core a true
  | none => s.missLine core a write

/-- Whether the home of a line of host memory holds it under a coherence lease (R243): one that an atomic has been
granted and has not used yet. -/
def State.leased (s : State) (k : LineKey) : Bool := s.welts.any fun w => match w.wait with
  | .lease _ ls answers _ => (ls.zip answers).contains (k, true)
  | _ => false

/-- A welt's leases are released, and no core holds a line under them any more (R228, R243). -/
def State.endLease (s : State) (w : Nat) : State :=
  match (s.weltAt w).wait with
  | .lease _ ls _ _ => ls.foldl State.recallLine (s.setWeltAt w { s.weltAt w with wait := .none })
  | _ => s

/-- An access of a core to a line of host memory: cached only while its home holds it under a lease, else read and
written through (R228). -/
def State.touchHost (s : State) (core : Nat) (k : LineKey) (write : Bool) : State :=
  if s.leased k then
    if write then (s.ownGrant core k).hold core k true true else (s.readGrant core k).hold core k false false
  else s.recallLine k

/-- An access of a core to a line of a region: a read is cached under the region's home, a store invalidates every cached
copy (R201, R204). -/
def State.touchRegion (s : State) (core : Nat) (k : LineKey) (write : Bool) : State :=
  if write then s.recallLine k else (s.readGrant core k).hold core k false false

/-- The translations of the bytes of mapped blocks among some locations, as their core has them (R231, R405). -/
def State.fillBlocks (s : State) (ls : List Loc) : State :=
  ((ls.filterMap fun l => match l with
    | .block g off _ => some (g, off / 65536)
    | _ => none).eraseDups).foldl (fun s b =>
      s.fillTlb (s.wgAt b.1).core (s.launchOf (s.wgAt b.1)).ctx (s.blockVa b.1 (65536 * b.2))) s

/-- What an access of a core records at the homes, line by line (R226, R235, R236). -/
def State.touchLocs (s : State) (core : Nat) (write : Bool) (ls : List Loc) : State :=
  ((ls.map Loc.line).eraseDups).foldl (fun s k => match k.1 with
    | 0 => s.touchDev core (128 * k.2.2) write
    | 1 => s.touchHost core k write
    | 2 => s.touchRegion core k write
    | _ => s) (s.fillBlocks ls)

/-- What an access of an agent without an L1 of a core records (R236, R240): a read cleans an owner's copy, a write
recalls every copy. -/
def State.homeTouch (s : State) (write : Bool) (ls : List Loc) : State :=
  ((ls.map Loc.line).eraseDups).foldl (fun s k => match k.1 with
    | 0 =>
      let s1 := s.unprivate (128 * k.2.2)
      if write then s1.recallLine k else s1.cleanLine k
    | 1 | 2 => if write then s.recallLine k else s
    | _ => s) s

/-- Whether a core holds the line of a device address exclusively: a page private to it, a line it owns in its L1, or a
line of its mapped block (R240). -/
def State.exclusive (s : State) (core a : Nat) : Bool :=
  ((s.pageRec a).map (·.cls)) == some (.priv core)
  || s.cached.any fun c => c.core == core && c.line == (0, 0, a / 128) && c.excl

/-- The dirty lines of a mapped block written back, and kept (R279). -/
def State.flushBlock (s : State) (g b : Nat) : State :=
  { s with cached := s.cached.map fun c => if s.inBlock g b c then { c with dirty := false } else c }

/-- The lines that a mapped block holds written back and given back (R234, R279). -/
def State.dropBlock (s : State) (g b : Nat) : State := (s.flushBlock g b).giveBack fun c => c.block == some (g, b)

/-- The lines of a mapped block's range that its core holds in its L1 given back: the block holds them from then on
(R234). -/
def State.leaveL1 (s : State) (g b : Nat) : State :=
  match s.blockBase g b with
  | some x => s.giveBack fun c => c.core == (s.wgAt g).core && c.block.isNone && lineIn x 65536 c.line
  | none => s

/-- The pages of a range of a context become unclassified (R235, R400, R406): their cached lines are written back and
dropped, and their records and directory lines go. -/
def State.unclassify (s : State) (ctx lo size : Nat) : State :=
  let hit : PageUse → Bool := fun u => u.ctx == ctx && decide (u.page < lo + size) && decide (lo < u.page + u.size)
  let frames := (s.uses.filter hit).map fun u => (u.base, u.size)
  let inside : LineKey → Bool := fun k => frames.any fun f => lineIn f.1 f.2 k
  { s with
    uses := s.uses.filter fun u => !(hit u)
    pages := s.pages.filter fun p => !(frames.any fun f => decide (f.1 < p.base + p.size) && decide (p.base < f.1 + f.2))
    cached := s.cached.filter fun c => !(inside c.line)
    l2 := s.l2.filter fun x => !(inside x.2)
    dir := s.dir.filter fun d => !(inside d.line) }

/-! ### What a party sees (R246-R248) -/

/-- The core that a welt's workgroup is on. -/
def State.coreOfWelt (s : State) (w : Nat) : Nat := (s.wgAt (s.weltAt w).wg).core

/-- The unit of a scope around some lanes of a welt, where it is now (R247). -/
def State.unitOf (s : State) (level : Nat) (r : Reader) : Unit_ :=
  ⟨level, r.welt, r.lanes, (s.weltAt r.welt).wg, s.coreOfWelt r.welt⟩

/-- Whether a reader belongs to a unit (R247). -/
def State.within (s : State) (r : Reader) (u : Unit_) : Bool :=
  let c := s.coreOfWelt r.welt
  (u.welt == r.welt && (u.lanes &&& r.lanes != 0 || decide (1 ≤ u.level)))
  || (decide (2 ≤ u.level) && u.wg == (s.weltAt r.welt).wg)
  || (decide (3 ≤ u.level) && u.core == c)
  || (decide (4 ≤ u.level) && u.core / 4 == c / 4)
  || (decide (5 ≤ u.level) && quarterOf u.core == quarterOf c)
  || decide (6 ≤ u.level)

/-- The units in which a store is visible: that of the lanes that made it, and those of others' fences (R247, R248). -/
def Veil.units (v : Veil) : List Unit_ := ⟨v.level, v.welt, v.lanes, v.wg, v.core⟩ :: v.more

/-- Whether a reader sees a store: it lies within a unit in which the store is visible (R247). -/
def State.sees (s : State) (r : Reader) (v : Veil) : Bool := v.units.any (s.within r)

/-- What a byte reads as for a party: what the newest store that it sees left, and the number of that store with those
ordered before it. -/
def State.viewBy (s : State) (see : Veil → Bool) (l : Loc) : Byte × List Nat :=
  let r := s.veils.foldl (fun (acc : Option Byte × List Nat) v =>
    match v.bytes.find? fun b => b.1 == l.home with
    | none => acc
    | some b => if see v then (none, v.num :: v.deps) else (acc.1.orElse fun _ => some b.2, acc.2)) (none, [])
  (r.1.getD (s.getByte l), r.2)

/-- A byte as a home or the scheduler reads it: a party of the device and of no smaller scope (R247). -/
def State.homeByte (s : State) (l : Loc) : Byte :=
  if s.veils.isEmpty then s.getByte l else (s.viewBy (fun v => decide (6 ≤ v.level)) l).1

/-- Whether a welt touches a stash byte while another welt of its workgroup changes that block: what it reads or writes
there is undefined (R280). -/
def State.racing (s : State) (w : Nat) : Loc → Bool
  | .stash g off | .block g off _ => (s.wgAt g).rebinding.any fun b => !b.done && b.block == off / 65536 && b.welt != w
  | _ => false

/-- A byte as a party reads it. -/
def State.seenByte (s : State) (r : Reader) (l : Loc) : Byte :=
  if s.racing r.welt l then s.undefByte l.pos else if s.veils.isEmpty then s.getByte l else (s.viewBy (s.sees r) l).1

/-- The value at locations as a party reads it, lowest byte first. -/
def State.seenLocs (s : State) (r : Reader) (ls : List Loc) : W64 := BitVec.ofNat 64 (leValue (ls.map (s.seenByte r)))

/-- The stores that a load of a party observes (R248). -/
def State.observes (s : State) (r : Reader) (ls : List Loc) : List Nat :=
  if s.veils.isEmpty then [] else (ls.flatMap fun l => (s.viewBy (s.sees r) l).2).eraseDups

/-- The store that left the newest value of some bytes, with those ordered before it: what an atomic observes (R248). -/
def State.newest (s : State) (ls : List Loc) : List Nat :=
  if s.veils.isEmpty then [] else (ls.flatMap fun l => (s.viewBy (fun _ => true) l).2).eraseDups

/-- A welt notes stores that it has observed (R248). -/
def State.noteNums (s : State) (w : Nat) (ns : List Nat) : State :=
  if ns.isEmpty then s
  else
    let x := s.weltAt w
    s.setWeltAt w { x with observed := (ns ++ x.observed).eraseDups }

/-- The bytes of a location list that a store of a party may hide for a time: device, host and stash bytes; a region's
home shows a store at once. -/
def Loc.veiled : Loc → Bool
  | .dev _ | .block _ _ _ | .host _ _ | .stash _ _ => true
  | _ => false

/-- A store of a party takes its place in the coherence order of its bytes, visible within a scope: at first only the lanes
that made it see it (R246); in a deterministic launch its workgroup sees it at once, so that results repeat (00_scope; R323;
DEDUCED, log 20). -/
def State.addVeil (s : State) (r : Reader) (level : Nat) (ls : List Loc) : State :=
  let old := (ls.filter Loc.veiled).map fun l => (l.home, s.getByte l)
  if old.isEmpty then s
  else
    let w := s.weltAt r.welt
    { s with
      veils := s.veils ++ [⟨s.nextVeil, r.welt, r.lanes, w.wg, s.coreOfWelt r.welt,
        if (s.launchOf (s.wgAt w.wg)).det then max level 2 else level, [], old, w.cum⟩]
      nextVeil := s.nextVeil + 1 }

/-- The stores without those bytes: what they hid there is past for every party. -/
def stripVeils (at_ : List Loc) (vs : List Veil) : List Veil :=
  (vs.map fun (v : Veil) => { v with bytes := v.bytes.filter fun b => !(at_.contains b.1) }).filter fun v => !v.bytes.isEmpty

/-- Bytes whose latest value every party sees from here on: a home, an engine or a copy has written them (R240, R251). -/
def State.unveil (s : State) (ls : List Loc) : State :=
  if s.veils.isEmpty && s.messages.isEmpty then s
  else
    let at_ := ls.map Loc.home
    { s with veils := stripVeils at_ s.veils, messages := s.messages.filter fun m => !(at_.contains m.1) }

/-- A store goes on toward its home: it becomes visible within the next scope of R8; one that every party sees is done
once the stores that a cumulative fence ordered before it are, and hides older stores of its bytes for good (R246). -/
def State.reveal (s : State) (k : Nat) : State :=
  match s.veils[k]? with
  | none => s
  | some v =>
    if v.level < 7 then { s with veils := s.veils.set k { v with level := v.level + 1 } }
    else if v.deps.any fun n => s.veils.any fun x => x.num == n && decide (x.level < 7) then s
    else { s with veils := stripVeils (v.bytes.map (·.1)) (s.veils.take k) ++ s.veils.drop (k + 1) }

/-- A store made visible in a unit: where the unit is one of its own welt's or of the whole device, its scope widens. -/
def Veil.show (v : Veil) (u : Unit_) : Veil :=
  if 6 ≤ u.level || (1 ≤ u.level && v.welt == u.welt && v.wg == u.wg && v.core == u.core) then { v with level := max v.level u.level }
  else if v.more.contains u then v else { v with more := u :: v.more }

/-- Stores made visible in a unit (R247): what a fence that has waited for them says. -/
def State.exposeIn (s : State) (u : Unit_) (nums : List Nat) : State :=
  if nums.isEmpty then s else { s with veils := s.veils.map fun v => if nums.contains v.num then v.show u else v }

/-- Stores made visible within a scope of a party (R248). -/
def State.expose (s : State) (scope : Nat) (r : Reader) (nums : List Nat) : State := s.exposeIn (s.unitOf scope r) nums

/-- The stores whose values a load of a party returns. -/
def State.sources (s : State) (r : Reader) (ls : List Loc) : List Nat :=
  if s.veils.isEmpty then [] else (ls.filterMap fun l => (s.viewBy (s.sees r) l).2.head?).eraseDups

/-- A change of a block completes: its write-backs have reached their homes, and every party sees them (R280). -/
def State.endRebind (s : State) (g k : Nat) : State :=
  match (s.wgAt g).rebinding[k]? with
  | none => s
  | some b => (s.setWgAt g { s.wgAt g with rebinding := (s.wgAt g).rebinding.set k { b with done := true } }).expose 7
      ⟨b.welt, BitVec.allOnes 32⟩ b.stores

/-- A workgroup is about to leave its core: the core's stores are shown to the whole device (log 14), and what the workgroup
sees of other cores' stores by its place it goes on seeing (R246, R253). -/
def State.showCore (s : State) (g : Nat) : State :=
  let core := (s.wgAt g).core
  let r : Reader := ⟨(s.welts.findIdx? fun w => w.wg == g).getD 0, 0⟩
  { s with veils := s.veils.map fun v =>
      if v.core == core then { v with level := max v.level 6 }
      else if v.units.any (fun u => decide (3 ≤ u.level) && s.within r u) then v.show ⟨2, r.welt, 0, g, core⟩ else v }

/-- The stores of some lanes of a welt that some party may not see yet. -/
def State.veilsOf (s : State) (w : Nat) (lanes : Lanes) : List Nat :=
  (s.veils.filter fun v => v.welt == w && v.lanes &&& lanes != 0).map (·.num)

/-- The stores of a welt, and those that its loads have observed, that some party may not see yet (R248, R349). -/
def State.veilsBefore (s : State) (w : Nat) : List Nat :=
  s.veilsOf w (BitVec.allOnes 32) ++ (s.weltAt w).observed.filter fun n => s.veils.any fun v => v.num == n

/-! ### What a write means to matrix work (R180, R181) -/

/-- Whether a byte stands next after another, in one 64 KiB of its space. -/
def Loc.follows : Loc → Loc → Bool
  | .stash g a, .stash h b | .opbuf g a, .opbuf h b => g == h && b == a + 1
  | .dev a, .dev b | .block _ _ a, .block _ _ b => b == a + 1 && a / 65536 == b / 65536
  | _, _ => false

/-- Locations as runs of bytes that stand one after another: first byte and length. -/
def runsOf (ls : List Loc) : List (Loc × Nat) :=
  ls.foldr (fun l acc => match acc with
    | m :: t => if l.follows m.1 then (l, m.2 + 1) :: t else (l, 1) :: acc
    | [] => [(l, 1)]) []

/-- The runs of stash or operand-buffer bytes among some locations; device bytes count for every mapped block that is bound to
them (R234). -/
def State.spanOf (s : State) (ls : List Loc) : List Span :=
  (runsOf ls).flatMap fun x => match x.1 with
    | .stash g off => [⟨1, g, off, x.2⟩]
    | .opbuf g off => [⟨0, g, off, x.2⟩]
    | .dev a | .block _ _ a => (s.blocksOver a).map fun h => ⟨1, h.1, h.2, x.2⟩
    | _ => []

/-- Whether two spans share a byte. -/
def Span.meets (a b : Span) : Bool :=
  a.space == b.space && a.wg == b.wg && decide (a.lo < b.lo + b.len) && decide (b.lo < a.lo + a.len)

/-- The rows of a panel that a write meets, in their elements or in their scales. -/
def hitRows (panel writes : List Span) : List Nat :=
  ((List.range panel.length).filter fun i => match panel[i]? with
    | some p => writes.any p.meets
    | none => false).map (· % 32)

/-- The size of an element of an accumulator type (R166). -/
def accSize (t : Ty) : Nat := if t = .f64 then 8 else 4

/-- The elements of a tile whose row or column is in the lists become undefined (R180). -/
def State.spoil (s : State) (g tile : Nat) (t : Ty) (rows cols : List Nat) : State :=
  let z := accSize t
  let wg := s.wgAt g
  let cells := (List.range 1024).filter fun e => rows.contains (e / 32) || cols.contains (e % 32)
  let acc := cells.foldl (fun m e =>
    cellsWrite m (4096 * tile + z * e) (bytesLE (s.undef64 (1024 * tile + e)) z)) wg.acc
  s.setWgAt g { wg with acc := acc }

/-- A write reaches the welts that matrix steps may read it in: a step not yet run keeps it as its taint, a step that has run and
is outstanding loses the elements that read it (R180), and each welt of the gangs that it meets, and the one that wrote, needs an
operand-ready fence for it (R181). `by_` is the welt that wrote, or whose copy did; none for a synchronisation engine or a host. -/
def State.noteWrites (s : State) (by_ copy : Option Nat) (spans : List Span) : State :=
  if spans.isEmpty then s
  else
    let near : Welt → Bool := fun x => spans.any fun p =>
      let a := s.wgAt x.wg
      let b := s.wgAt p.wg
      a.launch == b.launch && a.gang == b.gang
    let s1 : State := { s with
      nextVeil := s.nextVeil + 1
      welts := s.welts.zipIdx.map fun e =>
        let x := e.1
        if x.ended || !(near x || by_ == some e.2) then x
        else { x with
          unfenced := spans.map (fun p => ⟨p, by_, copy, s.nextVeil, [], false⟩) ++ x.unfenced
          streams := x.streams.map fun st => { st with queue := st.queue.map fun o => match o with
            | .step t ha hb a0 b0 da db dt j count f l taint => .step t ha hb a0 b0 da db dt j count f l (spans ++ taint)
            | o => o } } }
    (List.range s1.welts.length).foldl (fun s i =>
      let x := s.weltAt i
      if x.ended then s
      else x.streams.toList.foldl (fun s st => st.out.foldl (fun s o =>
        let rows := hitRows o.aPanel spans
        let cols := hitRows o.bPanel spans
        if o.step && !(rows.isEmpty && cols.isEmpty) then s.spoil x.wg o.tile o.ty rows cols else s) s) s) s1

/-- The spans for which a welt still needs an operand-ready fence (R181). -/
def Welt.openSpans (w : Welt) : List Span := (w.unfenced.filter fun t => !t.ready).map (·.span)

/-! ### Who knows that a write is complete (R181, R250, R252) -/

/-- A piece of knowledge added, unless it says nothing new. -/
def addKnown (ks : List Known) (k : Known) : List Known :=
  if ks.any fun j => j.scope == k.scope && j.welt == k.welt && (j.passes || !k.passes) && (j.tells || !k.tells) then ks
  else k :: ks

/-- A welt comes to know more of the writes that its steps may read. -/
def State.learn (s : State) (w : Nat) (f : Taint → List Known) : State :=
  let x := s.weltAt w
  if x.unfenced.isEmpty then s
  else s.setWeltAt w { x with unfenced := x.unfenced.map fun t => { t with known := (f t).foldl addKnown t.known } }

/-- What a welt knows of a write at first hand: it is visible to the whole device. -/
def State.certain (s : State) (w : Nat) : Known := ⟨6, w, s.nextVeil, true, true⟩

/-- A welt learns of writes what others may pass on to it, each of them as it knew before the store of a number, and within the
scope of what it knew: by an event (R250), or by a message, which a fence must follow before the welt passes it on. -/
def State.hear (s : State) (w : Nat) (from_ : List (Nat × Nat)) (message : Bool) : State :=
  let r : Reader := ⟨w, BitVec.allOnes 32⟩
  s.learn w fun t => from_.flatMap fun z =>
    ((s.weltAt z.1).unfenced.filter fun u => u.num == t.num && u.span == t.span).flatMap fun u => u.known.filterMap fun k =>
      if (if message then k.tells else k.passes) && decide (k.since ≤ z.2)
          && s.within r (s.unitOf k.scope ⟨k.welt, BitVec.allOnes 32⟩)
      then some ⟨k.scope, k.welt, s.nextVeil, !message, !message⟩ else none

/-- A welt has seen copies complete, and writes of engines where `engine` says so (R250). -/
def State.hearCopies (s : State) (w : Nat) (mine : Nat → Bool) (engine : Bool) : State :=
  s.learn w fun t => if t.copy.any mine || (engine && t.by_.isNone) then [s.certain w] else []

/-- A fence of a welt has put its writes of the kinds in the predecessor mask, and after a cumulative one also those that its
loads have told it of, before what follows (R181, R248). -/
def State.hearFence (s : State) (w : Nat) (pm sm : BitVec 6) (scope : Nat) (cum : Bool) : State :=
  s.learn w fun t =>
    let own := t.by_ == some w && if t.copy.isSome then pm.getLsbD 2 else pm.getLsbD 4
    if own || (cum && pm.getLsbD 5 && !t.known.isEmpty) then
      [⟨if t.copy.isSome then 6 else scope, w, s.nextVeil, true, sm.getLsbD 4⟩] else []

/-- A signal of a welt on a phaser, or a release of a lock: what it knows by now it passes on (R250, R349). -/
def State.noteSignal (s : State) (w id : Nat) (phase : W32) : State :=
  let x := s.weltAt w
  if x.unfenced.isEmpty then s
  else
    let s1 := s.setWeltAt w
      { x with signalled := (id, phase, s.nextVeil) :: x.signalled.filter fun z => !(z.1 == id && z.2.1 == phase) }
    { s1 with nextVeil := s.nextVeil + 1 }

/-- The welts that have signalled a phaser in earlier phases than a given one. -/
def State.signallers (s : State) (id : Nat) (phase : W32) : List (Nat × Nat) :=
  (List.range s.welts.length).flatMap fun z =>
    (s.weltAt z).signalled.filterMap fun e => if e.1 == id && e.2.1 != phase then some (z, e.2.2) else none

/-- A store or atomic of a welt, with the number of its store: it is a message where the welt knows of writes that it may tell of
(R252). -/
def State.noteMessage (s : State) (w num : Nat) (ls : List Loc) : State :=
  let tells := (s.weltAt w).unfenced.any fun t => t.known.any (·.tells)
  if !tells && s.messages.isEmpty then s
  else
    let at_ := ls.map Loc.home
    let others := s.messages.filter fun m => !(at_.contains m.1)
    { s with
      messages := if tells then at_.map (fun l => (l, num, w)) ++ others else others
      nextVeil := max s.nextVeil (num + 1) }

/-- A load of a party has returned the bytes at some locations: it learns from the messages among them, and of the writes of
engines and hosts that it reads (R181, R252). -/
def State.hearLoad (s : State) (r : Reader) (ls : List Loc) : State :=
  if (s.weltAt r.welt).unfenced.isEmpty then s
  else
    let at_ := ls.map Loc.home
    let heard := s.messages.filter fun m => at_.contains m.1 && s.veils.all fun v => v.num != m.2.1 || s.sees r v
    let spans := s.spanOf ls
    (s.hear r.welt (heard.map fun m => (m.2.2, m.2.1)) true).learn r.welt fun t =>
      if t.by_.isNone && spans.any t.span.meets then [⟨6, r.welt, s.nextVeil, false, false⟩] else []

/-! ### Loads -/

/-- The home evaluates a line of a region's image, unless it holds it (R201). -/
def State.evalLine (s : State) (i line : Nat) : State :=
  match s.regions[i]? with
  | some r =>
    if r.live && !(r.cached.contains line) && decide (128 * line < r.bytes) then
      { s with regions := s.regions.set i { r with cached := line :: r.cached } }
    else s
  | none => s

/-- A load of a party has taken its value: it has observed stores (R248), and what they tell of (R181). -/
def State.noteSeen (s : State) (r : Reader) (ls : List Loc) : State :=
  (s.noteNums r.welt (s.observes r ls)).hearLoad r ls

/-- A uniform load has taken its value, which is then that of a load of every lane of it (R244, R246). -/
def State.noteSeenAll (s : State) (r : Reader) (ls : List Loc) : State := (s.expose 0 r (s.sources r ls)).noteSeen r ls

/-- What a read of locations records at the homes: the pages and lines take note of the core (R235, R236), and a region's line is
evaluated (R201). -/
def State.readLines (s : State) (core : Nat) (ls : List Loc) : State :=
  ((ls.map Loc.line).eraseDups).foldl (fun s k => if k.1 = 2 then s.evalLine k.2.1 k.2.2 else s) (s.touchLocs core false ls)

/-- A loaded value extended to 64 bits: signed types with the sign, others with zeros (R276). -/
def extendW (t : Ty) (x : W64) : W64 := if t.isSigned then BitVec.ofInt 64 (intOf t x) else BitVec.ofNat 64 (x.toNat % 2 ^ t.width)

end Sys2Proof.Machine
end

