-- ==== Sys2Proof/Machine/Engine.lean ====
section
/-!
DEFINITION. The synchronisation engines and what they carry out apart from a welt: atomic operations (R282, R240),
deterministic entries and commutative partials (R237-R243, R284), phasers (R327-R330), locks (R339-R349), the end of
welts and workgroups (R359, R310), reports (R434, R451) and completions (R444-R447).
-/

namespace Sys2Proof.Machine

/-! ### Reports and completions -/

/-- A flit: eight words, those that are not given 0. -/
def flit (ws : List W64) : List W64 := (List.range 8).map fun i => ws.getD i 0

/-- Words put into flits. -/
def flits : Nat → List W64 → List (List W64)
  | 0, _ => []
  | n + 1, ws => if ws.isEmpty then [] else flit ws :: flits n (ws.drop 8)

/-- A message on the management plane, one flit (R451). -/
def State.tellMgmt (s : State) (kind : Nat) (words : List W64) : State :=
  { s with mgmtOut := s.mgmtOut ++ [flit (BitVec.ofNat 64 (kind * 2 ^ 56) :: words)] }

/-- A report in a partition's report ring, an entry and its continuations, or the lost count when there is no room
(R434). The ring lies in device memory at its physical base; an entry covers whole granules and clears their errors (R433). -/
def State.report (s : State) (p : Part) (entries : List (List W64)) : State :=
  let rd (i : Nat) : Nat := cellsRead s.mem (p.ringBase + 8 * i) 8
  let wr (m : List Host.Cell) (i v : Nat) : List Host.Cell :=
    cellsWrite m (p.ringBase + 8 * i) (bytesLE (BitVec.ofNat 64 v) 8)
  let prod := rd 0
  if p.ringSize < prod - rd 1 + entries.length then { s with mem := wr s.mem 2 (rd 2 + 1) }
  else
    let slot (i : Nat) : Nat := p.ringBase + 64 + 64 * ((prod + i) % p.ringSize)
    let m := entries.zipIdx.foldl (fun m e =>
      cellsWrite m (slot e.2) ((List.range 8).flatMap fun i => bytesLE (e.1.getD i 0) 8)) s.mem
    ({ s with mem := wr m 0 (prod + entries.length) }).clearBad
      ((List.range entries.length).flatMap fun e => (List.range 64).map fun i => Loc.dev (slot e + i))

/-- The first words of a report entry (R434). -/
def reportHead (kind conts : Nat) (l : Launch) (ctx : Ctx) (logical : Nat) : List W64 :=
  [BitVec.ofNat 64 (kind * 2 ^ 56 + conts * 2 ^ 48 + l.seq), BitVec.ofNat 64 ctx.num.toNat, BitVec.ofNat 64 logical]

/-- A completion flit (R444). -/
def completionFlit (kind status num ctx cseq : Nat) (val join : W64) : List W64 :=
  [BitVec.ofNat 64 (kind * 2 ^ 56 + status * 2 ^ 48 + num), BitVec.ofNat 64 (ctx * 2 ^ 48 + cseq), val, join, 0, 0, 0, 0]

/-- A numbered completion of a context: held, none dropped, and sent unless the context waits for SYNC (R445, R446). -/
def State.complete (s : State) (c : Nat) (kind status cseq : Nat) (val join : W64) : State :=
  let x := s.ctxAt c
  let n := x.issued + 1
  let f := completionFlit kind status n x.num.toNat cseq val join
  let s := s.setCtxAt c { x with issued := n, held := x.held ++ [⟨n, f⟩] }
  if x.awaitSync then s else { s with sent := s.sent ++ [(x.control, f)] }

/-! ### Atomic operations -/

/-- The new value of an atomic operation and its conditions (R282): a float operation honours subnormals, rounds RNE
and raises nothing. -/
def atomNew (op : Nat) (ty : Ty) (old v cmp : W64) : W64 × FlagBits :=
  match op with
  | 0 =>
    if ty.isFloat then
      let r := finish ty false .rne (addExact .rne (decodeF ty old) (decodeF ty v))
      (encodeF ty r.1, r.2)
    else (wrapTo ty (intOf ty old + intOf ty v), 0)
  | 1 =>
    if ty.isFloat then
      let r := minMaxF false (decodeF ty old) (decodeF ty v)
      (encodeF ty r.1, r.2)
    else (if intOf ty old ≤ intOf ty v then old else v, 0)
  | 2 =>
    if ty.isFloat then
      let r := minMaxF true (decodeF ty old) (decodeF ty v)
      (encodeF ty r.1, r.2)
    else (if intOf ty v ≤ intOf ty old then old else v, 0)
  | 3 => (old &&& v, 0)
  | 4 => (old ||| v, 0)
  | 5 => (old ^^^ v, 0)
  | 6 => (v, 0)
  | 7 => (if (old.toNat % 2 ^ ty.width) = (cmp.toNat % 2 ^ ty.width) then v else old, 0)
  | _ => (if v.toNat % 2 ^ ty.width ≤ old.toNat % 2 ^ ty.width then 0 else old + 1, 0)

/-- The context's endpoint that a host location belongs to: its fabric number and the port that carries it (R228). -/
def hostEndpoint (c : Ctx) (port a : Nat) : Option Endpoint :=
  c.endpoints.find? fun e => e.port == port && e.id == a / 2 ^ 52

/-- How an atomic on a host page is carried out (R243). -/
inductive HostWay where
  | native | lease | none
  deriving DecidableEq, Repr

/-- The first means of R243 for an operation and width. -/
def hostWay (c : Ctx) (port a op bytes : Nat) : HostWay :=
  match hostEndpoint c port a with
  | none => .none
  | some e => if e.native.contains (op, bytes) then .native else if e.leases then .lease else .none

/-- The means for the first location of an operation; a device location needs none. -/
def AtomOp.way (c : Ctx) (o : AtomOp) : HostWay :=
  match o.locs.head? with
  | some (.host p k) => hostWay c p k o.op o.ty.bytes
  | _ => .native

/-- One atomic applied at its locations (R240): the old value, the conditions and the new state. It reads the newest
value of the coherence order, and every party sees what it writes. -/
def State.applyAtom (s : State) (o : AtomOp) : State × W64 × FlagBits :=
  let old := s.getLocs o.locs
  let r := atomNew o.op o.ty old o.val o.cmp
  let bs := (o.locs.zip (bytesLE r.1 o.ty.bytes)).map fun x => s.outByte x.1 x.2
  (((s.unveil o.locs).putLocs o.locs bs), old, r.2)

/-! ### Commutative partials -/

/-- The identity of a range's operation as a word (R238): +0.0, 0, the largest and the smallest INT32 value. -/
def crIdentity (op : Nat) : W32 :=
  match op with
  | 2 => 0x7FFFFFFF#32
  | 3 => 0x80000000#32
  | _ => 0

/-- A value added to an FP32 word with one RNE (R121, R238). -/
def crAddExact (y : FVal) (a : W32) : W32 :=
  (encodeF .f32 (finish .f32 false .rne (addExact .rne (decodeF .f32 (a.setWidth 64)) y)).1).setWidth 32

/-- One application of a range's operation (R238). -/
def crApply (op : Nat) (a b : W32) : W32 :=
  match op with
  | 0 => crAddExact (decodeF .f32 (b.setWidth 64)) a
  | 1 => a + b
  | 2 => if a.toInt ≤ b.toInt then a else b
  | _ => if b.toInt ≤ a.toInt then a else b

/-- The device line that a partial is combined at: that of its address in its context, as the tables then stand (R397,
R406), with the rights of its level (R403), or none where they map no writable device memory there any more (log 13). -/
def State.partialLine (s : State) (p : Partial_) : Option Nat :=
  match s.translate none (s.launchAt p.launch).ctx p.level .both (BitVec.ofNat 64 (128 * p.line)) with
  | .ok (.dev a) => some (a / 128)
  | _ => none

/-- The bytes of a device line. -/
def lineLocs (line : Nat) : List Loc := (List.range 128).map fun i => .dev (128 * line + i)

/-- One partial applied onto the home value of its line: each of its 32 words, the identity where nothing was added
(R238). Every copy of the line is recalled, and every party sees the result, which matrix work that reads the line must be told of
(R180, R181). The write covers the line, and clears its errors (R433). -/
def State.applyPartial (s : State) (op : Nat) (p : Partial_) : State :=
  match s.partialLine p with
  | none => s
  | some line =>
    let m := (List.range 32).foldl (fun m i =>
      let a := 128 * line + 4 * i
      let v := ((p.words.find? fun w => w.1 == i).map (·.2)).getD (crIdentity op)
      cellsWrite m a (bytesOfWord (crApply op (BitVec.ofNat 32 (cellsRead m a 4)) v))) s.mem
    let ls := lineLocs line
    let s1 := ((({ s with mem := m }).homeTouch true ls).unveil ls).clearBad ls
    s1.noteWrites none none (s1.spanOf ls)

/-- A list put in the order of a key, stable. -/
def insertKey {α : Type} (le : α → α → Bool) (x : α) : List α → List α
  | [] => [x]
  | y :: t => if le x y then x :: y :: t else y :: insertKey le x t
/-- A list sorted by insertion. -/
def sortKey {α : Type} (le : α → α → Bool) : List α → List α
  | [] => []
  | x :: t => insertKey le x (sortKey le t)

/-- The operation of a range by index. -/
def State.rangeOp (s : State) (r : Nat) : Nat := ((s.ranges[r]?).map (·.op)).getD 0

/-- The partials that satisfy a test, wherever they stand, applied in ascending logical-workgroup order and discarded
(R238). -/
def State.combine (s : State) (sel : Partial_ → Bool) : State :=
  let all := s.pooledPartials.filter sel ++ s.wgs.flatMap fun g => g.partials.filter sel
  if all.isEmpty then s
  else
    let s1 := (sortKey (fun a b => decide (a.wg ≤ b.wg)) all).foldl (fun s p => s.applyPartial (s.rangeOp p.range) p) s
    { s1 with
      pooledPartials := s1.pooledPartials.filter fun p => !(sel p)
      wgs := s1.wgs.map fun g => { g with partials := g.partials.filter fun p => !(sel p) } }

/-- Whether a partial was made outside deterministic launches (R239). -/
def State.looseLaunch (s : State) (p : Partial_) : Bool := !(s.launchAt p.launch).det

/-- Whether any workgroup or pool holds a partial. -/
def State.anyPartial (s : State) : Bool := !(s.pooledPartials.isEmpty) || s.wgs.any fun g => !(g.partials.isEmpty)

/-- Before an access by any means but CRADD is served, the partials of the lines it touches are combined, all that are
present (R238); those of deterministic launches are not (R239). -/
def State.settle (s : State) (ls : List Loc) : State :=
  if s.anyPartial then
    let lines := ls.filterMap fun l => match l.home with
      | .dev a => some (a / 128)
      | _ => none
    s.combine fun p => s.looseLaunch p && (s.partialLine p).any lines.contains
  else s

/-! ### Records in memory -/

/-- The locations of `n` bytes at an address, for records that the scheduler, a home or a supervisor reads or writes with
the rights of a level. The bytes of one 64 KiB page of device memory have one translation. -/
def State.vaLocs (s : State) (ctx level : Nat) (need : Need) (va n : Nat) : Except XFault (List Loc) :=
  let ok (l : Loc) : Except XFault Loc := if need = .load && s.badLoc l then .error ⟨.memoryError, 0⟩ else .ok l
  match s.translate none ctx level need (BitVec.ofNat 64 va), decide (va % 65536 + n ≤ 65536) with
  | .ok (.dev a), true => (List.range n).mapM fun i => ok (.dev (a + i))
  | _, _ => (List.range n).mapM fun i =>
    match s.translate none ctx level need (BitVec.ofNat 64 (va + i)) with
    | .error f => .error f
    | .ok l => ok l

/-- What a read of bytes at an address records: partials of its lines are combined, dirty copies come home (R236, R238). -/
def State.settleVA (s : State) (ctx level va n : Nat) : State :=
  match s.vaLocs ctx level .load va n with
  | .ok ls => (s.settle ls).homeTouch false ls
  | .error _ => s

/-- `n` bytes at a virtual address as a home sees them, or the fault. -/
def State.readVA (s : State) (ctx level : Nat) (va n : Nat) : Except XFault (List Byte) :=
  match s.vaLocs ctx level .load va n with
  | .ok ls => .ok (ls.map s.homeByte)
  | .error f => .error f

/-- Whether the new entries that a write makes fit every region that it touches (R205, R440). -/
def State.entriesFit (s : State) (ls : List Loc) : Bool :=
  (List.range s.regions.length).all fun i =>
    let offs := ls.filterMap fun l => match l with
      | .region r off => if r = i then some off else none
      | _ => none
    offs.isEmpty || match s.regions[i]? with
      | some r => decide (r.exc.length + r.newEntries offs ≤ r.cap)
      | none => true

/-- Bytes written at a virtual address, where every byte is writable and no region lacks room (R205); otherwise nothing is
written. -/
def State.writeVA (s : State) (ctx level : Nat) (va : Nat) (bs : List Byte) : Option State :=
  match s.vaLocs ctx level .store va bs.length with
  | .error _ => none
  | .ok ls =>
    if s.entriesFit ls then some (((((s.settle ls).homeTouch true ls).unveil ls).putLocs ls bs).clearBad ls) else none

/-! ### Deterministic entries -/

/-- The order of keys: logical workgroup, welt, lane, program order (R241). -/
def DetEntry.le (a b : DetEntry) : Bool :=
  if a.wg != b.wg then decide (a.wg < b.wg)
  else if a.welt != b.welt then decide (a.welt < b.welt)
  else if a.lane != b.lane then decide (a.lane < b.lane)
  else decide (a.order ≤ b.order)

/-- Conditions of work done apart ORed into the flags of the welt that issued it, if it still lives (R111, R284). -/
def State.orWelt (s : State) (launch wg welt : Nat) (f : FlagBits) : State :=
  { s with welts := s.welts.map fun w =>
      let g := s.wgAt w.wg
      if g.launch == launch && g.logical == wg && w.index == welt && !w.ended then
        { w with fpctl := orFlags w.fpctl f } else w }

/-- An entry that cannot be applied is discarded and reported (R338). -/
def State.reportEntry (s : State) (e : DetEntry) : State :=
  let l := s.launchAt e.launch
  let c := s.ctxAt l.ctx
  s.report (s.partNum c.part) [reportHead 3 0 l c e.wg ++
    [BitVec.ofNat 64 e.addr, BitVec.ofNat 64 (e.lane * 2 ^ 8 + e.welt)]]

/-- One entry applied (R242) at the location its address has now (R397, R406): on a host page by the first means of R243,
and where none applies, a lease is refused or not granted in time (an outside answer: a free value, log 16), or the
address is no longer mapped with the rights of the welt's level (R403, log 13), discarded and reported (R338). -/
def State.applyEntry (s : State) (e : DetEntry) : State :=
  let c := (s.launchAt e.launch).ctx
  match s.translateN none c e.level .both (BitVec.ofNat 64 e.addr) e.op.ty.bytes with
  | .error _ => s.reportEntry e
  | .ok ls =>
    let o : AtomOp := { e.op with locs := ls }
    let way := o.way (s.ctxAt c)
    if way = .none || (way = .lease && !(Config.leaseGranted s.tick e.order)) then s.reportEntry e
    else
      let r := ((s.settle ls).homeTouch true ls).applyAtom o
      (r.1.noteWrites none none (r.1.spanOf ls)).orWelt e.launch e.wg e.welt r.2.2

/-- Every entry of a launch, wherever it stands, applied in key order and removed; then every line of the launch
combined: the applying flush points of R242. -/
def State.applyLaunch (s : State) (l : Nat) : State :=
  let mine : DetEntry → Bool := fun e => e.launch == l
  let all := s.pooled.filter mine ++ (s.wgs.flatMap fun g => g.detBuf.filter mine)
    ++ s.ctxs.flatMap fun c => c.detArea.filter mine
  let s : State := (sortKey DetEntry.le all).foldl State.applyEntry s
  let s : State := { s with
    pooled := s.pooled.filter fun e => !(mine e)
    wgs := s.wgs.map fun g => { g with detBuf := g.detBuf.filter fun e => !(mine e) }
    ctxs := s.ctxs.map fun c => { c with detArea := c.detArea.filter fun e => !(mine e) } }
  s.combine fun p => p.launch == l

/-! ### Phasers -/

/-- A welt's registration in a phaser (R327). -/
def Phaser.member (p : Phaser) (w : Nat) : Option (Nat × Nat × Bool × W32) := p.members.find? fun m => m.1 == w
/-- Whether a member's mode signals, or waits (R327). -/
def signals (mode : Nat) : Bool := mode == 1 || mode == 3
/-- Whether a member's mode waits. -/
def waitsOn (mode : Nat) : Bool := mode == 2 || mode == 3

/-- The condition of R328. -/
def Phaser.ready (p : Phaser) : Bool :=
  p.pending == 0 && (p.members.any fun m => signals m.2.1) && p.members.all fun m => !(signals m.2.1) || m.2.2.1

/-- The welts with a collective that waits on a phaser. -/
def State.waitersOf (s : State) (id : Nat) : List Nat :=
  (List.range s.welts.length).filter fun i =>
    (s.weltAt i).colls.any fun c => match c.wait with
      | .phase j false _ _ _ => j == id
      | _ => false

/-- A load in flight is performed: its values are fixed, and land later (R246). -/
def State.fixLoad (s : State) (w : Nat) (f : Flight) : State :=
  let core := s.coreOfWelt w
  let put (s : State) (k : FlightKind) : State :=
    let x := s.weltAt w
    s.setWeltAt w { x with flights := x.flights.map fun g => if g.num == f.num then { f with kind := k } else g }
  match f.kind with
  | .load es =>
    let one (s : State) (e : Elem) : State :=
      (((s.settle e.locs).readLines core e.locs).noteSeen ⟨w, BitVec.twoPow 32 e.lane⟩ e.locs)
    let s1 := es.foldl one s
    put s1 (.value (es.map fun e => (e.lane, e.dst, e.ty, s1.seenLocs ⟨w, BitVec.twoPow 32 e.lane⟩ e.locs)))
  | .loadW d ty lanes ls =>
    let s1 := ((s.settle ls).readLines core ls).noteSeenAll ⟨w, lanes⟩ ls
    put s1 (.word d (extendW ty (s1.seenLocs ⟨w, lanes⟩ ls)))
  | _ => s

/-- The loads that waiting members of a phaser have in flight are performed before a device-scope advance applies what
deterministic launches have buffered (R263); those that issue later read what memory then holds (DEDUCED, log 13). -/
def State.fixLoads (s : State) (p : Phaser) : State :=
  (p.members.filter fun m => waitsOn m.2.1).foldl (fun s m => (s.weltAt m.1).flights.foldl (fun s f => s.fixLoad m.1 f) s) s

/-- The advance, when the condition of R328 holds: phase + 1, signals cleared, and at device scope the applying flush
point of every launch in the set before any waiter sees it. -/
def State.testPhaser (s : State) (i : Nat) : State :=
  match s.phasers[i]? with
  | none => s
  | some p =>
    if p.ready then
      let p' := { p with phase := p.phase + 1, members := p.members.map fun m => (m.1, m.2.1, false, m.2.2.2) }
      let s := { s with phasers := s.phasers.set i p' }
      let s := if p.scope = 6 then p.launches.foldl State.applyLaunch (s.fixLoads p) else s
      { s with agenda := s.agenda ++ (s.waitersOf p.id).map .phaserWaitRelease }
    else s

/-- The implicit phaser of a workgroup advances when every member has signalled (R328, R333). -/
def State.testBarrier (s : State) (g : Nat) : State :=
  let wg := s.wgAt g
  if wg.members.isEmpty || !(wg.members.all fun m => m.2.1) then s
  else
    let s := s.setWgAt g { wg with
      phase := wg.phase + 1
      members := wg.members.map fun m => (m.1, false, m.2.2)
      barSince := none
      barHeld := none
      barTimeout := wg.barNext
      barRecord := wg.barRecordNext }
    { s with agenda := s.agenda ++ (wg.members.map fun m => Instr.phaserWaitRelease m.1) }

/-- The launches that have signal-mode members (R327). -/
def State.signalLaunches (s : State) (p : Phaser) : List Nat :=
  ((p.members.filter fun m => signals m.2.1).map fun m => (s.wgAt (s.weltAt m.1).wg).launch).eraseDups

/-- A phaser replaced, and R328 tested. -/
def State.putPhaser (s : State) (i : Nat) (p : Phaser) : State :=
  { s with phasers := s.phasers.set i { p with launches := s.signalLaunches p } }.testPhaser i

/-- The index of a live phaser of a context (R327). -/
def State.phaserIdx (s : State) (ctx id : Nat) : Option Nat :=
  if id = 0 then none else s.phasers.findIdx? fun p => p.id == id && p.ctx == ctx

/-- Bytes subtracted from a phaser's pending counter (R251, R290, R328). -/
def State.landBytes (s : State) (ctx id n : Nat) : State :=
  match s.phaserIdx ctx id with
  | none => s
  | some i => match s.phasers[i]? with
    | none => s
    | some p => s.putPhaser i { p with pending := p.pending - BitVec.ofNat 48 n }

/-- A failed copy recorded: the first failure of a phase is kept (R330). -/
def State.failPhaser (s : State) (ctx id : Nat) (c : Cause) : State :=
  match s.phaserIdx ctx id with
  | none => s
  | some i => match s.phasers[i]? with
    | none => s
    | some p =>
      let f := match p.fail with
        | some (k, ph) => if ph == p.phase then some (k, ph) else some (c, p.phase)
        | none => some (c, p.phase)
      { s with phasers := s.phasers.set i { p with fail := f } }

/-- A welt's registrations dropped, each as PHDROP does (R327, R333). -/
def State.dropWelt (s : State) (w : Nat) : State :=
  let s := (List.range s.phasers.length).foldl (fun s i => match s.phasers[i]? with
    | some p => if p.members.any fun m => m.1 == w then
        s.putPhaser i { p with members := p.members.filter fun m => m.1 != w } else s
    | none => s) s
  let g := (s.weltAt w).wg
  let wg := s.wgAt g
  (s.setWgAt g { wg with members := wg.members.filter fun m => m.1 != w }).testBarrier g

/-! ### Locks -/

/-- Compatibility of two modes in a context's matrix (R341). -/
def compat (matrix : W64) (a b : Nat) : Bool := matrix.getLsbD (8 * a + b)
/-- The order of ages: lower is older (R343). -/
def Age.lt (a b : Age) : Bool :=
  if a.seq != b.seq then decide (a.seq < b.seq)
  else if a.wg != b.wg then decide (a.wg < b.wg)
  else decide (a.welt < b.welt)

/-- The age of a welt's transaction (R343). -/
def State.ageOf (s : State) (w : Nat) : Age :=
  let g := s.wgAt (s.weltAt w).wg
  ⟨(s.launchOf g).seq, g.logical, (s.weltAt w).index⟩

/-- A request compatible with every other holder (R344). -/
def Lock.compatible (matrix : W64) (l : Lock) (age : Age) (mode : Nat) : Bool :=
  l.holders.all fun h => h.1 == age || compat matrix mode h.2.2

/-- Waiters granted from the head while each is compatible (R344); a conversion replaces the mode held. -/
def grantHead (matrix : W64) : Nat → Lock → Lock
  | 0, l => l
  | n + 1, l => match l.queue with
    | [] => l
    | q :: rest =>
      if l.compatible matrix q.age q.mode then
        grantHead matrix n { l with
          holders := (l.holders.filter fun h => h.1 != q.age) ++ [(q.age, q.w, q.mode)]
          queue := rest }
      else l

/-- A lock put in place of the one with its name; a grant is due whenever its holders changed (R344). -/
def State.putLock (s : State) (i : Nat) (l : Lock) : State :=
  let s := { s with locks := s.locks.set i l }
  if l.queue.isEmpty then s else s.post (.lockGrant i)

/-- The index of a name of a context, entered if it is new. -/
def State.lockIdx (s : State) (ctx : Nat) (name : W64) : Option Nat :=
  s.locks.findIdx? fun l => l.ctx == ctx && l.name == name

/-- A transaction's holds and waits on a name removed; what the welt that held it knows goes on with the lock (R181, R349). -/
def State.releaseName (s : State) (ctx : Nat) (name : W64) (age : Age) : State :=
  match s.lockIdx ctx name with
  | none => s
  | some i => match s.locks[i]? with
    | none => s
    | some l =>
      let mine := ((l.holders.filter fun h => h.1 == age).map (·.2.1)).filter fun w => !((s.weltAt w).unfenced.isEmpty)
      let s1 : State := if mine.isEmpty then s else { s with nextVeil := s.nextVeil + 1 }
      s1.putLock i { l with
        holders := l.holders.filter fun h => h.1 != age
        queue := l.queue.filter fun q => q.age != age
        released := mine.map (fun w => (w, s.nextVeil)) ++ l.released.filter fun z => !(mine.contains z.1) }

/-- Everything a welt's transaction holds or waits for released, and the transaction closed (R349, R350). -/
def State.releaseAll (s : State) (w : Nat) : State :=
  let x := s.weltAt w
  match x.txn with
  | none => s
  | some _ =>
    let age := s.ageOf w
    let ctx := (s.launchOf (s.wgAt x.wg)).ctx
    let names := (s.locks.filter fun l => l.ctx == ctx && ((l.holders.any fun h => h.1 == age)
      || l.queue.any fun q => q.age == age)).map (·.name)
    let s := names.foldl (fun s n => s.releaseName ctx n age) s
    s.setWeltAt w { s.weltAt w with txn := none }

/-- Younger holders and conversion waiters that a queued request wounds (R345). -/
def Lock.wounds (matrix : W64) (l : Lock) (age : Age) (mode : Nat) (conv : Bool) : List Nat :=
  ((l.holders.filter fun h => age.lt h.1 && !(compat matrix mode h.2.2)).map (·.2.1))
    ++ ((l.queue.filter fun q => q.conv && age.lt q.age && !conv).map (·.w))

/-- A transaction's waits removed from every name of its context; what it holds stays (R346). The waiters behind it are then
granted as far as they can be, as where a holder leaves: R344 names only a change of the holders (DEDUCED, log 31). -/
def State.unqueue (s : State) (w : Nat) : State :=
  let age := s.ageOf w
  let ctx := (s.launchOf (s.wgAt (s.weltAt w).wg)).ctx
  (List.range s.locks.length).foldl (fun s i => match s.locks[i]? with
    | none => s
    | some l => if l.ctx == ctx && l.queue.any fun q => q.age == age then
        s.putLock i { l with queue := l.queue.filter fun q => q.age != age } else s) s

/-- A transaction marked wounded, once: its wait is over, its patience starts (R345-R347); that of a saved victim, whose
patience is kept as the time that has passed, at 0 (R435). -/
def State.wound (s : State) (by_ : Age) (name : W64) (w : Nat) : State :=
  let x := s.weltAt w
  match x.txn with
  | none => s
  | some t =>
    if t.wounded then s
    else
      let since := if (s.wgAt x.wg).st == .saved then 0 else s.now
      let t' : Txn := { t with wounded := true, since := since, by_ := [(by_.seq, by_.wg, by_.welt, name)] }
      (((s.setWeltAt w { x with txn := some t' }).unqueue w).post (.woundDelivery w)).post (.woundPatienceExpiry w)

/-! ### The end of welts and workgroups -/

/-- The welts of a workgroup. -/
def State.weltsOf (s : State) (g : Nat) : List Nat :=
  (List.range s.welts.length).filter fun i => (s.weltAt i).wg == g

/-- The entries of a workgroup that stand in its context's overflow area (R241). -/
def State.areaOf (s : State) (wg : Wg) : List DetEntry :=
  (s.ctxAt (s.launchOf wg).ctx).detArea.filter fun e => e.launch == wg.launch && e.wg == wg.logical
/-- The overflow area without the entries of a workgroup. -/
def State.clearArea (s : State) (wg : Wg) : State :=
  let c := s.ctxAt (s.launchOf wg).ctx
  s.setCtxAt (s.launchOf wg).ctx
    { c with detArea := c.detArea.filter fun e => !(e.launch == wg.launch && e.wg == wg.logical) }

/-- The stores of a workgroup that some party may not see yet shown to every party. -/
def State.showWg (s : State) (g : Nat) : State :=
  { s with veils := s.veils.map fun v => if v.wg == g then { v with level := 7 } else v }

/-- A workgroup ends (R310, R238, R242): its stores are visible, its entries and partials leave the core, every partial
present of a line of its that is not of a deterministic launch is combined, its mapped blocks are given back (R234), and
its bit is set in the completion bitmap, or, where it was killed, halted or faulted, noted as failed (R311, R312). -/
def State.endWg (s : State) (g : Nat) (ok : Bool) : State :=
  let wg := s.wgAt g
  if wg.st = .ended then s
  else
    let l := s.launchAt wg.launch
    let s : State := (List.range 32).foldl (fun s b => s.dropBlock g b) (s.showWg g)
    let lines := wg.partials.filterMap s.partialLine
    let s : State := { s with pooled := s.pooled ++ wg.detBuf ++ s.areaOf wg
                              pooledPartials := s.pooledPartials ++ wg.partials }
    let s := s.clearArea wg
    let s := s.setWgAt g { wg with st := .ended, rebinding := [], detBuf := [], partials := [], stash := [], opbuf := [], acc := [] }
    let s := s.combine fun p => s.looseLaunch p && (s.partialLine p).any lines.contains
    let s := s.setLaunchAt wg.launch
      (if ok then { l with done := wg.logical :: l.done } else { l with failed := wg.logical :: l.failed })
    s.post (.launchEnd wg.launch)

/-- Whether every load, store, atomic and copy that a welt issued, and its stream work, is performed: what a fence with
all six kinds waits for (R248). -/
def State.weltQuiet (s : State) (w : Nat) : Bool :=
  let x := s.weltAt w
  (x.flights.all fun f => match f.kind with
      | .load _ | .loadW _ _ _ _ | .atom _ | .value _ => false
      | _ => true)
    && (s.copies.all fun c => c.w != w || c.done) && x.streams.toList.all fun st => st.queue.isEmpty

/-- An ended welt with an open transaction releases everything as LKABORT would, once what it issued is performed
(R349). -/
def State.settleTxn (s : State) (w : Nat) : State :=
  if (s.weltAt w).ended && (s.weltAt w).txn.isSome && s.weltQuiet w then s.releaseAll w else s

/-- A welt ends (R29, R359): registrations dropped, handles freed, an open transaction released as by LKABORT (R349); the
workgroup ends with its last welt. -/
def State.endWelt (s : State) (w : Nat) (ok : Bool) : State :=
  let x := s.weltAt w
  if x.ended then s
  else
    let s := (s.dropWelt w).endLease w
    let s := s.setWeltAt w { s.weltAt w with
      ended := true, handles := Vector.replicate 16 none, colls := [], wait := .none, service := false }
    let s := s.expose 6 ⟨w, BitVec.allOnes 32⟩ (s.veilsBefore w)
    let s := s.settleTxn w
    if (s.weltsOf x.wg).all fun i => (s.weltAt i).ended then s.endWg x.wg ok else s

/-- Every welt of a workgroup stopped and ended as by EXIT, with what its streams have not begun discarded (R437); HALTWG and a kill also discard its entries and
partials, a trap above level 2 keeps them (R239, R242). -/
def State.stopWg (s : State) (g : Nat) (discard : Bool) : State :=
  let wg := s.wgAt g
  if wg.st = .ended then s
  else
    let s := if discard then (s.setWgAt g { wg with detBuf := [], partials := [] }).clearArea wg else s
    let s := (s.weltsOf g).foldl (fun s w =>
      (s.setWeltAt w { s.weltAt w with
        lanes := (s.weltAt w).lanes.map fun l => { l with x := true, h := false, depth := 0, pc := 0 }
        serial := none, halt := .none, service := false
        streams := (s.weltAt w).streams.map fun st => { st with queue := [] } }).endWelt w false) s
    s.endWg g false

/-- A launch takes a status of R320, gathered until it ends. -/
def State.flagLaunch (s : State) (l : Nat) (f : Flags → Flags) : State :=
  let x := s.launchAt l
  (s.setLaunchAt l { x with flags := f x.flags }).post (.launchEnd l)

/-- A trap above the management level, or a supervisor that ends the workgroup: JOIN status 1 with the cause (R320,
R419). -/
def State.faultWg (s : State) (g : Nat) (cause : BitVec 8) (discard : Bool) : State :=
  let s := s.flagLaunch (s.wgAt g).launch fun f => { f with faulted := some (f.faulted.getD cause) }
  s.stopWg g discard

end Sys2Proof.Machine
end

