-- ==== Sys2Proof/Machine/Ops.lean ====
section
/-!
DEFINITION. The operations that every meaning shares: raising a trap and returning from one (spec/21 R418-R430), halting
and resuming a workgroup, retiring an instruction at the minimum key (R27), stalling (R54, R321, R326).
-/

namespace Sys2Proof.Machine

/-- The outcome type of every meaning. -/
abbrev Result := Host.Outcome State Fault Refusal

/-! ### Traps -/

/-- What a raising rule names: the cause, the lanes of `sr.tlanes`, kind and address of R422, the trap pc, whether it
is a header, whether TRET skips (SK), whether the trap asks for the supervisor (TRAP.s), a restart word (R271), and
the depth of the key at which the instruction issued where that is not the welt's next key. -/
structure TrapInfo where
  cause : Cause
  lanes : Lanes
  pc : Pc
  kind : Nat := 0
  addr : BitVec 52 := 0
  hdr : Bool := false
  sk : Bool := false
  sup : Bool := false
  restart : Option W64 := none
  depth : Option (BitVec 6) := none
  deriving DecidableEq, Repr

/-- Whether a `sr.tvec` is enabled (R420). -/
def tvecEn (t : W64) : Bool := t.getLsbD 0
/-- The handler address of a `sr.tvec` (R420). -/
def tvecAddr (t : W64) : Pc := (t.extractLsb' 2 46) ++ (0#2)

/-- The bytes of a whole line as it stands (R252). -/
def State.lineBytes (s : State) (l : Loc) : List Byte :=
  (List.range 128).map fun i => s.getByte (match l with
    | .host p a => .host p (a / 128 * 128 + i)
    | .dev a => .dev (a / 128 * 128 + i)
    | k => k)

/-- The word at a code address as a welt of a level may fetch it (R28, R403, R433): from a line that it has fetched, or
from memory (R252). -/
def State.fetchWord (s : State) (w : Welt) (level : Nat) (a : Pc) : Except XFault W32 :=
  let g := s.wgAt w.wg
  match s.translateN (some g.core) (s.launchOf g).ctx level .fetch (a.setWidth 64) 4 with
  | .error f => .error f
  | .ok ls =>
    if ls.any s.badLoc then .error ⟨.memoryError, 0⟩
    else match ls.head?.bind fun l => w.code.find? fun c => c.1 == l.line with
      | some c => .ok (BitVec.ofNat 32 (leValue ((c.2.drop (a.toNat % 128)).take 4)))
      | none => .ok ((s.getLocs ls).setWidth 32)

/-- The line of a code address fetched whole by the issuing welt, with its translation, unless it holds it (R252,
R405). -/
def State.holdCode (s : State) (a : Pc) : State :=
  match s.translateN (some s.cg.core) s.cl.ctx s.cw.level .fetch (a.setWidth 64) 4 with
  | .ok (l :: _) =>
    let t := s.fillTlb s.cg.core s.cl.ctx (a.setWidth 64)
    if t.cw.code.any fun c => c.1 == l.line then t
    else t.setCw { t.cw with code := (l.line, s.lineBytes l) :: t.cw.code }
  | _ => s

/-- Whether an address is the start of a segment in a page executable at a level (R419, R33). -/
def State.segmentAt (s : State) (w : Welt) (level : Nat) (a : Pc) : Bool :=
  match s.fetchWord w level a with
  | .ok w => isSegmentStart w && a.extractLsb' 0 2 == 0
  | .error _ => false

/-- The level at which R419 first takes a trap: a trap raised in a handler goes one level up, and the translation
faults, MEMORY-ERROR and HANG never go to level 0. -/
def firstLevel (w : Welt) (t : TrapInfo) : Nat :=
  let user := tvecEn (w.trap 0).tvec
  match w.inHandler with
  | n :: _ => n + 1
  | [] =>
    if w.level ≠ 0 then w.level + 1
    else if t.sup then 1
    else match t.cause with
      | .page | .stackGrow | .memoryError | .hang | .tretState => 1
      | .brk | .step => if user && !((w.trap 0).tvec.getLsbD 1) then 0 else 1
      | _ => if user then 0 else 1

/-- The level at which a trap is taken from a first level on: the next whose handler can be entered (R419). -/
def State.takeLevel (s : State) (w : Welt) : Nat → Nat → Option Nat
  | 0, _ => none
  | fuel + 1, n =>
    if 2 < n then none
    else if tvecEn (w.trap n).tvec && s.segmentAt w n (tvecAddr (w.trap n).tvec) then some n
    else State.takeLevel s w fuel (n + 1)

/-- The saved state of a trap (R421): keys with their places, H bits, serial mode, member sets, a replay still due. -/
def Welt.save (w : Welt) : Saved where
  x := Lanes.ofPred fun i => (w.lanes[i]).x
  h := Lanes.ofPred fun i => (w.lanes[i]).h
  depth := w.lanes.map (·.depth)
  pc := w.lanes.map (·.pc)
  pos := w.lanes.map (·.pos)
  seg := w.lanes.map (·.seg)
  serial := w.serial
  colls := w.colls
  replay := w.replay

/-- The trap status word (R424). -/
def tswOf (depth : BitVec 6) (z : Option Serial) (plev : Nat) (sk sib hdr st : Bool) : W64 :=
  BitVec.ofNat 64 (depth.toNat * 2 ^ 20 + (match z with
      | some q => q.running * 2 ^ 15 + 2 ^ 14
      | none => 0) + plev * 2 ^ 12 + (if sk then 2 ^ 10 else 0) + (if sib then 2 ^ 9 else 0) + (if hdr then 2 ^ 8 else 0)
      + (if st then 2 ^ 7 else 0))

/-- The least-key lane among all non-exited lanes, for a welt whose lanes may all be held. -/
def Welt.nextLane (w : Welt) : Lane :=
  match w.leader with
  | some b => w.lanes[b]
  | none => (w.living.toList.foldl (fun (best : Option (Fin 32)) i => match best with
      | none => some i
      | some b => if (w.lanes[i]).key < (w.lanes[b]).key then some i else some b) none).elim Lane.init fun b => w.lanes[b]

/-- The halts that still hold for a welt once it runs a handler of level `n` (R425, R428): it ignores those of traps at
its level or below and a stall of its core; a halt to leave the core stays. -/
def Halt.inHandler (h : Halt) (n : Nat) : Halt :=
  match h with
  | .coming hs =>
    let left := hs.filter fun r => match r.kind with
      | .sibling m => decide (n < m)
      | .stall => false
      | .leave => true
    if left.isEmpty then .none else .coming left
  | h => h

/-- Entry into the handler of level `n` (R421 steps 2 and 4): the record, the saved state, and the new keys. `st` says
whether the issue was stitched (R37). -/
def Welt.enter (w : Welt) (n : Nat) (t : TrapInfo) (cycles : W64) (st : Bool) : Welt :=
  let old := w.trap n
  let rec_ : TrapRegs := { old with
    tcause := BitVec.ofNat 64 (t.addr.toNat * 2 ^ 12 + t.kind * 2 ^ 8 + t.cause.code.toNat)
    tlanes := t.lanes.setWidth 64
    tpcv := t.pc.setWidth 64
    tsw := tswOf (t.depth.getD w.nextLane.depth) w.serial w.level t.sk false t.hdr st
    skid := cycles &&& 0x00FFFFFFFFFFFFFF#64
    restart := t.restart.getD old.restart }
  let h := tvecAddr old.tvec
  { w with
    traps := w.traps.setIfInBounds n rec_
    saved := w.saved.setIfInBounds n (some w.save)
    lanes := w.lanes.map fun l =>
      if l.x then l else { l with h := false, depth := 0, pc := h, pos := .start, seg := h }
    serial := none
    colls := []
    level := n
    inHandler := n :: w.inHandler
    halt := w.halt.inHandler n
    service := w.service || decide (1 ≤ n)
    stepping := false
    stepDone := false
    replay := none
    atStart := false
    wait := .none
    spent := 0
    wantPrice := 0
    wantSince := none }

/-- The record that a sibling writes when it stops (R425): cause 0, SIB, the address at which it goes on. -/
def Welt.stopRecord (w : Welt) (m n : Nat) (cycles : W64) : Welt :=
  w.setTrap m { w.trap m with
    tcause := 0
    tlanes := 0
    tpcv := w.nextLane.pc.setWidth 64
    tsw := tswOf w.nextLane.depth w.serial w.level false true false false
    skid := BitVec.ofNat 64 (n * 2 ^ 56) ||| (cycles &&& 0x00FFFFFFFFFFFFFF#64) }

/-- The record of a halt, where a trap of a sibling sent it. -/
def Welt.record (w : Welt) (r : HaltRec) : Welt :=
  match r.kind with
  | .sibling m => w.stopRecord m r.n r.at_
  | _ => w

/-- A welt to which halts have come stops here, and writes the record of each trap that sent one (R425). What it waited for
is executed again when it goes on; until then the place of its wait stays known (R323). -/
def Welt.stop (w : Welt) : Welt :=
  match w.halt with
  | .coming hs => { hs.foldl Welt.record w with halt := .stopped }
  | _ => w

/-- Whether a welt stands at a clause boundary (R425): its next word is a clause header. A clause of 15 of which no
instruction has issued counts as not begun, so that at most 14 follow a halt (R425, R426: DEDUCED, log 19). -/
def Welt.atBoundary (w : Welt) : Bool :=
  match w.lead.pos with
  | .inside _ n => decide (15 ≤ n)
  | _ => true

/-- Whether a welt stands at a stop point (R425): a clause boundary, an instruction at which it waits, or with every lane
held. -/
def Welt.atStop (w : Welt) : Bool := w.atBoundary || w.wait != .none || w.live == 0

/-- A halted sibling stops once it stands at a clause boundary, or once the lanes `a` that have issued are held at a
collective (R425). -/
def Welt.settleHalt (w : Welt) (a : Lanes) : Welt := if w.atBoundary || w.live &&& a == 0 then w.stop else w

/-- Whether a welt ignores a halt (R425, R428): it has ended or stopped, or it runs a handler at the trap's level or
above, or, at a stall of its core, any handler. -/
def Welt.ignores (w : Welt) (k : HaltKind) : Bool :=
  w.ended || w.halt == .stopped || match k with
    | .sibling m => w.inHandler.any fun n => decide (m ≤ n)
    | .stall => !w.inHandler.isEmpty
    | .leave => false

/-- The stitch that a welt issues in (R34). -/
def State.stitchOf (s : State) (i : Nat) : Option Stitch := s.stitches.find? fun x => x.members.any fun m => m.1 == i
/-- The stitch of a welt split back into its welts (R36, R37). -/
def State.splitStitch (s : State) (i : Nat) : State :=
  { s with stitches := s.stitches.filter fun x => !(x.members.any fun m => m.1 == i) }
/-- A stitch that a welt has left, if it was one of its members; it dissolves when one welt is left (R34). -/
def Stitch.without (x : Stitch) (i : Nat) : Option Stitch :=
  if x.members.any fun m => m.1 == i then
    let left := x.members.filter fun m => m.1 != i
    if 2 ≤ left.length then some ⟨left⟩ else none
  else some x
/-- A welt leaves its stitch (R34). -/
def State.leaveStitch (s : State) (i : Nat) : State := { s with stitches := s.stitches.filterMap (·.without i) }
/-- A welt has issued one more instruction of its stitch's segment. -/
def State.countStitch (s : State) (i : Nat) : State :=
  { s with stitches := s.stitches.map fun x =>
      { x with members := x.members.map fun m => if m.1 == i then (i, m.2 + 1) else m } }

/-- The halt of R425 sent to one welt: it is there at once, which may take 8 cc, and the welt stops before anything else
moves if it stands at a stop point. -/
def State.haltWelt (s : State) (k : HaltKind) (i : Nat) : State :=
  let w := s.weltAt i
  if w.ignores k then s
  else
    let r : HaltRec := ⟨k, 0, s.cyclesOf (s.wgAt w.wg).core⟩
    let h : Halt := match w.halt with
      | .coming hs => if hs.any fun x => x.kind == k then .coming hs else .coming (hs ++ [r])
      | _ => .coming [r]
    ((s.setWeltAt i { w with halt := h }).splitStitch i).post (.siblingStop i)

/-- A trap raised in welt `i` (R417-R421): routed by R419, recorded, the siblings halted, the handler entered, where the welt
stops at once if a halt that it does not ignore has come (R425); above level 2 it ends the workgroup. A workgroup that is
being ended runs no handler: there the welt stops (R437). -/
def State.raiseIn (s : State) (i : Nat) (t : TrapInfo) : State :=
  let w := s.weltAt i
  let g := w.wg
  let core := (s.wgAt g).core
  if (s.wgAt g).killed then s.setWeltAt i { w with halt := .stopped, wait := .none }
  else match s.takeLevel w 4 (firstLevel w t) with
  | none => s.faultWg g t.cause.code false
  | some n =>
    let st := (s.stitchOf i).isSome
    let s := ((s.endLease i).setWeltAt i (w.enter n t (s.cyclesOf core) st).stop).splitStitch i
    let s := ((s.weltsOf g).filter fun k => k != i).foldl (fun s k => s.haltWelt (.sibling n) k) s
    if 1 ≤ n then s.post (.coreStall core) else s

/-- V of the level from which the welt has returned cleared, as its first instruction issues (R272). -/
def Welt.endReplay (w : Welt) : Welt :=
  match w.replay with
  | none => w
  | some n => { w with
      replay := none
      traps := w.traps.setIfInBounds n { w.trap n with restart := (w.trap n).restart &&& 0x7FFFFFFFFFFFFFFF#64 } }

/-- A trap raised in the welt that issues, by the instruction that it issues. -/
def State.raise (s : State) (t : TrapInfo) : State := (s.setCw s.cw.endReplay).raiseIn s.cur t

/-- A trap raised in the welt before an instruction of it issues: V stays as it is, and a replay due stays due (R272). -/
def State.raiseEarly (s : State) (t : TrapInfo) : State := s.raiseIn s.cur t

/-- A trap of the issuing welt at its pc, naming lanes. -/
def State.trapAt (s : State) (c : Cause) (lanes : Lanes) : State :=
  s.raise { cause := c, lanes := lanes, pc := s.cw.pc }

/-- The welt of a stitch with the lowest index: it stands last, and issues last. -/
def Stitch.lowest (x : Stitch) : Option Nat := x.members.getLast?.map (·.1)

/-- The welts of a stitch other than one that have not issued the instruction of the joint issue yet: they stop where they
stand, as siblings of the welt that takes its trap (R37, R96). -/
def State.stopStitch (s : State) (x : Stitch) (n i : Nat) : State :=
  (x.members.filter fun m => m.1 != i && decide (m.2 ≤ n)).foldl (fun s m => s.setWeltAt m.1 (s.weltAt m.1).stop) s

/-- ILLEGAL at the next instruction of the issuing welt, or at the clause header before it, raised by `f`, naming the lanes
that `lanes` finds in the welt that takes it. In a stitched issue that is the welt of the stitch with the lowest index, at the
same place, where it has not issued yet; it names its own lanes (R96; DEDUCED, log 19). -/
def State.illegalBy (f : State → TrapInfo → State) (s : State) (lanes : State → Lanes) (hdr : Bool) : State :=
  let take (s : State) : State := f s { cause := .illegal, lanes := lanes s, pc := s.cw.pc, hdr := hdr }
  match s.stitchOf s.cur with
  | none => take s
  | some x =>
    let i := x.lowest.getD s.cur
    let n := ((x.members.find? fun m => m.1 == s.cur).map (·.2)).getD 0
    let w := s.weltAt i
    let here := w.mapLanes w.A fun _ l => { l with pc := s.cw.pc, pos := s.cw.lead.pos, seg := s.cw.lead.seg }
    (take { s.setWeltAt i here with cur := i }).stopStitch x n i

/-- ILLEGAL by an operand of the instruction that issues, naming lanes (R95 item 5). -/
def State.illegalAt (s : State) (lanes : State → Lanes) (hdr : Bool) : State := s.illegalBy State.raise lanes hdr

/-- ILLEGAL by the encoding of a word or header that would issue (R81, R95 item 2). -/
def State.illegalWord (s : State) (hdr : Bool) : State := s.illegalBy State.raiseEarly (fun s => s.cw.A) hdr

/-- ILLEGAL at the instruction, naming A. -/
def State.illegal (s : State) : State := s.illegalAt (fun s => s.cw.A) false

/-- Whether a workgroup is being stopped to leave its core (R435, R437). -/
def Wg.leaving (g : Wg) : Bool := g.vacating || g.moving.isSome || g.killed

/-- Whether another welt stands on the same core and awaits service (R428): of any workgroup, or only of another one. -/
def State.stalledBy (s : State) (i : Nat) (own : Bool) : Bool :=
  let g := (s.weltAt i).wg
  (List.range s.welts.length).any fun k =>
    let x := s.weltAt k
    k != i && !x.ended && x.service && (own || x.wg != g) && (s.wgAt x.wg).core == (s.wgAt g).core
      && (s.wgAt x.wg).st == .resident

/-- What keeps a welt that would run from issuing (R427, R428, R430). A welt in a handler is held by a handler of its
workgroup at a higher level than its own, the level whose halt it does not ignore; handlers of one level run at the same
time (DEDUCED, log 19). A welt that is stepped is held by another workgroup's need of service alone, any other welt
by every handler of its workgroup and every need of service on its core. -/
def State.heldBack (s : State) (i : Nat) : Bool :=
  let w := s.weltAt i
  let peers := (s.weltsOf w.wg).filter fun k => k != i && !(s.weltAt k).ended
  match w.inHandler with
  | n :: _ => peers.any fun k => (s.weltAt k).inHandler.any fun m => decide (n < m)
  | [] => if w.stepping then s.stalledBy i false
    else s.stalledBy i true || peers.any fun k => !(s.weltAt k).inHandler.isEmpty

/-- Whether a stopped welt may go on (R427, R428, R430): its workgroup is not being stopped, nor its late welts for the
report of a barrier (R334), no other welt of the workgroup is stepped, and nothing holds it back. -/
def State.mayResume (s : State) (i : Nat) : Bool :=
  let w := s.weltAt i
  let g := s.wgAt w.wg
  w.halt == .stopped && !w.ended && g.st == .resident && !g.leaving && !g.barStop
    && !((s.weltsOf w.wg).any fun k => k != i && !(s.weltAt k).ended && (s.weltAt k).stepping) && !(s.heldBack i)

/-- A stopped welt goes on from its keys; an arrival that was kept executes only its waiting part (R425, R427). It is ready
anew (R321). -/
def State.resume (s : State) (i : Nat) : State :=
  let w := s.weltAt i
  let s1 := s.setWeltAt i { w with halt := .none, readyAt := none, triedAt := none }
  if w.colls.any fun c => c.wait != .none then s1.post (.phaserWaitRelease i) else s1

/-- WOUND delivered to a welt, once (R346): `lanes` and `pc` are those of the instruction at which it is raised. -/
def State.deliverWound (s : State) (i : Nat) (lanes : Lanes) (pc : Pc) : State :=
  let w := s.weltAt i
  (s.setWeltAt i { w with txn := w.txn.map fun t => { t with delivered := true } }).raiseIn i
    { cause := .wound, lanes := lanes, pc := pc }

/-- Whether a wound waits to be delivered by trap (R346). -/
def Welt.woundDue (w : Welt) : Bool :=
  match w.txn with
  | some t => t.wt && t.wounded && !t.delivered
  | none => false

/-! ### Retiring -/

/-- Whether a cycle of the core clock begins a cycle of a slice at its ratio (R17): of 8 core cycles a slice has 8, 7, 6,
5, 4, 3, 2 or 1, spread evenly. -/
def sliceCycle (ratio : BitVec 3) (now : Nat) : Bool :=
  let e := 8 - ratio.toNat
  decide (now * e / 8 < (now + 1) * e / 8)

/-- The first core cycle after `now` that begins a cycle of a slice at a ratio (R17). -/
def nextSliceCycle (ratio : BitVec 3) (now : Nat) : Nat :=
  (((List.range 8).map (now + 1 + ·)).find? (sliceCycle ratio)).getD (now + 1)

/-- The place of the next instruction of a clause; after the last one, the next clause's header (R78). -/
def Pos.next : Pos → Pos
  | .inside c n => if n ≤ 1 then .cont else .inside c (n - 1)
  | p => p

/-- The lanes of A moved past an instruction of `len` words (R27). -/
def Welt.advance (w : Welt) (a : Lanes) (len : Nat) : Welt :=
  w.mapLanes a fun _ l => { l with pc := l.pc + BitVec.ofNat 48 (4 * len), pos := l.pos.next }

/-- A halted welt that runs to its stop point has retired one more (R426). -/
def Halt.retired : Halt → Halt
  | .coming hs => .coming (hs.map fun r => { r with n := r.n + 1 })
  | h => h

/-- The marks of an issue on its welt: nothing is awaited, its tokens are spent, a replay is over (R272), a halted
sibling has retired one more (R426), a single step has been made (R430). -/
def Welt.issued (w : Welt) (a : Lanes) (pc : Pc) (depth : BitVec 6) : Welt :=
  { w with
    wait := .none
    spent := 0
    wantSince := none
    order := w.order + 1
    yielded := false
    atStart := false
    started := true
    wantPrice := 0
    replay := none
    traps := w.endReplay.traps
    halt := w.halt.retired
    stepDone := w.stepping
    stepPc := if w.stepping then pc else w.stepPc
    stepDepth := if w.stepping then depth else w.stepDepth
    stepLanes := if w.stepping then a else w.stepLanes }

/-- What an issue records beside its welt: its slice's cycle is taken (R321), the core's timers, and that the core is
awake (R336, R337). -/
def State.noteIssue (s : State) (core slice : Nat) : State :=
  let c := s.coreAt core
  s.setCoreAt core { c with
    busyAt := s.now
    timerStart := s.now
    gate := .on
    slices := c.slices.setIfInBounds slice { c.slices.toList.getD slice Slice.init with issuedAt := some s.now } }

/-- The issuing welt, with the effect `w` of its instruction in it, after the instruction has retired without moving
any lane by itself: successors and arrivals move their lanes in `w`. A successor takes the welt out of its stitch (R34,
R354). -/
def State.retireWith (s : State) (w : Welt) : State :=
  let s0 := s.setCw { (w.issued s.cw.A s.cw.pc s.cw.lead.depth).settleHalt s.cw.A with readyAt := some s.now }
  let s2 := s0.noteIssue s.cg.core s.cw.slice
  let s1 := match s.cw.lead.pos with
    | .inside .control _ => s2.leaveStitch s.cur
    | _ => s2.countStitch s.cur
  if s.cw.stepping then s1.post (.singleStepComplete s.cur) else s1

/-- The issuing welt, with the effect `w` of an instruction of `len` words in it, after the lanes of A have moved past
the instruction. -/
def State.retire (s : State) (w : Welt) (len : Nat) : State := s.retireWith (w.advance s.cw.A len)

/-- The instruction does not issue yet (R54, R55, R321, R326): nothing changes but what the welt waits for; a welt to
which a halt has come stops here (R425). -/
def State.stall (s : State) (r : Wait) : State := s.setCw ({ s.cw with wait := r, readyAt := none }).stop

/-- A switch point of a deterministic launch reached (R323): the welt that issues is not the one that runs on any more, nor,
in a handler, the one of those that run handlers. -/
def State.atSwitchPoint (s : State) : State :=
  let leave (r : Option Nat) : Option Nat := if r == some s.cur then none else r
  s.setCg { s.cg with runner := leave s.cg.runner, handlerRunner := leave s.cg.handlerRunner }

/-! ### Collectives that cannot complete (R31, R139) -/

/-- Lanes held, or released (R30). -/
def Welt.hold (w : Welt) (e : Lanes) (h : Bool) : Welt := w.mapLanes e fun _ l => { l with h := h }
/-- The exited lanes. -/
def Welt.exited (w : Welt) : Lanes := Lanes.ofPred fun i => (w.lanes[i]).x

/-- The key of an instance (R27). -/
def Coll.key (c : Coll) : Nat := (63 - c.depth.toNat) * 2 ^ 48 + c.pc.toNat

/-- When no lane is live and an instance has held members, the one with the smallest key can no longer complete
(R31). -/
def Welt.mismatched (w : Welt) : Option Coll :=
  if w.live ≠ 0 then none
  else (w.colls.filter fun c => c.wait == .none && c.arrived != 0).foldl (fun best c => match best with
    | none => some c
    | some b => if c.key < b.key then some c else some b) none

/-- An instance given up: removed, and the members that have arrived, whose pc is on it, released; a member held at
another instance stays held there (R139: DEDUCED, log 19). -/
def Welt.giveUp (w : Welt) (c : Coll) : Welt :=
  { (w.hold c.arrived false) with colls := w.colls.filter fun d => d != c }

/-- The traps of R31 in a welt whose lanes a handler has moved (R413): a named lane has exited, or no lane is live while
members are held. Both are precise at the collective (DEDUCED, log 19). -/
def State.checkHeld (s : State) (i : Nat) : State :=
  let w := s.weltAt i
  let trap (c : Coll) (k : Cause) (lanes : Lanes) : State :=
    (s.setWeltAt i (w.giveUp c)).raiseIn i { cause := k, lanes := lanes, pc := c.pc, depth := some c.depth }
  match w.colls.find? fun c => c.wait == .none && c.arrived != 0 && c.members &&& w.exited != 0 with
  | some c => trap c .exitedMember c.members
  | none => match w.mismatched with
    | some c => trap c .collectiveMismatch c.arrived
    | none => s

/-! ### Returning from a trap -/

/-- The place past a skipped instruction (R429): past a successor the next clause may be a segment's first (R81 item 5),
which the word there decides (log 17). -/
def Pos.skipped : Pos → Pos
  | .inside .control _ => .restored
  | p => p.next

/-- The lane keys that TRET restores (R429): the saved ones, and past the trapping instruction with SK. -/
def Welt.restoreLanes (w : Welt) (sv : Saved) (skip : Option (BitVec 6 × Pc × Nat)) : Vector Lane 32 :=
  Vector.ofFn fun i : Fin 32 =>
    let l := w.lanes[i]
    let l := { l with x := sv.x.getLsbD i, h := sv.h.getLsbD i, depth := sv.depth[i], pc := sv.pc[i],
                      pos := sv.pos[i], seg := sv.seg[i] }
    match skip with
    | some (d, pc, len) =>
      if !l.x && l.depth == d && l.pc == pc then
        { l with pc := l.pc + BitVec.ofNat 48 (4 * len), pos := l.pos.skipped }
      else l
    | none => l

/-- The reserved bits of `sr.tsw` that TRET checks (R424). -/
def tswReserved (t : W64) : Bool := t.extractLsb' 26 38 != 0 || t.extractLsb' 0 7 != 0

/-- The lane that runs leaves the serial queue: the next one runs, or serial mode ends (R40). -/
def Serial.leave (z : Serial) : Option Serial :=
  let q := z.queue &&& ~~~(BitVec.twoPow 32 z.running)
  if q = 0 then none else some { z with queue := q, running := (Lanes.nats q).headD 0, sd := 1 }

/-- Serial mode for a welt some of whose lanes a handler has exited (R413): they leave the queue, and where the lane that ran
is one of them the next one runs, as where it ends by EXIT (R40; DEDUCED, log 19: R429 does not say). -/
def Serial.without (z : Serial) (x : Lanes) : Option Serial :=
  let z' := { z with queue := z.queue &&& ~~~x }
  if x.getLsbD z.running then z'.leave else some z'

/-- The return from a trap (R429): at level `n` the saved keys, H bits, member sets and serial state come back, the
level becomes `plev`, and a single step may begin. `skipLen` is the length in words of the instruction at the trap pc. A welt
to which a halt has come stops here, at the end of the handler's clause (R425). A lane that SKEY has exited leaves the
serial queue (DEDUCED, log 19).
A welt whose lanes a handler has all exited ends here (R29); one whose held members can no longer complete traps (R31). -/
def State.trapReturn (s : State) (skipLen : Nat) : State :=
  let w := s.cw
  match w.inHandler with
  | [] => s.illegal
  | n :: rest =>
    let t := w.trap n
    if tswReserved t.tsw then s.trapAt .tretState w.A
    else match w.saved.toList.getD n none with
      | none => s.illegal
      | some sv =>
        let skip := t.tsw.getLsbD 10 && !t.tsw.getLsbD 8 && t.tcause.extractLsb' 0 8 != Cause.step.code
          && !t.tsw.getLsbD 9
        let x := w.endReplay
        let w' : Welt := { x with
          lanes := w.restoreLanes sv (if skip then some (t.tsw.extractLsb' 20 6, t.tpcv.setWidth 48, skipLen) else none)
          serial := sv.serial.bind (·.without sv.x)
          colls := sv.colls
          level := (t.tsw.extractLsb' 12 2).toNat
          inHandler := rest
          service := w.service && rest.any fun k => decide (1 ≤ k)
          saved := w.saved.setIfInBounds n none
          stepping := t.tsw.getLsbD 11
          stepDone := false
          replay := if (x.trap n).restart.getLsbD 63 then some n else sv.replay
          wait := .none
          spent := 0
          wantSince := none
          atStart := false
          order := w.order + 1 }
        let held := rest.isEmpty && (s.cg.leaving || (s.setCw w').heldBack s.cur)
        let y := match w.halt with
          | .coming _ => { w' with halt := w.halt.retired }.stop
          | _ => { w' with halt := if held then .stopped else .none }
        let s0 := (s.setCw { y with readyAt := some s.now }).noteIssue s.cg.core w.slice
        let s1 := if w'.colls.any fun c => c.wait != .none then s0.post (.phaserWaitRelease s.cur) else s0
        if w'.living = 0 then s1.endWelt s.cur true else s1.checkHeld s.cur

end Sys2Proof.Machine
end

