-- ==== Sys2Proof/Machine/Operands.lean ====
section
/-!
DEFINITION. Operands: full/empty readiness and the t bits (R53-R55, R83), token prices (R321, R384), the address forms
(R64, R267), per-lane translation with its faults (R269, R270), watches (R431).
-/

namespace Sys2Proof.Machine

/-- The registers an instruction depends on: sources with t = 1 and t = 0, and destinations, vector and uniform. -/
structure Deps where
  vHard : List Nat := []
  vSoft : List Nat := []
  vDst : List Nat := []
  wHard : List Nat := []
  wSoft : List Nat := []
  wDst : List Nat := []
  deriving DecidableEq, Repr

/-- A vector source with its t bit. -/
def Deps.src (d : Deps) (t : Bool) (regs : List Nat) : Deps :=
  if t then { d with vHard := regs ++ d.vHard } else { d with vSoft := regs ++ d.vSoft }
/-- A uniform source with its t bit. -/
def Deps.wsrc (d : Deps) (t : Bool) (r : Nat) : Deps :=
  if t then { d with wHard := r :: d.wHard } else { d with wSoft := r :: d.wSoft }
/-- Vector destinations. -/
def Deps.dst (d : Deps) (regs : List Nat) : Deps := { d with vDst := regs ++ d.vDst }
/-- A uniform destination. -/
def Deps.wdst (d : Deps) (r : Nat) : Deps := { d with wDst := r :: d.wDst }

/-- The lanes of a set in which some of the registers is empty. -/
def Welt.emptyIn (w : Welt) (e : Lanes) (regs : List Nat) : Lanes :=
  e &&& Lanes.ofPred fun i => regs.any fun r => !((w.lanes[i]).full.getLsbD r)

/-- What readiness finds (R54, R55): the instruction may issue, EMPTY-READ in lanes, or a register awaited; bit 7 of
its number marks a uniform one (R337). -/
inductive Ready where
  | go | emptyRead (lanes : Lanes) | await (reg : Nat)
  deriving DecidableEq, Repr

/-- The first empty register of a list, for the wait record. -/
def Welt.firstEmpty (w : Welt) (e : Lanes) (regs : List Nat) : Nat :=
  (regs.find? fun r => w.emptyIn e [r] != 0).getD 0

/-- Readiness of an instruction that executes in `e` (R54, R55). A uniform register is checked for every lane of `e`
at once. -/
def Welt.readiness (w : Welt) (e : Lanes) (d : Deps) : Ready :=
  let hard := w.emptyIn e d.vHard ||| (if d.wHard.all w.fullW then 0 else e)
  if hard ≠ 0 then .emptyRead hard
  else if w.emptyIn e (d.vSoft ++ d.vDst) ≠ 0 then .await (w.firstEmpty e (d.vSoft ++ d.vDst))
  else if e ≠ 0 && !((d.wSoft ++ d.wDst).all w.fullW) then
    .await (128 + ((d.wSoft ++ d.wDst).find? fun r => !(w.fullW r)).getD 0)
  else .go

/-- The lanes of `e` that read a source register with an uncorrectable error (R433). -/
def Welt.badSources (w : Welt) (e : Lanes) (d : Deps) : Lanes :=
  if (d.wHard ++ d.wSoft).any fun r => r != 0 && w.wbad.getLsbD r then e
  else e &&& Lanes.ofPred fun i => (d.vHard ++ d.vSoft).any fun r => (w.lanes[i]).bad.getLsbD r

/-- The issue of an instruction (R54, R55, R95 item 3, R321): EMPTY-READ, a wait for a register or for tokens, a
MEMORY-ERROR of a source register (R433), or its own meaning `k`. -/
def State.issue (s : State) (e : Lanes) (d : Deps) (price : Nat) (k : Result) : Result :=
  match s.cw.readiness e d with
  | .emptyRead l => .next (s.raiseEarly { cause := .emptyRead, lanes := l, pc := s.cw.pc })
  | .await r => .next (s.stall (.register r))
  | .go =>
    if s.cw.badSources e d ≠ 0 then
      .next (s.raiseEarly { cause := .memoryError, lanes := s.cw.badSources e d, pc := s.cw.pc })
    else if s.cw.spent < price then
      .next (s.setCw ({ s.cw with
        wait := .tokens, readyAt := none, wantSince := some (s.cw.wantSince.getD s.now), wantPrice := price }).stop)
    else k

/-- Whether an instruction issues now: every register it needs is full and without an error, and its price is spent. -/
def State.issues (s : State) (e : Lanes) (d : Deps) (price : Nat) : Bool :=
  s.cw.readiness e d == .go && s.cw.badSources e d == 0 && decide (price ≤ s.cw.spent)

/-- An instruction that is ready runs its meaning. -/
theorem issue_go (s : State) (e : Lanes) (d : Deps) (price : Nat) (k : Result) (h : s.issues e d price = true) :
    s.issue e d price k = k := by
  simp only [State.issues, Bool.and_eq_true, beq_iff_eq, decide_eq_true_eq] at h
  simp [State.issue, h.1.1, h.1.2, Nat.not_lt.mpr h.2]

/-! ### Addresses -/

/-- The address of lane `l` from a memory operand (R64, R267). -/
def memAddr (w : Welt) (l : Lane) (wb : WReg) (vi : Nat) (form : BitVec 2) (size : Nat) (disp : BitVec 13) : W64 :=
  (match form.toNat with
  | 0 => w.rdW wb.toNat + (l.rd vi).setWidth 64
  | 1 => w.rdW wb.toNat + (l.rd vi).setWidth 64 * BitVec.ofNat 64 size
  | 2 => w.rdW wb.toNat + (l.rd vi).signExtend 64
  | _ => l.rdTy .b64 vi) + disp.signExtend 64

/-- The registers that a memory operand reads, with its t bit (R83). -/
def memDeps (d : Deps) (t : Bool) (wb : WReg) (vi : Nat) (form : BitVec 2) (n : Nat) : Deps :=
  let d := d.src t (if form = 3 then (List.range (2 * n)).map (vi + ·) else (List.range n).map (vi + ·))
  if form = 3 then d else d.wsrc t wb.toNat

/-- One element of a per-lane access: the lane, its place, its address (for LDS and STS the stash offset), the virtual
address that a watch compares, if it has one, and what translation gives. -/
structure Access where
  lane : Nat
  elem : Nat
  addr : W64
  va : Option W64
  locs : Except XFault (List Loc)

/-- The faults among accesses: the lanes with any, and the one that chooses the cause: the lowest lane, at its lowest
element (R269). -/
def faultLanes (as : List Access) : Lanes :=
  Lanes.ofPred fun i => as.any fun a => a.lane == i.val && (match a.locs with
    | .error _ => true
    | .ok _ => false)
/-- The first fault in lane and element order. -/
def firstFault (as : List Access) : Option (Access × XFault) :=
  as.findSome? fun a => match a.locs with
    | .error f => some (a, f)
    | .ok _ => none

/-- The accesses of a per-lane instruction: lanes ascending, elements ascending (R269, R274). -/
def accessesOf (e : Lanes) (n : Nat) (addr : Nat → Nat → W64) (tr : W64 → Except XFault (List Loc)) : List Access :=
  (Lanes.nats e).flatMap fun i => (List.range n).map fun j => ⟨i, j, addr i j, some (addr i j), tr (addr i j)⟩

/-- Translation for the issuing welt's data accesses (R403). -/
def State.dataXlate (s : State) (need : Need) (size : Nat) (a : W64) : Except XFault (List Loc) :=
  s.translateN (some s.cg.core) s.cl.ctx s.cw.level need a size

/-- An uncorrectable error in any byte read makes the access a MEMORY-ERROR lane fault of kind 0 (R433). -/
def State.consume (s : State) (r : Except XFault (List Loc)) : Except XFault (List Loc) :=
  match r with
  | .ok ls => if ls.any s.badLoc then .error ⟨.memoryError, 0⟩ else .ok ls
  | .error f => .error f

/-- Translation of a stash offset (R277): bits 63:21 of the sum must be zero, and the block must exist. -/
def State.stashXlate (s : State) (need : Need) (size : Nat) (a : W64) : Except XFault (List Loc) :=
  if field a 21 43 ≠ 0 then .error ⟨.page, 0⟩
  else (List.range size).mapM fun i => s.stashLoc s.cw.wg s.cw.level (a.toNat + i) need

/-- The virtual address of a stash offset of the issuing workgroup, where its block is mapped (R231, R431). -/
def State.stashVA (s : State) (a : W64) : Option W64 :=
  let b := s.cg.blocks.toList.getD (a.toNat / 65536) 0
  if b.getLsbD 62 then some (BitVec.ofNat 64 (field b 16 36 * 65536 + a.toNat % 65536)) else none

/-- Accesses to the stash space: a watch compares the addresses that mapped blocks are bound to. -/
def State.stashAccesses (s : State) (as : List Access) : List Access := as.map fun a => { a with va := s.stashVA a.addr }

/-- The watch that an access of a lane matches, if any (R431). -/
def State.watched (s : State) (load store : Bool) (a : W64) (size : Nat) : Bool :=
  (s.coreAt s.cg.core).watches.toList.any fun x => match x with
    | some k => k.ctx == s.cc.num && ((load && k.load) || (store && k.store))
        && decide (a.toNat < k.base + k.size) && decide (k.base < a.toNat + size)
    | none => false

/-- The lanes whose accesses match a watch. -/
def State.watchLanes (s : State) (load store : Bool) (size : Nat) (as : List Access) : Lanes :=
  Lanes.ofPred fun i => as.any fun a => a.lane == i.val && a.va.any fun v => s.watched load store v size

/-- BREAK of a data watch: the matching lanes, and the address of the lowest lane's first element that matched (R422,
R431). -/
def State.watchTrap (s : State) (load store : Bool) (size : Nat) (as : List Access) : State :=
  let a := ((as.find? fun a => a.va.any fun v => s.watched load store v size).map (·.addr)).getD 0
  s.raise { cause := .brk, lanes := s.watchLanes load store size as, pc := s.cw.pc, addr := a.setWidth 52 }

/-- The trap of a lane fault (R269, R270): its cause, kind and address from the first fault, all faulting lanes named.
A MEMORY-ERROR of a page-table read keeps kind 7; REGION-FULL is no lane fault and carries no address (R269, R422). -/
def State.faultTrap (s : State) (as : List Access) (restart : W64) : State :=
  match firstFault as with
  | none => s
  | some (a, f) => s.raise { cause := f.cause, kind := f.kind, lanes := faultLanes as, pc := s.cw.pc,
                             addr := if f.cause = .regionFull then 0 else a.addr.setWidth 52, restart := some restart }

/-! ### Replay -/

/-- The restart word in force for the first instruction after a trap return (R271, R272). -/
def Welt.restartWord (w : Welt) : W64 :=
  match w.replay with
  | some n => (w.trap n).restart
  | none => 0
/-- The lanes and the first element that a lane replay runs: all of them when no replay is due (R272). -/
def Welt.replayLanes (w : Welt) : Lanes :=
  let r := w.restartWord
  if r.getLsbD 63 && !r.getLsbD 62 then r.setWidth 32 else BitVec.allOnes 32
/-- The first element of a lane replay (R272). -/
def Welt.replayElem (w : Welt) : Nat :=
  let r := w.restartWord
  if r.getLsbD 63 && !r.getLsbD 62 then field r 32 2 else 0
/-- The committed count of a compress-store replay (R272). -/
def Welt.replayCount (w : Welt) : Nat :=
  let r := w.restartWord
  if r.getLsbD 63 && r.getLsbD 62 then field r 0 5 else 0

/-! ### Shapes of register-only instructions -/

/-- A vector instruction with pure per-lane effect (R97, R123): sources read, `f` applied in each lane of E, A moved
past it. -/
def State.vecOp (s : State) (p : BitVec 2) (d : Deps) (price len : Nat) (f : Nat → Lane → Lane) : Result :=
  s.issue (s.E p) d price (.next (s.retire (s.cw.mapLanes (s.E p) f) len))

/-- A uniform or mask instruction (R124): one effect on the welt, whatever A is. -/
def State.uniOp (s : State) (d : Deps) (len : Nat) (w : Welt) : Result :=
  s.issue s.cw.A d 0 (.next (s.retire w len))

/-- A vector instruction that writes bits of a mask register for the lanes of E (R131). -/
def State.maskOp (s : State) (p : BitVec 2) (d : Deps) (len : Nat) (md : MReg) (f : Nat → Lane → Bool) : Result :=
  s.issue (s.E p) d 0 (.next (s.retire
    (let old := maskRead s.legacy s.cw md.toNat
     let new := Lanes.ofPred fun i => if (s.E p).getLsbD i then f i s.cw.lanes[i] else old.getLsbD i
     maskWrite s.legacy s.cw md.toNat new) len))

end Sys2Proof.Machine
end

