-- ==== Sys2Proof/Machine/Fetch.lean ====
section
/-!
DEFINITION. Fetching the instruction that a welt issues: spec/02 R27, R28, spec/04 R78-R81, R93-R95, spec/15 R458, spec/21
R431.
-/

namespace Sys2Proof.Machine

/-! ### Places in code -/

/-- The words of a segment from its header on (R78): the place of address `pc`, or `none` if no instruction or header
of the segment stands there. Walks at most `fuel` words. -/
def State.locate (s : State) (w : Welt) (target : Pc) : Nat → Pc → Pos → Option Pos
  | 0, _, _ => none
  | fuel + 1, a, p =>
    if a == target then some p
    else match s.fetchWord w w.level a with
      | .error _ => none
      | .ok x => match p with
        | .inside c n =>
          let len := if hasSecondWord x then 2 else 1
          if c = .control && n ≤ 1 then none
          else State.locate s w target fuel (a + BitVec.ofNat 48 (4 * len)) (Pos.next (.inside c n))
        | _ =>
          let h := Header.ofWord x
          if h.n = 0 then none else State.locate s w target fuel (a + 4) (.inside h.cls h.n)

/-- The place of a pc that a handler wrote (R413, R429): a segment start where such a header stands; else its place in
the lane's segment; else a header position (DEDUCED, log 17). -/
def State.placeOf (s : State) (w : Welt) (l : Lane) : Pos :=
  match l.pos with
  | .restored =>
    match s.fetchWord w w.level l.pc with
    | .ok x =>
      if isSegmentStart x then .start
      else (State.locate s w l.pc 4096 l.seg .start).getD .cont
    | .error _ => .cont
  | p => p

/-- What fetching leads to: an instruction to run in a state, or a state in which a trap of the fetch has been taken. -/
inductive Fetched where
  | run (i : Instr) (s : State)
  | took (s : State)

/-- A fault on fetch (R95 item 1), precise at the word. -/
def State.fetchTrap (s : State) (f : XFault) (hdr : Bool) : State :=
  s.raiseEarly { cause := f.cause, kind := f.kind, lanes := s.cw.A, pc := s.cw.pc, hdr := hdr }

/-- The lanes of A moved past a clause header (R78, R81). -/
def Welt.pastHeader (w : Welt) (h : Header) : Welt :=
  let a := w.A
  let pc := w.pc
  { (w.mapLanes a fun _ l => { l with
      pc := l.pc + 4, pos := .inside h.cls h.n, seg := if h.start then pc else l.seg }) with
    atStart := h.start }

/-- Whether a fetch watch of the core matches a word of the context (R431). -/
def State.fetchWatched (s : State) (a : Pc) : Bool :=
  (s.coreAt s.cg.core).watches.toList.any fun x => match x with
    | some k => k.ctx == s.cc.num && k.fetch && decide (a.toNat < k.base + k.size) && decide (k.base < a.toNat + 4)
    | none => false

/-- Whether a stitch may hold an instruction of a class (R36): cross-lane, matrix, copy, sync and system instructions
split it. -/
def stitchHolds (w : W32) (c : Cls) : Bool :=
  let op := w.extractLsb' 25 7
  c == .memory || c == .uniform || c == .control || (c == .vector && !(0x20#7 ≤ op && op ≤ 0x23#7))

/-- Whether MRD or MWR names an odd register of a pair (R191): a fault of R81 item 8, which comes before those of the
operands. -/
def oddRows (acc : Ty) (d : VReg) : Bool := acc == .f64 && d.toNat % 2 == 1

/-- Whether an instruction breaks a register-number rule that depends on the accumulator type of its stream (R81, R95
item 2, R191). -/
noncomputable def Welt.oddPair (w : Welt) : Instr → Bool
  | .mrd k _ d _ _ => oddRows (w.stream k.toNat).accEnd d
  | .mwr k _ d _ _ _ => oddRows (w.stream k.toNat).accEnd d
  | _ => false

/-- The instruction word at the pc, checked and decoded: fetch faults, ILLEGAL by clause, encoding or register number (R81, R93), a
fetch watch (R431), a wound at a segment start (R346), or the instruction. R28 puts the BREAK of a fetch watch at a point
that R95 does not list: it comes after ILLEGAL and before WOUND and EMPTY-READ (DEDUCED, log 35). No copy-class
instruction issues while a ratio change of the slice is pending (R392). -/
noncomputable def State.fetchInstr (s : State) (c : Cls) (n : Nat) : Fetched :=
  let core := s.cg.core
  let lvl := s.cw.level
  let pc := s.cw.pc
  match s.fetchWord s.cw lvl pc with
  | .error f => .took (s.fetchTrap f false)
  | .ok w =>
    match (if hasSecondWord w then s.fetchWord s.cw lvl (pc + 4) else .ok 0) with
    | .error f => .took (s.fetchTrap f false)
    | .ok x =>
      if !(wordFitsClass w c) || (c == .control && n != 1) then .run (.unassignedOpcode false) s
      else match decode w x with
        | .error _ => .run (.unassignedOpcode false) s
        | .ok i =>
          if s.cw.oddPair i then .run (.unassignedOpcode false) s
          else if c == .copy && ((s.coreAt core).slices.toList.getD s.cw.slice Slice.init).pending.isSome then
            .took (s.stall .copyQueue)
          else if s.fetchWatched pc then .took (s.raiseEarly { cause := .brk, lanes := s.cw.A, pc := pc })
          else if s.cw.woundDue && s.cw.atStart then .took (s.deliverWound s.cur s.cw.A pc)
          else .run i (if stitchHolds w c then s else s.splitStitch s.cur)

/-- The lines of an instruction word and of the word after it, fetched whole (R252). -/
def State.holdInstr (s : State) : State :=
  let t := s.holdCode s.cw.pc
  match t.fetchWord t.cw t.cw.level t.cw.pc with
  | .ok w => if hasSecondWord w then t.holdCode (t.cw.pc + 4) else t
  | .error _ => t

/-- The next instruction of the welt that issues: its clause header first where one stands at the pc (R78, R79, R81,
R458). -/
noncomputable def State.fetchNext (s : State) : Fetched :=
  match s.placeOf s.cw s.cw.lead with
  | .inside c n => s.holdInstr.fetchInstr c n
  | p =>
    let t := s.holdCode s.cw.pc
    match t.fetchWord t.cw t.cw.level t.cw.pc with
    | .error f => .took (t.fetchTrap f true)
    | .ok w =>
      let h := Header.ofWord w
      if h.n == 0 || h.reserved != 0 || h.start != (p == .start) then .run (.unassignedOpcode true) t
      else (t.setCw (t.cw.pastHeader h)).holdInstr.fetchInstr h.cls h.n

end Sys2Proof.Machine
end

