-- ==== Sys2Proof/Machine/Record.lean ====
section
/-!
DEFINITION. Launch records and what follows from them: level hierarchies (spec/02 R46-R49), validity (spec/15 R305,
R306), identities (spec/06 R143, R144), dependence boxes (R307, R311), the seed stack (R319), binding records (R409).
-/

namespace Sys2Proof.Machine

/-! ### Levels -/

/-- The descriptor of level `n` (R46). -/
def Launch.level (l : Launch) (n : Nat) : W64 := l.q (1 + n)
/-- V of a level: in use. -/
def Launch.used (l : Launch) (n : Nat) : Bool := decide (n < 8) && (l.level n).getLsbD 4
/-- The count of a level; 1 above the levels in use. -/
def Launch.count (l : Launch) (n : Nat) : Nat := if l.used n then field (l.level n) 32 32 else 1
/-- The domain of a level. -/
def Launch.domain (l : Launch) (n : Nat) : Nat := field (l.level n) 5 3
/-- The scope code of a level. -/
def Launch.scope (l : Launch) (n : Nat) : Nat := field (l.level n) 8 3
/-- The top level in use. -/
def Launch.topLevel (l : Launch) : Nat := ((List.range 8).filter l.used).foldl max 0
/-- The highest level of a domain. -/
def Launch.highest (l : Launch) (d : Nat) : Option Nat :=
  ((List.range 8).filter fun n => l.used n && l.domain n == d).getLast?
/-- The workgroup level (R47 item 8). -/
def Launch.wgLevel (l : Launch) : Nat := (l.highest 2).getD 2
/-- The product of the counts of levels `a` to `b`. -/
def Launch.product (l : Launch) (a b : Nat) : Nat :=
  ((List.range (b + 1)).filter fun n => decide (a ≤ n)).foldl (fun p n => p * l.count n) 1
/-- The welts of a workgroup (R47 item 8). -/
def Launch.weltCount (l : Launch) : Nat := l.product 2 l.wgLevel
/-- The workgroups of a gang (R47 item 9). -/
def Launch.gangSize (l : Launch) : Nat :=
  match l.highest 3 with
  | some n => l.product (l.wgLevel + 1) n
  | none => 1
/-- The workgroups of a launch. -/
def Launch.wgCount (l : Launch) : Nat := l.product (l.wgLevel + 1) l.topLevel

/-- The index of a unit at level `n` within its unit at level `n + 1`, for a lane of a welt of a logical workgroup
(R143, R144). -/
def Launch.unitIndex (l : Launch) (wg welt lane n : Nat) : Nat :=
  if l.topLevel ≤ n then 0
  else if n = 0 then lane
  else if n < l.wgLevel then welt / l.product 2 n % l.count (n + 1)
  else wg / l.product (l.wgLevel + 1) n % l.count (n + 1)

/-- `sr.levelid` (R144). -/
def levelId (wg welt : Nat) : W64 := BitVec.ofNat 64 (wg % 2 ^ 58 * 64 + welt % 64)

/-- The least scope of a domain (R47 item 6). -/
def leastScope (domain : Nat) : Nat := if domain ≤ 2 then domain else domain + 1

/-- The legality of a level hierarchy (R47). -/
def Launch.levelsOk (l : Launch) : Bool :=
  let top := l.topLevel
  (List.range 8).all fun n =>
    if top < n then l.level n == 0
    else
      l.used n && field (l.level n) 0 4 == 0 && field (l.level n) 11 21 == 0
      && decide (1 ≤ l.count n) && l.domain n != 7
      && (n != 0 || (l.domain 0 == 0 && l.count 0 == 1 && l.scope 0 == 0))
      && (n != 1 || (l.domain 1 == 1 && l.scope 1 == 1 && l.count 1 == (if l.legacy then 16 else 32)))
      && (n != 2 || l.domain 2 == 2)
      && (decide (n < 2) || decide (2 ≤ l.domain n))
      && (n == 0 || (decide (l.domain (n - 1) ≤ l.domain n) && decide (l.scope (n - 1) ≤ l.scope n)))
      && decide (leastScope (l.domain n) ≤ l.scope n)
      && (l.domain n != 6 || n == top)
  && decide (2 ≤ top) && (l.domain top == 5 || l.domain top == 6)
  && decide (l.weltCount ≤ 64)

/-! ### Resources (R16, R45, R232) -/

/-- The last of a workgroup in KiB (R305). -/
def Launch.lastKiB (l : Launch) : Nat := field (l.q 9) 19 10
/-- The accumulator share of a workgroup in KiB. -/
def Launch.accKiB (l : Launch) : Nat := field (l.q 9) 29 9
/-- The stash blocks of a workgroup. -/
def Launch.stashBlocks (l : Launch) : Nat := field (l.q 9) 13 6
/-- The priority of a launch. -/
def Launch.prio (l : Launch) : Nat := field (l.q 9) 47 3
/-- The gang field of a record. -/
def Launch.gangField (l : Launch) : Nat := field (l.q 9) 38 9
/-- The entry of a launch. -/
def Launch.entry (l : Launch) : Pc := (l.q 0).extractLsb' 0 48
/-- The saved vector registers of a thread (R305, R309). -/
def Launch.vregs (l : Launch) : Nat := field (l.q 9) 0 7 + 1
/-- The saved uniform registers of a welt. -/
def Launch.wregs (l : Launch) : Nat := field (l.q 9) 7 6 + 1
/-- The address of the group binding table. -/
def Launch.binding (l : Launch) : Nat := field (l.q 10) 0 52
/-- The completion record's address (R305). -/
def Launch.crec (l : Launch) : Nat := field (l.q 23) 0 52

/-- The core roles of a gang: min(g, 4) (R407, R408). -/
def Launch.roles (l : Launch) : Nat := min l.gangSize 4

/-- Whether a gang fits an empty cluster, its members spread over its core roles (R16, R45, R408). -/
def Launch.gangFits (l : Launch) : Bool :=
  let g := l.gangSize
  let k := (g + l.roles - 1) / l.roles
  decide (k * l.weltCount ≤ 96) && decide (k * l.lastKiB ≤ 512) && decide (k * l.accKiB ≤ 256)
    && decide (g * l.stashBlocks ≤ 352)

/-! ### The seed stack (R319) -/

/-- The child seed of a fork (R319). -/
def forkSeed (top : W64) (fidx : W32) (d : Nat) : W64 :=
  let y := philox fidx (BitVec.ofNat 32 d) 0x46524B00#32 0 top
  y.2.1 ++ y.1

/-- A stack with a seed operation applied, or `none` where the operation is illegal (R319). -/
def seedOp (stack : List W64) (op : Nat) (pseed : W64) (fidx : W32) : Option (List W64) :=
  match op with
  | 0 => some stack
  | 1 => if stack.length = 16 then none else some (stack ++ [pseed])
  | 2 => if stack.length ≤ 1 then none else some stack.dropLast
  | _ => if stack.length = 16 then none else some (stack ++ [forkSeed (stack.getLastD 0) fidx stack.length])

/-! ### Validity (R306) -/

/-- Whether the reserved fields of a record, and the fields marked zero, are zero (R305, R306). -/
def Launch.reservedOk (l : Launch) : Bool :=
  field (l.q 0) 48 16 == 0 && field (l.q 9) 52 12 == 0 && field (l.q 10) 52 12 == 0
    && field (l.q 12) 48 16 == 0 && field (l.q 12) 2 14 == 0 && field (l.q 14) 63 1 == 0
    && field (l.q 15) 48 15 == 0 && field (l.q 19) 52 12 == 0 && field (l.q 21) 52 12 == 0
    && field (l.q 23) 52 12 == 0 && (List.range 8).all (fun i => l.q (24 + i) == 0)
    && (field (l.q 12) 0 2 == 3 || field (l.q 12) 16 32 == 0)
    && (field (l.q 12) 0 2 == 1 || l.q 13 == 0)

/-- Whether a record is valid for a context whose next sequence number is `next` and a parent's seed stack (R306). -/
def Launch.valid (l : Launch) (next : Nat) (stack : List W64) : Bool :=
  l.levelsOk && l.gangField == l.gangSize && decide (1 ≤ l.gangField) && decide (l.gangField ≤ 384)
    && decide (l.lastKiB ≤ 512) && decide (l.accKiB ≤ 256) && l.accKiB % 4 == 0 && decide (l.stashBlocks ≤ 32)
    && l.gangFits && l.entry.extractLsb' 0 2 == 0 && l.binding % 64 == 0
    && (l.q 14 == 0 || (field (l.q 14) 0 21 + 1) * (field (l.q 14) 21 21 + 1) * (field (l.q 14) 42 21 + 1) == l.wgCount)
    && (seedOp stack (field (l.q 12) 0 2) (l.q 13) ((l.q 12).extractLsb' 16 32)).isSome
    && (!((l.q 15).getLsbD 63) || (decide (1 ≤ field (l.q 15) 0 48) && decide (field (l.q 15) 0 48 < next)))
    && l.reservedOk

/-! ### Dependence boxes (R307, R311) -/

/-- The extent of a grid dimension of a launch. -/
def Launch.extent (l : Launch) (d : Nat) : Nat :=
  if l.q 14 = 0 then (if d = 0 then l.wgCount else 1) else field (l.q 14) (21 * d) 21 + 1
/-- The grid coordinate of a workgroup in a dimension (R307). -/
def Launch.coord (l : Launch) (w d : Nat) : Nat :=
  match d with
  | 0 => w % l.extent 0
  | 1 => w / l.extent 0 % l.extent 1
  | _ => w / (l.extent 0 * l.extent 1)

/-- Whether a consumer's workgroup depends on workgroup `p` of its producer (R311). -/
def Launch.dependsOn (l prod : Launch) (c p : Nat) : Bool :=
  (List.range 3).all fun d =>
    let x := l.q (16 + d)
    let a := (x.extractLsb' 48 16).toInt * (l.coord c d : Int)
    decide ((x.extractLsb' 24 24).toInt + a ≤ (prod.coord p d : Int))
      && decide ((prod.coord p d : Int) ≤ (x.extractLsb' 0 24).toInt + a)

/-- The index of a launch of a context by its sequence number. -/
def State.launchIdx (s : State) (ctx seq : Nat) : Option Nat :=
  s.launches.findIdx? fun l => l.ctx == ctx && l.seq == seq
/-- The producer of a launch. -/
def State.producer (s : State) (l : Launch) : Option Launch :=
  if (l.q 15).getLsbD 63 then (s.launchIdx l.ctx (field (l.q 15) 0 48)).map s.launchAt else none
/-- Whether everything that a workgroup of a launch did is visible: no copy of it is in flight and no far atomic (R311,
R320). A copy that still waits for a slot of a buffer that is gone has not begun. -/
def State.quietWork (s : State) (launch : Nat) (p : Wg → Bool) : Bool :=
  (s.copies.all fun c => c.done || (c.cb.isSome && c.slot.isNone && (s.wgAt c.wg).st == .ended) || !((s.wgAt c.wg).launch == launch && p (s.wgAt c.wg)))
    && s.welts.all fun w => !((s.wgAt w.wg).launch == launch && p (s.wgAt w.wg)) || w.flights.all fun f => match f.kind with
      | .atom _ => false
      | _ => true

/-- Whether a workgroup of a launch is ready: its box is satisfied (R310, R311). -/
def State.boxSet (s : State) (l : Launch) (c : Nat) : Bool :=
  match (if (l.q 15).getLsbD 63 then s.launchIdx l.ctx (field (l.q 15) 0 48) else none) with
  | none => true
  | some i =>
    let p := s.launchAt i
    (p.join.any fun j => field j 0 8 == 0) ||
      (List.range p.wgCount).all fun k => !(l.dependsOn p c k)
        || (p.done.contains k && s.quietWork i fun g => g.logical == k)

/-! ### Acceptance (R308, R319) -/

/-- The image of a context that holds an address (R379). -/
def Ctx.imageAt (c : Ctx) (a : Pc) : Option Image := c.images.find? fun i => i.window == a.extractLsb' 32 16

/-- A launch as its record and its image describe it (R56, R90, R407). -/
def launchFrom (c : Ctx) (ctx : Nat) (words : List W64) (host : Bool) : Launch :=
  let l := { Launch.init with ctx := ctx, words := words, host := host }
  match c.imageAt l.entry with
  | some i => { l with interlocked := !i.matched, legacy := i.legacy, copyRoles := i.copyRoles, bankRoles := i.bankRoles }
  | none => l

/-- A valid launch accepted: its number, its seed stack, its place in the queues; dispatch is due (R308, R310, R319). -/
def State.accept (s : State) (l : Launch) (stack : List W64) : State :=
  let c := s.ctxAt l.ctx
  let st := (seedOp stack (field (l.q 12) 0 2) (l.q 13) ((l.q 12).extractLsb' 16 32)).getD stack
  let s1 := { s with launches := s.launches ++ [{ l with seq := c.nextSeq, seed := st }] }
  let s2 := s1.setCtxAt l.ctx { c with nextSeq := c.nextSeq + 1 }
  s2.post (.launchEnd s.launches.length)

/-! ### The group binding table (R407-R409) -/

/-- The members of a gang that have been dispatched, those that have ended too. -/
def State.membersOf (s : State) (launch gang : Nat) : List Wg :=
  s.wgs.filter fun g => g.launch == launch && g.gang == gang

/-- The core that binds a core role of a gang (R408): the one of the role's members, which placement gives to all of them,
those that have ended too. -/
def State.roleCore (s : State) (launch gang role : Nat) : Option Nat :=
  let l := s.launchAt launch
  if l.roles ≤ role then none
  else ((s.membersOf launch gang).find? fun g => g.logical % l.gangSize % l.roles == role).map (·.core)

/-- The bytes of a gang's binding record (R409): the copy roles bind the partition's engines of the quarter in order. -/
def State.bindingRecord (s : State) (launch gang : Nat) : List Byte :=
  let l := s.launchAt launch
  let c := (((s.membersOf launch gang).head?).map (·.core)).getD 0
  let engines := ((s.partNum (s.ctxAt l.ctx).part).engines.filter fun e => e.1 == quarterOf c).map (·.2)
  let byte (x : Option Nat) : Byte := BitVec.ofNat 8 (x.getD 0xFF)
  ((List.range 4).map fun r => byte ((s.roleCore launch gang r).map s.physCore))
    ++ [BitVec.ofNat 8 (quarterOf c), BitVec.ofNat 8 (s.physCore c / 4), 0, 0]
    ++ ((List.range 24).map fun r => if r < l.copyRoles then byte (engines[r % engines.length]?) else 0xFF)
    ++ ((List.range 32).map fun r => if r < l.bankRoles then byte (some r) else 0xFF)

/-- The scheduler writes a gang's binding record, if the launch has a table and every byte lies in writable device
memory (R409). -/
def State.writeBinding (s : State) (launch gang : Nat) : State :=
  let l := s.launchAt launch
  let a := l.binding + 64 * gang
  let device := match s.vaLocs l.ctx 0 .store a 64 with
    | .ok ls => ls.all fun x => match x with
      | .dev _ => true
      | _ => false
    | .error _ => false
  if l.binding ≠ 0 && device then (s.writeVA l.ctx 0 a (s.bindingRecord launch gang)).getD s else s

end Sys2Proof.Machine
end

