-- ==== Sys2Proof/Machine/Lanes.lean ====
section
/-!
DEFINITION. Collectives, identity reads and RNG: spec/02 R30, R31, R42, spec/06_integer_and_lane_instructions.md
R137-R146.
-/

namespace Sys2Proof.Machine

/-! ### Instances (R137, R139) -/

/-- The incomplete instance at the key that issues. -/
def Welt.collHere (w : Welt) : Option Coll :=
  w.colls.find? fun c => c.depth == w.lead.depth && c.pc == w.pc && c.wait == .none
/-- The instances with that one removed. -/
def Welt.otherColls (w : Welt) : List Coll :=
  w.colls.filter fun c => !(c.depth == w.lead.depth && c.pc == w.pc && c.wait == .none)
/-- An issue retires, after which the welt may have no live lane: then COLLECTIVE-MISMATCH (R31). -/
def State.retireHeld (s : State) (w : Welt) : State :=
  match w.mismatched with
  | none => s.retireWith w
  | some c =>
    let s1 := (s.setCw ((w.issued s.cw.A s.cw.pc s.cw.lead.depth).giveUp c)).noteIssue s.cg.core s.cw.slice
    s1.raise { cause := .collectiveMismatch, lanes := c.arrived, pc := c.pc, depth := some c.depth }

/-- The lanes of E arrive at a collective (R30, R31, R137): EXITED-MEMBER, completion by `fin` with the member set P, or
a hold. `fin` gives the welt with the results, or the trap of R139, which names P and is precise at the collective; the
members that have arrived are released. -/
def State.collective (s : State) (e mem : Lanes) (len : Nat) (fin : Lanes → Welt → Except Cause Welt) : State :=
  let w := s.cw
  let a := w.A
  if e = 0 then s.retire w len
  else
    let m := (match w.collHere with
      | some c => c.members
      | none => mem) ||| e
    let arr := (match w.collHere with
      | some c => c.arrived
      | none => 0) ||| e
    let free := { (w.hold (arr &&& m) false) with colls := w.otherColls }
    let trap (c : Cause) : State :=
      (s.setCw free).raise { cause := c, lanes := m, pc := w.pc, depth := some w.lead.depth }
    if m &&& w.exited ≠ 0 then trap .exitedMember
    else if m &&& ~~~arr = 0 then
      match fin m free with
      | .error c => trap c
      | .ok w' => s.retireWith (w'.advance (m ||| a) len)
    else
      let c : Coll := ⟨w.lead.depth, w.pc, m, arr, .none⟩
      s.retireHeld (({ w with colls := c :: w.otherColls }.hold e true).advance (a &&& ~~~e) len)

/-- A collective with vector results: `f` gives each member's result, flags the trap or the flags (R139). -/
def State.collVec (s : State) (p : BitVec 2) (d : Deps) (mem : MReg) (t : Ty) (vd : VReg)
    (f : Lanes → Welt → (Nat → W64) × FlagBits) : Result :=
  s.issue (s.E p) d 0 (.next (s.collective (s.E p) (maskRead s.legacy s.cw mem.toNat) 2 fun m w =>
    let r := f m w
    match fpTrap w.fpctl r.2 with
    | some c => .error c
    | none => .ok { (w.mapLanes m fun i l => l.wrTy t vd.toNat (r.1 i)) with fpctl := orFlags w.fpctl r.2 }))

/-- A collective with a mask result: the bits of P in M[md] (R140). -/
def State.collMask (s : State) (p : BitVec 2) (d : Deps) (mem md : MReg) (f : Lanes → Welt → Nat → Bool) : Result :=
  s.issue (s.E p) d 0 (.next (s.collective (s.E p) (maskRead s.legacy s.cw mem.toNat) 2 fun m w =>
    let old := maskRead s.legacy w md.toNat
    .ok (maskWrite s.legacy w md.toNat
      (Lanes.ofPred fun i => if m.getLsbD i then f m w i else old.getLsbD i))))

/-! ### What members ask and hand over (R140-R142) -/

/-- The value of a member's source. -/
def Welt.x (w : Welt) (t : Ty) (va : VReg) (j : Nat) : W64 := (w.lane j).rdTy t va.toNat
/-- The members whose source is not zero. -/
def Welt.nonzero (w : Welt) (m : Lanes) (va : VReg) : Lanes :=
  Lanes.ofPred fun j => m.getLsbD j && w.x .b32 va j != 0

/-- A PASS (R141): `src` gives the source lane of a lane and a distance. The value of a held lane is read at completion, which
R137 has as at arrival; where a handler has changed the register meanwhile, it is the changed one (DESIGN CHOICE, log 19). -/
def State.pass (s : State) (d a b : VReg) (ta tb : Bool) (p : BitVec 2) (z : Bool) (ty : Ty) (imm : BitVec 5)
    (im : Bool) (mem : MReg) (src : Nat → Nat → Option Nat) : Result :=
  let dep0 := ({} : Deps).src ta (regsOf ty a.toNat)
  s.collVec p ((if im then dep0 else dep0.src tb [b.toNat]).dst (regsOf ty d.toNat)) mem ty d fun m w =>
    (fun l =>
      let k := if im then imm.toNat else ((w.lane l).rd b.toNat).toNat
      let from_ := (src l k).map fun x => if s.legacy && decide (16 ≤ x) then x - 16 else x
      match from_ with
      | some x => if m.getLsbD x then w.x ty a x else if z then 0 else w.x ty a l
      | none => if z then 0 else w.x ty a l, 0)

/-- One addition, or choice, of a float FOLD (R122, R142): rounded RNE, with the flush bits (R104). -/
def foldNode (t : Ty) (fl : Bool) (op : Nat) (a b : FVal × FlagBits) : FVal × FlagBits :=
  let r := match op with
    | 0 => finish t fl .rne (addExact .rne (flushIn t fl a.1) (flushIn t fl b.1))
    | 1 => minMaxF false (flushIn t fl a.1) (flushIn t fl b.1)
    | _ => minMaxF true (flushIn t fl a.1) (flushIn t fl b.1)
  (r.1, a.2 ||| b.2 ||| r.2)

/-- One level of the tree of R122: neighbours joined, the lower block on the left. -/
def foldLevel {α : Type} (f : α → α → α) : List (Option α) → List (Option α)
  | a :: b :: t => (match a, b with
      | some x, some y => some (f x y)
      | some x, none => some x
      | none, y => y) :: foldLevel f t
  | l => l

/-- The fixed tree over 32 places (R122). -/
def foldTree {α : Type} (f : α → α → α) (l : List (Option α)) : Option α :=
  (foldLevel f (foldLevel f (foldLevel f (foldLevel f (foldLevel f l))))).headD none

/-- The members' values, place by place. -/
def memberVals (t : Ty) (w : Welt) (m : Lanes) (va : VReg) : List (Option (FVal × FlagBits)) :=
  (List.range 32).map fun j =>
    if m.getLsbD j then
      let x := flushIn t (flushes w.fpctl t) (decodeF t (w.x t va j))
      some (x, flagIf x.isSnan fNV)
    else none

/-- FOLD of numbers (R142): op 0 add, 1 min, 2 max. -/
def foldNumber (t : Ty) (op : Nat) (va : VReg) (m : Lanes) (w : Welt) : (Nat → W64) × FlagBits :=
  if t.isFloat then
    match foldTree (foldNode t (flushes w.fpctl t) op) (memberVals t w m va) with
    | some r => (fun _ => encodeF t r.1, r.2)
    | none => (fun _ => 0, 0)
  else
    let xs := (Lanes.nats m).map fun j => intOf t (w.x t va j)
    let z := match op with
      | 0 => xs.foldl (· + ·) 0
      | 1 => xs.foldl min (xs.headD 0)
      | _ => xs.foldl max (xs.headD 0)
    (fun _ => wrapTo t z, 0)

/-- FOLD of bits (R142). -/
def foldBits (t : Ty) (f : W64 → W64 → W64) (va : VReg) (m : Lanes) (w : Welt) : (Nat → W64) × FlagBits :=
  match (Lanes.nats m).map fun j => w.x t va j with
  | [] => (fun _ => 0, 0)
  | x :: xs => (fun _ => xs.foldl f x, 0)

/-- SCAN (R142): the sum of the members up to a lane, with it or without it, ascending, RNE at each addition (R122). -/
def scanSum (t : Ty) (inc : Bool) (va : VReg) (m : Lanes) (w : Welt) : (Nat → W64) × FlagBits :=
  let upTo (l : Nat) : List Nat := (Lanes.nats m).filter fun j => if inc then decide (j ≤ l) else decide (j < l)
  if t.isFloat then
    let vals := memberVals t w m va
    let sum (l : Nat) : FVal × FlagBits :=
      match (upTo l).filterMap fun j => vals.getD j none with
      | [] => (.fin false 0, 0)
      | x :: xs => xs.foldl (foldNode t (flushes w.fpctl t) 0) x
    (fun l => encodeF t (sum l).1, (Lanes.nats m).foldl (fun f l => f ||| (sum l).2) 0)
  else (fun l => wrapTo t ((upTo l).foldl (fun z j => z + intOf t (w.x t va j)) 0), 0)

/-- The dependences of a collective with one vector source and a vector destination. -/
def collDeps (t : Ty) (d a : VReg) (ta : Bool) : Deps :=
  (({} : Deps).src ta (regsOf t a.toNat)).dst (regsOf t d.toNat)

/-- POLL.MASK (R140): bit j says that member j's value is not zero. -/
def execPollMask (d a : BitVec 7) (ta : Bool) (p : BitVec 2) (mem : BitVec 4) (s : State) : Result :=
  s.collVec p (collDeps .b32 d a ta) mem .b32 d fun m w => (fun _ => (w.nonzero m a).setWidth 64, 0)

/-- POLL.SOME (R140). -/
def execPollSome (md : BitVec 4) (a : BitVec 7) (ta : Bool) (p : BitVec 2) (mem : BitVec 4) (s : State) : Result :=
  s.collMask p (({} : Deps).src ta (regsOf .b32 a.toNat)) mem md fun m w _ => w.nonzero m a != 0

/-- POLL.EVERY (R140). -/
def execPollEvery (md : BitVec 4) (a : BitVec 7) (ta : Bool) (p : BitVec 2) (mem : BitVec 4) (s : State) : Result :=
  s.collMask p (({} : Deps).src ta (regsOf .b32 a.toNat)) mem md fun m w _ => w.nonzero m a == m

/-- POLL.SAME (R140). -/
def execPollSame (md : BitVec 4) (a : BitVec 7) (ta : Bool) (p : BitVec 2) (ty : Ty) (mem : BitVec 4) (s : State) :
    Result :=
  s.collMask p (({} : Deps).src ta (regsOf ty a.toNat)) mem md fun m w _ =>
    (Lanes.nats m).all fun i => (Lanes.nats m).all fun j => w.x ty a i == w.x ty a j

/-- POLL.PEERS (R140): bit j says that member j's value is the lane's own. -/
def execPollPeers (d a : BitVec 7) (ta : Bool) (p : BitVec 2) (ty : Ty) (mem : BitVec 4) (s : State) : Result :=
  s.collVec p (({} : Deps).src ta (regsOf ty a.toNat) |>.dst [d.toNat]) mem .b32 d fun m w =>
    (fun l => (Lanes.ofPred fun j => m.getLsbD j && w.x ty a j == w.x ty a l).setWidth 64, 0)

/-- POLL.LEAD (R140): the lowest lane of P. -/
def execPollLead (md : BitVec 4) (p : BitVec 2) (mem : BitVec 4) (s : State) : Result :=
  s.collMask p {} mem md fun m _ i => (Lanes.nats m).head? == some i

/-- POLL.LEAD.w (R140): welt 0 of its workgroup. -/
def execPollLeadWelt (md : BitVec 4) (p : BitVec 2) (mem : BitVec 4) (s : State) : Result :=
  s.collMask p {} mem md fun _ w _ => w.index == 0

/-- POLL.COUNT (R140). -/
def execPollCount (d a : BitVec 7) (ta : Bool) (p : BitVec 2) (mem : BitVec 4) (s : State) : Result :=
  s.collVec p (collDeps .b32 d a ta) mem .b32 d fun m w =>
    (fun _ => BitVec.ofNat 64 (Lanes.count (w.nonzero m a)), 0)

/-- PASS.from (R141). -/
def execPassFrom (d a b : BitVec 7) (ta tb : Bool) (p : BitVec 2) (z : Bool) (ty : Ty) (imm : BitVec 5) (im : Bool)
    (mem : BitVec 4) (s : State) : Result :=
  s.pass d a b ta tb p z ty imm im mem fun _ k => some (k % 32)

/-- PASS.back (R141). -/
def execPassBack (d a b : BitVec 7) (ta tb : Bool) (p : BitVec 2) (z : Bool) (ty : Ty) (imm : BitVec 5) (im : Bool)
    (mem : BitVec 4) (s : State) : Result :=
  s.pass d a b ta tb p z ty imm im mem fun l k => if l < k then none else some (l - k)

/-- PASS.ahead (R141). -/
def execPassAhead (d a b : BitVec 7) (ta tb : Bool) (p : BitVec 2) (z : Bool) (ty : Ty) (imm : BitVec 5) (im : Bool)
    (mem : BitVec 4) (s : State) : Result :=
  s.pass d a b ta tb p z ty imm im mem fun l k => if 31 < l + k then none else some (l + k)

/-- PASS.swap (R141). -/
def execPassSwap (d a b : BitVec 7) (ta tb : Bool) (p : BitVec 2) (z : Bool) (ty : Ty) (imm : BitVec 5) (im : Bool)
    (mem : BitVec 4) (s : State) : Result :=
  s.pass d a b ta tb p z ty imm im mem fun l k => some (l ^^^ k % 32)

/-- PASS.turn (R141). -/
def execPassTurn (d a b : BitVec 7) (ta tb : Bool) (p : BitVec 2) (z : Bool) (ty : Ty) (imm : BitVec 5) (im : Bool)
    (mem : BitVec 4) (s : State) : Result :=
  s.pass d a b ta tb p z ty imm im mem fun l k => some ((l + k) % 32)

/-- FOLD.add (R142). -/
def execFoldAdd (d a : BitVec 7) (ta : Bool) (p : BitVec 2) (ty : Ty) (mem : BitVec 4) (s : State) : Result :=
  s.collVec p (collDeps ty d a ta) mem ty d (foldNumber ty 0 a)

/-- FOLD.min (R142). -/
def execFoldMin (d a : BitVec 7) (ta : Bool) (p : BitVec 2) (ty : Ty) (mem : BitVec 4) (s : State) : Result :=
  s.collVec p (collDeps ty d a ta) mem ty d (foldNumber ty 1 a)

/-- FOLD.max (R142). -/
def execFoldMax (d a : BitVec 7) (ta : Bool) (p : BitVec 2) (ty : Ty) (mem : BitVec 4) (s : State) : Result :=
  s.collVec p (collDeps ty d a ta) mem ty d (foldNumber ty 2 a)

/-- FOLD.and (R142). -/
def execFoldAnd (d a : BitVec 7) (ta : Bool) (p : BitVec 2) (ty : Ty) (mem : BitVec 4) (s : State) : Result :=
  s.collVec p (collDeps ty d a ta) mem ty d (foldBits ty (· &&& ·) a)

/-- FOLD.or (R142). -/
def execFoldOr (d a : BitVec 7) (ta : Bool) (p : BitVec 2) (ty : Ty) (mem : BitVec 4) (s : State) : Result :=
  s.collVec p (collDeps ty d a ta) mem ty d (foldBits ty (· ||| ·) a)

/-- FOLD.xor (R142). -/
def execFoldXor (d a : BitVec 7) (ta : Bool) (p : BitVec 2) (ty : Ty) (mem : BitVec 4) (s : State) : Result :=
  s.collVec p (collDeps ty d a ta) mem ty d (foldBits ty (· ^^^ ·) a)

/-- SCAN.inc (R142). -/
def execScanInc (d a : BitVec 7) (ta : Bool) (p : BitVec 2) (ty : Ty) (mem : BitVec 4) (s : State) : Result :=
  s.collVec p (collDeps ty d a ta) mem ty d (scanSum ty true a)

/-- SCAN.exc (R142). -/
def execScanExc (d a : BitVec 7) (ta : Bool) (p : BitVec 2) (ty : Ty) (mem : BitVec 4) (s : State) : Result :=
  s.collVec p (collDeps ty d a ta) mem ty d (scanSum ty false a)

/-! ### Identity and RNG -/

/-- The number of a flight that the welt starts next, and the welt with it recorded and its landing due (R53). -/
def Welt.launchFlight (w : Welt) (k : FlightKind) : Welt :=
  { w with flights := w.flights ++ [⟨w.nextFlight, w.order, k⟩], nextFlight := w.nextFlight + 1 }

/-- RNG (R146): the destinations become empty, and the counters fly to RNG_LAND. -/
def execRng (d a : BitVec 7) (ta : Bool) (p : BitVec 2) (s : State) : Result :=
  let regs (r : Nat) : List Nat := [r, r + 1, r + 2, r + 3]
  s.issue (s.E p) ((({} : Deps).src ta (regs a.toNat)).dst (regs d.toNat)) 1 (
    let e := s.E p
    let w := s.cw
    let elems := (Lanes.nats e).map fun i => (i, d.toNat, (w.lane i).rd a.toNat, (w.lane i).rd (a.toNat + 1),
      (w.lane i).rd (a.toNat + 2), (w.lane i).rd (a.toNat + 3))
    if e = 0 then .next (s.retire w 1)
    else
      let w1 := w.mapLanes e fun _ l => (((l.empty d.toNat).empty (d.toNat + 1)).empty (d.toNat + 2)).empty (d.toNat + 3)
      .next ((s.retire (w1.launchFlight (.rng elems)) 1).post (.rngLand s.cur w.nextFlight)))

/-- RNG_LAND (R146): Philox of each counter under the launch's seed, the four destinations full together. -/
def execRngLand (w n : Nat) (s : State) : Result :=
  let x := s.weltAt w
  match x.flights.find? fun f => f.num == n with
  | some ⟨_, _, .rng es⟩ =>
    let seed := (s.launchOf (s.wgAt x.wg)).top
    let x1 := es.foldl (fun x (e : Nat × Nat × W32 × W32 × W32 × W32) =>
      let y := philox e.2.2.1 e.2.2.2.1 e.2.2.2.2.1 e.2.2.2.2.2 seed
      x.mapLanes (BitVec.twoPow 32 e.1) fun _ l =>
        (((l.wr e.2.1 y.1).wr (e.2.1 + 1) y.2.1).wr (e.2.1 + 2) y.2.2.1).wr (e.2.1 + 3) y.2.2.2) x
    .next (s.setWeltAt w { x1 with flights := x.flights.filter fun f => f.num != n })
  | _ => .next s

/-- IDENT (R143): the lane, an index of the hierarchy, or the lane's key at this instruction. -/
def execIdent (d : BitVec 7) (sl : BitVec 8) (p : BitVec 2) (s : State) : Result :=
  if sl = 16 then s.vecOp p (({} : Deps).dst [d.toNat, d.toNat + 1]) 0 1 fun _ l =>
    l.wrTy .b64 d.toNat ({ l with h := false } : Lane).kv
  else s.vecOp p (({} : Deps).dst [d.toNat]) 0 1 fun i l =>
    l.wr d.toNat (if sl = 0 then BitVec.ofNat 32 i
      else BitVec.ofNat 32 (s.cl.unitIndex s.cg.logical s.cw.index i (sl.toNat - 1)))

end Sys2Proof.Machine
end

