-- ==== Sys2Proof/Machine/Access.lean ====
section
/-!
DEFINITION. Loads, stores, compress-stores, stash accesses and the stash block table: spec/12_memory_instructions.md
R267-R280, spec/09_fitted_regions.md R201-R205.
-/

namespace Sys2Proof.Machine

/-! ### Order within a welt -/

/-- The locations that a producer in flight will access. -/
def FlightKind.locs : FlightKind → List Loc
  | .load es => es.flatMap (·.locs)
  | .loadW _ _ _ ls => ls
  | .atom ops => ops.flatMap (·.locs)
  | _ => []

/-- Whether an access in flight of the welt shares a line with some locations. -/
def Welt.inFlight (w : Welt) (ls : List Loc) : Bool :=
  w.flights.any fun f => f.kind.locs.any fun l => ls.any fun m => l.line == m.line && l.line.1 != 5

/-- The locations of accesses that translate. -/
def accessLocs (as : List Access) : List Loc :=
  as.flatMap fun a => match a.locs with
    | .ok ls => ls
    | .error _ => []

/-- Whether an access goes to a host page while a ratio change of the welt's slice is pending: none issues then (R392). -/
def State.ratioHolds (s : State) (ls : List Loc) : Bool :=
  ((s.coreAt s.cg.core).slices.toList.getD s.cw.slice Slice.init).pending.isSome && ls.any fun l => match l with
    | .host _ _ => true
    | _ => false

/-- Whether an older access to a line of some locations is in flight: one of the current welt, or in a deterministic launch
one of its workgroup (R323; DEDUCED, log 20). -/
def State.inFlight (s : State) (ls : List Loc) : Bool :=
  s.cw.inFlight ls || (s.cl.det && (s.weltsOf s.cw.wg).any fun k => (s.weltAt k).inFlight ls)

/-- An access waits while an older access to one of its lines is in flight: one location is accessed in program order
(R246, R253); to a host page also while a ratio change is pending. -/
def State.inOrder (s : State) (ls : List Loc) (k : Result) : Result :=
  if s.inFlight ls || s.ratioHolds ls then .next (s.stall .order) else k

/-! ### Per-lane accesses -/

/-- Which lanes of E, and which elements of them, this issue accesses: a replay runs only what is left (R272). -/
def State.todo (s : State) (p : BitVec 2) : Lanes := s.E p &&& s.cw.replayLanes

/-- The lanes whose store would need an entry that its region has not free; all at once (R205, R270). -/
def State.regionFull (s : State) (as : List Access) : Lanes :=
  let offs (i : Nat) : List Nat := (accessLocs as).filterMap fun l => match l with
    | .region r off => if r = i then some off else none
    | _ => none
  Lanes.ofPred fun lane => (List.range s.regions.length).any fun i => match s.regions[i]? with
    | none => false
    | some r => decide (r.cap < r.exc.length + r.newEntries (offs i)) && as.any fun a => a.lane == lane.val &&
        match a.locs with
        | .ok ls => r.newEntries (ls.filterMap fun l => match l with
            | .region k off => if k = i then some off else none
            | _ => none) != 0
        | .error _ => false

/-- The accesses of a store with REGION-FULL entered as the failure of the lanes that need new entries (R205). -/
def State.withCapacity (s : State) (as : List Access) : List Access :=
  let full := s.regionFull as
  as.map fun a => match a.locs with
    | .ok ls => if full.getLsbD a.lane && ls.any (fun l => match l with
        | .region _ _ => true
        | _ => false) then { a with locs := .error ⟨.regionFull, 0⟩ } else a
    | .error _ => a

/-- The restart word of a lane replay (R271): the faulting lanes and the lowest first-faulting element. -/
def restartOf (as : List Access) : W64 :=
  let lanes := faultLanes as
  let elem := (as.filterMap fun a => match a.locs with
    | .error _ => some a.elem
    | .ok _ => none).foldl min 3
  BitVec.ofNat 64 (2 ^ 63 + elem % 4 * 2 ^ 32 + lanes.toNat)

/-- Whether an access comes before the first fault of its lane (R269). -/
def beforeFault (as : List Access) (a : Access) : Bool :=
  !(as.any fun b => b.lane == a.lane && decide (b.elem ≤ a.elem) && match b.locs with
    | .error _ => true
    | .ok _ => false)

/-- The register image of a loaded value (R267). -/
def loadImage (t : Ty) (x : W64) : W64 := imageOf t x

/-- A register destination of one lane written with a loaded value. -/
def Welt.land (w : Welt) (lane dst : Nat) (t : Ty) (x : W64) : Welt :=
  w.mapLanes (BitVec.twoPow 32 lane) fun _ l => l.wrTy t dst (loadImage t x)

/-- The destinations of some elements made empty (R53), or full with the values they have (R269). -/
def Welt.markDst (w : Welt) (lane dst : Nat) (t : Ty) (full : Bool) : Welt :=
  w.mapLanes (BitVec.twoPow 32 lane) fun _ l =>
    (regsOf t dst).foldl (fun l r => if full then l.fill r else l.empty r) l

/-- What a read of locations records: partials of their lines are combined first (R238), then the homes take note. -/
def State.reads (s : State) (core : Nat) (ls : List Loc) : State := (s.settle ls).readLines core ls

/-- One store of a party performed: partials combined, homes told, bytes written with their place in the coherence order,
which parties beyond its lanes see in their time (R236, R238, R246). -/
def State.stores (s : State) (r : Reader) (ls : List Loc) (bs : List Byte) : State :=
  let s1 := (((s.settle ls).touchLocs (s.coreOfWelt r.welt) true ls).addVeil r 0 ls).noteMessage r.welt s.nextVeil ls
  let out := (ls.zip bs).map fun x => if s.racing r.welt x.1 then s.undefByte x.1.pos else s.outByte x.1 x.2
  (s1.putLocs ls out).noteWrites (some r.welt) none (s1.spanOf ls)

/-- The translations of accesses entered in the TLBs (R405). -/
def State.fillTlbs (s : State) (as : List Access) : State :=
  as.foldl (fun s a => match a.va, a.locs with
    | some v, .ok _ => s.fillTlb s.cg.core s.cl.ctx v
    | _, _ => s) s

/-- A per-lane load from the accesses of its lanes (R269, R273): with no fault the values fly to LOAD_LAND; with one,
the good elements land now, the others keep their old values, full, and the trap is raised. -/
def State.loadLanes (s0 : State) (len : Nat) (t : Ty) (dst : Nat → Nat) (as : List Access) (extra : Welt → Welt) :
    Result :=
  let s := s0.fillTlbs as
  let w := s.cw
  let core := s.cg.core
  if s.watchLanes true false t.bytes as ≠ 0 then .next (s.watchTrap true false t.bytes as)
  else s.inOrder (accessLocs as) (
    match firstFault as with
    | none =>
      if as.isEmpty then .next (s.retire (extra w) len)
      else
        let elems := as.filterMap fun a => match a.locs with
          | .ok ls => some ({ lane := a.lane, dst := dst a.elem, ty := t, locs := ls } : Elem)
          | .error _ => none
        let w1 := as.foldl (fun w a => w.markDst a.lane (dst a.elem) t false) (extra w)
        .next ((s.retire (w1.launchFlight (.load elems)) len).post (.loadLand s.cur w.nextFlight))
    | some _ =>
      let good := as.filter (beforeFault as)
      let s2 := good.foldl (fun s a => match a.locs with
        | .ok ls => s.reads core ls
        | .error _ => s) s
      let s1 := good.foldl (fun s a => match a.locs with
        | .ok ls => s.noteSeen ⟨s.cur, BitVec.twoPow 32 a.lane⟩ ls
        | .error _ => s) s2
      let w1 := as.foldl (fun w a => match a.locs with
        | .ok ls => if beforeFault as a then w.land a.lane (dst a.elem) t (s1.seenLocs ⟨s.cur, BitVec.twoPow 32 a.lane⟩ ls)
                    else w.markDst a.lane (dst a.elem) t true
        | .error _ => w.markDst a.lane (dst a.elem) t true) (extra s1.cw)
      .next ((s1.setCw w1).faultTrap as (restartOf as)))

/-- A per-lane store from the accesses of its lanes (R270): every lane is checked before any takes effect; then the
lanes store in ascending order, each in ascending element order. -/
def State.storeLanes (s0 : State) (len : Nat) (size : Nat) (as : List Access) (val : Nat → Nat → W64) : Result :=
  let s := s0.fillTlbs as
  if s.watchLanes false true size as ≠ 0 then .next (s.watchTrap false true size as)
  else
    let bs := s.withCapacity as
    match firstFault bs with
    | some _ => .next (s.faultTrap bs 0)
    | none => s.inOrder (accessLocs as) (
        let s1 := as.foldl (fun s a => match a.locs with
          | .ok ls => s.stores ⟨s.cur, BitVec.twoPow 32 a.lane⟩ ls (bytesLE (val a.lane a.elem) size)
          | .error _ => s) s
        .next ((s1.clearBad (accessLocs as)).retire s1.cw len))

/-- The address of an element of a lane of the issuing welt (R267, R274). -/
def State.elemAddr (s : State) (wb : WReg) (i : VReg) (f : BitVec 2) (size : Nat) (disp : BitVec 13)
    (lane elem : Nat) : W64 :=
  memAddr s.cw (s.cw.lane lane) wb (i.toNat + elem * (if f = 3 then 2 else 1)) f size disp

/-- The data register of an element (R274). -/
def elemReg (t : Ty) (d : VReg) (elem : Nat) : Nat := d.toNat + elem * (if t.is64 then 2 else 1)
/-- The data registers of `n` elements. -/
def elemRegs (t : Ty) (d : VReg) (n : Nat) : List Nat := (List.range n).flatMap fun j => regsOf t (elemReg t d j)

/-- The accesses of a memory instruction: of the stash space, or of global memory. -/
def State.accesses (s : State) (stash : Bool) (as : List Access) : List Access :=
  if stash then s.stashAccesses as else as

/-- A load of `n` elements per lane, from element `j0` on, through a translation. -/
def State.loadOp (s : State) (d : VReg) (wb : WReg) (i : VReg) (f : BitVec 2) (t : Bool) (p : BitVec 2) (ty : Ty)
    (n len j0 : Nat) (disp : BitVec 13) (stash : Bool) (xl : W64 → Except XFault (List Loc)) : Result :=
  s.issue (s.todo p) ((memDeps {} t wb i.toNat f n).dst (elemRegs ty d n)) 0
    (s.loadLanes len ty (elemReg ty d)
      ((s.accesses stash (accessesOf (s.todo p) n (s.elemAddr wb i f ty.bytes disp) xl)).filter fun a =>
        decide (j0 ≤ a.elem)) id)

/-- A store of `n` elements per lane through a translation. -/
def State.storeOp (s : State) (d : VReg) (wb : WReg) (i : VReg) (f : BitVec 2) (t : Bool) (p : BitVec 2) (ty : Ty)
    (n len : Nat) (disp : BitVec 13) (stash : Bool) (xl : W64 → Except XFault (List Loc)) : Result :=
  s.issue (s.E p) ((memDeps {} t wb i.toNat f n).src t (elemRegs ty d n)) 0
    (s.storeLanes len ty.bytes (s.accesses stash (accessesOf (s.E p) n (s.elemAddr wb i f ty.bytes disp) xl))
      fun lane elem => (s.cw.lane lane).rdTy ty (elemReg ty d elem))

/-- Translation of a load of the issuing welt, errors consumed (R433). -/
def State.loadXlate (s : State) (size : Nat) (a : W64) : Except XFault (List Loc) :=
  s.consume (s.dataXlate .load size a)

/-- LD of a 4-byte type without a displacement (R268, R273). -/
def execLd (d : BitVec 7) (w : BitVec 6) (i : BitVec 7) (f : BitVec 2) (t : Bool) (p : BitVec 2) (s : State) : Result
    :=
  s.loadOp d w i f t p .b32 1 1 0 0 false (s.loadXlate 4)

/-- LD (R273). -/
def execLdX (d : BitVec 7) (w : BitVec 6) (i : BitVec 7) (f : BitVec 2) (t : Bool) (p : BitVec 2) (ty : Ty) (_cp :
    BitVec 2) (disp : BitVec 13) (s : State) : Result :=
  s.loadOp d w i f t p ty 1 2 0 disp false (s.loadXlate ty.bytes)

/-- The region whose image range an access starts in, if any (R203). -/
def State.imageAt (s : State) (a : W64) : Option (Nat × Region) :=
  if field a 52 12 ≠ 0 then none
  else match s.regionAt s.cl.ctx a.toNat with
    | some k => match s.regions[k]? with
      | some r => if a.toNat < r.base + r.imgSize then some (k, r) else none
      | none => none
    | none => none

/-- Byte `k` of an access that reads the fill value (R203). -/
def Region.fillByte (r : Region) (k : Nat) : Byte :=
  if r.ty = .nx then
    if r.slot = 4 then r.fill.setWidth 4 ++ r.fill.setWidth 4 else r.fill.setWidth 8
  else r.fill.extractLsb' (8 * (k % r.ty.bytes)) 8

/-- The region past whose image an access reaches, if any: some byte of it lies in the region's image range past the
image (R203). One that starts in the table area lies in no image range (R198, PAGE). An access that starts below the
region and reaches past a tiny image is such an access too (DEDUCED, log 29). -/
def State.pastImage (s : State) (size : Nat) (a : W64) : Option Region :=
  (List.range size).findSome? fun k => match s.imageAt (a + BitVec.ofNat 64 k) with
    | some (_, r) => if r.base + r.bytes ≤ a.toNat + k then some r else none
    | none => none

/-- Whether an access starts in the image range of a region with no bytes past its image, and runs into its table area:
that reaches past the image as well (DEDUCED, log 29). -/
def State.pastRange (s : State) (size : Nat) (a : W64) : Option Region :=
  match s.imageAt a with
  | some (_, r) => if r.bytes < a.toNat - r.base + size then some r else none
  | none => none

/-- Translation of a probe: an access that reaches past an image reads the fill value and raises no REGION-DOMAIN
(R203). -/
def State.probeXlate (s : State) (size : Nat) (a : W64) : Except XFault (List Loc) :=
  match (s.pastRange size a).orElse fun _ => s.pastImage size a with
  | some r => .ok ((List.range size).map fun k => .byte (r.fillByte k))
  | none => s.loadXlate size a

/-- The probe's bit: the access lies wholly inside an image or outside every region (R203, R273). -/
def State.probeBit (s : State) (size : Nat) (a : W64) : Bool :=
  (match s.imageAt a with
    | some (_, r) => decide (a.toNat + size ≤ r.base + r.bytes)
    | none => false)
  || (List.range size).all fun k => (s.regionAt s.cl.ctx (a + BitVec.ofNat 64 k).toNat).isNone

/-- LD.probe (R203, R273): a load with the output mask; the bits of lanes that fault stay as they are. -/
def execLdProbe (d : BitVec 7) (w : BitVec 6) (i : BitVec 7) (f : BitVec 2) (t : Bool) (p : BitVec 2) (ty : Ty) (md :
    BitVec 4) (_cp : BitVec 2) (disp : BitVec 13) (s : State) : Result :=
  s.issue (s.todo p) ((memDeps {} t w i.toNat f 1).dst (regsOf ty d.toNat)) 0 (
    let as := accessesOf (s.todo p) 1 (s.elemAddr w i f ty.bytes disp) (s.probeXlate ty.bytes)
    let good := s.todo p &&& ~~~(faultLanes as)
    let old := maskRead s.legacy s.cw md.toNat
    let new := Lanes.ofPred fun l => if good.getLsbD l
      then s.probeBit ty.bytes (s.elemAddr w i f ty.bytes disp l 0) else old.getLsbD l
    s.loadLanes 2 ty (fun _ => d.toNat) as fun x => maskWrite s.legacy x md.toNat new)

/-- ST of a 4-byte type without a displacement (R268, R273). -/
def execSt (d : BitVec 7) (w : BitVec 6) (i : BitVec 7) (f : BitVec 2) (t : Bool) (p : BitVec 2) (s : State) : Result
    :=
  s.storeOp d w i f t p .b32 1 1 0 false (s.dataXlate .store 4)

/-- ST (R273). -/
def execStX (d : BitVec 7) (w : BitVec 6) (i : BitVec 7) (f : BitVec 2) (t : Bool) (p : BitVec 2) (ty : Ty) (_cp :
    BitVec 2) (disp : BitVec 13) (s : State) : Result :=
  s.storeOp d w i f t p ty 1 2 disp false (s.dataXlate .store ty.bytes)

/-- LDX (R274): a gather of up to four elements per lane. -/
def execLdx (d : BitVec 7) (w : BitVec 6) (i : BitVec 7) (f : BitVec 2) (t : Bool) (p : BitVec 2) (ty : Ty) (n _cp :
    BitVec 2) (disp : BitVec 13) (s : State) : Result :=
  s.loadOp d w i f t p ty (n.toNat + 1) 2 s.cw.replayElem disp false (s.loadXlate ty.bytes)

/-- STX (R274): a scatter of up to four elements per lane. -/
def execStx (d : BitVec 7) (w : BitVec 6) (i : BitVec 7) (f : BitVec 2) (t : Bool) (p : BitVec 2) (ty : Ty) (n _cp :
    BitVec 2) (disp : BitVec 13) (s : State) : Result :=
  s.storeOp d w i f t p ty (n.toNat + 1) 2 disp false (s.dataXlate .store ty.bytes)

/-- The elements of a compress-store from the committed count on, one after another, up to the first that fails: the
state so far and that element with its fault (R275, R205). -/
def State.compress (size : Nat) : List (Access × W64) → State → State × Option (Access × XFault)
  | [], s => (s, none)
  | (a, v) :: rest, s =>
    match (s.withCapacity [a]).head?.map Access.locs with
    | some (.ok ls) => State.compress size rest (s.stores ⟨s.cur, BitVec.twoPow 32 a.lane⟩ ls (bytesLE v size))
    | some (.error f) => (s, some (a, f))
    | none => (s, none)

/-- STC (R275): the values of E packed from the address of its lowest lane; a fault keeps what went before. Its trap gives the
address of the element, also with REGION-FULL, where R205 and R422 name none (DESIGN CHOICE, log 29). -/
def execStc (d : BitVec 7) (w : BitVec 6) (i : BitVec 7) (f : BitVec 2) (t : Bool) (p : BitVec 2) (ty : Ty) (_cp :
    BitVec 2) (disp : BitVec 13) (s : State) : Result :=
  s.issue (s.E p) ((memDeps {} t w i.toNat f 1).src t (regsOf ty d.toNat)) 0 (
    let e := s.E p
    match (Lanes.nats e).head? with
    | none => .next (s.retire s.cw 2)
    | some l0 =>
      let a0 := s.elemAddr w i f ty.bytes disp l0 0
      let as : List Access := (Lanes.nats e).zipIdx.map fun x =>
        let a := a0 + BitVec.ofNat 64 (x.2 * ty.bytes)
        ⟨x.1, x.2, a, some a, s.dataXlate .store ty.bytes a⟩
      let due := as.filter fun a => decide (s.cw.replayCount ≤ a.elem)
      if s.watchLanes false true ty.bytes due ≠ 0 then .next (s.watchTrap false true ty.bytes due)
      else s.inOrder (accessLocs due) (
        let r := State.compress ty.bytes (due.map fun a => (a, (s.cw.lane a.lane).rdTy ty d.toNat)) (s.fillTlbs due)
        match r.2 with
        | none => .next ((r.1.clearBad (accessLocs due)).retire r.1.cw 2)
        | some (a, x) => .next (r.1.raise {
            cause := x.cause
            kind := x.kind
            lanes := BitVec.twoPow 32 a.lane
            pc := s.cw.pc
            addr := a.addr.setWidth 52
            restart := some (BitVec.ofNat 64 (2 ^ 63 + 2 ^ 62 + a.elem)) })))

/-- A fault of a uniform access (R270): it names the lanes of A, and leaves no restart. It gives the address of the access, also
with REGION-FULL, where R205 and R422 name none (DESIGN CHOICE, log 29). -/
def State.uniFault (s : State) (a : W64) (f : XFault) : State :=
  s.raise { cause := f.cause, kind := f.kind, lanes := s.cw.A, pc := s.cw.pc, addr := a.setWidth 52, restart := some 0 }

/-- BREAK of a data watch on a uniform access (R431). -/
def State.uniWatch (s : State) (a : W64) : State :=
  s.raise { cause := .brk, lanes := s.cw.A, pc := s.cw.pc, addr := a.setWidth 52 }

/-- LDW (R276): one value for the welt. -/
def execLdw (d a : BitVec 6) (ta : Bool) (ty : Ty) (_cp : BitVec 2) (s : State) : Result :=
  s.issue s.cw.A ((({} : Deps).wsrc ta a.toNat).wdst d.toNat) 0 (
    let x := s.cw.rdW a.toNat
    if s.watched true false x ty.bytes then .next (s.uniWatch x)
    else match s.loadXlate ty.bytes x with
      | .error f => .next (s.uniFault x f)
      | .ok ls => s.inOrder ls (
          let s := s.fillTlb s.cg.core s.cl.ctx x
          .next ((s.retire ((s.cw.emptyW d.toNat).launchFlight (.loadW d ty s.cw.A ls)) 2).post
            (.loadLand s.cur s.cw.nextFlight))))

/-- STW (R276): one value for the welt. -/
def execStw (a b : BitVec 6) (ta tb : Bool) (ty : Ty) (_cp : BitVec 2) (s : State) : Result :=
  s.issue s.cw.A ((({} : Deps).wsrc ta a.toNat).wsrc tb b.toNat) 0 (
    let x := s.cw.rdW a.toNat
    if s.watched false true x ty.bytes then .next (s.uniWatch x)
    else
      let as := s.withCapacity [⟨0, 0, x, some x, s.dataXlate .store ty.bytes x⟩]
      match as.head?.map Access.locs with
      | some (.ok ls) => s.inOrder ls (
          let s0 := s.fillTlb s.cg.core s.cl.ctx x
          let s1 := (s0.stores ⟨s.cur, s.cw.A⟩ ls (bytesLE (s.cw.rdW b.toNat) ty.bytes)).clearBad ls
          .next (s1.retire s1.cw 2))
      | some (.error f) => .next (s.uniFault x f)
      | none => .next s)

/-- LDS (R277): a load from the stash space. -/
def execLds (d : BitVec 7) (w : BitVec 6) (i : BitVec 7) (f : BitVec 2) (t : Bool) (p : BitVec 2) (ty : Ty) (disp :
    BitVec 13) (s : State) : Result :=
  s.loadOp d w i f t p ty 1 2 0 disp true fun a => s.consume (s.stashXlate .load ty.bytes a)

/-- STS (R277): a store to the stash space. -/
def execSts (d : BitVec 7) (w : BitVec 6) (i : BitVec 7) (f : BitVec 2) (t : Bool) (p : BitVec 2) (ty : Ty) (disp :
    BitVec 13) (s : State) : Result :=
  s.storeOp d w i f t p ty 1 2 disp true (s.stashXlate .store ty.bytes)

/-- PREF (R278): asks for lines; it raises no lane fault and changes no value. -/
def execPref (w : BitVec 6) (i : BitVec 7) (f : BitVec 2) (t : Bool) (p _cp : BitVec 2) (_disp : BitVec 13) (s :
    State) : Result :=
  s.issue (s.E p) (memDeps {} t w i.toNat f 1) 0 (.next (s.retire s.cw 2))

/-- The values of a flight that has landed, in the registers that wait for them (R53). A value is fixed as it lands: what
its party sees then (R246). A uniform load is a load of every lane that issued it. -/
def State.landFlight (s : State) (w : Nat) (k : FlightKind) : State :=
  let core := s.coreOfWelt w
  match k with
  | .load elems =>
    let s1 := elems.foldl (fun s e => s.reads core e.locs) s
    let s2 := elems.foldl (fun s e => s.noteSeen ⟨w, BitVec.twoPow 32 e.lane⟩ e.locs) s1
    s2.setWeltAt w (elems.foldl (fun x e =>
      x.land e.lane e.dst e.ty (s1.seenLocs ⟨w, BitVec.twoPow 32 e.lane⟩ e.locs)) (s2.weltAt w))
  | .loadW d ty lanes ls =>
    let s1 := s.reads core ls
    let s2 := s1.noteSeenAll ⟨w, lanes⟩ ls
    s2.setWeltAt w ((s2.weltAt w).wrW d.toNat (extendW ty (s1.seenLocs ⟨w, lanes⟩ ls)))
  | .value elems =>
    s.setWeltAt w (elems.foldl (fun x (e : Nat × Nat × Ty × W64) => x.land e.1 e.2.1 e.2.2.1 e.2.2.2) (s.weltAt w))
  | .word d v => s.setWeltAt w ((s.weltAt w).wrW d.toNat v)
  | _ => s

/-- A flight taken off its welt. -/
def State.dropFlight (s : State) (w n : Nat) : State :=
  let x := s.weltAt w
  s.setWeltAt w { x with flights := x.flights.filter fun f => f.num != n }

/-- LOAD_LAND (R53, R269, R273): the values of a load, or the old values of an atomic, land, or values that were fixed before
(`State.fixLoad`). -/
def execLoadLand (w n : Nat) (s : State) : Result :=
  match (s.weltAt w).flights.find? fun f => f.num == n with
  | some f => match f.kind with
    | .load _ | .loadW _ _ _ _ | .value _ | .word _ _ => .next (((s.landFlight w f.kind).dropFlight w n).settleTxn w)
    | _ => .next s
  | none => .next s

/-! ### The stash block table (R231, R279) -/

/-- A block of the issuing workgroup's table. -/
def Wg.block (g : Wg) (b : Nat) : W64 := g.blocks.toList.getD b 0
/-- Whether a block exists, for a block number held whole in a register. -/
def Wg.hasBlock (g : Wg) (b : W64) : Bool := decide (b.toNat < 32) && (g.block b.toNat).getLsbD 63
/-- A block bound to a range, or made scratch and zero. SP stays (R279). -/
def Wg.bind (g : Wg) (b : Nat) (base : Option W64) : Wg :=
  let keep := g.block b &&& 0xA000000000000000#64
  { g with
    blocks := g.blocks.setIfInBounds b (match base with
      | some a => keep ||| 0x4000000000000000#64 ||| (a &&& 0x000FFFFFFFFF0000#64)
      | none => keep)
    stash := g.stash.filter fun c => c.1 / 65536 != b }

/-- Why a range cannot be bound: its translation (R279, R206); a host page lacks what the block needs (kind 3). -/
def State.mapFault (s : State) (a : W64) : Option XFault :=
  match s.translate (some s.cg.core) s.cl.ctx s.cw.level .both a with
  | .error f => some f
  | .ok (.dev _) => none
  | .ok _ => some ⟨.page, 3⟩

/-- The dirty lines of a mapped block. -/
def State.blockDirty (s : State) (g b : Nat) : List LineKey :=
  (s.cached.filter fun c => s.inBlock g b c && c.dirty).map (·.line)

/-- The stores to the dirty lines of a mapped block that some party may not see yet. -/
def State.blockStores (s : State) (g b : Nat) : List Nat :=
  let dirty := s.blockDirty g b
  (s.veils.filter fun v => v.bytes.any fun x => dirty.contains x.1.line).map (·.num)

/-- The issuing welt's accesses in flight to a block come before a change of it in program order (R246, R279). -/
def State.blockOrder (s : State) (b : Nat) (k : Result) : Result :=
  if s.cw.flights.any fun f => f.kind.locs.any fun l => match l with
    | .stash g off | .block g off _ => g == s.cw.wg && off / 65536 == b
    | _ => false
  then .next (s.stall .order) else k

/-- A change of a block of the issuing workgroup by STUNMAP or STFLUSH (R280): it completes once the write-backs of its dirty
lines have been acknowledged, at once where there are none; until then the welt waits. -/
def State.rebind (s : State) (b : Nat) (f : State → State) : Result :=
  match s.cg.rebinding.find? fun r => r.block == b && r.welt == s.cur with
  | some r =>
    if r.done then
      let s1 := s.setCg { s.cg with rebinding := s.cg.rebinding.erase r }
      .next (s1.retire s1.cw 1)
    else .next (s.stall .order)
  | none => s.blockOrder b (
      if (s.blockDirty s.cw.wg b).isEmpty then .next ((f s).retire (f s).cw 1)
      else
        let stores := s.blockStores s.cw.wg b
        let s1 := f s
        .next ((s1.setCg { s1.cg with rebinding := s1.cg.rebinding ++ [⟨b, s.cur, stores, false⟩] }).stall .order))

/-- STMAP (R279, R280): it completes as the table entry is written. Its traps of ILLEGAL come before PAGE (DEDUCED, log 21). -/
def execStmap (a b : BitVec 6) (ta : Bool) (s : State) : Result :=
  s.issue s.cw.A ((({} : Deps).wsrc ta a.toNat).wsrc false b.toNat) 0 (
    let g := s.cg
    let k := s.cw.rdW a.toNat
    let x := s.cw.rdW b.toNat
    if !(g.hasBlock k) || (g.block k.toNat).getLsbD 62 || field x 0 16 != 0 || field x 52 12 != 0
        || (List.range 32).any fun j => (g.block j).getLsbD 62 && field (g.block j) 16 36 == field x 16 36
    then .next s.illegal
    else match s.mapFault x with
      | some f => .next (s.uniFault x f)
      | none =>
        s.blockOrder k.toNat (
          let s0 := (s.setCg (g.bind k.toNat (some x))).leaveL1 s.cw.wg k.toNat
          let s1 : State := { s0 with copies := s0.copies.map fun c => if c.observed then c else c.noteBound s0 }
          .next (s1.retire s1.cw 1)))

/-- STUNMAP (R279, R280): the block's lines are written back and given up; it becomes scratch and reads as zero. -/
def execStunmap (a : BitVec 6) (ta : Bool) (s : State) : Result :=
  s.issue s.cw.A (({} : Deps).wsrc ta a.toNat) 0 (
    let k := s.cw.rdW a.toNat
    if s.cg.hasBlock k then
      s.rebind k.toNat fun s =>
        let s1 := s.dropBlock s.cw.wg k.toNat
        s1.setCg (s1.cg.bind k.toNat none)
    else .next s.illegal)

/-- STFLUSH (R279, R280): a mapped block's dirty lines are written back and stay, clean. -/
def execStflush (a : BitVec 6) (ta : Bool) (s : State) : Result :=
  s.issue s.cw.A (({} : Deps).wsrc ta a.toNat) 0 (
    let k := s.cw.rdW a.toNat
    if s.cg.hasBlock k && (s.cg.block k.toNat).getLsbD 62 then
      s.rebind k.toNat fun s => s.flushBlock s.cw.wg k.toNat
    else .next s.illegal)

end Sys2Proof.Machine
end

