-- ==== Sys2Proof/Machine/Atomics.lean ====
section
/-!
DEFINITION. Atomics, commutative ranges and fences: spec/12_memory_instructions.md R281-R288, spec/10_memory_spaces.md
R237-R243, spec/11_ordering_rules.md R248.
-/

namespace Sys2Proof.Machine

/-! ### Carrying atomics out (R240, R243) -/

/-- The operations of one instruction in the order in which its lanes are applied; R240 promises none (log 9). -/
def orderOps (order : List (Fin 32)) (ops : List AtomOp) : List AtomOp :=
  let first := order.filterMap fun i => ops.find? fun o => o.lane == i.val
  first.eraseDups ++ ops.filter fun o => !(first.contains o)

/-- One operation of a welt carried out, near in its core or far at the home (R240): partials of its line are combined
(R238), the homes told, its location read and written. The welt observes the store that it read (R248); every party sees
what it writes, with the stores that a cumulative fence of the welt ordered before it. -/
def State.doAtom (s : State) (w : Nat) (near : Bool) (o : AtomOp) : State × W64 × FlagBits :=
  let s1 := s.settle o.locs
  let s2 := if near then s1.touchLocs (s1.coreOfWelt w) true o.locs else s1.homeTouch true o.locs
  let r := ((s2.noteNums w (s2.newest o.locs)).hearLoad ⟨w, BitVec.twoPow 32 o.lane⟩ o.locs).applyAtom o
  let s3 := if (r.1.weltAt w).cum.isEmpty then r.1 else r.1.addVeil ⟨w, BitVec.twoPow 32 o.lane⟩ 7 o.locs
  let s4 := s3.noteMessage w s2.nextVeil o.locs
  (s4.noteWrites (some w) none (s4.spanOf o.locs), r.2)

/-- Operations carried out one at a time: the state, the old values for the lanes that want them, the conditions. -/
def State.doAtoms (w : Nat) (near : Bool) : List AtomOp → State → State × List (Nat × Nat × Ty × W64) × FlagBits
  | [], s => (s, [], 0)
  | o :: rest, s =>
    let r := s.doAtom w near o
    let q := State.doAtoms w near rest r.1
    (q.1, (match o.dst with
      | some d => [(o.lane, d, o.ty, r.2.1)]
      | none => []) ++ q.2.1, r.2.2 ||| q.2.2)

/-- Conditions ORed into a welt's flags (R111, R282). -/
def State.weltFlags (s : State) (w : Nat) (f : FlagBits) : State :=
  let x := s.weltAt w
  s.setWeltAt w { x with fpctl := orFlags x.fpctl f }

/-- Whether an operation is carried out near: its line is held exclusively by the core (R240). -/
def State.isNear (s : State) (core : Nat) (o : AtomOp) : Bool :=
  match o.locs.head? with
  | some (.dev a) => s.exclusive core a
  | _ => false

/-- The device lines of some operations that the core does not hold exclusively reach their homes, which classify their
pages: a first access may make a page private to the core, and the atomic near (R235, R240). -/
def State.classifyAtoms (s : State) (core : Nat) (ops : List AtomOp) : State :=
  ops.foldl (fun s o => match o.locs.head? with
    | some (.dev a) => if s.exclusive core a then s else s.classify core a
    | _ => s) s

/-- The lines of host memory among the locations of some operations. -/
def hostLines (ops : List AtomOp) : List LineKey :=
  ((ops.flatMap (·.locs)).map Loc.line).eraseDups.filter fun k => k.1 == 1

/-- The operations of an instruction that the issuing welt carries out at once, near ones in its core: those of a replay
that ends in a trap. -/
def State.runNow (s0 : State) (ops : List AtomOp) : State × List (Nat × Nat × Ty × W64) :=
  let core := s0.cg.core
  let s := s0.classifyAtoms core ops
  let order := Config.atomicOrder s.tick
  let r := State.doAtoms s.cur true (orderOps order (ops.filter (s.isNear core))) s
  let q := State.doAtoms s.cur false (orderOps order (ops.filter fun o => !(s.isNear core o))) r.1
  (q.1.weltFlags s.cur (r.2.2 ||| q.2.2), r.2.1 ++ q.2.1)

/-- The operations of an instruction started (R240): the near ones are carried out now, the far ones fly to the home's
engine. Old values land as a load's do. -/
def State.startAtoms (s0 : State) (len : Nat) (ops : List AtomOp) : State :=
  let core := s0.cg.core
  let s := s0.classifyAtoms core ops
  let near := orderOps (Config.atomicOrder s.tick) (ops.filter (s.isNear core))
  let far := ops.filter fun o => !(s.isNear core o)
  let r := State.doAtoms s.cur true near s
  let s1 := r.1.weltFlags s.cur r.2.2
  let w0 := ops.foldl (fun w o => match o.dst with
    | some d => w.markDst o.lane d o.ty false
    | none => w) s1.cw
  let w1 := if r.2.1.isEmpty then w0 else w0.launchFlight (.value r.2.1)
  let w2 := if far.isEmpty then w1 else w1.launchFlight (.atom far)
  let s2 := s1.retire w2 len
  let s3 := if r.2.1.isEmpty then s2 else s2.post (.loadLand s.cur w0.nextFlight)
  if far.isEmpty then s3 else s3.post (.farAtomic s.cur w1.nextFlight)

/-- FAR_ATOMIC (R240): the engine carries the operations out, one indivisible read-modify-write each. -/
def execFarAtomic (w n : Nat) (s : State) : Result :=
  match (s.weltAt w).flights.find? fun f => f.num == n with
  | some ⟨_, order, .atom ops⟩ =>
    let r := State.doAtoms w false (orderOps (Config.atomicOrder s.tick) ops) s
    let s1 := r.1.weltFlags w r.2.2
    if r.2.1.isEmpty then .next ((s1.dropFlight w n).settleTxn w)
    else
      let x := s1.weltAt w
      let fs : List Flight := x.flights.map fun f => if f.num == n then ⟨n, order, .value r.2.1⟩ else f
      .next ((s1.setWeltAt w { x with flights := fs }).post (.loadLand w n))
  | _ => .next s

/-! ### Buffered atomics (R241, R284) -/

/-- The entries that stand in a core's deterministic buffer. -/
def State.detCount (s : State) (core : Nat) : Nat :=
  (s.wgs.map fun g => if g.core == core && g.st == .resident then g.detBuf.length else 0).sum
/-- The entries that the context's overflow area has room for. -/
def Ctx.detRoom (c : Ctx) : Nat := c.detSize / 32 - c.detArea.length

/-- Entries recorded in the core's buffer of 4,096; from a full buffer the workgroup's oldest move into the context's
overflow area; none is recorded where both together have no room (R241). -/
def State.bufferAtoms (s : State) (es : List DetEntry) : Option State :=
  let g := s.cg
  let excess := s.detCount g.core + es.length - 4096
  let all := g.detBuf ++ es
  if excess ≤ s.cc.detRoom then
    let s1 := s.setCg { g with detBuf := all.drop excess }
    some (if excess = 0 then s1 else s1.setCtxAt s.cl.ctx { s.cc with detArea := s.cc.detArea ++ all.take excess })
  else none

/-- The value that a load of a location by the lane would return; partials of the line are combined before it (R238,
R284). -/
def State.wouldLoad (s : State) (o : AtomOp) : W64 := (s.settle o.locs).seenLocs ⟨s.cur, BitVec.twoPow 32 o.lane⟩ o.locs

/-- The entry of a lane's operation with its key (R241, R284). -/
def State.entryOf (s : State) (o : AtomOp) (addr : W64) : DetEntry where
  launch := s.cg.launch
  wg := s.cg.logical
  welt := s.cw.index
  lane := o.lane
  order := s.cw.order
  level := s.cw.level
  addr := addr.toNat
  op := o

/-- The entries of an instruction recorded; with a return, the destinations take the values of the locations now
(R284). -/
def State.recordAtoms (s : State) (ops : List AtomOp) (addr : Nat → W64) : Option State :=
  let t := if ops.all fun o => o.dst.isNone then s else s.settle (ops.flatMap (·.locs))
  (t.bufferAtoms (ops.map fun o => s.entryOf o (addr o.lane))).map fun s1 =>
    s1.setCw (ops.foldl (fun w o => match o.dst with
      | some d => w.land o.lane d o.ty (s.wouldLoad o)
      | none => w) s1.cw)

/-! ### The instruction (R282, R283) -/

/-- The operand and comparand of a lane, its location and its destination. -/
def State.atomOf (s : State) (op : Nat) (ty : Ty) (d c : VReg) (rt : Bool) (lane : Nat) (ls : List Loc) : AtomOp :=
  let l := s.cw.lane lane
  ⟨lane, ls, op, ty, l.rdTy ty c.toNat, l.rdTy ty d.toNat, if rt then some d.toNat else none⟩

/-- The lanes of a set of operations with a property. -/
def lanesOf (ops : List AtomOp) (f : AtomOp → Bool) : Lanes :=
  Lanes.ofPred fun i => ops.any fun o => o.lane == i.val && f o

/-- The lanes whose operation needs a means of R243. -/
def State.lanesBy (s : State) (ops : List AtomOp) (way : HostWay) : Lanes := lanesOf ops fun o => o.way s.cc == way

/-- The lanes whose operation meets a line among some. -/
def lanesOn (ops : List AtomOp) (lines : List LineKey) : Lanes := lanesOf ops fun o => (hostLines [o]).any lines.contains

/-- The leases that some operations need, one for each line (R243): the welt waits until the host has answered all of them, in
the order of the lines; `k` goes on with the lines that were refused. The leases are released then. -/
def State.withLease (s : State) (ops : List AtomOp) (k : State → List LineKey → Result) : Result :=
  let lease := s.lanesBy ops .lease
  let lines := hostLines (ops.filter fun o => o.way s.cc == .lease)
  if lease = 0 then k s []
  else match s.cw.wait with
    | .lease l ls answers t =>
      if l = lease && ls = lines && decide (lines.length ≤ answers.length) then
        k (s.endLease s.cur) (((lines.zip answers).filter fun x => !x.2).map (·.1))
      else .next (s.stall (.lease lease lines (if l = lease && ls = lines then answers else []) t))
    | _ => .next (s.stall (.lease lease lines [] s.now))

/-- HOST-ATOMIC for lanes of an instruction (R243, R422): its address is that of the lowest lane. -/
def State.hostAtomic (s : State) (addr : Nat → W64) (lanes : Lanes) : State :=
  s.raise { cause := .hostAtomic, lanes := lanes, pc := s.cw.pc, addr := (addr ((Lanes.nats lanes).headD 0)).setWidth 52 }

/-- An atomic whose address checks are passed: HOST-ATOMIC for the lanes where no means applies, or whose lease is refused, and
then no lane's atomic takes effect; else its operations start (R243). -/
def State.runAtoms (s : State) (len : Nat) (ops : List AtomOp) (addr : Nat → W64) : Result :=
  let none_ := s.lanesBy ops .none
  if none_ ≠ 0 then .next (s.hostAtomic addr none_)
  else s.withLease ops fun s refused =>
    if refused.isEmpty then .next (s.startAtoms len ops) else .next (s.hostAtomic addr (lanesOn ops refused))

/-- An atomic with a return of which some lanes fault (R269): every other lane completes. A lane whose host atomic has no
means cannot; it is left to the replay with the faulting lanes, and raises HOST-ATOMIC then (DEDUCED, log 35). -/
def State.partAtoms (s : State) (buf : Bool) (as : List Access) (ops : List AtomOp) (addr : Nat → W64) : Result :=
  if buf then match s.recordAtoms ops addr with
    | none => .next (s.stall .atomicBuffer)
    | some s1 => .next (s1.faultTrap as (restartOf as))
  else
    s.withLease ops fun s refused =>
      let able := ops.filter fun o => o.way s.cc == .native
        || (o.way s.cc == .lease && !((hostLines [o]).any refused.contains))
      let left := lanesOf ops fun o => !(able.contains o)
      let r := s.runNow able
      let w1 := r.2.foldl (fun w (e : Nat × Nat × Ty × W64) => w.land e.1 e.2.1 e.2.2.1 e.2.2.2) r.1.cw
      .next ((r.1.setCw w1).faultTrap as (restartOf as ||| left.setWidth 64))

/-- ATOM and ATOMD (R281-R284). The traps of the entry come in the order of R282. -/
def State.atomic (s : State) (op : Nat) (buffered : Bool) (d : VReg) (wb : WReg) (i : VReg) (f : BitVec 2) (t : Bool)
    (p : BitVec 2) (c : VReg) (tc : Bool) (ty : Ty) (rt : Bool) (disp : BitVec 13) : Result :=
  let dep0 := (memDeps {} t wb i.toNat f 1).src tc (regsOf ty c.toNat)
  let dep1 := if op = 7 then dep0.src t (regsOf ty d.toNat) else dep0
  s.issue (if rt then s.todo p else s.E p) (if rt then dep1.dst (regsOf ty d.toNat) else dep1) 0 (
    let buf := buffered || s.cl.det
    let todo := if rt then s.todo p else s.E p
    let addr := fun lane => s.elemAddr wb i f ty.bytes disp lane 0
    let odd (s : State) : Lanes := (if rt then s.todo p else s.E p)
      &&& Lanes.ofPred fun l => (s.elemAddr wb i f ty.bytes disp l 0).toNat % ty.bytes != 0
    if s.cl.walker && !buf && (op == 6 || op == 7) && s.E p != 0 then .next (s.trapAt .orderInsensitive (s.E p))
    else if odd s ≠ 0 then .next (s.illegalAt odd false)
    else
      let as := accessesOf todo 1 (fun l _ => addr l) (fun a => s.consume (s.dataXlate .both ty.bytes a))
      let ops := as.filterMap fun a => match a.locs with
        | .ok ls => some (s.atomOf op ty d c rt a.lane ls)
        | .error _ => none
      if s.watchLanes true true ty.bytes as ≠ 0 then .next (s.watchTrap true true ty.bytes as)
      else
        let s := s.fillTlbs as
        s.inOrder (accessLocs as) (
          match firstFault as with
          | none =>
            if ops.isEmpty then .next (s.retire s.cw 2)
            else if buf then match s.recordAtoms ops addr with
              | some s1 => .next (s1.retire s1.cw 2)
              | none => .next (s.stall .atomicBuffer)
            else s.runAtoms 2 ops addr
          | some _ => if rt then s.partAtoms buf as ops addr else .next (s.faultTrap as 0)))

/-- ATOM.add (R282). -/
def execAtomAdd (d : BitVec 7) (w : BitVec 6) (i : BitVec 7) (f : BitVec 2) (t : Bool) (p : BitVec 2) (c : BitVec 7)
    (tc : Bool) (ty : Ty) (rt : Bool) (disp : BitVec 13) (s : State) : Result :=
  s.atomic 0 false d w i f t p c tc ty rt disp

/-- ATOM.min (R282). -/
def execAtomMin (d : BitVec 7) (w : BitVec 6) (i : BitVec 7) (f : BitVec 2) (t : Bool) (p : BitVec 2) (c : BitVec 7)
    (tc : Bool) (ty : Ty) (rt : Bool) (disp : BitVec 13) (s : State) : Result :=
  s.atomic 1 false d w i f t p c tc ty rt disp

/-- ATOM.max (R282). -/
def execAtomMax (d : BitVec 7) (w : BitVec 6) (i : BitVec 7) (f : BitVec 2) (t : Bool) (p : BitVec 2) (c : BitVec 7)
    (tc : Bool) (ty : Ty) (rt : Bool) (disp : BitVec 13) (s : State) : Result :=
  s.atomic 2 false d w i f t p c tc ty rt disp

/-- ATOM.and (R282). -/
def execAtomAnd (d : BitVec 7) (w : BitVec 6) (i : BitVec 7) (f : BitVec 2) (t : Bool) (p : BitVec 2) (c : BitVec 7)
    (tc : Bool) (ty : Ty) (rt : Bool) (disp : BitVec 13) (s : State) : Result :=
  s.atomic 3 false d w i f t p c tc ty rt disp

/-- ATOM.or (R282). -/
def execAtomOr (d : BitVec 7) (w : BitVec 6) (i : BitVec 7) (f : BitVec 2) (t : Bool) (p : BitVec 2) (c : BitVec 7)
    (tc : Bool) (ty : Ty) (rt : Bool) (disp : BitVec 13) (s : State) : Result :=
  s.atomic 4 false d w i f t p c tc ty rt disp

/-- ATOM.xor (R282). -/
def execAtomXor (d : BitVec 7) (w : BitVec 6) (i : BitVec 7) (f : BitVec 2) (t : Bool) (p : BitVec 2) (c : BitVec 7)
    (tc : Bool) (ty : Ty) (rt : Bool) (disp : BitVec 13) (s : State) : Result :=
  s.atomic 5 false d w i f t p c tc ty rt disp

/-- ATOM.exch (R282). -/
def execAtomExch (d : BitVec 7) (w : BitVec 6) (i : BitVec 7) (f : BitVec 2) (t : Bool) (p : BitVec 2) (c : BitVec 7)
    (tc : Bool) (ty : Ty) (rt : Bool) (disp : BitVec 13) (s : State) : Result :=
  s.atomic 6 false d w i f t p c tc ty rt disp

/-- ATOM.cas (R282). -/
def execAtomCas (d : BitVec 7) (w : BitVec 6) (i : BitVec 7) (f : BitVec 2) (t : Bool) (p : BitVec 2) (c : BitVec 7)
    (tc : Bool) (ty : Ty) (disp : BitVec 13) (s : State) : Result :=
  s.atomic 7 false d w i f t p c tc ty true disp

/-- ATOM.incwrap (R282). -/
def execAtomIncwrap (d : BitVec 7) (w : BitVec 6) (i : BitVec 7) (f : BitVec 2) (t : Bool) (p : BitVec 2) (c : BitVec
    7) (tc : Bool) (ty : Ty) (rt : Bool) (disp : BitVec 13) (s : State) : Result :=
  s.atomic 8 false d w i f t p c tc ty rt disp

/-- ATOMD.add (R284): always buffered. -/
def execAtomdAdd (w : BitVec 6) (i : BitVec 7) (f : BitVec 2) (t : Bool) (p : BitVec 2) (c : BitVec 7) (tc : Bool) (ty
    : Ty) (disp : BitVec 13) (s : State) : Result :=
  s.atomic 0 true 0 w i f t p c tc ty false disp

/-- ATOMD.min (R284): always buffered. -/
def execAtomdMin (w : BitVec 6) (i : BitVec 7) (f : BitVec 2) (t : Bool) (p : BitVec 2) (c : BitVec 7) (tc : Bool) (ty
    : Ty) (disp : BitVec 13) (s : State) : Result :=
  s.atomic 1 true 0 w i f t p c tc ty false disp

/-- ATOMD.max (R284): always buffered. -/
def execAtomdMax (w : BitVec 6) (i : BitVec 7) (f : BitVec 2) (t : Bool) (p : BitVec 2) (c : BitVec 7) (tc : Bool) (ty
    : Ty) (disp : BitVec 13) (s : State) : Result :=
  s.atomic 2 true 0 w i f t p c tc ty false disp

/-- ATOMD.and (R284): always buffered. -/
def execAtomdAnd (w : BitVec 6) (i : BitVec 7) (f : BitVec 2) (t : Bool) (p : BitVec 2) (c : BitVec 7) (tc : Bool) (ty
    : Ty) (disp : BitVec 13) (s : State) : Result :=
  s.atomic 3 true 0 w i f t p c tc ty false disp

/-- ATOMD.or (R284): always buffered. -/
def execAtomdOr (w : BitVec 6) (i : BitVec 7) (f : BitVec 2) (t : Bool) (p : BitVec 2) (c : BitVec 7) (tc : Bool) (ty
    : Ty) (disp : BitVec 13) (s : State) : Result :=
  s.atomic 4 true 0 w i f t p c tc ty false disp

/-- ATOMD.xor (R284): always buffered. -/
def execAtomdXor (w : BitVec 6) (i : BitVec 7) (f : BitVec 2) (t : Bool) (p : BitVec 2) (c : BitVec 7) (tc : Bool) (ty
    : Ty) (disp : BitVec 13) (s : State) : Result :=
  s.atomic 5 true 0 w i f t p c tc ty false disp

/-- ATOMD.incwrap (R284): always buffered. -/
def execAtomdIncwrap (w : BitVec 6) (i : BitVec 7) (f : BitVec 2) (t : Bool) (p : BitVec 2) (c : BitVec 7) (tc : Bool)
    (ty : Ty) (disp : BitVec 13) (s : State) : Result :=
  s.atomic 8 true 0 w i f t p c tc ty false disp

/-- A welt that waits for leases has further answers, in the order of the lines; more than it waits for say nothing. -/
def Welt.answer (w : Welt) (more : List Bool) : Welt :=
  match w.wait with
  | .lease l ls answers t => { w with wait := .lease l ls ((answers ++ more).take ls.length) t }
  | _ => w

/-- COHERENCE_LEASE_ANSWER (R243): the answer for the first line that has none yet. With every lease granted the atomic goes on,
with a refused one it raises HOST-ATOMIC. -/
def execCoherenceLeaseAnswer (w : Nat) (granted : Bool) (s : State) : Result :=
  .next (s.setWeltAt w ((s.weltAt w).answer [granted]))

/-- HOST_ATOMIC_LEASE_TIMEOUT (R243): leases not granted within 2^20 cc count as refused. -/
def execHostAtomicLeaseTimeout (w : Nat) (s : State) : Result :=
  match (s.weltAt w).wait with
  | .lease _ ls answers since =>
    if decide (answers.length < ls.length) && decide (since + 2 ^ 20 ≤ s.now) then
      .next (s.setWeltAt w ((s.weltAt w).answer (List.replicate ls.length false)))
    else .next s
  | _ => .next s

/-! ### Commutative ranges (R237, R285, R286) -/

/-- The live range of a context with an operation that holds an address, by its index: that of the launch where it has
one of its own. -/
def State.rangeAt (s : State) (ctx launch op a : Nat) : Option Nat :=
  let holds : CRange → Bool := fun r =>
    r.live && r.ctx == ctx && r.op == op && decide (r.base ≤ a) && decide (a < r.base + r.len)
  (s.ranges.findIdx? fun r => holds r && r.launch == launch).orElse fun _ => s.ranges.findIdx? holds

/-- The addresses of a range of bytes, one for each 64 KiB page that it touches. -/
def rangePages (base : W64) (len : Nat) : List W64 :=
  let first := base.toNat / 65536
  let last := (base.toNat + len - 1) / 65536
  (List.range (if len = 0 then 0 else last + 1 - first)).map fun k =>
    if k = 0 then base else BitVec.ofNat 64 ((first + k) * 65536)

/-- The first of some pages that is not device memory, with its fault (R285, R403). -/
def State.pagesFault (s : State) (as : List W64) : Option (W64 × XFault) :=
  as.findSome? fun a => (s.mapFault a).map fun f => (a, f)

/-- Whether two ranges of addresses share a byte. -/
def overlap (a n b m : Nat) : Bool := decide (a < b + m) && decide (b < a + n)

/-- Whether a range of the context must not be declared beside another (R237, R285): they share a byte and are not equal in
extent. One of another launch or operation that is equal in extent is let be (DEDUCED, log 28). -/
def CRange.clashes (r : CRange) (base len : Nat) : Bool :=
  overlap r.base r.len base len && !(r.base == base && r.len == len)

/-- CRDECL (R285). The order of its traps is DEDUCED (log 28): ILLEGAL for a base or length that R237 excludes, PAGE of R206
for a page in a region, then nothing for a range the launch has already declared, ILLEGAL for an overlap or a 257th range, and
PAGE. -/
def execCrdecl (a b : BitVec 6) (ta tb : Bool) (cop : BitVec 4) (s : State) : Result :=
  s.issue s.cw.A ((({} : Deps).wsrc ta a.toNat).wsrc tb b.toNat) 0 (
    let x := s.cw.rdW a.toNat
    let n := (s.cw.rdW b.toNat).toNat
    let mine : CRange → Bool := fun r => r.live && r.ctx == s.cl.ctx
    if x.toNat % 128 != 0 || n % 128 != 0 || n == 0 || decide (2 ^ 26 < n) then .next s.illegal
    else match s.pagesFault ((rangePages x n).filter fun a => (s.regionAt s.cl.ctx a.toNat).isSome) with
      | some (a, f) => .next (s.uniFault a f)
      | none =>
        if s.ranges.any fun r => mine r && r.launch == s.cg.launch && r.base == x.toNat && r.len == n && r.op == cop.toNat
        then .next (s.retire s.cw 2)
        else if s.ranges.any (fun r => mine r && r.clashes x.toNat n) || decide (256 ≤ (s.ranges.filter mine).length) then
          .next s.illegal
        else match s.pagesFault (rangePages x n) with
          | some (a, f) => .next (s.uniFault a f)
          | none =>
            let s1 : State := { s with ranges := s.ranges ++ [⟨s.cl.ctx, s.cg.launch, x.toNat, n, cop.toNat, true⟩] }
            .next (s1.retire s1.cw 2))

/-- One operand of a welt of a level applied, as `f`, to a word of the workgroup's partial of a line (R238). -/
def addPartial (launch wg range op line level word : Nat) (f : W32 → W32) (ps : List Partial_) : List Partial_ :=
  let mine : Partial_ → Bool := fun p => p.launch == launch && p.wg == wg && p.range == range && p.line == line
  let p := (ps.find? mine).getD ⟨launch, wg, range, line, level, []⟩
  let old := ((p.words.find? fun w => w.1 == word).map (·.2)).getD (crIdentity op)
  let rest := p.words.filter fun w => w.1 != word
  { p with level := min p.level level, words := (word, f old) :: rest } :: ps.filter fun q => !(mine q)

/-- An operand applied at an address of the context as a CRADD of a workgroup (R238, R286). The address of a CPY.COLL need not be
a multiple of 4, and its element then goes to the word that holds the address: R294 says nothing of it (DESIGN CHOICE, log 28). -/
def State.crAddAt (s : State) (g range op va level : Nat) (f : W32 → W32) : State :=
  let wg := s.wgAt g
  let ps := addPartial wg.launch wg.logical range op (va / 128) level (va % 128 / 4) f wg.partials
  s.setWgAt g { wg with partials := ps }

/-- CRADD (R286): the operands of E applied in ascending lane order. PAGE of R206 for a region's bytes comes after the
ILLEGAL of a misaligned address and before that of an undeclared one, and the other lane faults come last (DEDUCED,
log 28). -/
def execCradd (d : BitVec 7) (w : BitVec 6) (i : BitVec 7) (f : BitVec 2) (t : Bool) (p : BitVec 2) (cop : BitVec 4)
    (disp : BitVec 13) (s : State) : Result :=
  s.issue (s.E p) ((memDeps {} t w i.toNat f 1).src t [d.toNat]) 0 (
    let e := s.E p
    let addr := fun lane => s.elemAddr w i f 4 disp lane 0
    let rangeOf : W64 → Option Nat := fun a => s.rangeAt s.cl.ctx s.cg.launch cop.toNat a.toNat
    let odd (s : State) : Lanes := s.E p &&& Lanes.ofPred fun l => (s.elemAddr w i f 4 disp l 0).toNat % 4 != 0
    let out_ (s : State) : Lanes := s.E p &&& Lanes.ofPred fun l =>
      (s.rangeAt s.cl.ctx s.cg.launch cop.toNat (s.elemAddr w i f 4 disp l 0).toNat).isNone
    let as := accessesOf e 1 (fun l _ => addr l) fun a => match s.dataXlate .both 4 a with
      | .ok (.dev k :: t) => .ok (.dev k :: t)
      | .ok _ => .error ⟨.page, 3⟩
      | .error x => .error x
    let faults (k : Result) : Result :=
      if s.watchLanes false true 4 as ≠ 0 then .next (s.watchTrap false true 4 as)
      else if (firstFault as).isSome then .next (s.faultTrap as 0)
      else k
    if odd s ≠ 0 then .next (s.illegalAt odd false)
    else if as.any fun a => (s.regionAt s.cl.ctx a.addr.toNat).isSome then faults (.next s.illegal)
    else if out_ s ≠ 0 then .next (s.illegalAt out_ false)
    else faults (s.inOrder (accessLocs as) (
      let s1 := as.foldl (fun s a => match rangeOf a.addr with
        | some r =>
          s.crAddAt s.cw.wg r cop.toNat a.addr.toNat s.cw.level fun x => crApply cop.toNat x ((s.cw.lane a.lane).rd d.toNat)
        | none => s) (s.fillTlbs as)
      .next (s1.retire s1.cw 2))))

/-- COMMUTATIVE_COMBINATION (R238): the partials of a line of a context made outside deterministic launches are
combined, as when a core evicts one. -/
def execCommutativeCombination (ctx line : Nat) (s : State) : Result :=
  .next (s.combine fun p => s.looseLaunch p && (s.launchAt p.launch).ctx == ctx && p.line == line)

/-! ### Fences (R248, R287) -/

/-- Whether every access of the before set with a kind in the mask is performed (R248): R loads in flight, W atomics in
flight, CR and CW copies of the welt, MR and MW its streams. Its stores have their place in the coherence order; that they
are visible within the scope is `afterFence`. -/
def State.fenceDone (s : State) (w : Nat) (pm : BitVec 6) : Bool :=
  let x := s.weltAt w
  (!(pm.getLsbD 5) || x.flights.all fun f => match f.kind with
      | .load _ | .loadW _ _ _ _ | .atom _ | .value _ => false
      | _ => true)
    && (!(pm.getLsbD 4) || x.flights.all fun f => match f.kind with
      | .atom _ => false
      | _ => true)
    && (!(pm.getLsbD 3 || pm.getLsbD 2) || s.copies.all fun c => c.w != w || c.done)
    && (!(pm.getLsbD 1 || pm.getLsbD 0) || x.streams.toList.all fun st => st.queue.isEmpty)

/-- What a fence with MR among its successors orders before later steps (R181): the writes whose completion the welt has
observed, its own among them. -/
def State.operandReady (s : State) (w : Nat) : State :=
  let x := s.weltAt w
  if x.unfenced.isEmpty then s
  else s.setWeltAt w { x with unfenced := x.unfenced.map fun t => { t with ready := t.ready || !t.known.isEmpty } }

/-- The copies of a welt that have completed are seen to have: a fence with CW among its predecessors waits for them
(R248, R291). -/
def State.observeCopies (s : State) (w : Nat) : State :=
  if s.copies.all fun c => c.w != w || !c.done || c.observed then s
  else { s with copies := s.copies.map fun c => if c.w == w && c.done then { c with observed := true } else c }

/-- A fence of some lanes of the issuing welt is complete (R248): the stores of its before set are visible within its scope, and
after a cumulative one the welt's later stores are ordered after them. -/
def State.afterFence (s : State) (lanes : Lanes) (pm sm : BitVec 6) (scope : Nat) (cum : Bool) : State :=
  let live : Nat → Bool := fun n => s.veils.any fun v => v.num == n
  let own := if pm.getLsbD 4 then s.veilsOf s.cur lanes else []
  let seen := if cum && pm.getLsbD 5 then s.cw.observed.filter live else []
  let s1 := s.expose scope ⟨s.cur, lanes⟩ (if scope = 0 then seen else own ++ seen)
  let s2 := if cum then s1.setCw { s1.cw with cum := ((own ++ seen ++ s1.cw.cum).eraseDups).filter live } else s1
  let s3 := if pm.getLsbD 2 then s2.observeCopies s.cur else s2
  let s4 := s3.hearFence s.cur pm sm scope cum
  if sm.getLsbD 1 then s4.operandReady s.cur else s4

/-- A fence before an instruction goes on (R248, R363): it waits until its before set is performed; `r` is what the welt
then waits for. -/
def State.fencedAs (s : State) (pm : BitVec 6) (r : Wait) (k : Result) : Result :=
  if s.fenceDone s.cur pm then k
  else
    let s1 := s.stall r
    if s.cw.wait == r then .next s1 else .next (s1.post (.fenceComplete s.cur))

/-- A fence by itself. -/
def State.fenced (s : State) (pm : BitVec 6) (k : Result) : Result := s.fencedAs pm (.fence pm) k

/-- What is so after the fence that a LAUNCH, a release, RGMAKE and RGFIT complete before they act: all six kinds in both masks,
cumulative at device scope, for every access of the welt (R214, R349, R363). -/
def State.afterFull (s : State) : State := s.afterFence (BitVec.allOnes 32) 0x3F 0x3F 6 true

/-- The fence that a LAUNCH, RGMAKE and RGFIT complete before they act (R214, R363). -/
def State.fullFence (s : State) (k : State → Result) : Result := s.fenced 0x3F (k s.afterFull)

/-- FENCE (R248, R287). One with an empty mask orders nothing; with W among its predecessors it still waits for the atomics of the
welt in flight, whose conditions are then in its flags (R282). -/
def execFence (pm sm : BitVec 6) (sc : BitVec 3) (cum : Bool) (s : State) : Result :=
  if pm = 0 || sm = 0 then s.fenced (pm &&& 0x10) (.next (s.retire s.cw 1))
  else s.fenced pm (
    let s1 := s.afterFence s.cw.A pm sm sc.toNat cum
    .next (s1.retire s1.cw 1))

/-- FENCE_COMPLETE (R248): the before set is performed and the welt may issue again; otherwise it stays due. -/
def execFenceComplete (w : Nat) (s : State) : Result :=
  match (s.weltAt w).wait with
  | .fence pm =>
    if s.fenceDone w pm then .next (s.setWeltAt w { s.weltAt w with wait := .none })
    else .next (s.post (.fenceComplete w))
  | _ => .next s

/-- IFENCE (R252, R288): it completes once the welt's stores, those of its atomics in flight too, are at their homes, and
discards every line that the welt has fetched. -/
def execIfence (s : State) : Result :=
  s.issue s.cw.A {} 0 (s.fenced 0x10 (
    let s1 := s.expose 6 ⟨s.cur, BitVec.allOnes 32⟩ (s.veilsOf s.cur (BitVec.allOnes 32))
    .next (s1.retire { s1.cw with code := [] } 1)))

end Sys2Proof.Machine
end

