-- ==== Sys2Proof/Machine/Copies.lean ====
section
/-!
DEFINITION. Copies and circular buffers: spec/12_memory_instructions.md R289-R298, spec/11_ordering_rules.md R250, R251.
-/

namespace Sys2Proof.Machine

/-! ### Ends and checks (R172, R290) -/

/-- The workgroup of the same gang on the core bound to a core role; of several, the lowest (R172). -/
def State.roleWg (s : State) (g role : Nat) : Option Nat :=
  let wg := s.wgAt g
  match s.roleCore wg.launch wg.gang role with
  | none => none
  | some core =>
    ((List.range s.wgs.length).filter fun i => let x := s.wgAt i
      x.launch == wg.launch && x.gang == wg.gang && x.core == core && x.st != .ended).foldl (fun best i =>
        match best with
        | none => some i
        | some b => if (s.wgAt i).logical < (s.wgAt b).logical then some i else some b) none

/-- Whether a range of a stash space lies in existing blocks. -/
def Wg.hasRange (g : Wg) (a n : Nat) : Bool :=
  n == 0 || (decide (a + n ≤ 2 ^ 21) && (List.range ((a + n - 1) / 65536 + 1 - a / 65536)).all fun k =>
    (g.block (a / 65536 + k)).getLsbD 63)

/-- One end of a copy of the issuing welt: the space code of R289, the register's value and the role; none where R290
makes it ILLEGAL. -/
def State.copyEnd (s : State) (space : Nat) (x : W64) (role len : Nat) : Option CopyEnd :=
  match space with
  | 0 => if role = 0 then some ⟨0, s.cw.wg, x.toNat⟩ else none
  | 1 => if role == 0 && s.cg.hasRange x.toNat len then some ⟨1, s.cw.wg, x.toNat⟩ else none
  | 2 => match s.roleWg s.cw.wg role with
    | some g => if (s.wgAt g).hasRange x.toNat len then some ⟨1, g, x.toNat⟩ else none
    | none => none
  | _ => if role == 0 && decide (x.toNat + len ≤ 1024 * s.cl.lastKiB) then some ⟨3, s.cw.wg, x.toNat⟩ else none

/-- A live phaser that P = 1 names; a zero field when P = 0 (R289, R290). -/
def State.copyPhaser (s : State) (c : W64) : Option (Option Nat) :=
  let id := field c 32 32
  if c.getLsbD 31 then (s.phaserIdx s.cl.ctx id).map fun _ => some id
  else if id = 0 then some none else none

/-- The element sizes of a conversion: source and destination (R291). -/
def convSize (conv : Nat) : Nat × Nat :=
  match conv with
  | 1 | 2 => (4, 2)
  | 3 | 4 => (2, 4)
  | _ => (1, 1)

/-- The conversion rules of R291: whole source elements, both addresses aligned. -/
def convOk (conv len : Nat) (src : W64) (dst : Nat) : Bool :=
  let z := convSize conv
  len % z.1 == 0 && src.toNat % z.1 == 0 && dst % z.2 == 0

/-- A new copy, and its first event: its first line, or the claim of its slot. -/
def State.startCopy (s : State) (c : Copy) : State :=
  let k := s.copies.length
  let s1 := { s with copies := s.copies ++ [c.noteBound s] }
  if c.cb.isSome then s1.post (.cbSlotClaim k) else s1.post (.copyLineLand k)

/-- The engine that carries out the next copy of the issuing gang (R407): those that its copy roles bind, in turn; where
its image declares none, those of the partition on its quarter, which the model also takes in turn (DESIGN CHOICE, log 27). -/
def State.nextEngine (s : State) : Nat :=
  let engines := (s.partNum s.cc.part).engines.filter fun e => e.1 == quarterOf s.cg.core
  let before := (s.copies.filter fun c => (s.wgAt c.wg).launch == s.cg.launch && (s.wgAt c.wg).gang == s.cg.gang).length
  let role := if s.cl.copyRoles = 0 then before else before % s.cl.copyRoles
  ((engines[role % engines.length]?).map (·.2)).getD 0

/-- A copy as its instruction captures it. -/
def State.newCopy (s : State) (src : CopyEnd) (dsts : List CopyEnd) (len conv price : Nat) (ph cb : Option Nat)
    (coll : Option CollCopy) : Copy where
  w := s.cur
  wg := s.cw.wg
  ctx := s.cl.ctx
  level := s.cw.level
  src := src
  dsts := dsts
  len := len
  conv := conv
  ph := ph
  cb := cb
  slot := none
  coll := coll
  line := 0
  target := 0
  carried := []
  engine := s.nextEngine
  price := price
  paid := 0
  since := none
  bound := []
  resBound := []
  done := false
  observed := false

/-- A circular buffer of a workgroup. -/
def Wg.buf (g : Wg) (b : Nat) : Option CircBuf := g.bufs.toList.getD b none
/-- A circular buffer put at its number. -/
def Wg.setBuf (g : Wg) (b : Nat) (x : Option CircBuf) : Wg := { g with bufs := g.bufs.setIfInBounds b x }

/-- The dependences of a copy instruction: source, destination, control registers (R289). -/
def copyDeps (a b c : WReg) (ta tb tc : Bool) : Deps :=
  ((({} : Deps).wsrc ta a.toNat).wsrc tb b.toNat).wsrc tc c.toNat

/-- CPY (R289-R291, R297): checked, captured and handed to the engine. With B = 1, R297 compares len with the size of the slot; a
conversion whose destination bytes do not fit the slot raises ILLEGAL too (DESIGN CHOICE, log 27). -/
def execCpy (a b : BitVec 6) (ta tb : Bool) (c : BitVec 6) (tc : Bool) (src dst : BitVec 2) (srole drole : BitVec 8)
    (conv : BitVec 4) (s : State) : Result :=
  s.issue s.cw.A (copyDeps a b c ta tb tc) 0 (
    let x := s.cw.rdW a.toNat
    let y := s.cw.rdW b.toNat
    let z := s.cw.rdW c.toNat
    let len := field z 0 30
    let dl := len / (convSize conv.toNat).1 * (convSize conv.toNat).2
    match s.copyPhaser z, s.copyEnd src.toNat x srole.toNat len with
    | some ph, some e =>
      if len = 0 then .next s.illegal
      else if z.getLsbD 30 then
        match s.cg.buf (y.toNat % 16) with
        | some q =>
          if dst == 1 && drole == 0 && decide (y.toNat < 16) && !q.freeing && decide (len ≤ q.size)
              && decide (dl ≤ q.size) && convOk conv.toNat len x 0 then
            let s1 := s.startCopy (s.newCopy e [] len conv.toNat 1 ph (some y.toNat) none)
            .next (s1.retire s1.cw 2)
          else .next s.illegal
        | none => .next s.illegal
      else match s.copyEnd dst.toNat y drole.toNat dl with
        | some f =>
          if ph.isNone || !(convOk conv.toNat len x y.toNat) then .next s.illegal
          else
            let s1 := s.startCopy (s.newCopy e [f] len conv.toNat 1 ph none none)
            .next (s1.retire s1.cw 2)
        | none => .next s.illegal
    | _, _ => .next s.illegal)

/-- CPY.MC (R293): one source range to several cores' stash or operand buffers. -/
def execCpyMc (a b : BitVec 6) (ta tb : Bool) (c : BitVec 6) (tc : Bool) (src dst : BitVec 2) (role : BitVec 8) (set
    conv : BitVec 4) (s : State) : Result :=
  s.issue s.cw.A (copyDeps a b c ta tb tc) 0 (
    let x := s.cw.rdW a.toNat
    let y := s.cw.rdW b.toNat
    let z := s.cw.rdW c.toNat
    let len := field z 0 30
    let dl := len / (convSize conv.toNat).1 * (convSize conv.toNat).2
    let roles := ((List.range 4).filter fun j => set.getLsbD j).map fun j => role.toNat + j
    let ends := roles.mapM fun r => (s.roleWg s.cw.wg r).bind fun g =>
      if dst = 1 then (if (s.wgAt g).hasRange y.toNat dl then some (⟨1, g, y.toNat⟩ : CopyEnd) else none)
      else if y.toNat + dl ≤ 1024 * s.cl.lastKiB then some ⟨3, g, y.toNat⟩ else none
    match s.copyPhaser z, s.copyEnd src.toNat x 0 len, ends with
    | some (some ph), some e, some fs =>
      if len == 0 || z.getLsbD 30 || fs.isEmpty || !(convOk conv.toNat len x y.toNat) then .next s.illegal
      else
        let s1 := s.startCopy (s.newCopy e fs len conv.toNat 1 (some ph) none none)
        .next (s1.retire s1.cw 2)
    | _, _, _ => .next s.illegal)

/-- The block length of R121 in elements for a descriptor. -/
def blockLen (n : Narrow) (code : Nat) : Nat :=
  let k := match code with
    | 0 => 8
    | 1 => 16
    | 2 => 24
    | _ => 48
  if n.slot = 4 then 2 * k else k

/-- CPY.COLL (R294): a quantised contribution into a commutative range. -/
def execCpyColl (a b : BitVec 6) (ta tb : Bool) (c : BitVec 6) (tc : Bool) (src : BitVec 2) (salt : BitVec 8) (rm :
    BitVec 3) (s : State) : Result :=
  s.issue s.cw.A ((copyDeps a b c ta tb tc).wsrc tc (c.toNat + 1)) 0 (
    let x := s.cw.rdW a.toNat
    let y := s.cw.rdW b.toNat
    let z := s.cw.rdW c.toNat
    let v := s.cw.rdW (c.toNat + 1)
    let len := field z 0 30
    let d : W32 := v.extractLsb' 32 32
    let bl := blockLen (narrowOf d) (field v 30 2)
    let res := field v 0 21
    let inRange := match s.rangeAt s.cl.ctx s.cg.launch 0 y.toNat with
      | some r => decide (y.toNat + len ≤ ((s.ranges[r]?).map fun r => r.base + r.len).getD 0)
      | none => false
    match s.copyPhaser z, s.copyEnd src.toNat x 0 len with
    | some (some ph), some e =>
      if len == 0 || z.getLsbD 30 || field v 21 9 != 0 || !(narrowOk d) || len % (4 * bl) != 0 || !inRange
          || res % 4 != 0 || !(s.cg.hasRange res len) then .next s.illegal
      else
        let k : CollCopy := ⟨d, bl, res, rm, salt, s.cl.top⟩
        let s1 := s.startCopy (s.newCopy e [⟨0, s.cw.wg, y.toNat⟩] len 0 2 (some ph) none (some k))
        .next (s1.retire s1.cw 2)
    | _, _ => .next s.illegal)

/-! ### Lines (R251, R291, R292) -/

/-- The location of a byte of a copy's end, as the engine translates it. -/
def State.endLoc (s : State) (c : Copy) (need : Need) (e : CopyEnd) (off : Nat) : Except XFault Loc :=
  match e.space with
  | 0 => s.translate none c.ctx c.level need (BitVec.ofNat 64 (e.addr + off))
  | 1 => s.stashLoc e.wg c.level (e.addr + off) need
  | _ => .ok (.opbuf e.wg (e.addr + off))

/-- The bytes of the destination line that a copy writes next: from its place on to the next multiple of 128. -/
def Copy.lineSpan (c : Copy) (e : CopyEnd) : Nat × Nat :=
  (c.line, min (c.dstLen - c.line) (128 - (e.addr + c.line) % 128))

/-- Whether a source and a destination of one space share bytes. -/
def Copy.overlaps (c : Copy) (e : CopyEnd) (off : Nat) : Bool :=
  e.space == c.src.space && (e.space == 0 || e.wg == c.src.wg) && decide (c.src.addr ≤ e.addr + off)
    && decide (e.addr + off < c.src.addr + c.len)

/-- The address in the context's memory of a byte of an end of a copy, where it has one: global, or in a mapped block (R231). -/
def State.endVa (s : State) (e : CopyEnd) (off : Nat) : Option Nat :=
  let entry := (s.wgAt e.wg).blocks.toList.getD ((e.addr + off) / 65536) 0
  if e.space = 0 then some (e.addr + off)
  else if e.space = 1 && entry.getLsbD 62 then some (s.blockVa e.wg (e.addr + off)).toNat else none

/-- Whether a destination byte of a copy is also a source byte of it, directly or by way of the range that a block is bound to
(R234): it is then undefined (R291). Two addresses that the tables map to one frame are not compared (DEDUCED, log 27). -/
def State.overlaps (s : State) (c : Copy) (e : CopyEnd) (off : Nat) : Bool :=
  c.overlaps e off || (s.endVa e off).any fun v =>
    if c.src.space = 0 then decide (c.src.addr ≤ v) && decide (v < c.src.addr + c.len)
    else c.src.space == 1 && (List.range 32).any fun b =>
      let entry := (s.wgAt c.src.wg).blocks.toList.getD b 0
      let base := field entry 16 36 * 65536
      entry.getLsbD 62 && inRange base 65536 v && decide (c.src.addr ≤ 65536 * b + (v - base))
        && decide (65536 * b + (v - base) < c.src.addr + c.len)

/-- One source element converted (R291): RNE, subnormals honoured. -/
def convElem (conv : Nat) (x : W64) : W64 × FlagBits :=
  let r := match conv with
    | 1 => bitsOf .bf16 (floatToFloat .bf16 false .rne (decodeF .f32 x))
    | 2 => bitsOf .f16 (floatToFloat .f16 false .rne (decodeF .f32 x))
    | 3 => bitsOf .f32 (floatToFloat .f32 false .rne (decodeF .bf16 x))
    | _ => bitsOf .f32 (floatToFloat .f32 false .rne (decodeF .f16 x))
  r
where
  /-- A value with conditions as bits. -/
  bitsOf (t : Ty) (r : FVal × FlagBits) : W64 × FlagBits := (encodeF t r.1, r.2)

/-- An uncorrectable error makes the read of a byte a MEMORY-ERROR (R433). -/
def State.consumeByte (s : State) (r : Except XFault Loc) : Except XFault Loc :=
  match r with
  | .ok l => if s.badLoc l then .error ⟨.memoryError, 0⟩ else .ok l
  | .error f => .error f

/-- An agent without an L1 of its own touches locations: bytes of a mapped block through the core that holds it (R234), the
others at their homes. -/
def State.engineTouch (s : State) (write : Bool) (ls : List Loc) : State :=
  let core : Loc → Option Nat := fun l => match l with
    | .block g _ _ => some (s.wgAt g).core
    | _ => none
  let s1 := s.homeTouch write (ls.filter fun l => (core l).isNone)
  ((ls.filterMap core).eraseDups).foldl (fun s k => s.touchLocs k write (ls.filter fun l => core l == some k)) s1

/-- An engine reads locations (R236, R238): the partials of their lines are combined first, and an owner's dirty line comes
home; a region's line is evaluated (R201). -/
def State.engineReads (s : State) (ls : List Loc) : State :=
  let s1 := (s.settle ls).engineTouch false ls
  ((ls.map Loc.line).eraseDups).foldl (fun s k => if k.1 = 2 then s.evalLine k.2.1 k.2.2 else s) s1

/-- An engine is about to write locations: partials are combined, every cached copy of their lines is recalled, and every
party sees what it writes (R236, R238, R251). -/
def State.engineWrites (s : State) (ls : List Loc) : State := ((s.settle ls).engineTouch true ls).unveil ls

/-- What a copy reads for destination bytes `off` to `off + n - 1`: the state after the read, the bytes, converted, and
the conditions; or the fault of a source byte. A copy is no lane of its welt (R244). -/
def State.copyBytes (s : State) (c : Copy) (off n : Nat) : Except XFault (State × List Byte × FlagBits) :=
  let z := convSize c.conv
  let s0 := off / z.2 * z.1
  match (List.range (n / z.2 * z.1)).mapM fun i => s.consumeByte (s.endLoc c .load c.src (s0 + i)) with
  | .error f => .error f
  | .ok ls =>
    let s1 := s.engineReads ls
    let bs := ls.map (s1.seenByte ⟨c.w, 0⟩)
    if z.1 = z.2 then .ok (s1, bs, 0)
    else
      let es := (List.range (n / z.2)).map fun i =>
        convElem c.conv (BitVec.ofNat 64 (leValue ((bs.drop (z.1 * i)).take z.1)))
      .ok (s1, es.flatMap (fun e => bytesLE e.1 z.2), es.foldl (fun f e => f ||| e.2) 0)

/-- Bytes put at a location by a copy (R294). -/
def State.putOut (s : State) (l : Loc) (b : Byte) : State := s.putByte l (s.outByte l b)

/-- Destination bytes written in order until one cannot be: its place and fault. Only region elements are written before
such a byte, of a byte of two elements the first where it fits; a line of other memory is written whole or not at all (R292, R205). -/
def State.putLine (s : State) (c : Copy) (e : CopyEnd) (off : Nat) (bs : List Byte) : State × Option XFault :=
  let locs := (List.range bs.length).map fun i => s.endLoc c .store e (off + i)
  let r := (locs.zip bs).foldl (fun (acc : State × Option XFault) lb => match acc.2 with
    | some _ => acc
    | none => match lb.1 with
      | .error f => (acc.1, some f)
      | .ok l => match l with
        | .region i o => match acc.1.regions[i]? with
          | some r =>
            if r.cap < r.exc.length + r.newEntries [o] then
              ({ acc.1 with regions := acc.1.regions.set i (r.storeFitting o lb.2) }, some ⟨.regionFull, 0⟩)
            else (acc.1.putByte l lb.2, none)
          | none => acc
        | _ => (acc.1.putOut l lb.2, none)) (s, none)
  let plain := locs.any fun l => match l with
    | .ok (.region _ _) => false
    | .ok _ => true
    | .error _ => false
  match r.2 with
  | none => r
  | some f => if plain then (s, some f) else (r.1, some f)

/-- The bytes of the destination line or block that a copy writes next. -/
def Copy.step (c : Copy) : Nat :=
  match c.coll, c.dsts.head? with
  | some k, _ => 4 * k.blk
  | none, some e => (c.lineSpan e).2
  | none, none => 0
/-- The bytes of a copy that have landed: each line goes to every target before the next one is read (R293). -/
def Copy.landed (c : Copy) : Nat := c.line * c.dsts.length + c.target * c.step
/-- The bytes that a copy lands in all; one with B = 1 has one slot, claimed or not (R297). -/
def Copy.total (c : Copy) : Nat := (if c.cb.isSome then 1 else c.dsts.length) * c.dstLen
/-- The 4 KiB chunks that must be paid for before the next line or block is written: every one that has begun by its last
byte, target by target (R299). Chunk `q` of target `t` has number `q` × targets + `t`. -/
def Copy.chunks (c : Copy) : Nat := (c.line + c.step - 1) / 4096 * c.dsts.length + c.target + 1
/-- Whether a chunk has landed (R299). -/
def Copy.chunkLanded (c : Copy) (n : Nat) : Bool :=
  let t := n % max 1 c.dsts.length
  let here := if t < c.target then c.line + c.step else c.line
  c.done || decide (min ((n / max 1 c.dsts.length + 1) * 4096) c.dstLen ≤ here)

/-- A copy put at its index. -/
def State.setCopy (s : State) (k : Nat) (c : Copy) : State := { s with copies := s.copies.set k c }

/-- Slots move from claimed to filled in the order of their claims (R297). -/
def CircBuf.settle : Nat → CircBuf → CircBuf
  | 0, q => q
  | n + 1, q =>
    let next := (q.head + q.filled) % q.slots
    if 0 < q.claimed && q.ready.contains next then
      CircBuf.settle n { q with claimed := q.claimed - 1, filled := q.filled + 1, ready := q.ready.erase next }
    else q

/-- A copy over: its slot is filled, or failed with its cause (R292, R297). -/
def State.endCopy (s : State) (k : Nat) (c : Copy) (fail : Option Cause) : State :=
  let s1 := s.setCopy k { c with done := true }
  match c.cb, c.slot with
  | some b, some j =>
    let g := s1.wgAt c.wg
    match g.buf b with
    | some q =>
      let q1 := { q with ready := j :: q.ready, failed := match fail with
        | some x => (j, x) :: q.failed
        | none => q.failed }
      s1.setWgAt c.wg (g.setBuf b (some (q1.settle q1.slots)))
    | none => s1
  | _, _ => s1

/-- The bytes of a phaser's counter for a copy. -/
def State.copyLanded (s : State) (c : Copy) (n : Nat) : State :=
  match c.ph with
  | some id => s.landBytes c.ctx id n
  | none => s

/-- A copy after `n` more bytes of its target: the same line for the next target, the next line, or the end. -/
def State.copyOn (s : State) (k : Nat) (c : Copy) (n : Nat) (carried : List Byte) : State :=
  let s1 := s.copyLanded c n
  if c.target + 1 < c.dsts.length then
    (s1.setCopy k { c with target := c.target + 1, carried := carried }).post (.copyLineLand k)
  else if c.line + n < c.dstLen then
    (s1.setCopy k { c with line := c.line + n, target := 0, carried := [] }).post (.copyLineLand k)
  else s1.endCopy k c none

/-- Whether the chunks of a copy's next line are paid for; if not, its request waits (R299, R384). -/
def State.copyPaid (s : State) (k : Nat) (c : Copy) (go : State) : State :=
  if c.chunks ≤ c.paid then go
  else (s.setCopy k { c with since := some (c.since.getD s.now) }).post (.copyLineLand k)

/-! ### CPY.COLL (R294) -/

/-- The largest magnitude of a block; a NaN or an infinity stands before any number (R162). -/
def maxMag (xs : List FVal) : FVal :=
  xs.foldl (fun m x => match m, x.abs with
    | .nan b, _ => .nan b
    | _, .nan b => .nan b
    | .inf n, _ => .inf n
    | _, .inf n => .inf n
    | .fin _ p, .fin _ q => .fin false (max p q)) (.fin false 0)

/-- One element of a block under its scale: the exact contribution, the residual and the conditions (R121, R294). -/
def collElem (n : Narrow) (mode : Mode) (sc : Option Rat) (x : FVal) : FVal × FVal × FlagBits :=
  match sc with
  | none => (.nan false, .nan false, 0)
  | some _ =>
    let q := quotient x sc
    let code := match q.1 with
      | some v => let r := n.round mode v
        (r.1, r.2 ||| q.2)
      | none => (n.nanAnswer.1, q.2 ||| fNV ||| fNP)
    match scaled (n.decode code.1) sc with
    | none => (.nan false, .nan false, code.2 ||| fNV ||| fNP)
    | some y =>
      let r := finish .f32 false .rne (addExact .rne x y.negate)
      (y, r.1, code.2 ||| r.2)

/-- One block of CPY.COLL: residuals written, contributions added, the conditions; or the fault (R294). -/
def State.collBlock (s : State) (k : Nat) (c : Copy) (q : CollCopy) (e : CopyEnd) : Except XFault (State × FlagBits) :=
  let n := narrowOf q.desc
  let i0 := c.line / 4
  match (List.range (4 * q.blk)).mapM (fun i => s.consumeByte (s.endLoc c .load c.src (c.line + i))),
    (List.range (4 * q.blk)).mapM (fun i => s.consumeByte (s.stashLoc c.wg c.level (q.res + c.line + i) .both)),
    (List.range q.blk).mapM (fun i => s.translateN none c.ctx c.level .both (BitVec.ofNat 64 (e.addr + c.line + 4 * i)) 4),
    s.rangeAt c.ctx (s.wgAt c.wg).launch 0 (e.addr + c.line) with
  | .ok src, .ok res, .ok _, some r =>
    let t := (s.engineReads src).engineReads res
    let elem (f : Loc → Byte) (ls : List Loc) (i : Nat) : FVal :=
      decodeF .f32 (BitVec.ofNat 64 (leValue (((ls.drop (4 * i)).take 4).map f)))
    let xs := (List.range q.blk).map fun i => finish .f32 false .rne
      (addExact .rne (elem (t.seenByte ⟨c.w, 0⟩) src i) (elem t.rawByte res i))
    let big := maxMag (xs.map (·.1))
    let b := bscale n (freeScale n big) big
    let outs := xs.zipIdx.map fun x => collElem n
      (if q.rm = 4 then srDraw q.seed (BitVec.ofNat 64 (i0 + x.2)) (q.salt.setWidth 32) else .rne) (s20 b.1) x.1.1
    let flags := outs.foldl (fun f o => f ||| o.2.2) (xs.foldl (fun f x => f ||| x.2) b.2)
    let t1 := (t.engineWrites res).putLocs res (outs.flatMap fun o => bytesLE (encodeF .f32 o.2.1) 4)
    let t2 := t1.noteWrites (some c.w) (some k) (t1.spanOf res)
    let t3 := outs.zipIdx.foldl (fun t o => t.crAddAt c.wg r 0 (e.addr + c.line + 4 * o.2) c.level (crAddExact o.1.1)) t2
    .ok (t3, flags)
  | .error f, _, _, _ => .error f
  | _, .error f, _, _ => .error f
  | _, _, .error f, _ => .error f
  | _, _, _, none => .error ⟨.page, 3⟩

/-- The bytes of the line that a copy writes next: read from its source, or carried for the other targets (R293). -/
def State.copyLine (s : State) (c : Copy) (off n : Nat) : Except XFault (State × List Byte × FlagBits) :=
  if c.target = 0 then s.copyBytes c off n else .ok (s, c.carried, 0)

/-- COPY_LINE_LAND (R251, R291, R294): one destination line in one action, its bytes taken off the phaser; a fault stops the copy. -/
def execCopyLineLand (k : Nat) (s : State) : Result :=
  match s.copies[k]? with
  | none => .next s
  | some c =>
    if c.done then .next s
    else .next (s.copyPaid k c (
      match c.dsts[c.target]? with
      | none => s
      | some e => match c.coll with
        | some q => match s.collBlock k c q e with
          | .error f => s.post (.copyFail k f.cause f.kind)
          | .ok (s1, f) => ((s1.weltFlags c.w f).copyOn k c (4 * q.blk) []).settleTxn c.w
        | none =>
          let sp := c.lineSpan e
          match s.copyLine c sp.1 sp.2 with
          | .error f => s.post (.copyFail k f.cause f.kind)
          | .ok (t, bs, f) =>
            let out_ := bs.zipIdx.map fun b =>
              if t.overlaps c e (sp.1 + b.2) then t.undefByte (e.addr + sp.1 + b.2) else b.1
            let locs := (List.range sp.2).filterMap fun i => (t.endLoc c .store e (sp.1 + i)).toOption
            let r := (t.engineWrites locs).putLine c e sp.1 out_
            let s1 := r.1.noteWrites (some c.w) (some k) (r.1.spanOf locs)
            match r.2 with
            | some x => s1.post (.copyFail k x.cause x.kind)
            | none => (((s1.clearBad locs).weltFlags c.w f).copyOn k c sp.2 bs).settleTxn c.w))

/-- COPY_FAIL (R292, R330): the cause is recorded, the bytes that never land are taken off, a slot is marked failed. -/
def execCopyFail (k : Nat) (cause : Cause) (_kind : Nat) (s : State) : Result :=
  match s.copies[k]? with
  | none => .next s
  | some c =>
    if c.done then .next s
    else
      let s1 := match c.ph with
        | some id => s.failPhaser c.ctx id cause
        | none => s
      .next (((s1.copyLanded c (c.total - c.landed)).endCopy k c (some cause)).settleTxn c.w)

/-! ### Circular buffers (R295-R298) -/

/-- The first copy that waits for a slot of a buffer, in issue order (R297). -/
def State.firstClaim (s : State) (g b : Nat) : Option Nat :=
  s.copies.findIdx? fun c => c.wg == g && c.cb == some b && c.slot.isNone && !c.done

/-- CB_SLOT_CLAIM (R297): the first waiting copy of a buffer claims the tail slot when one is free. -/
def execCbSlotClaim (k : Nat) (s : State) : Result :=
  match s.copies[k]? with
  | some c => match c.cb with
    | some b =>
      let g := s.wgAt c.wg
      match g.buf b with
      | some q =>
        if s.firstClaim c.wg b == some k && decide (1 ≤ q.free) then
          let q1 := { q with free := q.free - 1, claimed := q.claimed + 1, tail := (q.tail + 1) % q.slots }
          let c1 := { c with slot := some q.tail, dsts := [⟨1, c.wg, q.base + q.tail * q.size⟩] }
          let s1 := ((s.setWgAt c.wg (g.setBuf b (some q1))).setCopy k (c1.noteBound s)).post (.copyLineLand k)
          match s1.firstClaim c.wg b with
          | some j => .next (s1.post (.cbSlotClaim j))
          | none => .next s1
        else .next s
      | none => .next s
    | none => .next s
  | none => .next s

/-- CBINIT (R296). -/
def execCbinit (a b : BitVec 6) (ta tb : Bool) (s : State) : Result :=
  s.issue s.cw.A ((({} : Deps).wsrc ta a.toNat).wsrc tb b.toNat) 0 (
    let x := s.cw.rdW a.toNat
    let size := (s.cw.rdW b.toNat).toNat
    let k := field x 48 4
    let n := field x 32 12 + 1
    let base := field x 0 21
    if (s.cg.buf k).isSome || field x 52 12 != 0 || field x 44 4 != 0 || field x 21 11 != 0 || base % 128 != 0
        || size % 128 != 0 || size == 0 || decide (0x100000 < size) || !(s.cg.hasRange base (n * size)) then
      .next s.illegal
    else
      let s1 := s.setCg (s.cg.setBuf k (some ⟨base, size, n, n, 0, 0, 0, 0, [], [], false⟩))
      .next (s1.retire s1.cw 2))

/-- The initialised buffer that a register names; its whole value is the number (R298). -/
def State.bufNamed (s : State) (a : WReg) : Option CircBuf :=
  if (s.cw.rdW a.toNat).toNat < 16 then s.cg.buf (s.cw.rdW a.toNat).toNat else none

/-- The failure of one of the first `n` slots from the head, nearest first (R298). -/
def CircBuf.failure (q : CircBuf) (n : Nat) : Option Cause :=
  (List.range n).findSome? fun i => (q.failed.find? fun f => f.1 == (q.head + i) % q.slots).map (·.2)

/-- The issuing welt has seen the copies of some slots complete (R181, R250, R291). -/
def State.observeSlots (s : State) (g b : Nat) (slots : List Nat) : State :=
  let mine : Copy → Bool := fun c => c.wg == g && c.cb == some b && c.done && c.slot.any slots.contains
  ({ s with copies := s.copies.map fun c => if mine c then { c with observed := true } else c }).hearCopies s.cur
    (fun k => (s.copies[k]?).any mine) false

/-- CBWAIT (R298): waits for n filled slots, then gives the head slot's offset, or raises a failed slot's cause. -/
def execCbwait (d a : BitVec 6) (ta : Bool) (n : BitVec 12) (s : State) : Result :=
  s.issue s.cw.A ((({} : Deps).wsrc ta a.toNat).wdst d.toNat) 0 (
    let m := n.toNat + 1
    let k := (s.cw.rdW a.toNat).toNat
    match s.bufNamed a with
    | none => .next s.illegal
    | some q =>
      if q.slots < m then .next s.illegal
      else if q.filled < m then .next (s.atSwitchPoint.stall (.buffer k m))
      else
        let s1 := s.atSwitchPoint.observeSlots s.cw.wg k ((List.range m).map fun i => (q.head + i) % q.slots)
        match q.failure m with
        | some c => .next (s1.trapAt c s1.cw.A)
        | none => .next (s1.retire (s1.cw.wrW d.toNat (BitVec.ofNat 64 (q.base + q.head * q.size))) 2))

/-- Whether a location belongs to a stash space, mapped or not, also by way of the range that a block is bound to (R234). -/
def State.inStash (s : State) : Loc → Bool
  | .stash _ _ | .block _ _ _ => true
  | .dev a => !((s.blocksOver a).isEmpty)
  | _ => false

/-- CBPOP (R298): n slots become free, once the welt's earlier stash loads are performed. -/
def execCbpop (a : BitVec 6) (ta : Bool) (n : BitVec 12) (s : State) : Result :=
  s.issue s.cw.A (({} : Deps).wsrc ta a.toNat) 0 (
    let m := n.toNat + 1
    let k := (s.cw.rdW a.toNat).toNat
    match s.bufNamed a with
    | none => .next s.illegal
    | some q =>
      if q.filled < m then .next s.illegal
      else if s.cw.flights.any fun f => f.kind.locs.any s.inStash then .next (s.stall .order)
      else
        let gone := (List.range m).map fun i => (q.head + i) % q.slots
        let q1 := { q with filled := q.filled - m, free := q.free + m, head := (q.head + m) % q.slots,
                           failed := q.failed.filter fun f => !(gone.contains f.1) }
        let s1 := s.setCg (s.cg.setBuf k (some q1))
        let s2 := match s1.firstClaim s.cw.wg k with
          | some j => s1.post (.cbSlotClaim j)
          | none => s1
        .next (s2.retire s2.cw 2))

/-- CBFREE (R298): waits until the buffer's earlier copies have claimed and no slot is claimed, then ends it. -/
def execCbfree (a : BitVec 6) (ta : Bool) (s : State) : Result :=
  s.issue s.cw.A (({} : Deps).wsrc ta a.toNat) 0 (
    let k := (s.cw.rdW a.toNat).toNat
    match s.bufNamed a with
    | none => .next s.illegal
    | some q =>
      if q.claimed == 0 && (s.firstClaim s.cw.wg k).isNone then
        let s1 := s.setCg (s.cg.setBuf k none)
        .next (s1.retire s1.cw 2)
      else
        let s1 := s.setCg (s.cg.setBuf k (some { q with freeing := true }))
        .next (s1.stall (.buffer k 0)))

end Sys2Proof.Machine
end

