-- ==== Sys2Proof/Machine/Matrix.lean ====
section
/-!
DEFINITION. The matrix unit: reservations, streams, exact steps, skive mode, pending traps
(spec/08_matrix_engine.md R165-R195, spec/05 R112, R113, R118-R122).
-/

namespace Sys2Proof.Machine

/-! ### Issue (R174, R175) -/

/-- A matrix instruction: MASK-PARTIAL names the non-exited lanes that are not in A (R174, R42). -/
def State.matrixOp (s : State) (d : Deps) (k : Result) : Result :=
  s.issue s.cw.A d 0 (
    let idle := s.cw.living &&& ~~~s.cw.A
    if idle ≠ 0 then .next (s.trapAt .maskPartial idle) else k)

/-- The event that runs the head of a stream. -/
def StreamOp.event (w : Nat) (k : BitVec 3) : StreamOp → Instr
  | .step .. => .matrixStep w k
  | _ => .streamInstructionEffect w k

/-- The stream of a number. -/
def Welt.strm (w : Welt) (k : BitVec 3) : Stream := w.stream k.toNat

/-- An instruction enters its stream, which holds 16; one for a full stream waits (R175). `acc` is the accumulator
type after it in stream order, and `w` the welt with what the instruction does at issue. -/
def State.enter (s : State) (k : BitVec 3) (op : StreamOp) (acc : Ty) (len : Nat) (w : Welt) : Result :=
  let q := s.cw.strm k
  if 16 ≤ q.queue.length then .next (s.stall (.stream (2 ^ k.toNat)))
  else
    let s1 := s.retire (w.setStream k.toNat { w.strm k with queue := q.queue ++ [op], accEnd := acc }) len
    .next (if q.queue.isEmpty then s1.post (op.event s.cur k) else s1)

/-! ### Reservations (R168-R173) -/

/-- The slot of an operand type in bits (R168). -/
def slotOf (t : Ty) (desc : W32) : Nat := if t = .nx then (narrowOf desc).slot else t.width
/-- The slot of a reservation. -/
def Res.slot (h : Res) : Nat := slotOf h.ty h.desc
/-- The elements of a panel row (R168). -/
def Res.perRow (h : Res) : Nat := 384 / h.slot
/-- Whether a reservation has scale panels (R169). -/
def Res.isScaled (h : Res) : Bool := h.ty == .nx && !h.unscaled
/-- The blocks of a row (R169). -/
def Res.blocks (h : Res) : Nat := if h.isScaled then [6, 3, 2, 1].getD h.blk 1 else 1

/-- The record that W[wr] and W[wr + 1] hold (R171). -/
def resOf (t : Ty) (lo hi : W64) : Res where
  ty := t
  desc := lo.extractLsb' 32 32
  base := field lo 21 11
  len := field lo 10 11
  rows := field lo 5 5
  blk := field lo 3 2
  remote := lo.getLsbD 2
  unscaled := lo.getLsbD 1
  role := field hi 32 8
  scaleoff := field hi 0 17

/-- The fields that the table of R171 says are zero. -/
def resZeros (t : Ty) (lo hi : W64) : Bool :=
  let r := resOf t lo hi
  !(lo.getLsbD 0) && field hi 40 24 == 0 && field hi 17 15 == 0 && (t == .nx || (r.desc == 0 && r.blk == 0 && !r.unscaled))
    && (r.remote || r.role == 0) && ((t == .nx && !r.unscaled) || r.scaleoff == 0)

/-- The workgroup whose bytes a reservation names (R172). -/
def State.resHome (s : State) (g : Nat) (h : Res) : Option Nat := if h.remote then s.roleWg g h.role else some g

/-- Whether MRES accepts a record (R173). -/
def State.resOk (s : State) (t : Ty) (lo hi : W64) : Bool :=
  let r := resOf t lo hi
  t.isPanel && resZeros t lo hi && (t != .nx || narrowOk r.desc) &&
    if r.remote then
      match s.roleWg s.cw.wg r.role with
      | some k => s.clusterOf (s.wgAt k).core == s.clusterOf s.cg.core
          && (s.wgAt k).hasRange (1024 * r.base) (1024 * (r.len + 1))
      | none => false
    else decide (r.base + r.len + 1 ≤ s.cl.lastKiB)

/-- MRES (R173, R189): the record is checked, then fills the handle. -/
def execMres (h : BitVec 4) (wr : BitVec 6) (tc : Bool) (ty : Ty) (s : State) : Result :=
  s.matrixOp ((({} : Deps).wsrc tc wr.toNat).wsrc tc (wr.toNat + 1)) (
    let lo := s.cw.rdW wr.toNat
    let hi := s.cw.rdW (wr.toNat + 1)
    if s.resOk ty lo hi then
      .next (s.retire { s.cw with handles := s.cw.handles.setIfInBounds h.toNat (some (resOf ty lo hi)) } 2)
    else .next s.illegal)

/-- The reservation of a handle; none when it is free (R170). -/
def Welt.handle (w : Welt) (h : BitVec 4) : Option Res := w.handles.toList.getD h.toNat none

/-- MREL (R189): the handle becomes free; ILLEGAL if it is. -/
def execMrel (h : BitVec 4) (s : State) : Result :=
  s.matrixOp {} (
    match s.cw.handle h with
    | some _ => .next (s.retire { s.cw with handles := s.cw.handles.setIfInBounds h.toNat none } 1)
    | none => .next s.illegal)

/-! ### Tiles (R165, R166, R176, R190) -/

/-- Whether a tile exists for an accumulator type in a share of some KiB (R165, R166). -/
def tileOk (accKiB : Nat) (acc : Ty) (t : Int) : Bool :=
  decide (0 ≤ t) && (if acc = .f64 then t % 2 == 0 && decide (4 * (t + 2) ≤ accKiB) else decide (4 * (t + 1) ≤ accKiB))

/-- The raw element of a tile (R166). -/
def Wg.cell (g : Wg) (t : Nat) (acc : Ty) (e : Nat) : W64 :=
  BitVec.ofNat 64 (cellsRead g.acc (4096 * t + accSize acc * e) (accSize acc))
/-- Elements of a tile written as raw bits. -/
def Wg.setCells (g : Wg) (t : Nat) (acc : Ty) (es : List (Nat × W64)) : Wg :=
  { g with acc := es.foldl (fun m e => cellsWrite m (4096 * t + accSize acc * e.1) (bytesLE e.2 (accSize acc))) g.acc }

/-! ### Other streams on the same tile (R180) -/

/-- The elements that an instruction of a stream touches, as outstanding work without panels. -/
def StreamOp.touch (acc : Ty) : StreamOp → List Outstanding
  | .mzero t => [⟨t, acc, false, 0, 32, BitVec.allOnes 32, [], []⟩]
  | .step t _ _ _ _ _ _ dt j count _ _ _ => (List.range (count - j)).map fun i =>
      ⟨((t : Int) + ((j + i : Nat) : Int) * dt).toNat, acc, true, 0, 32, BitVec.allOnes 32, [], []⟩
  | .mrd t _ row count lanes => [⟨t, acc, false, row, count, lanes, [], []⟩]
  | .mwr t row count vals => [⟨t, acc, false, row, count, Lanes.ofPred fun i => vals.any fun v => v.1 == i.val, [], []⟩]
  | _ => []

/-- What a queue touches, each instruction under the accumulator type at its place (R167). -/
def touches : Ty → List StreamOp → List Outstanding
  | _, [] => []
  | _, .mfmt t :: rest => touches t rest
  | acc, o :: rest => o.touch acc ++ touches acc rest

/-- Whether outstanding work touches a byte of the accumulator share. -/
def Outstanding.covers (o : Outstanding) (b : Nat) : Bool :=
  let e := (b - 4096 * o.tile) / accSize o.ty
  decide (4096 * o.tile ≤ b) && decide (e < 1024) && decide (o.row ≤ e / 32) && decide (e / 32 < o.row + o.count)
    && o.lanes.getLsbD (e % 32)

/-- The outstanding work of every other stream of the workgroup that owns the accumulator share, and the finished work
that met this stream's queue (R179, R180). -/
def State.rivals (s : State) (w : Nat) (k : BitVec 3) : List Outstanding :=
  ((s.weltAt w).strm k).clash ++ (s.weltsOf (s.weltAt w).wg).flatMap fun i =>
    if (s.weltAt i).ended then []
    else (List.range 8).flatMap fun n =>
      if i == w && n == k.toNat then [] else ((s.weltAt i).stream n).out ++
        touches ((s.weltAt i).stream n).acc ((s.weltAt i).stream n).queue

/-- The elements of a piece of work that other outstanding work touches too. -/
def contested (rivals : List Outstanding) (o : Outstanding) : List Nat :=
  (List.range 1024).filter fun e =>
    decide (o.row ≤ e / 32) && decide (e / 32 < o.row + o.count) && o.lanes.getLsbD (e % 32) &&
      (List.range (accSize o.ty)).any fun i =>
        rivals.any fun r => r.covers (4096 * o.tile + accSize o.ty * e + i)

/-- Elements of a tile that have become undefined (R9, R180). -/
def State.blur (s : State) (g t : Nat) (acc : Ty) (es : List Nat) : State :=
  s.setWgAt g ((s.wgAt g).setCells t acc (es.map fun e => (e, s.undef64 (2048 * t + e))))

/-- When a stream's work stops being outstanding, what met queued work of other streams stays with them (R179,
R180). R179 ends `outstanding` at an MWAIT; the last EXIT of a welt, which has drained its streams, ends it as well
(DEDUCED, log 22). -/
def State.settleStreams (s : State) (w : Nat) (mask : BitVec 8) : State :=
  let x := s.weltAt w
  let gone := (List.range 8).flatMap fun n => if mask.getLsbD n then (x.stream n).out else []
  let met (st : Stream) : List Outstanding := gone.filter fun o => (touches st.acc st.queue).any fun p =>
    !(contested [p] o).isEmpty
  let s1 : State := if gone.isEmpty then s else
    (s.weltsOf x.wg).foldl (fun s i =>
      let y := s.weltAt i
      s.setWeltAt i { y with streams := y.streams.map fun st => { st with clash := met st ++ st.clash } }) s
  let y := s1.weltAt w
  let free : Vector Stream 8 := Vector.ofFn fun i : Fin 8 =>
    if mask.getLsbD i then { y.streams[i] with out := [], clash := [] } else y.streams[i]
  s1.setWeltAt w { y with streams := free }

/-! ### Instructions that enter a stream -/

/-- MFMT (R190): in stream order the accumulator type changes. -/
def execMfmt (s : BitVec 3) (ty : Ty) (st : State) : Result :=
  st.matrixOp {} (st.enter s (.mfmt ty) ty 2 st.cw)

/-- MZERO (R190): in stream order the tile becomes zero; ILLEGAL at issue where it does not exist. -/
def execMzero (s : BitVec 3) (t : BitVec 6) (st : State) : Result :=
  st.matrixOp {} (
    let acc := (st.cw.strm s).accEnd
    if tileOk st.cl.accKiB acc t.toNat then st.enter s (.mzero t.toNat) acc 1 st.cw else .next st.illegal)

/-- Whether two reservations pair under an accumulator type (R176). -/
def pairOk (a b : Res) (acc : Ty) : Bool :=
  let i (r : Res) : Bool := r.ty == .s8 || r.ty == .n8
  a.perRow == b.perRow && i a == i b && (i a == (acc == .s32)) && (acc == .f64 || (a.ty != .f64 && b.ty != .f64))

/-- Whether panel `p` of a reservation, and its scale panel, exist (R169, R176). -/
def Res.hasPanel (h : Res) (p : Int) : Bool :=
  decide (0 ≤ p) && decide (1536 * (p + 1) ≤ 1024 * (h.len + 1)) &&
    (!h.isScaled || decide (16 * (h.scaleoff : Int) + 80 * h.blocks * (p + 1) ≤ 1024 * (h.len + 1)))

/-- The distance between the tiles of two steps in tiles (R178). -/
def tileStep (acc : Ty) (dt : Int) : Int := if acc = .f64 then 2 * dt else dt

/-- MSTEP and MLOOP: the handles, the pairing and every panel and tile are checked at issue, then the steps enter the
stream with the records, `sr.fpctl` and the writes that no operand-ready fence has ordered (R170, R175-R178, R181,
R182). -/
def State.stepOp (s : State) (k : BitVec 3) (ha hb : BitVec 4) (t a0 b0 : Nat) (da db dt : Int) (count len : Nat) :
    Result :=
  let acc := (s.cw.strm k).accEnd
  let d := tileStep acc dt
  match s.cw.handle ha, s.cw.handle hb with
  | some a, some b =>
    if pairOk a b acc && (List.range count).all fun j =>
        a.hasPanel (a0 + j * da) && b.hasPanel (b0 + j * db) && tileOk s.cl.accKiB acc (t + j * d)
    then s.enter k (.step t a b a0 b0 da db d 0 count s.cw.fpctl s.cw.level s.cw.openSpans) acc len s.cw
    else .next s.illegal
  | _, _ => .next s.illegal

/-- MSTEP (R190). -/
def execMstep (s : BitVec 3) (ha hb : BitVec 4) (t : BitVec 6) (st : State) : Result :=
  st.matrixOp {} (st.stepOp s ha hb t.toNat 0 0 0 0 0 1 1)

/-- MLOOP (R178, R190). -/
def execMloop (s : BitVec 3) (ha hb : BitVec 4) (t wr : BitVec 6) (tc : Bool) (cnt : BitVec 12) (st : State) : Result :=
  st.matrixOp (({} : Deps).wsrc tc wr.toNat) (
    let x := st.cw.rdW wr.toNat
    if field x 56 8 != 0 || field x 0 12 != 0 then .next st.illegal
    else st.stepOp s ha hb t.toNat (field x 45 11) (field x 34 11) (x.extractLsb' 26 8).toInt (x.extractLsb' 18 8).toInt
      (x.extractLsb' 12 6).toInt (cnt.toNat + 1) 2)

/-- The registers of MRD and MWR (R191). -/
def rowRegs (acc : Ty) (d : VReg) (count : Nat) : List Nat :=
  (List.range count).flatMap fun i => if acc = .f64 then [d.toNat + 2 * i, d.toNat + 2 * i + 1] else [d.toNat + i]

/-- The checks of MRD and MWR that depend on the accumulator type (R190, R191). -/
def rowsOk (accKiB : Nat) (acc : Ty) (t : Nat) (d : VReg) (row count : Nat) : Bool :=
  tileOk accKiB acc t && decide (row + count ≤ 32) && (rowRegs acc d count).all (fun r => decide (r < 128))

/-- MRD (R191): the registers become empty at issue and are filled in stream order. -/
def execMrd (s : BitVec 3) (t : BitVec 6) (d : BitVec 7) (row : BitVec 5) (cnt : BitVec 3) (st : State) : Result :=
  let acc := (st.cw.strm s).accEnd
  let n := cnt.toNat + 1
  let regs := rowRegs acc d n
  if oddRows acc d then .next st.illegal
  else st.matrixOp (({} : Deps).dst (regs.filter fun r => decide (r < 128))) (
    if rowsOk st.cl.accKiB acc t.toNat d row.toNat n then
      st.enter s (.mrd t.toNat d.toNat row.toNat n st.cw.living) acc 2
        (st.cw.mapLanes st.cw.living fun _ l => regs.foldl Lane.empty l)
    else .next st.illegal)

/-- MWR (R191): the values are read at issue and written in stream order. -/
def execMwr (s : BitVec 3) (t : BitVec 6) (d : BitVec 7) (tc : Bool) (row : BitVec 5) (cnt : BitVec 3) (st : State) :
    Result :=
  let acc := (st.cw.strm s).accEnd
  let n := cnt.toNat + 1
  let regs := rowRegs acc d n
  if oddRows acc d then .next st.illegal
  else st.matrixOp (({} : Deps).src tc (regs.filter fun r => decide (r < 128))) (
    if rowsOk st.cl.accKiB acc t.toNat d row.toNat n then
      let vals := (Lanes.nats st.cw.living).map fun i =>
        (i, (List.range n).map fun j => if acc = .f64 then (st.cw.lane i).rdTy .b64 (d.toNat + 2 * j)
          else (st.cw.lane i).rdTy .b32 (d.toNat + j))
      st.enter s (.mwr t.toNat row.toNat n vals) acc 2 st.cw
    else .next st.illegal)

/-- Whether W[wr] holds a threshold: an FP32 value that is not below zero and is finite; −0 counts as zero (R192). -/
def thresholdOk (x : W64) : Bool :=
  field x 32 32 == 0 && (x == 0x80000000#64 || decide (x.toNat < 0x7F800000))

/-- MSKV (R185, R192). -/
def execMskv (s : BitVec 3) (wr : BitVec 6) (tc : Bool) (dep k : BitVec 4) (act : Bool) (st : State) : Result :=
  st.matrixOp (({} : Deps).wsrc tc wr.toNat) (
    let x := st.cw.rdW wr.toNat
    if thresholdOk x then
      st.enter s (.mskv dep.toNat k.toNat act (x.setWidth 32)) (st.cw.strm s).accEnd 2 st.cw
    else .next st.illegal)

/-- MSAMP (R192). -/
def execMsamp (s : BitVec 3) (cnt : BitVec 12) (st : State) : Result :=
  st.matrixOp {} (st.enter s (.msamp (cnt.toNat + 1)) (st.cw.strm s).accEnd 2 st.cw)

/-! ### Waiting and delivery (R179, R183, R193) -/

/-- Whether every stream of a mask has drained (R179). -/
def Welt.drained (w : Welt) (mask : BitVec 8) : Bool :=
  (List.range 8).all fun n => !(mask.getLsbD n) || (w.stream n).queue.isEmpty

/-- The pending trap that is delivered first, with its stream: FP-NAN, SKIVE-DRIFT, MEMORY-ERROR (R183, R433). -/
def Welt.pendingTrap (w : Welt) (mask : BitVec 8) : Option (Cause × Nat) :=
  let find (c : Cause) (f : Stream → Bool) : Option (Cause × Nat) :=
    ((List.range 8).find? fun n => mask.getLsbD n && f (w.stream n)).map fun n => (c, n)
  (find .fpNan (·.pendNan)).orElse fun _ => (find .skiveDrift (·.pendDrift)).orElse fun _ =>
    find .memoryError (·.pendMem)

/-- A welt with one pending mark of a stream cleared (R183). -/
def Welt.clearPending (w : Welt) (c : Cause) (n : Nat) : Welt :=
  let st := w.stream n
  w.setStream n (match c with
    | .fpNan => { st with pendNan := false }
    | .skiveDrift => { st with pendDrift := false }
    | _ => { st with pendMem := false })

/-- A wait for streams, then the delivery of one pending trap that names every non-exited lane, else `k` (R179,
R183). -/
def State.waitStreams (s : State) (mask : BitVec 8) (k : Result) : Result :=
  if !(s.cw.drained mask) then .next (s.stall (.stream mask.toNat))
  else match s.cw.pendingTrap mask with
    | some (c, n) => .next ((s.setCw (s.cw.clearPending c n)).trapAt c s.cw.living)
    | none => k

/-- MWAIT for the streams of a mask; it takes no part in memory ordering (R193). -/
def State.mwait (s : State) (mask : BitVec 8) : Result :=
  s.matrixOp {} (s.waitStreams mask (
    let s1 := s.settleStreams s.cur mask
    .next (s1.retire s1.cw 1)))

/-- MWAIT (R193). -/
def execMwait (s : BitVec 3) (st : State) : Result := st.mwait (BitVec.twoPow 8 s.toNat)

/-- MWAIT.all (R193). -/
def execMwaitAll (s : State) : Result := s.mwait (BitVec.allOnes 8)

/-! ### Prices (R185, R195) -/

/-- Whether the next skived step of a stream is sampled: by its MSAMP count, or by the Philox draw of R185. -/
def State.sampled (s : State) (w : Nat) (k : BitVec 3) : Bool :=
  let x := s.weltAt w
  let st := x.strm k
  let g := s.wgAt x.wg
  let n := st.n + 1
  let y := (philox (n.setWidth 32) (n.extractLsb' 32 32) (BitVec.ofNat 32 g.logical)
    (BitVec.ofNat 32 (0x534B0000 + 8 * x.index + k.toNat)) (s.launchOf g).top).1
  st.dep != 0 && (st.samp != 0 || y.toNat % 2 ^ st.k == 0)

/-- The price of a step by the slot of its operands (R195). -/
def stepPrice (slot : Nat) (skived : Bool) : Nat :=
  match slot with
  | 4 => if skived then 12 else 20
  | 8 => if skived then 10 else 16
  | 16 => if skived then 9 else 14
  | 32 => if skived then 8 else 13
  | _ => if skived then 8 else 12

/-- The cycles of a step (R168). -/
def stepCycles (slot : Nat) : Nat := if slot = 64 then 8 else if slot = 32 then 4 else 2

/-- The price of the head of a stream (R195). -/
def State.headPrice (s : State) (w : Nat) (k : BitVec 3) : Nat :=
  let st := (s.weltAt w).strm k
  match st.queue with
  | .step _ ha _ _ _ _ _ _ _ _ _ _ _ :: _ => stepPrice ha.slot (st.dep != 0 && !(s.sampled w k))
  | .mrd .. :: _ => 1
  | .mwr .. :: _ => 1
  | .mzero _ :: _ => 1
  | _ => 0

/-- The cycles for which the head of a stream holds its tokens: those of R168 for a step, at the most those of R387 for the
others (R195). -/
def Stream.headHold (st : Stream) : Nat :=
  match st.queue with
  | .step _ ha _ _ _ _ _ _ _ _ _ _ _ :: _ => stepCycles ha.slot
  | _ => 8

/-- A stream whose head has taken full effect: the next one becomes due (R175). -/
def State.nextHead (s : State) (w : Nat) (k : BitVec 3) (queue : List StreamOp) (f : Stream → Stream) : State :=
  let x := s.weltAt w
  let s1 := s.setWeltAt w (x.setStream k.toNat { f (x.strm k) with queue := queue, paid := 0, since := none })
  match queue with
  | [] => s1
  | o :: _ => s1.post (o.event w k)

/-- The head of a stream runs when its welt's workgroup is on its core and its price is spent; until then it stays due
and its request waits (R194, R195, R384). -/
def State.headReady (s : State) (w : Nat) (k : BitVec 3) (again : Instr) (go : State) : State :=
  let x := s.weltAt w
  let st := x.strm k
  if (s.wgAt x.wg).st != .resident then s.post again
  else if st.paid < s.headPrice w k then
    (s.setWeltAt w (x.setStream k.toNat { st with since := some (st.since.getD s.now) })).post again
  else go

/-! ### Effects in stream order (R190-R192) -/

/-- The elements of rows and lanes, with the row and lane of each. -/
def rowElems (row count : Nat) (lanes : Lanes) : List (Nat × Nat) :=
  (List.range count).flatMap fun i => (Lanes.nats lanes).map fun l => (row + i, l)

/-- Work of a stream becomes outstanding, and the elements that other outstanding work touches become undefined
(R179, R180). -/
def State.endWork (s : State) (w : Nat) (k : BitVec 3) (o : Outstanding) : State :=
  let x := s.weltAt w
  let bad := contested (s.rivals w k) o
  let s1 := s.setWeltAt w (x.setStream k.toNat { x.strm k with out := o :: (x.strm k).out })
  if bad.isEmpty then s1 else s1.blur x.wg o.tile o.ty bad

/-- The effect of the head of a stream that is no step. -/
def State.streamEffect (s : State) (w : Nat) (k : BitVec 3) (op : StreamOp) (rest : List StreamOp) : State :=
  let x := s.weltAt w
  let g := s.wgAt x.wg
  let acc := (x.strm k).acc
  match op with
  | .mfmt t => s.nextHead w k rest fun st => { st with acc := t }
  | .mzero t =>
    let s1 := s.setWgAt x.wg (g.setCells t acc ((List.range 1024).map fun e => (e, 0)))
    (s1.endWork w k ⟨t, acc, false, 0, 32, BitVec.allOnes 32, [], []⟩).nextHead w k rest id
  | .mrd t d row count lanes =>
    let o : Outstanding := ⟨t, acc, false, row, count, lanes, [], []⟩
    let bad := contested (s.rivals w k) o
    let val (r l : Nat) : W64 :=
      if bad.contains (32 * r + l) then s.undef64 (4096 * t + 32 * r + l) else g.cell t acc (32 * r + l)
    let x1 := (List.range count).foldl (fun y i => y.mapLanes lanes fun l lane =>
      if acc = .f64 then lane.wrTy .b64 (d + 2 * i) (val (row + i) l)
      else lane.wrTy .b32 (d + i) (val (row + i) l)) x
    (((s.setWeltAt w x1).endWork w k o)).nextHead w k rest id
  | .mwr t row count vals =>
    let o : Outstanding := ⟨t, acc, false, row, count, Lanes.ofPred fun i => vals.any fun v => v.1 == i.val, [], []⟩
    let es := vals.flatMap fun v => (List.range count).map fun i => (32 * (row + i) + v.1, v.2.getD i 0)
    ((s.setWgAt x.wg (g.setCells t acc es)).endWork w k o).nextHead w k rest id
  | .mskv d e act thr => s.nextHead w k rest fun st =>
      { st with dep := d, k := e, act := act, thr := if thr = 0x80000000#32 then 0 else thr, n := 0 }
  | .msamp n => s.nextHead w k rest fun st => { st with samp := max st.samp n }
  | .step .. => s

/-- STREAM_INSTRUCTION_EFFECT (R175, R190-R192): the head of a stream takes effect once every earlier one has. -/
def execStreamInstructionEffect (w : Nat) (k : BitVec 3) (s : State) : Result :=
  let x := s.weltAt w
  if x.ended then .next s
  else match (x.strm k).queue with
    | [] => .next s
    | .step .. :: _ => .next s
    | op :: rest => .next (s.headReady w k (.streamInstructionEffect w k) (s.streamEffect w k op rest))

/-! ### Steps (R168, R169, R177, R184) -/

/-- An element of a panel: its unscaled value, its block scale (none is the NaN scale), and its significand and exponent
(R184). -/
structure MElem where
  val : FVal
  sc : Option Rat
  g : Nat
  q : Int

/-- The exponent of the unit of a finite value in a format with `m` fraction bits and smallest exponent `emin`. -/
def unitExp (emin : Int) (m : Nat) (v : Rat) : Int := (if v = 0 then emin else max (ilog2 v) emin) - m

/-- The magnitude of a finite value. -/
def FVal.mag : FVal → Rat
  | .fin _ q => q
  | _ => 0

/-- An element from its slot bits (R118, R168, R184). -/
def elemOf (h : Res) (code : Nat) (sc : Option Rat) : MElem :=
  match h.ty with
  | .s8 | .n8 =>
    let z := intOf h.ty (BitVec.ofNat 64 code)
    ⟨.fin (decide (z < 0)) z.natAbs, sc, z.natAbs, 0⟩
  | .nx =>
    let n := narrowOf h.desc
    let v := n.decode code
    let q := if n.e = 0 then -n.bias else unitExp (1 - n.bias) n.m v.mag
    ⟨v, sc, (v.mag * pow2 (-q)).floor.natAbs, q⟩
  | t =>
    let v := decodeF t (BitVec.ofNat 64 code)
    let q := unitExp (gridOf t).emin (Ty.mbits t) v.mag
    ⟨v, sc, (v.mag * pow2 (-q)).floor.natAbs, q⟩

/-- The element of a row past the reservation's rows: +0 under scale 1 (R169). -/
def zeroElem : MElem := ⟨.fin false 0, some 1, 0, 0⟩

/-- Slot `j` of a row of bytes (R118). -/
def slotAt (slot : Nat) (row : List Byte) (j : Nat) : Nat :=
  if slot = 4 then (row.getD (j / 2) 0).toNat / 16 ^ (j % 2) % 16
  else leValue ((row.drop (j * (slot / 8))).take (slot / 8))

/-- One row of a panel: its elements, whether a byte of it cannot be had or holds an uncorrectable error, and the spans
of its elements and scales. -/
structure PanelRow where
  elems : List MElem
  lost : Bool
  bad : Bool
  data : Span
  scale : Span

/-- Bytes of the range of a reservation, each with its place for a welt of a level; a byte with no place is none (R172). -/
def State.resBytes (s : State) (g level : Nat) (h : Res) (off n : Nat) : List (Option Loc) :=
  match s.resHome g h with
  | none => List.replicate n none
  | some k => (List.range n).map fun i =>
    let a := 1024 * h.base + off + i
    if h.remote then (match s.stashLoc k level a .load with
      | .ok l => some l
      | .error _ => none) else some (.opbuf k a)

/-- The bytes of row `r` of panel `p` of a reservation and the bits of its scales: offset and length (R168, R169). -/
def Res.rowPlace (h : Res) (p r : Nat) : Nat × Nat :=
  let nb := h.blocks
  let c0 := 16 * h.scaleoff + 80 * nb * p + 20 * nb * r / 8
  (c0, if h.isScaled then 16 * h.scaleoff + 80 * nb * p + (20 * nb * (r + 1) + 7) / 8 - c0 else 0)

/-- The locations that a step of a welt reads for one panel: those of a remote reservation, which may be cached or held by
partials. -/
def State.panelLocs (s : State) (g level : Nat) (h : Res) (p : Nat) : List Loc :=
  if h.remote then (List.range (h.rows + 1)).flatMap fun r =>
    (s.resBytes g level h (1536 * p + 48 * r) 48 ++ s.resBytes g level h (h.rowPlace p r).1 (h.rowPlace p r).2).filterMap id
  else []

/-- Row `r` of panel `p` of a reservation as the streams of welt `w` read it (R168, R169, R120, R244). -/
def State.panelRow (s : State) (w g level : Nat) (h : Res) (p r : Nat) : PanelRow :=
  if h.rows < r then ⟨List.replicate h.perRow zeroElem, false, false, ⟨0, g, 0, 0⟩, ⟨0, g, 0, 0⟩⟩
  else
    let k := (s.resHome g h).getD g
    let space := if h.remote then 1 else 0
    let nb := h.blocks
    let d0 := 1536 * p + 48 * r
    let c0 := (h.rowPlace p r).1
    let cn := (h.rowPlace p r).2
    let dl := s.resBytes g level h d0 48
    let cl := s.resBytes g level h c0 cn
    let get : Option Loc → Byte := fun l => (l.map (s.seenByte ⟨w, 0⟩)).getD 0
    let row := dl.map get
    let scales := leValue (cl.map get)
    let scale (q : Nat) : Option Rat :=
      if h.isScaled then s20 (scales / 2 ^ (20 * nb * r % 8 + 20 * q) % 2 ^ 20) else some 1
    let all := dl ++ cl
    let base := 1024 * h.base
    ⟨(List.range h.perRow).map fun j => elemOf h (slotAt h.slot row j) (scale (j / (h.perRow / nb))),
     all.any (·.isNone), all.any fun l => (l.map s.badLoc).getD false,
     ⟨space, k, base + d0, 48⟩, ⟨space, k, if cn = 0 then 0 else base + c0, cn⟩⟩

/-- The magnitude of a skived product of two significands at depth D: the partial products of weight D and above
(R184). -/
def skiveProduct (d a b : Nat) : Nat :=
  ((List.range 64).filter fun i => a.testBit i).foldl (fun z i =>
    z + (if d ≤ i then b else b / 2 ^ (d - i) * 2 ^ (d - i)) * 2 ^ i) 0

/-- What an exact sum has met: NaN inputs, signalling ones, ∞ × 0, infinities of both signs, its finite total, and
whether every term so far is −0. -/
structure Sum where
  nan : Bool
  snan : Bool
  inv : Bool
  pos : Bool
  neg : Bool
  tot : Rat
  negZero : Bool

/-- A term added to a sum. -/
def Sum.add (z : Sum) (x : FVal) : Sum :=
  match x with
  | .nan sn => { z with nan := true, snan := z.snan || sn }
  | .inf n => { z with pos := z.pos || !n, neg := z.neg || n, negZero := false }
  | .fin n q => { z with tot := z.tot + (if n then -q else q), negZero := z.negZero && n && q == 0 }

/-- Whether an element is infinite and lies under a zero scale: invalid, whatever its partner (R121). -/
def MElem.invalid (a : MElem) : Bool :=
  match a.val, a.sc with
  | .inf _, some k => k == 0
  | _, _ => false

/-- The product of two elements under their scales, at a depth: none for ∞ × 0, which includes an infinite element
under a zero scale (R121, R177, R184). Beside a NaN such an element sets NV, as a signalling NaN would (DEDUCED, log 23). -/
def prodOf (d : Nat) (a b : MElem) : Option FVal :=
  let sn := a.val.isSnan || b.val.isSnan || a.invalid || b.invalid
  match a.sc, b.sc with
  | some ka, some kb =>
    if a.val.isNan || b.val.isNan then some (.nan sn)
    else
      let n := a.val.neg? != b.val.neg?
      let inf : FVal → Bool := fun x => match x with
        | .inf _ => true
        | _ => false
      if inf a.val || inf b.val then
        if (inf a.val && (ka == 0 || (!(inf b.val) && (b.val.mag == 0 || kb == 0))))
          || (inf b.val && (kb == 0 || (!(inf a.val) && (a.val.mag == 0 || ka == 0))))
        then none else some (.inf n)
      else if d = 0 then some (.fin n (a.val.mag * ka * (b.val.mag * kb)))
      else some (.fin n (skiveProduct d a.g b.g * pow2 (a.q + b.q) * ka * kb))
  | _, _ => some (.nan sn)

/-- One element of a step: the exact sum of C and all products, rounded once (R177, R122). R177 does not say which of its
cases prevails for a NaN input beside another one: beside ∞ × 0 it sets NV, as in FFMA, beside infinities of both signs it
does not (DEDUCED, log 23). -/
def stepCell (acc : Ty) (d : Nat) (a b : List MElem) (c : W64) : W64 × FlagBits :=
  if acc = .s32 then
    (wrapTo .s32 ((a.zip b).foldl (fun (z : Int) p => z + (match prodOf d p.1 p.2 with
      | some x => x.toRat.floor
      | none => 0)) (intOf .s32 c)), 0)
  else
    let z := (a.zip b).foldl (fun (z : Sum) p => match prodOf d p.1 p.2 with
      | some x => z.add x
      | none => { z with inv := true }) (Sum.add ⟨false, false, false, false, false, 0, true⟩ (decodeF acc c))
    let x : Exact :=
      if z.nan then .propagated (z.snan || z.inv)
      else if z.inv || (z.pos && z.neg) then .invalid
      else if z.pos || z.neg then .infinite z.neg false
      else .real z.tot z.negZero
    let r := finish acc false .rne x
    (encodeF acc r.1, r.2)

/-- The difference of a sampled element as FP32 bits, rounded up (R186). -/
def skiveDiff (acc : Ty) (x y : W64) : Nat :=
  let up (q : Rat) : Nat := (encodeF .f32 (roundTo .f32 false .rup false q).1).toNat
  if acc = .s32 then up |((intOf .s32 x - intOf .s32 y : Int) : Rat)|
  else match decodeF acc x, decodeF acc y with
    | .fin a p, .fin b q => up |FVal.toRat (.fin a p) - FVal.toRat (.fin b q)|
    | .nan _, .nan _ => 0
    | .inf a, .inf b => if a == b then 0 else 0x7F800000
    | _, _ => 0x7F800000

/-- What a step computes: the tile skived and exact, the flags, the elements that are undefined, the first NaN produced,
and whether an operand byte held an uncorrectable error. -/
structure StepOut where
  cells : List (Nat × W64)
  exact : List (Nat × W64)
  flags : FlagBits
  open_ : List Nat
  nan : Option Nat
  bad : Bool
  aPanel : List Span
  bPanel : List Span

/-- One step on tile `t` with A panel `pa` and B panel `pb` at depth `d` (R177, R180, R181, R433). -/
def State.stepOut (s : State) (w g level : Nat) (acc : Ty) (t : Nat) (ha hb : Res) (pa pb d : Nat)
    (taint : List Span) : StepOut :=
  let wg := s.wgAt g
  let as := (List.range 32).map (s.panelRow w g level ha pa)
  let bs := (List.range 32).map (s.panelRow w g level hb pb)
  let spans (rs : List PanelRow) : List Span := rs.map (·.data) ++ rs.map (·.scale)
  let openRows (rs : List PanelRow) : List Nat :=
    hitRows (spans rs) taint ++ (List.range 32).filter fun i => (rs[i]?).any fun r => r.lost || r.bad
  let ra := openRows as
  let rb := openRows bs
  let bad : Bool := as.any (·.bad) || bs.any (·.bad)
  let isOpen (e : Nat) : Bool := ra.contains (e / 32) || rb.contains (e % 32)
  let cell (d e : Nat) : W64 × FlagBits :=
    stepCell acc d ((as[e / 32]?).elim [] (·.elems)) ((bs[e % 32]?).elim [] (·.elems)) (wg.cell t acc e)
  let out := (List.range 1024).map fun e => (e, cell d e)
  let sound := out.filter fun x => !(isOpen x.1)
  { cells := out.map fun x => (x.1, if isOpen x.1 then s.undef64 (2048 * t + x.1) else x.2.1)
    exact := sound.map fun x => (x.1, (cell 0 x.1).1)
    flags := sound.foldl (fun f x => f ||| x.2.2) 0
    open_ := (List.range 1024).filter isOpen
    nan := (sound.find? fun x => x.2.2 &&& fNP != 0).map (·.1)
    bad := bad
    aPanel := spans as
    bPanel := spans bs }

/-- `sr.nanrec` for a NaN produced (R112, R113): not rewritten while V = 1. -/
def nanRecord (old : W64) (role t k e j : Nat) : W64 :=
  if old.getLsbD 63 then old
  else BitVec.ofNat 64 (2 ^ 63 + role * 2 ^ 40 + t * 2 ^ 34 + k * 2 ^ 31 + e / 32 * 2 ^ 26 + e % 32 * 2 ^ 21 + j * 2 ^ 9)

/-- `sr.skivestat` after a sample whose largest difference is `d` (R186, R187). A maxdiff that SWR has set to a pattern with
bit 31 set gives way to `d`; any other pattern, a NaN's too, is compared as a number of bits (DEDUCED, log 24). -/
def skiveSample (old : W64) (d : Nat) (drift : Bool) (off : Option Nat) : W64 :=
  let n := min 0xFFFF (field old 32 16 + 1)
  let m := if old.getLsbD 31 then d else max (field old 0 32) d
  (old &&& 0xFFFF000000000000#64) ||| BitVec.ofNat 64 (n * 2 ^ 32 + m) ||| (if drift then 0x8000000000000000#64 else 0)
    ||| (match off with
      | some k => BitVec.twoPow 64 (48 + k)
      | none => 0)

/-- One step carried out (R177, R182, R186): the tile, the flags, the NaN record, the sample, and what becomes
pending. Action 1 of R186 sets depth 0 once: a later MSKV of the stream sets the depth anew (DEDUCED, log 24). -/
def State.runStep (s0 : State) (w : Nat) (k : BitVec 3) (t : Nat) (ha hb : Res) (a0 b0 : Nat) (da db dt : Int)
    (j count : Nat) (fpctl : W32) (level : Nat) (taint : List Span) (rest : List StreamOp) : State :=
  let pa := ((a0 : Int) + j * da).toNat
  let pb := ((b0 : Int) + j * db).toNat
  let s := s0.engineReads (s0.panelLocs (s0.weltAt w).wg level ha pa ++ s0.panelLocs (s0.weltAt w).wg level hb pb)
  let x := s.weltAt w
  let g := s.wgAt x.wg
  let l := s.launchOf g
  let st := x.strm k
  let acc := st.acc
  let tile := ((t : Int) + j * dt).toNat
  let o := s.stepOut w x.wg level acc tile ha hb pa pb st.dep taint
  let sample := s.sampled w k
  let ds := o.exact.map fun e => skiveDiff acc ((o.cells.find? fun c => c.1 == e.1).elim 0 (·.2)) e.2
  let d := ds.foldl max 0
  let drift := sample && decide (st.thr.toNat < d)
  let off : Bool := drift && st.act
  let x1 : Welt := { x with
    fpctl := orFlags x.fpctl o.flags
    nanrec := match o.nan with
      | some e => nanRecord x.nanrec (g.logical % l.gangSize % l.roles) tile k.toNat e j
      | none => x.nanrec
    skivestat := if sample then skiveSample x.skivestat d drift (if off then some k.toNat else none) else x.skivestat }
  let s1 := (s.setWeltAt w x1).setWgAt x.wg (g.setCells tile acc o.cells)
  let s2 := s1.endWork w k ⟨tile, acc, true, 0, 32, BitVec.allOnes 32, o.aPanel, o.bPanel⟩
  let queue := if j + 1 < count then .step t ha hb a0 b0 da db dt (j + 1) count fpctl level taint :: rest else rest
  s2.nextHead w k queue fun st => { st with
    pendNan := st.pendNan || (o.nan.isSome && fpctl.getLsbD 10)
    pendDrift := st.pendDrift || (drift && !st.act)
    pendMem := st.pendMem || o.bad
    n := if st.dep = 0 then st.n else st.n + 1
    samp := if st.dep = 0 then st.samp else st.samp - 1
    dep := if off then 0 else st.dep }

/-- MATRIX_STEP (R177, R178): the unit runs the next step of the head of a stream. -/
def execMatrixStep (w : Nat) (k : BitVec 3) (s : State) : Result :=
  let x := s.weltAt w
  if x.ended then .next s
  else match (x.strm k).queue with
    | .step t ha hb a0 b0 da db dt j count f l taint :: rest =>
      .next (s.headReady w k (.matrixStep w k) (s.runStep w k t ha hb a0 b0 da db dt j count f l taint rest))
    | _ => .next s

end Sys2Proof.Machine
end

