-- ==== Sys2Proof/Machine/Control.lean ====
section
/-!
DEFINITION. Successors, NOP, LAUNCH and JOIN: spec/17_control_flow_and_calls.md R354-R365, spec/02 R32-R43.
-/

namespace Sys2Proof.Machine

/-! ### Targets (R33, R355, R361) -/

/-- What a lane's target gives: a segment start, a word or address that R33 refuses, or a fault of the walk. -/
inductive Target where
  | ok | illegal | fault (f : XFault)
  deriving DecidableEq, Repr

/-- A target checked at the level of the welt (R33, R403). A word with an uncorrectable error is not judged here: the
fetch at the target consumes it (R28, R433). -/
def State.target (s : State) (t : W64) : Target :=
  if field t 48 16 ≠ 0 ∨ field t 0 2 ≠ 0 then .illegal
  else match s.translateN (some s.cg.core) s.cl.ctx s.cw.level .fetch t 4 with
    | .error f => .fault f
    | .ok ls => if ls.any s.badLoc || isSegmentStart ((s.getLocs ls).setWidth 32) then .ok else .illegal

/-- The lanes of A whose target satisfies a test. -/
def State.targetLanes (s : State) (tgt : Nat → W64) (p : W64 → Bool) : Lanes :=
  s.cw.A &&& Lanes.ofPred fun i => p (tgt i)

/-- Whether a call's target and return address lie in the code window of the call (R355). -/
def State.inWindow (s : State) (t : W64) : Bool :=
  field t 32 32 == s.cw.pc.toNat / 2 ^ 32 && (s.cw.pc + 4).extractLsb' 32 16 == s.cw.pc.extractLsb' 32 16

/-- The lanes of A whose target breaks R33, or R355 for a call. -/
def State.illTargets (s : State) (tgt : Nat → W64) (call : Bool) : Lanes :=
  s.targetLanes tgt fun t => s.target t == .illegal || (call && !(s.inWindow t))

/-- The trap of a successor's targets, which each welt forms from its own registers, in the order of R361: ILLEGAL for the
lanes that break R33 or R355, else the fault that the lowest failing lane meets, naming every failing lane. -/
def State.targetTrap (s : State) (form : State → Nat → W64) (call : Bool) : Option State :=
  let tgt := form s
  let failing := s.targetLanes tgt fun t => match s.target t with
    | .fault _ => true
    | _ => false
  if s.illTargets tgt call ≠ 0 then some (s.illegalAt (fun s => s.illTargets (form s) call) false)
  else match (Lanes.nats failing).findSome? fun i => match s.target (tgt i) with
      | .fault f => some (f, tgt i)
      | _ => none with
    | some (f, t) => some (s.raise { cause := f.cause, kind := f.kind, lanes := failing, pc := s.cw.pc,
                                     addr := t.setWidth 52 })
    | none => none

/-- A successor (R354, R361): readiness, target checks, then its own effect. -/
def State.successor (s : State) (d : Deps) (tgt : State → Nat → W64) (call : Bool) (k : Result) : Result :=
  s.issue s.cw.A d 0 (match s.targetTrap tgt call with
    | some t => .next t
    | none => k)

/-- The lanes of A sent to the starts of segments (R32). -/
def Welt.jump (w : Welt) (a : Lanes) (tgt : Nat → W64) (f : Lane → Lane) : Welt :=
  w.mapLanes a fun i l => { (f l) with pc := (tgt i).setWidth 48, pos := .start }

/-- The target of a SUCC word (R87, R356). -/
def State.offTarget (s : State) (off : BitVec 22) : W64 := s.cw.pc.setWidth 64 + off.signExtend 64 * 4

/-- The fall-through (R356). -/
def State.fallThrough (s : State) : W64 := s.cw.pc.setWidth 64 + 4

/-- A successor that only moves lanes; they keep their depth, in serial mode too (R40, R356). -/
def State.goTo (s : State) (d : Deps) (tgt : State → Nat → W64) : Result :=
  s.successor d tgt false (.next (s.retireWith (s.cw.jump s.cw.A (tgt s) id)))

/-- GO (R356). -/
def execGo (off : BitVec 22) (s : State) : Result := s.goTo {} fun s _ => s.offTarget off

/-- BR (R356). -/
def execBr (off : BitVec 22) (m : BitVec 3) (s : State) : Result :=
  s.goTo {} fun s i => if (maskRead s.legacy s.cw m.toNat).getLsbD i then s.offTarget off else s.fallThrough

/-- BRX (R356). -/
def execBrx (a : BitVec 7) (ta : Bool) (s : State) : Result :=
  s.goTo (({} : Deps).src ta [a.toNat, a.toNat + 1]) fun s i => (s.cw.lane i).rdTy .b64 a.toNat

/-- The lowest lane of a set. -/
def Lanes.lowest (m : Lanes) : Nat := (Lanes.nats m).headD 0

/-- CALL and CALLX (R357, R39-R41): the link, then depth + 1, or serial mode from depth 63 on. The target checks come
before the ILLEGAL of an `sd` that cannot grow: the spec gives no order of the two (DEDUCED, log 21). -/
def State.call (s : State) (d : Deps) (tgt : State → Nat → W64) : Result :=
  s.successor (d.dst [127]) tgt true (
    let w := s.cw
    let link := (s.cw.pc + 4).setWidth 32
    let moved := w.jump w.A (tgt s) fun l => l.wr 127 link
    match w.serial with
    | some z =>
      if z.sd = BitVec.allOnes 32 then .next s.illegal
      else .next (s.retireWith { moved with serial := some { z with sd := z.sd + 1 } })
    | none =>
      if w.lead.depth.toNat < 63 then
        .next (s.retireWith (moved.mapLanes w.A fun _ l => { l with depth := l.depth + 1 }))
      else .next (s.retireWith { moved with serial := some ⟨w.A, Lanes.lowest w.A, 1, s.cw.pc + 4⟩ }))

/-- CALL (R356, R357). -/
def execCall (off : BitVec 22) (s : State) : Result := s.call {} fun s _ => s.offTarget off

/-- CALLX (R356, R357). -/
def execCallx (a : BitVec 7) (ta : Bool) (s : State) : Result :=
  s.call (({} : Deps).src ta [a.toNat, a.toNat + 1]) fun s i => (s.cw.lane i).rdTy .b64 a.toNat

/-- RET (R358, R40): outside serial mode the link and depth − 1, ILLEGAL at depth 0; in serial mode the link, or the
overflow point when the call that overflowed returns. -/
def execRet (a : BitVec 7) (ta : Bool) (s : State) : Result :=
  let link (s : State) (i : Nat) : W64 :=
    (s.cw.pc.extractLsb' 32 16).setWidth 64 <<< 32 ||| ((s.cw.lane i).rd a.toNat).setWidth 64
  let d := ({} : Deps).src ta [a.toNat]
  let w := s.cw
  match w.serial with
  | none =>
    if s.issues w.A d 0 && w.lead.depth == 0 then .next s.illegal
    else s.successor d link false (.next (s.retireWith (w.jump w.A (link s) fun l => { l with depth := l.depth - 1 })))
  | some z =>
    if z.sd = 1 then
      let back (_ : State) (_ : Nat) : W64 := z.overflow.setWidth 64
      s.successor d back false (.next (s.retireWith { (w.jump w.A (back s) id) with serial := z.leave }))
    else
      s.successor d link false (.next (s.retireWith { (w.jump w.A (link s) id) with serial := some { z with sd := z.sd - 1 } }))

/-- YIELD (R360, R323): the welt is ready again in the next cycle of its slice, after the instructions that are ready then. -/
def execYield (s : State) : Result :=
  s.successor {} (fun s _ => s.fallThrough) false (
    let t := s.atSwitchPoint.retireWith (s.cw.jump s.cw.A (fun _ => s.fallThrough) id)
    let ratio := ((s.coreAt s.cg.core).slices.toList.getD s.cw.slice Slice.init).ratio
    .next (t.setCw { t.cw with yielded := true, readyAt := some (nextSliceCycle ratio s.now) }))

/-- The lanes of a set exited (R25, R359); in serial mode the running lane leaves the queue (R40). -/
def Welt.exitLanes (w : Welt) (a : Lanes) : Welt :=
  { (w.mapLanes a fun _ l => { l with x := true, h := false, depth := 0, pc := 0 }) with
    serial := w.serial.bind Serial.leave }

/-- EXIT (R359), a switch point (R323): EXITED-MEMBER where a held collective names an exiting lane, of several the one last
arrived at (DEDUCED, log 19: the spec does not say which); the last EXIT waits for the streams and ends the welt. R179 lets
work be outstanding until an MWAIT alone; when the last EXIT has drained the streams it is so no more (DEDUCED, log 22). -/
def execExit (s : State) : Result :=
  s.issue s.cw.A {} 0 (
    let w := s.cw
    match w.colls.find? fun c => c.wait == .none && c.arrived != 0 && c.members &&& w.A != 0 with
    | some c =>
      .next ((s.setCw (w.giveUp c)).raise
        { cause := .exitedMember, lanes := c.members, pc := w.pc, depth := some w.lead.depth })
    | none =>
      if w.A = w.living then s.waitStreams (BitVec.allOnes 8) (
        let s1 := s.settleStreams s.cur (BitVec.allOnes 8)
        let s2 := s1.retireWith (s1.cw.exitLanes s1.cw.A)
        .next (s2.endWelt s2.cur true))
      else .next (s.atSwitchPoint.retireHeld (w.exitLanes w.A)))

/-! ### NOP, LAUNCH and JOIN -/

/-- NOP (R362). -/
def execNop (s : State) : Result := s.uniOp {} 1 s.cw

/-- The launches of a context that have not ended. -/
def State.openLaunches (s : State) (ctx : Nat) : Nat :=
  (s.launches.filter fun l => l.ctx == ctx && l.join.isNone).length

/-- LAUNCH (R363): fence, record, validity, the limit of 4,096, acceptance, in that order. A record on a host page is not read
while a ratio change is pending (R392). -/
def execLaunch (d a : BitVec 6) (ta : Bool) (s : State) : Result :=
  s.issue s.cw.A ((({} : Deps).wsrc ta a.toNat).wdst d.toNat) 0 (
    let va := s.cw.rdW a.toNat
    if field va 52 12 ≠ 0 ∨ va.toNat % 256 ≠ 0 then .next s.illegal
    else s.fullFence fun s =>
      match s.consume (s.dataXlate .load 256 va) with
      | .error f => .next (s.raise { cause := f.cause, kind := f.kind, lanes := s.cw.A, pc := s.cw.pc,
                                     addr := va.setWidth 52 })
      | .ok ls => s.inOrder ls (
        let s := (s.fillTlb s.cg.core s.cl.ctx va).reads s.cg.core ls
        let bs := ls.map (s.seenByte ⟨s.cur, s.cw.A⟩)
        let l := launchFrom s.cc s.cl.ctx ((List.range 32).map (wordAt bs)) false
        if !(l.valid s.cc.nextSeq s.cl.seed) then .next s.illegal
        else if 4096 ≤ s.openLaunches s.cl.ctx then .next (s.retire (s.cw.wrW d.toNat 0) 1)
        else
          let n := s.cc.nextSeq
          let t := s.accept l s.cl.seed
          .next (t.retire (t.cw.wrW d.toNat (BitVec.ofNat 64 n)) 1)))

/-- The issuing welt has seen a launch end: every write of it is complete, and those of engines for it (R181, R250, R320). -/
def State.hearLaunch (s : State) (i : Nat) : State :=
  (s.hearCopies s.cur (fun k => (s.copies[k]?).any fun c => (s.wgAt c.wg).launch == i) true).learn s.cur fun x =>
    if x.by_.any fun w => (s.wgAt (s.weltAt w).wg).launch == i then [s.certain s.cur] else []

/-- JOIN (R364). -/
def execJoin (d a : BitVec 6) (ta : Bool) (s : State) : Result :=
  s.issue s.cw.A ((({} : Deps).wsrc ta a.toNat).wdst d.toNat) 0 (
    let seq := s.cw.rdW a.toNat
    let done (t : State) (v : W64) : Result := .next (t.retire (t.cw.wrW d.toNat v) 1)
    if seq.toNat = s.cl.seq then done s.atSwitchPoint 0xFE
    else match s.launchIdx s.cl.ctx seq.toNat with
      | none => done s.atSwitchPoint 0xFF
      | some i => match (s.launchAt i).join with
        | none => .next (s.atSwitchPoint.stall (.join seq))
        | some v => done (s.atSwitchPoint.hearLaunch i) (if seq.toNat + 65536 < s.cc.nextSeq then 0xFF else v))

end Sys2Proof.Machine
end

