-- ==== Sys2Proof/Machine/Vector.lean ====
section
/-!
DEFINITION. Vector integer instructions: spec/06_integer_and_lane_instructions.md R123-R131, R86.
-/

namespace Sys2Proof.Machine

/-- The dependences of a two-source vector instruction. -/
def deps2 (t : Ty) (d a b : VReg) (ta tb : Bool) : Deps :=
  ((({} : Deps).src ta (regsOf t a.toNat)).src tb (regsOf t b.toNat)).dst (regsOf t d.toNat)
/-- The dependences of a one-source vector instruction. -/
def deps1 (t : Ty) (d a : VReg) (ta : Bool) : Deps :=
  (({} : Deps).src ta (regsOf t a.toNat)).dst (regsOf t d.toNat)

/-- A 32-bit two-source instruction (R125). -/
def State.vec2 (s : State) (d a b : VReg) (ta tb : Bool) (p : BitVec 2) (f : W32 → W32 → W32) : Result :=
  s.vecOp p (deps2 .b32 d a b ta tb) 0 1 fun _ l => l.wr d.toNat (f (l.rd a.toNat) (l.rd b.toNat))
/-- A 32-bit one-source instruction (R126, R127). -/
def State.vec1 (s : State) (d a : VReg) (ta : Bool) (p : BitVec 2) (f : W32 → W32) : Result :=
  s.vecOp p (deps1 .b32 d a ta) 0 1 fun _ l => l.wr d.toNat (f (l.rd a.toNat))
/-- A two-source instruction of the X form (R129, R130). -/
def State.vec2X (s : State) (t : Ty) (d a b : VReg) (ta tb : Bool) (p : BitVec 2) (f : W64 → W64 → W64) : Result :=
  s.vecOp p (deps2 t d a b ta tb) 0 2 fun _ l => l.wrTy t d.toNat (f (l.rdTy t a.toNat) (l.rdTy t b.toNat))
/-- A one-source instruction of the X form (R129, R130). -/
def State.vec1X (s : State) (t : Ty) (d a : VReg) (ta : Bool) (p : BitVec 2) (f : W64 → W64) : Result :=
  s.vecOp p (deps1 t d a ta) 0 2 fun _ l => l.wrTy t d.toNat (f (l.rdTy t a.toNat))
/-- A shift of the X form: the count is a 32-bit register modulo the width, or the immediate (R130). -/
def State.shiftX (s : State) (t : Ty) (d a b : VReg) (ta tb : Bool) (p : BitVec 2) (im : Bool) (cnt : BitVec 6)
    (f : W64 → Nat → W64) : Result :=
  s.vecOp p (if im then deps1 t d a ta
    else ((({} : Deps).src ta (regsOf t a.toNat)).src tb [b.toNat]).dst (regsOf t d.toNat)) 0 2
    fun _ l => l.wrTy t d.toNat (f (l.rdTy t a.toNat) (if im then cnt.toNat else (l.rd b.toNat).toNat % t.width))

/-- The high half of an exact product (R130, MUL.HI). -/
def mulHi (t : Ty) (a b : W64) : W64 := wrapTo t (intOf t a * intOf t b / 2 ^ t.width)

/-- ADD (R125): wraps. -/
def execAdd (d a b : BitVec 7) (ta tb : Bool) (p : BitVec 2) (s : State) : Result :=
  s.vec2 d a b ta tb p fun x y => x + y

/-- SUB (R125): wraps. -/
def execSub (d a b : BitVec 7) (ta tb : Bool) (p : BitVec 2) (s : State) : Result :=
  s.vec2 d a b ta tb p fun x y => x - y

/-- MUL.LO (R125): the low half of the product. -/
def execMulLo (d a b : BitVec 7) (ta tb : Bool) (p : BitVec 2) (s : State) : Result :=
  s.vec2 d a b ta tb p fun x y => x * y

/-- MUL.HI (R125): the high half of the signed product. -/
def execMulHi (d a b : BitVec 7) (ta tb : Bool) (p : BitVec 2) (s : State) : Result :=
  s.vec2 d a b ta tb p fun x y => (mulHi .s32 (x.setWidth 64) (y.setWidth 64)).setWidth 32

/-- MIN (R125): signed. -/
def execMin (d a b : BitVec 7) (ta tb : Bool) (p : BitVec 2) (s : State) : Result :=
  s.vec2 d a b ta tb p fun x y => if x.toInt ≤ y.toInt then x else y

/-- MAX (R125): signed. -/
def execMax (d a b : BitVec 7) (ta tb : Bool) (p : BitVec 2) (s : State) : Result :=
  s.vec2 d a b ta tb p fun x y => if y.toInt ≤ x.toInt then x else y

/-- AND (R125). -/
def execAnd (d a b : BitVec 7) (ta tb : Bool) (p : BitVec 2) (s : State) : Result :=
  s.vec2 d a b ta tb p fun x y => x &&& y

/-- OR (R125). -/
def execOr (d a b : BitVec 7) (ta tb : Bool) (p : BitVec 2) (s : State) : Result :=
  s.vec2 d a b ta tb p fun x y => x ||| y

/-- XOR (R125). -/
def execXor (d a b : BitVec 7) (ta tb : Bool) (p : BitVec 2) (s : State) : Result :=
  s.vec2 d a b ta tb p fun x y => x ^^^ y

/-- ANDN (R125): a and not b. -/
def execAndn (d a b : BitVec 7) (ta tb : Bool) (p : BitVec 2) (s : State) : Result :=
  s.vec2 d a b ta tb p fun x y => x &&& ~~~y

/-- SHL (R125): the count is the low 5 bits of b. -/
def execShl (d a b : BitVec 7) (ta tb : Bool) (p : BitVec 2) (s : State) : Result :=
  s.vec2 d a b ta tb p fun x y => x <<< (y.toNat % 32)

/-- SHR (R125): zeros come in. -/
def execShr (d a b : BitVec 7) (ta tb : Bool) (p : BitVec 2) (s : State) : Result :=
  s.vec2 d a b ta tb p fun x y => x >>> (y.toNat % 32)

/-- SAR (R125): copies of bit 31 come in. -/
def execSar (d a b : BitVec 7) (ta tb : Bool) (p : BitVec 2) (s : State) : Result :=
  s.vec2 d a b ta tb p fun x y => x.sshiftRight (y.toNat % 32)

/-- ROT (R125): rotated left. -/
def execRot (d a b : BitVec 7) (ta tb : Bool) (p : BitVec 2) (s : State) : Result :=
  s.vec2 d a b ta tb p fun x y => x.rotateLeft (y.toNat % 32)

/-- ADD with a signed immediate (R126). -/
def execAddImm (d a : BitVec 7) (imm : BitVec 8) (ta : Bool) (p : BitVec 2) (s : State) : Result :=
  s.vec1 d a ta p fun x => x + imm.signExtend 32

/-- SHL by an immediate count (R126). -/
def execShlImm (d a : BitVec 7) (cnt : BitVec 6) (ta : Bool) (p : BitVec 2) (s : State) : Result :=
  s.vec1 d a ta p fun x => x <<< cnt.toNat

/-- SHR by an immediate count (R126). -/
def execShrImm (d a : BitVec 7) (cnt : BitVec 6) (ta : Bool) (p : BitVec 2) (s : State) : Result :=
  s.vec1 d a ta p fun x => x >>> cnt.toNat

/-- SAR by an immediate count (R126). -/
def execSarImm (d a : BitVec 7) (cnt : BitVec 6) (ta : Bool) (p : BitVec 2) (s : State) : Result :=
  s.vec1 d a ta p fun x => x.sshiftRight cnt.toNat

/-- ROT by an immediate count (R126). -/
def execRotImm (d a : BitVec 7) (cnt : BitVec 6) (ta : Bool) (p : BitVec 2) (s : State) : Result :=
  s.vec1 d a ta p fun x => x.rotateLeft cnt.toNat

/-- ABS (R127): 0x8000_0000 gives itself. -/
def execAbs (d a : BitVec 7) (ta : Bool) (p : BitVec 2) (s : State) : Result :=
  s.vec1 d a ta p fun x => BitVec.ofInt 32 |x.toInt|

/-- NEG (R127). -/
def execNeg (d a : BitVec 7) (ta : Bool) (p : BitVec 2) (s : State) : Result :=
  s.vec1 d a ta p fun x => -x

/-- NOT (R127). -/
def execNot (d a : BitVec 7) (ta : Bool) (p : BitVec 2) (s : State) : Result :=
  s.vec1 d a ta p fun x => ~~~x

/-- CLZ (R127): leading zeros, 0-32. -/
def execClz (d a : BitVec 7) (ta : Bool) (p : BitVec 2) (s : State) : Result :=
  s.vec1 d a ta p fun x => BitVec.ofNat 32 (clzK 32 (x.setWidth 64))

/-- POPC (R127): the number of ones. -/
def execPopc (d a : BitVec 7) (ta : Bool) (p : BitVec 2) (s : State) : Result :=
  s.vec1 d a ta p fun x => BitVec.ofNat 32 (popK 32 (x.setWidth 64))

/-- BREV (R127): the bits in reverse order. -/
def execBrev (d a : BitVec 7) (ta : Bool) (p : BitVec 2) (s : State) : Result :=
  s.vec1 d a ta p fun x => (brevK 32 (x.setWidth 64)).setWidth 32

/-- MOV (R127). -/
def execMov (d a : BitVec 7) (ta : Bool) (p : BitVec 2) (s : State) : Result :=
  s.vec1 d a ta p fun x => x

/-- ADD, X form (R130). -/
def execAddX (d a b : BitVec 7) (ta tb : Bool) (p : BitVec 2) (ty : Ty) (s : State) : Result :=
  s.vec2X ty d a b ta tb p fun x y => wrapTo ty (intOf ty x + intOf ty y)

/-- SUB, X form (R130). -/
def execSubX (d a b : BitVec 7) (ta tb : Bool) (p : BitVec 2) (ty : Ty) (s : State) : Result :=
  s.vec2X ty d a b ta tb p fun x y => wrapTo ty (intOf ty x - intOf ty y)

/-- MUL.LO, X form (R130). -/
def execMulLoX (d a b : BitVec 7) (ta tb : Bool) (p : BitVec 2) (ty : Ty) (s : State) : Result :=
  s.vec2X ty d a b ta tb p fun x y => wrapTo ty (intOf ty x * intOf ty y)

/-- MUL.HI, X form (R130). -/
def execMulHiX (d a b : BitVec 7) (ta tb : Bool) (p : BitVec 2) (ty : Ty) (s : State) : Result :=
  s.vec2X ty d a b ta tb p fun x y => mulHi ty x y

/-- MAD (R130): a × b + c, wrapped. -/
def execMad (d a b : BitVec 7) (ta tb : Bool) (p : BitVec 2) (c : BitVec 7) (tc : Bool) (ty : Ty) (s : State) : Result
    :=
  s.vecOp p ((deps2 ty d a b ta tb).src tc (regsOf ty c.toNat)) 0 2 fun _ l => l.wrTy ty d.toNat
    (wrapTo ty (intOf ty (l.rdTy ty a.toNat) * intOf ty (l.rdTy ty b.toNat) + intOf ty (l.rdTy ty c.toNat)))

/-- MIN, X form (R130). -/
def execMinX (d a b : BitVec 7) (ta tb : Bool) (p : BitVec 2) (ty : Ty) (s : State) : Result :=
  s.vec2X ty d a b ta tb p fun x y => if intOf ty x ≤ intOf ty y then imageOf ty x else imageOf ty y

/-- MAX, X form (R130). -/
def execMaxX (d a b : BitVec 7) (ta tb : Bool) (p : BitVec 2) (ty : Ty) (s : State) : Result :=
  s.vec2X ty d a b ta tb p fun x y => if intOf ty y ≤ intOf ty x then imageOf ty x else imageOf ty y

/-- ABS, X form (R130). -/
def execAbsX (d a : BitVec 7) (ta : Bool) (p : BitVec 2) (ty : Ty) (s : State) : Result :=
  s.vec1X ty d a ta p fun x => wrapTo ty |intOf ty x|

/-- NEG, X form (R130). -/
def execNegX (d a : BitVec 7) (ta : Bool) (p : BitVec 2) (ty : Ty) (s : State) : Result :=
  s.vec1X ty d a ta p fun x => wrapTo ty (-(intOf ty x))

/-- AND, X form (R130). -/
def execAndX (d a b : BitVec 7) (ta tb : Bool) (p : BitVec 2) (ty : Ty) (s : State) : Result :=
  s.vec2X ty d a b ta tb p fun x y => imageOf ty (x &&& y)

/-- OR, X form (R130). -/
def execOrX (d a b : BitVec 7) (ta tb : Bool) (p : BitVec 2) (ty : Ty) (s : State) : Result :=
  s.vec2X ty d a b ta tb p fun x y => imageOf ty (x ||| y)

/-- XOR, X form (R130). -/
def execXorX (d a b : BitVec 7) (ta tb : Bool) (p : BitVec 2) (ty : Ty) (s : State) : Result :=
  s.vec2X ty d a b ta tb p fun x y => imageOf ty (x ^^^ y)

/-- ANDN, X form (R130). -/
def execAndnX (d a b : BitVec 7) (ta tb : Bool) (p : BitVec 2) (ty : Ty) (s : State) : Result :=
  s.vec2X ty d a b ta tb p fun x y => imageOf ty (x &&& ~~~y)

/-- NOT, X form (R130). -/
def execNotX (d a : BitVec 7) (ta : Bool) (p : BitVec 2) (ty : Ty) (s : State) : Result :=
  s.vec1X ty d a ta p fun x => imageOf ty (~~~x)

/-- SHL, X form (R130). -/
def execShlX (d a b : BitVec 7) (ta tb : Bool) (p : BitVec 2) (ty : Ty) (im : Bool) (cnt : BitVec 6) (s : State) :
    Result :=
  s.shiftX ty d a b ta tb p im cnt fun x n => shlK ty x n

/-- SHR, X form (R130). -/
def execShrX (d a b : BitVec 7) (ta tb : Bool) (p : BitVec 2) (ty : Ty) (im : Bool) (cnt : BitVec 6) (s : State) :
    Result :=
  s.shiftX ty d a b ta tb p im cnt fun x n => shrK ty x n

/-- SAR, X form (R130). -/
def execSarX (d a b : BitVec 7) (ta tb : Bool) (p : BitVec 2) (ty : Ty) (im : Bool) (cnt : BitVec 6) (s : State) :
    Result :=
  s.shiftX ty d a b ta tb p im cnt fun x n => sarK ty x n

/-- ROT, X form (R130). -/
def execRotX (d a b : BitVec 7) (ta tb : Bool) (p : BitVec 2) (ty : Ty) (im : Bool) (cnt : BitVec 6) (s : State) :
    Result :=
  s.shiftX ty d a b ta tb p im cnt fun x n => rotK ty x n

/-- CLZ, X form (R130). -/
def execClzX (d a : BitVec 7) (ta : Bool) (p : BitVec 2) (ty : Ty) (s : State) : Result :=
  s.vec1X ty d a ta p fun x => imageOf ty (BitVec.ofNat 64 (clzK ty.width x))

/-- POPC, X form (R130). -/
def execPopcX (d a : BitVec 7) (ta : Bool) (p : BitVec 2) (ty : Ty) (s : State) : Result :=
  s.vec1X ty d a ta p fun x => imageOf ty (BitVec.ofNat 64 (popK ty.width x))

/-- BREV, X form (R130). -/
def execBrevX (d a : BitVec 7) (ta : Bool) (p : BitVec 2) (ty : Ty) (s : State) : Result :=
  s.vec1X ty d a ta p fun x => imageOf ty (brevK ty.width x)

/-- BFE (R130): a field of len + 1 bits from bit pos. -/
def execBfe (d a : BitVec 7) (ta : Bool) (p : BitVec 2) (ty : Ty) (pos len : BitVec 6) (s : State) : Result :=
  s.vec1X ty d a ta p fun x => bfeK ty x pos.toNat (len.toNat + 1)

/-- BFI (R130): the field of a replaced by the low bits of b. -/
def execBfi (d a b : BitVec 7) (ta tb : Bool) (p : BitVec 2) (ty : Ty) (pos len : BitVec 6) (s : State) : Result :=
  s.vec2X ty d a b ta tb p fun x y => bfiK ty x y pos.toNat (len.toNat + 1)

/-- SEL (R130): a where the lane's bit of the mask is 1, else b. -/
def execSel (d a b : BitVec 7) (ta tb : Bool) (p : BitVec 2) (ty : Ty) (sl : BitVec 4) (s : State) : Result :=
  s.vecOp p (deps2 ty d a b ta tb) 0 2 fun i l => l.wrTy ty d.toNat
    (if (maskRead s.legacy s.cw sl.toNat).getLsbD i then imageOf ty (l.rdTy ty a.toNat)
     else imageOf ty (l.rdTy ty b.toNat))

/-- CMP (R130, R131): the comparison's answer in the lane's bit of md. -/
def execCmp (md : BitVec 4) (a b : BitVec 7) (ta tb : Bool) (p : BitVec 2) (ty : Ty) (cond : BitVec 3) (s : State) :
    Result :=
  s.maskOp p ((({} : Deps).src ta (regsOf ty a.toNat)).src tb (regsOf ty b.toNat)) 2 md fun _ l =>
    condInt cond.toNat (intOf ty (l.rdTy ty a.toNat)) (intOf ty (l.rdTy ty b.toNat))

/-- MOV, X form (R130). -/
def execMovX (d a : BitVec 7) (ta : Bool) (p : BitVec 2) (ty : Ty) (s : State) : Result :=
  s.vec1X ty d a ta p fun x => imageOf ty x

/-- ADD.sat (R130). -/
def execAddSat (d a b : BitVec 7) (ta tb : Bool) (p : BitVec 2) (ty : Ty) (s : State) : Result :=
  s.vec2X ty d a b ta tb p fun x y => satTo ty (intOf ty x + intOf ty y)

/-- SUB.sat (R130). -/
def execSubSat (d a b : BitVec 7) (ta tb : Bool) (p : BitVec 2) (ty : Ty) (s : State) : Result :=
  s.vec2X ty d a b ta tb p fun x y => satTo ty (intOf ty x - intOf ty y)

/-- MOVI (R128): the sign-extended immediate. -/
def execMovi (d : BitVec 7) (imm : BitVec 16) (p : BitVec 2) (s : State) : Result :=
  s.vecOp p (({} : Deps).dst [d.toNat]) 0 1 fun _ l => l.wr d.toNat (imm.signExtend 32)

/-- LIT (R86, R128): the literal, or with P the pair hi16 and literal; no predicate, every lane of A. -/
def execLitVector (d : BitVec 7) (pr : Bool) (hi : BitVec 16) (lit : W32) (s : State) : Result :=
  s.vecOp 0 (({} : Deps).dst (if pr then [d.toNat, d.toNat + 1] else [d.toNat])) 0 2 fun _ l =>
    if pr then l.wrTy .b64 d.toNat (hi.setWidth 32 ++ lit) else l.wr d.toNat lit

end Sys2Proof.Machine
end

