-- ==== Sys2Proof/Machine/Float.lean ====
section
/-!
DEFINITION. Floating-point and conversion instructions: spec/07_float_instructions.md R149-R164, with the flags and
traps of spec/05 R108-R110.
-/

namespace Sys2Proof.Machine

/-- The tokens held for a trapping instruction return at once (R164, R386): its holding ends now. -/
def State.tokensBack (s : State) (price : Nat) : State :=
  if price = 0 then s
  else
    let c := s.coreAt s.cg.core
    let who : Holder := .welt s.cur s.cw.order
    let over_ := c.held.map fun (h : HeldTokens) => if h.who == who then { h with left := 0 } else h
    s.setCoreAt s.cg.core { c with held := over_ }

/-- A vector instruction with conditions (R110): each lane of E gives a result and its conditions; one trap naming the
lanes in which its condition occurred, or the results and the flags. -/
def State.floatOp (s : State) (p : BitVec 2) (d : Deps) (price len : Nat) (f : Nat → Lane → W64 × FlagBits)
    (wr : Lane → W64 → Lane) : Result :=
  s.issue (s.E p) d price (
    let w := s.cw
    let e := s.E p
    let flags := (Lanes.nats e).foldl (fun acc i => acc ||| (f i (w.lane i)).2) 0
    match fpTrap w.fpctl flags with
    | some c => .next ((s.tokensBack price).trapAt c
        (e &&& Lanes.ofPred fun i => (f i w.lanes[i]).2 &&& causeFlag c != 0))
    | none => .next (s.retire { (w.mapLanes e fun i l => wr l (f i l).1) with fpctl := orFlags w.fpctl flags } len))

/-- A float source read by R149: the flush bit, then the modifiers on the sign. -/
def State.srcF (s : State) (t : Ty) (l : Lane) (r : VReg) (n a : Bool) : FVal :=
  let x := flushIn t (flushes s.cw.fpctl t) (decodeF t (l.rdTy t r.toNat))
  let x := if a then x.abs else x
  if n then x.negate else x

/-- A result rounded by a rounding code, with its conditions (R150, R153). -/
def State.roundF (s : State) (t : Ty) (rm : BitVec 3) (x : Mode → Exact) : W64 × FlagBits :=
  let m := modeOf s.cw.fpctl rm
  let r := finish t (flushes s.cw.fpctl t) m (x m)
  (encodeF t r.1, r.2)

/-- A value with conditions as bits. -/
def bitsF (t : Ty) (r : FVal × FlagBits) : W64 × FlagBits := (encodeF t r.1, r.2)

/-- The price of FADD, FSUB, FMUL and FFMA (R164). -/
def priceAdd (t : Ty) : Nat := if t = .f64 then 2 else 1
/-- The price of FDIV and FSQRT (R164). -/
def priceDiv (t : Ty) : Nat := if t = .f64 then 4 else if t = .f32 then 2 else 1

/-- A two-source float instruction. -/
def State.float2 (s : State) (d a b : VReg) (ta tb : Bool) (p : BitVec 2) (t : Ty) (na aa nb ab : Bool)
    (price len : Nat) (f : FVal → FVal → W64 × FlagBits) : Result :=
  s.floatOp p (deps2 t d a b ta tb) price len (fun _ l => f (s.srcF t l a na aa) (s.srcF t l b nb ab))
    fun l x => l.wrTy t d.toNat x
/-- A one-source float instruction. -/
def State.float1 (s : State) (d a : VReg) (ta : Bool) (p : BitVec 2) (t : Ty) (na aa : Bool)
    (price len : Nat) (f : FVal → W64 × FlagBits) : Result :=
  s.floatOp p (deps1 t d a ta) price len (fun _ l => f (s.srcF t l a na aa)) fun l x => l.wrTy t d.toNat x

/-- An approximate function (R155): its choice depends on the source as read. -/
def State.approx1 (s : State) (d a : VReg) (ta : Bool) (p : BitVec 2) (t : Ty) (na aa : Bool)
    (f : Ty → Bool → W64 → FVal → FVal × FlagBits) : Result :=
  s.float1 d a ta p t na aa 1 2 fun x => bitsF t (f t (flushes s.cw.fpctl t) (encodeF t x) x)

/-- The mode of a conversion: with code 4 the draw for element `i` (R107), under the launch's seed. -/
def State.modeFor (s : State) (rm : BitVec 3) (i : W64) (salt : BitVec 8) : Mode :=
  if rm = 4 then srDraw s.cl.top i (salt.setWidth 32) else modeOf s.cw.fpctl rm

/-- An instruction that reads a narrow-format descriptor: R115 is checked whether or not a lane executes. Where none
executes, R54 looks at no lane, and the value is needed all the same: the model waits until the descriptor register is full,
with t = 1 too (DEDUCED, log 35). -/
def State.narrowOp (s : State) (p : BitVec 2) (b : WReg) (ta : Bool) (d : Deps) (wr : Lane → W64 → Lane)
    (f : Narrow → W32 → Nat → Lane → W64 × FlagBits) : Result :=
  let dd := d.wsrc ta b.toNat
  match s.cw.readiness (s.E p) dd with
  | .go =>
    if s.cw.badSources (s.E p) dd ≠ 0 then s.issue (s.E p) dd 0 (.next s)
    else if !(s.cw.fullW b.toNat) then .next (s.stall (.register (128 + b.toNat)))
    else
      let x := s.cw.rdW b.toNat
      if narrowOk (x.setWidth 32) then
        s.floatOp p dd 0 2 (f (narrowOf (x.setWidth 32)) (x.extractLsb' 32 32)) wr
      else .next s.illegal
  | _ => s.issue (s.E p) dd 0 (.next s)

/-- An exact input of a conversion rounded into an IEEE type; none is the invalid case (R121, R163). -/
def State.toType (s : State) (t : Ty) (m : Mode) (x : Option FVal) : W64 × FlagBits :=
  match x with
  | some v => bitsF t (floatToFloat t (flushes s.cw.fpctl t) m v)
  | none => (canonNan t, fNV ||| fNP)

/-- An exact input rounded into a narrow format; none is the invalid case (R163). -/
def toNarrow (n : Narrow) (m : Mode) (x : Option FVal) (f : FlagBits) : W64 × FlagBits :=
  match x with
  | some v => let r := n.round m v
    (BitVec.ofNat 64 r.1, r.2 ||| f)
  | none => (BitVec.ofNat 64 n.nanAnswer.1, f ||| fNV ||| fNP ||| n.nanAnswer.2)

/-- The S20 scale in a lane's register (R119, R161). -/
def Lane.scale (l : Lane) (c : VReg) : Option Rat := s20 ((l.rd c.toNat).toNat % 2 ^ 20)

/-- FADD (R153): .f32, RNE, no modifiers. -/
def execFadd (d a b : BitVec 7) (ta tb : Bool) (p : BitVec 2) (s : State) : Result :=
  s.float2 d a b ta tb p .f32 false false false false (priceAdd .f32) 1 fun x y => s.roundF .f32 0 fun m => addExact m x y

/-- FSUB (R153): .f32, RNE, no modifiers. -/
def execFsub (d a b : BitVec 7) (ta tb : Bool) (p : BitVec 2) (s : State) : Result :=
  s.float2 d a b ta tb p .f32 false false false false (priceAdd .f32) 1 fun x y => s.roundF .f32 0 fun m => addExact m x y.negate

/-- FMUL (R153): .f32, RNE, no modifiers. -/
def execFmul (d a b : BitVec 7) (ta tb : Bool) (p : BitVec 2) (s : State) : Result :=
  s.float2 d a b ta tb p .f32 false false false false (priceAdd .f32) 1 fun x y => s.roundF .f32 0 fun _ => mulExact x y

/-- FDIV (R153): .f32, RNE, no modifiers. -/
def execFdiv (d a b : BitVec 7) (ta tb : Bool) (p : BitVec 2) (s : State) : Result :=
  s.float2 d a b ta tb p .f32 false false false false (priceDiv .f32) 1 fun x y => s.roundF .f32 0 fun _ => divExact x y

/-- FMIN (R154). -/
def execFmin (d a b : BitVec 7) (ta tb : Bool) (p : BitVec 2) (s : State) : Result :=
  s.float2 d a b ta tb p .f32 false false false false 0 1 fun x y => bitsF .f32 (minMaxF false x y)

/-- FMAX (R154). -/
def execFmax (d a b : BitVec 7) (ta tb : Bool) (p : BitVec 2) (s : State) : Result :=
  s.float2 d a b ta tb p .f32 false false false false 0 1 fun x y => bitsF .f32 (minMaxF true x y)

/-- FSQRT (R153). -/
def execFsqrt (d a : BitVec 7) (ta : Bool) (p : BitVec 2) (s : State) : Result :=
  s.float1 d a ta p .f32 false false (priceDiv .f32) 1 fun x => s.roundF .f32 0 fun _ => sqrtExact x

/-- FADD with type, rounding and modifiers (R152, R153). -/
def execFaddX (d a b : BitVec 7) (ta tb : Bool) (p : BitVec 2) (ty : Ty) (rm : BitVec 3) (na aa nb ab : Bool) (s :
    State) : Result :=
  s.float2 d a b ta tb p ty na aa nb ab (priceAdd ty) 2 fun x y => s.roundF ty rm fun m => addExact m x y

/-- FSUB with type, rounding and modifiers (R152, R153). -/
def execFsubX (d a b : BitVec 7) (ta tb : Bool) (p : BitVec 2) (ty : Ty) (rm : BitVec 3) (na aa nb ab : Bool) (s :
    State) : Result :=
  s.float2 d a b ta tb p ty na aa nb ab (priceAdd ty) 2 fun x y => s.roundF ty rm fun m => addExact m x y.negate

/-- FMUL with type, rounding and modifiers (R152, R153). -/
def execFmulX (d a b : BitVec 7) (ta tb : Bool) (p : BitVec 2) (ty : Ty) (rm : BitVec 3) (na aa nb ab : Bool) (s :
    State) : Result :=
  s.float2 d a b ta tb p ty na aa nb ab (priceAdd ty) 2 fun x y => s.roundF ty rm fun _ => mulExact x y

/-- FDIV with type, rounding and modifiers (R152, R153). -/
def execFdivX (d a b : BitVec 7) (ta tb : Bool) (p : BitVec 2) (ty : Ty) (rm : BitVec 3) (na aa nb ab : Bool) (s :
    State) : Result :=
  s.float2 d a b ta tb p ty na aa nb ab (priceDiv ty) 2 fun x y => s.roundF ty rm fun _ => divExact x y

/-- FMIN with type and modifiers (R154). -/
def execFminX (d a b : BitVec 7) (ta tb : Bool) (p : BitVec 2) (ty : Ty) (na aa nb ab : Bool) (s : State) : Result :=
  s.float2 d a b ta tb p ty na aa nb ab 0 2 fun x y => bitsF ty (minMaxF false x y)

/-- FMAX with type and modifiers (R154). -/
def execFmaxX (d a b : BitVec 7) (ta tb : Bool) (p : BitVec 2) (ty : Ty) (na aa nb ab : Bool) (s : State) : Result :=
  s.float2 d a b ta tb p ty na aa nb ab 0 2 fun x y => bitsF ty (minMaxF true x y)

/-- FFMA (R153): one rounding. -/
def execFfma (d a b : BitVec 7) (ta tb : Bool) (p : BitVec 2) (c : BitVec 7) (tc : Bool) (ty : Ty) (rm : BitVec 3) (na
    aa nb ab nc ac : Bool) (s : State) : Result :=
  s.floatOp p ((deps2 ty d a b ta tb).src tc (regsOf ty c.toNat)) (priceAdd ty) 2
    (fun _ l => s.roundF ty rm fun m => fmaExact m (s.srcF ty l a na aa) (s.srcF ty l b nb ab) (s.srcF ty l c nc ac))
    fun l x => l.wrTy ty d.toNat x

/-- FSQRT with type, rounding and modifiers (R153). -/
def execFsqrtX (d a : BitVec 7) (ta : Bool) (p : BitVec 2) (ty : Ty) (rm : BitVec 3) (na aa : Bool) (s : State) :
    Result :=
  s.float1 d a ta p ty na aa (priceDiv ty) 2 fun x => s.roundF ty rm fun _ => sqrtExact x

/-- FRCP.A (R155). -/
def execFrcpA (d a : BitVec 7) (ta : Bool) (p : BitVec 2) (ty : Ty) (na aa : Bool) (s : State) : Result :=
  s.approx1 d a ta p ty na aa rcpA

/-- FRSQ.A (R155). -/
def execFrsqA (d a : BitVec 7) (ta : Bool) (p : BitVec 2) (ty : Ty) (na aa : Bool) (s : State) : Result :=
  s.approx1 d a ta p ty na aa rsqA

/-- FEXP2.A (R155). -/
def execFexp2A (d a : BitVec 7) (ta : Bool) (p : BitVec 2) (ty : Ty) (na aa : Bool) (s : State) : Result :=
  s.approx1 d a ta p ty na aa exp2A

/-- FLOG2.A (R155). -/
def execFlog2A (d a : BitVec 7) (ta : Bool) (p : BitVec 2) (ty : Ty) (na aa : Bool) (s : State) : Result :=
  s.approx1 d a ta p ty na aa log2A

/-- FCMP (R156): bits of E in M[md]. -/
def execFcmp (md : BitVec 4) (a b : BitVec 7) (ta tb : Bool) (p : BitVec 2) (cond : BitVec 3) (ty : Ty) (na aa nb ab :
    Bool) (s : State) : Result :=
  s.issue (s.E p) ((({} : Deps).src ta (regsOf ty a.toNat)).src tb (regsOf ty b.toNat)) 0 (
    let w := s.cw
    let e := s.E p
    let r (i : Nat) : Bool × FlagBits :=
      condF cond.toNat (s.srcF ty (w.lane i) a na aa) (s.srcF ty (w.lane i) b nb ab)
    let flags := (Lanes.nats e).foldl (fun acc i => acc ||| (r i).2) 0
    match fpTrap w.fpctl flags with
    | some c => .next (s.trapAt c (e &&& Lanes.ofPred fun i => (r i).2 &&& causeFlag c != 0))
    | none =>
      let old := maskRead s.legacy w md.toNat
      let new := Lanes.ofPred fun i => if e.getLsbD i then (r i).1 else old.getLsbD i
      .next (s.retire { maskWrite s.legacy w md.toNat new with fpctl := orFlags w.fpctl flags } 2))

/-- FCLASS (R157): reads raw bits, ignores the flush bits. -/
def execFclass (d a : BitVec 7) (ta : Bool) (p : BitVec 2) (ty : Ty) (s : State) : Result :=
  s.vecOp p ((({} : Deps).src ta (regsOf ty a.toNat)).dst [d.toNat]) 0 2 fun _ l =>
    l.wr d.toNat (BitVec.ofNat 32 (2 ^ classF ty (l.rdTy ty a.toNat)))

/-- CVT (R158, R159): float to float, integer to float, float to integer; SR with the element index in vc. -/
def execCvt (d a : BitVec 7) (ta : Bool) (p : BitVec 2) (c : BitVec 7) (tc : Bool) (dty : Ty) (rm : BitVec 3) (sty :
    Ty) (salt : BitVec 8) (s : State) : Result :=
  let dep := ((({} : Deps).src ta (regsOf sty a.toNat)).dst (regsOf dty d.toNat))
  s.floatOp p (if rm = 4 then dep.src tc [c.toNat] else dep) 0 2
    (fun _ l =>
      let m := s.modeFor rm ((l.rd c.toNat).setWidth 64) salt
      if !sty.isFloat then
        bitsF dty (roundRat dty (flushes s.cw.fpctl dty) m false (intOf sty (l.rdTy sty a.toNat)))
      else if dty.isFloat then s.toType dty m (some (s.srcF sty l a false false))
      else floatToInt dty m (s.srcF sty l a false false))
    fun l x => l.wrTy dty d.toNat x

/-- CVTN (R161): rounded into the format. -/
def execCvtn (d a : BitVec 7) (b : BitVec 6) (ta : Bool) (p : BitVec 2) (ty : Ty) (rm : BitVec 3) (salt : BitVec 8) (s
    : State) : Result :=
  s.narrowOp p b ta ((({} : Deps).src ta (regsOf ty a.toNat)).dst [d.toNat]) (fun l x => l.wr d.toNat (x.setWidth 32))
    fun n base i l => toNarrow n (s.modeFor rm (base.setWidth 64 + BitVec.ofNat 64 i) salt)
      (some (s.srcF ty l a false false)) 0

/-- CVTN.from (R161): decoded, and rounded into the type. -/
def execCvtnFrom (d a : BitVec 7) (b : BitVec 6) (ta : Bool) (p : BitVec 2) (ty : Ty) (rm : BitVec 3) (s : State) :
    Result :=
  s.narrowOp p b ta ((({} : Deps).src ta [a.toNat]).dst (regsOf ty d.toNat)) (fun l x => l.wrTy ty d.toNat x)
    fun n _ _ l => s.toType ty (modeOf s.cw.fpctl rm) (some (n.decode (l.rd a.toNat).toNat))

/-- BSCALE (R162). -/
def execBscale (d a : BitVec 7) (b : BitVec 6) (ta : Bool) (p : BitVec 2) (ty : Ty) (s : State) : Result :=
  s.narrowOp p b ta ((({} : Deps).src ta (regsOf ty a.toNat)).dst [d.toNat]) (fun l x => l.wr d.toNat (x.setWidth 32))
    fun n _ _ l => let x := s.srcF ty l a false true
      let r := bscale n (freeScale n x) x
      (BitVec.ofNat 64 r.1, r.2)

/-- QNT (R161, R163). -/
def execQnt (d a : BitVec 7) (b : BitVec 6) (ta : Bool) (p : BitVec 2) (c : BitVec 7) (tc : Bool) (ty : Ty) (rm :
    BitVec 3) (salt : BitVec 8) (s : State) : Result :=
  s.narrowOp p b ta (((({} : Deps).src ta (regsOf ty a.toNat)).src tc [c.toNat]).dst [d.toNat])
    (fun l x => l.wr d.toNat (x.setWidth 32))
    fun n base i l =>
      let q := quotient (s.srcF ty l a false false) (l.scale c)
      toNarrow n (s.modeFor rm (base.setWidth 64 + BitVec.ofNat 64 i) salt) q.1 q.2

/-- DQNT (R161, R163). -/
def execDqnt (d a : BitVec 7) (b : BitVec 6) (ta : Bool) (p : BitVec 2) (c : BitVec 7) (tc : Bool) (ty : Ty) (rm :
    BitVec 3) (s : State) : Result :=
  s.narrowOp p b ta (((({} : Deps).src ta [a.toNat]).src tc [c.toNat]).dst (regsOf ty d.toNat))
    (fun l x => l.wrTy ty d.toNat x)
    fun n _ _ l => s.toType ty (modeOf s.cw.fpctl rm) (scaled (n.decode (l.rd a.toNat).toNat) (l.scale c))

end Sys2Proof.Machine
end

