-- ==== Sys2Proof/Machine/Digest.lean ====
section
/-!
DEFINITION. SHA-384, with which R415 measures images. The spec names the function and gives no definition of it: it is the
one of FIPS 180-4 (PRESUMED, log 12), its constants from the roots of the first primes.
-/

namespace Sys2Proof.Machine

/-- The first 80 primes. -/
def shaPrimes : List Nat :=
  [2, 3, 5, 7, 11, 13, 17, 19, 23, 29, 31, 37, 41, 43, 47, 53, 59, 61, 67, 71]
  ++ [73, 79, 83, 89, 97, 101, 103, 107, 109, 113, 127, 131, 137, 139, 149, 151, 157, 163, 167, 173]
  ++ [179, 181, 191, 193, 197, 199, 211, 223, 227, 229, 233, 239, 241, 251, 257, 263, 269, 271, 277, 281]
  ++ [283, 293, 307, 311, 313, 317, 331, 337, 347, 349, 353, 359, 367, 373, 379, 383, 389, 397, 401, 409]

/-- The largest number below 2^`bits` whose `e`-th power is at most `n`. -/
def rootOf (e n bits : Nat) : Nat :=
  (List.range bits).foldr (fun i r => if (r + 2 ^ i) ^ e ≤ n then r + 2 ^ i else r) 0

/-- The first 64 bits of the fraction of the `e`-th root of a prime. -/
def rootFraction (e p : Nat) : W64 := BitVec.ofNat 64 (rootOf e (p * 2 ^ (64 * e)) 72)

/-- The round constants: cube roots. -/
def shaRound : List W64 := shaPrimes.map (rootFraction 3)
/-- The initial value of SHA-384: square roots of the 9th to the 16th prime. -/
def shaInit : List W64 := ((shaPrimes.drop 8).take 8).map (rootFraction 2)

/-- The words of the schedule, newest first, from the block's 16 words, newest first: `n` more of them. -/
def shaSchedule : Nat → List W64 → List W64
  | 0, ws => ws
  | n + 1, ws =>
    let w (k : Nat) : W64 := ws.getD (k - 1) 0
    let s0 := (w 15).rotateRight 1 ^^^ (w 15).rotateRight 8 ^^^ (w 15 >>> 7)
    let s1 := (w 2).rotateRight 19 ^^^ (w 2).rotateRight 61 ^^^ (w 2 >>> 6)
    shaSchedule n ((w 16 + s0 + w 7 + s1) :: ws)

/-- One round on the eight working words. -/
def shaStep (h : List W64) (kw : W64) : List W64 :=
  match h with
  | [a, b, c, d, e, f, g, x] =>
    let s1 := e.rotateRight 14 ^^^ e.rotateRight 18 ^^^ e.rotateRight 41
    let t1 := x + s1 + ((e &&& f) ^^^ (~~~e &&& g)) + kw
    let s0 := a.rotateRight 28 ^^^ a.rotateRight 34 ^^^ a.rotateRight 39
    let t2 := s0 + ((a &&& b) ^^^ (a &&& c) ^^^ (b &&& c))
    [t1 + t2, a, b, c, d + t1, e, f, g]
  | _ => h

/-- One block of 16 words taken into the hash. -/
def shaBlock (h : List W64) (ws : List W64) : List W64 :=
  let sched := (shaSchedule 64 ws.reverse).reverse
  List.zipWith (· + ·) h ((List.zipWith (· + ·) shaRound sched).foldl shaStep h)

/-- A number of `n` bytes, highest byte first. -/
def bytesBE (x n : Nat) : List Byte := ((List.range n).map fun i => BitVec.ofNat 8 (x / 2 ^ (8 * i))).reverse

/-- The message padded to whole blocks of 128 bytes. -/
def shaPad (m : List Byte) : List Byte :=
  m ++ 0x80#8 :: List.replicate ((239 - m.length % 128) % 128) 0 ++ bytesBE (8 * m.length) 16

/-- The 16 words of block `i`. -/
def shaWords (m : List Byte) (i : Nat) : List W64 :=
  (List.range 16).map fun j => BitVec.ofNat 64 (leValue ((m.drop (128 * i + 8 * j)).take 8).reverse)

/-- SHA-384 of bytes: 48 bytes. -/
def sha384 (m : List Byte) : List Byte :=
  let p := shaPad m
  let h := (List.range (p.length / 128)).foldl (fun h i => shaBlock h (shaWords p i)) shaInit
  (h.take 6).flatMap fun w => bytesBE w.toNat 8

end Sys2Proof.Machine
end

