-- ==== Sys2Proof/Machine/Regions.lean ====
section
/-!
DEFINITION. Region instructions and what the home of a region does: spec/09_fitted_regions.md R196-R220.
-/

namespace Sys2Proof.Machine

/-! ### Descriptors (R215) -/

/-- A halfword among bytes. -/
def halfAt (bs : List Byte) (i : Nat) : BitVec 16 := bs.getD (i + 1) 0 ++ bs.getD i 0

/-- The layers less 1 of a descriptor. -/
def descLayers (bs : List Byte) : Nat := field (wordAt bs 2) 24 2
/-- The dimensions of a descriptor. -/
def descDims (bs : List Byte) : Nat := field (wordAt bs 2) 26 2 + 1
/-- The extent field of a dimension. -/
def descExtent (bs : List Byte) (j : Nat) : Nat := field (wordAt bs (j / 2)) (32 * (j % 2)) 32
/-- The width of a layer. -/
def descWidth (bs : List Byte) (l : Nat) : Nat :=
  if l = descLayers bs then 1 else field (wordAt bs 2) (20 - 4 * l) 4 + 1
/-- The activation field of a layer. -/
def descAct (bs : List Byte) (l : Nat) : Nat := field (wordAt bs 2) (14 - 2 * l) 2

/-- Whether the network fields of a descriptor are valid: layer count, widths, activations (R215). -/
def descNetOk (bs : List Byte) : Bool :=
  let nl := descLayers bs
  let q := wordAt bs 2
  nl != 3 && (decide (1 ≤ nl) || field q 20 4 == 0) && (nl == 2 || field q 16 4 == 0) && descAct bs 0 != 3
    && (if 1 ≤ nl then descAct bs 1 != 3 else descAct bs 1 == 0) && (if nl = 2 then descAct bs 2 != 3 else descAct bs 2 == 0)

/-- The network of a descriptor (R215). -/
def descNet (bs : List Byte) : Net where
  scale := (List.range (descDims bs)).map fun j => halfAt bs (64 + 4 * j)
  offset := (List.range (descDims bs)).map fun j => halfAt bs (66 + 4 * j)
  layers := (List.range (descLayers bs + 1)).map fun l =>
    { width := descWidth bs l
      act := descAct bs l
      weights := (List.range 256).map fun i => halfAt bs (128 + 544 * l + 2 * i)
      biases := (List.range 16).map fun i => halfAt bs (128 + 544 * l + 512 + 2 * i) }

/-- The element type of a descriptor. -/
def descTy (bs : List Byte) : Option Ty := Ty.ofCode ((wordAt bs 2).extractLsb' 28 4)
/-- The width of an element in bits; a narrow code has its own (R116). -/
def elemWidth (t : Ty) (desc : W32) : Nat := if t = .nx then (narrowOf desc).width else t.width

/-- Whether a descriptor is valid (R215). -/
def descOk (bs : List Byte) : Bool :=
  let n := descDims bs
  let desc := (wordAt bs 2).extractLsb' 32 32
  let size := ((List.range n).map (descExtent bs)).foldl (· * ·) 1
  descNetOk bs
    && ((List.range 4).all fun j => if j < n then decide (1 ≤ descExtent bs j) else descExtent bs j == 0)
    && decide (size ≤ 2 ^ 24)
    && (match descTy bs with
      | some t => (t.isFloat || t == .nx) && (if t = .nx then narrowOk desc else desc == 0)
          && decide ((wordAt bs 3).toNat < 2 ^ elemWidth t desc)
      | none => false)
    && field (wordAt bs 2) 0 10 == 0
    && (match decodeF .f64 (wordAt bs 4) with
      | .fin false q => q != 0
      | _ => false)
    && field (wordAt bs 5) 25 39 == 0 && decide (1 ≤ field (wordAt bs 5) 0 25) && decide (field (wordAt bs 5) 0 25 ≤ 2 ^ 24)
    && field (wordAt bs 6) 52 12 == 0 && wordAt bs 7 == 0

/-- The region that a valid descriptor describes, with no entry (R196, R208). -/
def descRegion (ctx base home : Nat) (bs : List Byte) : Region where
  ctx := ctx
  base := base
  dims := (List.range (descDims bs)).map (descExtent bs)
  ty := (descTy bs).getD .f32
  desc := (wordAt bs 2).extractLsb' 32 32
  eps := wordAt bs 4
  fill := wordAt bs 3
  cap := field (wordAt bs 5) 0 25
  net := descNet bs
  exc := []
  gen := 0
  home := home
  refit := none
  cached := []
  live := true

/-! ### Creation (R208, R216) -/

/-- Whether the walk for an address ends at an entry with V = 0 and GD = 0 (R216). -/
def walkEmpty (s : State) (c : Ctx) (va : Nat) : Nat → Nat → Bool
  | level, table =>
    let a := table + 8 * tableIndex level va
    let e : W64 := BitVec.ofNat 64 (cellsRead s.mem a 8)
    if s.isBad a then false
    else if !(e.getLsbD 63) then !(e.getLsbD 55)
    else if malformed c level e || !(e.getLsbD 62) then false
    else match level with
      | 0 => false
      | l + 1 => walkEmpty s c va l (entryAddr e)

/-- Whether the range of a new region can be used (R216 status 2). A range that reaches beyond address 2^52, which the table
of statuses does not name, cannot (DEDUCED, log 29). -/
def State.rangeUsable (s : State) (level : Nat) (r : Region) : Bool :=
  let c := s.ctxAt r.ctx
  let img := r.imgSize
  decide (r.base + img + r.tabSize ≤ 2 ^ 52)
    && ((List.range (img / 65536)).all fun i => walkEmpty s c (r.base + 65536 * i) 3 c.root)
    && (s.regions.all fun q => !(q.live && q.ctx == r.ctx && overlap r.base img q.base (q.imgSize + q.tabSize)))
    && (List.range (r.tabSize / 65536)).all fun i =>
      match s.translate none r.ctx level .both (BitVec.ofNat 64 (r.base + img + 65536 * i)) with
      | .ok (.dev _) => true
      | _ => false

/-- The quarter whose stack holds the first page of the table area (R198). -/
def State.homeQuarter (s : State) (level : Nat) (r : Region) : Nat :=
  match s.translate none r.ctx level .both (BitVec.ofNat 64 (r.base + r.imgSize)) with
  | .ok (.dev a) => homeOf a
  | _ => 0

/-- Element `i` of an image laid out by R197. -/
def imageElem (r : Region) (bs : List Byte) (i : Nat) : W64 :=
  if r.ty = .nx then BitVec.ofNat 64 (slotAt r.slot bs i % 2 ^ (narrowOf r.desc).width)
  else BitVec.ofNat 64 (leValue ((bs.drop (i * r.ty.bytes)).take r.ty.bytes))

/-- The entries of generation 0 against a creation image (R208). -/
def creationEntries (r : Region) (bs : List Byte) : List (Nat × W64) :=
  (List.range r.size).filterMap fun i =>
    let c := imageElem r bs i
    if meets r 0 (netValue r r.net i) c then none else some (i, c)

/-- A status word: the count in bits 63:32, the status in bits 7:0 (R216, R217). -/
def statusWord (count status : Nat) : W64 := BitVec.ofNat 64 (count * 2 ^ 32 + status)

/-- RGMAKE at the home: the checks in the order of R216, and the region. With status 3, where no entry is created, bits
63:32 hold the number of entries that it would have needed (DEDUCED, log 29). -/
def State.makeRegion (s0 : State) (ctx level desc base : Nat) : State × W64 :=
  let s := s0.settleVA ctx level desc 1760
  match s.readVA ctx level desc 1760 with
  | .error _ => (s, statusWord 0 4)
  | .ok bs =>
    if !(descOk bs) then (s, statusWord 0 1)
    else if 1024 ≤ (s.regions.filter fun q => q.live && q.ctx == ctx).length then (s, statusWord 0 5)
    else
      let r0 := descRegion ctx base 0 bs
      if !(s.rangeUsable level r0) then (s, statusWord 0 2)
      else
        let r := { r0 with home := s.homeQuarter level r0 }
        let init := field (wordAt bs 6) 0 52
        let t := if init = 0 then s else s.settleVA ctx level init r.bytes
        match if init = 0 then .ok [] else t.readVA ctx level init r.bytes with
        | .error _ => (t, statusWord 0 4)
        | .ok img =>
          let es := if init = 0 then [] else creationEntries r img
          if r.cap < es.length then (t, statusWord es.length 3)
          else ({ t with regions := t.regions ++ [{ r with exc := es }] }, statusWord es.length 0)

/-! ### Instructions (R214) -/

/-- Whether an address operand of a region instruction is legal: bits 63:52 zero, and aligned (R214). -/
def regionAddr (x : W64) (align : Nat) : Bool := field x 52 12 == 0 && x.toNat % align == 0

/-- A request sent to the home: the destination becomes empty (R214). -/
def State.askHome (s : State) (d : WReg) (q : RegionReq) : State :=
  (s.retire ((s.cw.emptyW d.toNat).launchFlight (.region d q)) 1).post (.regionStatusReturn s.cur s.cw.nextFlight)

/-- RGMAKE (R214, R216). -/
def execRgmake (d a b : BitVec 6) (ta tb : Bool) (s : State) : Result :=
  s.issue s.cw.A (((({} : Deps).wsrc ta a.toNat).wsrc tb b.toNat).wdst d.toNat) 0 (
    let x := s.cw.rdW a.toNat
    let y := s.cw.rdW b.toNat
    if regionAddr x 64 && regionAddr y 65536 then
      s.fullFence fun s => .next (s.askHome d (.make s.cw.level x.toNat y.toNat))
    else .next s.illegal)

/-- RGDROP (R214, R219). -/
def execRgdrop (d a : BitVec 6) (ta : Bool) (s : State) : Result :=
  s.issue s.cw.A ((({} : Deps).wsrc ta a.toNat).wdst d.toNat) 0 (
    let x := s.cw.rdW a.toNat
    if regionAddr x 65536 then .next (s.askHome d (.drop x.toNat)) else .next s.illegal)

/-- RGFIT (R214, R217): `w0` asks for a proposal that the home chooses. -/
def execRgfit (d a b : BitVec 6) (ta tb : Bool) (s : State) : Result :=
  s.issue s.cw.A (((({} : Deps).wsrc ta a.toNat).wsrc tb b.toNat).wdst d.toNat) 0 (
    let x := s.cw.rdW a.toNat
    let y := s.cw.rdW b.toNat
    if regionAddr x 65536 && (b == 0 || regionAddr y 64) then
      s.fullFence fun s => .next (s.askHome d (.fit s.cw.level x.toNat (if b = 0 then none else some y.toNat)))
    else .next s.illegal)

/-- RGSTAT (R214, R218). -/
def execRgstat (d a : BitVec 6) (ta : Bool) (s : State) : Result :=
  s.issue s.cw.A ((({} : Deps).wsrc ta a.toNat).wdst d.toNat) 0 (
    let x := s.cw.rdW a.toNat
    if regionAddr x 65536 then .next (s.askHome d (.stat x.toNat)) else .next s.illegal)

/-! ### The home's answers -/

/-- The live region of a context with a base. -/
def State.regionBased (s : State) (ctx base : Nat) : Option Nat :=
  s.regions.findIdx? fun r => r.live && r.ctx == ctx && r.base == base

/-- The answer to a request recorded: it is what REGION_STATUS_RETURN delivers next. -/
def State.answer (s : State) (w n : Nat) (f : RegionReq) : State :=
  let x := s.weltAt w
  s.setWeltAt w { x with flights := x.flights.map fun k => match k.kind with
    | .region d _ => if k.num = n then { k with kind := .region d f } else k
    | _ => k }

/-- Bytes of device memory from an address on become undefined (R9, R219). -/
def State.blurMem (s : State) (ctx : Nat) (va n : Nat) : State :=
  (List.range (n / 65536)).foldl (fun s i =>
    match s.translate none ctx 1 .both (BitVec.ofNat 64 (va + 65536 * i)) with
    | .ok (.dev a) => { s with mem := cellsWrite s.mem a ((List.range 65536).map fun k => s.undefByte (65536 * i + k)) }
    | _ => s) s

/-- A region ends (R219): its cached lines are invalidated, a refit in flight returns status 5, and the table area holds undefined
values. -/
def State.dropRegion (s : State) (i : Nat) : State :=
  match s.regions[i]? with
  | none => s
  | some r =>
    let s1 := match r.refit with
      | some f => (s.answer f.w f.flight (.done (statusWord 0 5))).post (.regionStatusReturn f.w f.flight)
      | none => s
    let s2 : State :=
      { s1.recallRegion i with regions := s1.regions.set i { r with live := false, refit := none, cached := [] } }
    s2.blurMem r.ctx (r.base + r.imgSize) r.tabSize

/-- `W[wd]` of RGSTAT (R218). -/
def statWord (r : Option Region) : W64 :=
  match r with
  | none => 0
  | some r => BitVec.ofNat 64 (r.exc.length * 2 ^ 39 + r.cap * 2 ^ 14 + min r.gen 255 * 2 ^ 6
      + (if r.refit.isSome then 32 else 0) + 1)

/-- The proposal of an RGFIT (R217): none when it cannot be read or is invalid. -/
def State.proposal (s : State) (ctx level : Nat) (r : Region) (desc : Nat) : Option Net :=
  match (s.settleVA ctx level desc 1760).readVA ctx level desc 1760 with
  | .error _ => none
  | .ok bs => if descNetOk bs && descDims bs == r.dims.length then some (descNet bs) else none

/-- RGFIT at the home: a status, or a refit that starts (R217). -/
def State.startFit (s : State) (ctx w n level base : Nat) (desc : Option Nat) : Option State × W64 :=
  match s.regionBased ctx base with
  | none => (none, statusWord 0 3)
  | some i => match s.regions[i]? with
    | none => (none, statusWord 0 3)
    | some r =>
      if r.refit.isSome then (none, statusWord 0 2)
      else
        let start (net : Option Net) : State :=
          ({ s with regions := s.regions.set i { r with refit := some ⟨w, n, net, r.exc, []⟩ } }).post (.refitCommit i)
        match desc with
        | none => (some (start none), 0)
        | some a => match s.proposal ctx level r a with
          | none => (none, statusWord 0 4)
          | some p => (some ((start (some p)).settleVA ctx level a 1760), 0)

/-- The destination of a region instruction filled and its flight over (R214). -/
def State.fillWord (s : State) (w n : Nat) (d : WReg) (x : W64) : State :=
  (s.setWeltAt w ((s.weltAt w).wrW d.toNat x)).dropFlight w n

/-- REGION_STATUS_RETURN (R214): the home carries a request out and its status fills the destination; a refit answers
when it is over. -/
def execRegionStatusReturn (w n : Nat) (s : State) : Result :=
  let x := s.weltAt w
  let ctx := (s.launchOf (s.wgAt x.wg)).ctx
  match (x.flights.find? fun f => f.num == n).map Flight.kind with
  | some (.region d q) => match q with
    | .make level desc base =>
      let r := s.makeRegion ctx level desc base
      .next (r.1.fillWord w n d r.2)
    | .drop base => match s.regionBased ctx base with
      | some i => .next ((s.dropRegion i).fillWord w n d 0)
      | none => .next (s.fillWord w n d 3)
    | .stat base => .next (s.fillWord w n d (statWord ((s.regionBased ctx base).bind fun i => s.regions[i]?)))
    | .fit level base desc => match s.startFit ctx w n level base desc with
      | (some s1, _) => .next (s1.answer w n .running)
      | (none, v) => .next (s.fillWord w n d v)
    | .running => .next s
    | .done v => .next (s.fillWord w n d v)
  | _ => .next s

/-- REFIT_COMMIT (R209, R211, R212, R217): the proposal is tested and commits as the next generation, every cached line
of the old one going first, or is rejected. -/
def execRefitCommit (i : Nat) (s : State) : Result :=
  match s.regions[i]? with
  | none => .next s
  | some r => match r.refit with
    | none => .next s
    | some f =>
      let net := f.net.getD (chosenNet r)
      let out := refitTest r net f
      let r1 : Region := match out with
        | some es => { r with net := net, exc := es, gen := r.gen + 1, cached := [], refit := none }
        | none => { r with refit := none }
      let v := match out with
        | some es => statusWord (r.exc.length - es.length) 0
        | none => statusWord 0 1
      let s1 : State := { (if out.isSome then s.recallRegion i else s) with regions := s.regions.set i r1 }
      .next ((s1.answer f.w f.flight (.done v)).post (.regionStatusReturn f.w f.flight))

/-- REGION_LINE_EVALUATION (R201): the home evaluates a line of the image and caches it. -/
def execRegionLineEvaluation (r line : Nat) (s : State) : Result := .next (s.evalLine r line)

/-- REGION_STORE (R204, R205): stored bytes of an image take entries, all of them or, where the list lacks room, none. -/
def execRegionStore (r off : Nat) (bytes : List Byte) (s : State) : Result :=
  match s.regions[r]? with
  | none => .next s
  | some x =>
    let offs := (List.range bytes.length).map (off + ·)
    if x.live && decide (off + bytes.length ≤ x.bytes) && decide (x.exc.length + x.newEntries offs ≤ x.cap) then
      let ls := offs.map (Loc.region r)
      .next ((((ls.map Loc.line).eraseDups).foldl State.recallLine s).putLocs ls bytes)
    else .next s

end Sys2Proof.Machine
end

