-- ==== Sys2Proof/Machine/Sync.lean ====
section
/-!
DEFINITION. Phasers, barriers, FLUSHDA and the lock manager: spec/16_phasers_and_locks.md R324-R350.
-/

namespace Sys2Proof.Machine

/-! ### Phaser results (R326, R331) -/

/-- The phaser result word (R331). -/
def phWord (phase : W32) (fcause status : Nat) : W64 :=
  BitVec.ofNat 64 (phase.toNat * 2 ^ 32 + fcause * 2 ^ 8 + status)

/-- A producing instruction retires: its destination is empty until the result returns (R326, R53). -/
def State.produce (s : State) (d : WReg) (v : W64) (len : Nat) : State :=
  (s.retire ((s.cw.emptyW d.toNat).launchFlight (.word d v)) len).post (.phaserResultReturn s.cur s.cw.nextFlight)

/-- PHASER_RESULT_RETURN (R326): a result word fills its destination. -/
def execPhaserResultReturn (w n : Nat) (s : State) : Result :=
  match ((s.weltAt w).flights.find? fun f => f.num == n).map Flight.kind with
  | some (.word d v) => .next (s.fillWord w n d v)
  | _ => .next s

/-- The identifier that a register names; bits 63:32 must be zero (R332). -/
def phaserId (x : W64) : Option Nat := if field x 32 32 = 0 then some (field x 0 32) else none

/-- The phaser with an identifier in the issuing welt's context, with its index. -/
def State.phaserNamed (s : State) (id : Nat) : Option (Nat × Phaser) :=
  (s.phaserIdx s.cl.ctx id).bind fun i => (s.phasers[i]?).map fun p => (i, p)

/-- A producing phaser instruction on the phaser that W[wa] names: status 1 where there is none (R331, R332). -/
def State.phaserOp (s : State) (d a : WReg) (deps : Deps) (k : Nat → Phaser → State × W64) : Result :=
  s.issue s.cw.A (deps.wdst d.toNat) 0 (
    match phaserId (s.cw.rdW a.toNat) with
    | none => .next s.illegal
    | some id => match s.phaserNamed id with
      | none => .next (s.produce d (phWord 0 0 1) 1)
      | some (i, p) =>
        let r := k i p
        .next (r.1.produce d r.2 1))

/-- The phase of a phaser by index, as it stands. -/
def State.phaseAt (s : State) (i : Nat) : W32 := ((s.phasers[i]?).map (·.phase)).getD 0

/-- The registrations that PHNEW and PHREG have given a welt (R327). -/
def State.registrations (s : State) (w : Nat) : Nat := (s.phasers.filter fun p => p.members.any fun m => m.1 == w).length

/-- The phasers of a partition in the engine of a quarter (R327). -/
def State.phasersIn (s : State) (part quarter : Nat) : Nat :=
  (s.phasers.filter fun p => p.quarter == quarter && (s.ctxAt p.ctx).part == part).length

/-- The lock names of a partition that are held or awaited, in the engine of a quarter: every name of a tensor lives in the
engine of quarter tensor bits 1:0 (R339). -/
def State.locksIn (s : State) (part quarter : Nat) : Nat :=
  (s.locks.filter fun l => (!l.holders.isEmpty || !l.queue.isEmpty) && (s.ctxAt l.ctx).part == part
    && field l.name 40 2 == quarter).length

/-- Whether one more record of a kind (0 phaser, 1 lock) does not fit a partition's overflow area of the engine space, which
holds what goes beyond the partition's shares of the engines' own memory (R14, R339, R398; its record sizes: log 31). -/
def State.overflowFull (s : State) (part kind : Nat) : Bool :=
  let p := s.partNum part
  let used := ((List.range 4).map fun q => (s.phasersIn part q - p.phaserShare) * Config.engineRecord 0
    + (s.locksIn part q - p.lockShare) * Config.engineRecord 1).sum
  decide (p.overSize < used + Config.engineRecord kind)

/-- Whether a context has its 65,536 phasers, or its partition has no room for one more in the engine of a quarter
(R327, R331, R398). -/
def State.phasersFull (s : State) (ctx quarter : Nat) : Bool :=
  let part := (s.ctxAt ctx).part
  decide (65536 ≤ (s.phasers.filter fun p => p.ctx == ctx).length)
    || (decide ((s.partNum part).phaserShare ≤ s.phasersIn part quarter) && s.overflowFull part 0)

/-- An identifier that names no phaser, from a first candidate on (R327). -/
def freshPhaser (used : List Nat) : Nat → Nat → Nat
  | 0, n => n % 2 ^ 32
  | fuel + 1, n => if n % 2 ^ 32 = 0 || used.contains (n % 2 ^ 32) then freshPhaser used fuel (n + 1) else n % 2 ^ 32

/-- PHNEW (R331, R332). -/
def execPhnew (d a : BitVec 6) (ta : Bool) (s : State) : Result :=
  s.issue s.cw.A ((({} : Deps).wsrc ta a.toNat).wdst d.toNat) 0 (
    let x := s.cw.rdW a.toNat
    let scope := field x 0 3
    let mode := field x 3 2
    if field x 5 59 != 0 || !([2, 4, 5, 6].contains scope) then .next s.illegal
    else if s.phasersFull s.cl.ctx (quarterOf s.cg.core) || (mode != 0 && decide (64 ≤ s.registrations s.cur)) then
      .next (s.produce d (BitVec.ofNat 64 (2 * 2 ^ 32)) 1)
    else
      let id := freshPhaser (s.phasers.map (·.id)) (s.phasers.length + 1) s.nextPhaser
      let p0 : Phaser := {
        id := id
        ctx := s.cl.ctx
        quarter := quarterOf s.cg.core
        scope := scope
        core := s.cg.core
        wg := s.cw.wg
        phase := 0
        members := if mode = 0 then [] else [(s.cur, mode, false, 0)]
        pending := 0
        fail := none
        launches := [] }
      let p : Phaser := { p0 with launches := s.signalLaunches p0 }
      let s1 : State := { s with phasers := s.phasers ++ [p], nextPhaser := id + 1 }
      .next (s1.produce d (BitVec.ofNat 64 id) 1))

/-- PHFREE (R331, R332). -/
def execPhfree (d a : BitVec 6) (ta : Bool) (s : State) : Result :=
  s.phaserOp d a (({} : Deps).wsrc ta a.toNat) fun _ p =>
    if !p.members.isEmpty || p.pending != 0 then (s, phWord p.phase 0 5)
    else ({ s with phasers := s.phasers.filter fun q => !(q.id == p.id && q.ctx == p.ctx) }, phWord p.phase 0 0)

/-- Whether the issuing welt lies in the unit of a phaser's scope (R327). -/
def State.inScope (s : State) (p : Phaser) : Bool :=
  match p.scope with
  | 2 => s.cw.wg == p.wg
  | 4 => s.clusterOf s.cg.core == s.clusterOf p.core
  | 5 => quarterOf s.cg.core == quarterOf p.core
  | _ => true

/-- PHREG (R331, R332): statuses 4, 6 and 2 in that order. -/
def execPhreg (d a : BitVec 6) (mode : BitVec 3) (ta : Bool) (s : State) : Result :=
  s.phaserOp d a (({} : Deps).wsrc ta a.toNat) fun i p =>
    if (p.member s.cur).isSome then (s, phWord p.phase 0 4)
    else if !(s.inScope p) then (s, phWord p.phase 0 6)
    else if decide (2048 ≤ p.members.length) || decide (64 ≤ s.registrations s.cur) then (s, phWord p.phase 0 2)
    else
      let s1 := s.putPhaser i { p with members := p.members ++ [(s.cur, mode.toNat, false, p.phase)] }
      (s1, phWord (s1.phaseAt i) 0 0)

/-- PHDROP (R331, R332). -/
def execPhdrop (d a : BitVec 6) (ta : Bool) (s : State) : Result :=
  s.phaserOp d a (({} : Deps).wsrc ta a.toNat) fun i p =>
    if (p.member s.cur).isNone then (s, phWord p.phase 0 3)
    else
      let s1 := s.putPhaser i { p with members := p.members.filter fun m => m.1 != s.cur }
      (s1, phWord (s1.phaseAt i) 0 0)

/-- PHBYTES (R332): W[wb] lies in −2^47 to 2^47 − 1. -/
def execPhbytes (d a b : BitVec 6) (ta tb : Bool) (s : State) : Result :=
  let deps := (({} : Deps).wsrc ta a.toNat).wsrc tb b.toNat
  let y := s.cw.rdW b.toNat
  if s.issues s.cw.A (deps.wdst d.toNat) 0 && !(decide (-(2 ^ 47 : Int) ≤ y.toInt) && decide (y.toInt < 2 ^ 47)) then
    .next s.illegal
  else s.phaserOp d a deps fun i p =>
    let s1 := s.putPhaser i { p with pending := p.pending + y.setWidth 48 }
    (s1, phWord (s1.phaseAt i) 0 0)

/-! ### Arriving instructions (R325, R329, R330, R333) -/

/-- The failure that a wait past `wp` reports (R330): the recorded one when its phase is among those waited past. -/
def Phaser.failCause (p : Phaser) (wp : W32) : Nat :=
  match p.fail with
  | some (c, ph) => if (ph - wp).toNat < (p.phase - wp).toNat then c.code.toNat else 0
  | none => 0

/-- The copies of a context that count on a phaser and have landed are seen to have, and the welt whose wait is over learns what
those knew that signalled in earlier phases, and at device scope what engines have written (R181, R250, R291). -/
def State.observePhaser (s : State) (w ctx id : Nat) (p : Phaser) : State :=
  let mine : Copy → Bool := fun c => c.ctx == ctx && c.ph == some id && c.done
  (({ s with copies := s.copies.map fun c => if mine c then { c with observed := true } else c }).hearCopies w
    (fun k => (s.copies[k]?).any mine) (p.scope == 6)).hear w (s.signallers id p.phase) false

/-- A member of a phaser changed. -/
def Phaser.setMember (p : Phaser) (w : Nat) (sig : Bool) (wp : W32) : Phaser :=
  { p with members := p.members.map fun m => if m.1 == w then (m.1, m.2.1, sig, wp) else m }

/-- A member of an implicit phaser changed. -/
def Wg.setMember (g : Wg) (w : Nat) (sig : Bool) (wp : W32) : Wg :=
  { g with members := g.members.map fun m => if m.1 == w then (m.1, sig, wp) else m }

/-- The timeout of a barrier phase starts to count as a welt arrives, unless it does; after a report it starts again only
when the welt that reported executes BAR again (R334). -/
def State.startBarrier (s : State) (g w : Nat) : State :=
  let x := s.wgAt g
  if x.barSince.isSome || x.barHeld.any fun r => r != w then s
  else (s.setWgAt g { x with barSince := some s.now, barHeld := none }).post (.barrierTimeout g)

/-- The signal and the wait of BAR on the implicit phaser, as far as they go now: a welt that has arrived in this phase
does not arrive again (R333). The result is there when the wait is over. -/
def State.barrierTry (s : State) (w : Nat) (signal : Bool) : State × Bool × Option W64 :=
  let x := s.weltAt w
  let g := s.wgAt x.wg
  match g.members.find? fun m => m.1 == w with
  | none => (s, false, some 0)
  | some m =>
    let s1 := if signal && !m.2.1 then (s.setWgAt x.wg (g.setMember w true m.2.2)).testBarrier x.wg else s
    let g1 := s1.wgAt x.wg
    if g1.phase != m.2.2 then
      let m1 := (g1.members.find? fun m => m.1 == w).getD m
      ((s1.setWgAt x.wg (g1.setMember w m1.2.1 g1.phase)).hear w (g1.members.map fun z => (z.1, s1.nextVeil)) false,
        false, some 0)
    else (s1.startBarrier x.wg w, false, none)

/-- The signal and the wait of an explicit phaser, as far as they go now: whether the signal still waits for an advance
(R329), and the result when all is done. -/
def State.phaserTry (s : State) (w id : Nat) (signal wait : Bool) : State × Bool × Option W64 :=
  let x := s.weltAt w
  let ctx := (s.launchOf (s.wgAt x.wg)).ctx
  match (s.phaserIdx ctx id).bind fun i => (s.phasers[i]?).map fun p => (i, p) with
  | none => (s, false, some (phWord 0 0 1))
  | some (i, p) => match p.member w with
    | none => (s, false, some (phWord p.phase 0 3))
    | some m =>
      if (signal && !(signals m.2.1)) || (wait && !(waitsOn m.2.1)) then (s, false, some (phWord p.phase 0 3))
      else if signal && m.2.2.1 then (s, true, none)
      else
        let s1 := if signal then (s.noteSignal w id p.phase).putPhaser i (p.setMember w true m.2.2.2) else s
        let p1 := (s1.phasers[i]?).getD p
        if !wait then (s1, false, some (phWord p1.phase 0 0))
        else if p1.phase != m.2.2.2 then
          let m1 := (p1.member w).getD m
          let s2 : State := { s1 with phasers := s1.phasers.set i (p1.setMember w m1.2.2.1 p1.phase) }
          (s2.observePhaser w ctx id p1, false, some (phWord p1.phase (p1.failCause m.2.2.2) 0))
        else (s1, false, none)

/-- The action of an arriving instruction as far as it goes now. -/
def State.phaseTry (s : State) (w id : Nat) (implicit signal wait : Bool) : State × Bool × Option W64 :=
  if implicit then s.barrierTry w signal else s.phaserTry w id signal wait

/-- What the welt waits for at an arriving instruction (R337). -/
def phaseWait (id : Nat) (implicit : Bool) : Wait := if implicit then .barrier else .phaser id

/-- The welt's members released after its arriving instruction, with the result in the destination (R325). -/
def Welt.release (w : Welt) (m : Lanes) (dst : Option WReg) (v : W64) : Welt :=
  let w1 := (w.hold m false).advance m 1
  match dst with
  | some d => w1.wrW d.toNat v
  | none => w1

/-- An arriving instruction acts once every member has arrived (R325): done at once, a producing PHSIG, or a wait with
the members held. -/
def State.arriveAct (s : State) (m : Lanes) (id : Nat) (implicit : Bool) (dst : Option WReg) (signal wait : Bool) :
    State :=
  let key := s.cw.lead
  let r := s.phaseTry s.cur id implicit signal wait
  let t := if wait then r.1.atSwitchPoint else r.1
  match r.2.2 with
  | some v =>
    if wait then t.retireWith (t.cw.release m dst v)
    else match dst with
      | some d => t.produce d v 1
      | none => t.retireWith (t.cw.release m none 0)
  | none =>
    let c : Coll := ⟨key.depth, key.pc, m, m, .phase id implicit dst r.2.1 wait⟩
    let t1 := t.retireWith ({ t.cw with colls := c :: t.cw.colls }.hold m true)
    t1.setCw { t1.cw with wait := phaseWait id implicit }

/-- The lanes of A arrive; the members are every non-exited lane at the first arrival (R325, R30, R31). The traps of the
collective come before an ILLEGAL of the identifier, `bad`, which takes no effect (R95, R332). -/
def State.arrive (s : State) (bad : Bool) (act : State → Lanes → State) : State :=
  let w := s.cw
  let a := w.A
  let m := (match w.collHere with
    | some c => c.members
    | none => w.living) ||| a
  let arr := (match w.collHere with
    | some c => c.arrived
    | none => 0) ||| a
  let free := { (w.hold arr false) with colls := w.otherColls }
  let c : Coll := ⟨w.lead.depth, w.pc, m, arr, .none⟩
  let held := { w with colls := c :: w.otherColls }.hold a true
  if m &&& w.exited ≠ 0 then
    (s.setCw free).raise { cause := .exitedMember, lanes := m, pc := w.pc, depth := some w.lead.depth }
  else if m &&& ~~~arr = 0 then if bad then s.illegal else act (s.setCw free) m
  else if bad && held.mismatched.isNone then s.illegal
  else s.retireHeld held

/-- PHSIG, PHWAIT and PHARR (R325, R332). -/
def State.phaserArrive (s : State) (d a : WReg) (ta signal wait : Bool) : Result :=
  s.issue s.cw.A ((({} : Deps).wsrc ta a.toNat).wdst d.toNat) 0 (
    let id := phaserId (s.cw.rdW a.toNat)
    .next (s.arrive id.isNone fun s m => s.arriveAct m (id.getD 0) false (some d) signal wait))

/-- PHSIG (R329, R332). -/
def execPhsig (d a : BitVec 6) (ta : Bool) (s : State) : Result := s.phaserArrive d a ta true false

/-- PHWAIT (R332). -/
def execPhwait (d a : BitVec 6) (ta : Bool) (s : State) : Result := s.phaserArrive d a ta false true

/-- PHARR (R332): PHSIG, then PHWAIT, as one operation. -/
def execPharr (d a : BitVec 6) (ta : Bool) (s : State) : Result := s.phaserArrive d a ta true true

/-- BAR (R333, R334): the timeout counts from the first lane that arrives in a phase. -/
def execBar (s : State) : Result :=
  s.issue s.cw.A {} 0 (
    let s1 := s.startBarrier s.cw.wg s.cur
    .next (s1.arrive false fun s m => s.arriveAct m 0 true none true true))

/-- Whether the lanes of a waiting collective still stand held on it. -/
def Welt.stands (w : Welt) (c : Coll) : Bool :=
  (Lanes.nats c.members).all fun i => (w.lane i).x || ((w.lane i).h && (w.lane i).pc == c.pc && (w.lane i).depth == c.depth)

/-- PHASER_WAIT_RELEASE (R328, R329): a welt that waits on a phaser looks at it; a stopped or saved welt looks when it
resumes (R425, R435). -/
def execPhaserWaitRelease (w : Nat) (s : State) : Result :=
  let x := s.weltAt w
  if x.ended || x.halt == .stopped || (s.wgAt x.wg).st != .resident then .next s
  else match x.colls.find? fun c => c.wait != .none with
    | none => .next s
    | some c => match c.wait with
      | .none => .next s
      | .phase id implicit dst signal wait =>
        if !(x.stands c) then
          .next (s.setWeltAt w { x with colls := x.colls.filter fun k => k != c, wait := .none })
        else
          let r := s.phaseTry w id implicit signal wait
          let y := r.1.weltAt w
          let others := y.colls.filter fun k => k != c
          match r.2.2 with
          | some v =>
            .next (r.1.setWeltAt w ({ { y with colls := others, wait := .none }.release c.members dst v with
              yielded := false }))
          | none =>
            let c' : Coll := { c with wait := .phase id implicit dst r.2.1 wait }
            .next (r.1.setWeltAt w { y with colls := c' :: others, wait := phaseWait id implicit })

/-! ### Barrier timeouts (R334, R335) -/

/-- BARTO (R334): timeout and record address for the phases that begin after it. -/
def execBarto (a b : BitVec 6) (ta tb : Bool) (s : State) : Result :=
  s.issue s.cw.A ((({} : Deps).wsrc ta a.toNat).wsrc tb b.toNat) 0 (
    let x := s.cw.rdW a.toNat
    let y := s.cw.rdW b.toNat
    if field x 48 16 != 0 || x == 0 || field y 52 12 != 0 || y.toNat % 64 != 0 then .next s.illegal
    else
      let s1 := s.setCg { s.cg with barNext := x.toNat, barRecordNext := y.toNat }
      .next (s1.retire s1.cw 1))

/-- Whether a welt has fully arrived at BAR in the phase that runs: its signal is made, and stays made in a handler
(R333, R334). -/
def State.arrivedBar (s : State) (i : Nat) : Bool := (s.wgAt (s.weltAt i).wg).members.any fun m => m.1 == i && m.2.1

/-- Where a welt that has fully arrived stands at BAR: held there, or by the state that its handler has saved, or about to
execute it again. -/
def Welt.barPlace (w : Welt) : Coll :=
  let held (cs : List Coll) : Option Coll := cs.find? fun c => c.wait != .none
  ((held w.colls).or (w.inHandler.findSome? fun n => (w.saved.toList.getD n none).bind fun sv => held sv.colls)).getD
    ⟨w.nextLane.depth, w.nextLane.pc, w.living, w.living, .none⟩

/-- The incomplete instance of BAR of a welt, if some of its lanes are held at one: the word there is BAR's. -/
def State.partBar (s : State) (i : Nat) : Option Coll :=
  let w := s.weltAt i
  w.colls.find? fun c => c.wait == .none && match s.fetchWord w w.level c.pc with
    | .ok x => x == 0xE4000000#32
    | .error _ => false

/-- The welt that reports a timeout, with the place of its BAR: the lowest that has fully arrived, else the lowest with
a lane held there (R334). -/
def State.barReporter (s : State) (g : Nat) : Option (Nat × Coll) :=
  let ws := (s.weltsOf g).filter fun i => !(s.weltAt i).ended
  let key (i : Nat) : Nat := (s.weltAt i).index
  let low (l : List Nat) : Option Nat := l.foldl (fun best i => match best with
    | none => some i
    | some b => if key i < key b then some i else some b) none
  match low (ws.filter s.arrivedBar) with
  | some i => some (i, (s.weltAt i).barPlace)
  | none => (low (ws.filter fun i => (s.partBar i).isSome)).bind fun i => (s.partBar i).map fun c => (i, c)

/-- The barrier record (R335): entries of the welts that have not fully arrived; what follows them is undefined. -/
def State.barrierRecord (s : State) (g : Nat) : List Byte :=
  let wg := s.wgAt g
  let ws := sortKey (fun a b => decide ((s.weltAt a).index ≤ (s.weltAt b).index))
    ((s.weltsOf g).filter fun i => !(s.weltAt i).ended)
  let late := ws.filter fun i => !(s.arrivedBar i)
  let mask := (ws.filter s.arrivedBar).foldl (fun m i => m ||| BitVec.twoPow 64 (s.weltAt i).index) 0#64
  let q (x : Nat) : List Byte := bytesLE (BitVec.ofNat 64 x) 8
  let head := q (wg.phase.toNat * 2 ^ 32 + late.length) ++ bytesLE mask 8 ++ q wg.barTimeout
    ++ List.replicate 40 0
  let entry (i : Nat) : List Byte :=
    q (s.weltAt i).index ++ (s.weltAt i).lanes.toList.flatMap fun l => bytesLE l.kv 8
  let bs := head ++ late.flatMap entry
  bs ++ (List.range (16960 - bs.length)).map s.undefByte

/-- A record written at a user address; where it cannot be, what can be written becomes undefined (R334). -/
def State.writeRecord (s : State) (ctx va : Nat) (bs : List Byte) : State :=
  match s.writeVA ctx 0 va bs with
  | some t => t
  | none => (List.range bs.length).foldl (fun s i => (s.writeVA ctx 0 (va + i) [s.undefByte i]).getD s) s

/-- BARRIER_TIMEOUT (R334): once the timeout has passed, the welts that have not fully arrived stop as siblings; when
they have, the record is written and the reporting welt raises the trap. An advance meanwhile calls it off. -/
def execBarrierTimeout (g : Nat) (s : State) : Result :=
  let wg := s.wgAt g
  match wg.barSince with
  | none => .next (s.setWgAt g { wg with barStop := false })
  | some t0 =>
    if wg.st == .ended then .next s
    else if wg.st == .saved || decide (s.now < t0 + wg.barTimeout) then .next (s.post (.barrierTimeout g))
    else match s.barReporter g with
      | none => .next (s.post (.barrierTimeout g))
      | some (r, c) =>
        let w := s.weltAt r
        let t : TrapInfo := { cause := .barrierTimeout, lanes := w.living, pc := c.pc, depth := some c.depth }
        let n := (s.takeLevel w 4 (firstLevel w t)).getD 3
        let late := (s.weltsOf g).filter fun i =>
          i != r && !(s.weltAt i).ended && !(s.arrivedBar i) && !((s.weltAt i).ignores (.sibling n))
        if late.isEmpty then
          let s1 := if wg.barRecord = 0 then s
            else s.writeRecord (s.launchOf wg).ctx wg.barRecord (s.barrierRecord g)
          let s2 := s1.setWgAt g { s1.wgAt g with barSince := none, barStop := false, barHeld := some r }
          .next (s2.raiseIn r t)
        else
          let s1 := late.foldl (fun s i => s.haltWelt (.sibling n) i) s
          .next ((s1.setWgAt g { s1.wgAt g with barStop := true }).post (.barrierTimeout g))

/-! ### FLUSHDA (R338, R242) -/

/-- FLUSHDA: the workgroup's entries leave the core for the home pools, unapplied, and so do its partials outside
deterministic launches (R239); entries in the overflow area stay there (R241). -/
def execFlushda (s : State) : Result :=
  s.issue s.cw.A {} 0 (
    let g := s.cg
    let move (p : Partial_) : Bool := s.looseLaunch p
    let s1 : State := { s with
      pooled := s.pooled ++ g.detBuf
      pooledPartials := s.pooledPartials ++ g.partials.filter move }
    let s2 := s1.setCg { g with detBuf := [], partials := g.partials.filter fun p => !(move p) }
    .next (s2.retire s2.cw 1))

/-! ### Locks (R339-R350) -/

/-- Whether a lock name keeps the table of R339. -/
def lockNameOk (x : W64) : Bool :=
  match field x 62 2 with
  | 0 => field x 0 40 == 0
  | 1 => field x 0 16 == 0
  | 2 => true
  | _ => false

/-- The parent of a tile or line name (R339). -/
def lockParent (x : W64) : Option W64 :=
  match field x 62 2 with
  | 1 => some (x &&& 0x3FFFFF0000000000#64)
  | 2 => some ((x &&& 0x3FFFFFFFFFFF0000#64) ||| 0x4000000000000000#64)
  | _ => none

/-- The rights of a mode as bits: is, ii, ix, r, i, w (R340). -/
def lockRights (mode : Nat) : BitVec 6 :=
  match mode with
  | 1 => 0x01
  | 2 => 0x07
  | 3 => 0x02
  | 4 => 0x09
  | 5 => 0x12
  | 6 => 0x0F
  | 7 => 0x3F
  | _ => 0x00

/-- The intention right that a mode needs on the parent (R342). -/
def lockNeeds (mode : Nat) : BitVec 6 :=
  match mode with
  | 1 | 4 => 0x01
  | 3 | 5 => 0x02
  | 2 | 6 | 7 => 0x04
  | _ => 0x00

/-- The mode that a transaction's held list gives a name; 0 when it is not held. -/
def Txn.mode (t : Txn) (name : W64) : Nat := ((t.held.find? fun h => h.1 == name).map (·.2)).getD 0
/-- Whether a name is in the held list. -/
def Txn.holds (t : Txn) (name : W64) : Bool := t.held.any fun h => h.1 == name
/-- The held list with a name in a mode. -/
def Txn.put (t : Txn) (name : W64) (mode : Nat) : Txn := { t with held := (name, mode) :: t.held.filter fun h => h.1 != name }

/-- The hierarchy rule for a request (R342). -/
def Txn.parentOk (t : Txn) (name : W64) (mode : Nat) : Bool :=
  match lockParent name with
  | none => true
  | some p => lockRights (t.mode p) &&& lockNeeds mode != 0

/-- A transaction that no granted request waits in. -/
def Welt.dropGrant (w : Welt) : Welt := { w with txn := w.txn.map fun t => { t with grant := none } }

/-- A lock instruction completes with a result (R348). -/
def State.lockDone (s : State) (d : WReg) (v : W64) : State := s.retire (s.cw.dropGrant.wrW d.toNat v) 1

/-- A grant of a name has reached the welt (R349): it is in the held list, and the welt learns what the welts knew that released
the name before (R181). -/
def State.lockGranted (s : State) (d : WReg) (name : W64) : State :=
  let from_ := ((s.lockIdx s.cl.ctx name).bind fun i => (s.locks[i]?).map (·.released)).getD []
  (s.hear s.cur from_ false).lockDone d 0

/-- The issue of a lock instruction other than LKABORT and LKSTAT: a wounded transaction first, with status 2, or WOUND
under LKBEGIN.wt (R346, R348). -/
def State.lockOp (s : State) (d : WReg) (deps : Deps) (k : Result) : Result :=
  match s.cw.readiness s.cw.A (deps.wdst d.toNat), s.cw.woundDue with
  | .emptyRead _, true => .next (s.deliverWound s.cur s.cw.A s.cw.pc)
  | _, due => s.issue s.cw.A (deps.wdst d.toNat) 0 (
      if due then .next (s.deliverWound s.cur s.cw.A s.cw.pc)
      else match s.cw.txn with
        | some t => if t.wounded then .next (s.lockDone d 2) else k
        | none => k)

/-- The lock of a name of the issuing welt's context. -/
def State.lockNamed (s : State) (name : W64) : Option (Nat × Lock) :=
  (s.lockIdx s.cl.ctx name).bind fun i => (s.locks[i]?).map fun l => (i, l)

/-- Whether the partition has no lock-table entry left for a name (R348 status 4, R398). -/
def State.locksFull (s : State) (name : W64) : Bool :=
  let part := s.cc.part
  decide ((s.partNum part).lockShare ≤ s.locksIn part (field name 40 2)) && s.overflowFull part 1
    && !(s.locks.any fun l => (!l.holders.isEmpty || !l.queue.isEmpty) && l.ctx == s.cl.ctx && l.name == name)

/-- The mode in which the issuing welt's transaction holds a name at the engine. -/
def Lock.modeOf (l : Lock) (age : Age) : Option Nat := (l.holders.find? fun h => h.1 == age).map (·.2.2)

/-- Whether a request would be granted at once (R344). -/
def Lock.grantable (matrix : W64) (l : Lock) (age : Age) (mode : Nat) (conv : Bool) : Bool :=
  l.compatible matrix age mode && (if conv then l.queue.all fun q => !(q.conv && q.age.lt age)
    else l.queue.all fun q => !q.conv && !(q.age.lt age))

/-- The queue order of R344: conversions first, then by age. -/
def waiterLe (a b : Waiter) : Bool := if a.conv != b.conv then a.conv else !(b.age.lt a.age)

/-- A grant at the engine (R344). A younger conversion that an older waiter now waits on is wounded (R345). -/
def State.grantLock (s : State) (i : Nat) (l : Lock) (age : Age) (mode : Nat) : State :=
  let m := s.cc.matrix
  let s1 := s.putLock i { l with holders := (l.holders.filter fun h => h.1 != age) ++ [(age, s.cur, mode)] }
  match l.queue.find? fun q => q.age.lt age && !(compat m q.mode mode) with
  | some q => s1.wound q.age l.name s.cur
  | none => s1

/-- A request queued, and the wounds of R345: younger incompatible holders, younger conversions ahead, and the request
itself where it is a conversion that stands ahead of an older waiter. -/
def State.queueLock (s : State) (i : Nat) (l : Lock) (age : Age) (mode : Nat) (conv : Bool) : State :=
  let me : Waiter := ⟨age, s.cur, mode, conv⟩
  let s1 : State := { s with locks := s.locks.set i { l with queue := insertKey waiterLe me l.queue } }
  let s2 := (l.wounds s.cc.matrix age mode conv).foldl (fun s v => s.wound age l.name v) s1
  match l.queue.find? fun q => conv && !q.conv && q.age.lt age with
  | some q => s2.wound q.age l.name s.cur
  | none => s2

/-- A name entered in the table if it is new. -/
def State.enterLock (s : State) (name : W64) : State :=
  match s.lockIdx s.cl.ctx name with
  | some _ => s
  | none => { s with locks := s.locks ++ [⟨s.cl.ctx, name, [], [], []⟩] }

/-- A request of LKACQ or LKUP at the engine (R344): granted, then it completes; else it waits. -/
def State.request (s : State) (d : WReg) (t : Txn) (name : W64) (mode : Nat) (conv : Bool) : Result :=
  let s0 := s.enterLock name
  let age := s0.ageOf s0.cur
  let done (s : State) : Result :=
    let s1 := s.setCw { s.cw with txn := (s.cw.txn.getD t).put name mode }
    .next (s1.lockGranted d name)
  match s0.lockNamed name with
  | none => .next s
  | some (i, l) =>
    if l.queue.any fun q => q.age == age then .next (s.atSwitchPoint.stall (.lock name))
    else if l.grantable s0.cc.matrix age mode conv then done (s0.grantLock i l age mode)
    else .next ((s0.queueLock i l age mode conv).atSwitchPoint.stall (.lock name))

/-- The checks that LKACQ, LKTRY and LKUP share, in the order of R348: an open transaction, a mode other than NL, a
legal name; then status 3 or 5, the hierarchy, status 4. -/
def State.lockChecks (s : State) (d : WReg) (name : W64) (mode : Nat) (conv : Bool) (k : Txn → Result) : Result :=
  match s.cw.txn with
  | none => .next s.illegal
  | some t =>
    let old := lockRights (t.mode name)
    let new := lockRights mode
    if mode = 0 || !(lockNameOk name) then .next s.illegal
    else if conv && t.holds name && (new &&& old != old || new == old) then .next s.illegal
    else if !conv && t.holds name then .next (s.lockDone d 3)
    else if conv && !(t.holds name) then .next (s.lockDone d 5)
    else if !(t.parentOk name mode) then .next (s.trapAt .lockHierarchy s.cw.A)
    else if !conv && (decide (64 ≤ t.held.length) || s.locksFull name) then .next (s.lockDone d 4)
    else k t

/-- A request that the engine has granted while the welt waited for it completes with status 0, whatever has come since;
else `k` (R344, R349). -/
def State.orGranted (s : State) (d a : WReg) (mode : Nat) (ta : Bool) (k : Result) : Result :=
  if s.cw.txn.any fun t => t.grant == some (s.cw.rdW a.toNat, mode) then
    s.issue s.cw.A ((({} : Deps).wsrc ta a.toNat).wdst d.toNat) 0 (.next (s.lockGranted d (s.cw.rdW a.toNat)))
  else k

/-- LKACQ (R350). -/
def execLkacq (d a : BitVec 6) (mode : BitVec 3) (ta : Bool) (s : State) : Result :=
  s.orGranted d a mode.toNat ta (s.lockOp d (({} : Deps).wsrc ta a.toNat) (
    let name := s.cw.rdW a.toNat
    s.lockChecks d name mode.toNat false fun t => s.request d t name mode.toNat false))

/-- LKUP (R350). -/
def execLkup (d a : BitVec 6) (mode : BitVec 3) (ta : Bool) (s : State) : Result :=
  s.orGranted d a mode.toNat ta (s.lockOp d (({} : Deps).wsrc ta a.toNat) (
    let name := s.cw.rdW a.toNat
    s.lockChecks d name mode.toNat true fun t => s.request d t name mode.toNat true))

/-- LKTRY (R350): granted at once or status 1; it never queues and never wounds. -/
def execLktry (d a : BitVec 6) (mode : BitVec 3) (ta : Bool) (s : State) : Result :=
  s.lockOp d (({} : Deps).wsrc ta a.toNat) (
    let name := s.cw.rdW a.toNat
    s.lockChecks d name mode.toNat false fun t =>
      let l := ((s.lockNamed name).map (·.2)).getD ⟨s.cl.ctx, name, [], [], []⟩
      if l.grantable s.cc.matrix (s.ageOf s.cur) mode.toNat false then s.request d t name mode.toNat false
      else .next (s.lockDone d 1))

/-- The fence of a release, while which the welt waits at a lock instruction (R337, R349). LKEND and LKABORT name no lock: the
wait then names the first held one (DEDUCED, log 31). -/
def State.releaseFence (s : State) (name : Option W64) (k : State → Result) : Result :=
  let first := (s.cw.txn.bind fun t => (t.held.head?).map (·.1)).getD 0
  s.fencedAs 0x3F (.lock (name.getD first)) (k s.afterFull)

/-- LKREL (R342, R349, R350): the release follows its fence. -/
def execLkrel (d a : BitVec 6) (ta : Bool) (s : State) : Result :=
  s.lockOp d (({} : Deps).wsrc ta a.toNat) (
    let name := s.cw.rdW a.toNat
    match s.cw.txn with
    | none => .next s.illegal
    | some t =>
      if !(lockNameOk name) then .next s.illegal
      else if !(t.holds name) then .next (s.lockDone d 5)
      else if t.held.any fun h => lockParent h.1 == some name then .next (s.trapAt .lockHierarchy s.cw.A)
      else s.releaseFence (some name) fun s =>
        let s1 := s.releaseName s.cl.ctx name (s.ageOf s.cur)
        let s2 := s1.setCw { s1.cw with txn := some { t with held := t.held.filter fun h => h.1 != name } }
        .next (s2.lockDone d 0))

/-- LKBEGIN and LKBEGIN.wt (R343, R350). -/
def State.lockBegin (s : State) (d : WReg) (wt : Bool) : Result :=
  s.lockOp d {} (
    match s.cw.txn with
    | some _ => .next s.illegal
    | none =>
      let s1 := s.setCw { s.cw with txn := some ⟨wt, [], none, false, 0, false, false, []⟩ }
      .next (s1.lockDone d 0))

/-- LKBEGIN (R350). -/
def execLkbegin (d : BitVec 6) (s : State) : Result := s.lockBegin d false

/-- LKBEGIN.wt (R346, R350). -/
def execLkbeginWt (d : BitVec 6) (s : State) : Result := s.lockBegin d true

/-- LKEND (R349, R350): an unwounded transaction releases every name and closes. -/
def execLkend (d : BitVec 6) (s : State) : Result :=
  s.lockOp d {} (
    match s.cw.txn with
    | none => .next s.illegal
    | some _ => s.releaseFence none fun s =>
        let s1 := s.releaseAll s.cur
        .next (s1.lockDone d 0))

/-- LKABORT (R349, R350): also a wounded transaction releases every name and closes. -/
def execLkabort (d : BitVec 6) (s : State) : Result :=
  s.issue s.cw.A (({} : Deps).wdst d.toNat) 0 (
    match s.cw.txn with
    | none => .next s.illegal
    | some _ => s.releaseFence none fun s =>
        let s1 := s.releaseAll s.cur
        .next (s1.lockDone d 0))

/-- The word of LKSTAT (R350). -/
def lockStatus (t : Option Txn) (name : W64) : W64 :=
  match t with
  | none => 0
  | some t => BitVec.ofNat 64 (2 ^ 63 + (if t.wounded then 2 ^ 62 else 0) + (if t.wt then 2 ^ 61 else 0)
      + t.held.length * 2 ^ 48 + t.mode name)

/-- LKSTAT (R350). -/
def execLkstat (d a : BitVec 6) (ta : Bool) (s : State) : Result :=
  s.issue s.cw.A ((({} : Deps).wsrc ta a.toNat).wdst d.toNat) 0 (
    let name := s.cw.rdW a.toNat
    if lockNameOk name then .next (s.lockDone d (lockStatus s.cw.txn name)) else .next s.illegal)

/-- Whether a matrix is symmetric with row and column NL all ones (R350). -/
def matrixOk (m : W64) : Bool :=
  (List.range 8).all fun a => compat m 0 a && (List.range 8).all fun b => compat m a b == compat m b a

/-- LKMAT (R341, R350): status 1 while a transaction of the context is open, that of an ended welt too until it is
released. -/
def execLkmat (d a : BitVec 6) (ta : Bool) (s : State) : Result :=
  s.lockOp d (({} : Deps).wsrc ta a.toNat) (
    let m := s.cw.rdW a.toNat
    if !(matrixOk m) then .next s.illegal
    else if s.welts.any fun w => w.txn.isSome && (s.launchOf (s.wgAt w.wg)).ctx == s.cl.ctx then
      .next (s.lockDone d 1)
    else
      let s1 := s.setCtxAt s.cl.ctx { s.cc with matrix := m }
      .next (s1.lockDone d 0))

/-- A welt whose waiting request the engine has granted holds the name (R343, R344). -/
def Welt.takeGrant (w : Welt) (name : W64) (mode : Nat) : Welt :=
  { w with txn := w.txn.map fun t => { t.put name mode with grant := some (name, mode) } }

/-- LOCK_GRANT (R344): waiters of a name are granted from the head while each is compatible. -/
def execLockGrant (k : Nat) (s : State) : Result :=
  match s.locks[k]? with
  | none => .next s
  | some l =>
    let l' := grantHead (s.ctxAt l.ctx).matrix l.queue.length l
    let s1 : State := { s with locks := s.locks.set k l' }
    .next ((l'.holders.filter fun h => !(l.holders.contains h)).foldl
      (fun s h => s.setWeltAt h.2.1 ((s.weltAt h.2.1).takeGrant l.name h.2.2)) s1)

/-- Whether a welt stands at a waiting instruction: MWAIT, or the last EXIT as it waits for the streams as MWAIT does; LAUNCH in
its fence; CBWAIT, CBFREE, JOIN, and a lock instruction whose grant has not come (R326, R336, R346, R363). An instruction
that finds its stream full is none. -/
def State.atWaiting (s : State) (i : Nat) : Bool :=
  let w := s.weltAt i
  let word := (s.fetchWord w w.level w.nextLane.pc).toOption
  let op (n func : Nat) : Bool := word.any fun x => field (x.setWidth 64) 25 7 == n && field (x.setWidth 64) 0 4 == func
  match w.wait with
  | .buffer _ _ | .join _ => true
  | .lock _ => w.txn.all fun t => t.grant.isNone
  | .stream _ => (word.any fun x => field (x.setWidth 64) 25 7 == 0x65 && field (x.setWidth 64) 4 4 == 2) || op 0x7A 3
  | .fence _ => word.any fun x => field (x.setWidth 64) 25 7 == 0x7B
  | _ => false

/-- WOUND_DELIVERY (R346): WOUND is raised at a waiting instruction at which the welt is held; at a lock instruction or
a segment's start the issue raises it, and until one of them comes the delivery stays due. -/
def execWoundDelivery (w : Nat) (s : State) : Result :=
  let x := s.weltAt w
  if x.ended || !x.woundDue then .next s
  else
    let free := (s.wgAt x.wg).st == .resident && x.halt == .none
    match x.colls.find? fun c => c.wait != .none with
    | some c =>
      if free then .next (s.deliverWound w c.members c.pc) else .next (s.post (.woundDelivery w))
    | none =>
      if free && s.atWaiting w && x.live != 0 then .next (s.deliverWound w x.A x.pc)
      else .next (s.post (.woundDelivery w))

/-- WOUND_PATIENCE_EXPIRY (R347, R434): one report per wound that LKABORT has not answered in time. -/
def execWoundPatienceExpiry (w : Nat) (s : State) : Result :=
  let x := s.weltAt w
  let g := s.wgAt x.wg
  let l := s.launchOf g
  let c := s.ctxAt l.ctx
  match x.txn with
  | none => .next s
  | some t =>
    if x.ended || !t.wounded || t.reported then .next s
    else if g.st == .saved || decide (s.now < t.since + c.woundPatience) then .next (s.post (.woundPatienceExpiry w))
    else
      let b := t.by_.headD (0, 0, 0, 0)
      let s1 := s.report (s.partNum c.part) [reportHead 2 0 l c g.logical ++
        [b.2.2.2, BitVec.ofNat 64 b.1, BitVec.ofNat 64 b.2.1, BitVec.ofNat 64 (x.index + b.2.2.1 * 2 ^ 8)]]
      .next (s1.setWeltAt w { x with txn := some { t with reported := true } })

end Sys2Proof.Machine
end

