-- ==== Sys2Proof/Machine/Tokens.lean ====
section
/-!
DEFINITION. The token rings, read grants and slice ratios: spec/18_power_tokens.md R381-R394, spec/01 R17, R22, R23.
-/

namespace Sys2Proof.Machine

/-! ### Quotas (R382, R383) -/

/-- The partition that owns the cluster of a core (R398). -/
def State.partOf (s : State) (core : Nat) : Option Part :=
  s.parts.find? fun p => p.live && p.clusters.contains (s.clusterOf core)
/-- The enabled cores of a partition on a quarter. -/
def Part.coresOn (p : Part) (q : Nat) : Nat := 4 * (p.clusters.filter fun c => c / 13 == q).length
/-- The least quota of a partition on a ring (R382). -/
def Part.floor (p : Part) (q : Nat) : Nat := 64 * p.coresOn q
/-- The greatest quota of a partition on a ring (R382). -/
def Part.ceiling (p : Part) (q : Nat) : Nat := 256 * p.coresOn q
/-- A quota of a partition. -/
def Part.quota (p : Part) (q : Nat) : Nat := p.quotas.toList.getD q 0

/-- A number entered in a list of counts by key. -/
def addCount (key n : Nat) (l : List (Nat × Nat)) : List (Nat × Nat) :=
  if l.any fun e => e.1 == key then l.map fun e => if e.1 == key then (key, e.2 + n) else e else l ++ [(key, n)]
/-- The count of a key. -/
def countOf (key : Nat) (l : List (Nat × Nat)) : Nat := ((l.find? fun e => e.1 == key).map (·.2)).getD 0

/-- A ring by quarter. -/
def State.ringAt (s : State) (q : Nat) : Ring :=
  s.rings.toList.getD q ⟨Vector.replicate 48 [], Vector.replicate 48 0⟩
/-- The free tokens at a station. -/
def Ring.at_ (r : Ring) (i : Nat) : List (Nat × Nat) := r.free.toList.getD i []
/-- Free tokens of a partition put on a ring at a station. -/
def State.putTokens (s : State) (q station part n : Nat) : State :=
  if n = 0 then s
  else
    let r := s.ringAt q
    let r' : Ring := { r with free := r.free.setIfInBounds station (addCount part n (r.at_ station)) }
    { s with rings := s.rings.setIfInBounds q r' }

/-- A quota set within the limits of R382 (R383): added tokens go on the ring at station 0, a cut is withdrawn there as
free tokens pass. -/
def State.setQuota (s : State) (p : Part) (q want : Nat) : State :=
  let new := min (max want (p.floor q)) (p.ceiling q)
  let old := p.quota q
  let due := p.withdraw.toList.getD q 0
  if old ≤ new then
    let back := min due (new - old)
    let p' := { p with quotas := p.quotas.setIfInBounds q new, withdraw := p.withdraw.setIfInBounds q (due - back) }
    (s.setPart p').putTokens q 0 p.num (new - old - back)
  else s.setPart { p with
    quotas := p.quotas.setIfInBounds q new, withdraw := p.withdraw.setIfInBounds q (due + (old - new)) }

/-! ### Requests (R384) -/

/-- A wide request of a core: since when it waits, its slice, slot and rank, its price, and what asks. -/
structure WideReq where
  since : Nat
  slice : Nat
  slot : Nat
  rank : Nat
  price : Nat
  who : Holder
  deriving DecidableEq, Repr

/-- The order of R384. -/
def WideReq.le (a b : WideReq) : Bool :=
  if a.since != b.since then decide (a.since < b.since)
  else if a.slice != b.slice then decide (a.slice < b.slice)
  else if a.slot != b.slot then decide (a.slot < b.slot)
  else decide (a.rank ≤ b.rank)

/-- The requests of one welt: its next instruction and the heads of its streams. -/
def State.weltReqs (s : State) (i : Nat) : List WideReq :=
  let w := s.weltAt i
  let own : List WideReq := match w.wantSince with
    | some t => if w.halt == .stopped then [] else [⟨t, w.slice, w.slot, 0, w.wantPrice, .welt i w.order⟩]
    | none => []
  own ++ (List.range 8).filterMap fun k =>
    let st := w.stream k
    let price := s.headPrice i (BitVec.ofNat 3 k)
    match st.since with
    | some t => if st.paid < price then some ⟨t, w.slice, w.slot, 1 + k, price, .stream i k⟩ else none
    | none => none

/-- The requests of a core's copies: each for its next chunk. -/
def State.copyReqs (s : State) (core : Nat) : List WideReq :=
  (List.range s.copies.length).filterMap fun k => match s.copies[k]? with
    | none => none
    | some c => match c.since with
      | some t =>
        let w := s.weltAt c.w
        if !c.done && (s.wgAt c.wg).core == core then some ⟨t, w.slice, w.slot, 9 + k, c.price, .copy k c.paid⟩
        else none
      | none => none

/-- The wide requests of a core. -/
def State.wideReqs (s : State) (core : Nat) : List WideReq :=
  ((List.range s.welts.length).filter fun i => !(s.weltAt i).ended && (s.wgAt (s.weltAt i).wg).core == core
    && (s.wgAt (s.weltAt i).wg).st == .resident).flatMap s.weltReqs ++ s.copyReqs core

/-- The heads of a welt's streams that are ready but for their price begin to wait (R384). -/
def State.noteHeads (s : State) (i : Nat) : State :=
  (List.range 8).foldl (fun s k =>
    let w := s.weltAt i
    let st := w.stream k
    if !st.queue.isEmpty && st.since.isNone && decide (st.paid < s.headPrice i (BitVec.ofNat 3 k))
    then s.setWeltAt i (w.setStream k { st with since := some s.now }) else s) s

/-- Whether the next chunk of a copy waits for its price alone (R299, R384). -/
def Copy.wants (c : Copy) : Bool := !c.done && c.since.isNone && !c.dsts.isEmpty && decide (c.paid < c.chunks)

/-- Steps and chunks that are ready but for their price begin to wait (R384). -/
def State.noteWide (s : State) : State :=
  let s1 : State := if s.copies.any Copy.wants then
      { s with copies := s.copies.map fun c => if c.wants then { c with since := some s.now } else c }
    else s
  (List.range s1.welts.length).foldl (fun s i =>
    let w := s.weltAt i
    if w.ended || (s.wgAt w.wg).st != .resident || w.streams.toList.all fun st => st.queue.isEmpty then s
    else s.noteHeads i) s1

/-- The oldest request of a core (R384). -/
def State.oldest (s : State) (core : Nat) : Option WideReq := (sortKey WideReq.le (s.wideReqs core)).head?

/-- The tokens a core holds or reserves (R385, R393). -/
def Core.tokens (c : Core) : Nat := c.reserve + (c.held.map (·.count)).foldl (· + ·) 0

/-- Whether a core's oldest request has waited two ring periods (R388). -/
def State.starving (s : State) (core : Nat) : Bool :=
  match s.oldest core with
  | some r => decide (r.since + 96 ≤ s.now)
  | none => false

/-- Whether a core is hungry in this cc (R388): it is so while its oldest request has waited two ring periods. -/
def State.setHungry (s : State) (core : Nat) : State :=
  s.setCoreAt core { s.coreAt core with hungry := s.starving core }

/-- CORE_HUNGRY (R388). -/
def execCoreHungry (core : Nat) (s : State) : Result := .next (s.setHungry core)

/-- The longest occupancy in slice cycles of the instruction that a welt asks a price for (R387, rows 11 to 15): of price 4
only the .f64 divisions and roots, of price 2 also those in .f32, of price 1 also RNG. -/
def State.figure (s : State) (i price : Nat) : Nat :=
  let w := s.weltAt i
  let word (a : Pc) : Nat := match s.fetchWord w w.level a with
    | .ok x => x.toNat
    | .error _ => 0
  let op := word w.nextLane.pc / 2 ^ 25
  let func := word (w.nextLane.pc + 4) / 2 ^ 20 % 16
  match price with
  | 1 => if op = 0x26 then 8 else 4
  | 2 => if op = 0x2D || op = 0x2E || (op = 0x30 && func = 5) || (op = 0x31 && func = 0) then 16 else 4
  | _ => 32

/-- What a spent request holds (R386, R387): a step its cycles of R168, a chunk at most 2,048 cc, an instruction the figure
of R387 from its issue on, which comes within 16 slice cycles of the spend (R322); tokens of one that has not issued by then
go back, and it asks again (DEDUCED, log 33). -/
def State.holdFor (s : State) (r : WideReq) : HeldTokens :=
  match r.who with
  | .welt i _ => ⟨r.price, 16 + s.figure i r.price, some (s.weltAt i).slice, s.figure i r.price, r.who⟩
  | .stream i k =>
    let n := ((s.weltAt i).stream k).headHold
    ⟨r.price, n, none, n, r.who⟩
  | .copy _ _ => ⟨r.price, 2048, none, 2048, r.who⟩

/-- A request granted: what asked for it may run. -/
def State.grantReq (s : State) (r : WideReq) : State :=
  match r.who with
  | .welt i _ =>
    s.setWeltAt i { s.weltAt i with spent := r.price, wantSince := none, wait := .none }
  | .stream i k =>
    let w := s.weltAt i
    s.setWeltAt i (w.setStream k { w.stream k with paid := r.price, since := none })
  | .copy k _ => match s.copies[k]? with
    | some c => { s with copies := s.copies.set k { c with paid := c.paid + 1, since := none } }
    | none => s

/-- The reserve of a core spent on its oldest request, once it meets the price (R385): the tokens become held, and a hungry
core clears its bit (R388). -/
def State.spendNow (s : State) (core : Nat) : State :=
  match s.oldest core with
  | none => s
  | some r =>
    let c := s.coreAt core
    if c.reserve < r.price || c.reserveFor != some r.who then s
    else
      let c' : Core := { c with reserve := c.reserve - r.price, reserveFor := none, held := c.held ++ [s.holdFor r], hungry := false }
      (s.setCoreAt core c').grantReq r

/-- TOKEN_SPEND (R385). -/
def execTokenSpend (core : Nat) (s : State) : Result := .next (s.spendNow core)

/-- Whether held tokens are due: the occupancy is over (R386). An instruction completes as it issues, RNG as its results land;
one that trapped, or whose welt was taken off its core, has spent nothing any more. A step of a workgroup that was stopped is
abandoned. -/
def State.holdOver (s : State) (h : HeldTokens) : Bool :=
  h.left == 0 || match h.who with
  | .welt i n =>
    let w := s.weltAt i
    w.ended || (if w.order == n then w.spent == 0 else !(w.flights.any fun f => f.order == n && match f.kind with
      | .rng _ => true
      | _ => false))
  | .stream i _ =>
    let g := s.wgAt (s.weltAt i).wg
    (s.weltAt i).ended && (s.launchAt g.launch).failed.contains g.logical
  | .copy k n => match s.copies[k]? with
    | some c => c.chunkLanded n
    | none => true

/-- One cc, or one cycle of its slice, of an occupancy gone (R386, R392): an instruction that has issued has at the most its
figure left. -/
def State.ageHold (s : State) (core : Nat) (h : HeldTokens) : HeldTokens :=
  let ticks : Bool := match h.slice with
    | none => true
    | some k => sliceCycle ((s.coreAt core).slices.toList.getD k Slice.init).ratio s.now
  let left := if ticks then h.left - 1 else h.left
  let issued : Bool := match h.who with
    | .welt i n => (s.weltAt i).order != n
    | _ => false
  { h with left := if issued then min left h.figure else left }

/-- The occupancies of a core aged by a cc. -/
def State.ageHolds (s : State) (core : Nat) : State :=
  let c := s.coreAt core
  if c.held.isEmpty then s else s.setCoreAt core { c with held := c.held.map (s.ageHold core) }

/-- The tokens of work whose occupancy has ended leave a core (R386): the state, and how many they are. An instruction that has
not issued yet has spent them in vain. -/
def State.takeDue (s : State) (core : Nat) : State × Nat :=
  let c := s.coreAt core
  let due := c.held.filter s.holdOver
  if due.isEmpty then (s, 0)
  else
    let s1 := s.setCoreAt core { c with held := c.held.filter fun h => !(s.holdOver h) }
    (due.foldl (fun s h => match h.who with
      | .welt i n => if (s.weltAt i).order == n then s.setWeltAt i { s.weltAt i with spent := 0 } else s
      | _ => s) s1, (due.map (·.count)).sum)

/-- Tokens of a core returned to its ring (R385 item 4); those of a core that no partition owns are kept off it (R382). -/
def State.returnTokens (s : State) (core n : Nat) : State :=
  match s.partOf core with
  | some p => s.putTokens (core / 48) (core % 48) p.num n
  | none => s

/-- TOKEN_RETURN (R386): the tokens of work whose occupancy has ended go back to the ring. -/
def execTokenReturn (core : Nat) (s : State) : Result :=
  let r := s.takeDue core
  .next (r.1.returnTokens core r.2)

/-- The reserve of a core goes back to the ring (R386, R388). -/
def State.dropReserve (s : State) (core : Nat) : State :=
  let c := s.coreAt core
  (s.setCoreAt core { c with reserve := 0, reserveFor := none }).returnTokens core c.reserve

/-- The tokens of a partition that ends leave the rings and its cores (R382). -/
def State.dropTokens (s : State) (p : Part) : State :=
  let gone (r : Ring) : Ring := { r with free := r.free.map fun l => l.filter fun e => e.1 != p.num }
  let s1 : State := { s with rings := s.rings.map gone }
  ((List.range 192).filter fun c => p.clusters.contains (s.clusterOf c)).foldl (fun s c =>
    s.setCoreAt c { s.coreAt c with reserve := 0, reserveFor := none, held := [], hungry := false }) s1

/-- POWER_QUOTA_CHANGE (R383). -/
def execPowerQuotaChange (part q quota : Nat) (s : State) : Result :=
  match s.parts.find? fun p => p.live && p.num == part && decide (q < 4) with
  | some p => .next (s.setQuota p q quota)
  | none => .next s

/-! ### One cycle of the rings (R381, R385, R388) -/

/-- What a ring's stations do in one cc, from station 0 on: the core states, the tokens forwarded, the hunger vector. -/
structure RingStep where
  st : State
  free : List (List (Nat × Nat))
  hunger : List (BitVec 48)

/-- The stations of the cores of a partition on a quarter. -/
def State.stationsOf (s : State) (q : Nat) (p : Part) : BitVec 48 :=
  (List.range 48).foldl (fun (m : BitVec 48) i =>
    if p.clusters.contains (s.clusterOf (48 * q + i)) then m ||| BitVec.twoPow 48 i else m) 0

/-- The free tokens of a partition among those at a station, `n` of them taken off. -/
def takeCount (key n : Nat) (l : List (Nat × Nat)) : List (Nat × Nat) :=
  l.map fun e => if e.1 == key then (e.1, e.2 - n) else e

/-- One station in one cc (R385, R388): `arr` are the tokens that arrive and `seen` the hunger vector with them; the answer is
what is forwarded. Tokens that have become due return in this cc; what the core has reserved beyond the price of its oldest
request, or for work that asks no longer (R386), goes back with them; a reserve that meets the price is spent at once. -/
def State.station (s : State) (q i : Nat) (arr : List (Nat × Nat)) (seen : BitVec 48) : State × List (Nat × Nat) × BitVec 48 :=
  let core := 48 * q + i
  let mark (on : Bool) : BitVec 48 := if on then seen ||| BitVec.twoPow 48 i else seen &&& ~~~(BitVec.twoPow 48 i)
  let b := (s.ageHolds core).takeDue core
  match s.partOf core with
  | none => (b.1.setCoreAt core { b.1.coreAt core with reserve := 0, reserveFor := none, hungry := false }, arr, mark false)
  | some p =>
    let s1 := b.1.setHungry core
    let c := s1.coreAt core
    let giveUp := (s1.setCoreAt core { c with reserve := 0, reserveFor := none }, addCount p.num (c.reserve + b.2) arr, mark c.hungry)
    if !c.hungry && (seen &&& s.stationsOf q p &&& ~~~(BitVec.twoPow 48 i)) != 0 then giveUp
    else match s1.oldest core with
      | none => giveUp
      | some r =>
        let keep := if c.reserveFor == some r.who then min c.reserve r.price else 0
        let excess := c.reserve - keep
        let take := min (countOf p.num arr) (min (r.price - keep) (256 - (c.tokens - excess)))
        let s2 := (s1.setCoreAt core { c with reserve := keep + take, reserveFor := some r.who }).spendNow core
        (s2, addCount p.num (excess + b.2) (takeCount p.num take arr), mark (s2.coreAt core).hungry)

/-- Free tokens withdrawn as they pass station 0, until the quotas are met (R383). -/
def State.withdrawAt0 (s : State) (q : Nat) (arr : List (Nat × Nat)) : State × List (Nat × Nat) :=
  s.parts.foldl (fun (a : State × List (Nat × Nat)) p =>
    if !p.live then a
    else
      let due := p.withdraw.toList.getD q 0
      let k := min due (countOf p.num a.2)
      if k = 0 then a
      else (a.1.setPart { p with withdraw := p.withdraw.setIfInBounds q (due - k) },
        takeCount p.num k a.2)) (s, arr)

/-- One ring moves on by one station (R381). -/
def State.turnRing (s : State) (q : Nat) : State :=
  let r := s.ringAt q
  let start := s.withdrawAt0 q (r.at_ 47)
  let fin := (List.range 48).foldl (fun (a : RingStep) i =>
    let arr := if i = 0 then start.2 else r.at_ (i - 1)
    let seen := r.hunger.toList.getD ((i + 47) % 48) 0
    let x := a.st.station q i arr seen
    ⟨x.1, a.free ++ [x.2.1.filter fun e => e.2 != 0], a.hunger ++ [x.2.2]⟩) ⟨start.1, [], []⟩
  let r' : Ring := ⟨Vector.ofFn fun i : Fin 48 => fin.free.getD i [], Vector.ofFn fun i : Fin 48 => fin.hunger.getD i 0⟩
  { fin.st with rings := fin.st.rings.setIfInBounds q r' }

/-! ### Slices (R17, R391, R392) -/

/-- A slice of a core changed. -/
def State.setSlice (s : State) (core slice : Nat) (f : Slice → Slice) : State :=
  let c := s.coreAt core
  s.setCoreAt core { c with slices := c.slices.setIfInBounds slice (f (c.slices.toList.getD slice Slice.init)) }

/-- SLICE_RATIO_CHANGE (R392): the change becomes pending; it takes effect at a quiesce point, within 64 cc. -/
def execSliceRatioChange (core slice : Nat) (code : BitVec 3) (s : State) : Result :=
  .next ((s.setSlice core slice fun x => { x with pending := some (code, s.now + 64) }).post
    (.sliceRatioTakesEffect core slice))

/-- A pending change of a slice's ratio takes effect (R392). -/
def Slice.newRatio (x : Slice) : Slice :=
  match x.pending with
  | some (code, _) => { x with ratio := code, pending := none }
  | none => x

/-- SLICE_RATIO_TAKES_EFFECT (R392): at a quiesce point of the slice. A request passes within the move that issues it, so the
model has one between any two moves. -/
def execSliceRatioTakesEffect (core slice : Nat) (s : State) : Result := .next (s.setSlice core slice Slice.newRatio)

/-- The pending changes of a core whose 64 cc are over take effect (R392). -/
def State.ratioDue (s : State) (core : Nat) : State :=
  let c := s.coreAt core
  let due : Slice → Bool := fun x => x.pending.any fun p => decide (p.2 ≤ s.now)
  if c.slices.toList.any due then s.setCoreAt core { c with slices := c.slices.map fun x => if due x then x.newRatio else x }
  else s

/-- READ_GRANT_CHANGE (R391): 12 down to 2 grants. -/
def execReadGrantChange (core slice grants : Nat) (s : State) : Result :=
  .next (s.setSlice core slice fun x => { x with grants := min 12 (max 2 grants) })

/-! ### Reading the state (R393, R394) -/

/-- A quota and a floor in the places of R393. -/
def quotaBits (p : Part) (q : Nat) : Nat := p.quota q * 2 ^ 27 + p.floor q * 2 ^ 13

/-- `sr.tokens` for the issuing welt (R393); H is hunger as it is at the read (R388). -/
def State.tokensWord (s : State) : W64 :=
  let core := s.cg.core
  let c := s.coreAt core
  let sl := c.slices.toList.getD s.cw.slice Slice.init
  BitVec.ofNat 64 (sl.ratio.toNat * 2 ^ 55 + sl.grants * 2 ^ 51 + (if s.starving core then 2 ^ 50 else 0)
    + c.tokens * 2 ^ 41 + quotaBits (s.partNum s.cc.part) (quarterOf core))

/-- The table of R387: price and longest occupancy by index. -/
def priceTable : List (Nat × Nat) :=
  [(20, 2), (12, 2), (16, 2), (10, 2), (14, 2), (9, 2), (13, 4), (8, 4), (12, 8), (8, 8), (1, 8), (1, 8), (2, 4),
   (4, 32), (2, 16), (1, 4), (1, 2048), (2, 2048)]

/-- The answer of TOKQ (R394). -/
def State.tokenQuery (s : State) (q : W64) : W64 :=
  let i := field q 0 56
  match field q 56 8 with
  | 0 => match priceTable[i]? with
    | some (p, o) => BitVec.ofNat 64 (2 ^ 63 + o * 2 ^ 16 + p)
    | none => 0
  | 1 => if i = 0 then s.tokensWord else 0
  | 2 => if i < 4 then BitVec.ofNat 64 (2 ^ 63 + quotaBits (s.partNum s.cc.part) i) else 0
  | _ => 0

/-- TOKQ (R394). -/
def execTokq (d a : BitVec 6) (ta : Bool) (s : State) : Result :=
  s.uniOp ((({} : Deps).wsrc ta a.toNat).wdst d.toNat) 1 (s.cw.wrW d.toNat (s.tokenQuery (s.cw.rdW a.toNat)))

end Sys2Proof.Machine
end

