-- ==== Sys2Proof/Machine/Place.lean ====
section
/-!
DEFINITION. Placing workgroups on cores and taking them off: spec/02 R26, R44, R45, spec/10 R231-R233, spec/15 R310-R317,
spec/20 R407-R409, spec/21 R435, R436.
-/

namespace Sys2Proof.Machine

/-! ### Room on a core (R16, R44, R232) -/

/-- The workgroups that stand on a core. -/
def State.wgsOn (s : State) (core : Nat) : List Nat :=
  (List.range s.wgs.length).filter fun g => (s.wgAt g).core == core && (s.wgAt g).st == .resident
/-- The welts of a workgroup that have not ended. -/
def State.liveWelts (s : State) (g : Nat) : List Nat := (s.weltsOf g).filter fun i => !(s.weltAt i).ended
/-- The slice and slot of every welt on a core; a welt that ends frees its own (R29). -/
def State.usedSlots (s : State) (core : Nat) : List (Nat × Nat) :=
  ((s.wgsOn core).flatMap s.liveWelts).map fun i => ((s.weltAt i).slice, (s.weltAt i).slot)
/-- The free welt slots of a core, slot by slot over its slices (R44 promises no spread). -/
def State.freeSlots (s : State) (core : Nat) : List (Nat × Nat) :=
  let used := s.usedSlots core
  ((List.range 16).flatMap fun j => (List.range 6).map fun i => (i, j)).filter fun p => !(used.contains p)
/-- The sum of a list. -/
def sumOf (l : List Nat) : Nat := l.foldl (· + ·) 0
/-- Free operand buffer of a core in KiB. -/
def State.freeLast (s : State) (core : Nat) : Nat := 512 - sumOf ((s.wgsOn core).map fun g => (s.launchOf (s.wgAt g)).lastKiB)
/-- Free accumulator memory of a core in KiB. -/
def State.freeAcc (s : State) (core : Nat) : Nat := 256 - sumOf ((s.wgsOn core).map fun g => (s.launchOf (s.wgAt g)).accKiB)
/-- The spilled blocks of a workgroup (R231). -/
def Wg.spilled (g : Wg) : Nat := (g.blocks.toList.filter fun b => b.getLsbD 61).length
/-- The free physical stash blocks of a core (R232). -/
def State.freeBlocks (s : State) (core : Nat) : Nat :=
  24 - sumOf ((s.wgsOn core).map fun g => (s.launchOf (s.wgAt g)).stashBlocks - (s.wgAt g).spilled)
/-- The free blocks of a quarter's spill area (R232). -/
def State.freeSpill (s : State) (q : Nat) : Nat :=
  256 - sumOf ((List.range s.wgs.length).map fun g =>
    if (s.wgAt g).st == .resident && quarterOf (s.wgAt g).core == q then (s.wgAt g).spilled else 0)

/-- Whether members with the given numbers of welts fit a core, spill apart. -/
def State.fitsCore (s : State) (l : Launch) (core : Nat) (welts : List Nat) : Bool :=
  decide (sumOf welts ≤ (s.freeSlots core).length) && decide (welts.length * l.lastKiB ≤ s.freeLast core)
    && decide (welts.length * l.accKiB ≤ s.freeAcc core)

/-! ### Units of placement (R314, R408) -/

/-- The members of gang `k` of a launch as logical workgroup indices. -/
def Launch.members (l : Launch) (k : Nat) : List Nat := (List.range l.gangSize).map (k * l.gangSize + ·)
/-- The record of a logical workgroup, if it has been dispatched. -/
def State.wgOf (s : State) (l c : Nat) : Option Nat :=
  (List.range s.wgs.length).find? fun g => (s.wgAt g).launch == l && (s.wgAt g).logical == c
/-- The welts that a member needs room for: all of them, or those of a saved workgroup that have not ended. -/
def State.memberWelts (s : State) (l c : Nat) : Nat :=
  match s.wgOf l c with
  | none => (s.launchAt l).weltCount
  | some g => if (s.wgAt g).st == .saved then (s.liveWelts g).length else 0
/-- The quarter that a gang must be placed on: that of the workgroups of its quarter-level unit that have been dispatched, if
there are any (R47). -/
def State.unitQuarter (s : State) (l k : Nat) : Option Nat :=
  let x := s.launchAt l
  (x.highest 4).bind fun n =>
    let size := x.product (x.wgLevel + 1) n
    (s.wgs.find? fun g => g.launch == l && g.logical / size == k * x.gangSize / size).map fun g => quarterOf g.core

/-- The members of a gang that need a place: not dispatched, or saved. -/
def State.placing (s : State) (l k : Nat) : List Nat :=
  ((s.launchAt l).members k).filter fun c => match s.wgOf l c with
    | none => true
    | some g => (s.wgAt g).st == .saved

/-- The ways to bind `n` roles to different cores of a list. -/
def bindings : Nat → List Nat → List (List Nat)
  | 0, _ => [[]]
  | n + 1, cores => cores.flatMap fun c => (bindings n (cores.filter fun d => d != c)).map (c :: ·)

/-- Whether the members of a gang fit with its roles bound to the given cores (R408). -/
def State.fitsBound (s : State) (l k : Nat) (cores : List Nat) : Bool :=
  let x := s.launchAt l
  let on (r : Nat) : List Nat := (s.placing l k).filter fun c => c % x.gangSize % x.roles == r
  let spill (r core : Nat) : Nat := (on r).length * x.stashBlocks - s.freeBlocks core
  cores.zipIdx.all (fun c => s.fitsCore x c.1 ((on c.2).map (s.memberWelts l)))
    && decide (sumOf (cores.zipIdx.map fun c => spill c.2 c.1) ≤ s.freeSpill (quarterOf (cores.headD 0)))

/-- The cores of the cluster of a core. -/
def clusterCores (core : Nat) : List Nat := (List.range 4).map (4 * (core / 4) + ·)

/-- The cores that a gang would be bound to when it is placed at a core: that core alone for a gang of one, else its
cluster's cores, in some order in which it fits (R314, R408); a quarter-level unit lies inside one quarter (R47). -/
def State.bindAt (s : State) (l k core : Nat) : Option (List Nat) :=
  let x := s.launchAt l
  if (s.unitQuarter l k).any fun q => q != quarterOf core then none
  else if x.gangSize = 1 then (if s.fitsBound l k [core] then some [core] else none)
  else (bindings x.roles (clusterCores core)).find? (s.fitsBound l k)

/-! ### Placing -/

/-- Whether some welt of a core awaits service (R428). -/
def State.inService (s : State) (core : Nat) : Bool :=
  ((s.wgsOn core).flatMap s.liveWelts).any fun i => (s.weltAt i).service

/-- A workgroup comes to a core: a gated core wakes before it issues (R316), an empty one starts its timers (R336,
R337), and a stalled one holds it (R428). -/
def State.arriveOn (s : State) (core : Nat) : State :=
  let c := s.coreAt core
  let s1 := if (s.wgsOn core).isEmpty then s.setCoreAt core { c with timerStart := s.now, busyAt := s.now } else s
  if c.gate == .on then s1 else s1.post (.coreWake core)

/-- A block table for `n` blocks of which the last `k` are spilled (R231, R232), keeping what a saved table binds. -/
def blockTable (n k : Nat) (old : Vector W64 32) : Vector W64 32 :=
  Vector.ofFn fun i : Fin 32 =>
    if i.val < n then (old[i] &&& 0x400FFFFFFFFF0000#64) ||| BitVec.ofNat 64 (2 ^ 63 + if n ≤ i.val + k then 2 ^ 61 else 0)
    else 0

/-- A welt as it starts (R26): registers zero and full, lanes at the entry, trap vectors of its levels (R420). -/
def newWelt (l : Launch) (tvec1 tvec2 : W64) (wg index : Nat) (place : Nat × Nat) (held : Bool) : Welt :=
  let populated : Lanes := if l.legacy then 0x0000FFFF#32 else 0xFFFFFFFF#32
  let lanes : Vector Lane 32 := Vector.ofFn fun i : Fin 32 =>
    if populated.getLsbD i then { Lane.init with x := false, pc := l.entry, seg := l.entry } else Lane.init
  let traps : Vector TrapRegs 3 :=
    #v[TrapRegs.init, { TrapRegs.init with tvec := tvec1 }, { TrapRegs.init with tvec := tvec2 }]
  { Welt.init with
    wg := wg
    index := index
    slice := place.1
    slot := place.2
    populated := populated
    lanes := lanes
    traps := traps
    halt := if held then .stopped else .none }

/-- A workgroup starts on a core (R26, R165, R231, R233, R295, R333). -/
def State.startWg (s : State) (l logical core : Nat) : State :=
  let x := s.launchAt l
  let g := s.wgs.length
  let n := x.weltCount
  let p := s.partNum (s.ctxAt x.ctx).part
  let held := s.inService core
  let first := s.welts.length
  let spill := x.stashBlocks - s.freeBlocks core
  let places := s.freeSlots core
  let wg : Wg := { Wg.init with
    launch := l
    logical := logical
    gang := logical / x.gangSize
    core := core
    blocks := blockTable x.stashBlocks spill (Vector.replicate 32 0)
    members := (List.range n).map fun i => (first + i, false, 0) }
  let s1 := s.arriveOn core
  let s2 : State := { s1 with
    wgs := s1.wgs ++ [wg]
    welts := s1.welts ++ (List.range n).map fun i =>
      newWelt x p.tvec s.mgmtTvec g i (places.getD i (0, 0)) held }
  s2

/-- A lane after a restore: a register that no save keeps holds an undefined value, full (R309, R436). -/
def State.restoredLane (s : State) (n key : Nat) (l : Lane) : Lane :=
  { l with
    v := Vector.ofFn fun i : Fin 128 => if i.val < n then l.v[i] else s.undef32 (128 * key + i.val)
    full := l.full ||| (BitVec.allOnes 128 <<< n)
    bad := l.bad &&& ~~~(BitVec.allOnes 128 <<< n) }

/-- A welt after a restore (R309, R436), with the wound patience going on (R435). -/
def State.restoredWelt (s : State) (l : Launch) (i : Nat) (place : Nat × Nat) : Welt :=
  let w := s.weltAt i
  { w with
    slice := place.1
    slot := place.2
    started := false
    lanes := Vector.ofFn fun k : Fin 32 => s.restoredLane l.vregs (64 * i + k.val) w.lanes[k]
    w := Vector.ofFn fun k : Fin 64 => if k.val < l.wregs || k.val = 0 then w.w[k] else s.undef64 (2 ^ 32 + 64 * i + k.val)
    wfull := w.wfull ||| (BitVec.allOnes 64 <<< l.wregs)
    wbad := w.wbad &&& ~~~(BitVec.allOnes 64 <<< l.wregs)
    txn := w.txn.map fun t => if t.wounded && !t.reported then { t with since := s.now - t.since } else t }

/-- A saved workgroup comes back on a core (R435, R436): its mapped blocks hold the lines of their ranges there (R234), and its welts go on at their stop points once nothing else holds them
(`State.mayResume`). -/
def State.restoreWg (s : State) (g core : Nat) : State :=
  let wg := s.wgAt g
  let l := s.launchOf wg
  let places := s.freeSlots core
  let spill := l.stashBlocks - s.freeBlocks core
  let s1 := s.arriveOn core
  let s2 := s1.setWgAt g { wg with
    core := core
    st := .resident
    vacating := false
    moving := none
    blocks := blockTable l.stashBlocks spill wg.blocks
    barSince := wg.barSince.map fun e => s.now - e }
  let s3 := (s.liveWelts g).zipIdx.foldl (fun s x => s.setWeltAt x.1 (s.restoredWelt l x.1 (places.getD x.2 (0, 0))))
    ((List.range 32).foldl (fun s b => s.leaveL1 g b) s2)
  let s4 := (s.liveWelts g).foldl (fun s i =>
    if (s.weltAt i).colls.any fun c => c.wait != .none then s.post (.phaserWaitRelease i) else s) s3
  if (s.liveWelts g).any fun i => (s.weltAt i).service then s4.post (.coreStall core) else s4

/-- A core role is bound to the core that its members are placed on; those that have ended keep to it (R408). -/
def State.bindRole (s : State) (l k : Nat) (core : Nat → Nat) : State :=
  { s with wgs := s.wgs.map fun g =>
      if g.launch == l && g.gang == k && g.st == .ended then { g with core := core g.logical } else g }

/-- A gang placed with its roles bound to cores (R408, R409): members that start, members that come back, then the
binding record. -/
def State.placeGang (s : State) (l k : Nat) (cores : List Nat) : State :=
  let x := s.launchAt l
  let core (c : Nat) : Nat := cores.getD (c % x.gangSize % x.roles) 0
  let s1 := (s.placing l k).foldl (fun s c => match s.wgOf l c with
    | none => s.startWg l c (core c)
    | some g => s.restoreWg g (core c)) s
  (s1.bindRole l k core).writeBinding l k

/-! ### Taking off (R435) -/

/-- Every welt of a workgroup is told to stop, without a record (R435 item 1). -/
def State.haltWg (s : State) (g : Nat) : State := (s.liveWelts g).foldl (State.haltWelt · .leave ·) s

/-- Whether a workgroup has come to rest (R435 items 1 to 3): every welt stopped, producers landed but for region
instructions, copies complete or failed, block changes complete (R280). A copy that has not claimed its slot has not begun
(R297). -/
def State.atRest (s : State) (g : Nat) : Bool :=
  ((s.liveWelts g).all fun i => (s.weltAt i).halt == .stopped
    && (s.weltAt i).flights.all fun f => match f.kind with
      | .region _ _ => true
      | _ => false)
  && ((s.wgAt g).rebinding.all (·.done))
  && s.copies.all fun c => c.wg != g || c.done || (c.cb.isSome && c.slot.isNone)

/-- Whether wide work is a workgroup's. -/
def State.workOf (s : State) (g : Nat) (r : Holder) : Bool :=
  match r with
  | .welt i _ | .stream i _ => (s.weltAt i).wg == g
  | .copy k _ => ((s.copies[k]?).map (·.wg)) == some g

/-- The tokens that a core reserved for a workgroup go back (R386). -/
def State.unreserve (s : State) (g : Nat) : State :=
  let core := (s.wgAt g).core
  if (s.coreAt core).reserveFor.any (s.workOf g) then s.dropReserve core else s

/-- What a welt that leaves its core goes on waiting for: its requests for tokens are made again when it resumes (R386). -/
def Wait.offCore (r : Wait) : Wait :=
  match r with
  | .tokens => .none
  | r => r

/-- A welt as it is saved (R436). -/
def Welt.offCore (w : Welt) (now : Nat) : Welt :=
  { w with
    wait := w.wait.offCore
    spent := 0
    wantSince := none
    wantPrice := 0
    readyAt := none
    triedAt := none
    code := []
    streams := w.streams.map fun st => { st with paid := 0, since := none }
    txn := w.txn.map fun t => if t.wounded && !t.reported then { t with since := now - t.since } else t }

/-- A workgroup at rest is saved (R435 item 4): its core gives back the lines of its mapped blocks (R234) and shows its stores
to the device (log 14); a barrier timeout and a wound patience pause (R334, R347). -/
def State.saveWg (s : State) (g : Nat) : State :=
  let s0 := (List.range 32).foldl (fun s b => s.dropBlock g b) (s.showCore g)
  let s1 := s0.unreserve g
  let wg := s1.wgAt g
  let s2 := s1.setWgAt g { wg with
    st := .saved
    vacating := false
    moving := none
    barSince := wg.barSince.map fun t => s.now - t }
  (s.liveWelts g).foldl (fun s i => s.setWeltAt i ((s.weltAt i).offCore s.now)) s2

/-- The workgroups that are being vacated and have come to rest are saved. -/
def State.finishSaves (s : State) : State :=
  ((List.range s.wgs.length).filter fun g => (s.wgAt g).st == .resident && (s.wgAt g).vacating
      && (s.wgAt g).moving.isNone).foldl
    (fun s g => if s.atRest g then s.saveWg g else s) s

/-- Workgroups begin to be vacated (R317, R435); one that is moving finishes its move first and is then saved. -/
def State.startVacate (s : State) (gs : List Nat) : State :=
  gs.foldl (fun s g =>
    if (s.wgAt g).st == .resident && !(s.wgAt g).vacating && !(s.wgAt g).killed then
      (s.setWgAt g { s.wgAt g with vacating := true }).haltWg g
    else s) s

/-! ### Vacating cores of a launch (R317, R437) -/

/-- The cores of a launch that can be vacated: those that hold workgroups of it, without the cores to spare; whole
clusters where its gangs have more than one workgroup. -/
def State.vacatable (s : State) (l : Nat) (spare : Option Nat) : List Nat :=
  let mine := (List.range 192).filter fun c => (s.wgsOn c).any fun g => (s.wgAt g).launch == l
  if (s.launchAt l).gangSize = 1 then mine.filter fun c => spare != some c
  else ((List.range 192).filter fun c => (clusterCores c).any mine.contains).filter fun c =>
    !(spare.any fun d => d / 4 == c / 4)

/-- Whether a vacate of a launch has come to its end: every workgroup that had to go is saved. -/
def State.vacated (s : State) (l : Nat) : Bool := s.wgs.all fun g => !(g.launch == l && g.vacating && g.st == .resident)

/-- A vacate of a launch in progress: one whose welt has ended is so until its workgroups are saved (R437). -/
def State.vacateOf (s : State) (l : Nat) : Option (Option Nat × Nat × Nat) :=
  (s.launchAt l).vacate.filter fun v => !(v.1.any fun i => (s.weltAt i).ended) || !(s.vacated l)

/-- What a VACATE of `n` cores of a launch answers at once, if it does not begin (R437). -/
def State.vacateRefused (s : State) (l : Option Nat) (n : Nat) (spare : Option Nat) : Option Nat :=
  match l with
  | none => some 1
  | some i =>
    if (s.launchAt i).join.isSome then some 1
    else if (s.vacateOf i).isSome || decide ((s.vacatable i spare).length < n) || n = 0
      || ((s.launchAt i).gangSize != 1 && n % 4 != 0) then some 2
    else none

/-- A vacate of a launch begins (R317). -/
def State.beginVacate (s : State) (l n : Nat) (spare who : Option Nat) (cseq : Nat) : State :=
  let cores := (s.vacatable l spare).take n
  let x := s.launchAt l
  (s.setLaunchAt l { x with vacate := some (who, n, cseq) }).startVacate
    (cores.flatMap fun c => (s.wgsOn c).filter fun g => (s.wgAt g).launch == l)

/-- The vacate of a launch is over. -/
def State.endVacate (s : State) (l : Nat) : State := s.setLaunchAt l { s.launchAt l with vacate := none }

end Sys2Proof.Machine
end

