-- ==== Sys2Proof/Machine/System.lean ====
section
/-!
DEFINITION. System instructions, traps by instruction, and the stop of siblings and cores: spec/20 R406, R410-R413,
spec/21 R425-R431, R437, spec/04 R93.
-/

namespace Sys2Proof.Machine

/-! ### ILLEGAL by encoding (R81, R93) -/

/-- UNASSIGNED_OPCODE: a word or header that R81 or R93 refuses; A is named and the pc is the word's. -/
def execUnassignedOpcode (hdr : Bool) (s : State) : Result := .next (s.illegalWord hdr)

/-! ### Trap instructions (R429) -/

/-- The cause that TRAP may raise, if any. -/
def trapCause (x : W64) : Option Cause :=
  if field x 8 4 ≠ 0 then none
  else match Cause.ofCode (x.extractLsb' 0 8) with
    | some .hang | some .gangUnplaceable | some .tretState => none
    | c => c

/-- TRAP and TRAP.s: the cause of W[wa], bits 63:12 as the address, SK set (R422, R424, R429). -/
def State.trapOp (s : State) (a : WReg) (ta sup : Bool) : Result :=
  s.issue s.cw.A (({} : Deps).wsrc ta a.toNat) 0 (
    let x := s.cw.rdW a.toNat
    match trapCause x with
    | none => .next s.illegal
    | some c => .next (s.raise { cause := c, lanes := s.cw.A, pc := s.cw.pc, addr := x.extractLsb' 12 52,
                                 sk := true, sup := sup }))

/-- TRAP (R429). -/
def execTrap (a : BitVec 6) (ta : Bool) (s : State) : Result := s.trapOp a ta false

/-- TRAP.s (R429): taken at level 1, or one level up. -/
def execTrapS (a : BitVec 6) (ta : Bool) (s : State) : Result := s.trapOp a ta true

/-- BRK (R429). -/
def execBrk (s : State) : Result :=
  s.issue s.cw.A {} 0 (.next (s.raise { cause := .brk, lanes := s.cw.A, pc := s.cw.pc, sk := true }))

/-- The length in words of the instruction at a trap pc (R429). -/
def State.lengthAt (s : State) (level : Nat) (pc : Pc) : Nat :=
  match s.fetchWord s.cw level pc with
  | .ok w => if hasSecondWord w then 2 else 1
  | .error _ => 1

/-- TRET (R429). -/
def execTret (s : State) : Result :=
  s.issue s.cw.A {} 0 (
    let t := s.cw.trap (s.cw.inHandler.headD 0)
    .next (s.trapReturn (s.lengthAt (t.tsw.extractLsb' 12 2).toNat (t.tpcv.setWidth 48))))

/-! ### System registers (R410-R412) -/

/-- `sr.status` (R410). -/
def State.statusWord (s : State) : W64 :=
  let b (x : Bool) (k : Nat) : Nat := if x then 2 ^ k else 0
  BitVec.ofNat 64 (s.cw.level * 2 ^ 10 + b s.cw.serial.isSome 9 + b s.cl.interlocked 8 + b s.cl.det 7 + b s.cl.walker 6
    + b s.cl.legacy 5)

/-- `sr.weltid` (R410). -/
def State.weltIdWord (s : State) : W64 :=
  let c := s.cg.core
  BitVec.ofNat 64 (quarterOf c * 2 ^ 14 + s.physCore c * 2 ^ 8 + s.cw.slice * 2 ^ 5 + s.cw.slot)

/-- The value that SRD reads for a selector and level copy, or `none` where the level may not read it (R411, R412); the
reserved bits of `sr.tsw` read as zero (R4). -/
def State.readSys (s : State) (sl : Nat) (lv : Nat) : Option W64 :=
  let t := s.cw.trap lv
  if s.cw.level < lv then none
  else match sl with
  | 0x00 => some s.statusWord
  | 0x01 => some (s.cw.fpctl.setWidth 64)
  | 0x02 => some (s.cyclesOf s.cg.core)
  | 0x04 => if s.cw.level = 0 then none else some s.weltIdWord
  | 0x05 => some (BitVec.ofNat 64 (s.cg.logical % 2 ^ 58))
  | 0x06 => some (levelId s.cg.logical s.cw.index)
  | 0x07 => some s.cl.top
  | 0x08 => some s.tokensWord
  | 0x09 => some s.cw.skivestat
  | 0x0A => some s.cw.nanrec
  | 0x0B => some t.restart
  | 0x0C => some (BitVec.ofNat 64 (s.cc.part * 2 ^ 12 + s.cc.num.toNat))
  | 0x10 => some t.tcause
  | 0x11 => some t.tlanes
  | 0x12 => some t.tpcv
  | 0x13 => some (t.tsw &&& 0x3FFFF80#64)
  | 0x14 => some t.tvec
  | 0x15 => some t.skid
  | _ => none

/-- SRD (R412). -/
def execSrd (d : BitVec 6) (lv : BitVec 2) (sl : BitVec 8) (s : State) : Result :=
  s.issue s.cw.A (({} : Deps).wdst d.toNat) 0 (
    match s.readSys sl.toNat lv.toNat with
    | none => .next s.illegal
    | some x => .next (s.retire (s.cw.wrW d.toNat x) 2))

/-- SRD of `sr.laneid` (R412): each lane of A gets its index. -/
def execSrdLaneid (d : BitVec 7) (s : State) : Result :=
  s.issue s.cw.A (({} : Deps).dst [d.toNat]) 0
    (.next (s.retire (s.cw.mapLanes s.cw.A fun i l => l.wr d.toNat (BitVec.ofNat 32 i)) 2))

/-- A register after a write that touches only the bits of a mask (R3). -/
def writeBits (old x mask : W64) : W64 := (old &&& ~~~mask) ||| (x &&& mask)

/-- The welt after SWR, or `none` where the level may not access the register; a write to a read-only register is ignored
(R3, R108, R112, R187, R271, R411, R412, R420-R426). -/
def Welt.writeSys (w : Welt) (sl lv : Nat) (x : W64) : Option Welt :=
  let t := w.trap lv
  if w.level < lv then none
  else match sl with
  | 0x00 | 0x02 | 0x05 | 0x06 | 0x07 | 0x08 | 0x0C => some w
  | 0x04 => if w.level = 0 then none else some w
  | 0x01 => some { w with
      fpctl := (x.setWidth 32 &&& 0x3F780#32) ||| (w.fpctl &&& ~~~(x.setWidth 32) &&& 0x3F#32) }
  | 0x09 => some { w with
      skivestat := (x &&& 0x0000FFFFFFFFFFFF#64) ||| (w.skivestat &&& ~~~x &&& 0x80FF000000000000#64) }
  | 0x0A => some { w with nanrec := writeBits w.nanrec x 0x8000000000000000#64 }
  | 0x0B => some (w.setTrap lv { t with restart := x &&& 0xC0000003FFFFFFFF#64 })
  | 0x10 => some (w.setTrap lv { t with tcause := x })
  | 0x11 => some (w.setTrap lv { t with tlanes := x &&& 0xFFFFFFFF#64 })
  | 0x12 => some w
  | 0x13 => some (w.setTrap lv { t with tsw := writeBits t.tsw x 0xFFFFFFFFFC000C7F#64 })
  | 0x14 => some (w.setTrap lv { t with
      tvec := x &&& (if lv = 0 then 0x0000FFFFFFFFFFFF#64 else 0x0000FFFFFFFFFFFD#64) })
  | 0x15 => some (w.setTrap lv { t with skid := x })
  | _ => none

/-- SWR (R412). -/
def execSwr (a : BitVec 6) (ta : Bool) (lv : BitVec 2) (sl : BitVec 8) (s : State) : Result :=
  s.issue s.cw.A (({} : Deps).wsrc ta a.toNat) 0 (
    match s.cw.writeSys sl.toNat lv.toNat (s.cw.rdW a.toNat) with
    | none => .next s.illegal
    | some w => .next (s.retire w 2))

/-! ### SKEY (R413) -/

/-- Whether a new key for a lane is legal. -/
def keyOk (w : Welt) (sv : Saved) (i : Nat) (k : W64) : Bool :=
  field k 48 8 == 0 && field k 0 2 == 0 && (!(k.getLsbD 63) || k == 0x8000000000000000#64)
    && k.getLsbD 62 == sv.h.getLsbD i && (k.getLsbD 63 || w.populated.getLsbD i)

/-- The saved state with the keys of some lanes replaced; where such a lane stands in a clause is found when it issues
(log 17). -/
def Saved.withKeys (sv : Saved) (m : Lanes) (key : Nat → W64) : Saved :=
  { sv with
    x := Lanes.ofPred fun i => if m.getLsbD i then (key i).getLsbD 63 else sv.x.getLsbD i
    depth := Vector.ofFn fun i : Fin 32 => if m.getLsbD i then (key i).extractLsb' 56 6 else sv.depth[i]
    pc := Vector.ofFn fun i : Fin 32 => if m.getLsbD i then (key i).setWidth 48 else sv.pc[i]
    pos := Vector.ofFn fun i : Fin 32 => if m.getLsbD i then .restored else sv.pos[i] }

/-- SKEY (R413): every lane is checked before any is written. -/
def execSkey (a : BitVec 6) (ta : Bool) (c : BitVec 7) (tc : Bool) (s : State) : Result :=
  s.issue s.cw.A (({} : Deps).wsrc ta a.toNat) 0 (
    let m : Lanes := (s.cw.rdW a.toNat).setWidth 32
    s.issue m (({} : Deps).src tc [c.toNat, c.toNat + 1]) 0 (
      let key (i : Nat) : W64 := (s.cw.lane i).rdTy .b64 c.toNat
      match s.cw.inHandler with
      | [] => .next s.illegal
      | n :: _ => match s.cw.saved.toList.getD n none with
        | none => .next s.illegal
        | some sv =>
          if n = 0 || field (s.cw.rdW a.toNat) 32 32 != 0
              || !((Lanes.nats m).all fun i => keyOk s.cw sv i (key i)) then .next s.illegal
          else .next (s.retire { s.cw with saved := s.cw.saved.setIfInBounds n (some (sv.withKeys m key)) } 2)))

/-! ### TLBINV (R406) -/

/-- The size that a code of TLBINV gives. -/
def invSize (code : Nat) : Nat :=
  match code with
  | 0 => 2 ^ 16
  | 1 => 2 ^ 21
  | 2 => 2 ^ 30
  | _ => 2 ^ 64

/-- Step 1 of R406: the context's entries that overlap a range leave every TLB, with the walks in flight for it. -/
def State.dropTlb (s : State) (ctx lo size : Nat) : State :=
  let hit (va n : Nat) : Bool := decide (va < lo + size) && decide (lo < va + n)
  let keep : Tlb → Bool := fun t => !(t.ctx == ctx && hit t.page t.size)
  { s with
    tlb := s.tlb.filter keep
    tlb2 := s.tlb2.filter keep
    walks := s.walks.filter fun w => !(w.ctx == ctx && hit (65536 * w.page) 65536) }

/-- Whether every load and atomic of a context that is in flight has been performed (R406 step 2). Buffered atomics and
partials hold virtual addresses, which are translated as they are applied. -/
def State.accessesDone (s : State) (ctx : Nat) : Bool :=
  s.welts.all fun w => (s.launchOf (s.wgAt w.wg)).ctx != ctx || w.flights.all fun f => match f.kind with
    | .load _ | .loadW _ _ _ _ | .atom _ => false
    | _ => true

/-- The stores of a context acknowledged by their homes: every party of the device sees them (R406 step 2). -/
def State.showCtx (s : State) (ctx : Nat) : State :=
  s.expose 6 ⟨s.cur, BitVec.allOnes 32⟩ ((s.veils.filter fun v => (s.launchOf (s.wgAt v.wg)).ctx == ctx).map (·.num))

/-- TLBINV (R406): the accesses translated under a dropped entry are awaited before the range's pages become unclassified. -/
def execTlbinv (a b : BitVec 6) (ta tb : Bool) (s : State) : Result :=
  s.issue s.cw.A ((({} : Deps).wsrc ta a.toNat).wsrc tb b.toNat) 0 (
    let va := s.cw.rdW a.toNat
    let code := s.cw.rdW b.toNat
    if s.cw.level = 0 || field code 2 62 != 0 || va.toNat % invSize code.toNat != 0 then .next s.illegal
    else
      let s1 := (s.showCtx s.cl.ctx).dropTlb s.cl.ctx va.toNat (invSize code.toNat)
      if s1.accessesDone s.cl.ctx then
        let s2 := s1.unclassify s.cl.ctx va.toNat (invSize code.toNat)
        .next (s2.retire s2.cw 1)
      else .next (s1.stall .order))

/-! ### VACATE and HALTWG (R437) -/

/-- The launch that a supervisor names (R437): of a context of its own partition. -/
def State.namedLaunch (s : State) (x : W64) : Option Nat :=
  (s.ctxs.findIdx? fun c => c.num.toNat == field x 48 12 && c.part == s.cc.part && !c.ended).bind fun c =>
    s.launchIdx c (field x 0 48)

/-- The word of R437. -/
def superWord (status count : Nat) : W64 := BitVec.ofNat 64 (count * 2 ^ 32 + status)

/-- VACATE (R317, R437): it waits until every vacated workgroup is saved. -/
def execVacate (d a b : BitVec 6) (ta tb : Bool) (s : State) : Result :=
  s.issue s.cw.A (((({} : Deps).wsrc ta a.toNat).wsrc tb b.toNat).wdst d.toNat) 0 (
    let x := s.cw.rdW a.toNat
    let n := (s.cw.rdW b.toNat).toNat
    let done (t : State) (v : W64) : Result := .next (t.retire (t.cw.wrW d.toNat v) 1)
    if s.cw.level = 0 || field x 60 4 != 0 then .next s.illegal
    else
      let l := s.namedLaunch x
      match l.bind fun i => (s.vacateOf i).map fun v => (i, v) with
      | some (i, some me, k, _) =>
        if me = s.cur then
          let s1 := s.finishSaves
          if s1.vacated i then done (s1.endVacate i) (superWord 0 k) else .next (s1.stall .order)
        else done s (superWord 2 0)
      | some (_, none, _, _) => done s (superWord 2 0)
      | none => match s.vacateRefused l n (some s.cg.core), l with
        | some st, _ => done s (superWord st 0)
        | none, some i => .next ((s.beginVacate i n (some s.cg.core) (some s.cur) 0).stall .order)
        | none, none => done s (superWord 1 0))

/-- Whether the welts of a workgroup but one have come to rest. -/
def State.othersAtRest (s : State) (g i : Nat) : Bool :=
  ((s.liveWelts g).all fun k => k == i || ((s.weltAt k).halt == .stopped
    && (s.weltAt k).flights.all fun f => match f.kind with
      | .region _ _ => true
      | _ => false))
  && s.copies.all fun c => c.wg != g || c.done || (c.cb.isSome && c.slot.isNone)

/-- The cause that a kill reports: HANG where the handler that kills runs for one (R320), else 0. -/
def State.killCause (s : State) : BitVec 8 :=
  let c := (s.cw.trap s.cw.level).tcause.extractLsb' 0 8
  if c == Cause.hang.code then c else 0

/-- A workgroup told to stop before it is ended (R437). -/
def State.startKill (s : State) (g : Nat) (but : Option Nat) : State :=
  if (s.wgAt g).killed then s
  else ((s.liveWelts g).filter fun i => but != some i).foldl (State.haltWelt · .leave ·)
    (s.setWgAt g { s.wgAt g with killed := true })

/-- HALTWG (R437): the workgroup stops, then ends; of its own workgroup the issuing welt is the last. -/
def execHaltwg (d a b : BitVec 6) (ta tb : Bool) (s : State) : Result :=
  s.issue s.cw.A (((({} : Deps).wsrc ta a.toNat).wsrc tb b.toNat).wdst d.toNat) 0 (
    let x := s.cw.rdW a.toNat
    let c := field (s.cw.rdW b.toNat) 0 58
    let done (t : State) (v : W64) : Result := .next (t.retire (t.cw.wrW d.toNat v) 1)
    if s.cw.level = 0 || field x 60 4 != 0 then .next s.illegal
    else match s.namedLaunch x with
    | none => done s (superWord 1 0)
    | some i =>
      let l := s.launchAt i
      if l.join.isSome || decide (l.wgCount ≤ c) then done s (superWord 1 0)
      else match s.wgOf i c with
      | none => done (s.flagLaunch i fun f => { f with killed := some (f.killed.getD s.killCause) }) (superWord 0 0)
      | some g =>
        if g = s.cw.wg then
          let cause := (s.cw.trap s.cw.level).tcause.extractLsb' 0 8
          let s0 := if l.flags.faulted.isSome then s else s.flagLaunch i fun f => { f with faulted := some cause }
          let s1 := s0.startKill g (some s.cur)
          if s1.othersAtRest g s.cur then .next (s1.faultWg g cause true)
          else .next (s1.stall .order)
        else
          let s1 := (s.startKill g none).flagLaunch i fun f => { f with killed := some (f.killed.getD s.killCause) }
          if (s1.wgAt g).st != .resident || s1.atRest g then done (s1.stopWg g true) (superWord 0 0)
          else .next (s1.stall .order))

/-! ### Stops and steps (R425-R431) -/

/-- SIBLING_STOP (R425): a welt to which a halt has come stops if it stands at a stop point. Inside a clause it runs on, and
stops by itself at the clause boundary, or where it cannot issue (`Welt.settleHalt`, `State.stall`). -/
def execSiblingStop (w : Nat) (s : State) : Result :=
  let x := s.weltAt w
  if x.atStop && !x.ended then .next (s.setWeltAt w x.stop) else .next s

/-- CORE_STALL (R428): every welt of the core that runs no handler stops, those of other workgroups without a record; they go on
once no welt of the core awaits service any more (`State.mayResume`). -/
def execCoreStall (core : Nat) (s : State) : Result :=
  if s.inService core then
    .next (((s.wgsOn core).flatMap s.liveWelts).foldl (State.haltWelt · .stall ·) s)
  else .next s

/-- SINGLE_STEP_COMPLETE (R430): STEP once the stepped instruction has completed; a welt that has ended raises
nothing. -/
def execSingleStepComplete (w : Nat) (s : State) : Result :=
  let x := s.weltAt w
  if !x.stepDone then .next s
  else if x.ended then
    .next (s.setWeltAt w { x with stepping := false, stepDone := false })
  else if (x.colls.any fun c => c.wait != .none && x.stands c) || !x.flights.isEmpty then
    .next (s.post (.singleStepComplete w))
  else .next (s.raiseIn w { cause := .step, lanes := x.stepLanes, pc := x.stepPc, depth := some x.stepDepth })

/-- WATCH_ARM (R431). -/
def execWatchArm (core : Nat) (slot : BitVec 2) (watch : Watch) (s : State) : Result :=
  let c := s.coreAt core
  .next (s.setCoreAt core { c with watches := c.watches.setIfInBounds slot.toNat (some watch) })

/-- WATCH_DISARM (R431). -/
def execWatchDisarm (core : Nat) (slot : BitVec 2) (s : State) : Result :=
  let c := s.coreAt core
  .next (s.setCoreAt core { c with watches := c.watches.setIfInBounds slot.toNat none })

end Sys2Proof.Machine
end

