-- ==== Sys2Proof/Machine/Scheduler.lean ====
section
/-!
DEFINITION. Dispatch, gangs, moves, time slices, the end of launches, gating and hangs: spec/15 R310-R320, spec/16
R336, R337, spec/20 R408, spec/22 R441, R447.
-/

namespace Sys2Proof.Machine

/-! ### What may be dispatched (R310, R311) -/

/-- Whether a launch dispatches no more workgroups: it has ended, failed, or its context ends (R314, R320, R437, R443,
R449). -/
def State.stopped (s : State) (l : Nat) : Bool :=
  let x := s.launchAt l
  x.join.isSome || x.flags.faulted.isSome || x.flags.killed.isSome || x.flags.unplaced || x.flags.stop
    || (s.ctxAt x.ctx).ending || (s.ctxAt x.ctx).ended

/-- The gangs of a launch, lowest first. -/
def Launch.gangs (l : Launch) : List Nat := List.range (l.wgCount / l.gangSize)

/-- The gangs that have saved workgroups and none on a core: a gang comes back whole (R310 item 1, R314, R408). -/
def State.savedGangs (s : State) (l : Nat) : List Nat :=
  let of (k : Nat) (st : WgState) : Bool := ((s.launchAt l).members k).any fun c => match s.wgOf l c with
    | some g => (s.wgAt g).st == st && !(s.wgAt g).killed
    | none => false
  (s.launchAt l).gangs.filter fun k => of k .saved && !(of k .resident)

/-- The gangs that have not been dispatched. -/
def State.openGangs (s : State) (l : Nat) : List Nat :=
  (s.launchAt l).gangs.filter fun k => ((s.launchAt l).members k).all fun c => (s.wgOf l c).isNone

/-- The gangs that may start: not dispatched, every box satisfied (R310, R311). -/
def State.readyGangs (s : State) (l : Nat) : List Nat :=
  (s.openGangs l).filter fun k => ((s.launchAt l).members k).all fun c => s.boxSet (s.launchAt l) c

/-- Whether a launch dispatches nothing at all any more, saved workgroups neither: one has faulted or was killed, or a gang
had no place; it ends with its resident workgroups (R314, R320, R437). A cancelled launch still finishes what it has begun
(R443; DEDUCED, log 30). -/
def Launch.broken (l : Launch) : Bool := l.flags.faulted.isSome || l.flags.killed.isSome || l.flags.unplaced

/-- The units of a launch in the order in which it offers them: its saved gangs, also where it starts no more; then the ready
ones by index, or in any order in a walker launch that is not deterministic (R310, R313). -/
def State.units (s : State) (l : Nat) : List Nat :=
  let x := s.launchAt l
  let saved := if x.broken then [] else s.savedGangs l
  let fresh := if s.stopped l then [] else s.readyGangs l
  let turn := if x.walker && !x.det then (s.undef32 0x41574C).toNat % max 1 fresh.length else 0
  saved ++ fresh.drop turn ++ fresh.take turn

/-- The unit at the head of a launch's dispatch order. -/
def State.nextUnit (s : State) (l : Nat) : Option Nat := (s.units l).head?

/-- Whether a core lies in a cluster that is kept for another gang (R314). -/
def State.keptFrom (s : State) (l k core : Nat) : Bool :=
  (List.range s.launches.length).any fun j => (s.launchAt j).candidate.any fun c => c.1 == core / 4 && !(j == l && c.2 == k)

/-- Whether the workgroups of a launch's context are being switched out of a core, or, for gangs of more than one, of its
cluster (R441): the waiting work of others comes first there. -/
def State.slicedOut (s : State) (l core : Nat) : Bool :=
  let x := s.launchAt l
  let out (c : Nat) : Bool := (s.coreAt c).slicedOut == some x.ctx
  out core || (x.gangSize != 1 && (clusterCores core).any out)

/-- The first unit of a launch that fits at a core of its partition, with the cores that its roles would be bound to: a later
one comes before the work of a later launch (R310). -/
def State.placeAt (s : State) (l core : Nat) : Option (Nat × List Nat) :=
  let part := (s.partOf core).map (·.num)
  if part != some (s.ctxAt (s.launchAt l).ctx).part || (s.ctxAt (s.launchAt l).ctx).ended || s.slicedOut l core
  then none
  else (s.units l).findSome? fun k =>
    if s.keptFrom l k core then none else (s.bindAt l k core).map fun cores => (k, cores)

/-- Whether what a launch would place at a core is a saved gang. -/
def State.offersSaved (s : State) (l core : Nat) : Bool := (s.placeAt l core).any fun u => (s.savedGangs l).contains u.1

/-- The dispatch order of R310: saved first, then priority, contexts in turn, sequence numbers. -/
def State.ranksBefore (s : State) (core a b : Nat) : Bool :=
  let x := s.launchAt a
  let y := s.launchAt b
  let sa := s.offersSaved a core
  let sb := s.offersSaved b core
  let n := s.ctxs.length
  let last := ((s.partOf core).map (·.lastCtx)).getD 0
  let turn (c : Nat) : Nat := (c + n - (last + 1) % n) % n
  if sa != sb then sa
  else if x.prio != y.prio then decide (y.prio < x.prio)
  else if x.ctx != y.ctx then decide (turn x.ctx < turn y.ctx)
  else decide (x.seq < y.seq)

/-- The launches that have a unit that fits at a core. -/
def State.fitting (s : State) (core : Nat) : List Nat :=
  (List.range s.launches.length).filter fun l => (s.placeAt l core).isSome

/-- Whether a launch is the one of some launches that a core is given to (R310). -/
def State.firstOf (s : State) (f : List Nat) (l core : Nat) : Bool :=
  f.contains l && f.all fun k => k == l || s.ranksBefore core l k

/-- Whether a launch is the one that a core is given to (R310). -/
def State.comesFirst (s : State) (l core : Nat) : Bool := s.firstOf (s.fitting core) l core

/-- A launch's unit placed at a core; a gang for which a cluster was kept waits no more. -/
def State.dispatch (s : State) (l core : Nat) : State :=
  match s.placeAt l core with
  | none => s
  | some (k, cores) =>
    let s1 := s.placeGang l k cores
    let x := s1.launchAt l
    let s2 := s1.setLaunchAt l { x with
      waiting := none, candidate := if x.candidate.any fun c => c.2 == k then none else x.candidate }
    match s2.partOf core with
    | some p => s2.setPart { p with lastCtx := x.ctx }
    | none => s2

/-- WORKGROUP_DISPATCH (R310, R314, R316, R317, R408): a unit of a launch is placed at a core, if the dispatch order gives it the
core. -/
def execWorkgroupDispatch (l core : Nat) (s : State) : Result :=
  .next (if s.comesFirst l core then s.dispatch l core else s)

/-! ### Gangs that wait (R314) -/

/-- The cores of a launch's partition. -/
def State.partCores (s : State) (l : Nat) : List Nat :=
  (List.range 192).filter fun c => (s.partOf c).any fun p => p.num == (s.ctxAt (s.launchAt l).ctx).part

/-- Whether a launch's next unit is ready, stands at the head of its dispatch order and has no place. -/
def State.stuck (s : State) (l : Nat) : Bool :=
  (s.nextUnit l).any (fun k => (s.partCores l).all fun c => s.keptFrom l k c || (s.bindAt l k c).isNone)
    && (List.range s.launches.length).all fun k => k == l || (s.launchAt k).ctx != (s.launchAt l).ctx
      || (s.launchAt k).prio != (s.launchAt l).prio || (s.launchAt l).seq < (s.launchAt k).seq || (s.nextUnit k).isNone

/-- The slots that a cluster would have to free for a launch's next unit: core by core, in the binding of its roles that needs
the fewest (R314, R408). -/
def State.slotsShort (s : State) (l cluster : Nat) : Nat :=
  let x := s.launchAt l
  let need (k r : Nat) : Nat :=
    sumOf (((s.placing l k).filter fun c => c % x.gangSize % x.roles == r).map (s.memberWelts l))
  let short (k : Nat) (cores : List Nat) : Nat := sumOf (cores.zipIdx.map fun c => need k c.2 - (s.freeSlots c.1).length)
  match s.nextUnit l with
  | none => 0
  | some k => match (bindings x.roles (clusterCores (4 * cluster))).map (short k) with
    | [] => 0
    | n :: ns => ns.foldl min n

/-- The clusters that may become the candidate of a launch's next unit: those of its partition that are kept for no other gang
(R314), in the quarter of a quarter-level unit (R47). -/
def State.candidates (s : State) (l : Nat) : List Nat :=
  match s.nextUnit l with
  | none => []
  | some k => (((s.partCores l).map (· / 4)).eraseDups).filter fun c =>
      !(s.keptFrom l k (4 * c)) && !((s.unitQuarter l k).any fun q => q != quarterOf (4 * c))

/-- The candidate cluster of R314: the fewest slots to vacate, then the lowest. -/
def State.bestCluster (s : State) (l : Nat) : Option Nat :=
  (s.candidates l).foldl (fun best c => match best with
    | none => some c
    | some b => if s.slotsShort l c < s.slotsShort l b then some c else some b) none

/-- Whether the placement patience of a launch's waiting unit has passed. -/
def State.patienceOver (s : State) (l : Nat) (second : Bool) : Bool :=
  let x := s.launchAt l
  let c := s.ctxAt x.ctx
  match x.waiting with
  | some t => decide (t + c.p1 + (if second then c.p2 else 0) ≤ s.now)
  | none => false

/-- GANG_CANDIDATE_RESERVE (R314). -/
def execGangCandidateReserve (l : Nat) (s : State) : Result :=
  let x := s.launchAt l
  if s.patienceOver l false && x.candidate.isNone && s.stuck l then
    .next (s.setLaunchAt l { x with candidate := (s.bestCluster l).bind fun c => (s.nextUnit l).map fun k => (c, k) })
  else .next s

/-- The workgroups on the cores of a cluster. -/
def State.occupants (s : State) (cluster : Nat) : List Nat := (clusterCores (4 * cluster)).flatMap s.wgsOn

/-- The workgroups of the gang of a workgroup. -/
def State.gangOf (s : State) (g : Nat) : List Nat :=
  (List.range s.wgs.length).filter fun k => (s.wgAt k).launch == (s.wgAt g).launch && (s.wgAt k).gang == (s.wgAt g).gang

/-- GANG_PATIENCE_EXPIRY (R314): gangs of other contexts at a lower priority are vacated whole; among its own context alone,
or on an empty cluster that cannot hold it, the launch fails with GANG-UNPLACEABLE (so that it ends, R304: DEDUCED, log 30);
otherwise it waits. -/
def execGangPatienceExpiry (l : Nat) (s : State) : Result :=
  let x := s.launchAt l
  match x.candidate with
  | none => .next s
  | some (c, _) =>
    if !(s.patienceOver l true) || !(s.stuck l) then .next s
    else
      let occ := s.occupants c
      let others := occ.filter fun g => (s.launchOf (s.wgAt g)).ctx != x.ctx
      let lower := others.filter fun g => decide ((s.launchOf (s.wgAt g)).prio < x.prio)
      if !lower.isEmpty then
        let s1 := (s.startVacate (lower.flatMap s.gangOf)).finishSaves
        .next (s1.post (.gangPatienceExpiry l))
      else if others.isEmpty then
        let s1 := s.setLaunchAt l { x with candidate := none, waiting := none }
        .next (s1.flagLaunch l fun f => { f with unplaced := true })
      else .next s

/-! ### Moves (R315) -/

/-- The workgroups that move with one: the members of its gang on its core (R408). -/
def State.movers (s : State) (g : Nat) : List Nat :=
  (s.gangOf g).filter fun k => (s.wgAt k).core == (s.wgAt g).core && (s.wgAt k).st == .resident

/-- Whether a workgroup may go to a core (R315, R408): same quarter and partition; not kept for another gang (R314); for a gang of
more than one, the same cluster and a core that no other role binds; with room for all that move, in the spill area of the
quarter too (R232). -/
def State.mayMove (s : State) (g core : Nat) : Bool :=
  let x := s.wgAt g
  let l := s.launchOf x
  let n := (s.movers g).length * l.stashBlocks - s.freeBlocks core
  x.st == .resident && core != x.core && decide (core < 192) && quarterOf core == quarterOf x.core
    && (s.partOf core).isSome && (s.partOf core).map (·.num) == (s.partOf x.core).map (·.num)
    && !(s.keptFrom x.launch x.gang core)
    && (l.gangSize == 1 || (core / 4 == x.core / 4 && !((s.gangOf g).any fun k => (s.wgAt k).core == core)))
    && s.fitsCore l core ((s.movers g).map fun k => (s.liveWelts k).length)
    && decide (n ≤ s.freeSpill (quarterOf core) + sumOf ((s.movers g).map fun k => (s.wgAt k).spilled))

/-- Workgroups of a move come to rest and stand on the new core at once (R435), with the role rebound (R408, R409); one that a
vacate has asked for meanwhile stays stopped, to be saved from there (R317). -/
def State.finishMove (s : State) (gs : List Nat) (core : Nat) : State :=
  let asked := gs.filter fun g => (s.wgAt g).vacating
  let s1 := gs.foldl State.saveWg s
  let s2 := gs.foldl (fun s g => s.restoreWg g core) s1
  let s3 := asked.foldl (fun s g => s.setWgAt g { s.wgAt g with vacating := true }) s2
  match gs with
  | g :: _ =>
    let x := s.wgAt g
    let role := x.logical % (s.launchOf x).gangSize % (s.launchOf x).roles
    let old (c : Nat) : Nat :=
      if c % (s.launchOf x).gangSize % (s.launchOf x).roles == role then core
      else ((s.wgs.find? fun k => k.launch == x.launch && k.logical == c).map (·.core)).getD core
    (s3.bindRole x.launch x.gang old).writeBinding x.launch x.gang
  | [] => s3

/-- WORKGROUP_MOVE (R315): deferred while copies are outstanding; then every welt stops at a clause boundary. -/
def execWorkgroupMove (g core : Nat) (s : State) : Result :=
  let x := s.wgAt g
  match x.moving with
  | none =>
    if x.leaving || !(s.mayMove g core) then .next s
    else if s.copies.any fun c => (s.movers g).contains c.wg && !c.done then .next (s.post (.workgroupMove g core))
    else
      let s1 := (s.movers g).foldl (fun s k => (s.setWgAt k { s.wgAt k with moving := some core }).haltWg k) s
      .next (s1.post (.workgroupMove g core))
  | some c =>
    if c ≠ core || x.st != .resident then .next s
    else
      let gs := s.movers g
      if !(gs.all s.atRest) then .next (s.post (.workgroupMove g core))
      else if s.mayMove g core then .next (s.finishMove gs core)
      else
        .next (gs.foldl (fun s k => s.setWgAt k { s.wgAt k with moving := none }) s)

/-! ### Time slices (R441) -/

/-- The core time charged to a context on a core. -/
def Ctx.charged (c : Ctx) (core : Nat) : Nat := countOf core c.charge

/-- The workgroups of a context that are switched out with a core: those on it, and the cluster's where they belong to
gangs of more than one. -/
def State.sliceWgs (s : State) (ctx core : Nat) : List Nat :=
  (clusterCores core).flatMap fun c => (s.wgsOn c).filter fun g => (s.launchOf (s.wgAt g)).ctx == ctx
    && (c == core || (s.launchOf (s.wgAt g)).gangSize != 1)

/-- The launches of other contexts of a core's partition. -/
def State.otherLaunches (s : State) (ctx core : Nat) : List Nat :=
  (List.range s.launches.length).filter fun l => (s.launchAt l).ctx != ctx
    && (s.partOf core).map (·.num) == some (s.ctxAt (s.launchAt l).ctx).part

/-- Whether another context of the partition has a ready workgroup. -/
def State.othersReady (s : State) (ctx core : Nat) : Bool := (s.otherLaunches ctx core).any fun l => (s.nextUnit l).isSome

/-- Whether another context of the partition has a ready workgroup that the core could hold without these workgroups. -/
def State.othersWait (s : State) (ctx core : Nat) : Bool :=
  let gone : State := { s with
    wgs := s.wgs.zipIdx.map fun g => if (s.sliceWgs ctx core).contains g.2 then { g.1 with st := .saved } else g.1 }
  (s.otherLaunches ctx core).any fun l => (s.units l).any fun k => (gone.bindAt l k core).isSome

/-- The charge of a context on a core restarts. -/
def State.restartCharge (s : State) (ctx core : Nat) : State :=
  s.setCtxAt ctx { s.ctxAt ctx with charge := (s.ctxAt ctx).charge.filter fun e => e.1 != core }

/-- The waiting work of other contexts dispatched at a core, in the order of R310, while some fits. -/
def State.dispatchOthers (ctx core : Nat) : Nat → State → State
  | 0, s => s
  | n + 1, s =>
    let f := (s.otherLaunches ctx core).filter fun l => (s.placeAt l core).isSome
    match f.find? fun l => s.firstOf f l core with
    | some l => State.dispatchOthers ctx core n (s.dispatch l core)
    | none => s

/-- A core switches a context out, or has done so. -/
def State.setSlicedOut (s : State) (core : Nat) (ctx : Option Nat) : State :=
  s.setCoreAt core { s.coreAt core with slicedOut := ctx }

/-- TIME_SLICE_EXPIRY (R441): the context's workgroups on the core are switched out if other work waits for it, and that work is
dispatched there before them; the charge restarts then, and where no other work of the partition is ready. -/
def execTimeSliceExpiry (ctx core : Nat) (s : State) : Result :=
  let gs := s.sliceWgs ctx core
  if (s.coreAt core).slicedOut == some ctx then
    let s1 := s.finishSaves
    if (s1.sliceWgs ctx core).any fun g => (s1.wgAt g).vacating then .next (s1.post (.timeSliceExpiry ctx core))
    else .next ((State.dispatchOthers ctx core 96 (s1.restartCharge ctx core)).setSlicedOut core none)
  else if (s.ctxAt ctx).charged core < (s.ctxAt ctx).slice then .next s
  else if s.othersWait ctx core then
    .next (((s.startVacate gs).setSlicedOut core (some ctx)).post (.timeSliceExpiry ctx core))
  else if s.othersReady ctx core then .next s
  else .next (s.restartCharge ctx core)

/-! ### The end of a launch (R312, R320, R447) -/

/-- Whether a workgroup of a launch was cancelled because its producer did not complete (R312). -/
def State.boxLost (s : State) (l : Nat) : Bool :=
  let x := s.launchAt l
  (match s.producer x with
    | some p => p.join.any fun j => field j 0 8 != 0
    | none => false)
  && (s.openGangs l).any fun k => (x.members k).any fun c => !(s.boxSet x c)

/-- Whether a launch has nothing left to do: nothing to start, every workgroup ended, or saved where it dispatches nothing any
more, its work visible (R311, R320). -/
def State.launchOver (s : State) (l : Nat) : Bool :=
  (s.stopped l || (s.openGangs l).isEmpty || ((s.readyGangs l).isEmpty && s.boxLost l))
    && (s.wgs.all fun g => g.launch != l || g.st == .ended || ((s.launchAt l).broken && g.st == .saved)) && s.quietWork l fun _ => true

/-- The JOIN word of R320. -/
def joinWord (f : Flags) (lost : Bool) : W64 :=
  if f.unplaced then BitVec.ofNat 64 (4 + 2 ^ 8 * Cause.gangUnplaceable.code.toNat)
  else if f.cancelled || lost then 3
  else match f.killed, f.faulted with
    | some c, _ => BitVec.ofNat 64 (2 + 2 ^ 8 * c.toNat)
    | none, some c => BitVec.ofNat 64 (1 + 2 ^ 8 * c.toNat)
    | none, none => 0

/-- The ranges that a launch declared end, their partials combined (R237). -/
def State.endRanges (s : State) (l : Nat) : State :=
  let mine (r : Nat) : Bool := ((s.ranges[r]?).map fun x => x.live && x.launch == l).getD false
  let s1 := s.combine fun p => mine p.range
  { s1 with ranges := s1.ranges.map fun r => if r.launch == l then { r with live := false } else r }

/-- The completion of a host launch (R447): its record, then the kind-2 completion. A record that has no room in a fitted
region cannot be made. -/
def State.hostEnd (s : State) (l : Nat) (j : W64) : State :=
  let x := s.launchAt l
  let rec_ := bytesLE j 8 ++ bytesLE (BitVec.ofNat 64 (2 ^ 63 + x.seq)) 8
  let w : Option State := if x.crec = 0 then some s else if x.crec % 16 ≠ 0 then none else s.writeVA x.ctx 0 x.crec rec_
  (w.getD s).complete x.ctx 2 (if w.isSome then 0 else 10) 0 (BitVec.ofNat 64 x.seq) j

/-- The saved workgroups of a launch that dispatches nothing any more end where they are, as a faulted one does (R320). -/
def State.endSaved (s : State) (l : Nat) : State :=
  if (s.launchAt l).broken then
    ((List.range s.wgs.length).filter fun g => (s.wgAt g).launch == l && (s.wgAt g).st == .saved).foldl
      (fun s g => s.stopWg g false) s
  else s

/-- LAUNCH_END (R320): once nothing is left, entries are applied and ranges end, the launch takes its JOIN word, and its
host is told. -/
def execLaunchEnd (l : Nat) (s : State) : Result :=
  let s := s.endSaved l
  match s.launches[l]? with
  | none => .next s
  | some x =>
    if x.join.isSome || !(s.launchOver l) then .next s
    else
      let j := joinWord x.flags (s.boxLost l)
      let s1 := (s.applyLaunch l).endRanges l
      let s2 := s1.setLaunchAt l { s1.launchAt l with join := some j, candidate := none, waiting := none }
      let s3 := if x.host then s2.hostEnd l j else s2
      .next s3

/-! ### Gating and hangs (R336, R337) -/

/-- Whether a welt is waiting, for one of the reasons that R336 lists. -/
def Welt.waiting (w : Welt) : Bool :=
  w.ended || w.halt == .stopped || w.readyAt.isNone && match w.wait with
    | .phaser _ | .barrier | .buffer _ _ | .join _ | .lock _ | .stream _ | .register _ | .atomicBuffer | .service => true
    | _ => false
/-- Whether every welt of a core is waiting. -/
def State.coreWaits (s : State) (core : Nat) : Bool := ((s.wgsOn core).flatMap s.liveWelts).all fun i => (s.weltAt i).waiting

/-- Whether a core may clock-gate: every welt waits, and has done so for 2,048 cc. -/
def State.gateDue (s : State) (core : Nat) : Bool :=
  let c := s.coreAt core
  c.gate == .on && decide (c.busyAt + 2048 ≤ s.now) && s.coreWaits core

/-- CORE_CLOCK_GATE (R336, R316): a dispatch in the same cycle has ended the wait, and the gating aborts. -/
def execCoreClockGate (core : Nat) (s : State) : Result :=
  if s.gateDue core then .next (s.setCoreAt core { s.coreAt core with gate := .clock s.now }) else .next s

/-- CORE_POWER_GATE (R336): after 65,536 gated cc more, every piece of state kept; an event that has ended a wait of one of its
welts, or a dispatch, has called it off (R316). -/
def execCorePowerGate (core : Nat) (s : State) : Result :=
  match (s.coreAt core).gate with
  | .clock t => if t + 65536 ≤ s.now && s.coreWaits core then .next (s.setCoreAt core { s.coreAt core with gate := .power }) else .next s
  | _ => .next s

/-- CORE_WAKE (R336, R316): gating starts to count anew. -/
def execCoreWake (core : Nat) (s : State) : Result :=
  .next (s.setCoreAt core { s.coreAt core with gate := .on, busyAt := s.now })

/-- A core in which a welt does not wait (R336). -/
def State.noteBusy (s : State) (core : Nat) : State :=
  if s.coreWaits core then s else s.setCoreAt core { s.coreAt core with busyAt := s.now }

/-- The kind and object of a wait record (R337). A wait that the table does not list has kind 0. -/
def waitObject (w : Welt) (g : Wg) : Nat × W64 :=
  if w.service || w.halt == .stopped then (9, 0)
  else match w.wait with
  | .phaser id => (1, BitVec.ofNat 64 id)
  | .barrier => (2, g.phase.setWidth 64)
  | .buffer n _ => (3, BitVec.ofNat 64 n)
  | .join q => (4, q)
  | .lock n => (5, n)
  | .stream m => (6, BitVec.ofNat 64 m)
  | .register n => (7, BitVec.ofNat 64 n)
  | .atomicBuffer => (8, 0)
  | .service => (9, 0)
  | _ => (0, 0)

/-- A wait record (R337). -/
def waitRecord (w : Welt) (g : Wg) : List W64 :=
  let o := waitObject w g
  [BitVec.ofNat 64 (o.1 * 2 ^ 60 + w.index * 2 ^ 54), o.2]

/-- Events that are on their way to a welt: a grant, an atomic at its home, a load, a result. They take far less than a hang
threshold, so HANG is not raised while one is due (DEDUCED, log 32: R304, R347). -/
def underWay : Instr → Bool
  | .lockGrant _ | .farAtomic _ _ | .loadLand _ _ | .phaserResultReturn _ _ => true
  | _ => false

/-- The workgroups of a core that hang: every one, once the residency timer has reached the hang threshold of the context of one
of them (R337). -/
def State.hungWgs (s : State) (core : Nat) : List Nat :=
  let on := (s.wgsOn core).filter fun g => !(s.liveWelts g).isEmpty
  if s.agenda.any underWay then []
  else if on.any fun g => decide ((s.coreAt core).timerStart + (s.ctxAt (s.launchOf (s.wgAt g)).ctx).hangAt ≤ s.now) then on else []

/-- The address of a welt's next instruction: at a clause boundary the one behind the header (R424, R434). -/
def State.nextPc (s : State) (i : Nat) : Pc :=
  let w := s.weltAt i
  match s.placeOf w w.nextLane with
  | .inside _ _ => w.nextLane.pc
  | _ => w.nextLane.pc + 4

/-- HANG of one workgroup (R337, R434, R451): the report, the message, and the trap in its lowest welt. -/
def State.hangWg (s : State) (g : Nat) : State :=
  let x := s.wgAt g
  let l := s.launchOf x
  let c := s.ctxAt l.ctx
  let ws := sortKey (fun a b => decide ((s.weltAt a).index ≤ (s.weltAt b).index)) (s.liveWelts g)
  let recs := flits ws.length (ws.flatMap fun i => waitRecord (s.weltAt i) x)
  let s1 := s.report (s.partNum c.part)
    ((reportHead 1 recs.length l c x.logical ++ [BitVec.ofNat 64 ws.length]) :: recs)
  let s2 := s1.tellMgmt 1 [BitVec.ofNat 64 c.part, BitVec.ofNat 64 c.num.toNat, BitVec.ofNat 64 l.seq,
    BitVec.ofNat 64 x.logical]
  let s3 : State := { s2 with mgmtOut := s2.mgmtOut ++ recs }
  match ws.head? with
  | some i => s3.raiseIn i { cause := .hang, lanes := (s3.weltAt i).living, pc := s3.nextPc i }
  | none => s3

/-- HANG (R337): for every workgroup of the core, once its timer has reached a threshold; the timer starts again. -/
def execHang (core : Nat) (s : State) : Result :=
  let gs := s.hungWgs core
  if gs.isEmpty then .next s
  else
    let s1 := gs.foldl State.hangWg s
    .next (s1.setCoreAt core { s1.coreAt core with timerStart := s.now })

/-- Host VACATEs whose workgroups are all saved are answered (R437, R443, R444). -/
def State.finishVacates (s : State) : State :=
  (List.range s.launches.length).foldl (fun s l => match (s.launchAt l).vacate with
    | some (none, n, cseq) =>
      if s.vacated l then (s.endVacate l).complete (s.launchAt l).ctx 1 0 cseq (BitVec.ofNat 64 n) 0 else s
    | _ => s) s

/-! ### The clock (R381, R385, R441) -/

/-- The contexts that have a workgroup on a core. -/
def State.ctxsOn (s : State) (core : Nat) : List Nat := ((s.wgsOn core).map fun g => (s.launchOf (s.wgAt g)).ctx).eraseDups

/-- A cycle charged to every context on every core that it holds (R441, R428); a core that holds none restarts. -/
def State.chargeCycle (s : State) : State :=
  let on := (List.range 192).map fun c => (c, s.ctxsOn c)
  { s with ctxs := s.ctxs.zipIdx.map fun c =>
      let mine := (on.filter fun e => e.2.contains c.2).map (·.1)
      { c.1 with charge := mine.map fun k => (k, c.1.charged k + 1) } }

/-- The launches whose next unit finds no place begin to wait (R314). -/
def State.markWaiting (s : State) : State :=
  { s with launches := s.launches.zipIdx.map fun l =>
      if s.stuck l.2 then { l.1 with waiting := some (l.1.waiting.getD s.now) } else { l.1 with waiting := none } }

/-- The events of one core that are due. -/
def State.coreDue (s : State) (core : Nat) : List Instr :=
  let c := s.coreAt core
  (if s.gateDue core then [.coreClockGate core] else [])
    ++ (match c.gate with
      | .clock t => if t + 65536 ≤ s.now then [.corePowerGate core] else []
      | _ => [])
    ++ (if (s.hungWgs core).isEmpty then [] else [.hang core])
    ++ ((s.ctxsOn core).filter fun x => decide ((s.ctxAt x).slice ≤ (s.ctxAt x).charged core)).map fun x =>
        .timeSliceExpiry x core

/-- The leases that hosts have not granted within 2^20 cc (R243). -/
def State.leaseDue (s : State) : List Instr :=
  (List.range s.welts.length).filterMap fun i => match (s.weltAt i).wait with
    | .lease _ ls answers since =>
      if decide (answers.length < ls.length) && decide (since + 2 ^ 20 ≤ s.now) then some (.hostAtomicLeaseTimeout i) else none
    | _ => none

/-- The events of one launch that are due: its end, its next unit at a core, its patience. -/
def State.launchDue (s : State) (l : Nat) : List Instr :=
  if (s.launchAt l).join.isSome then []
  else
    (if s.launchOver l then [.launchEnd l] else [])
      ++ ((s.partCores l).filter fun c => s.comesFirst l c).map (fun c => .workgroupDispatch l c)
      ++ (if s.patienceOver l false && (s.launchAt l).candidate.isNone then [.gangCandidateReserve l] else [])
      ++ (if s.patienceOver l true && (s.launchAt l).candidate.isSome then [.gangPatienceExpiry l] else [])

/-- Whether the report of corrected errors falls due (R451): 2^20 µs, at 2.1 GHz (R17), after the last one, once the
management plane is open. -/
def State.countsDue (s : State) : Bool := s.bringup == .up && decide (s.countedAt + 2202009600 ≤ s.now)

/-- LACE_CYCLE (R381, R385, R388): one cc passes. The rings turn by one station, with what each station does in that cc; ratio
changes that are due take effect (R392), core time is charged, and what falls due is posted. -/
def execLaceCycle (s : State) : Result :=
  let s0 : State := { s with now := s.now + 1 }
  let s1 := (List.range 4).foldl State.turnRing ((List.range 192).foldl State.noteBusy s0)
  let s2 := ((List.range 192).foldl State.ratioDue s1).finishSaves.finishVacates.chargeCycle.markWaiting
  let due := (List.range 192).flatMap s2.coreDue ++ s2.leaseDue ++ (List.range s2.launches.length).flatMap s2.launchDue
    ++ if s2.countsDue then [.correctedErrorReport []] else []
  .next { s2 with agenda := s2.agenda ++ due.filter fun i => !(s2.agenda.contains i) }

end Sys2Proof.Machine
end

