-- ==== Sys2Proof/Machine/HostIf.lean ====
section
/-!
DEFINITION. The host's planes, the management plane, reset and errors, and the events of coherence: spec/22 R439-R451,
spec/20 R398-R400, R405, R414, R415, spec/10 R228, R235, R236, spec/21 R433.
-/

namespace Sys2Proof.Machine

/-! ### Command packets (R442-R446) -/

/-- A word of a packet. -/
def pword (p : Packet) (i : Nat) : W64 := p.getD i 0
/-- op, seq and arg0 of a command (R442). -/
def pOp (p : Packet) : Nat := field (pword p 0) 56 8
/-- The flits that follow the header. -/
def pFlits (p : Packet) : Nat := field (pword p 0) 48 4
/-- The command sequence number. -/
def pSeq (p : Packet) : Nat := field (pword p 0) 0 48
/-- The context number. -/
def pCtx (p : Packet) : Nat := field (pword p 1) 48 12
/-- The argument of the header. -/
def pArg (p : Packet) : Nat := field (pword p 1) 0 48
/-- The acknowledgement. -/
def pAck (p : Packet) : Nat := field (pword p 2) 0 48

/-- The context that a packet of an endpoint reaches: its number, commanded by its control endpoint alone (R441). -/
def State.ctxOfPacket (s : State) (ep : Nat) (p : Packet) : Option Nat :=
  s.ctxs.findIdx? fun c => c.num.toNat == pCtx p && !c.ended && c.control == ep

/-- The acknowledgement of a command taken in: what it covers is held no longer (R446). -/
def State.acknowledge (s : State) (c n : Nat) : State :=
  let x := s.ctxAt c
  s.setCtxAt c { x with ack := max x.ack n, held := x.held.filter fun h => decide (max x.ack n < h.num) }

/-- An answer that belongs to no context (R444 status 4). -/
def State.answerNone (s : State) (ep kind : Nat) (p : Packet) : State :=
  { s with sent := s.sent ++ [(ep, completionFlit kind 4 0 (pCtx p) (pSeq p) 0 0)] }

/-- A refusal, or an answer, of a command: a kind-1 completion (R444). -/
def State.answerCmd (s : State) (c status : Nat) (p : Packet) (val : Nat) : State :=
  s.complete c 1 status (pSeq p) (BitVec.ofNat 64 val) 0

/-- The launches of the host that a context has open. -/
def State.hostLaunches (s : State) (c : Nat) : Nat :=
  (s.launches.filter fun l => l.ctx == c && l.host && l.join.isNone).length

/-- A refusal of a command that is not taken (R445): a completion as others are, as long as the completions held leave room
among the 8,192 of R446 for the end of each open launch. One beyond that has no number and is not held (log 34). -/
def State.refuseCmd (s : State) (c status : Nat) (p : Packet) : State :=
  let x := s.ctxAt c
  if x.held.length + s.hostLaunches c < 8192 then s.answerCmd c status p 0
  else { s with sent := s.sent ++ [(x.control, completionFlit 1 status 0 x.num.toNat (pSeq p) 0 0)] }

/-- The checks of R445 before a command is taken, in their order; a taken one advances the expected number and then does
`k`. -/
def State.command (s : State) (ep : Nat) (p : Packet) (kill : Bool) (k : State → Nat → State) : Result :=
  match s.ctxOfPacket ep p with
  | none => .next (s.answerNone ep 1 p)
  | some c =>
    let s1 := s.acknowledge c (pAck p)
    let x := s1.ctxAt c
    if x.ending then .next (s1.refuseCmd c 4 p)
    else if 4096 ≤ x.held.length ∧ !kill then .next (s1.refuseCmd c 8 p)
    else if pSeq p < x.nextCmd then .next (s1.refuseCmd c 2 p)
    else if x.nextCmd < pSeq p then .next (s1.refuseCmd c 3 p)
    else .next (k (s1.setCtxAt c { x with nextCmd := x.nextCmd + 1 }) c)

/-- A command of no listed code (R443): status 7. -/
def State.cmdUnknown (s : State) (ep : Nat) (pkt : Packet) : Result :=
  s.command ep pkt false fun s c => s.answerCmd c 7 pkt 0

/-- A command whose flit count is not the one of its row is refused with status 1 (R443). -/
def State.withFlits (s : State) (c n : Nat) (p : Packet) (k : State) : State :=
  if pFlits p ≠ n then s.answerCmd c 1 p 0 else k

/-- LAUNCH (R443): checked by R306, accepted as a device LAUNCH is. -/
def State.cmdLaunch (s : State) (ep : Nat) (pkt : Packet) : Result :=
  s.command ep pkt false fun s c => s.withFlits c 4 pkt (
    let x := s.ctxAt c
    let l := launchFrom x c (pkt.drop 8) true
    if !(l.valid x.nextSeq x.seed) then s.answerCmd c 1 pkt 0
    else if 4096 ≤ s.openLaunches c then s.answerCmd c 6 pkt 0
    else (s.accept l x.seed).answerCmd c 0 pkt x.nextSeq)

/-- CANCEL (R443): the launch dispatches no more and ends with status 3. -/
def State.cmdCancel (s : State) (ep : Nat) (pkt : Packet) : Result :=
  s.command ep pkt false fun s c => s.withFlits c 0 pkt (
    match s.launchIdx c (pArg pkt) with
    | none => s.answerCmd c 5 pkt 0
    | some l =>
      let s1 := if (s.launchAt l).join.isSome then s
        else s.flagLaunch l fun f => { f with cancelled := true, stop := true }
      s1.answerCmd c 0 pkt (pArg pkt))

/-- SEED (R443, R319): the context's own seed stack. -/
def State.cmdSeed (s : State) (ep : Nat) (pkt : Packet) : Result :=
  s.command ep pkt false fun s c => s.withFlits c 0 pkt (
    let op := (pword pkt 3).toNat
    match (if op = 0 ∨ 4 ≤ op then none else seedOp (s.ctxAt c).seed op (pword pkt 4) ((pword pkt 4).setWidth 32)) with
    | none => s.answerCmd c 1 pkt 0
    | some st => (s.setCtxAt c { s.ctxAt c with seed := st }).answerCmd c 0 pkt 0)

/-- VACATE (R443): as the instruction, with no core to spare; it is answered when the workgroups are saved. -/
def State.cmdVacate (s : State) (ep : Nat) (pkt : Packet) : Result :=
  s.command ep pkt false fun s c => s.withFlits c 0 pkt (
    let l := s.launchIdx c (pArg pkt)
    let n := (pword pkt 3).toNat
    match s.vacateRefused l n none, l with
    | some 1, _ => s.answerCmd c 5 pkt 0
    | some _, _ => s.answerCmd c 6 pkt 0
    | none, some i => s.beginVacate i n none none (pSeq pkt)
    | none, none => s.answerCmd c 5 pkt 0)

/-- KILL (R443, R449): no command of the context is executed any more; kind 4 answers it. -/
def State.cmdKill (s : State) (ep : Nat) (pkt : Packet) : Result :=
  s.command ep pkt true fun s c => s.withFlits c 0 pkt (
    (s.setCtxAt c { s.ctxAt c with ending := true }).post (.contextKill c 0))

/-- SYNC (R445): answered at once, whatever its seq, then every completion above the ack again, in order. -/
def State.cmdSync (s : State) (ep : Nat) (pkt : Packet) : Result :=
  match s.ctxOfPacket ep pkt with
  | none => .next (s.answerNone ep 3 pkt)
  | some c =>
    let s1 := s.acknowledge c (pAck pkt)
    let x := s1.ctxAt c
    let s2 := s1.setCtxAt c { x with awaitSync := false }
    let f := completionFlit 3 0 x.issued x.num.toNat (x.nextCmd - 1) 0 0
    .next { s2 with sent := s2.sent ++ (ep, f) :: x.held.map fun h => (ep, h.flit) }

/-- A command packet: its op code says which command it is (R442, R443). -/
def State.hostCommand (s : State) (ep : Nat) (pkt : Packet) : Result :=
  match pOp pkt with
  | 0x01 => s.cmdLaunch ep pkt
  | 0x02 => s.cmdCancel ep pkt
  | 0x03 => s.cmdSeed ep pkt
  | 0x04 => s.cmdVacate ep pkt
  | 0x05 => s.cmdKill ep pkt
  | 0x06 => s.cmdSync ep pkt
  | _ => s.cmdUnknown ep pkt

/-- LAUNCH_COMMAND: a packet with op 0x01 (R443). -/
def execLaunchCommand (ep : Nat) (pkt : Packet) (s : State) : Result :=
  if pOp pkt = 0x01 then s.cmdLaunch ep pkt else s.hostCommand ep pkt
/-- CANCEL: a packet with op 0x02 (R443). -/
def execCancel (ep : Nat) (pkt : Packet) (s : State) : Result :=
  if pOp pkt = 0x02 then s.cmdCancel ep pkt else s.hostCommand ep pkt
/-- SEED_COMMAND: a packet with op 0x03 (R443). -/
def execSeedCommand (ep : Nat) (pkt : Packet) (s : State) : Result :=
  if pOp pkt = 0x03 then s.cmdSeed ep pkt else s.hostCommand ep pkt
/-- VACATE_COMMAND: a packet with op 0x04 (R443). -/
def execVacateCommand (ep : Nat) (pkt : Packet) (s : State) : Result :=
  if pOp pkt = 0x04 then s.cmdVacate ep pkt else s.hostCommand ep pkt
/-- KILL: a packet with op 0x05 (R443). -/
def execKill (ep : Nat) (pkt : Packet) (s : State) : Result :=
  if pOp pkt = 0x05 then s.cmdKill ep pkt else s.hostCommand ep pkt
/-- SYNC: a packet with op 0x06 (R443). -/
def execSync (ep : Nat) (pkt : Packet) (s : State) : Result :=
  if pOp pkt = 0x06 then s.cmdSync ep pkt else s.hostCommand ep pkt
/-- UNKNOWN_COMMAND: a packet with another op (R443). -/
def execUnknownCommand (ep : Nat) (pkt : Packet) (s : State) : Result :=
  if 0x06 < pOp pkt then s.cmdUnknown ep pkt else s.hostCommand ep pkt

/-- The port of a context's control endpoint (R441). -/
def Ctx.controlPort (c : Ctx) : Option Nat := (c.endpoints[c.control]?).map (·.port)

/-- WORMUS_LINK_LOSS (R228, R445): the port's pages are unreachable; each context commanded through it gets an answer of
status 9 and waits for SYNC. -/
def execWormusLinkLoss (port : Nat) (s : State) : Result :=
  let hit : List Nat := (List.range s.ctxs.length).filter fun c =>
    !(s.ctxAt c).ended && (s.ctxAt c).controlPort == some port
  let s1 : State := { s with lost := if s.lost.contains port then s.lost else port :: s.lost }
  .next (hit.foldl (fun s c =>
    let x := s.ctxAt c
    let f := completionFlit 3 9 x.issued x.num.toNat (x.nextCmd - 1) 0 0
    let t := s.setCtxAt c { x with awaitSync := true }
    { t with sent := t.sent ++ [(x.control, f)] }) s1)

/-- WORMUS_PORT_RESTORE (R228). -/
def execWormusPortRestore (port : Nat) (s : State) : Result :=
  .next { s with lost := s.lost.filter fun p => p != port }

/-! ### The data plane (R439, R440) -/

/-- HOST_DATA_WRITE (R440): a write that any byte faults, or that has no room in a region, changes nothing; once it is
answered every party of the device sees it. -/
def execHostDataWrite (ctx : Nat) (va : W64) (bytes : List Byte) (s : State) : Result :=
  let answer (t : State) (ok : Bool) : Result := .next { t with dataOut := t.dataOut ++ [(ctx, ok, [])] }
  match (List.range bytes.length).mapM fun i => s.translate none ctx 0 .store (va + BitVec.ofNat 64 i) with
  | .error _ => answer s false
  | .ok ls =>
    if !(s.entriesFit ls) then answer s false
    else
      let t := (((((s.settle ls).homeTouch true ls).unveil ls).putLocs ls bytes).clearBad ls)
      answer (t.noteWrites none none (t.spanOf ls)) true

/-- A byte as a host reads it through its home: a store reaches it once it is visible to the whole system (R247, R440). -/
def State.hostByte (s : State) (l : Loc) : Byte :=
  if s.veils.isEmpty then s.getByte l else (s.viewBy (fun v => decide (7 ≤ v.level)) l).1

/-- HOST_DATA_READ (R439, R440). -/
def execHostDataRead (ctx : Nat) (va : W64) (n : Nat) (s : State) : Result :=
  let answer (t : State) (ok : Bool) (bs : List Byte) : Result := .next { t with dataOut := t.dataOut ++ [(ctx, ok, bs)] }
  match (List.range n).mapM fun i => s.translate none ctx 0 .load (va + BitVec.ofNat 64 i) with
  | .error _ => answer s false []
  | .ok ls =>
    if ls.any s.badLoc then answer s false []
    else
      let t := (s.settle ls).homeTouch false ls
      answer t true (ls.map t.hostByte)

/-! ### Partitions and contexts (R398, R399, R441) -/

/-- Whether a cluster number is that of an enabled cluster (R14). -/
def State.enabled (s : State) (c : Nat) : Bool := decide (c < 52) && c % 13 != s.fused.toList.getD (c / 13) 12

/-- The overflow area of the engine space (R398): a range of one stack of device memory, or none. -/
def specAreaOk (p : PartSpec) : Bool :=
  p.overSize == 0 || (physExists p.overBase && physExists (p.overBase + p.overSize - 1)
    && p.overBase / 2 ^ 37 == (p.overBase + p.overSize - 1) / 2 ^ 37)
/-- Whether an overflow area keeps apart from that of a partition. -/
def specApart (p : PartSpec) (q : Part) : Bool :=
  p.overSize == 0 || q.overSize == 0 || decide (p.overBase + p.overSize ≤ q.overBase)
    || decide (q.overBase + q.overSize ≤ p.overBase)

/-- Whether the shares of the living partitions and of a new one fit an engine (R14): 16,384 phasers and 65,536
lock-table entries. -/
def State.sharesOk (s : State) (p : PartSpec) : Bool :=
  let live := s.parts.filter (·.live)
  decide (sumOf (live.map (·.phaserShare)) + p.phaserShare ≤ 16384)
    && decide (sumOf (live.map (·.lockShare)) + p.lockShare ≤ 65536)

/-- Whether the management plane may create a partition so (R14, R398, R434). -/
def State.partOk (s : State) (p : PartSpec) : Bool :=
  let quarters := (p.clusters.map (· / 13)).eraseDups
  !(s.parts.any fun q => q.live && q.num == p.num.toNat) && !p.clusters.isEmpty
    && p.clusters.all s.enabled && p.clusters.eraseDups.length == p.clusters.length
    && p.clusters.all (fun c => !(s.parts.any fun q => q.live && q.clusters.contains c))
    && p.engines.all (fun e => decide (e.1 < 4) && decide (e.2 < 24) && !(s.parts.any fun q => q.live && q.engines.contains e))
    && quarters.all (fun q => p.engines.any fun e => e.1 == q)
    && s.sharesOk p && specAreaOk p && s.parts.all (fun q => !q.live || specApart p q)
    && (List.range 11).any (fun k => p.ringSize == 64 * 2 ^ k)

/-- A refused image, told to the management plane (R414, R451 kind 6). -/
def State.imageRefused (s : State) (kind : Nat) (ver : W32) : State :=
  s.tellMgmt 6 [BitVec.ofNat 64 kind, ver.setWidth 64]

/-- A step of bring-up that failed, other than by a refused image: the module is left in its recovery state, unless a context
runs already, and says so in a message whose kind the model chooses (R450, log 12). -/
def State.stepFailed (s : State) (step what : Nat) : State :=
  let s1 : State := { s with bringup := if s.ctxs.isEmpty then .recovery else s.bringup }
  s1.tellMgmt 0 [BitVec.ofNat 64 step, BitVec.ofNat 64 what]

/-- PARTITION_CREATE (R441), step 5 of bring-up (R450): with a verified supervisor image of a sufficient security version (R414); its first tokens
go on the rings (R383). A refused image is never run: the module is left in its recovery state and says so (R414). -/
def execPartitionCreate (spec : PartSpec) (s : State) : Result :=
  if s.bringup != .up then .next s
  else if !(s.partOk spec) then .next (s.stepFailed 5 spec.num.toNat)
  else if !spec.imageVerifies || decide (spec.image.toNat < s.secVersion.toNat) then
    .next { s.imageRefused 1 spec.image with bringup := .recovery }
  else
    let p : Part := { Part.init with
      num := spec.num.toNat
      clusters := spec.clusters
      engines := spec.engines
      phaserShare := spec.phaserShare
      lockShare := spec.lockShare
      overBase := spec.overBase
      overSize := spec.overSize
      tvec := (spec.tvec &&& 0x0000FFFFFFFFFFFD#64) ||| 1#64
      ringBase := spec.ringBase
      ringSize := spec.ringSize
      image := spec.image
      imageBody := spec.imageBody
      live := true }
    let s1 : State := { s with parts := s.parts ++ [p] }
    .next ((List.range 4).foldl (fun s q =>
      if p.coresOn q = 0 then s else s.setQuota (s.partNum p.num) q (spec.quotas.getD q 0)) s1)

/-- Whether the loader takes an image (R407): it declares at most 4 core roles, 24 copy roles and 32 bank roles. -/
def imageLoads (i : Image) : Bool := decide (i.coreRoles ≤ 4) && decide (i.copyRoles ≤ 24) && decide (i.bankRoles ≤ 32)

/-- The number that the A9 assigns to a new context (R441): the lowest that no living context has (R399, log 36). -/
def State.freeNumber (s : State) : Option (BitVec 12) :=
  ((List.range (s.ctxs.length + 1)).find? fun n => !(s.ctxs.any fun c => !c.ended && c.num.toNat == n)).bind fun n =>
    if n < 4096 then some (BitVec.ofNat 12 n) else none

/-- Whether the management plane may create a context so (R241, R441). -/
def State.ctxOk (s : State) (spec : CtxSpec) : Bool :=
  (s.parts.any fun p => p.live && p.num == spec.part.toNat) && decide (spec.endpoints.length ≤ 256)
    && spec.endpoints.all (fun e => decide (e.port < 32))
    && spec.detArea.all (fun a => a.1 % 65536 == 0 && a.2 % 65536 == 0)

/-- CONTEXT_CREATE (R399, R441), step 6 of bring-up (R450): with a number that the A9 assigns, and the defaults of R441 for
the fields that are left out; an image that the loader refuses is not loaded (R407). -/
def execContextCreate (spec : CtxSpec) (s : State) : Result :=
  if s.bringup != .up then .next s
  else match (if s.ctxOk spec then s.freeNumber else none) with
  | none => .next (s.stepFailed 6 spec.part.toNat)
  | some num =>
    let c : Ctx := { Ctx.init with
      num := num
      part := spec.part.toNat
      root := spec.root
      seed := [spec.seed]
      endpoints := spec.endpoints
      control := spec.control
      p1 := spec.p1.getD Ctx.init.p1
      p2 := spec.p2.getD Ctx.init.p2
      hangAt := spec.hangAt.getD Ctx.init.hangAt
      woundPatience := spec.woundPatience.getD Ctx.init.woundPatience
      slice := spec.slice.getD Ctx.init.slice
      detBase := (spec.detArea.map (·.1)).getD Ctx.init.detBase
      detSize := (spec.detArea.map (·.2)).getD Ctx.init.detSize
      images := spec.images.filter imageLoads }
    .next { s with ctxs := s.ctxs ++ [c] }

/-! ### Killing and resetting (R449, R450) -/

/-- The launches of a context that have not ended take status 2, with the HANG cause where a HANG report led to it
(R320, R449). -/
def State.killLaunches (s : State) (c : Nat) (cause : BitVec 8) : State :=
  ((List.range s.launches.length).filter fun l => (s.launchAt l).ctx == c && (s.launchAt l).join.isNone).foldl
    (fun s l => s.flagLaunch l fun f =>
      { f with killed := some (f.killed.getD (if cause == Cause.hang.code then cause else 0)) }) s

/-- The workgroups of a context that have not ended. -/
def State.ctxWgs (s : State) (c : Nat) : List Nat :=
  (List.range s.wgs.length).filter fun g => (s.launchOf (s.wgAt g)).ctx == c && (s.wgAt g).st != .ended

/-- What a context leaves is cleared away: locks, phasers, regions, ranges, TLB entries (R220, R400, R449). -/
def State.clearCtx (s : State) (c : Nat) : State :=
  let s1 := ((List.range s.regions.length).filter fun i => (s.regions[i]?).any fun r => r.ctx == c && r.live).foldl
    State.dropRegion s
  let s2 := (s1.dropTlb c 0 (2 ^ 64)).unclassify c 0 (2 ^ 64)
  { s2 with
    locks := s2.locks.map fun l => if l.ctx == c then { l with holders := [], queue := [] } else l
    phasers := s2.phasers.filter fun p => p.ctx != c
    ranges := s2.ranges.map fun r => if r.ctx == c then { r with live := false } else r }

/-- CONTEXT_KILL (R449): its launches end with status 2, its workgroups stop as under HALTWG, its objects end; then kind 4
is sent, after the SYNC of a host that the context waits for (R445), and the number is free; the management plane is told
when it was not KILL (R451). -/
def execContextKill (ctx : Nat) (cause : W64) (s : State) : Result :=
  let x := s.ctxAt ctx
  if x.ended || decide (s.ctxs.length ≤ ctx) then .next s
  else
    let s1 := if x.ending then s else s.setCtxAt ctx { x with ending := true, endCause := some cause }
    let s2 := s1.killLaunches ctx (((s1.ctxAt ctx).endCause.getD 0).setWidth 8)
    let s3 := (s2.ctxWgs ctx).foldl (fun s g => s.startKill g none) s2
    let s4 := (s3.ctxWgs ctx).foldl (fun s g => if (s.wgAt g).st != .resident || s.atRest g then s.stopWg g true else s) s3
    if !(s4.ctxWgs ctx).isEmpty || s4.launches.any fun l => l.ctx == ctx && l.join.isNone then
      .next (s4.post (.contextKill ctx cause))
    else
      let s5 := s4.clearCtx ctx
      if (s5.ctxAt ctx).awaitSync then .next (s5.post (.contextKill ctx cause)) else
      let s6 := s5.complete ctx 4 0 0 0 0
      let s7 := match (s6.ctxAt ctx).endCause with
        | some k => s6.tellMgmt 2 [BitVec.ofNat 64 (s6.ctxAt ctx).num.toNat, k]
        | none => s6
      .next (s7.setCtxAt ctx { s7.ctxAt ctx with ended := true })

/-- PARTITION_RESET (R449): every context is killed, then the supervisor image is verified and reloaded. A refused one is
never run: the partition ends, its tokens leave the rings, and the module is left in its recovery state (R414). -/
def execPartitionReset (part : Nat) (ok : Bool) (s : State) : Result :=
  match s.parts.find? fun p => p.live && p.num == part with
  | none => .next s
  | some p =>
    let mine := (List.range s.ctxs.length).filter fun c => (s.ctxAt c).part == part && !(s.ctxAt c).ended
    if mine.isEmpty then
      if ok && decide (s.secVersion.toNat ≤ p.image.toNat) then .next s
      else
        let t := ((s.dropTokens p).setPart { s.partNum part with live := false }).imageRefused 1 p.image
        .next { t with bringup := .recovery }
    else
      let s1 := (mine.filter fun c => !(s.ctxAt c).ending).foldl (fun s c =>
        (s.setCtxAt c { s.ctxAt c with ending := true, endCause := some 0 }).post (.contextKill c 0)) s
      .next (s1.post (.partitionReset part ok))

/-- All state is lost (R449); what is fused, what has left the device, what waits outside it and host memory stay, and
messages of the management plane are never dropped (R451). -/
def State.resetModule (s : State) : State :=
  { State.reset with
    host := s.host
    fused := s.fused
    secVersion := s.secVersion
    mgmtOut := s.mgmtOut
    sent := s.sent
    dataOut := s.dataOut
    turn := s.turn
    tick := s.tick
    inbox := s.inbox }

/-- MODULE_RESET (R449). -/
def execModuleReset (s : State) : Result := .next s.resetModule

/-- BRING_UP (R450): the next of steps 1-4 succeeds or fails: the firmware is verified, being no older than the fused minimum
(R414), the stacks are trained, the ports are trained, the management plane opens. Each starts after the one before has
succeeded; one that fails leaves the module in its recovery state and is told. -/
def execBringUp (ok : Bool) (s : State) : Result :=
  let reach (b : Bringup) : Result := .next { s with bringup := b }
  let onward (b : Bringup) : Result := .next (({ s with bringup := b } : State).post (.bringUp true))
  match s.bringup with
  | .reset =>
    if ok && decide (s.secVersion.toNat ≤ Config.fwVersion.toNat) then onward .firmware
    else .next (({ s with bringup := .recovery } : State).imageRefused 0 Config.fwVersion)
  | .firmware => if ok then onward .stacks else .next (s.stepFailed 2 0)
  | .stacks => if ok then onward .ports else .next (s.stepFailed 3 0)
  | .ports => if ok then reach .up else .next (s.stepFailed 4 0)
  | .up | .recovery => .next s

/-! ### Heat, errors, attestation (R23, R414, R415, R433, R451) -/

/-- THERMAL_THROTTLE (R23, R383): at 95 °C the quotas of the quarter go to their floors. -/
def execThermalThrottle (q celsius : Nat) (s : State) : Result :=
  if celsius < 95 then .next s
  else
    let s1 := (s.parts.filter fun p => p.live && p.coresOn q != 0).foldl (fun s p => s.setQuota (s.partNum p.num) q 0) s
    let pop := sumOf ((s1.parts.filter fun p => p.live).map fun p => p.quota q)
    .next (s1.tellMgmt 5 [BitVec.ofNat 64 q, BitVec.ofNat 64 celsius, BitVec.ofNat 64 pop])

/-- THERMAL_RESET (R23, R449): at 105 °C the module resets, with the cause on the management plane. -/
def execThermalReset (q celsius : Nat) (s : State) : Result :=
  if celsius < 105 then .next s
  else .next (s.tellMgmt 5 [BitVec.ofNat 64 q, BitVec.ofNat 64 celsius, BitVec.allOnes 64]).resetModule

/-- UNCONTAINED_ERROR (R433): every context whose data was lost is killed, and the management plane is told: the address, how
many contexts the flit names, and up to five of them; more go into further flits (R451, log 12). -/
def execUncontainedError (addr : Nat) (ctxs : List Nat) (s : State) : Result :=
  let hit := ctxs.filter fun c => decide (c < s.ctxs.length) && !(s.ctxAt c).ended
  let part (k : Nat) : List Nat := (hit.drop (5 * k)).take 5
  let s1 := (List.range ((hit.length - 1) / 5 + 1)).foldl (fun (t : State) k =>
    t.tellMgmt 3 (BitVec.ofNat 64 addr :: BitVec.ofNat 64 (part k).length
      :: (part k).map fun c => BitVec.ofNat 64 (s.ctxAt c).num.toNat)) s
  .next (hit.foldl (fun s c => s.post (.contextKill c (Cause.memoryError.code.setWidth 64))) s1)

/-- Four counts of 16 bits in a word, each held at its greatest value. -/
def packCounts (cs : List Nat) (k : Nat) : W64 :=
  BitVec.ofNat 64 (sumOf ((List.range 4).map fun i => min (cs.getD (4 * k + i) 0) 65535 * 2 ^ (16 * i)))

/-- CORRECTED_ERROR_REPORT (R433, R451): errors corrected since are added to the counts, of the twelve stacks and the four
quarters; when the report is due they go out in words 1-4 and start again (log 12). -/
def execCorrectedErrorReport (counts : List W64) (s : State) : Result :=
  let cs := (List.range 16).map fun i => s.corrected.getD i 0 + (counts.getD i 0).toNat
  if s.countsDue then
    .next { s.tellMgmt 4 ((List.range 4).map (packCounts cs)) with corrected := List.replicate 16 0, countedAt := s.now }
  else .next { s with corrected := cs }

/-- The signed bytes of an attestation report (R415): the device's serial number and the measurement of its firmware, the
same in every report, the supervisor's, and that of the context's images in load order. -/
def State.attestBody (s : State) (c : Ctx) (nonce : List Byte) : List Byte :=
  let p := s.partNum c.part
  let ctxid : W64 := BitVec.ofNat 64 (c.part * 2 ^ 12 + c.num.toNat)
  bytesLE 1 8 ++ bytesLE Config.serial 8 ++ bytesLE ctxid 8 ++ (List.range 32).map (fun i => nonce.getD i 0)
    ++ (List.range 48).map Config.fwDigestByte ++ sha384 p.imageBody ++ sha384 (c.images.flatMap (·.body))
    ++ bytesLE (Config.fwVersion.setWidth 64) 4 ++ bytesLE (p.image.setWidth 64) 4 ++ List.replicate 8 0

/-- ATTESTATION_REQUEST (R415): a report of 16,824 bytes on the management plane, its body and two signatures of it. -/
def execAttestationRequest (ctx : Nat) (nonce : List Byte) (s : State) : Result :=
  let c := s.ctxAt ctx
  if c.ended || decide (s.ctxs.length ≤ ctx) then .next s
  else
    let body := s.attestBody c nonce
    let sig (k n : Nat) : List Byte := (List.range n).map (Config.attestByte k c.num.toNat body)
    let bs := body ++ sig 0 384 ++ sig 1 16224
    .next { s with mgmtOut := s.mgmtOut ++ [(List.range (bs.length / 8)).map (wordAt bs)] }

/-- SECURITY_VERSION_RAISE (R414): on a verified command, and never lower. -/
def execSecurityVersionRaise (ver : BitVec 32) (sig : List Byte) (s : State) : Result :=
  if Config.commandVerifies ver sig && decide (s.secVersion.toNat < ver.toNat) then .next { s with secVersion := ver }
  else .next s

/-! ### Walks and coherence (R235, R236, R405) -/

/-- PAGE_WALK (R405): a miss that finds no walk of its context and 64 KiB page in flight starts one, which reads the
entries now; when it ends, a valid leaf enters the core's TLB and that of its quarter. Regions come before the tables
(R404), and entries with V = 0 are never cached. -/
def execPageWalk (core ctx : Nat) (va : W64) (s : State) : Result :=
  let q := quarterOf core
  let a := va.toNat
  if field va 52 12 ≠ 0 || decide (192 ≤ core) || (s.regionAt ctx a).isSome then .next s
  else match s.walkOf q ctx a with
    | none =>
      if (s.tlbHit core ctx a).isSome || (s.tlb2Hit q ctx a).isSome then .next (s.fillTlb core ctx va)
      else if 64 ≤ (s.walks.filter fun w => w.quarter == q).length then .next (s.post (.pageWalk core ctx va))
      else .next ({ s with walks := ⟨q, ctx, a / 65536, s.walkEnd ctx a⟩ :: s.walks }.post (.pageWalk core ctx va))
    | some w =>
      .next { s.fillTlb core ctx va with walks := s.walks.filter fun x => x != w }

/-- PAGE_MISS (R235): the first line of a page that some context uses is missed, and the home classifies it. -/
def execPageMiss (core page : Nat) (s : State) : Result :=
  if physExists (65536 * page) && decide (core < 192) && (s.frameOf (65536 * page)).isSome then .next (s.missLine core (65536 * page) false) else .next s

/-- LINE_EVICTION (R236, R238): the core's L1 drops the line; a dirty one goes into a write-back with the version under
which it was held, and stays its core's until the home has applied it. The partials of a line that the core holds any
of are combined, outside deterministic launches. -/
def execLineEviction (core line : Nat) (s : State) : Result :=
  let k : LineKey := (0, 0, line)
  let held := s.wgs.any fun g => g.core == core && g.st == .resident && g.partials.any fun p => s.partialLine p == some line
  let s1 := if held then s.combine fun p => s.looseLaunch p && s.partialLine p == some line else s
  match s1.lineOf core k with
  | some c =>
    if c.block.isSome then .next s1
    else if c.dirty then
      .next { s1 with
        cached := s1.cached.filter fun x => x != c
        writeBacks := s1.writeBacks ++ [⟨core, k, (s1.dirLine k).version⟩] }
    else .next (s1.giveBack fun x => x == c)
  | none => .next s1

/-- WRITE_BACK_ARRIVAL (R236): applied only under the line's current version, and then nobody owns the line any more; else
it is cancelled, and its data discarded. Memory holds a line's bytes since they were stored, so that the ownership alone
changes. A line of a private page has no version, and its write-back is applied. -/
def execWriteBackArrival (k : Nat) (s : State) : Result :=
  match s.writeBacks[k]? with
  | none => .next s
  | some b =>
    let t : State := { s with writeBacks := s.writeBacks.eraseIdx k }
    let d := s.dirLine b.line
    if d.owner == some b.core && d.version == b.version && (s.lineOf b.core b.line).isNone then
      .next ((t.setDir { d with owner := none }).trimL2 (· == b.line))
    else .next t

/-- PAGE_RECORD_DROP (R235): a private page whose record the home drops becomes shared. -/
def execPageRecordDrop (page : Nat) (s : State) : Result :=
  match s.pageRec (65536 * page) with
  | some p => match p.cls with
    | .priv c => .next (s.sharePage p c)
    | .shared => .next s
  | none => .next s

end Sys2Proof.Machine
end

