-- ==== Sys2Proof/Machine/Uniform.lean ====
section
/-!
DEFINITION. Uniform and mask instructions: spec/06_integer_and_lane_instructions.md R124, R132-R136, R147, R86.
-/

namespace Sys2Proof.Machine

/-- A two-source uniform instruction (R132). -/
def State.uni2 (s : State) (d a b : WReg) (ta tb : Bool) (f : W64 → W64 → W64) : Result :=
  s.uniOp (((({} : Deps).wsrc ta a.toNat).wsrc tb b.toNat).wdst d.toNat) 1
    (s.cw.wrW d.toNat (f (s.cw.rdW a.toNat) (s.cw.rdW b.toNat)))
/-- A one-source uniform instruction of `len` words (R132, R133). -/
def State.uni1 (s : State) (d a : WReg) (ta : Bool) (len : Nat) (f : W64 → W64) : Result :=
  s.uniOp ((({} : Deps).wsrc ta a.toNat).wdst d.toNat) len (s.cw.wrW d.toNat (f (s.cw.rdW a.toNat)))
/-- A uniform instruction without a source. -/
def State.uni0 (s : State) (d : WReg) (len : Nat) (x : W64) : Result :=
  s.uniOp (({} : Deps).wdst d.toNat) len (s.cw.wrW d.toNat x)
/-- A mask instruction: one mask register written whole (R136). -/
def State.maskSet (s : State) (d : MReg) (x : Lanes) : Result :=
  s.uniOp {} 1 (maskWrite s.legacy s.cw d.toNat x)
/-- A mask register of the issuing welt. -/
def State.mask (s : State) (r : MReg) : Lanes := maskRead s.legacy s.cw r.toNat

/-- The high half of an exact 64-bit product (R130). -/
def mulHiW (t : Ty) (a b : W64) : W64 := wrapTo t (intOf t a * intOf t b / 2 ^ 64)

/-- ADD, uniform (R132). -/
def execUniformAdd (d a b : BitVec 6) (ta tb : Bool) (s : State) : Result :=
  s.uni2 d a b ta tb fun x y => x + y

/-- SUB, uniform (R132). -/
def execUniformSub (d a b : BitVec 6) (ta tb : Bool) (s : State) : Result :=
  s.uni2 d a b ta tb fun x y => x - y

/-- MUL.LO, uniform (R132). -/
def execUniformMulLo (d a b : BitVec 6) (ta tb : Bool) (s : State) : Result :=
  s.uni2 d a b ta tb fun x y => x * y

/-- MUL.HI.s (R132). -/
def execUniformMulHiS (d a b : BitVec 6) (ta tb : Bool) (s : State) : Result :=
  s.uni2 d a b ta tb fun x y => mulHiW .s64 x y

/-- MUL.HI.n (R132). -/
def execUniformMulHiN (d a b : BitVec 6) (ta tb : Bool) (s : State) : Result :=
  s.uni2 d a b ta tb fun x y => mulHiW .n64 x y

/-- MIN.s (R132). -/
def execUniformMinS (d a b : BitVec 6) (ta tb : Bool) (s : State) : Result :=
  s.uni2 d a b ta tb fun x y => if intOf .s64 x ≤ intOf .s64 y then x else y

/-- MIN.n (R132). -/
def execUniformMinN (d a b : BitVec 6) (ta tb : Bool) (s : State) : Result :=
  s.uni2 d a b ta tb fun x y => if intOf .n64 x ≤ intOf .n64 y then x else y

/-- MAX.s (R132). -/
def execUniformMaxS (d a b : BitVec 6) (ta tb : Bool) (s : State) : Result :=
  s.uni2 d a b ta tb fun x y => if intOf .s64 y ≤ intOf .s64 x then x else y

/-- MAX.n (R132). -/
def execUniformMaxN (d a b : BitVec 6) (ta tb : Bool) (s : State) : Result :=
  s.uni2 d a b ta tb fun x y => if intOf .n64 y ≤ intOf .n64 x then x else y

/-- ADD.sat.s (R132). -/
def execUniformAddSatS (d a b : BitVec 6) (ta tb : Bool) (s : State) : Result :=
  s.uni2 d a b ta tb fun x y => satTo .s64 (intOf .s64 x + intOf .s64 y)

/-- ADD.sat.n (R132). -/
def execUniformAddSatN (d a b : BitVec 6) (ta tb : Bool) (s : State) : Result :=
  s.uni2 d a b ta tb fun x y => satTo .n64 (intOf .n64 x + intOf .n64 y)

/-- SUB.sat.s (R132). -/
def execUniformSubSatS (d a b : BitVec 6) (ta tb : Bool) (s : State) : Result :=
  s.uni2 d a b ta tb fun x y => satTo .s64 (intOf .s64 x - intOf .s64 y)

/-- SUB.sat.n (R132). -/
def execUniformSubSatN (d a b : BitVec 6) (ta tb : Bool) (s : State) : Result :=
  s.uni2 d a b ta tb fun x y => satTo .n64 (intOf .n64 x - intOf .n64 y)

/-- ABS, uniform (R132). -/
def execUniformAbs (d a : BitVec 6) (ta : Bool) (s : State) : Result :=
  s.uni1 d a ta 1 fun x => wrapTo .s64 |intOf .s64 x|

/-- NEG, uniform (R132). -/
def execUniformNeg (d a : BitVec 6) (ta : Bool) (s : State) : Result :=
  s.uni1 d a ta 1 fun x => -x

/-- AND, uniform (R132). -/
def execUniformAnd (d a b : BitVec 6) (ta tb : Bool) (s : State) : Result :=
  s.uni2 d a b ta tb fun x y => x &&& y

/-- OR, uniform (R132). -/
def execUniformOr (d a b : BitVec 6) (ta tb : Bool) (s : State) : Result :=
  s.uni2 d a b ta tb fun x y => x ||| y

/-- XOR, uniform (R132). -/
def execUniformXor (d a b : BitVec 6) (ta tb : Bool) (s : State) : Result :=
  s.uni2 d a b ta tb fun x y => x ^^^ y

/-- ANDN, uniform (R132). -/
def execUniformAndn (d a b : BitVec 6) (ta tb : Bool) (s : State) : Result :=
  s.uni2 d a b ta tb fun x y => x &&& ~~~y

/-- NOT, uniform (R132). -/
def execUniformNot (d a : BitVec 6) (ta : Bool) (s : State) : Result :=
  s.uni1 d a ta 1 fun x => ~~~x

/-- SHL, uniform (R132): the count is W[wb] mod 64. -/
def execUniformShl (d a b : BitVec 6) (ta tb : Bool) (s : State) : Result :=
  s.uni2 d a b ta tb fun x y => x <<< (y.toNat % 64)

/-- SHR, uniform (R132). -/
def execUniformShr (d a b : BitVec 6) (ta tb : Bool) (s : State) : Result :=
  s.uni2 d a b ta tb fun x y => x >>> (y.toNat % 64)

/-- SAR, uniform (R132). -/
def execUniformSar (d a b : BitVec 6) (ta tb : Bool) (s : State) : Result :=
  s.uni2 d a b ta tb fun x y => x.sshiftRight (y.toNat % 64)

/-- ROT, uniform (R132). -/
def execUniformRot (d a b : BitVec 6) (ta tb : Bool) (s : State) : Result :=
  s.uni2 d a b ta tb fun x y => x.rotateLeft (y.toNat % 64)

/-- CLZ, uniform (R132). -/
def execUniformClz (d a : BitVec 6) (ta : Bool) (s : State) : Result :=
  s.uni1 d a ta 1 fun x => BitVec.ofNat 64 (clzK 64 x)

/-- POPC, uniform (R132). -/
def execUniformPopc (d a : BitVec 6) (ta : Bool) (s : State) : Result :=
  s.uni1 d a ta 1 fun x => BitVec.ofNat 64 (popK 64 x)

/-- BREV, uniform (R132). -/
def execUniformBrev (d a : BitVec 6) (ta : Bool) (s : State) : Result :=
  s.uni1 d a ta 1 fun x => brevK 64 x

/-- MOV, uniform (R132). -/
def execUniformMov (d a : BitVec 6) (ta : Bool) (s : State) : Result :=
  s.uni1 d a ta 1 fun x => x

/-- ADD with a signed immediate (R133). -/
def execUniformAddImm (d a : BitVec 6) (ta : Bool) (imm : BitVec 20) (s : State) : Result :=
  s.uni1 d a ta 2 fun x => x + imm.signExtend 64

/-- AND with an immediate (R133). -/
def execUniformAndImm (d a : BitVec 6) (ta : Bool) (imm : BitVec 20) (s : State) : Result :=
  s.uni1 d a ta 2 fun x => x &&& imm.signExtend 64

/-- OR with an immediate (R133). -/
def execUniformOrImm (d a : BitVec 6) (ta : Bool) (imm : BitVec 20) (s : State) : Result :=
  s.uni1 d a ta 2 fun x => x ||| imm.signExtend 64

/-- XOR with an immediate (R133). -/
def execUniformXorImm (d a : BitVec 6) (ta : Bool) (imm : BitVec 20) (s : State) : Result :=
  s.uni1 d a ta 2 fun x => x ^^^ imm.signExtend 64

/-- SHL by an immediate (R133). -/
def execUniformShlImm (d a : BitVec 6) (ta : Bool) (imm : BitVec 20) (s : State) : Result :=
  s.uni1 d a ta 2 fun x => x <<< imm.toNat

/-- SHR by an immediate (R133). -/
def execUniformShrImm (d a : BitVec 6) (ta : Bool) (imm : BitVec 20) (s : State) : Result :=
  s.uni1 d a ta 2 fun x => x >>> imm.toNat

/-- SAR by an immediate (R133). -/
def execUniformSarImm (d a : BitVec 6) (ta : Bool) (imm : BitVec 20) (s : State) : Result :=
  s.uni1 d a ta 2 fun x => x.sshiftRight imm.toNat

/-- MOVI, uniform (R133). -/
def execUniformMovi (d : BitVec 6) (imm : BitVec 20) (s : State) : Result :=
  s.uni0 d 2 (imm.signExtend 64)

/-- MAD, uniform (R134). -/
def execUniformMad (d a b : BitVec 6) (ta tb : Bool) (c : BitVec 6) (tc : Bool) (_ty : Ty) (s : State) : Result :=
  s.uniOp ((((({} : Deps).wsrc ta a.toNat).wsrc tb b.toNat).wsrc tc c.toNat).wdst d.toNat) 2
    (s.cw.wrW d.toNat (s.cw.rdW a.toNat * s.cw.rdW b.toNat + s.cw.rdW c.toNat))

/-- BFE, uniform (R134). -/
def execUniformBfe (d a : BitVec 6) (ta : Bool) (ty : Ty) (pos len : BitVec 6) (s : State) : Result :=
  s.uni1 d a ta 2 fun x => bfeK ty x pos.toNat (len.toNat + 1)

/-- BFI, uniform (R134). -/
def execUniformBfi (d a b : BitVec 6) (ta tb : Bool) (ty : Ty) (pos len : BitVec 6) (s : State) : Result :=
  s.uniOp (((({} : Deps).wsrc ta a.toNat).wsrc tb b.toNat).wdst d.toNat) 2
    (s.cw.wrW d.toNat (bfiK ty (s.cw.rdW a.toNat) (s.cw.rdW b.toNat) pos.toNat (len.toNat + 1)))

/-- CMP, uniform (R134): all ones or zero into the mask register. -/
def execUniformCmp (md : BitVec 4) (a b : BitVec 6) (ta tb : Bool) (ty : Ty) (cond : BitVec 3) (s : State) : Result :=
  s.uniOp ((({} : Deps).wsrc ta a.toNat).wsrc tb b.toNat) 2 (maskWrite s.legacy s.cw md.toNat
    (if condInt cond.toNat (intOf ty (s.cw.rdW a.toNat)) (intOf ty (s.cw.rdW b.toNat)) then BitVec.allOnes 32 else 0))

/-- SEL, uniform (R134): a if the mask is not zero, else b. -/
def execUniformSel (d a b : BitVec 6) (ta tb : Bool) (_ty : Ty) (sl : BitVec 4) (s : State) : Result :=
  s.uniOp (((({} : Deps).wsrc ta a.toNat).wsrc tb b.toNat).wdst d.toNat) 2
    (s.cw.wrW d.toNat (if maskRead s.legacy s.cw sl.toNat != 0 then s.cw.rdW a.toNat else s.cw.rdW b.toNat))

/-- LIT into a uniform register (R86, R135). -/
def execLitUniform (d : BitVec 6) (hi : BitVec 16) (lit : W32) (s : State) : Result :=
  s.uni0 d 2 ((hi.setWidth 32) ++ lit)

/-- SEED.top (R147): the launch's seed. -/
def execSeedTop (d : BitVec 6) (s : State) : Result :=
  s.uni0 d 1 s.cl.top

/-- SEED.depth (R147): the entries of the launch's seed stack. -/
def execSeedDepth (d : BitVec 6) (s : State) : Result :=
  s.uni0 d 1 (BitVec.ofNat 64 s.cl.seed.length)

/-- MAND (R136). -/
def execMand (d a b : BitVec 4) (s : State) : Result :=
  s.maskSet d (s.mask a &&& s.mask b)

/-- MOR (R136). -/
def execMor (d a b : BitVec 4) (s : State) : Result :=
  s.maskSet d (s.mask a ||| s.mask b)

/-- MXOR (R136). -/
def execMxor (d a b : BitVec 4) (s : State) : Result :=
  s.maskSet d (s.mask a ^^^ s.mask b)

/-- MANDN (R136). -/
def execMandn (d a b : BitVec 4) (s : State) : Result :=
  s.maskSet d (s.mask a &&& ~~~(s.mask b))

/-- MNOT (R136). -/
def execMnot (d a : BitVec 4) (s : State) : Result :=
  s.maskSet d (~~~(s.mask a))

/-- MMOV (R136). -/
def execMmov (d a : BitVec 4) (s : State) : Result :=
  s.maskSet d (s.mask a)

/-- MGET (R136): the mask, zero-extended. -/
def execMget (d : BitVec 6) (ma : BitVec 4) (s : State) : Result :=
  s.uni0 d 1 ((s.mask ma).setWidth 64)

/-- MSET (R136): bits 31:0 of the uniform register. -/
def execMset (md : BitVec 4) (a : BitVec 6) (ta : Bool) (s : State) : Result :=
  s.uniOp (({} : Deps).wsrc ta a.toNat) 1 (maskWrite s.legacy s.cw md.toNat ((s.cw.rdW a.toNat).setWidth 32))

end Sys2Proof.Machine
end

