-- ==== Sys2Proof/Machine/Dispatch.lean ====
section
/-!
DEFINITION. The dispatch: one arm for every constructor of Instr, each one call of its meaning.
-/

namespace Sys2Proof.Machine

def exec (i : Instr) (s : State) : Host.Outcome State Fault Refusal :=
  match i with
  | .rngLand w n => Sys2Proof.Machine.execRngLand w n s
  | .loadLand w n => Sys2Proof.Machine.execLoadLand w n s
  | .farAtomic w n => Sys2Proof.Machine.execFarAtomic w n s
  | .hostAtomicLeaseTimeout w => Sys2Proof.Machine.execHostAtomicLeaseTimeout w s
  | .commutativeCombination ctx line => Sys2Proof.Machine.execCommutativeCombination ctx line s
  | .fenceComplete w => Sys2Proof.Machine.execFenceComplete w s
  | .copyLineLand k => Sys2Proof.Machine.execCopyLineLand k s
  | .copyFail k cause kind => Sys2Proof.Machine.execCopyFail k cause kind s
  | .cbSlotClaim k => Sys2Proof.Machine.execCbSlotClaim k s
  | .streamInstructionEffect w sn => Sys2Proof.Machine.execStreamInstructionEffect w sn s
  | .matrixStep w sn => Sys2Proof.Machine.execMatrixStep w sn s
  | .regionStatusReturn w n => Sys2Proof.Machine.execRegionStatusReturn w n s
  | .refitCommit r => Sys2Proof.Machine.execRefitCommit r s
  | .regionLineEvaluation r line => Sys2Proof.Machine.execRegionLineEvaluation r line s
  | .regionStore r off bytes => Sys2Proof.Machine.execRegionStore r off bytes s
  | .phaserWaitRelease w => Sys2Proof.Machine.execPhaserWaitRelease w s
  | .barrierTimeout g => Sys2Proof.Machine.execBarrierTimeout g s
  | .lockGrant k => Sys2Proof.Machine.execLockGrant k s
  | .woundDelivery w => Sys2Proof.Machine.execWoundDelivery w s
  | .woundPatienceExpiry w => Sys2Proof.Machine.execWoundPatienceExpiry w s
  | .siblingStop w => Sys2Proof.Machine.execSiblingStop w s
  | .coreStall core => Sys2Proof.Machine.execCoreStall core s
  | .singleStepComplete w => Sys2Proof.Machine.execSingleStepComplete w s
  | .pageWalk core ctx va => Sys2Proof.Machine.execPageWalk core ctx va s
  | .pageMiss core page => Sys2Proof.Machine.execPageMiss core page s
  | .writeBackArrival k => Sys2Proof.Machine.execWriteBackArrival k s
  | .workgroupDispatch l core => Sys2Proof.Machine.execWorkgroupDispatch l core s
  | .gangCandidateReserve l => Sys2Proof.Machine.execGangCandidateReserve l s
  | .gangPatienceExpiry l => Sys2Proof.Machine.execGangPatienceExpiry l s
  | .workgroupMove g core => Sys2Proof.Machine.execWorkgroupMove g core s
  | .timeSliceExpiry ctx core => Sys2Proof.Machine.execTimeSliceExpiry ctx core s
  | .launchEnd l => Sys2Proof.Machine.execLaunchEnd l s
  | .tokenSpend core => Sys2Proof.Machine.execTokenSpend core s
  | .tokenReturn core => Sys2Proof.Machine.execTokenReturn core s
  | .coreHungry core => Sys2Proof.Machine.execCoreHungry core s
  | .powerQuotaChange part q quota => Sys2Proof.Machine.execPowerQuotaChange part q quota s
  | .sliceRatioChange core slice code => Sys2Proof.Machine.execSliceRatioChange core slice code s
  | .sliceRatioTakesEffect core slice => Sys2Proof.Machine.execSliceRatioTakesEffect core slice s
  | .readGrantChange core slice grants => Sys2Proof.Machine.execReadGrantChange core slice grants s
  | .thermalThrottle q celsius => Sys2Proof.Machine.execThermalThrottle q celsius s
  | .thermalReset q celsius => Sys2Proof.Machine.execThermalReset q celsius s
  | .coreClockGate core => Sys2Proof.Machine.execCoreClockGate core s
  | .corePowerGate core => Sys2Proof.Machine.execCorePowerGate core s
  | .coreWake core => Sys2Proof.Machine.execCoreWake core s
  | .hang core => Sys2Proof.Machine.execHang core s
  | .uncontainedError addr ctxs => Sys2Proof.Machine.execUncontainedError addr ctxs s
  | .correctedErrorReport counts => Sys2Proof.Machine.execCorrectedErrorReport counts s
  | .launchCommand ep pkt => Sys2Proof.Machine.execLaunchCommand ep pkt s
  | .cancel ep pkt => Sys2Proof.Machine.execCancel ep pkt s
  | .seedCommand ep pkt => Sys2Proof.Machine.execSeedCommand ep pkt s
  | .vacateCommand ep pkt => Sys2Proof.Machine.execVacateCommand ep pkt s
  | .kill ep pkt => Sys2Proof.Machine.execKill ep pkt s
  | .sync ep pkt => Sys2Proof.Machine.execSync ep pkt s
  | .unknownCommand ep pkt => Sys2Proof.Machine.execUnknownCommand ep pkt s
  | .wormusLinkLoss port => Sys2Proof.Machine.execWormusLinkLoss port s
  | .wormusPortRestore port => Sys2Proof.Machine.execWormusPortRestore port s
  | .hostDataWrite ctx va bytes => Sys2Proof.Machine.execHostDataWrite ctx va bytes s
  | .hostDataRead ctx va n => Sys2Proof.Machine.execHostDataRead ctx va n s
  | .partitionCreate spec => Sys2Proof.Machine.execPartitionCreate spec s
  | .contextCreate spec => Sys2Proof.Machine.execContextCreate spec s
  | .contextKill ctx cause => Sys2Proof.Machine.execContextKill ctx cause s
  | .partitionReset part ok => Sys2Proof.Machine.execPartitionReset part ok s
  | .moduleReset => Sys2Proof.Machine.execModuleReset s
  | .bringUp ok => Sys2Proof.Machine.execBringUp ok s
  | .watchArm core slot watch => Sys2Proof.Machine.execWatchArm core slot watch s
  | .watchDisarm core slot => Sys2Proof.Machine.execWatchDisarm core slot s
  | .attestationRequest ctx nonce => Sys2Proof.Machine.execAttestationRequest ctx nonce s
  | .securityVersionRaise ver sig => Sys2Proof.Machine.execSecurityVersionRaise ver sig s
  | .unassignedOpcode hdr => Sys2Proof.Machine.execUnassignedOpcode hdr s
  | .phaserResultReturn w n => Sys2Proof.Machine.execPhaserResultReturn w n s
  | .lineEviction core line => Sys2Proof.Machine.execLineEviction core line s
  | .pageRecordDrop page => Sys2Proof.Machine.execPageRecordDrop page s
  | .laceCycle => Sys2Proof.Machine.execLaceCycle s
  | .coherenceLeaseAnswer w granted => Sys2Proof.Machine.execCoherenceLeaseAnswer w granted s
  | .add d a b ta tb p => Sys2Proof.Machine.execAdd d a b ta tb p s
  | .sub d a b ta tb p => Sys2Proof.Machine.execSub d a b ta tb p s
  | .mulLo d a b ta tb p => Sys2Proof.Machine.execMulLo d a b ta tb p s
  | .mulHi d a b ta tb p => Sys2Proof.Machine.execMulHi d a b ta tb p s
  | .min d a b ta tb p => Sys2Proof.Machine.execMin d a b ta tb p s
  | .max d a b ta tb p => Sys2Proof.Machine.execMax d a b ta tb p s
  | .and d a b ta tb p => Sys2Proof.Machine.execAnd d a b ta tb p s
  | .or d a b ta tb p => Sys2Proof.Machine.execOr d a b ta tb p s
  | .xor d a b ta tb p => Sys2Proof.Machine.execXor d a b ta tb p s
  | .andn d a b ta tb p => Sys2Proof.Machine.execAndn d a b ta tb p s
  | .shl d a b ta tb p => Sys2Proof.Machine.execShl d a b ta tb p s
  | .shr d a b ta tb p => Sys2Proof.Machine.execShr d a b ta tb p s
  | .sar d a b ta tb p => Sys2Proof.Machine.execSar d a b ta tb p s
  | .rot d a b ta tb p => Sys2Proof.Machine.execRot d a b ta tb p s
  | .addImm d a imm ta p => Sys2Proof.Machine.execAddImm d a imm ta p s
  | .shlImm d a cnt ta p => Sys2Proof.Machine.execShlImm d a cnt ta p s
  | .shrImm d a cnt ta p => Sys2Proof.Machine.execShrImm d a cnt ta p s
  | .sarImm d a cnt ta p => Sys2Proof.Machine.execSarImm d a cnt ta p s
  | .rotImm d a cnt ta p => Sys2Proof.Machine.execRotImm d a cnt ta p s
  | .abs d a ta p => Sys2Proof.Machine.execAbs d a ta p s
  | .neg d a ta p => Sys2Proof.Machine.execNeg d a ta p s
  | .not d a ta p => Sys2Proof.Machine.execNot d a ta p s
  | .clz d a ta p => Sys2Proof.Machine.execClz d a ta p s
  | .popc d a ta p => Sys2Proof.Machine.execPopc d a ta p s
  | .brev d a ta p => Sys2Proof.Machine.execBrev d a ta p s
  | .mov d a ta p => Sys2Proof.Machine.execMov d a ta p s
  | .addX d a b ta tb p ty => Sys2Proof.Machine.execAddX d a b ta tb p ty s
  | .subX d a b ta tb p ty => Sys2Proof.Machine.execSubX d a b ta tb p ty s
  | .mulLoX d a b ta tb p ty => Sys2Proof.Machine.execMulLoX d a b ta tb p ty s
  | .mulHiX d a b ta tb p ty => Sys2Proof.Machine.execMulHiX d a b ta tb p ty s
  | .mad d a b ta tb p c tc ty => Sys2Proof.Machine.execMad d a b ta tb p c tc ty s
  | .minX d a b ta tb p ty => Sys2Proof.Machine.execMinX d a b ta tb p ty s
  | .maxX d a b ta tb p ty => Sys2Proof.Machine.execMaxX d a b ta tb p ty s
  | .absX d a ta p ty => Sys2Proof.Machine.execAbsX d a ta p ty s
  | .negX d a ta p ty => Sys2Proof.Machine.execNegX d a ta p ty s
  | .andX d a b ta tb p ty => Sys2Proof.Machine.execAndX d a b ta tb p ty s
  | .orX d a b ta tb p ty => Sys2Proof.Machine.execOrX d a b ta tb p ty s
  | .xorX d a b ta tb p ty => Sys2Proof.Machine.execXorX d a b ta tb p ty s
  | .andnX d a b ta tb p ty => Sys2Proof.Machine.execAndnX d a b ta tb p ty s
  | .notX d a ta p ty => Sys2Proof.Machine.execNotX d a ta p ty s
  | .shlX d a b ta tb p ty im cnt => Sys2Proof.Machine.execShlX d a b ta tb p ty im cnt s
  | .shrX d a b ta tb p ty im cnt => Sys2Proof.Machine.execShrX d a b ta tb p ty im cnt s
  | .sarX d a b ta tb p ty im cnt => Sys2Proof.Machine.execSarX d a b ta tb p ty im cnt s
  | .rotX d a b ta tb p ty im cnt => Sys2Proof.Machine.execRotX d a b ta tb p ty im cnt s
  | .clzX d a ta p ty => Sys2Proof.Machine.execClzX d a ta p ty s
  | .popcX d a ta p ty => Sys2Proof.Machine.execPopcX d a ta p ty s
  | .brevX d a ta p ty => Sys2Proof.Machine.execBrevX d a ta p ty s
  | .bfe d a ta p ty pos len => Sys2Proof.Machine.execBfe d a ta p ty pos len s
  | .bfi d a b ta tb p ty pos len => Sys2Proof.Machine.execBfi d a b ta tb p ty pos len s
  | .sel d a b ta tb p ty sl => Sys2Proof.Machine.execSel d a b ta tb p ty sl s
  | .cmp md a b ta tb p ty cond => Sys2Proof.Machine.execCmp md a b ta tb p ty cond s
  | .movX d a ta p ty => Sys2Proof.Machine.execMovX d a ta p ty s
  | .addSat d a b ta tb p ty => Sys2Proof.Machine.execAddSat d a b ta tb p ty s
  | .subSat d a b ta tb p ty => Sys2Proof.Machine.execSubSat d a b ta tb p ty s
  | .movi d imm p => Sys2Proof.Machine.execMovi d imm p s
  | .litVector d pr hi lit => Sys2Proof.Machine.execLitVector d pr hi lit s
  | .uniformAdd d a b ta tb => Sys2Proof.Machine.execUniformAdd d a b ta tb s
  | .uniformSub d a b ta tb => Sys2Proof.Machine.execUniformSub d a b ta tb s
  | .uniformMulLo d a b ta tb => Sys2Proof.Machine.execUniformMulLo d a b ta tb s
  | .uniformMulHiS d a b ta tb => Sys2Proof.Machine.execUniformMulHiS d a b ta tb s
  | .uniformMulHiN d a b ta tb => Sys2Proof.Machine.execUniformMulHiN d a b ta tb s
  | .uniformMinS d a b ta tb => Sys2Proof.Machine.execUniformMinS d a b ta tb s
  | .uniformMinN d a b ta tb => Sys2Proof.Machine.execUniformMinN d a b ta tb s
  | .uniformMaxS d a b ta tb => Sys2Proof.Machine.execUniformMaxS d a b ta tb s
  | .uniformMaxN d a b ta tb => Sys2Proof.Machine.execUniformMaxN d a b ta tb s
  | .uniformAddSatS d a b ta tb => Sys2Proof.Machine.execUniformAddSatS d a b ta tb s
  | .uniformAddSatN d a b ta tb => Sys2Proof.Machine.execUniformAddSatN d a b ta tb s
  | .uniformSubSatS d a b ta tb => Sys2Proof.Machine.execUniformSubSatS d a b ta tb s
  | .uniformSubSatN d a b ta tb => Sys2Proof.Machine.execUniformSubSatN d a b ta tb s
  | .uniformAbs d a ta => Sys2Proof.Machine.execUniformAbs d a ta s
  | .uniformNeg d a ta => Sys2Proof.Machine.execUniformNeg d a ta s
  | .uniformAnd d a b ta tb => Sys2Proof.Machine.execUniformAnd d a b ta tb s
  | .uniformOr d a b ta tb => Sys2Proof.Machine.execUniformOr d a b ta tb s
  | .uniformXor d a b ta tb => Sys2Proof.Machine.execUniformXor d a b ta tb s
  | .uniformAndn d a b ta tb => Sys2Proof.Machine.execUniformAndn d a b ta tb s
  | .uniformNot d a ta => Sys2Proof.Machine.execUniformNot d a ta s
  | .uniformShl d a b ta tb => Sys2Proof.Machine.execUniformShl d a b ta tb s
  | .uniformShr d a b ta tb => Sys2Proof.Machine.execUniformShr d a b ta tb s
  | .uniformSar d a b ta tb => Sys2Proof.Machine.execUniformSar d a b ta tb s
  | .uniformRot d a b ta tb => Sys2Proof.Machine.execUniformRot d a b ta tb s
  | .uniformClz d a ta => Sys2Proof.Machine.execUniformClz d a ta s
  | .uniformPopc d a ta => Sys2Proof.Machine.execUniformPopc d a ta s
  | .uniformBrev d a ta => Sys2Proof.Machine.execUniformBrev d a ta s
  | .uniformMov d a ta => Sys2Proof.Machine.execUniformMov d a ta s
  | .uniformAddImm d a ta imm => Sys2Proof.Machine.execUniformAddImm d a ta imm s
  | .uniformAndImm d a ta imm => Sys2Proof.Machine.execUniformAndImm d a ta imm s
  | .uniformOrImm d a ta imm => Sys2Proof.Machine.execUniformOrImm d a ta imm s
  | .uniformXorImm d a ta imm => Sys2Proof.Machine.execUniformXorImm d a ta imm s
  | .uniformShlImm d a ta imm => Sys2Proof.Machine.execUniformShlImm d a ta imm s
  | .uniformShrImm d a ta imm => Sys2Proof.Machine.execUniformShrImm d a ta imm s
  | .uniformSarImm d a ta imm => Sys2Proof.Machine.execUniformSarImm d a ta imm s
  | .uniformMovi d imm => Sys2Proof.Machine.execUniformMovi d imm s
  | .uniformMad d a b ta tb c tc ty => Sys2Proof.Machine.execUniformMad d a b ta tb c tc ty s
  | .uniformBfe d a ta ty pos len => Sys2Proof.Machine.execUniformBfe d a ta ty pos len s
  | .uniformBfi d a b ta tb ty pos len => Sys2Proof.Machine.execUniformBfi d a b ta tb ty pos len s
  | .uniformCmp md a b ta tb ty cond => Sys2Proof.Machine.execUniformCmp md a b ta tb ty cond s
  | .uniformSel d a b ta tb ty sl => Sys2Proof.Machine.execUniformSel d a b ta tb ty sl s
  | .litUniform d hi lit => Sys2Proof.Machine.execLitUniform d hi lit s
  | .seedTop d => Sys2Proof.Machine.execSeedTop d s
  | .seedDepth d => Sys2Proof.Machine.execSeedDepth d s
  | .mand d a b => Sys2Proof.Machine.execMand d a b s
  | .mor d a b => Sys2Proof.Machine.execMor d a b s
  | .mxor d a b => Sys2Proof.Machine.execMxor d a b s
  | .mandn d a b => Sys2Proof.Machine.execMandn d a b s
  | .mnot d a => Sys2Proof.Machine.execMnot d a s
  | .mmov d a => Sys2Proof.Machine.execMmov d a s
  | .mget d ma => Sys2Proof.Machine.execMget d ma s
  | .mset md a ta => Sys2Proof.Machine.execMset md a ta s
  | .pollMask d a ta p mem => Sys2Proof.Machine.execPollMask d a ta p mem s
  | .pollSome md a ta p mem => Sys2Proof.Machine.execPollSome md a ta p mem s
  | .pollEvery md a ta p mem => Sys2Proof.Machine.execPollEvery md a ta p mem s
  | .pollSame md a ta p ty mem => Sys2Proof.Machine.execPollSame md a ta p ty mem s
  | .pollPeers d a ta p ty mem => Sys2Proof.Machine.execPollPeers d a ta p ty mem s
  | .pollLead md p mem => Sys2Proof.Machine.execPollLead md p mem s
  | .pollLeadWelt md p mem => Sys2Proof.Machine.execPollLeadWelt md p mem s
  | .pollCount d a ta p mem => Sys2Proof.Machine.execPollCount d a ta p mem s
  | .passFrom d a b ta tb p z ty imm im mem => Sys2Proof.Machine.execPassFrom d a b ta tb p z ty imm im mem s
  | .passBack d a b ta tb p z ty imm im mem => Sys2Proof.Machine.execPassBack d a b ta tb p z ty imm im mem s
  | .passAhead d a b ta tb p z ty imm im mem => Sys2Proof.Machine.execPassAhead d a b ta tb p z ty imm im mem s
  | .passSwap d a b ta tb p z ty imm im mem => Sys2Proof.Machine.execPassSwap d a b ta tb p z ty imm im mem s
  | .passTurn d a b ta tb p z ty imm im mem => Sys2Proof.Machine.execPassTurn d a b ta tb p z ty imm im mem s
  | .foldAdd d a ta p ty mem => Sys2Proof.Machine.execFoldAdd d a ta p ty mem s
  | .foldMin d a ta p ty mem => Sys2Proof.Machine.execFoldMin d a ta p ty mem s
  | .foldMax d a ta p ty mem => Sys2Proof.Machine.execFoldMax d a ta p ty mem s
  | .foldAnd d a ta p ty mem => Sys2Proof.Machine.execFoldAnd d a ta p ty mem s
  | .foldOr d a ta p ty mem => Sys2Proof.Machine.execFoldOr d a ta p ty mem s
  | .foldXor d a ta p ty mem => Sys2Proof.Machine.execFoldXor d a ta p ty mem s
  | .scanInc d a ta p ty mem => Sys2Proof.Machine.execScanInc d a ta p ty mem s
  | .scanExc d a ta p ty mem => Sys2Proof.Machine.execScanExc d a ta p ty mem s
  | .rng d a ta p => Sys2Proof.Machine.execRng d a ta p s
  | .ident d sl p => Sys2Proof.Machine.execIdent d sl p s
  | .fadd d a b ta tb p => Sys2Proof.Machine.execFadd d a b ta tb p s
  | .fsub d a b ta tb p => Sys2Proof.Machine.execFsub d a b ta tb p s
  | .fmul d a b ta tb p => Sys2Proof.Machine.execFmul d a b ta tb p s
  | .fmin d a b ta tb p => Sys2Proof.Machine.execFmin d a b ta tb p s
  | .fmax d a b ta tb p => Sys2Proof.Machine.execFmax d a b ta tb p s
  | .fdiv d a b ta tb p => Sys2Proof.Machine.execFdiv d a b ta tb p s
  | .fsqrt d a ta p => Sys2Proof.Machine.execFsqrt d a ta p s
  | .faddX d a b ta tb p ty rm na aa nb ab => Sys2Proof.Machine.execFaddX d a b ta tb p ty rm na aa nb ab s
  | .fsubX d a b ta tb p ty rm na aa nb ab => Sys2Proof.Machine.execFsubX d a b ta tb p ty rm na aa nb ab s
  | .fmulX d a b ta tb p ty rm na aa nb ab => Sys2Proof.Machine.execFmulX d a b ta tb p ty rm na aa nb ab s
  | .fminX d a b ta tb p ty na aa nb ab => Sys2Proof.Machine.execFminX d a b ta tb p ty na aa nb ab s
  | .fmaxX d a b ta tb p ty na aa nb ab => Sys2Proof.Machine.execFmaxX d a b ta tb p ty na aa nb ab s
  | .fdivX d a b ta tb p ty rm na aa nb ab => Sys2Proof.Machine.execFdivX d a b ta tb p ty rm na aa nb ab s
  | .ffma d a b ta tb p c tc ty rm na aa nb ab nc ac => Sys2Proof.Machine.execFfma d a b ta tb p c tc ty rm na aa nb ab nc ac s
  | .fsqrtX d a ta p ty rm na aa => Sys2Proof.Machine.execFsqrtX d a ta p ty rm na aa s
  | .frcpA d a ta p ty na aa => Sys2Proof.Machine.execFrcpA d a ta p ty na aa s
  | .frsqA d a ta p ty na aa => Sys2Proof.Machine.execFrsqA d a ta p ty na aa s
  | .fexp2A d a ta p ty na aa => Sys2Proof.Machine.execFexp2A d a ta p ty na aa s
  | .flog2A d a ta p ty na aa => Sys2Proof.Machine.execFlog2A d a ta p ty na aa s
  | .fcmp md a b ta tb p cond ty na aa nb ab => Sys2Proof.Machine.execFcmp md a b ta tb p cond ty na aa nb ab s
  | .fclass d a ta p ty => Sys2Proof.Machine.execFclass d a ta p ty s
  | .cvt d a ta p c tc dty rm sty salt => Sys2Proof.Machine.execCvt d a ta p c tc dty rm sty salt s
  | .cvtn d a b ta p ty rm salt => Sys2Proof.Machine.execCvtn d a b ta p ty rm salt s
  | .cvtnFrom d a b ta p ty rm => Sys2Proof.Machine.execCvtnFrom d a b ta p ty rm s
  | .bscale d a b ta p ty => Sys2Proof.Machine.execBscale d a b ta p ty s
  | .qnt d a b ta p c tc ty rm salt => Sys2Proof.Machine.execQnt d a b ta p c tc ty rm salt s
  | .dqnt d a b ta p c tc ty rm => Sys2Proof.Machine.execDqnt d a b ta p c tc ty rm s
  | .ld d w ix f t p => Sys2Proof.Machine.execLd d w ix f t p s
  | .ldX d w ix f t p ty cp disp => Sys2Proof.Machine.execLdX d w ix f t p ty cp disp s
  | .ldProbe d w ix f t p ty md cp disp => Sys2Proof.Machine.execLdProbe d w ix f t p ty md cp disp s
  | .st d w ix f t p => Sys2Proof.Machine.execSt d w ix f t p s
  | .stX d w ix f t p ty cp disp => Sys2Proof.Machine.execStX d w ix f t p ty cp disp s
  | .ldx d w ix f t p ty n cp disp => Sys2Proof.Machine.execLdx d w ix f t p ty n cp disp s
  | .stx d w ix f t p ty n cp disp => Sys2Proof.Machine.execStx d w ix f t p ty n cp disp s
  | .stc d w ix f t p ty cp disp => Sys2Proof.Machine.execStc d w ix f t p ty cp disp s
  | .ldw d a ta ty cp => Sys2Proof.Machine.execLdw d a ta ty cp s
  | .stw a b ta tb ty cp => Sys2Proof.Machine.execStw a b ta tb ty cp s
  | .lds d w ix f t p ty disp => Sys2Proof.Machine.execLds d w ix f t p ty disp s
  | .sts d w ix f t p ty disp => Sys2Proof.Machine.execSts d w ix f t p ty disp s
  | .pref w ix f t p cp disp => Sys2Proof.Machine.execPref w ix f t p cp disp s
  | .stmap a b ta => Sys2Proof.Machine.execStmap a b ta s
  | .stunmap a ta => Sys2Proof.Machine.execStunmap a ta s
  | .stflush a ta => Sys2Proof.Machine.execStflush a ta s
  | .atomAdd d w ix f t p c tc ty rt disp => Sys2Proof.Machine.execAtomAdd d w ix f t p c tc ty rt disp s
  | .atomMin d w ix f t p c tc ty rt disp => Sys2Proof.Machine.execAtomMin d w ix f t p c tc ty rt disp s
  | .atomMax d w ix f t p c tc ty rt disp => Sys2Proof.Machine.execAtomMax d w ix f t p c tc ty rt disp s
  | .atomAnd d w ix f t p c tc ty rt disp => Sys2Proof.Machine.execAtomAnd d w ix f t p c tc ty rt disp s
  | .atomOr d w ix f t p c tc ty rt disp => Sys2Proof.Machine.execAtomOr d w ix f t p c tc ty rt disp s
  | .atomXor d w ix f t p c tc ty rt disp => Sys2Proof.Machine.execAtomXor d w ix f t p c tc ty rt disp s
  | .atomExch d w ix f t p c tc ty rt disp => Sys2Proof.Machine.execAtomExch d w ix f t p c tc ty rt disp s
  | .atomCas d w ix f t p c tc ty disp => Sys2Proof.Machine.execAtomCas d w ix f t p c tc ty disp s
  | .atomIncwrap d w ix f t p c tc ty rt disp => Sys2Proof.Machine.execAtomIncwrap d w ix f t p c tc ty rt disp s
  | .atomdAdd w ix f t p c tc ty disp => Sys2Proof.Machine.execAtomdAdd w ix f t p c tc ty disp s
  | .atomdMin w ix f t p c tc ty disp => Sys2Proof.Machine.execAtomdMin w ix f t p c tc ty disp s
  | .atomdMax w ix f t p c tc ty disp => Sys2Proof.Machine.execAtomdMax w ix f t p c tc ty disp s
  | .atomdAnd w ix f t p c tc ty disp => Sys2Proof.Machine.execAtomdAnd w ix f t p c tc ty disp s
  | .atomdOr w ix f t p c tc ty disp => Sys2Proof.Machine.execAtomdOr w ix f t p c tc ty disp s
  | .atomdXor w ix f t p c tc ty disp => Sys2Proof.Machine.execAtomdXor w ix f t p c tc ty disp s
  | .atomdIncwrap w ix f t p c tc ty disp => Sys2Proof.Machine.execAtomdIncwrap w ix f t p c tc ty disp s
  | .crdecl a b ta tb cop => Sys2Proof.Machine.execCrdecl a b ta tb cop s
  | .cradd d w ix f t p cop disp => Sys2Proof.Machine.execCradd d w ix f t p cop disp s
  | .fence pm sm sc cum => Sys2Proof.Machine.execFence pm sm sc cum s
  | .ifence => Sys2Proof.Machine.execIfence s
  | .cpy a b ta tb c tc src dst srole drole conv => Sys2Proof.Machine.execCpy a b ta tb c tc src dst srole drole conv s
  | .cpyMc a b ta tb c tc src dst role set conv => Sys2Proof.Machine.execCpyMc a b ta tb c tc src dst role set conv s
  | .cpyColl a b ta tb c tc src salt rm => Sys2Proof.Machine.execCpyColl a b ta tb c tc src salt rm s
  | .cbinit a b ta tb => Sys2Proof.Machine.execCbinit a b ta tb s
  | .cbwait d a ta n => Sys2Proof.Machine.execCbwait d a ta n s
  | .cbpop a ta n => Sys2Proof.Machine.execCbpop a ta n s
  | .cbfree a ta => Sys2Proof.Machine.execCbfree a ta s
  | .mres h wr tc ty => Sys2Proof.Machine.execMres h wr tc ty s
  | .mrel h => Sys2Proof.Machine.execMrel h s
  | .mzero sn t => Sys2Proof.Machine.execMzero sn t s
  | .mwait sn => Sys2Proof.Machine.execMwait sn s
  | .mwaitAll => Sys2Proof.Machine.execMwaitAll s
  | .mfmt sn ty => Sys2Proof.Machine.execMfmt sn ty s
  | .mstep sn ha hb t => Sys2Proof.Machine.execMstep sn ha hb t s
  | .mloop sn ha hb t wr tc cnt => Sys2Proof.Machine.execMloop sn ha hb t wr tc cnt s
  | .mrd sn t d row cnt => Sys2Proof.Machine.execMrd sn t d row cnt s
  | .mwr sn t d tc row cnt => Sys2Proof.Machine.execMwr sn t d tc row cnt s
  | .mskv sn wr tc dep k act => Sys2Proof.Machine.execMskv sn wr tc dep k act s
  | .msamp sn cnt => Sys2Proof.Machine.execMsamp sn cnt s
  | .rgmake d a b ta tb => Sys2Proof.Machine.execRgmake d a b ta tb s
  | .rgdrop d a ta => Sys2Proof.Machine.execRgdrop d a ta s
  | .rgfit d a b ta tb => Sys2Proof.Machine.execRgfit d a b ta tb s
  | .rgstat d a ta => Sys2Proof.Machine.execRgstat d a ta s
  | .phnew d a ta => Sys2Proof.Machine.execPhnew d a ta s
  | .phfree d a ta => Sys2Proof.Machine.execPhfree d a ta s
  | .phreg d a mode ta => Sys2Proof.Machine.execPhreg d a mode ta s
  | .phdrop d a ta => Sys2Proof.Machine.execPhdrop d a ta s
  | .phsig d a ta => Sys2Proof.Machine.execPhsig d a ta s
  | .phwait d a ta => Sys2Proof.Machine.execPhwait d a ta s
  | .pharr d a ta => Sys2Proof.Machine.execPharr d a ta s
  | .phbytes d a b ta tb => Sys2Proof.Machine.execPhbytes d a b ta tb s
  | .bar => Sys2Proof.Machine.execBar s
  | .barto a b ta tb => Sys2Proof.Machine.execBarto a b ta tb s
  | .flushda => Sys2Proof.Machine.execFlushda s
  | .lkmat d a ta => Sys2Proof.Machine.execLkmat d a ta s
  | .lkbegin d => Sys2Proof.Machine.execLkbegin d s
  | .lkbeginWt d => Sys2Proof.Machine.execLkbeginWt d s
  | .lkend d => Sys2Proof.Machine.execLkend d s
  | .lkabort d => Sys2Proof.Machine.execLkabort d s
  | .lkacq d a mode ta => Sys2Proof.Machine.execLkacq d a mode ta s
  | .lktry d a mode ta => Sys2Proof.Machine.execLktry d a mode ta s
  | .lkup d a mode ta => Sys2Proof.Machine.execLkup d a mode ta s
  | .lkrel d a ta => Sys2Proof.Machine.execLkrel d a ta s
  | .lkstat d a ta => Sys2Proof.Machine.execLkstat d a ta s
  | .go off => Sys2Proof.Machine.execGo off s
  | .br off m => Sys2Proof.Machine.execBr off m s
  | .call off => Sys2Proof.Machine.execCall off s
  | .brx a ta => Sys2Proof.Machine.execBrx a ta s
  | .callx a ta => Sys2Proof.Machine.execCallx a ta s
  | .ret a ta => Sys2Proof.Machine.execRet a ta s
  | .exit => Sys2Proof.Machine.execExit s
  | .yield => Sys2Proof.Machine.execYield s
  | .nop => Sys2Proof.Machine.execNop s
  | .launch d a ta => Sys2Proof.Machine.execLaunch d a ta s
  | .join d a ta => Sys2Proof.Machine.execJoin d a ta s
  | .trap a ta => Sys2Proof.Machine.execTrap a ta s
  | .trapS a ta => Sys2Proof.Machine.execTrapS a ta s
  | .brk => Sys2Proof.Machine.execBrk s
  | .tret => Sys2Proof.Machine.execTret s
  | .srd d lv sl => Sys2Proof.Machine.execSrd d lv sl s
  | .srdLaneid d => Sys2Proof.Machine.execSrdLaneid d s
  | .swr a ta lv sl => Sys2Proof.Machine.execSwr a ta lv sl s
  | .skey a ta c tc => Sys2Proof.Machine.execSkey a ta c tc s
  | .tlbinv a b ta tb => Sys2Proof.Machine.execTlbinv a b ta tb s
  | .vacate d a b ta tb => Sys2Proof.Machine.execVacate d a b ta tb s
  | .tokq d a ta => Sys2Proof.Machine.execTokq d a ta s
  | .haltwg d a b ta tb => Sys2Proof.Machine.execHaltwg d a b ta tb s

end Sys2Proof.Machine
end

