-- ==== Sys2Proof/Machine/Turn.lean ====
section
/-!
DEFINITION. Who moves next (R10, R223): which welts are ready and which of them issues (spec/15 R321-R323, spec/16 R336,
spec/18 R384, spec/21 R427, R430), which stitches form (spec/02 R34), and one move made ready.
-/

namespace Sys2Proof.Machine

/-- What may move: a welt that can issue, an internal event that is due, the next input, the clock; a store on its way
to its home (R246), a stopped welt that goes on (R427), a stitch that forms (R34), a fetched line or a TLB entry that is
dropped (R252, R405), and a change of a stash block that completes (R280). -/
inductive Move where
  | welt (i : Nat) | event (k : Nat) | input | clock
  | reveal (k : Nat) | resume (i : Nat) | stitch (is : List Nat) | dropCode (i k : Nat) | dropTlb (k : Nat)
  | rebound (g k : Nat)
  deriving DecidableEq, Repr

/-! ### What is ready (R321) -/

/-- Whether a welt may issue as far as its own state goes: resident, not stopped and not to stop at the clause boundary where
it stands (R425), with a lane at the minimum key, no step of its own done or of another welt of its workgroup in progress
(R427, R430). -/
def State.canIssue (s : State) (i : Nat) : Bool :=
  let w := s.weltAt i
  let g := s.wgAt w.wg
  !w.ended && g.st == .resident && w.halt != .stopped && !(w.halt != .none && w.atBoundary) && !w.stepDone && w.live != 0
    && s.welts.all fun x => !(x.wg == w.wg && x.stepping && !x.ended) || w.stepping

/-- A welt as its next instruction would leave it, tried apart with no halt on it. -/
noncomputable def State.trial (s : State) (i : Nat) : Welt :=
  let t : State := { s.setWeltAt i { s.weltAt i with halt := .none, readyAt := some s.now } with cur := i }
  match t.fetchNext with
  | .took u => u.weltAt i
  | .run ins u => match exec ins u with
    | .next v => v.weltAt i
    | _ => s.weltAt i

/-- What readiness marks on a welt whose next instruction, tried apart, leaves it as `t` (R321): ready since the cycle in which
that instruction could first issue. One that registers or tokens keep from issuing waits for them from now on, and stops
there if a halt has come (R384, R425). One that has issued and waits is ready once it would wait so no more. -/
def Welt.mark (w t : Welt) (now : Nat) : Welt :=
  let ready : Welt := { w with readyAt := some (w.readyAt.getD now) }
  match t.readyAt, t.wait with
  | some _, _ => ready
  | none, .register _ | none, .tokens =>
    ({ w with readyAt := none, wait := t.wait, wantSince := t.wantSince, wantPrice := t.wantPrice }).stop
  | none, r => if r == w.wait then { w with readyAt := none } else ready

/-- The readiness of one welt noted. An event that has ended its wait wakes its core (R336). -/
noncomputable def State.noteWelt (s : State) (i : Nat) : State :=
  let w := s.weltAt i
  if s.canIssue i then
    let x := w.mark (s.trial i) s.now
    let s1 := s.setWeltAt i x
    let core := (s.wgAt w.wg).core
    if x.readyAt.isSome && (s.coreAt core).gate != .on && !(s.agenda.contains (.coreWake core)) then s1.post (.coreWake core)
    else s1
  else if w.readyAt.isSome then s.setWeltAt i { w with readyAt := none } else s

/-- The readiness of every welt noted (R321). -/
noncomputable def State.noteReady (s : State) : State := (List.range s.welts.length).foldl State.noteWelt s

/-! ### Deterministic launches (R323) -/

/-- Whether a welt waits at a switch point: it has yielded, or it waits at BAR, PHWAIT, PHARR, CBWAIT, JOIN or a lock
instruction. A PHSIG that waits (R329), CBFREE, and waits for registers and tokens are none. -/
def Welt.atSwitch (w : Welt) : Bool :=
  w.yielded
    || (w.colls.any fun c => match c.wait with
      | .phase _ _ _ _ wait => wait
      | .none => false)
    || match w.wait with
      | .buffer _ n => n != 0
      | .join _ | .lock _ => true
      | _ => false

/-- Whether the wait of a welt is over: its arriving instruction would be released, or its next instruction would not
wait any more. It may stand stopped. -/
noncomputable def State.waitOver (s : State) (i : Nat) : Bool :=
  match (s.weltAt i).colls.findSome? fun c => match c.wait with
    | .phase id implicit _ signal wait => some (s.phaseTry i id implicit signal wait).2.2.isSome
    | .none => none with
  | some b => b
  | none => (s.trial i).readyAt.isSome

/-- Of some welts in the order of their indices, the one whose turn it is: the one that runs on, until it reaches a switch
point, else the lowest that is at none or whose wait is over; one that has just yielded comes after the others. -/
noncomputable def State.turnOf (s : State) (ws : List Nat) (runner : Option Nat) : Option Nat :=
  let free (i : Nat) : Bool := !((s.weltAt i).atSwitch)
  match runner.filter fun r => ws.contains r && free r with
  | some r => some r
  | none =>
    let ready := ws.filter fun i => free i || s.waitOver i
    (ready.find? fun i => !((s.weltAt i).yielded)).or ready.head?

/-- In a deterministic launch one welt of a workgroup issues at a time (R323), whether others stand stopped or not. While
the workgroup is halted (R427), a welt that runs on to its stop point comes first, then those that run handlers, which take
turns in the same way (DEDUCED, log 19). -/
noncomputable def State.detTurn (s : State) (i : Nat) : Bool :=
  let g := s.wgAt (s.weltAt i).wg
  let ws := sortKey (fun a b => decide ((s.weltAt a).index ≤ (s.weltAt b).index))
    ((s.weltsOf (s.weltAt i).wg).filter fun k => !(s.weltAt k).ended)
  let handlers := ws.filter fun k => !(s.weltAt k).inHandler.isEmpty
  let step := ws.filter fun k => (s.weltAt k).stepping
  let stop := ws.filter fun k => (s.weltAt k).inHandler.isEmpty && (s.weltAt k).halt != .none && (s.weltAt k).halt != .stopped
  let turn := if !step.isEmpty then step.head?
    else if handlers.isEmpty then s.turnOf ws g.runner
    else if !stop.isEmpty then stop.head?
    else s.turnOf handlers g.handlerRunner
  turn == some i

/-! ### Who issues (R321) -/

/-- Whether a member of a stitch is the one whose part of the joint issue comes next: the first of those that have issued
the fewest of its instructions (R34, R96). -/
def Stitch.turn (x : Stitch) (i : Nat) : Bool :=
  match x.members.find? fun m => x.members.all fun k => decide (m.2 ≤ k.2) with
  | some m => m.1 == i
  | none => false

/-- Whether another member of a welt's stitch has already issued the instruction that the welt issues next: the same
issue of the slice. -/
def State.jointIssue (s : State) (i : Nat) : Bool :=
  match s.stitchOf i with
  | some x => x.members.any fun m => x.members.any fun k => k.1 == i && decide (k.2 < m.2)
  | none => false

/-- Whether a welt comes before another of its slice (R321): ready longer, or as long and in a lower slot. The next
instruction of a welt that has yielded comes after those that are ready at its moment (R360). -/
def Welt.before (a b : Welt) : Bool :=
  match a.readyAt, b.readyAt with
  | some x, some y => decide (x < y) || (x == y && (if a.yielded == b.yielded then decide (a.slot < b.slot) else b.yielded))
  | some _, none => true
  | none, _ => false

/-- Whether a welt is a candidate of its slice in this cycle: it can issue, its core is awake (R316, R336), it has its turn,
and it has not come to issue and stalled in this cycle already. -/
noncomputable def State.candidate (s : State) (i : Nat) : Bool :=
  s.canIssue i && (s.coreAt (s.wgAt (s.weltAt i).wg).core).gate == .on && (s.weltAt i).triedAt != some s.now
    && ((s.stitchOf i).all fun x => x.turn i)
    && (!(s.launchOf (s.wgAt (s.weltAt i).wg)).det || s.detTurn i)

/-- Whether a welt may issue now (R321, R323): each slice issues one instruction in a cycle of its own, the one that has
been ready longest, of those the lowest slot's. -/
noncomputable def State.mayIssue (s : State) (i : Nat) : Bool :=
  let w := s.weltAt i
  let core := (s.wgAt w.wg).core
  let sl := (s.coreAt core).slices.toList.getD w.slice Slice.init
  s.candidate i
    && (s.jointIssue i || (sliceCycle sl.ratio s.now && sl.issuedAt != some s.now
      && (List.range s.welts.length).all fun k => k == i || !((s.weltAt k).slice == w.slice
        && (s.wgAt (s.weltAt k).wg).core == core && (s.weltAt k).before w && s.candidate k)))

/-! ### Stitches (R34) -/

/-- Whether a welt's next issue is the first instruction of a segment whose first clause has G = 1 (R34). -/
def State.lastingAt (s : State) (i : Nat) : Bool :=
  let w := s.weltAt i
  w.lead.pos == .start && match s.fetchWord w w.level w.pc with
    | .ok x => isSegmentStart x && x.getLsbD 23
    | .error _ => false

/-- The number of lanes in a set. -/
def lanesIn (a : Lanes) : Nat := (Lanes.nats a).length

/-- The welts that may join a welt in a stitch (R34): of its workgroup and slice, at the same segment start, free to
issue, in no stitch; not in a deterministic launch, in serial mode or in a single step. -/
noncomputable def State.stitchable (s : State) (i : Nat) : List Nat :=
  let w := s.weltAt i
  (List.range s.welts.length).filter fun k =>
    let x := s.weltAt k
    k != i && x.wg == w.wg && x.slice == w.slice && x.pc == w.pc && x.level == w.level && decide (w.index < x.index)
      && s.candidate k && (s.stitchOf k).isNone && x.halt == .none && x.serial.isNone && !x.stepping && s.lastingAt k

/-- The first welts of a list that together have at most 32 lanes at their minimum keys, as prefixes of two or more. -/
def State.prefixes (s : State) (is : List Nat) : List (List Nat) :=
  ((List.range (is.length + 1)).map is.take).filter fun l =>
    decide (2 ≤ l.length) && decide ((l.map fun k => lanesIn (s.weltAt k).A).sum ≤ 32)

/-- The stitches that may form (R34). -/
noncomputable def State.stitchMoves (s : State) : List Move :=
  if s.welts.length < 2 then []
  else (List.range s.welts.length).flatMap fun i =>
    let w := s.weltAt i
    if !(s.launchOf (s.wgAt w.wg)).det && s.candidate i && (s.stitchOf i).isNone && w.halt == .none && w.serial.isNone
        && !w.stepping && s.lastingAt i then
      (s.prefixes (i :: s.stitchable i)).map .stitch
    else []

/-! ### Moves -/

/-- Some events belong to the step that causes them: releases are one step of the engine (R328, R329), and a halt and the
stall of a core are at their welts within 8 cc (R425, R428). -/
def atOnce : Instr → Bool
  | .phaserWaitRelease _ | .coreStall _ | .siblingStop _ => true
  | _ => false

/-- Every move that the state offers. Nothing comes before what is due at once; the clock waits for the slices: a
ready instruction that may issue does so in its cycle (R321, R322). -/
noncomputable def State.moves (s : State) : List Move :=
  let now := (List.range s.agenda.length).filter fun k => (s.agenda[k]?).any atOnce
  let issue := (List.range s.welts.length).filter s.mayIssue
  if !now.isEmpty then now.map .event
  else issue.map .welt
    ++ (List.range s.agenda.length).map .event
    ++ (if s.inbox.isEmpty then [] else [.input])
    ++ (if issue.isEmpty then [.clock] else [])
    ++ (List.range s.veils.length).map .reveal
    ++ ((List.range s.welts.length).filter s.mayResume).map .resume
    ++ s.stitchMoves
    ++ (List.range s.welts.length).flatMap (fun i =>
      (List.range (s.weltAt i).code.length).map fun k => .dropCode i k)
    ++ (List.range s.wgs.length).flatMap (fun g =>
      (List.range (s.wgAt g).rebinding.length).map fun k => .rebound g k)
    ++ (List.range (s.tlb.length + s.tlb2.length)).map .dropTlb

/-- The move that `turn` picks. -/
noncomputable def State.pick (s : State) : Move := s.moves.getD (s.turn % s.moves.length) .clock

/-- The welt that issues becomes current; in a deterministic launch it runs on from here, and the welts that had yielded
to it have waited (R323, R360). -/
def State.choose (s : State) (i : Nat) : State :=
  let s := { s with cur := i }
  let s := s.setCw { s.cw with triedAt := some s.now }
  if s.cl.det then
    let t := if s.cw.inHandler.isEmpty then s.setCg { s.cg with runner := some i }
      else s.setCg { s.cg with handlerRunner := some i }
    (t.weltsOf t.cw.wg).foldl (fun s k => if k == i then s else s.setWeltAt k { s.weltAt k with yielded := false }) t
  else s

/-- One move made ready (R10, R223): the turn and the free-value counter advance, welts whose wait has ended become ready,
an event leaves its list, a welt fetches. -/
noncomputable def State.prepare (s : State) : Fetched :=
  let n := s.noteReady.noteWide
  let t : State := { n with turn := Config.nextTurn s.tick, tick := s.tick + 1 }
  match n.pick with
  | .welt i => (t.choose i).fetchNext
  | .event k => match n.agenda[k]? with
    | some i => .run i { t with agenda := n.agenda.eraseIdx k }
    | none => .run .laceCycle t
  | .input => match n.inbox with
    | i :: rest => .run i { t with inbox := rest }
    | [] => .run .laceCycle t
  | .clock => .run .laceCycle t
  | .reveal k => .took (t.reveal k)
  | .resume i => .took (t.resume i)
  | .stitch is => .took { t with stitches := ⟨is.reverse.map fun i => (i, 0)⟩ :: t.stitches }
  | .dropCode i k => .took (t.setWeltAt i { t.weltAt i with code := (t.weltAt i).code.eraseIdx k })
  | .dropTlb k => .took { t with
      tlb := t.tlb.eraseIdx k
      tlb2 := if k < t.tlb.length then t.tlb2 else t.tlb2.eraseIdx (k - t.tlb.length) }
  | .rebound g k => .took (t.endRebind g k)

end Sys2Proof.Machine
end

