-- ==== Sys2Proof/Machine/Loaded.lean ====
section
/-!
DEFINITION. A machine with one program of one instruction loaded: what bring-up (R450), the management plane (R441), the
loader (R379) and a LAUNCH (R443) leave, so that the next step issues that instruction.
-/

namespace Sys2Proof.Machine

/-- The class of a clause that an instruction word may stand in (R80). -/
def classFor (w : W32) : Cls :=
  match opcodeClass (w.extractLsb' 25 7).toNat with
  | some c => c
  | none => if w == 0xF6000000#32 then .vector else .sync

/-- The virtual and physical address of the code. -/
def loadAddr : Nat := 0x200000

/-- A page-table entry that points to a table (R402). -/
def tableEntry (a : Nat) : W64 := BitVec.ofNat 64 (2 ^ 63 + 2 ^ 62 + a)
/-- A device leaf with R, W and X (R402). -/
def leafEntry (a : Nat) : W64 := BitVec.ofNat 64 (2 ^ 63 + 2 ^ 59 + 2 ^ 58 + 2 ^ 57 + a)

/-- Page tables for one 2 MiB page of code at `loadAddr`, and the code: a header, the instruction, the word after it. -/
def loadedMem (m : List Host.Cell) (w x : W32) : List Host.Cell :=
  let m := cellsWrite m 0x4000 (bytesLE (tableEntry 0x8000) 8)
  let m := cellsWrite m 0x8000 (bytesLE (tableEntry 0xC000) 8)
  let m := cellsWrite m 0xC008 (bytesLE (leafEntry loadAddr) 8)
  cellsWrite m loadAddr (bytesOfWord (headerWord 1 (classFor w) true false) ++ bytesOfWord w ++ bytesOfWord x)

/-- A welt at its launch's entry with all lanes populated (R26). -/
def startedWelt : Welt :=
  { Welt.init with
    populated := BitVec.allOnes 32
    lanes := Vector.replicate 32 { Lane.init with x := false, pc := BitVec.ofNat 48 loadAddr } }

/-- The state with the program loaded and its welt first among the moves; whatever could stand between the fetch and
the code is taken away. -/
def loadedWith (s : State) (w x : W32) : State :=
  { s with
    bringup := .up
    mem := loadedMem s.mem w x
    bad := []
    badCells := []
    tlb := []
    tlb2 := []
    walks := []
    veils := []
    stitches := []
    regions := []
    pages := []
    dir := []
    cached := []
    l2 := []
    writeBacks := []
    pooled := []
    pooledPartials := []
    copies := []
    cores := s.cores.setIfInBounds 0 Core.init
    parts := [{ Part.init with clusters := [0], live := true, tvec := 1, phaserShare := 16384, lockShare := 65536 }]
    ctxs := [{ Ctx.init with root := 0x4000 }]
    launches := [{ Launch.init with seq := 1 }]
    wgs := [{ Wg.init with members := [(0, false, 0)] }]
    welts := [startedWelt]
    agenda := s.agenda.filter fun e => !(atOnce e)
    turn := 0
    cur := 0 }

end Sys2Proof.Machine
end

