-- ==== Sys2Proof/Machine/Step.lean ====
section
/-!
DEFINITION. One step of the device: one move, prepared by `State.prepare`, and its meaning; and the state that runs a
given instruction next.
-/

namespace Sys2Proof.Machine

/-- One step (R10, R223): the move that `turn` picks runs. A trap of the fetch is taken in the step that meets it. -/
noncomputable def step (s : State) : Host.Outcome State Fault Refusal :=
  match s.prepare with
  | .run i t => exec i t
  | .took t => .next t

/-- One step, with the move and its fetch spelled out: what `State.prepare` answers decides it. -/
theorem step_of_prepare (s t : State) (i : Instr) (h : s.prepare = .run i t) : step s = exec i t := by
  simp [step, h]

/-- The state whose next step runs the instruction of `w`, laid out as the opcode table numbers its bits: one welt of
one workgroup of a launch of a context of partition 0, with a 2 MiB page of code. It stands for bring-up, the
management plane, the loader and a host LAUNCH together (log 16). -/
def State.withFetchWord (s : State) (nbits w : Nat) : State :=
  loadedWith s (BitVec.ofNat 32 (w % 2 ^ nbits)) (BitVec.ofNat 32 (w % 2 ^ nbits / 2 ^ 32))

end Sys2Proof.Machine
end

