-- ==== Sys2Proof/Safety.lean ====
section
/-!
DEFINITION. What a safe run of the device is, and the words in which claims say what an instruction leaves as it was.
-/

namespace Sys2Proof.Safety

open Sys2Proof.Machine

/-- The canonical form of every memory of the state. -/
def memoriesWf (s : State) : Prop :=
  Memory.wf s.mem ∧ Memory.wf s.host ∧
    ∀ g ∈ s.wgs, Memory.wf g.stash ∧ Memory.wf g.opbuf ∧ Memory.wf g.acc

/-- A step goes on (R417: no fault stops the device; each is delivered). -/
def goesOn (s : State) : Prop := ∃ t, step s = .next t

/-- A welt issues: `cur` names one. -/
def issuing (s : State) : Prop := s.cur < s.welts.length

/-- From `s` to `t` nothing outside the welt that issues has changed but the timers of its core, which is awake (R336,
R337), the cycle in which its slice issued (R321), its stitch, if it is in one (R34), and a single step now due to
complete (R430): every byte of every memory, every other welt, and every other record of the device is as it was. -/
structure Outside (s t : State) : Prop where
  bytes : ∀ l, t.getByte l = s.getByte l
  rest : { t with welts := s.welts, cores := s.cores, agenda := s.agenda, stitches := s.stitches } = s
  stitches : s.stitchOf s.cur = none → t.stitches = s.stitches
  count : t.welts.length = s.welts.length
  welts : ∀ i, i ≠ s.cur → t.weltAt i = s.weltAt i
  otherCores : ∀ c, c ≠ s.cg.core → t.coreAt c = s.coreAt c
  itsCore : { t.coreAt s.cg.core with
      busyAt := (s.coreAt s.cg.core).busyAt
      timerStart := (s.coreAt s.cg.core).timerStart
      gate := (s.coreAt s.cg.core).gate
      slices := (s.coreAt s.cg.core).slices } = s.coreAt s.cg.core
  slices : ∀ k, { (t.coreAt s.cg.core).slices.toList.getD k Slice.init with
      issuedAt := ((s.coreAt s.cg.core).slices.toList.getD k Slice.init).issuedAt }
    = (s.coreAt s.cg.core).slices.toList.getD k Slice.init
  agenda : t.agenda = s.agenda ++ if s.cw.stepping then [.singleStepComplete s.cur] else []

/-- From `w` to `u` a welt has changed in nothing but its registers, its lanes, `sr.fpctl` and the marks of an issue: what
it awaits, its tokens, its program order, since when its next instruction is ready (R321), the replay that is over (R272), the halt and the single step that count
instructions (R426, R430). The trap registers keep their values but for the valid bit of a restart word that a replay
used up, unless a halt has come (R425). -/
structure Inside (w u : Welt) : Prop where
  rest : { u with
      lanes := w.lanes, w := w.w, wfull := w.wfull, wbad := w.wbad, m := w.m, fpctl := w.fpctl, traps := w.traps
      halt := w.halt, readyAt := w.readyAt, wait := w.wait, spent := w.spent, wantSince := w.wantSince
      wantPrice := w.wantPrice, order := w.order
      yielded := w.yielded, atStart := w.atStart, started := w.started, replay := w.replay, stepDone := w.stepDone
      stepPc := w.stepPc, stepDepth := w.stepDepth, stepLanes := w.stepLanes } = w
  traps : w.halt = .none → w.replay = none → u.traps = w.traps
  halt : w.halt = .none → u.halt = .none

/-- A vector register of two lanes is the same: its value, its full bit and its mark of an error (R53, R433). -/
def sameReg (l k : Lane) (r : Nat) : Prop :=
  l.rd r = k.rd r ∧ l.full.getLsbD r = k.full.getLsbD r ∧ l.bad.getLsbD r = k.bad.getLsbD r

/-- A uniform register of two welts is the same: its value, its full bit and its mark of an error (R52, R433). -/
def sameUniform (w u : Welt) (r : Nat) : Prop :=
  w.rdW r = u.rdW r ∧ w.fullW r = u.fullW r ∧ w.wbad.getLsbD r = u.wbad.getLsbD r

/-- From `w` to `u` the lanes of `a` have moved `len` words on, keeping depth, X and H, and nothing else of a lane has
changed but the registers `rs` in the lanes of `e`. -/
structure Lanewise (w u : Welt) (a : Lanes) (len : Nat) (e : Lanes) (rs : List Nat) : Prop where
  pc : ∀ i < 32, (u.lane i).pc = if a.getLsbD i then (w.lane i).pc + BitVec.ofNat 48 (4 * len) else (w.lane i).pc
  key : ∀ i < 32, (u.lane i).depth = (w.lane i).depth ∧ (u.lane i).x = (w.lane i).x ∧ (u.lane i).h = (w.lane i).h
    ∧ (u.lane i).seg = (w.lane i).seg
  kept : ∀ i < 32, ∀ r < 128, (e.getLsbD i → r ∉ rs) → sameReg (u.lane i) (w.lane i) r

/-- An instruction of `len` words has issued from `s` to `t`, and its effect is confined: the vector registers `rs` in the
lanes of `e`, now full, the uniform registers `ws`, the mask registers `ms`, and the sticky flags `fl`. -/
structure Confined (s t : State) (len : Nat) (e : Lanes) (rs ws ms : List Nat) (fl : FlagBits) : Prop where
  outside : Outside s t
  inside : Inside s.cw t.cw
  lanes : Lanewise s.cw t.cw s.cw.A len e rs
  full : ∀ i < 32, e.getLsbD i → ∀ r < 128, r ∈ rs →
    (t.cw.lane i).full.getLsbD r = true ∧ (t.cw.lane i).bad.getLsbD r = false
  uniform : ∀ r < 64, r ∉ ws → sameUniform t.cw s.cw r
  masks : ∀ r < 16, r ∉ ms → maskRead s.legacy t.cw r = maskRead s.legacy s.cw r
  flags : t.cw.fpctl = s.cw.fpctl ||| fl.setWidth 32

/-- The registers of a welt, of every kind: vector, uniform, mask, handles, and the special registers (R50, R411). -/
def sameRegisters (w u : Welt) : Prop :=
  u.lanes = w.lanes ∧ u.w = w.w ∧ u.wfull = w.wfull ∧ u.wbad = w.wbad ∧ u.m = w.m ∧ u.handles = w.handles ∧ u.fpctl = w.fpctl
    ∧ u.nanrec = w.nanrec ∧ u.skivestat = w.skivestat ∧ u.traps = w.traps ∧ u.saved = w.saved ∧ u.level = w.level

/-- An instruction of `len` words that reaches outside its welt has issued from `s` to `t`: of the registers of every welt
only the vector registers `rs` in the lanes of `e`, the uniform registers `ws` and the mask registers `ms` of the
issuing one, and its sticky flags by `fl`, may differ. -/
structure Reaching (s t : State) (len : Nat) (e : Lanes) (rs ws ms : List Nat) (fl : FlagBits) : Prop where
  lanes : Lanewise s.cw t.cw s.cw.A len e rs
  uniform : ∀ r < 64, r ∉ ws → sameUniform t.cw s.cw r
  masks : ∀ r < 16, r ∉ ms → maskRead s.legacy t.cw r = maskRead s.legacy s.cw r
  flags : t.cw.fpctl = s.cw.fpctl ||| fl.setWidth 32
  special : t.cw.handles = s.cw.handles ∧ t.cw.nanrec = s.cw.nanrec
    ∧ t.cw.skivestat = s.cw.skivestat ∧ t.cw.level = s.cw.level
  traps : s.cw.halt = .none → s.cw.replay = none → t.cw.traps = s.cw.traps
  others : ∀ i, i ≠ s.cur → sameRegisters (s.weltAt i) (t.weltAt i)

end Sys2Proof.Safety
end

