-- ==== Sys2Proof/Laws/State.lean ====
section
/-!
SUPPORT. What each update of a record of the state leaves as it was: one lemma per field per update.
-/

namespace Sys2Proof.Machine

/-! ### State.setWeltAt -/

@[simp] theorem State.setWeltAt_bringup (s : State) (i : Nat) (x : Welt) : (s.setWeltAt i x).bringup = s.bringup := rfl
@[simp] theorem State.setWeltAt_corrected (s : State) (i : Nat) (x : Welt) : (s.setWeltAt i x).corrected = s.corrected := rfl
@[simp] theorem State.setWeltAt_countedAt (s : State) (i : Nat) (x : Welt) : (s.setWeltAt i x).countedAt = s.countedAt := rfl
@[simp] theorem State.setWeltAt_now (s : State) (i : Nat) (x : Welt) : (s.setWeltAt i x).now = s.now := rfl
@[simp] theorem State.setWeltAt_mem (s : State) (i : Nat) (x : Welt) : (s.setWeltAt i x).mem = s.mem := rfl
@[simp] theorem State.setWeltAt_host (s : State) (i : Nat) (x : Welt) : (s.setWeltAt i x).host = s.host := rfl
@[simp] theorem State.setWeltAt_bad (s : State) (i : Nat) (x : Welt) : (s.setWeltAt i x).bad = s.bad := rfl
@[simp] theorem State.setWeltAt_badCells (s : State) (i : Nat) (x : Welt) : (s.setWeltAt i x).badCells = s.badCells := rfl
@[simp] theorem State.setWeltAt_fused (s : State) (i : Nat) (x : Welt) : (s.setWeltAt i x).fused = s.fused := rfl
@[simp] theorem State.setWeltAt_lost (s : State) (i : Nat) (x : Welt) : (s.setWeltAt i x).lost = s.lost := rfl
@[simp] theorem State.setWeltAt_secVersion (s : State) (i : Nat) (x : Welt) : (s.setWeltAt i x).secVersion = s.secVersion := rfl
@[simp] theorem State.setWeltAt_mgmtTvec (s : State) (i : Nat) (x : Welt) : (s.setWeltAt i x).mgmtTvec = s.mgmtTvec := rfl
@[simp] theorem State.setWeltAt_mgmtOut (s : State) (i : Nat) (x : Welt) : (s.setWeltAt i x).mgmtOut = s.mgmtOut := rfl
@[simp] theorem State.setWeltAt_sent (s : State) (i : Nat) (x : Welt) : (s.setWeltAt i x).sent = s.sent := rfl
@[simp] theorem State.setWeltAt_dataOut (s : State) (i : Nat) (x : Welt) : (s.setWeltAt i x).dataOut = s.dataOut := rfl
@[simp] theorem State.setWeltAt_parts (s : State) (i : Nat) (x : Welt) : (s.setWeltAt i x).parts = s.parts := rfl
@[simp] theorem State.setWeltAt_ctxs (s : State) (i : Nat) (x : Welt) : (s.setWeltAt i x).ctxs = s.ctxs := rfl
@[simp] theorem State.setWeltAt_launches (s : State) (i : Nat) (x : Welt) : (s.setWeltAt i x).launches = s.launches := rfl
@[simp] theorem State.setWeltAt_wgs (s : State) (i : Nat) (x : Welt) : (s.setWeltAt i x).wgs = s.wgs := rfl
@[simp] theorem State.setWeltAt_phasers (s : State) (i : Nat) (x : Welt) : (s.setWeltAt i x).phasers = s.phasers := rfl
@[simp] theorem State.setWeltAt_nextPhaser (s : State) (i : Nat) (x : Welt) : (s.setWeltAt i x).nextPhaser = s.nextPhaser := rfl
@[simp] theorem State.setWeltAt_locks (s : State) (i : Nat) (x : Welt) : (s.setWeltAt i x).locks = s.locks := rfl
@[simp] theorem State.setWeltAt_regions (s : State) (i : Nat) (x : Welt) : (s.setWeltAt i x).regions = s.regions := rfl
@[simp] theorem State.setWeltAt_ranges (s : State) (i : Nat) (x : Welt) : (s.setWeltAt i x).ranges = s.ranges := rfl
@[simp] theorem State.setWeltAt_pooled (s : State) (i : Nat) (x : Welt) : (s.setWeltAt i x).pooled = s.pooled := rfl
@[simp] theorem State.setWeltAt_pooledPartials (s : State) (i : Nat) (x : Welt) : (s.setWeltAt i x).pooledPartials = s.pooledPartials := rfl
@[simp] theorem State.setWeltAt_copies (s : State) (i : Nat) (x : Welt) : (s.setWeltAt i x).copies = s.copies := rfl
@[simp] theorem State.setWeltAt_pages (s : State) (i : Nat) (x : Welt) : (s.setWeltAt i x).pages = s.pages := rfl
@[simp] theorem State.setWeltAt_uses (s : State) (i : Nat) (x : Welt) : (s.setWeltAt i x).uses = s.uses := rfl
@[simp] theorem State.setWeltAt_dir (s : State) (i : Nat) (x : Welt) : (s.setWeltAt i x).dir = s.dir := rfl
@[simp] theorem State.setWeltAt_cached (s : State) (i : Nat) (x : Welt) : (s.setWeltAt i x).cached = s.cached := rfl
@[simp] theorem State.setWeltAt_l2 (s : State) (i : Nat) (x : Welt) : (s.setWeltAt i x).l2 = s.l2 := rfl
@[simp] theorem State.setWeltAt_writeBacks (s : State) (i : Nat) (x : Welt) : (s.setWeltAt i x).writeBacks = s.writeBacks := rfl
@[simp] theorem State.setWeltAt_tlb (s : State) (i : Nat) (x : Welt) : (s.setWeltAt i x).tlb = s.tlb := rfl
@[simp] theorem State.setWeltAt_tlb2 (s : State) (i : Nat) (x : Welt) : (s.setWeltAt i x).tlb2 = s.tlb2 := rfl
@[simp] theorem State.setWeltAt_walks (s : State) (i : Nat) (x : Welt) : (s.setWeltAt i x).walks = s.walks := rfl
@[simp] theorem State.setWeltAt_veils (s : State) (i : Nat) (x : Welt) : (s.setWeltAt i x).veils = s.veils := rfl
@[simp] theorem State.setWeltAt_nextVeil (s : State) (i : Nat) (x : Welt) : (s.setWeltAt i x).nextVeil = s.nextVeil := rfl
@[simp] theorem State.setWeltAt_messages (s : State) (i : Nat) (x : Welt) : (s.setWeltAt i x).messages = s.messages := rfl
@[simp] theorem State.setWeltAt_stitches (s : State) (i : Nat) (x : Welt) : (s.setWeltAt i x).stitches = s.stitches := rfl
@[simp] theorem State.setWeltAt_cores (s : State) (i : Nat) (x : Welt) : (s.setWeltAt i x).cores = s.cores := rfl
@[simp] theorem State.setWeltAt_rings (s : State) (i : Nat) (x : Welt) : (s.setWeltAt i x).rings = s.rings := rfl
@[simp] theorem State.setWeltAt_turn (s : State) (i : Nat) (x : Welt) : (s.setWeltAt i x).turn = s.turn := rfl
@[simp] theorem State.setWeltAt_tick (s : State) (i : Nat) (x : Welt) : (s.setWeltAt i x).tick = s.tick := rfl
@[simp] theorem State.setWeltAt_cur (s : State) (i : Nat) (x : Welt) : (s.setWeltAt i x).cur = s.cur := rfl
@[simp] theorem State.setWeltAt_agenda (s : State) (i : Nat) (x : Welt) : (s.setWeltAt i x).agenda = s.agenda := rfl
@[simp] theorem State.setWeltAt_inbox (s : State) (i : Nat) (x : Welt) : (s.setWeltAt i x).inbox = s.inbox := rfl

/-! ### State.setCw -/

@[simp] theorem State.setCw_bringup (s : State) (x : Welt) : (s.setCw x).bringup = s.bringup := rfl
@[simp] theorem State.setCw_corrected (s : State) (x : Welt) : (s.setCw x).corrected = s.corrected := rfl
@[simp] theorem State.setCw_countedAt (s : State) (x : Welt) : (s.setCw x).countedAt = s.countedAt := rfl
@[simp] theorem State.setCw_now (s : State) (x : Welt) : (s.setCw x).now = s.now := rfl
@[simp] theorem State.setCw_mem (s : State) (x : Welt) : (s.setCw x).mem = s.mem := rfl
@[simp] theorem State.setCw_host (s : State) (x : Welt) : (s.setCw x).host = s.host := rfl
@[simp] theorem State.setCw_bad (s : State) (x : Welt) : (s.setCw x).bad = s.bad := rfl
@[simp] theorem State.setCw_badCells (s : State) (x : Welt) : (s.setCw x).badCells = s.badCells := rfl
@[simp] theorem State.setCw_fused (s : State) (x : Welt) : (s.setCw x).fused = s.fused := rfl
@[simp] theorem State.setCw_lost (s : State) (x : Welt) : (s.setCw x).lost = s.lost := rfl
@[simp] theorem State.setCw_secVersion (s : State) (x : Welt) : (s.setCw x).secVersion = s.secVersion := rfl
@[simp] theorem State.setCw_mgmtTvec (s : State) (x : Welt) : (s.setCw x).mgmtTvec = s.mgmtTvec := rfl
@[simp] theorem State.setCw_mgmtOut (s : State) (x : Welt) : (s.setCw x).mgmtOut = s.mgmtOut := rfl
@[simp] theorem State.setCw_sent (s : State) (x : Welt) : (s.setCw x).sent = s.sent := rfl
@[simp] theorem State.setCw_dataOut (s : State) (x : Welt) : (s.setCw x).dataOut = s.dataOut := rfl
@[simp] theorem State.setCw_parts (s : State) (x : Welt) : (s.setCw x).parts = s.parts := rfl
@[simp] theorem State.setCw_ctxs (s : State) (x : Welt) : (s.setCw x).ctxs = s.ctxs := rfl
@[simp] theorem State.setCw_launches (s : State) (x : Welt) : (s.setCw x).launches = s.launches := rfl
@[simp] theorem State.setCw_wgs (s : State) (x : Welt) : (s.setCw x).wgs = s.wgs := rfl
@[simp] theorem State.setCw_phasers (s : State) (x : Welt) : (s.setCw x).phasers = s.phasers := rfl
@[simp] theorem State.setCw_nextPhaser (s : State) (x : Welt) : (s.setCw x).nextPhaser = s.nextPhaser := rfl
@[simp] theorem State.setCw_locks (s : State) (x : Welt) : (s.setCw x).locks = s.locks := rfl
@[simp] theorem State.setCw_regions (s : State) (x : Welt) : (s.setCw x).regions = s.regions := rfl
@[simp] theorem State.setCw_ranges (s : State) (x : Welt) : (s.setCw x).ranges = s.ranges := rfl
@[simp] theorem State.setCw_pooled (s : State) (x : Welt) : (s.setCw x).pooled = s.pooled := rfl
@[simp] theorem State.setCw_pooledPartials (s : State) (x : Welt) : (s.setCw x).pooledPartials = s.pooledPartials := rfl
@[simp] theorem State.setCw_copies (s : State) (x : Welt) : (s.setCw x).copies = s.copies := rfl
@[simp] theorem State.setCw_pages (s : State) (x : Welt) : (s.setCw x).pages = s.pages := rfl
@[simp] theorem State.setCw_uses (s : State) (x : Welt) : (s.setCw x).uses = s.uses := rfl
@[simp] theorem State.setCw_dir (s : State) (x : Welt) : (s.setCw x).dir = s.dir := rfl
@[simp] theorem State.setCw_cached (s : State) (x : Welt) : (s.setCw x).cached = s.cached := rfl
@[simp] theorem State.setCw_l2 (s : State) (x : Welt) : (s.setCw x).l2 = s.l2 := rfl
@[simp] theorem State.setCw_writeBacks (s : State) (x : Welt) : (s.setCw x).writeBacks = s.writeBacks := rfl
@[simp] theorem State.setCw_tlb (s : State) (x : Welt) : (s.setCw x).tlb = s.tlb := rfl
@[simp] theorem State.setCw_tlb2 (s : State) (x : Welt) : (s.setCw x).tlb2 = s.tlb2 := rfl
@[simp] theorem State.setCw_walks (s : State) (x : Welt) : (s.setCw x).walks = s.walks := rfl
@[simp] theorem State.setCw_veils (s : State) (x : Welt) : (s.setCw x).veils = s.veils := rfl
@[simp] theorem State.setCw_nextVeil (s : State) (x : Welt) : (s.setCw x).nextVeil = s.nextVeil := rfl
@[simp] theorem State.setCw_messages (s : State) (x : Welt) : (s.setCw x).messages = s.messages := rfl
@[simp] theorem State.setCw_stitches (s : State) (x : Welt) : (s.setCw x).stitches = s.stitches := rfl
@[simp] theorem State.setCw_cores (s : State) (x : Welt) : (s.setCw x).cores = s.cores := rfl
@[simp] theorem State.setCw_rings (s : State) (x : Welt) : (s.setCw x).rings = s.rings := rfl
@[simp] theorem State.setCw_turn (s : State) (x : Welt) : (s.setCw x).turn = s.turn := rfl
@[simp] theorem State.setCw_tick (s : State) (x : Welt) : (s.setCw x).tick = s.tick := rfl
@[simp] theorem State.setCw_cur (s : State) (x : Welt) : (s.setCw x).cur = s.cur := rfl
@[simp] theorem State.setCw_agenda (s : State) (x : Welt) : (s.setCw x).agenda = s.agenda := rfl
@[simp] theorem State.setCw_inbox (s : State) (x : Welt) : (s.setCw x).inbox = s.inbox := rfl

/-! ### State.setWgAt -/

@[simp] theorem State.setWgAt_bringup (s : State) (i : Nat) (x : Wg) : (s.setWgAt i x).bringup = s.bringup := rfl
@[simp] theorem State.setWgAt_corrected (s : State) (i : Nat) (x : Wg) : (s.setWgAt i x).corrected = s.corrected := rfl
@[simp] theorem State.setWgAt_countedAt (s : State) (i : Nat) (x : Wg) : (s.setWgAt i x).countedAt = s.countedAt := rfl
@[simp] theorem State.setWgAt_now (s : State) (i : Nat) (x : Wg) : (s.setWgAt i x).now = s.now := rfl
@[simp] theorem State.setWgAt_mem (s : State) (i : Nat) (x : Wg) : (s.setWgAt i x).mem = s.mem := rfl
@[simp] theorem State.setWgAt_host (s : State) (i : Nat) (x : Wg) : (s.setWgAt i x).host = s.host := rfl
@[simp] theorem State.setWgAt_bad (s : State) (i : Nat) (x : Wg) : (s.setWgAt i x).bad = s.bad := rfl
@[simp] theorem State.setWgAt_badCells (s : State) (i : Nat) (x : Wg) : (s.setWgAt i x).badCells = s.badCells := rfl
@[simp] theorem State.setWgAt_fused (s : State) (i : Nat) (x : Wg) : (s.setWgAt i x).fused = s.fused := rfl
@[simp] theorem State.setWgAt_lost (s : State) (i : Nat) (x : Wg) : (s.setWgAt i x).lost = s.lost := rfl
@[simp] theorem State.setWgAt_secVersion (s : State) (i : Nat) (x : Wg) : (s.setWgAt i x).secVersion = s.secVersion := rfl
@[simp] theorem State.setWgAt_mgmtTvec (s : State) (i : Nat) (x : Wg) : (s.setWgAt i x).mgmtTvec = s.mgmtTvec := rfl
@[simp] theorem State.setWgAt_mgmtOut (s : State) (i : Nat) (x : Wg) : (s.setWgAt i x).mgmtOut = s.mgmtOut := rfl
@[simp] theorem State.setWgAt_sent (s : State) (i : Nat) (x : Wg) : (s.setWgAt i x).sent = s.sent := rfl
@[simp] theorem State.setWgAt_dataOut (s : State) (i : Nat) (x : Wg) : (s.setWgAt i x).dataOut = s.dataOut := rfl
@[simp] theorem State.setWgAt_parts (s : State) (i : Nat) (x : Wg) : (s.setWgAt i x).parts = s.parts := rfl
@[simp] theorem State.setWgAt_ctxs (s : State) (i : Nat) (x : Wg) : (s.setWgAt i x).ctxs = s.ctxs := rfl
@[simp] theorem State.setWgAt_launches (s : State) (i : Nat) (x : Wg) : (s.setWgAt i x).launches = s.launches := rfl
@[simp] theorem State.setWgAt_welts (s : State) (i : Nat) (x : Wg) : (s.setWgAt i x).welts = s.welts := rfl
@[simp] theorem State.setWgAt_phasers (s : State) (i : Nat) (x : Wg) : (s.setWgAt i x).phasers = s.phasers := rfl
@[simp] theorem State.setWgAt_nextPhaser (s : State) (i : Nat) (x : Wg) : (s.setWgAt i x).nextPhaser = s.nextPhaser := rfl
@[simp] theorem State.setWgAt_locks (s : State) (i : Nat) (x : Wg) : (s.setWgAt i x).locks = s.locks := rfl
@[simp] theorem State.setWgAt_regions (s : State) (i : Nat) (x : Wg) : (s.setWgAt i x).regions = s.regions := rfl
@[simp] theorem State.setWgAt_ranges (s : State) (i : Nat) (x : Wg) : (s.setWgAt i x).ranges = s.ranges := rfl
@[simp] theorem State.setWgAt_pooled (s : State) (i : Nat) (x : Wg) : (s.setWgAt i x).pooled = s.pooled := rfl
@[simp] theorem State.setWgAt_pooledPartials (s : State) (i : Nat) (x : Wg) : (s.setWgAt i x).pooledPartials = s.pooledPartials := rfl
@[simp] theorem State.setWgAt_copies (s : State) (i : Nat) (x : Wg) : (s.setWgAt i x).copies = s.copies := rfl
@[simp] theorem State.setWgAt_pages (s : State) (i : Nat) (x : Wg) : (s.setWgAt i x).pages = s.pages := rfl
@[simp] theorem State.setWgAt_uses (s : State) (i : Nat) (x : Wg) : (s.setWgAt i x).uses = s.uses := rfl
@[simp] theorem State.setWgAt_dir (s : State) (i : Nat) (x : Wg) : (s.setWgAt i x).dir = s.dir := rfl
@[simp] theorem State.setWgAt_cached (s : State) (i : Nat) (x : Wg) : (s.setWgAt i x).cached = s.cached := rfl
@[simp] theorem State.setWgAt_l2 (s : State) (i : Nat) (x : Wg) : (s.setWgAt i x).l2 = s.l2 := rfl
@[simp] theorem State.setWgAt_writeBacks (s : State) (i : Nat) (x : Wg) : (s.setWgAt i x).writeBacks = s.writeBacks := rfl
@[simp] theorem State.setWgAt_tlb (s : State) (i : Nat) (x : Wg) : (s.setWgAt i x).tlb = s.tlb := rfl
@[simp] theorem State.setWgAt_tlb2 (s : State) (i : Nat) (x : Wg) : (s.setWgAt i x).tlb2 = s.tlb2 := rfl
@[simp] theorem State.setWgAt_walks (s : State) (i : Nat) (x : Wg) : (s.setWgAt i x).walks = s.walks := rfl
@[simp] theorem State.setWgAt_veils (s : State) (i : Nat) (x : Wg) : (s.setWgAt i x).veils = s.veils := rfl
@[simp] theorem State.setWgAt_nextVeil (s : State) (i : Nat) (x : Wg) : (s.setWgAt i x).nextVeil = s.nextVeil := rfl
@[simp] theorem State.setWgAt_messages (s : State) (i : Nat) (x : Wg) : (s.setWgAt i x).messages = s.messages := rfl
@[simp] theorem State.setWgAt_stitches (s : State) (i : Nat) (x : Wg) : (s.setWgAt i x).stitches = s.stitches := rfl
@[simp] theorem State.setWgAt_cores (s : State) (i : Nat) (x : Wg) : (s.setWgAt i x).cores = s.cores := rfl
@[simp] theorem State.setWgAt_rings (s : State) (i : Nat) (x : Wg) : (s.setWgAt i x).rings = s.rings := rfl
@[simp] theorem State.setWgAt_turn (s : State) (i : Nat) (x : Wg) : (s.setWgAt i x).turn = s.turn := rfl
@[simp] theorem State.setWgAt_tick (s : State) (i : Nat) (x : Wg) : (s.setWgAt i x).tick = s.tick := rfl
@[simp] theorem State.setWgAt_cur (s : State) (i : Nat) (x : Wg) : (s.setWgAt i x).cur = s.cur := rfl
@[simp] theorem State.setWgAt_agenda (s : State) (i : Nat) (x : Wg) : (s.setWgAt i x).agenda = s.agenda := rfl
@[simp] theorem State.setWgAt_inbox (s : State) (i : Nat) (x : Wg) : (s.setWgAt i x).inbox = s.inbox := rfl

/-! ### State.setCg -/

@[simp] theorem State.setCg_bringup (s : State) (x : Wg) : (s.setCg x).bringup = s.bringup := rfl
@[simp] theorem State.setCg_corrected (s : State) (x : Wg) : (s.setCg x).corrected = s.corrected := rfl
@[simp] theorem State.setCg_countedAt (s : State) (x : Wg) : (s.setCg x).countedAt = s.countedAt := rfl
@[simp] theorem State.setCg_now (s : State) (x : Wg) : (s.setCg x).now = s.now := rfl
@[simp] theorem State.setCg_mem (s : State) (x : Wg) : (s.setCg x).mem = s.mem := rfl
@[simp] theorem State.setCg_host (s : State) (x : Wg) : (s.setCg x).host = s.host := rfl
@[simp] theorem State.setCg_bad (s : State) (x : Wg) : (s.setCg x).bad = s.bad := rfl
@[simp] theorem State.setCg_badCells (s : State) (x : Wg) : (s.setCg x).badCells = s.badCells := rfl
@[simp] theorem State.setCg_fused (s : State) (x : Wg) : (s.setCg x).fused = s.fused := rfl
@[simp] theorem State.setCg_lost (s : State) (x : Wg) : (s.setCg x).lost = s.lost := rfl
@[simp] theorem State.setCg_secVersion (s : State) (x : Wg) : (s.setCg x).secVersion = s.secVersion := rfl
@[simp] theorem State.setCg_mgmtTvec (s : State) (x : Wg) : (s.setCg x).mgmtTvec = s.mgmtTvec := rfl
@[simp] theorem State.setCg_mgmtOut (s : State) (x : Wg) : (s.setCg x).mgmtOut = s.mgmtOut := rfl
@[simp] theorem State.setCg_sent (s : State) (x : Wg) : (s.setCg x).sent = s.sent := rfl
@[simp] theorem State.setCg_dataOut (s : State) (x : Wg) : (s.setCg x).dataOut = s.dataOut := rfl
@[simp] theorem State.setCg_parts (s : State) (x : Wg) : (s.setCg x).parts = s.parts := rfl
@[simp] theorem State.setCg_ctxs (s : State) (x : Wg) : (s.setCg x).ctxs = s.ctxs := rfl
@[simp] theorem State.setCg_launches (s : State) (x : Wg) : (s.setCg x).launches = s.launches := rfl
@[simp] theorem State.setCg_welts (s : State) (x : Wg) : (s.setCg x).welts = s.welts := rfl
@[simp] theorem State.setCg_phasers (s : State) (x : Wg) : (s.setCg x).phasers = s.phasers := rfl
@[simp] theorem State.setCg_nextPhaser (s : State) (x : Wg) : (s.setCg x).nextPhaser = s.nextPhaser := rfl
@[simp] theorem State.setCg_locks (s : State) (x : Wg) : (s.setCg x).locks = s.locks := rfl
@[simp] theorem State.setCg_regions (s : State) (x : Wg) : (s.setCg x).regions = s.regions := rfl
@[simp] theorem State.setCg_ranges (s : State) (x : Wg) : (s.setCg x).ranges = s.ranges := rfl
@[simp] theorem State.setCg_pooled (s : State) (x : Wg) : (s.setCg x).pooled = s.pooled := rfl
@[simp] theorem State.setCg_pooledPartials (s : State) (x : Wg) : (s.setCg x).pooledPartials = s.pooledPartials := rfl
@[simp] theorem State.setCg_copies (s : State) (x : Wg) : (s.setCg x).copies = s.copies := rfl
@[simp] theorem State.setCg_pages (s : State) (x : Wg) : (s.setCg x).pages = s.pages := rfl
@[simp] theorem State.setCg_uses (s : State) (x : Wg) : (s.setCg x).uses = s.uses := rfl
@[simp] theorem State.setCg_dir (s : State) (x : Wg) : (s.setCg x).dir = s.dir := rfl
@[simp] theorem State.setCg_cached (s : State) (x : Wg) : (s.setCg x).cached = s.cached := rfl
@[simp] theorem State.setCg_l2 (s : State) (x : Wg) : (s.setCg x).l2 = s.l2 := rfl
@[simp] theorem State.setCg_writeBacks (s : State) (x : Wg) : (s.setCg x).writeBacks = s.writeBacks := rfl
@[simp] theorem State.setCg_tlb (s : State) (x : Wg) : (s.setCg x).tlb = s.tlb := rfl
@[simp] theorem State.setCg_tlb2 (s : State) (x : Wg) : (s.setCg x).tlb2 = s.tlb2 := rfl
@[simp] theorem State.setCg_walks (s : State) (x : Wg) : (s.setCg x).walks = s.walks := rfl
@[simp] theorem State.setCg_veils (s : State) (x : Wg) : (s.setCg x).veils = s.veils := rfl
@[simp] theorem State.setCg_nextVeil (s : State) (x : Wg) : (s.setCg x).nextVeil = s.nextVeil := rfl
@[simp] theorem State.setCg_messages (s : State) (x : Wg) : (s.setCg x).messages = s.messages := rfl
@[simp] theorem State.setCg_stitches (s : State) (x : Wg) : (s.setCg x).stitches = s.stitches := rfl
@[simp] theorem State.setCg_cores (s : State) (x : Wg) : (s.setCg x).cores = s.cores := rfl
@[simp] theorem State.setCg_rings (s : State) (x : Wg) : (s.setCg x).rings = s.rings := rfl
@[simp] theorem State.setCg_turn (s : State) (x : Wg) : (s.setCg x).turn = s.turn := rfl
@[simp] theorem State.setCg_tick (s : State) (x : Wg) : (s.setCg x).tick = s.tick := rfl
@[simp] theorem State.setCg_cur (s : State) (x : Wg) : (s.setCg x).cur = s.cur := rfl
@[simp] theorem State.setCg_agenda (s : State) (x : Wg) : (s.setCg x).agenda = s.agenda := rfl
@[simp] theorem State.setCg_inbox (s : State) (x : Wg) : (s.setCg x).inbox = s.inbox := rfl

/-! ### State.setLaunchAt -/

@[simp] theorem State.setLaunchAt_bringup (s : State) (i : Nat) (x : Launch) : (s.setLaunchAt i x).bringup = s.bringup := rfl
@[simp] theorem State.setLaunchAt_corrected (s : State) (i : Nat) (x : Launch) : (s.setLaunchAt i x).corrected = s.corrected := rfl
@[simp] theorem State.setLaunchAt_countedAt (s : State) (i : Nat) (x : Launch) : (s.setLaunchAt i x).countedAt = s.countedAt := rfl
@[simp] theorem State.setLaunchAt_now (s : State) (i : Nat) (x : Launch) : (s.setLaunchAt i x).now = s.now := rfl
@[simp] theorem State.setLaunchAt_mem (s : State) (i : Nat) (x : Launch) : (s.setLaunchAt i x).mem = s.mem := rfl
@[simp] theorem State.setLaunchAt_host (s : State) (i : Nat) (x : Launch) : (s.setLaunchAt i x).host = s.host := rfl
@[simp] theorem State.setLaunchAt_bad (s : State) (i : Nat) (x : Launch) : (s.setLaunchAt i x).bad = s.bad := rfl
@[simp] theorem State.setLaunchAt_badCells (s : State) (i : Nat) (x : Launch) : (s.setLaunchAt i x).badCells = s.badCells := rfl
@[simp] theorem State.setLaunchAt_fused (s : State) (i : Nat) (x : Launch) : (s.setLaunchAt i x).fused = s.fused := rfl
@[simp] theorem State.setLaunchAt_lost (s : State) (i : Nat) (x : Launch) : (s.setLaunchAt i x).lost = s.lost := rfl
@[simp] theorem State.setLaunchAt_secVersion (s : State) (i : Nat) (x : Launch) : (s.setLaunchAt i x).secVersion = s.secVersion := rfl
@[simp] theorem State.setLaunchAt_mgmtTvec (s : State) (i : Nat) (x : Launch) : (s.setLaunchAt i x).mgmtTvec = s.mgmtTvec := rfl
@[simp] theorem State.setLaunchAt_mgmtOut (s : State) (i : Nat) (x : Launch) : (s.setLaunchAt i x).mgmtOut = s.mgmtOut := rfl
@[simp] theorem State.setLaunchAt_sent (s : State) (i : Nat) (x : Launch) : (s.setLaunchAt i x).sent = s.sent := rfl
@[simp] theorem State.setLaunchAt_dataOut (s : State) (i : Nat) (x : Launch) : (s.setLaunchAt i x).dataOut = s.dataOut := rfl
@[simp] theorem State.setLaunchAt_parts (s : State) (i : Nat) (x : Launch) : (s.setLaunchAt i x).parts = s.parts := rfl
@[simp] theorem State.setLaunchAt_ctxs (s : State) (i : Nat) (x : Launch) : (s.setLaunchAt i x).ctxs = s.ctxs := rfl
@[simp] theorem State.setLaunchAt_wgs (s : State) (i : Nat) (x : Launch) : (s.setLaunchAt i x).wgs = s.wgs := rfl
@[simp] theorem State.setLaunchAt_welts (s : State) (i : Nat) (x : Launch) : (s.setLaunchAt i x).welts = s.welts := rfl
@[simp] theorem State.setLaunchAt_phasers (s : State) (i : Nat) (x : Launch) : (s.setLaunchAt i x).phasers = s.phasers := rfl
@[simp] theorem State.setLaunchAt_nextPhaser (s : State) (i : Nat) (x : Launch) : (s.setLaunchAt i x).nextPhaser = s.nextPhaser := rfl
@[simp] theorem State.setLaunchAt_locks (s : State) (i : Nat) (x : Launch) : (s.setLaunchAt i x).locks = s.locks := rfl
@[simp] theorem State.setLaunchAt_regions (s : State) (i : Nat) (x : Launch) : (s.setLaunchAt i x).regions = s.regions := rfl
@[simp] theorem State.setLaunchAt_ranges (s : State) (i : Nat) (x : Launch) : (s.setLaunchAt i x).ranges = s.ranges := rfl
@[simp] theorem State.setLaunchAt_pooled (s : State) (i : Nat) (x : Launch) : (s.setLaunchAt i x).pooled = s.pooled := rfl
@[simp] theorem State.setLaunchAt_pooledPartials (s : State) (i : Nat) (x : Launch) : (s.setLaunchAt i x).pooledPartials = s.pooledPartials := rfl
@[simp] theorem State.setLaunchAt_copies (s : State) (i : Nat) (x : Launch) : (s.setLaunchAt i x).copies = s.copies := rfl
@[simp] theorem State.setLaunchAt_pages (s : State) (i : Nat) (x : Launch) : (s.setLaunchAt i x).pages = s.pages := rfl
@[simp] theorem State.setLaunchAt_uses (s : State) (i : Nat) (x : Launch) : (s.setLaunchAt i x).uses = s.uses := rfl
@[simp] theorem State.setLaunchAt_dir (s : State) (i : Nat) (x : Launch) : (s.setLaunchAt i x).dir = s.dir := rfl
@[simp] theorem State.setLaunchAt_cached (s : State) (i : Nat) (x : Launch) : (s.setLaunchAt i x).cached = s.cached := rfl
@[simp] theorem State.setLaunchAt_l2 (s : State) (i : Nat) (x : Launch) : (s.setLaunchAt i x).l2 = s.l2 := rfl
@[simp] theorem State.setLaunchAt_writeBacks (s : State) (i : Nat) (x : Launch) : (s.setLaunchAt i x).writeBacks = s.writeBacks := rfl
@[simp] theorem State.setLaunchAt_tlb (s : State) (i : Nat) (x : Launch) : (s.setLaunchAt i x).tlb = s.tlb := rfl
@[simp] theorem State.setLaunchAt_tlb2 (s : State) (i : Nat) (x : Launch) : (s.setLaunchAt i x).tlb2 = s.tlb2 := rfl
@[simp] theorem State.setLaunchAt_walks (s : State) (i : Nat) (x : Launch) : (s.setLaunchAt i x).walks = s.walks := rfl
@[simp] theorem State.setLaunchAt_veils (s : State) (i : Nat) (x : Launch) : (s.setLaunchAt i x).veils = s.veils := rfl
@[simp] theorem State.setLaunchAt_nextVeil (s : State) (i : Nat) (x : Launch) : (s.setLaunchAt i x).nextVeil = s.nextVeil := rfl
@[simp] theorem State.setLaunchAt_messages (s : State) (i : Nat) (x : Launch) : (s.setLaunchAt i x).messages = s.messages := rfl
@[simp] theorem State.setLaunchAt_stitches (s : State) (i : Nat) (x : Launch) : (s.setLaunchAt i x).stitches = s.stitches := rfl
@[simp] theorem State.setLaunchAt_cores (s : State) (i : Nat) (x : Launch) : (s.setLaunchAt i x).cores = s.cores := rfl
@[simp] theorem State.setLaunchAt_rings (s : State) (i : Nat) (x : Launch) : (s.setLaunchAt i x).rings = s.rings := rfl
@[simp] theorem State.setLaunchAt_turn (s : State) (i : Nat) (x : Launch) : (s.setLaunchAt i x).turn = s.turn := rfl
@[simp] theorem State.setLaunchAt_tick (s : State) (i : Nat) (x : Launch) : (s.setLaunchAt i x).tick = s.tick := rfl
@[simp] theorem State.setLaunchAt_cur (s : State) (i : Nat) (x : Launch) : (s.setLaunchAt i x).cur = s.cur := rfl
@[simp] theorem State.setLaunchAt_agenda (s : State) (i : Nat) (x : Launch) : (s.setLaunchAt i x).agenda = s.agenda := rfl
@[simp] theorem State.setLaunchAt_inbox (s : State) (i : Nat) (x : Launch) : (s.setLaunchAt i x).inbox = s.inbox := rfl

/-! ### State.setCtxAt -/

@[simp] theorem State.setCtxAt_bringup (s : State) (i : Nat) (x : Ctx) : (s.setCtxAt i x).bringup = s.bringup := rfl
@[simp] theorem State.setCtxAt_corrected (s : State) (i : Nat) (x : Ctx) : (s.setCtxAt i x).corrected = s.corrected := rfl
@[simp] theorem State.setCtxAt_countedAt (s : State) (i : Nat) (x : Ctx) : (s.setCtxAt i x).countedAt = s.countedAt := rfl
@[simp] theorem State.setCtxAt_now (s : State) (i : Nat) (x : Ctx) : (s.setCtxAt i x).now = s.now := rfl
@[simp] theorem State.setCtxAt_mem (s : State) (i : Nat) (x : Ctx) : (s.setCtxAt i x).mem = s.mem := rfl
@[simp] theorem State.setCtxAt_host (s : State) (i : Nat) (x : Ctx) : (s.setCtxAt i x).host = s.host := rfl
@[simp] theorem State.setCtxAt_bad (s : State) (i : Nat) (x : Ctx) : (s.setCtxAt i x).bad = s.bad := rfl
@[simp] theorem State.setCtxAt_badCells (s : State) (i : Nat) (x : Ctx) : (s.setCtxAt i x).badCells = s.badCells := rfl
@[simp] theorem State.setCtxAt_fused (s : State) (i : Nat) (x : Ctx) : (s.setCtxAt i x).fused = s.fused := rfl
@[simp] theorem State.setCtxAt_lost (s : State) (i : Nat) (x : Ctx) : (s.setCtxAt i x).lost = s.lost := rfl
@[simp] theorem State.setCtxAt_secVersion (s : State) (i : Nat) (x : Ctx) : (s.setCtxAt i x).secVersion = s.secVersion := rfl
@[simp] theorem State.setCtxAt_mgmtTvec (s : State) (i : Nat) (x : Ctx) : (s.setCtxAt i x).mgmtTvec = s.mgmtTvec := rfl
@[simp] theorem State.setCtxAt_mgmtOut (s : State) (i : Nat) (x : Ctx) : (s.setCtxAt i x).mgmtOut = s.mgmtOut := rfl
@[simp] theorem State.setCtxAt_sent (s : State) (i : Nat) (x : Ctx) : (s.setCtxAt i x).sent = s.sent := rfl
@[simp] theorem State.setCtxAt_dataOut (s : State) (i : Nat) (x : Ctx) : (s.setCtxAt i x).dataOut = s.dataOut := rfl
@[simp] theorem State.setCtxAt_parts (s : State) (i : Nat) (x : Ctx) : (s.setCtxAt i x).parts = s.parts := rfl
@[simp] theorem State.setCtxAt_launches (s : State) (i : Nat) (x : Ctx) : (s.setCtxAt i x).launches = s.launches := rfl
@[simp] theorem State.setCtxAt_wgs (s : State) (i : Nat) (x : Ctx) : (s.setCtxAt i x).wgs = s.wgs := rfl
@[simp] theorem State.setCtxAt_welts (s : State) (i : Nat) (x : Ctx) : (s.setCtxAt i x).welts = s.welts := rfl
@[simp] theorem State.setCtxAt_phasers (s : State) (i : Nat) (x : Ctx) : (s.setCtxAt i x).phasers = s.phasers := rfl
@[simp] theorem State.setCtxAt_nextPhaser (s : State) (i : Nat) (x : Ctx) : (s.setCtxAt i x).nextPhaser = s.nextPhaser := rfl
@[simp] theorem State.setCtxAt_locks (s : State) (i : Nat) (x : Ctx) : (s.setCtxAt i x).locks = s.locks := rfl
@[simp] theorem State.setCtxAt_regions (s : State) (i : Nat) (x : Ctx) : (s.setCtxAt i x).regions = s.regions := rfl
@[simp] theorem State.setCtxAt_ranges (s : State) (i : Nat) (x : Ctx) : (s.setCtxAt i x).ranges = s.ranges := rfl
@[simp] theorem State.setCtxAt_pooled (s : State) (i : Nat) (x : Ctx) : (s.setCtxAt i x).pooled = s.pooled := rfl
@[simp] theorem State.setCtxAt_pooledPartials (s : State) (i : Nat) (x : Ctx) : (s.setCtxAt i x).pooledPartials = s.pooledPartials := rfl
@[simp] theorem State.setCtxAt_copies (s : State) (i : Nat) (x : Ctx) : (s.setCtxAt i x).copies = s.copies := rfl
@[simp] theorem State.setCtxAt_pages (s : State) (i : Nat) (x : Ctx) : (s.setCtxAt i x).pages = s.pages := rfl
@[simp] theorem State.setCtxAt_uses (s : State) (i : Nat) (x : Ctx) : (s.setCtxAt i x).uses = s.uses := rfl
@[simp] theorem State.setCtxAt_dir (s : State) (i : Nat) (x : Ctx) : (s.setCtxAt i x).dir = s.dir := rfl
@[simp] theorem State.setCtxAt_cached (s : State) (i : Nat) (x : Ctx) : (s.setCtxAt i x).cached = s.cached := rfl
@[simp] theorem State.setCtxAt_l2 (s : State) (i : Nat) (x : Ctx) : (s.setCtxAt i x).l2 = s.l2 := rfl
@[simp] theorem State.setCtxAt_writeBacks (s : State) (i : Nat) (x : Ctx) : (s.setCtxAt i x).writeBacks = s.writeBacks := rfl
@[simp] theorem State.setCtxAt_tlb (s : State) (i : Nat) (x : Ctx) : (s.setCtxAt i x).tlb = s.tlb := rfl
@[simp] theorem State.setCtxAt_tlb2 (s : State) (i : Nat) (x : Ctx) : (s.setCtxAt i x).tlb2 = s.tlb2 := rfl
@[simp] theorem State.setCtxAt_walks (s : State) (i : Nat) (x : Ctx) : (s.setCtxAt i x).walks = s.walks := rfl
@[simp] theorem State.setCtxAt_veils (s : State) (i : Nat) (x : Ctx) : (s.setCtxAt i x).veils = s.veils := rfl
@[simp] theorem State.setCtxAt_nextVeil (s : State) (i : Nat) (x : Ctx) : (s.setCtxAt i x).nextVeil = s.nextVeil := rfl
@[simp] theorem State.setCtxAt_messages (s : State) (i : Nat) (x : Ctx) : (s.setCtxAt i x).messages = s.messages := rfl
@[simp] theorem State.setCtxAt_stitches (s : State) (i : Nat) (x : Ctx) : (s.setCtxAt i x).stitches = s.stitches := rfl
@[simp] theorem State.setCtxAt_cores (s : State) (i : Nat) (x : Ctx) : (s.setCtxAt i x).cores = s.cores := rfl
@[simp] theorem State.setCtxAt_rings (s : State) (i : Nat) (x : Ctx) : (s.setCtxAt i x).rings = s.rings := rfl
@[simp] theorem State.setCtxAt_turn (s : State) (i : Nat) (x : Ctx) : (s.setCtxAt i x).turn = s.turn := rfl
@[simp] theorem State.setCtxAt_tick (s : State) (i : Nat) (x : Ctx) : (s.setCtxAt i x).tick = s.tick := rfl
@[simp] theorem State.setCtxAt_cur (s : State) (i : Nat) (x : Ctx) : (s.setCtxAt i x).cur = s.cur := rfl
@[simp] theorem State.setCtxAt_agenda (s : State) (i : Nat) (x : Ctx) : (s.setCtxAt i x).agenda = s.agenda := rfl
@[simp] theorem State.setCtxAt_inbox (s : State) (i : Nat) (x : Ctx) : (s.setCtxAt i x).inbox = s.inbox := rfl

/-! ### State.setCoreAt -/

@[simp] theorem State.setCoreAt_bringup (s : State) (i : Nat) (x : Core) : (s.setCoreAt i x).bringup = s.bringup := rfl
@[simp] theorem State.setCoreAt_corrected (s : State) (i : Nat) (x : Core) : (s.setCoreAt i x).corrected = s.corrected := rfl
@[simp] theorem State.setCoreAt_countedAt (s : State) (i : Nat) (x : Core) : (s.setCoreAt i x).countedAt = s.countedAt := rfl
@[simp] theorem State.setCoreAt_now (s : State) (i : Nat) (x : Core) : (s.setCoreAt i x).now = s.now := rfl
@[simp] theorem State.setCoreAt_mem (s : State) (i : Nat) (x : Core) : (s.setCoreAt i x).mem = s.mem := rfl
@[simp] theorem State.setCoreAt_host (s : State) (i : Nat) (x : Core) : (s.setCoreAt i x).host = s.host := rfl
@[simp] theorem State.setCoreAt_bad (s : State) (i : Nat) (x : Core) : (s.setCoreAt i x).bad = s.bad := rfl
@[simp] theorem State.setCoreAt_badCells (s : State) (i : Nat) (x : Core) : (s.setCoreAt i x).badCells = s.badCells := rfl
@[simp] theorem State.setCoreAt_fused (s : State) (i : Nat) (x : Core) : (s.setCoreAt i x).fused = s.fused := rfl
@[simp] theorem State.setCoreAt_lost (s : State) (i : Nat) (x : Core) : (s.setCoreAt i x).lost = s.lost := rfl
@[simp] theorem State.setCoreAt_secVersion (s : State) (i : Nat) (x : Core) : (s.setCoreAt i x).secVersion = s.secVersion := rfl
@[simp] theorem State.setCoreAt_mgmtTvec (s : State) (i : Nat) (x : Core) : (s.setCoreAt i x).mgmtTvec = s.mgmtTvec := rfl
@[simp] theorem State.setCoreAt_mgmtOut (s : State) (i : Nat) (x : Core) : (s.setCoreAt i x).mgmtOut = s.mgmtOut := rfl
@[simp] theorem State.setCoreAt_sent (s : State) (i : Nat) (x : Core) : (s.setCoreAt i x).sent = s.sent := rfl
@[simp] theorem State.setCoreAt_dataOut (s : State) (i : Nat) (x : Core) : (s.setCoreAt i x).dataOut = s.dataOut := rfl
@[simp] theorem State.setCoreAt_parts (s : State) (i : Nat) (x : Core) : (s.setCoreAt i x).parts = s.parts := rfl
@[simp] theorem State.setCoreAt_ctxs (s : State) (i : Nat) (x : Core) : (s.setCoreAt i x).ctxs = s.ctxs := rfl
@[simp] theorem State.setCoreAt_launches (s : State) (i : Nat) (x : Core) : (s.setCoreAt i x).launches = s.launches := rfl
@[simp] theorem State.setCoreAt_wgs (s : State) (i : Nat) (x : Core) : (s.setCoreAt i x).wgs = s.wgs := rfl
@[simp] theorem State.setCoreAt_welts (s : State) (i : Nat) (x : Core) : (s.setCoreAt i x).welts = s.welts := rfl
@[simp] theorem State.setCoreAt_phasers (s : State) (i : Nat) (x : Core) : (s.setCoreAt i x).phasers = s.phasers := rfl
@[simp] theorem State.setCoreAt_nextPhaser (s : State) (i : Nat) (x : Core) : (s.setCoreAt i x).nextPhaser = s.nextPhaser := rfl
@[simp] theorem State.setCoreAt_locks (s : State) (i : Nat) (x : Core) : (s.setCoreAt i x).locks = s.locks := rfl
@[simp] theorem State.setCoreAt_regions (s : State) (i : Nat) (x : Core) : (s.setCoreAt i x).regions = s.regions := rfl
@[simp] theorem State.setCoreAt_ranges (s : State) (i : Nat) (x : Core) : (s.setCoreAt i x).ranges = s.ranges := rfl
@[simp] theorem State.setCoreAt_pooled (s : State) (i : Nat) (x : Core) : (s.setCoreAt i x).pooled = s.pooled := rfl
@[simp] theorem State.setCoreAt_pooledPartials (s : State) (i : Nat) (x : Core) : (s.setCoreAt i x).pooledPartials = s.pooledPartials := rfl
@[simp] theorem State.setCoreAt_copies (s : State) (i : Nat) (x : Core) : (s.setCoreAt i x).copies = s.copies := rfl
@[simp] theorem State.setCoreAt_pages (s : State) (i : Nat) (x : Core) : (s.setCoreAt i x).pages = s.pages := rfl
@[simp] theorem State.setCoreAt_uses (s : State) (i : Nat) (x : Core) : (s.setCoreAt i x).uses = s.uses := rfl
@[simp] theorem State.setCoreAt_dir (s : State) (i : Nat) (x : Core) : (s.setCoreAt i x).dir = s.dir := rfl
@[simp] theorem State.setCoreAt_cached (s : State) (i : Nat) (x : Core) : (s.setCoreAt i x).cached = s.cached := rfl
@[simp] theorem State.setCoreAt_l2 (s : State) (i : Nat) (x : Core) : (s.setCoreAt i x).l2 = s.l2 := rfl
@[simp] theorem State.setCoreAt_writeBacks (s : State) (i : Nat) (x : Core) : (s.setCoreAt i x).writeBacks = s.writeBacks := rfl
@[simp] theorem State.setCoreAt_tlb (s : State) (i : Nat) (x : Core) : (s.setCoreAt i x).tlb = s.tlb := rfl
@[simp] theorem State.setCoreAt_tlb2 (s : State) (i : Nat) (x : Core) : (s.setCoreAt i x).tlb2 = s.tlb2 := rfl
@[simp] theorem State.setCoreAt_walks (s : State) (i : Nat) (x : Core) : (s.setCoreAt i x).walks = s.walks := rfl
@[simp] theorem State.setCoreAt_veils (s : State) (i : Nat) (x : Core) : (s.setCoreAt i x).veils = s.veils := rfl
@[simp] theorem State.setCoreAt_nextVeil (s : State) (i : Nat) (x : Core) : (s.setCoreAt i x).nextVeil = s.nextVeil := rfl
@[simp] theorem State.setCoreAt_messages (s : State) (i : Nat) (x : Core) : (s.setCoreAt i x).messages = s.messages := rfl
@[simp] theorem State.setCoreAt_stitches (s : State) (i : Nat) (x : Core) : (s.setCoreAt i x).stitches = s.stitches := rfl
@[simp] theorem State.setCoreAt_rings (s : State) (i : Nat) (x : Core) : (s.setCoreAt i x).rings = s.rings := rfl
@[simp] theorem State.setCoreAt_turn (s : State) (i : Nat) (x : Core) : (s.setCoreAt i x).turn = s.turn := rfl
@[simp] theorem State.setCoreAt_tick (s : State) (i : Nat) (x : Core) : (s.setCoreAt i x).tick = s.tick := rfl
@[simp] theorem State.setCoreAt_cur (s : State) (i : Nat) (x : Core) : (s.setCoreAt i x).cur = s.cur := rfl
@[simp] theorem State.setCoreAt_agenda (s : State) (i : Nat) (x : Core) : (s.setCoreAt i x).agenda = s.agenda := rfl
@[simp] theorem State.setCoreAt_inbox (s : State) (i : Nat) (x : Core) : (s.setCoreAt i x).inbox = s.inbox := rfl

/-! ### State.post -/

@[simp] theorem State.post_bringup (s : State) (x : Instr) : (s.post x).bringup = s.bringup := rfl
@[simp] theorem State.post_corrected (s : State) (x : Instr) : (s.post x).corrected = s.corrected := rfl
@[simp] theorem State.post_countedAt (s : State) (x : Instr) : (s.post x).countedAt = s.countedAt := rfl
@[simp] theorem State.post_now (s : State) (x : Instr) : (s.post x).now = s.now := rfl
@[simp] theorem State.post_mem (s : State) (x : Instr) : (s.post x).mem = s.mem := rfl
@[simp] theorem State.post_host (s : State) (x : Instr) : (s.post x).host = s.host := rfl
@[simp] theorem State.post_bad (s : State) (x : Instr) : (s.post x).bad = s.bad := rfl
@[simp] theorem State.post_badCells (s : State) (x : Instr) : (s.post x).badCells = s.badCells := rfl
@[simp] theorem State.post_fused (s : State) (x : Instr) : (s.post x).fused = s.fused := rfl
@[simp] theorem State.post_lost (s : State) (x : Instr) : (s.post x).lost = s.lost := rfl
@[simp] theorem State.post_secVersion (s : State) (x : Instr) : (s.post x).secVersion = s.secVersion := rfl
@[simp] theorem State.post_mgmtTvec (s : State) (x : Instr) : (s.post x).mgmtTvec = s.mgmtTvec := rfl
@[simp] theorem State.post_mgmtOut (s : State) (x : Instr) : (s.post x).mgmtOut = s.mgmtOut := rfl
@[simp] theorem State.post_sent (s : State) (x : Instr) : (s.post x).sent = s.sent := rfl
@[simp] theorem State.post_dataOut (s : State) (x : Instr) : (s.post x).dataOut = s.dataOut := rfl
@[simp] theorem State.post_parts (s : State) (x : Instr) : (s.post x).parts = s.parts := rfl
@[simp] theorem State.post_ctxs (s : State) (x : Instr) : (s.post x).ctxs = s.ctxs := rfl
@[simp] theorem State.post_launches (s : State) (x : Instr) : (s.post x).launches = s.launches := rfl
@[simp] theorem State.post_wgs (s : State) (x : Instr) : (s.post x).wgs = s.wgs := rfl
@[simp] theorem State.post_welts (s : State) (x : Instr) : (s.post x).welts = s.welts := rfl
@[simp] theorem State.post_phasers (s : State) (x : Instr) : (s.post x).phasers = s.phasers := rfl
@[simp] theorem State.post_nextPhaser (s : State) (x : Instr) : (s.post x).nextPhaser = s.nextPhaser := rfl
@[simp] theorem State.post_locks (s : State) (x : Instr) : (s.post x).locks = s.locks := rfl
@[simp] theorem State.post_regions (s : State) (x : Instr) : (s.post x).regions = s.regions := rfl
@[simp] theorem State.post_ranges (s : State) (x : Instr) : (s.post x).ranges = s.ranges := rfl
@[simp] theorem State.post_pooled (s : State) (x : Instr) : (s.post x).pooled = s.pooled := rfl
@[simp] theorem State.post_pooledPartials (s : State) (x : Instr) : (s.post x).pooledPartials = s.pooledPartials := rfl
@[simp] theorem State.post_copies (s : State) (x : Instr) : (s.post x).copies = s.copies := rfl
@[simp] theorem State.post_pages (s : State) (x : Instr) : (s.post x).pages = s.pages := rfl
@[simp] theorem State.post_uses (s : State) (x : Instr) : (s.post x).uses = s.uses := rfl
@[simp] theorem State.post_dir (s : State) (x : Instr) : (s.post x).dir = s.dir := rfl
@[simp] theorem State.post_cached (s : State) (x : Instr) : (s.post x).cached = s.cached := rfl
@[simp] theorem State.post_l2 (s : State) (x : Instr) : (s.post x).l2 = s.l2 := rfl
@[simp] theorem State.post_writeBacks (s : State) (x : Instr) : (s.post x).writeBacks = s.writeBacks := rfl
@[simp] theorem State.post_tlb (s : State) (x : Instr) : (s.post x).tlb = s.tlb := rfl
@[simp] theorem State.post_tlb2 (s : State) (x : Instr) : (s.post x).tlb2 = s.tlb2 := rfl
@[simp] theorem State.post_walks (s : State) (x : Instr) : (s.post x).walks = s.walks := rfl
@[simp] theorem State.post_veils (s : State) (x : Instr) : (s.post x).veils = s.veils := rfl
@[simp] theorem State.post_nextVeil (s : State) (x : Instr) : (s.post x).nextVeil = s.nextVeil := rfl
@[simp] theorem State.post_messages (s : State) (x : Instr) : (s.post x).messages = s.messages := rfl
@[simp] theorem State.post_stitches (s : State) (x : Instr) : (s.post x).stitches = s.stitches := rfl
@[simp] theorem State.post_cores (s : State) (x : Instr) : (s.post x).cores = s.cores := rfl
@[simp] theorem State.post_rings (s : State) (x : Instr) : (s.post x).rings = s.rings := rfl
@[simp] theorem State.post_turn (s : State) (x : Instr) : (s.post x).turn = s.turn := rfl
@[simp] theorem State.post_tick (s : State) (x : Instr) : (s.post x).tick = s.tick := rfl
@[simp] theorem State.post_cur (s : State) (x : Instr) : (s.post x).cur = s.cur := rfl
@[simp] theorem State.post_inbox (s : State) (x : Instr) : (s.post x).inbox = s.inbox := rfl

/-! ### State.setPart -/

@[simp] theorem State.setPart_bringup (s : State) (x : Part) : (s.setPart x).bringup = s.bringup := rfl
@[simp] theorem State.setPart_corrected (s : State) (x : Part) : (s.setPart x).corrected = s.corrected := rfl
@[simp] theorem State.setPart_countedAt (s : State) (x : Part) : (s.setPart x).countedAt = s.countedAt := rfl
@[simp] theorem State.setPart_now (s : State) (x : Part) : (s.setPart x).now = s.now := rfl
@[simp] theorem State.setPart_mem (s : State) (x : Part) : (s.setPart x).mem = s.mem := rfl
@[simp] theorem State.setPart_host (s : State) (x : Part) : (s.setPart x).host = s.host := rfl
@[simp] theorem State.setPart_bad (s : State) (x : Part) : (s.setPart x).bad = s.bad := rfl
@[simp] theorem State.setPart_badCells (s : State) (x : Part) : (s.setPart x).badCells = s.badCells := rfl
@[simp] theorem State.setPart_fused (s : State) (x : Part) : (s.setPart x).fused = s.fused := rfl
@[simp] theorem State.setPart_lost (s : State) (x : Part) : (s.setPart x).lost = s.lost := rfl
@[simp] theorem State.setPart_secVersion (s : State) (x : Part) : (s.setPart x).secVersion = s.secVersion := rfl
@[simp] theorem State.setPart_mgmtTvec (s : State) (x : Part) : (s.setPart x).mgmtTvec = s.mgmtTvec := rfl
@[simp] theorem State.setPart_mgmtOut (s : State) (x : Part) : (s.setPart x).mgmtOut = s.mgmtOut := rfl
@[simp] theorem State.setPart_sent (s : State) (x : Part) : (s.setPart x).sent = s.sent := rfl
@[simp] theorem State.setPart_dataOut (s : State) (x : Part) : (s.setPart x).dataOut = s.dataOut := rfl
@[simp] theorem State.setPart_ctxs (s : State) (x : Part) : (s.setPart x).ctxs = s.ctxs := rfl
@[simp] theorem State.setPart_launches (s : State) (x : Part) : (s.setPart x).launches = s.launches := rfl
@[simp] theorem State.setPart_wgs (s : State) (x : Part) : (s.setPart x).wgs = s.wgs := rfl
@[simp] theorem State.setPart_welts (s : State) (x : Part) : (s.setPart x).welts = s.welts := rfl
@[simp] theorem State.setPart_phasers (s : State) (x : Part) : (s.setPart x).phasers = s.phasers := rfl
@[simp] theorem State.setPart_nextPhaser (s : State) (x : Part) : (s.setPart x).nextPhaser = s.nextPhaser := rfl
@[simp] theorem State.setPart_locks (s : State) (x : Part) : (s.setPart x).locks = s.locks := rfl
@[simp] theorem State.setPart_regions (s : State) (x : Part) : (s.setPart x).regions = s.regions := rfl
@[simp] theorem State.setPart_ranges (s : State) (x : Part) : (s.setPart x).ranges = s.ranges := rfl
@[simp] theorem State.setPart_pooled (s : State) (x : Part) : (s.setPart x).pooled = s.pooled := rfl
@[simp] theorem State.setPart_pooledPartials (s : State) (x : Part) : (s.setPart x).pooledPartials = s.pooledPartials := rfl
@[simp] theorem State.setPart_copies (s : State) (x : Part) : (s.setPart x).copies = s.copies := rfl
@[simp] theorem State.setPart_pages (s : State) (x : Part) : (s.setPart x).pages = s.pages := rfl
@[simp] theorem State.setPart_uses (s : State) (x : Part) : (s.setPart x).uses = s.uses := rfl
@[simp] theorem State.setPart_dir (s : State) (x : Part) : (s.setPart x).dir = s.dir := rfl
@[simp] theorem State.setPart_cached (s : State) (x : Part) : (s.setPart x).cached = s.cached := rfl
@[simp] theorem State.setPart_l2 (s : State) (x : Part) : (s.setPart x).l2 = s.l2 := rfl
@[simp] theorem State.setPart_writeBacks (s : State) (x : Part) : (s.setPart x).writeBacks = s.writeBacks := rfl
@[simp] theorem State.setPart_tlb (s : State) (x : Part) : (s.setPart x).tlb = s.tlb := rfl
@[simp] theorem State.setPart_tlb2 (s : State) (x : Part) : (s.setPart x).tlb2 = s.tlb2 := rfl
@[simp] theorem State.setPart_walks (s : State) (x : Part) : (s.setPart x).walks = s.walks := rfl
@[simp] theorem State.setPart_veils (s : State) (x : Part) : (s.setPart x).veils = s.veils := rfl
@[simp] theorem State.setPart_nextVeil (s : State) (x : Part) : (s.setPart x).nextVeil = s.nextVeil := rfl
@[simp] theorem State.setPart_messages (s : State) (x : Part) : (s.setPart x).messages = s.messages := rfl
@[simp] theorem State.setPart_stitches (s : State) (x : Part) : (s.setPart x).stitches = s.stitches := rfl
@[simp] theorem State.setPart_cores (s : State) (x : Part) : (s.setPart x).cores = s.cores := rfl
@[simp] theorem State.setPart_rings (s : State) (x : Part) : (s.setPart x).rings = s.rings := rfl
@[simp] theorem State.setPart_turn (s : State) (x : Part) : (s.setPart x).turn = s.turn := rfl
@[simp] theorem State.setPart_tick (s : State) (x : Part) : (s.setPart x).tick = s.tick := rfl
@[simp] theorem State.setPart_cur (s : State) (x : Part) : (s.setPart x).cur = s.cur := rfl
@[simp] theorem State.setPart_agenda (s : State) (x : Part) : (s.setPart x).agenda = s.agenda := rfl
@[simp] theorem State.setPart_inbox (s : State) (x : Part) : (s.setPart x).inbox = s.inbox := rfl

/-! ### Welt.mapLanes, advance, issued -/

@[simp] theorem Welt.mapLanes_wg (w : Welt) (e : Lanes) (f : Nat → Lane → Lane) : (w.mapLanes e f).wg = w.wg := by
  unfold Welt.mapLanes; rfl
@[simp] theorem Welt.mapLanes_index (w : Welt) (e : Lanes) (f : Nat → Lane → Lane) : (w.mapLanes e f).index = w.index := by
  unfold Welt.mapLanes; rfl
@[simp] theorem Welt.mapLanes_slice (w : Welt) (e : Lanes) (f : Nat → Lane → Lane) : (w.mapLanes e f).slice = w.slice := by
  unfold Welt.mapLanes; rfl
@[simp] theorem Welt.mapLanes_slot (w : Welt) (e : Lanes) (f : Nat → Lane → Lane) : (w.mapLanes e f).slot = w.slot := by
  unfold Welt.mapLanes; rfl
@[simp] theorem Welt.mapLanes_populated (w : Welt) (e : Lanes) (f : Nat → Lane → Lane) : (w.mapLanes e f).populated = w.populated := by
  unfold Welt.mapLanes; rfl
@[simp] theorem Welt.mapLanes_w (w : Welt) (e : Lanes) (f : Nat → Lane → Lane) : (w.mapLanes e f).w = w.w := by
  unfold Welt.mapLanes; rfl
@[simp] theorem Welt.mapLanes_wfull (w : Welt) (e : Lanes) (f : Nat → Lane → Lane) : (w.mapLanes e f).wfull = w.wfull := by
  unfold Welt.mapLanes; rfl
@[simp] theorem Welt.mapLanes_wbad (w : Welt) (e : Lanes) (f : Nat → Lane → Lane) : (w.mapLanes e f).wbad = w.wbad := by
  unfold Welt.mapLanes; rfl
@[simp] theorem Welt.mapLanes_m (w : Welt) (e : Lanes) (f : Nat → Lane → Lane) : (w.mapLanes e f).m = w.m := by
  unfold Welt.mapLanes; rfl
@[simp] theorem Welt.mapLanes_handles (w : Welt) (e : Lanes) (f : Nat → Lane → Lane) : (w.mapLanes e f).handles = w.handles := by
  unfold Welt.mapLanes; rfl
@[simp] theorem Welt.mapLanes_serial (w : Welt) (e : Lanes) (f : Nat → Lane → Lane) : (w.mapLanes e f).serial = w.serial := by
  unfold Welt.mapLanes; rfl
@[simp] theorem Welt.mapLanes_colls (w : Welt) (e : Lanes) (f : Nat → Lane → Lane) : (w.mapLanes e f).colls = w.colls := by
  unfold Welt.mapLanes; rfl
@[simp] theorem Welt.mapLanes_fpctl (w : Welt) (e : Lanes) (f : Nat → Lane → Lane) : (w.mapLanes e f).fpctl = w.fpctl := by
  unfold Welt.mapLanes; rfl
@[simp] theorem Welt.mapLanes_nanrec (w : Welt) (e : Lanes) (f : Nat → Lane → Lane) : (w.mapLanes e f).nanrec = w.nanrec := by
  unfold Welt.mapLanes; rfl
@[simp] theorem Welt.mapLanes_skivestat (w : Welt) (e : Lanes) (f : Nat → Lane → Lane) : (w.mapLanes e f).skivestat = w.skivestat := by
  unfold Welt.mapLanes; rfl
@[simp] theorem Welt.mapLanes_level (w : Welt) (e : Lanes) (f : Nat → Lane → Lane) : (w.mapLanes e f).level = w.level := by
  unfold Welt.mapLanes; rfl
@[simp] theorem Welt.mapLanes_inHandler (w : Welt) (e : Lanes) (f : Nat → Lane → Lane) : (w.mapLanes e f).inHandler = w.inHandler := by
  unfold Welt.mapLanes; rfl
@[simp] theorem Welt.mapLanes_traps (w : Welt) (e : Lanes) (f : Nat → Lane → Lane) : (w.mapLanes e f).traps = w.traps := by
  unfold Welt.mapLanes; rfl
@[simp] theorem Welt.mapLanes_saved (w : Welt) (e : Lanes) (f : Nat → Lane → Lane) : (w.mapLanes e f).saved = w.saved := by
  unfold Welt.mapLanes; rfl
@[simp] theorem Welt.mapLanes_halt (w : Welt) (e : Lanes) (f : Nat → Lane → Lane) : (w.mapLanes e f).halt = w.halt := by
  unfold Welt.mapLanes; rfl
@[simp] theorem Welt.mapLanes_service (w : Welt) (e : Lanes) (f : Nat → Lane → Lane) : (w.mapLanes e f).service = w.service := by
  unfold Welt.mapLanes; rfl
@[simp] theorem Welt.mapLanes_stepping (w : Welt) (e : Lanes) (f : Nat → Lane → Lane) : (w.mapLanes e f).stepping = w.stepping := by
  unfold Welt.mapLanes; rfl
@[simp] theorem Welt.mapLanes_stepPc (w : Welt) (e : Lanes) (f : Nat → Lane → Lane) : (w.mapLanes e f).stepPc = w.stepPc := by
  unfold Welt.mapLanes; rfl
@[simp] theorem Welt.mapLanes_stepDepth (w : Welt) (e : Lanes) (f : Nat → Lane → Lane) : (w.mapLanes e f).stepDepth = w.stepDepth := by
  unfold Welt.mapLanes; rfl
@[simp] theorem Welt.mapLanes_stepLanes (w : Welt) (e : Lanes) (f : Nat → Lane → Lane) : (w.mapLanes e f).stepLanes = w.stepLanes := by
  unfold Welt.mapLanes; rfl
@[simp] theorem Welt.mapLanes_stepDone (w : Welt) (e : Lanes) (f : Nat → Lane → Lane) : (w.mapLanes e f).stepDone = w.stepDone := by
  unfold Welt.mapLanes; rfl
@[simp] theorem Welt.mapLanes_replay (w : Welt) (e : Lanes) (f : Nat → Lane → Lane) : (w.mapLanes e f).replay = w.replay := by
  unfold Welt.mapLanes; rfl
@[simp] theorem Welt.mapLanes_atStart (w : Welt) (e : Lanes) (f : Nat → Lane → Lane) : (w.mapLanes e f).atStart = w.atStart := by
  unfold Welt.mapLanes; rfl
@[simp] theorem Welt.mapLanes_streams (w : Welt) (e : Lanes) (f : Nat → Lane → Lane) : (w.mapLanes e f).streams = w.streams := by
  unfold Welt.mapLanes; rfl
@[simp] theorem Welt.mapLanes_flights (w : Welt) (e : Lanes) (f : Nat → Lane → Lane) : (w.mapLanes e f).flights = w.flights := by
  unfold Welt.mapLanes; rfl
@[simp] theorem Welt.mapLanes_nextFlight (w : Welt) (e : Lanes) (f : Nat → Lane → Lane) : (w.mapLanes e f).nextFlight = w.nextFlight := by
  unfold Welt.mapLanes; rfl
@[simp] theorem Welt.mapLanes_wait (w : Welt) (e : Lanes) (f : Nat → Lane → Lane) : (w.mapLanes e f).wait = w.wait := by
  unfold Welt.mapLanes; rfl
@[simp] theorem Welt.mapLanes_wantPrice (w : Welt) (e : Lanes) (f : Nat → Lane → Lane) : (w.mapLanes e f).wantPrice = w.wantPrice := by
  unfold Welt.mapLanes; rfl
@[simp] theorem Welt.mapLanes_txn (w : Welt) (e : Lanes) (f : Nat → Lane → Lane) : (w.mapLanes e f).txn = w.txn := by
  unfold Welt.mapLanes; rfl
@[simp] theorem Welt.mapLanes_spent (w : Welt) (e : Lanes) (f : Nat → Lane → Lane) : (w.mapLanes e f).spent = w.spent := by
  unfold Welt.mapLanes; rfl
@[simp] theorem Welt.mapLanes_wantSince (w : Welt) (e : Lanes) (f : Nat → Lane → Lane) : (w.mapLanes e f).wantSince = w.wantSince := by
  unfold Welt.mapLanes; rfl
@[simp] theorem Welt.mapLanes_order (w : Welt) (e : Lanes) (f : Nat → Lane → Lane) : (w.mapLanes e f).order = w.order := by
  unfold Welt.mapLanes; rfl
@[simp] theorem Welt.mapLanes_unfenced (w : Welt) (e : Lanes) (f : Nat → Lane → Lane) : (w.mapLanes e f).unfenced = w.unfenced := by
  unfold Welt.mapLanes; rfl
@[simp] theorem Welt.mapLanes_observed (w : Welt) (e : Lanes) (f : Nat → Lane → Lane) : (w.mapLanes e f).observed = w.observed := by
  unfold Welt.mapLanes; rfl
@[simp] theorem Welt.mapLanes_cum (w : Welt) (e : Lanes) (f : Nat → Lane → Lane) : (w.mapLanes e f).cum = w.cum := by
  unfold Welt.mapLanes; rfl
@[simp] theorem Welt.mapLanes_signalled (w : Welt) (e : Lanes) (f : Nat → Lane → Lane) : (w.mapLanes e f).signalled = w.signalled := by
  unfold Welt.mapLanes; rfl
@[simp] theorem Welt.mapLanes_code (w : Welt) (e : Lanes) (f : Nat → Lane → Lane) : (w.mapLanes e f).code = w.code := by
  unfold Welt.mapLanes; rfl
@[simp] theorem Welt.mapLanes_readyAt (w : Welt) (e : Lanes) (f : Nat → Lane → Lane) : (w.mapLanes e f).readyAt = w.readyAt := by
  unfold Welt.mapLanes; rfl
@[simp] theorem Welt.mapLanes_triedAt (w : Welt) (e : Lanes) (f : Nat → Lane → Lane) : (w.mapLanes e f).triedAt = w.triedAt := by
  unfold Welt.mapLanes; rfl
@[simp] theorem Welt.mapLanes_started (w : Welt) (e : Lanes) (f : Nat → Lane → Lane) : (w.mapLanes e f).started = w.started := by
  unfold Welt.mapLanes; rfl
@[simp] theorem Welt.mapLanes_yielded (w : Welt) (e : Lanes) (f : Nat → Lane → Lane) : (w.mapLanes e f).yielded = w.yielded := by
  unfold Welt.mapLanes; rfl
@[simp] theorem Welt.mapLanes_ended (w : Welt) (e : Lanes) (f : Nat → Lane → Lane) : (w.mapLanes e f).ended = w.ended := by
  unfold Welt.mapLanes; rfl
@[simp] theorem Welt.advance_wg (w : Welt) (a : Lanes) (n : Nat) : (w.advance a n).wg = w.wg := by
  unfold Welt.advance; simp
@[simp] theorem Welt.advance_index (w : Welt) (a : Lanes) (n : Nat) : (w.advance a n).index = w.index := by
  unfold Welt.advance; simp
@[simp] theorem Welt.advance_slice (w : Welt) (a : Lanes) (n : Nat) : (w.advance a n).slice = w.slice := by
  unfold Welt.advance; simp
@[simp] theorem Welt.advance_slot (w : Welt) (a : Lanes) (n : Nat) : (w.advance a n).slot = w.slot := by
  unfold Welt.advance; simp
@[simp] theorem Welt.advance_populated (w : Welt) (a : Lanes) (n : Nat) : (w.advance a n).populated = w.populated := by
  unfold Welt.advance; simp
@[simp] theorem Welt.advance_w (w : Welt) (a : Lanes) (n : Nat) : (w.advance a n).w = w.w := by
  unfold Welt.advance; simp
@[simp] theorem Welt.advance_wfull (w : Welt) (a : Lanes) (n : Nat) : (w.advance a n).wfull = w.wfull := by
  unfold Welt.advance; simp
@[simp] theorem Welt.advance_wbad (w : Welt) (a : Lanes) (n : Nat) : (w.advance a n).wbad = w.wbad := by
  unfold Welt.advance; simp
@[simp] theorem Welt.advance_m (w : Welt) (a : Lanes) (n : Nat) : (w.advance a n).m = w.m := by
  unfold Welt.advance; simp
@[simp] theorem Welt.advance_handles (w : Welt) (a : Lanes) (n : Nat) : (w.advance a n).handles = w.handles := by
  unfold Welt.advance; simp
@[simp] theorem Welt.advance_serial (w : Welt) (a : Lanes) (n : Nat) : (w.advance a n).serial = w.serial := by
  unfold Welt.advance; simp
@[simp] theorem Welt.advance_colls (w : Welt) (a : Lanes) (n : Nat) : (w.advance a n).colls = w.colls := by
  unfold Welt.advance; simp
@[simp] theorem Welt.advance_fpctl (w : Welt) (a : Lanes) (n : Nat) : (w.advance a n).fpctl = w.fpctl := by
  unfold Welt.advance; simp
@[simp] theorem Welt.advance_nanrec (w : Welt) (a : Lanes) (n : Nat) : (w.advance a n).nanrec = w.nanrec := by
  unfold Welt.advance; simp
@[simp] theorem Welt.advance_skivestat (w : Welt) (a : Lanes) (n : Nat) : (w.advance a n).skivestat = w.skivestat := by
  unfold Welt.advance; simp
@[simp] theorem Welt.advance_level (w : Welt) (a : Lanes) (n : Nat) : (w.advance a n).level = w.level := by
  unfold Welt.advance; simp
@[simp] theorem Welt.advance_inHandler (w : Welt) (a : Lanes) (n : Nat) : (w.advance a n).inHandler = w.inHandler := by
  unfold Welt.advance; simp
@[simp] theorem Welt.advance_traps (w : Welt) (a : Lanes) (n : Nat) : (w.advance a n).traps = w.traps := by
  unfold Welt.advance; simp
@[simp] theorem Welt.advance_saved (w : Welt) (a : Lanes) (n : Nat) : (w.advance a n).saved = w.saved := by
  unfold Welt.advance; simp
@[simp] theorem Welt.advance_halt (w : Welt) (a : Lanes) (n : Nat) : (w.advance a n).halt = w.halt := by
  unfold Welt.advance; simp
@[simp] theorem Welt.advance_service (w : Welt) (a : Lanes) (n : Nat) : (w.advance a n).service = w.service := by
  unfold Welt.advance; simp
@[simp] theorem Welt.advance_stepping (w : Welt) (a : Lanes) (n : Nat) : (w.advance a n).stepping = w.stepping := by
  unfold Welt.advance; simp
@[simp] theorem Welt.advance_stepPc (w : Welt) (a : Lanes) (n : Nat) : (w.advance a n).stepPc = w.stepPc := by
  unfold Welt.advance; simp
@[simp] theorem Welt.advance_stepDepth (w : Welt) (a : Lanes) (n : Nat) : (w.advance a n).stepDepth = w.stepDepth := by
  unfold Welt.advance; simp
@[simp] theorem Welt.advance_stepLanes (w : Welt) (a : Lanes) (n : Nat) : (w.advance a n).stepLanes = w.stepLanes := by
  unfold Welt.advance; simp
@[simp] theorem Welt.advance_stepDone (w : Welt) (a : Lanes) (n : Nat) : (w.advance a n).stepDone = w.stepDone := by
  unfold Welt.advance; simp
@[simp] theorem Welt.advance_replay (w : Welt) (a : Lanes) (n : Nat) : (w.advance a n).replay = w.replay := by
  unfold Welt.advance; simp
@[simp] theorem Welt.advance_atStart (w : Welt) (a : Lanes) (n : Nat) : (w.advance a n).atStart = w.atStart := by
  unfold Welt.advance; simp
@[simp] theorem Welt.advance_streams (w : Welt) (a : Lanes) (n : Nat) : (w.advance a n).streams = w.streams := by
  unfold Welt.advance; simp
@[simp] theorem Welt.advance_flights (w : Welt) (a : Lanes) (n : Nat) : (w.advance a n).flights = w.flights := by
  unfold Welt.advance; simp
@[simp] theorem Welt.advance_nextFlight (w : Welt) (a : Lanes) (n : Nat) : (w.advance a n).nextFlight = w.nextFlight := by
  unfold Welt.advance; simp
@[simp] theorem Welt.advance_wait (w : Welt) (a : Lanes) (n : Nat) : (w.advance a n).wait = w.wait := by
  unfold Welt.advance; simp
@[simp] theorem Welt.advance_wantPrice (w : Welt) (a : Lanes) (n : Nat) : (w.advance a n).wantPrice = w.wantPrice := by
  unfold Welt.advance; simp
@[simp] theorem Welt.advance_txn (w : Welt) (a : Lanes) (n : Nat) : (w.advance a n).txn = w.txn := by
  unfold Welt.advance; simp
@[simp] theorem Welt.advance_spent (w : Welt) (a : Lanes) (n : Nat) : (w.advance a n).spent = w.spent := by
  unfold Welt.advance; simp
@[simp] theorem Welt.advance_wantSince (w : Welt) (a : Lanes) (n : Nat) : (w.advance a n).wantSince = w.wantSince := by
  unfold Welt.advance; simp
@[simp] theorem Welt.advance_order (w : Welt) (a : Lanes) (n : Nat) : (w.advance a n).order = w.order := by
  unfold Welt.advance; simp
@[simp] theorem Welt.advance_unfenced (w : Welt) (a : Lanes) (n : Nat) : (w.advance a n).unfenced = w.unfenced := by
  unfold Welt.advance; simp
@[simp] theorem Welt.advance_observed (w : Welt) (a : Lanes) (n : Nat) : (w.advance a n).observed = w.observed := by
  unfold Welt.advance; simp
@[simp] theorem Welt.advance_cum (w : Welt) (a : Lanes) (n : Nat) : (w.advance a n).cum = w.cum := by
  unfold Welt.advance; simp
@[simp] theorem Welt.advance_signalled (w : Welt) (a : Lanes) (n : Nat) : (w.advance a n).signalled = w.signalled := by
  unfold Welt.advance; simp
@[simp] theorem Welt.advance_code (w : Welt) (a : Lanes) (n : Nat) : (w.advance a n).code = w.code := by
  unfold Welt.advance; simp
@[simp] theorem Welt.advance_readyAt (w : Welt) (a : Lanes) (n : Nat) : (w.advance a n).readyAt = w.readyAt := by
  unfold Welt.advance; simp
@[simp] theorem Welt.advance_triedAt (w : Welt) (a : Lanes) (n : Nat) : (w.advance a n).triedAt = w.triedAt := by
  unfold Welt.advance; simp
@[simp] theorem Welt.advance_started (w : Welt) (a : Lanes) (n : Nat) : (w.advance a n).started = w.started := by
  unfold Welt.advance; simp
@[simp] theorem Welt.advance_yielded (w : Welt) (a : Lanes) (n : Nat) : (w.advance a n).yielded = w.yielded := by
  unfold Welt.advance; simp
@[simp] theorem Welt.advance_ended (w : Welt) (a : Lanes) (n : Nat) : (w.advance a n).ended = w.ended := by
  unfold Welt.advance; simp
@[simp] theorem Welt.issued_wg (w : Welt) (a : Lanes) (p : Pc) (d : BitVec 6) : (w.issued a p d).wg = w.wg := rfl
@[simp] theorem Welt.issued_index (w : Welt) (a : Lanes) (p : Pc) (d : BitVec 6) : (w.issued a p d).index = w.index := rfl
@[simp] theorem Welt.issued_slice (w : Welt) (a : Lanes) (p : Pc) (d : BitVec 6) : (w.issued a p d).slice = w.slice := rfl
@[simp] theorem Welt.issued_slot (w : Welt) (a : Lanes) (p : Pc) (d : BitVec 6) : (w.issued a p d).slot = w.slot := rfl
@[simp] theorem Welt.issued_populated (w : Welt) (a : Lanes) (p : Pc) (d : BitVec 6) : (w.issued a p d).populated = w.populated := rfl
@[simp] theorem Welt.issued_lanes (w : Welt) (a : Lanes) (p : Pc) (d : BitVec 6) : (w.issued a p d).lanes = w.lanes := rfl
@[simp] theorem Welt.issued_w (w : Welt) (a : Lanes) (p : Pc) (d : BitVec 6) : (w.issued a p d).w = w.w := rfl
@[simp] theorem Welt.issued_wfull (w : Welt) (a : Lanes) (p : Pc) (d : BitVec 6) : (w.issued a p d).wfull = w.wfull := rfl
@[simp] theorem Welt.issued_wbad (w : Welt) (a : Lanes) (p : Pc) (d : BitVec 6) : (w.issued a p d).wbad = w.wbad := rfl
@[simp] theorem Welt.issued_m (w : Welt) (a : Lanes) (p : Pc) (d : BitVec 6) : (w.issued a p d).m = w.m := rfl
@[simp] theorem Welt.issued_handles (w : Welt) (a : Lanes) (p : Pc) (d : BitVec 6) : (w.issued a p d).handles = w.handles := rfl
@[simp] theorem Welt.issued_serial (w : Welt) (a : Lanes) (p : Pc) (d : BitVec 6) : (w.issued a p d).serial = w.serial := rfl
@[simp] theorem Welt.issued_colls (w : Welt) (a : Lanes) (p : Pc) (d : BitVec 6) : (w.issued a p d).colls = w.colls := rfl
@[simp] theorem Welt.issued_fpctl (w : Welt) (a : Lanes) (p : Pc) (d : BitVec 6) : (w.issued a p d).fpctl = w.fpctl := rfl
@[simp] theorem Welt.issued_nanrec (w : Welt) (a : Lanes) (p : Pc) (d : BitVec 6) : (w.issued a p d).nanrec = w.nanrec := rfl
@[simp] theorem Welt.issued_skivestat (w : Welt) (a : Lanes) (p : Pc) (d : BitVec 6) : (w.issued a p d).skivestat = w.skivestat := rfl
@[simp] theorem Welt.issued_level (w : Welt) (a : Lanes) (p : Pc) (d : BitVec 6) : (w.issued a p d).level = w.level := rfl
@[simp] theorem Welt.issued_inHandler (w : Welt) (a : Lanes) (p : Pc) (d : BitVec 6) : (w.issued a p d).inHandler = w.inHandler := rfl
@[simp] theorem Welt.issued_saved (w : Welt) (a : Lanes) (p : Pc) (d : BitVec 6) : (w.issued a p d).saved = w.saved := rfl
@[simp] theorem Welt.issued_service (w : Welt) (a : Lanes) (p : Pc) (d : BitVec 6) : (w.issued a p d).service = w.service := rfl
@[simp] theorem Welt.issued_stepping (w : Welt) (a : Lanes) (p : Pc) (d : BitVec 6) : (w.issued a p d).stepping = w.stepping := rfl
@[simp] theorem Welt.issued_streams (w : Welt) (a : Lanes) (p : Pc) (d : BitVec 6) : (w.issued a p d).streams = w.streams := rfl
@[simp] theorem Welt.issued_flights (w : Welt) (a : Lanes) (p : Pc) (d : BitVec 6) : (w.issued a p d).flights = w.flights := rfl
@[simp] theorem Welt.issued_nextFlight (w : Welt) (a : Lanes) (p : Pc) (d : BitVec 6) : (w.issued a p d).nextFlight = w.nextFlight := rfl
@[simp] theorem Welt.issued_txn (w : Welt) (a : Lanes) (p : Pc) (d : BitVec 6) : (w.issued a p d).txn = w.txn := rfl
@[simp] theorem Welt.issued_unfenced (w : Welt) (a : Lanes) (p : Pc) (d : BitVec 6) : (w.issued a p d).unfenced = w.unfenced := rfl
@[simp] theorem Welt.issued_observed (w : Welt) (a : Lanes) (p : Pc) (d : BitVec 6) : (w.issued a p d).observed = w.observed := rfl
@[simp] theorem Welt.issued_cum (w : Welt) (a : Lanes) (p : Pc) (d : BitVec 6) : (w.issued a p d).cum = w.cum := rfl
@[simp] theorem Welt.issued_signalled (w : Welt) (a : Lanes) (p : Pc) (d : BitVec 6) : (w.issued a p d).signalled = w.signalled := rfl
@[simp] theorem Welt.issued_code (w : Welt) (a : Lanes) (p : Pc) (d : BitVec 6) : (w.issued a p d).code = w.code := rfl
@[simp] theorem Welt.issued_readyAt (w : Welt) (a : Lanes) (p : Pc) (d : BitVec 6) : (w.issued a p d).readyAt = w.readyAt := rfl
@[simp] theorem Welt.issued_triedAt (w : Welt) (a : Lanes) (p : Pc) (d : BitVec 6) : (w.issued a p d).triedAt = w.triedAt := rfl
@[simp] theorem Welt.issued_ended (w : Welt) (a : Lanes) (p : Pc) (d : BitVec 6) : (w.issued a p d).ended = w.ended := rfl

/-! ### Registers of a lane and of a welt -/

@[simp] theorem Lane.wr_x (l : Lane) (r : Nat) (v : W32) : (l.wr r v).x = l.x := rfl
@[simp] theorem Lane.wr_h (l : Lane) (r : Nat) (v : W32) : (l.wr r v).h = l.h := rfl
@[simp] theorem Lane.wr_depth (l : Lane) (r : Nat) (v : W32) : (l.wr r v).depth = l.depth := rfl
@[simp] theorem Lane.wr_pc (l : Lane) (r : Nat) (v : W32) : (l.wr r v).pc = l.pc := rfl
@[simp] theorem Lane.wr_pos (l : Lane) (r : Nat) (v : W32) : (l.wr r v).pos = l.pos := rfl
@[simp] theorem Lane.wr_seg (l : Lane) (r : Nat) (v : W32) : (l.wr r v).seg = l.seg := rfl
@[simp] theorem Lane.empty_x (l : Lane) (r : Nat) : (l.empty r).x = l.x := rfl
@[simp] theorem Lane.empty_h (l : Lane) (r : Nat) : (l.empty r).h = l.h := rfl
@[simp] theorem Lane.empty_depth (l : Lane) (r : Nat) : (l.empty r).depth = l.depth := rfl
@[simp] theorem Lane.empty_pc (l : Lane) (r : Nat) : (l.empty r).pc = l.pc := rfl
@[simp] theorem Lane.empty_pos (l : Lane) (r : Nat) : (l.empty r).pos = l.pos := rfl
@[simp] theorem Lane.empty_seg (l : Lane) (r : Nat) : (l.empty r).seg = l.seg := rfl
@[simp] theorem Lane.fill_x (l : Lane) (r : Nat) : (l.fill r).x = l.x := rfl
@[simp] theorem Lane.fill_h (l : Lane) (r : Nat) : (l.fill r).h = l.h := rfl
@[simp] theorem Lane.fill_depth (l : Lane) (r : Nat) : (l.fill r).depth = l.depth := rfl
@[simp] theorem Lane.fill_pc (l : Lane) (r : Nat) : (l.fill r).pc = l.pc := rfl
@[simp] theorem Lane.fill_pos (l : Lane) (r : Nat) : (l.fill r).pos = l.pos := rfl
@[simp] theorem Lane.fill_seg (l : Lane) (r : Nat) : (l.fill r).seg = l.seg := rfl
@[simp] theorem Lane.wrTy_x (l : Lane) (t : Ty) (r : Nat) (v : W64) : (l.wrTy t r v).x = l.x := by
  unfold Lane.wrTy; split <;> rfl
@[simp] theorem Lane.wrTy_h (l : Lane) (t : Ty) (r : Nat) (v : W64) : (l.wrTy t r v).h = l.h := by
  unfold Lane.wrTy; split <;> rfl
@[simp] theorem Lane.wrTy_depth (l : Lane) (t : Ty) (r : Nat) (v : W64) : (l.wrTy t r v).depth = l.depth := by
  unfold Lane.wrTy; split <;> rfl
@[simp] theorem Lane.wrTy_pc (l : Lane) (t : Ty) (r : Nat) (v : W64) : (l.wrTy t r v).pc = l.pc := by
  unfold Lane.wrTy; split <;> rfl
@[simp] theorem Lane.wrTy_pos (l : Lane) (t : Ty) (r : Nat) (v : W64) : (l.wrTy t r v).pos = l.pos := by
  unfold Lane.wrTy; split <;> rfl
@[simp] theorem Lane.wrTy_seg (l : Lane) (t : Ty) (r : Nat) (v : W64) : (l.wrTy t r v).seg = l.seg := by
  unfold Lane.wrTy; split <;> rfl
@[simp] theorem Welt.wrW_wg (w : Welt) (r : Nat) (x : W64) : (w.wrW r x).wg = w.wg := by
  unfold Welt.wrW; split <;> rfl
@[simp] theorem Welt.wrW_index (w : Welt) (r : Nat) (x : W64) : (w.wrW r x).index = w.index := by
  unfold Welt.wrW; split <;> rfl
@[simp] theorem Welt.wrW_slice (w : Welt) (r : Nat) (x : W64) : (w.wrW r x).slice = w.slice := by
  unfold Welt.wrW; split <;> rfl
@[simp] theorem Welt.wrW_slot (w : Welt) (r : Nat) (x : W64) : (w.wrW r x).slot = w.slot := by
  unfold Welt.wrW; split <;> rfl
@[simp] theorem Welt.wrW_populated (w : Welt) (r : Nat) (x : W64) : (w.wrW r x).populated = w.populated := by
  unfold Welt.wrW; split <;> rfl
@[simp] theorem Welt.wrW_lanes (w : Welt) (r : Nat) (x : W64) : (w.wrW r x).lanes = w.lanes := by
  unfold Welt.wrW; split <;> rfl
@[simp] theorem Welt.wrW_m (w : Welt) (r : Nat) (x : W64) : (w.wrW r x).m = w.m := by
  unfold Welt.wrW; split <;> rfl
@[simp] theorem Welt.wrW_handles (w : Welt) (r : Nat) (x : W64) : (w.wrW r x).handles = w.handles := by
  unfold Welt.wrW; split <;> rfl
@[simp] theorem Welt.wrW_serial (w : Welt) (r : Nat) (x : W64) : (w.wrW r x).serial = w.serial := by
  unfold Welt.wrW; split <;> rfl
@[simp] theorem Welt.wrW_colls (w : Welt) (r : Nat) (x : W64) : (w.wrW r x).colls = w.colls := by
  unfold Welt.wrW; split <;> rfl
@[simp] theorem Welt.wrW_fpctl (w : Welt) (r : Nat) (x : W64) : (w.wrW r x).fpctl = w.fpctl := by
  unfold Welt.wrW; split <;> rfl
@[simp] theorem Welt.wrW_nanrec (w : Welt) (r : Nat) (x : W64) : (w.wrW r x).nanrec = w.nanrec := by
  unfold Welt.wrW; split <;> rfl
@[simp] theorem Welt.wrW_skivestat (w : Welt) (r : Nat) (x : W64) : (w.wrW r x).skivestat = w.skivestat := by
  unfold Welt.wrW; split <;> rfl
@[simp] theorem Welt.wrW_level (w : Welt) (r : Nat) (x : W64) : (w.wrW r x).level = w.level := by
  unfold Welt.wrW; split <;> rfl
@[simp] theorem Welt.wrW_inHandler (w : Welt) (r : Nat) (x : W64) : (w.wrW r x).inHandler = w.inHandler := by
  unfold Welt.wrW; split <;> rfl
@[simp] theorem Welt.wrW_traps (w : Welt) (r : Nat) (x : W64) : (w.wrW r x).traps = w.traps := by
  unfold Welt.wrW; split <;> rfl
@[simp] theorem Welt.wrW_saved (w : Welt) (r : Nat) (x : W64) : (w.wrW r x).saved = w.saved := by
  unfold Welt.wrW; split <;> rfl
@[simp] theorem Welt.wrW_halt (w : Welt) (r : Nat) (x : W64) : (w.wrW r x).halt = w.halt := by
  unfold Welt.wrW; split <;> rfl
@[simp] theorem Welt.wrW_service (w : Welt) (r : Nat) (x : W64) : (w.wrW r x).service = w.service := by
  unfold Welt.wrW; split <;> rfl
@[simp] theorem Welt.wrW_stepping (w : Welt) (r : Nat) (x : W64) : (w.wrW r x).stepping = w.stepping := by
  unfold Welt.wrW; split <;> rfl
@[simp] theorem Welt.wrW_stepPc (w : Welt) (r : Nat) (x : W64) : (w.wrW r x).stepPc = w.stepPc := by
  unfold Welt.wrW; split <;> rfl
@[simp] theorem Welt.wrW_stepDepth (w : Welt) (r : Nat) (x : W64) : (w.wrW r x).stepDepth = w.stepDepth := by
  unfold Welt.wrW; split <;> rfl
@[simp] theorem Welt.wrW_stepLanes (w : Welt) (r : Nat) (x : W64) : (w.wrW r x).stepLanes = w.stepLanes := by
  unfold Welt.wrW; split <;> rfl
@[simp] theorem Welt.wrW_stepDone (w : Welt) (r : Nat) (x : W64) : (w.wrW r x).stepDone = w.stepDone := by
  unfold Welt.wrW; split <;> rfl
@[simp] theorem Welt.wrW_replay (w : Welt) (r : Nat) (x : W64) : (w.wrW r x).replay = w.replay := by
  unfold Welt.wrW; split <;> rfl
@[simp] theorem Welt.wrW_atStart (w : Welt) (r : Nat) (x : W64) : (w.wrW r x).atStart = w.atStart := by
  unfold Welt.wrW; split <;> rfl
@[simp] theorem Welt.wrW_streams (w : Welt) (r : Nat) (x : W64) : (w.wrW r x).streams = w.streams := by
  unfold Welt.wrW; split <;> rfl
@[simp] theorem Welt.wrW_flights (w : Welt) (r : Nat) (x : W64) : (w.wrW r x).flights = w.flights := by
  unfold Welt.wrW; split <;> rfl
@[simp] theorem Welt.wrW_nextFlight (w : Welt) (r : Nat) (x : W64) : (w.wrW r x).nextFlight = w.nextFlight := by
  unfold Welt.wrW; split <;> rfl
@[simp] theorem Welt.wrW_wait (w : Welt) (r : Nat) (x : W64) : (w.wrW r x).wait = w.wait := by
  unfold Welt.wrW; split <;> rfl
@[simp] theorem Welt.wrW_wantPrice (w : Welt) (r : Nat) (x : W64) : (w.wrW r x).wantPrice = w.wantPrice := by
  unfold Welt.wrW; split <;> rfl
@[simp] theorem Welt.wrW_txn (w : Welt) (r : Nat) (x : W64) : (w.wrW r x).txn = w.txn := by
  unfold Welt.wrW; split <;> rfl
@[simp] theorem Welt.wrW_spent (w : Welt) (r : Nat) (x : W64) : (w.wrW r x).spent = w.spent := by
  unfold Welt.wrW; split <;> rfl
@[simp] theorem Welt.wrW_wantSince (w : Welt) (r : Nat) (x : W64) : (w.wrW r x).wantSince = w.wantSince := by
  unfold Welt.wrW; split <;> rfl
@[simp] theorem Welt.wrW_order (w : Welt) (r : Nat) (x : W64) : (w.wrW r x).order = w.order := by
  unfold Welt.wrW; split <;> rfl
@[simp] theorem Welt.wrW_unfenced (w : Welt) (r : Nat) (x : W64) : (w.wrW r x).unfenced = w.unfenced := by
  unfold Welt.wrW; split <;> rfl
@[simp] theorem Welt.wrW_observed (w : Welt) (r : Nat) (x : W64) : (w.wrW r x).observed = w.observed := by
  unfold Welt.wrW; split <;> rfl
@[simp] theorem Welt.wrW_cum (w : Welt) (r : Nat) (x : W64) : (w.wrW r x).cum = w.cum := by
  unfold Welt.wrW; split <;> rfl
@[simp] theorem Welt.wrW_signalled (w : Welt) (r : Nat) (x : W64) : (w.wrW r x).signalled = w.signalled := by
  unfold Welt.wrW; split <;> rfl
@[simp] theorem Welt.wrW_code (w : Welt) (r : Nat) (x : W64) : (w.wrW r x).code = w.code := by
  unfold Welt.wrW; split <;> rfl
@[simp] theorem Welt.wrW_readyAt (w : Welt) (r : Nat) (x : W64) : (w.wrW r x).readyAt = w.readyAt := by
  unfold Welt.wrW; split <;> rfl
@[simp] theorem Welt.wrW_triedAt (w : Welt) (r : Nat) (x : W64) : (w.wrW r x).triedAt = w.triedAt := by
  unfold Welt.wrW; split <;> rfl
@[simp] theorem Welt.wrW_started (w : Welt) (r : Nat) (x : W64) : (w.wrW r x).started = w.started := by
  unfold Welt.wrW; split <;> rfl
@[simp] theorem Welt.wrW_yielded (w : Welt) (r : Nat) (x : W64) : (w.wrW r x).yielded = w.yielded := by
  unfold Welt.wrW; split <;> rfl
@[simp] theorem Welt.wrW_ended (w : Welt) (r : Nat) (x : W64) : (w.wrW r x).ended = w.ended := by
  unfold Welt.wrW; split <;> rfl
@[simp] theorem Welt.emptyW_wg (w : Welt) (r : Nat) : (w.emptyW r).wg = w.wg := by
  unfold Welt.emptyW; split <;> rfl
@[simp] theorem Welt.emptyW_index (w : Welt) (r : Nat) : (w.emptyW r).index = w.index := by
  unfold Welt.emptyW; split <;> rfl
@[simp] theorem Welt.emptyW_slice (w : Welt) (r : Nat) : (w.emptyW r).slice = w.slice := by
  unfold Welt.emptyW; split <;> rfl
@[simp] theorem Welt.emptyW_slot (w : Welt) (r : Nat) : (w.emptyW r).slot = w.slot := by
  unfold Welt.emptyW; split <;> rfl
@[simp] theorem Welt.emptyW_populated (w : Welt) (r : Nat) : (w.emptyW r).populated = w.populated := by
  unfold Welt.emptyW; split <;> rfl
@[simp] theorem Welt.emptyW_lanes (w : Welt) (r : Nat) : (w.emptyW r).lanes = w.lanes := by
  unfold Welt.emptyW; split <;> rfl
@[simp] theorem Welt.emptyW_w (w : Welt) (r : Nat) : (w.emptyW r).w = w.w := by
  unfold Welt.emptyW; split <;> rfl
@[simp] theorem Welt.emptyW_wbad (w : Welt) (r : Nat) : (w.emptyW r).wbad = w.wbad := by
  unfold Welt.emptyW; split <;> rfl
@[simp] theorem Welt.emptyW_m (w : Welt) (r : Nat) : (w.emptyW r).m = w.m := by
  unfold Welt.emptyW; split <;> rfl
@[simp] theorem Welt.emptyW_handles (w : Welt) (r : Nat) : (w.emptyW r).handles = w.handles := by
  unfold Welt.emptyW; split <;> rfl
@[simp] theorem Welt.emptyW_serial (w : Welt) (r : Nat) : (w.emptyW r).serial = w.serial := by
  unfold Welt.emptyW; split <;> rfl
@[simp] theorem Welt.emptyW_colls (w : Welt) (r : Nat) : (w.emptyW r).colls = w.colls := by
  unfold Welt.emptyW; split <;> rfl
@[simp] theorem Welt.emptyW_fpctl (w : Welt) (r : Nat) : (w.emptyW r).fpctl = w.fpctl := by
  unfold Welt.emptyW; split <;> rfl
@[simp] theorem Welt.emptyW_nanrec (w : Welt) (r : Nat) : (w.emptyW r).nanrec = w.nanrec := by
  unfold Welt.emptyW; split <;> rfl
@[simp] theorem Welt.emptyW_skivestat (w : Welt) (r : Nat) : (w.emptyW r).skivestat = w.skivestat := by
  unfold Welt.emptyW; split <;> rfl
@[simp] theorem Welt.emptyW_level (w : Welt) (r : Nat) : (w.emptyW r).level = w.level := by
  unfold Welt.emptyW; split <;> rfl
@[simp] theorem Welt.emptyW_inHandler (w : Welt) (r : Nat) : (w.emptyW r).inHandler = w.inHandler := by
  unfold Welt.emptyW; split <;> rfl
@[simp] theorem Welt.emptyW_traps (w : Welt) (r : Nat) : (w.emptyW r).traps = w.traps := by
  unfold Welt.emptyW; split <;> rfl
@[simp] theorem Welt.emptyW_saved (w : Welt) (r : Nat) : (w.emptyW r).saved = w.saved := by
  unfold Welt.emptyW; split <;> rfl
@[simp] theorem Welt.emptyW_halt (w : Welt) (r : Nat) : (w.emptyW r).halt = w.halt := by
  unfold Welt.emptyW; split <;> rfl
@[simp] theorem Welt.emptyW_service (w : Welt) (r : Nat) : (w.emptyW r).service = w.service := by
  unfold Welt.emptyW; split <;> rfl
@[simp] theorem Welt.emptyW_stepping (w : Welt) (r : Nat) : (w.emptyW r).stepping = w.stepping := by
  unfold Welt.emptyW; split <;> rfl
@[simp] theorem Welt.emptyW_stepPc (w : Welt) (r : Nat) : (w.emptyW r).stepPc = w.stepPc := by
  unfold Welt.emptyW; split <;> rfl
@[simp] theorem Welt.emptyW_stepDepth (w : Welt) (r : Nat) : (w.emptyW r).stepDepth = w.stepDepth := by
  unfold Welt.emptyW; split <;> rfl
@[simp] theorem Welt.emptyW_stepLanes (w : Welt) (r : Nat) : (w.emptyW r).stepLanes = w.stepLanes := by
  unfold Welt.emptyW; split <;> rfl
@[simp] theorem Welt.emptyW_stepDone (w : Welt) (r : Nat) : (w.emptyW r).stepDone = w.stepDone := by
  unfold Welt.emptyW; split <;> rfl
@[simp] theorem Welt.emptyW_replay (w : Welt) (r : Nat) : (w.emptyW r).replay = w.replay := by
  unfold Welt.emptyW; split <;> rfl
@[simp] theorem Welt.emptyW_atStart (w : Welt) (r : Nat) : (w.emptyW r).atStart = w.atStart := by
  unfold Welt.emptyW; split <;> rfl
@[simp] theorem Welt.emptyW_streams (w : Welt) (r : Nat) : (w.emptyW r).streams = w.streams := by
  unfold Welt.emptyW; split <;> rfl
@[simp] theorem Welt.emptyW_flights (w : Welt) (r : Nat) : (w.emptyW r).flights = w.flights := by
  unfold Welt.emptyW; split <;> rfl
@[simp] theorem Welt.emptyW_nextFlight (w : Welt) (r : Nat) : (w.emptyW r).nextFlight = w.nextFlight := by
  unfold Welt.emptyW; split <;> rfl
@[simp] theorem Welt.emptyW_wait (w : Welt) (r : Nat) : (w.emptyW r).wait = w.wait := by
  unfold Welt.emptyW; split <;> rfl
@[simp] theorem Welt.emptyW_wantPrice (w : Welt) (r : Nat) : (w.emptyW r).wantPrice = w.wantPrice := by
  unfold Welt.emptyW; split <;> rfl
@[simp] theorem Welt.emptyW_txn (w : Welt) (r : Nat) : (w.emptyW r).txn = w.txn := by
  unfold Welt.emptyW; split <;> rfl
@[simp] theorem Welt.emptyW_spent (w : Welt) (r : Nat) : (w.emptyW r).spent = w.spent := by
  unfold Welt.emptyW; split <;> rfl
@[simp] theorem Welt.emptyW_wantSince (w : Welt) (r : Nat) : (w.emptyW r).wantSince = w.wantSince := by
  unfold Welt.emptyW; split <;> rfl
@[simp] theorem Welt.emptyW_order (w : Welt) (r : Nat) : (w.emptyW r).order = w.order := by
  unfold Welt.emptyW; split <;> rfl
@[simp] theorem Welt.emptyW_unfenced (w : Welt) (r : Nat) : (w.emptyW r).unfenced = w.unfenced := by
  unfold Welt.emptyW; split <;> rfl
@[simp] theorem Welt.emptyW_observed (w : Welt) (r : Nat) : (w.emptyW r).observed = w.observed := by
  unfold Welt.emptyW; split <;> rfl
@[simp] theorem Welt.emptyW_cum (w : Welt) (r : Nat) : (w.emptyW r).cum = w.cum := by
  unfold Welt.emptyW; split <;> rfl
@[simp] theorem Welt.emptyW_signalled (w : Welt) (r : Nat) : (w.emptyW r).signalled = w.signalled := by
  unfold Welt.emptyW; split <;> rfl
@[simp] theorem Welt.emptyW_code (w : Welt) (r : Nat) : (w.emptyW r).code = w.code := by
  unfold Welt.emptyW; split <;> rfl
@[simp] theorem Welt.emptyW_readyAt (w : Welt) (r : Nat) : (w.emptyW r).readyAt = w.readyAt := by
  unfold Welt.emptyW; split <;> rfl
@[simp] theorem Welt.emptyW_triedAt (w : Welt) (r : Nat) : (w.emptyW r).triedAt = w.triedAt := by
  unfold Welt.emptyW; split <;> rfl
@[simp] theorem Welt.emptyW_started (w : Welt) (r : Nat) : (w.emptyW r).started = w.started := by
  unfold Welt.emptyW; split <;> rfl
@[simp] theorem Welt.emptyW_yielded (w : Welt) (r : Nat) : (w.emptyW r).yielded = w.yielded := by
  unfold Welt.emptyW; split <;> rfl
@[simp] theorem Welt.emptyW_ended (w : Welt) (r : Nat) : (w.emptyW r).ended = w.ended := by
  unfold Welt.emptyW; split <;> rfl
@[simp] theorem Welt.fillW_wg (w : Welt) (r : Nat) : (w.fillW r).wg = w.wg := by
  unfold Welt.fillW; split <;> rfl
@[simp] theorem Welt.fillW_index (w : Welt) (r : Nat) : (w.fillW r).index = w.index := by
  unfold Welt.fillW; split <;> rfl
@[simp] theorem Welt.fillW_slice (w : Welt) (r : Nat) : (w.fillW r).slice = w.slice := by
  unfold Welt.fillW; split <;> rfl
@[simp] theorem Welt.fillW_slot (w : Welt) (r : Nat) : (w.fillW r).slot = w.slot := by
  unfold Welt.fillW; split <;> rfl
@[simp] theorem Welt.fillW_populated (w : Welt) (r : Nat) : (w.fillW r).populated = w.populated := by
  unfold Welt.fillW; split <;> rfl
@[simp] theorem Welt.fillW_lanes (w : Welt) (r : Nat) : (w.fillW r).lanes = w.lanes := by
  unfold Welt.fillW; split <;> rfl
@[simp] theorem Welt.fillW_w (w : Welt) (r : Nat) : (w.fillW r).w = w.w := by
  unfold Welt.fillW; split <;> rfl
@[simp] theorem Welt.fillW_wbad (w : Welt) (r : Nat) : (w.fillW r).wbad = w.wbad := by
  unfold Welt.fillW; split <;> rfl
@[simp] theorem Welt.fillW_m (w : Welt) (r : Nat) : (w.fillW r).m = w.m := by
  unfold Welt.fillW; split <;> rfl
@[simp] theorem Welt.fillW_handles (w : Welt) (r : Nat) : (w.fillW r).handles = w.handles := by
  unfold Welt.fillW; split <;> rfl
@[simp] theorem Welt.fillW_serial (w : Welt) (r : Nat) : (w.fillW r).serial = w.serial := by
  unfold Welt.fillW; split <;> rfl
@[simp] theorem Welt.fillW_colls (w : Welt) (r : Nat) : (w.fillW r).colls = w.colls := by
  unfold Welt.fillW; split <;> rfl
@[simp] theorem Welt.fillW_fpctl (w : Welt) (r : Nat) : (w.fillW r).fpctl = w.fpctl := by
  unfold Welt.fillW; split <;> rfl
@[simp] theorem Welt.fillW_nanrec (w : Welt) (r : Nat) : (w.fillW r).nanrec = w.nanrec := by
  unfold Welt.fillW; split <;> rfl
@[simp] theorem Welt.fillW_skivestat (w : Welt) (r : Nat) : (w.fillW r).skivestat = w.skivestat := by
  unfold Welt.fillW; split <;> rfl
@[simp] theorem Welt.fillW_level (w : Welt) (r : Nat) : (w.fillW r).level = w.level := by
  unfold Welt.fillW; split <;> rfl
@[simp] theorem Welt.fillW_inHandler (w : Welt) (r : Nat) : (w.fillW r).inHandler = w.inHandler := by
  unfold Welt.fillW; split <;> rfl
@[simp] theorem Welt.fillW_traps (w : Welt) (r : Nat) : (w.fillW r).traps = w.traps := by
  unfold Welt.fillW; split <;> rfl
@[simp] theorem Welt.fillW_saved (w : Welt) (r : Nat) : (w.fillW r).saved = w.saved := by
  unfold Welt.fillW; split <;> rfl
@[simp] theorem Welt.fillW_halt (w : Welt) (r : Nat) : (w.fillW r).halt = w.halt := by
  unfold Welt.fillW; split <;> rfl
@[simp] theorem Welt.fillW_service (w : Welt) (r : Nat) : (w.fillW r).service = w.service := by
  unfold Welt.fillW; split <;> rfl
@[simp] theorem Welt.fillW_stepping (w : Welt) (r : Nat) : (w.fillW r).stepping = w.stepping := by
  unfold Welt.fillW; split <;> rfl
@[simp] theorem Welt.fillW_stepPc (w : Welt) (r : Nat) : (w.fillW r).stepPc = w.stepPc := by
  unfold Welt.fillW; split <;> rfl
@[simp] theorem Welt.fillW_stepDepth (w : Welt) (r : Nat) : (w.fillW r).stepDepth = w.stepDepth := by
  unfold Welt.fillW; split <;> rfl
@[simp] theorem Welt.fillW_stepLanes (w : Welt) (r : Nat) : (w.fillW r).stepLanes = w.stepLanes := by
  unfold Welt.fillW; split <;> rfl
@[simp] theorem Welt.fillW_stepDone (w : Welt) (r : Nat) : (w.fillW r).stepDone = w.stepDone := by
  unfold Welt.fillW; split <;> rfl
@[simp] theorem Welt.fillW_replay (w : Welt) (r : Nat) : (w.fillW r).replay = w.replay := by
  unfold Welt.fillW; split <;> rfl
@[simp] theorem Welt.fillW_atStart (w : Welt) (r : Nat) : (w.fillW r).atStart = w.atStart := by
  unfold Welt.fillW; split <;> rfl
@[simp] theorem Welt.fillW_streams (w : Welt) (r : Nat) : (w.fillW r).streams = w.streams := by
  unfold Welt.fillW; split <;> rfl
@[simp] theorem Welt.fillW_flights (w : Welt) (r : Nat) : (w.fillW r).flights = w.flights := by
  unfold Welt.fillW; split <;> rfl
@[simp] theorem Welt.fillW_nextFlight (w : Welt) (r : Nat) : (w.fillW r).nextFlight = w.nextFlight := by
  unfold Welt.fillW; split <;> rfl
@[simp] theorem Welt.fillW_wait (w : Welt) (r : Nat) : (w.fillW r).wait = w.wait := by
  unfold Welt.fillW; split <;> rfl
@[simp] theorem Welt.fillW_wantPrice (w : Welt) (r : Nat) : (w.fillW r).wantPrice = w.wantPrice := by
  unfold Welt.fillW; split <;> rfl
@[simp] theorem Welt.fillW_txn (w : Welt) (r : Nat) : (w.fillW r).txn = w.txn := by
  unfold Welt.fillW; split <;> rfl
@[simp] theorem Welt.fillW_spent (w : Welt) (r : Nat) : (w.fillW r).spent = w.spent := by
  unfold Welt.fillW; split <;> rfl
@[simp] theorem Welt.fillW_wantSince (w : Welt) (r : Nat) : (w.fillW r).wantSince = w.wantSince := by
  unfold Welt.fillW; split <;> rfl
@[simp] theorem Welt.fillW_order (w : Welt) (r : Nat) : (w.fillW r).order = w.order := by
  unfold Welt.fillW; split <;> rfl
@[simp] theorem Welt.fillW_unfenced (w : Welt) (r : Nat) : (w.fillW r).unfenced = w.unfenced := by
  unfold Welt.fillW; split <;> rfl
@[simp] theorem Welt.fillW_observed (w : Welt) (r : Nat) : (w.fillW r).observed = w.observed := by
  unfold Welt.fillW; split <;> rfl
@[simp] theorem Welt.fillW_cum (w : Welt) (r : Nat) : (w.fillW r).cum = w.cum := by
  unfold Welt.fillW; split <;> rfl
@[simp] theorem Welt.fillW_signalled (w : Welt) (r : Nat) : (w.fillW r).signalled = w.signalled := by
  unfold Welt.fillW; split <;> rfl
@[simp] theorem Welt.fillW_code (w : Welt) (r : Nat) : (w.fillW r).code = w.code := by
  unfold Welt.fillW; split <;> rfl
@[simp] theorem Welt.fillW_readyAt (w : Welt) (r : Nat) : (w.fillW r).readyAt = w.readyAt := by
  unfold Welt.fillW; split <;> rfl
@[simp] theorem Welt.fillW_triedAt (w : Welt) (r : Nat) : (w.fillW r).triedAt = w.triedAt := by
  unfold Welt.fillW; split <;> rfl
@[simp] theorem Welt.fillW_started (w : Welt) (r : Nat) : (w.fillW r).started = w.started := by
  unfold Welt.fillW; split <;> rfl
@[simp] theorem Welt.fillW_yielded (w : Welt) (r : Nat) : (w.fillW r).yielded = w.yielded := by
  unfold Welt.fillW; split <;> rfl
@[simp] theorem Welt.fillW_ended (w : Welt) (r : Nat) : (w.fillW r).ended = w.ended := by
  unfold Welt.fillW; split <;> rfl
@[simp] theorem maskWrite_wg (b : Bool) (w : Welt) (r : Nat) (x : Lanes) : (maskWrite b w r x).wg = w.wg := by
  unfold maskWrite; split <;> rfl
@[simp] theorem maskWrite_index (b : Bool) (w : Welt) (r : Nat) (x : Lanes) : (maskWrite b w r x).index = w.index := by
  unfold maskWrite; split <;> rfl
@[simp] theorem maskWrite_slice (b : Bool) (w : Welt) (r : Nat) (x : Lanes) : (maskWrite b w r x).slice = w.slice := by
  unfold maskWrite; split <;> rfl
@[simp] theorem maskWrite_slot (b : Bool) (w : Welt) (r : Nat) (x : Lanes) : (maskWrite b w r x).slot = w.slot := by
  unfold maskWrite; split <;> rfl
@[simp] theorem maskWrite_populated (b : Bool) (w : Welt) (r : Nat) (x : Lanes) : (maskWrite b w r x).populated = w.populated := by
  unfold maskWrite; split <;> rfl
@[simp] theorem maskWrite_lanes (b : Bool) (w : Welt) (r : Nat) (x : Lanes) : (maskWrite b w r x).lanes = w.lanes := by
  unfold maskWrite; split <;> rfl
@[simp] theorem maskWrite_w (b : Bool) (w : Welt) (r : Nat) (x : Lanes) : (maskWrite b w r x).w = w.w := by
  unfold maskWrite; split <;> rfl
@[simp] theorem maskWrite_wfull (b : Bool) (w : Welt) (r : Nat) (x : Lanes) : (maskWrite b w r x).wfull = w.wfull := by
  unfold maskWrite; split <;> rfl
@[simp] theorem maskWrite_wbad (b : Bool) (w : Welt) (r : Nat) (x : Lanes) : (maskWrite b w r x).wbad = w.wbad := by
  unfold maskWrite; split <;> rfl
@[simp] theorem maskWrite_handles (b : Bool) (w : Welt) (r : Nat) (x : Lanes) : (maskWrite b w r x).handles = w.handles := by
  unfold maskWrite; split <;> rfl
@[simp] theorem maskWrite_serial (b : Bool) (w : Welt) (r : Nat) (x : Lanes) : (maskWrite b w r x).serial = w.serial := by
  unfold maskWrite; split <;> rfl
@[simp] theorem maskWrite_colls (b : Bool) (w : Welt) (r : Nat) (x : Lanes) : (maskWrite b w r x).colls = w.colls := by
  unfold maskWrite; split <;> rfl
@[simp] theorem maskWrite_fpctl (b : Bool) (w : Welt) (r : Nat) (x : Lanes) : (maskWrite b w r x).fpctl = w.fpctl := by
  unfold maskWrite; split <;> rfl
@[simp] theorem maskWrite_nanrec (b : Bool) (w : Welt) (r : Nat) (x : Lanes) : (maskWrite b w r x).nanrec = w.nanrec := by
  unfold maskWrite; split <;> rfl
@[simp] theorem maskWrite_skivestat (b : Bool) (w : Welt) (r : Nat) (x : Lanes) : (maskWrite b w r x).skivestat = w.skivestat := by
  unfold maskWrite; split <;> rfl
@[simp] theorem maskWrite_level (b : Bool) (w : Welt) (r : Nat) (x : Lanes) : (maskWrite b w r x).level = w.level := by
  unfold maskWrite; split <;> rfl
@[simp] theorem maskWrite_inHandler (b : Bool) (w : Welt) (r : Nat) (x : Lanes) : (maskWrite b w r x).inHandler = w.inHandler := by
  unfold maskWrite; split <;> rfl
@[simp] theorem maskWrite_traps (b : Bool) (w : Welt) (r : Nat) (x : Lanes) : (maskWrite b w r x).traps = w.traps := by
  unfold maskWrite; split <;> rfl
@[simp] theorem maskWrite_saved (b : Bool) (w : Welt) (r : Nat) (x : Lanes) : (maskWrite b w r x).saved = w.saved := by
  unfold maskWrite; split <;> rfl
@[simp] theorem maskWrite_halt (b : Bool) (w : Welt) (r : Nat) (x : Lanes) : (maskWrite b w r x).halt = w.halt := by
  unfold maskWrite; split <;> rfl
@[simp] theorem maskWrite_service (b : Bool) (w : Welt) (r : Nat) (x : Lanes) : (maskWrite b w r x).service = w.service := by
  unfold maskWrite; split <;> rfl
@[simp] theorem maskWrite_stepping (b : Bool) (w : Welt) (r : Nat) (x : Lanes) : (maskWrite b w r x).stepping = w.stepping := by
  unfold maskWrite; split <;> rfl
@[simp] theorem maskWrite_stepPc (b : Bool) (w : Welt) (r : Nat) (x : Lanes) : (maskWrite b w r x).stepPc = w.stepPc := by
  unfold maskWrite; split <;> rfl
@[simp] theorem maskWrite_stepDepth (b : Bool) (w : Welt) (r : Nat) (x : Lanes) : (maskWrite b w r x).stepDepth = w.stepDepth := by
  unfold maskWrite; split <;> rfl
@[simp] theorem maskWrite_stepLanes (b : Bool) (w : Welt) (r : Nat) (x : Lanes) : (maskWrite b w r x).stepLanes = w.stepLanes := by
  unfold maskWrite; split <;> rfl
@[simp] theorem maskWrite_stepDone (b : Bool) (w : Welt) (r : Nat) (x : Lanes) : (maskWrite b w r x).stepDone = w.stepDone := by
  unfold maskWrite; split <;> rfl
@[simp] theorem maskWrite_replay (b : Bool) (w : Welt) (r : Nat) (x : Lanes) : (maskWrite b w r x).replay = w.replay := by
  unfold maskWrite; split <;> rfl
@[simp] theorem maskWrite_atStart (b : Bool) (w : Welt) (r : Nat) (x : Lanes) : (maskWrite b w r x).atStart = w.atStart := by
  unfold maskWrite; split <;> rfl
@[simp] theorem maskWrite_streams (b : Bool) (w : Welt) (r : Nat) (x : Lanes) : (maskWrite b w r x).streams = w.streams := by
  unfold maskWrite; split <;> rfl
@[simp] theorem maskWrite_flights (b : Bool) (w : Welt) (r : Nat) (x : Lanes) : (maskWrite b w r x).flights = w.flights := by
  unfold maskWrite; split <;> rfl
@[simp] theorem maskWrite_nextFlight (b : Bool) (w : Welt) (r : Nat) (x : Lanes) : (maskWrite b w r x).nextFlight = w.nextFlight := by
  unfold maskWrite; split <;> rfl
@[simp] theorem maskWrite_wait (b : Bool) (w : Welt) (r : Nat) (x : Lanes) : (maskWrite b w r x).wait = w.wait := by
  unfold maskWrite; split <;> rfl
@[simp] theorem maskWrite_wantPrice (b : Bool) (w : Welt) (r : Nat) (x : Lanes) : (maskWrite b w r x).wantPrice = w.wantPrice := by
  unfold maskWrite; split <;> rfl
@[simp] theorem maskWrite_txn (b : Bool) (w : Welt) (r : Nat) (x : Lanes) : (maskWrite b w r x).txn = w.txn := by
  unfold maskWrite; split <;> rfl
@[simp] theorem maskWrite_spent (b : Bool) (w : Welt) (r : Nat) (x : Lanes) : (maskWrite b w r x).spent = w.spent := by
  unfold maskWrite; split <;> rfl
@[simp] theorem maskWrite_wantSince (b : Bool) (w : Welt) (r : Nat) (x : Lanes) : (maskWrite b w r x).wantSince = w.wantSince := by
  unfold maskWrite; split <;> rfl
@[simp] theorem maskWrite_order (b : Bool) (w : Welt) (r : Nat) (x : Lanes) : (maskWrite b w r x).order = w.order := by
  unfold maskWrite; split <;> rfl
@[simp] theorem maskWrite_unfenced (b : Bool) (w : Welt) (r : Nat) (x : Lanes) : (maskWrite b w r x).unfenced = w.unfenced := by
  unfold maskWrite; split <;> rfl
@[simp] theorem maskWrite_observed (b : Bool) (w : Welt) (r : Nat) (x : Lanes) : (maskWrite b w r x).observed = w.observed := by
  unfold maskWrite; split <;> rfl
@[simp] theorem maskWrite_cum (b : Bool) (w : Welt) (r : Nat) (x : Lanes) : (maskWrite b w r x).cum = w.cum := by
  unfold maskWrite; split <;> rfl
@[simp] theorem maskWrite_signalled (b : Bool) (w : Welt) (r : Nat) (x : Lanes) : (maskWrite b w r x).signalled = w.signalled := by
  unfold maskWrite; split <;> rfl
@[simp] theorem maskWrite_code (b : Bool) (w : Welt) (r : Nat) (x : Lanes) : (maskWrite b w r x).code = w.code := by
  unfold maskWrite; split <;> rfl
@[simp] theorem maskWrite_readyAt (b : Bool) (w : Welt) (r : Nat) (x : Lanes) : (maskWrite b w r x).readyAt = w.readyAt := by
  unfold maskWrite; split <;> rfl
@[simp] theorem maskWrite_triedAt (b : Bool) (w : Welt) (r : Nat) (x : Lanes) : (maskWrite b w r x).triedAt = w.triedAt := by
  unfold maskWrite; split <;> rfl
@[simp] theorem maskWrite_started (b : Bool) (w : Welt) (r : Nat) (x : Lanes) : (maskWrite b w r x).started = w.started := by
  unfold maskWrite; split <;> rfl
@[simp] theorem maskWrite_yielded (b : Bool) (w : Welt) (r : Nat) (x : Lanes) : (maskWrite b w r x).yielded = w.yielded := by
  unfold maskWrite; split <;> rfl
@[simp] theorem maskWrite_ended (b : Bool) (w : Welt) (r : Nat) (x : Lanes) : (maskWrite b w r x).ended = w.ended := by
  unfold maskWrite; split <;> rfl

end Sys2Proof.Machine
end

