-- ==== Sys2Proof/Laws/Registers.lean ====
section
/-!
SUPPORT. What reading a record, a lane or a register gives after one has been written: the same index gives the value
written, another index what it gave before.
-/

namespace Sys2Proof.Machine

/-! ### Lists by index -/

theorem getD_set {α : Type} (l : List α) (i j : Nat) (x d : α) :
    (l.set i x).getD j d = if i = j ∧ j < l.length then x else l.getD j d := by
  by_cases h : i = j
  · subst h
    by_cases g : i < l.length <;> simp [List.getD, g]
  · simp [List.getD, h]

theorem getD_setIfInBounds {α : Type} {n : Nat} (v : Vector α n) (i j : Nat) (x d : α) :
    (v.setIfInBounds i x).toList.getD j d = if i = j ∧ j < n then x else v.toList.getD j d := by
  have := getD_set v.toList i j x d
  rw [Vector.length_toList] at this
  rw [← this]
  congr 1
  simp [Vector.setIfInBounds, Vector.toList]

theorem weltAt_setWeltAt (s : State) (i j : Nat) (w : Welt) :
    (s.setWeltAt i w).weltAt j = if i = j ∧ j < s.welts.length then w else s.weltAt j := getD_set ..

theorem wgAt_setWgAt (s : State) (i j : Nat) (g : Wg) :
    (s.setWgAt i g).wgAt j = if i = j ∧ j < s.wgs.length then g else s.wgAt j := getD_set ..

theorem coreAt_setCoreAt (s : State) (i j : Nat) (c : Core) :
    (s.setCoreAt i c).coreAt j = if i = j ∧ j < 192 then c else s.coreAt j := by
  simp only [State.coreAt, State.setCoreAt, getD_setIfInBounds]

@[simp] theorem length_setWeltAt (s : State) (i : Nat) (w : Welt) :
    (s.setWeltAt i w).welts.length = s.welts.length := by simp [State.setWeltAt]

@[simp] theorem length_setCw (s : State) (w : Welt) : (s.setCw w).welts.length = s.welts.length := by
  simp [State.setCw]

/-- The issuing welt, once replaced, is the one put in its place. -/
theorem cw_setCw (s : State) (w : Welt) (h : Safety.issuing s) : (s.setCw w).cw = w := by
  exact (weltAt_setWeltAt s s.cur s.cur w).trans (if_pos ⟨rfl, h⟩)

theorem weltAt_setCw_ne (s : State) (w : Welt) (i : Nat) (h : i ≠ s.cur) : (s.setCw w).weltAt i = s.weltAt i := by
  rw [State.setCw, weltAt_setWeltAt]
  exact if_neg fun c => h c.1.symm

@[simp] theorem weltAt_setCoreAt (s : State) (c : Nat) (x : Core) (i : Nat) :
    (s.setCoreAt c x).weltAt i = s.weltAt i := rfl
@[simp] theorem weltAt_post (s : State) (x : Instr) (i : Nat) : (s.post x).weltAt i = s.weltAt i := rfl
@[simp] theorem weltAt_setWgAt (s : State) (g : Nat) (x : Wg) (i : Nat) : (s.setWgAt g x).weltAt i = s.weltAt i := rfl
@[simp] theorem coreAt_setCw (s : State) (w : Welt) (c : Nat) : (s.setCw w).coreAt c = s.coreAt c := rfl
@[simp] theorem coreAt_setWeltAt (s : State) (i : Nat) (w : Welt) (c : Nat) :
    (s.setWeltAt i w).coreAt c = s.coreAt c := rfl
@[simp] theorem coreAt_post (s : State) (x : Instr) (c : Nat) : (s.post x).coreAt c = s.coreAt c := rfl
@[simp] theorem wgAt_setCw (s : State) (w : Welt) (g : Nat) : (s.setCw w).wgAt g = s.wgAt g := rfl
@[simp] theorem wgAt_setWeltAt (s : State) (i : Nat) (w : Welt) (g : Nat) :
    (s.setWeltAt i w).wgAt g = s.wgAt g := rfl
@[simp] theorem wgAt_setCoreAt (s : State) (c : Nat) (x : Core) (g : Nat) :
    (s.setCoreAt c x).wgAt g = s.wgAt g := rfl
@[simp] theorem wgAt_post (s : State) (x : Instr) (g : Nat) : (s.post x).wgAt g = s.wgAt g := rfl
@[simp] theorem cw_setCoreAt (s : State) (c : Nat) (x : Core) : (s.setCoreAt c x).cw = s.cw := rfl
@[simp] theorem cw_post (s : State) (x : Instr) : (s.post x).cw = s.cw := rfl
@[simp] theorem cw_noteIssue (s : State) (c k : Nat) : (s.noteIssue c k).cw = s.cw := rfl

/-! ### Lanes -/

/-- A lane after a change of the lanes of a set. -/
theorem lane_mapLanes (w : Welt) (e : Lanes) (f : Nat → Lane → Lane) (i : Nat) (h : i < 32) :
    (w.mapLanes e f).lane i = if e.getLsbD i then f i (w.lane i) else w.lane i := by
  simp [Welt.mapLanes, Welt.lane, List.getD, h]

theorem lane_getElem (w : Welt) (i : Fin 32) : w.lane i = w.lanes[i] := by
  simp [Welt.lane, List.getD]

theorem rd_wr (l : Lane) (r q : Nat) (x : W32) (h : q < 128) :
    (l.wr r x).rd q = if r = q then x else l.rd q := by
  simp only [Lane.rd, Lane.wr, getD_setIfInBounds, h, and_true]

theorem full_wr (l : Lane) (r q : Nat) (x : W32) (h : q < 128) :
    (l.wr r x).full.getLsbD q = (decide (r = q) || l.full.getLsbD q) := by
  simp only [Lane.wr, BitVec.getLsbD_or, BitVec.getLsbD_twoPow]
  by_cases g : r = q
  · subst g; simp [h]
  · simp [g]

theorem bad_wr (l : Lane) (r q : Nat) (x : W32) (h : q < 128) :
    (l.wr r x).bad.getLsbD q = (!decide (r = q) && l.bad.getLsbD q) := by
  simp only [Lane.wr, BitVec.getLsbD_and, BitVec.getLsbD_not, BitVec.getLsbD_twoPow]
  by_cases g : r = q
  · subst g; simp [h]
  · simp [g, h]

/-- A register that a write does not name stays the same. -/
theorem sameReg_wr (l : Lane) (r q : Nat) (x : W32) (h : q < 128) (g : q ≠ r) : Safety.sameReg (l.wr r x) l q := by
  have g := Ne.symm g
  exact ⟨by rw [rd_wr _ _ _ _ h, if_neg g], by rw [full_wr _ _ _ _ h]; simp [g], by rw [bad_wr _ _ _ _ h]; simp [g]⟩

theorem sameReg_trans {l k m : Lane} {r : Nat} (a : Safety.sameReg l k r) (b : Safety.sameReg k m r) :
    Safety.sameReg l m r := ⟨a.1.trans b.1, a.2.1.trans b.2.1, a.2.2.trans b.2.2⟩

/-- A register that a typed write does not name stays the same. -/
theorem wrTy_other (l : Lane) (t : Ty) (r q : Nat) (x : W64) (h : q < 128) (g : q ∉ regsOf t r) :
    Safety.sameReg (l.wrTy t r x) l q := by
  unfold Lane.wrTy
  unfold regsOf at g
  split at g <;> rename_i c <;> simp only [List.mem_cons, List.not_mem_nil, or_false, not_or] at g
  · rw [if_pos c]; exact sameReg_trans (sameReg_wr _ _ _ _ h g.2) (sameReg_wr _ _ _ _ h g.1)
  · rw [if_neg c]; exact sameReg_wr _ _ _ _ h g

/-- A typed write makes the registers it names full, and free of an error. -/
theorem wrTy_full (l : Lane) (t : Ty) (r q : Nat) (x : W64) (h : q < 128) (g : q ∈ regsOf t r) :
    (l.wrTy t r x).full.getLsbD q = true ∧ (l.wrTy t r x).bad.getLsbD q = false := by
  unfold Lane.wrTy
  unfold regsOf at g
  split at g <;> rename_i c <;> simp only [List.mem_cons, List.not_mem_nil, or_false] at g
  · rw [if_pos c, full_wr _ _ _ _ h, full_wr _ _ _ _ h, bad_wr _ _ _ _ h, bad_wr _ _ _ _ h]
    rcases g with g | g <;> simp [g]
  · rw [if_neg c, full_wr _ _ _ _ h, bad_wr _ _ _ _ h]
    simp [g]

/-- A typed value written is the one read: 32 bits of it where the type takes one register, and the whole of it where it
takes a pair. -/
theorem rdTy_wrTy (l : Lane) (t : Ty) (r : Nat) (x : W64) (h : r + 1 < 128) :
    (l.wrTy t r x).rdTy t r = if t.is64 then x else (x.setWidth 32).setWidth 64 := by
  have h0 : r < 128 := by omega
  unfold Lane.wrTy Lane.rdTy
  by_cases c : t.is64
  · simp only [c, if_true, rd_wr _ _ _ _ h, rd_wr _ _ _ _ h0, Nat.succ_ne_self, if_false]
    apply BitVec.eq_of_getLsbD_eq
    intro i hi
    simp only [BitVec.getLsbD_append, BitVec.getLsbD_extractLsb', BitVec.getLsbD_setWidth]
    by_cases g : i < 32
    · simp [g]
    · simp [g, show i - 32 < 32 by omega, show 32 + (i - 32) = i by omega]
  · simp only [c, if_false, Bool.false_eq_true, rd_wr _ _ _ _ h0, if_true]

/-! ### Uniform and mask registers -/

theorem rdW_wrW (w : Welt) (r q : Nat) (x : W64) (h : q < 64) (g : q ≠ 0) :
    (w.wrW r x).rdW q = if r = q then x else w.rdW q := by
  unfold Welt.wrW Welt.rdW
  by_cases c : r = 0
  · subst c; simp [g, Ne.symm g]
  · simp only [c, if_false, g, getD_setIfInBounds, h, and_true]

theorem rdW_zero (w : Welt) : w.rdW 0 = 0 := rfl

theorem rdW_wrW_other (w : Welt) (r q : Nat) (x : W64) (h : q < 64) (g : q ≠ r) : (w.wrW r x).rdW q = w.rdW q := by
  by_cases c : q = 0
  · subst c; rfl
  · rw [rdW_wrW _ _ _ _ h c, if_neg (Ne.symm g)]

theorem fullW_wrW (w : Welt) (r q : Nat) (x : W64) (h : q < 64) :
    (w.wrW r x).fullW q = (decide (r = q) || w.fullW q) := by
  unfold Welt.wrW Welt.fullW
  by_cases c : r = 0
  · by_cases g : q = 0
    · simp [c, g]
    · simp [c, Ne.symm g]
  · rw [if_neg c]
    simp only [BitVec.getLsbD_or, BitVec.getLsbD_twoPow]
    by_cases g : r = q
    · subst g; simp [h]
    · simp [g]

theorem wbad_wrW (w : Welt) (r q : Nat) (x : W64) (g : q ≠ r) : (w.wrW r x).wbad.getLsbD q = w.wbad.getLsbD q := by
  unfold Welt.wrW
  split
  · rfl
  · simp only [BitVec.getLsbD_and, BitVec.getLsbD_not, BitVec.getLsbD_twoPow, Ne.symm g, decide_false, Bool.and_false,
      Bool.not_false, Bool.and_true]
    by_cases h : q < 64
    · simp [h]
    · simp [h, BitVec.getLsbD_of_ge w.wbad q (by omega)]

/-- A uniform register that a write does not name stays the same. -/
theorem sameUniform_wrW (w : Welt) (r q : Nat) (x : W64) (h : q < 64) (g : q ≠ r) :
    Safety.sameUniform (w.wrW r x) w q :=
  ⟨rdW_wrW_other _ _ _ _ h g, by rw [fullW_wrW _ _ _ _ h]; simp [Ne.symm g], wbad_wrW _ _ _ _ g⟩

theorem maskRead_zero (b : Bool) (w : Welt) : maskRead b w 0 = if b then 0xFFFF#32 else 0xFFFFFFFF#32 := rfl

theorem maskRead_maskWrite (b : Bool) (w : Welt) (r q : Nat) (x : Lanes) (h : q < 16) (g : q ≠ 0) :
    maskRead b (maskWrite b w r x) q = if r = q then (if b then x &&& 0xFFFF#32 else x) else maskRead b w q := by
  unfold maskWrite maskRead
  by_cases c : r = 0
  · subst c; simp [g, Ne.symm g]
  · simp only [c, if_false, g, getD_setIfInBounds, h, and_true]

theorem maskRead_maskWrite_other (b : Bool) (w : Welt) (r q : Nat) (x : Lanes) (h : q < 16) (g : q ≠ r) :
    maskRead b (maskWrite b w r x) q = maskRead b w q := by
  by_cases c : q = 0
  · subst c; rfl
  · rw [maskRead_maskWrite _ _ _ _ _ h c, if_neg (Ne.symm g)]

end Sys2Proof.Machine
end

