-- ==== Sys2Proof/Laws/Issue.lean ====
section
/-!
SUPPORT. What retiring an instruction does, said once: the shared operations `retire` and `issue` and the shapes of
register-only instructions, in the words of Sys2Proof/Safety.lean.
-/

namespace Sys2Proof.Machine

open Safety

/-! ### The marks of an issue on its welt -/

/-- The records of halts touch the trap registers alone. -/
theorem Welt.record_rest (w : Welt) (hs : List HaltRec) : { hs.foldl Welt.record w with traps := w.traps } = w := by
  induction hs generalizing w with
  | nil => rfl
  | cons r hs ih =>
    have e : { w.record r with traps := w.traps } = w := by
      unfold Welt.record; split <;> rfl
    exact (congrArg (fun x : Welt => ({ x with traps := w.traps } : Welt)) (ih (w.record r))).trans e

/-- Stopping touches nothing but the halt, what the welt awaits, and the records of R425 in its trap registers. -/
theorem Welt.stop_rest (w : Welt) : { w.stop with
    traps := w.traps, halt := w.halt, wait := w.wait, wantSince := w.wantSince, wantPrice := w.wantPrice } = w := by
  unfold Welt.stop; split
  · rename_i hs _
    exact (congrArg (fun x : Welt => ({ x with
      halt := w.halt, wait := w.wait, wantSince := w.wantSince, wantPrice := w.wantPrice } : Welt)) (w.record_rest hs) :)
  · rfl

@[simp] theorem Welt.stop_lanes (w : Welt) : w.stop.lanes = w.lanes := (congrArg Welt.lanes w.stop_rest :)
@[simp] theorem Welt.stop_w (w : Welt) : w.stop.w = w.w := (congrArg Welt.w w.stop_rest :)
@[simp] theorem Welt.stop_wfull (w : Welt) : w.stop.wfull = w.wfull := (congrArg Welt.wfull w.stop_rest :)
@[simp] theorem Welt.stop_wbad (w : Welt) : w.stop.wbad = w.wbad := (congrArg Welt.wbad w.stop_rest :)
@[simp] theorem Welt.stop_m (w : Welt) : w.stop.m = w.m := (congrArg Welt.m w.stop_rest :)
@[simp] theorem Welt.stop_fpctl (w : Welt) : w.stop.fpctl = w.fpctl := (congrArg Welt.fpctl w.stop_rest :)

theorem Welt.stop_of_running (w : Welt) (h : w.halt = .none) : w.stop = w := by
  unfold Welt.stop; rw [h]

@[simp] theorem Welt.settleHalt_lanes (w : Welt) (a : Lanes) : (w.settleHalt a).lanes = w.lanes := by
  unfold Welt.settleHalt; split <;> simp
@[simp] theorem Welt.settleHalt_w (w : Welt) (a : Lanes) : (w.settleHalt a).w = w.w := by
  unfold Welt.settleHalt; split <;> simp
@[simp] theorem Welt.settleHalt_wfull (w : Welt) (a : Lanes) : (w.settleHalt a).wfull = w.wfull := by
  unfold Welt.settleHalt; split <;> simp
@[simp] theorem Welt.settleHalt_wbad (w : Welt) (a : Lanes) : (w.settleHalt a).wbad = w.wbad := by
  unfold Welt.settleHalt; split <;> simp
@[simp] theorem Welt.settleHalt_m (w : Welt) (a : Lanes) : (w.settleHalt a).m = w.m := by
  unfold Welt.settleHalt; split <;> simp
@[simp] theorem Welt.settleHalt_fpctl (w : Welt) (a : Lanes) : (w.settleHalt a).fpctl = w.fpctl := by
  unfold Welt.settleHalt; split <;> simp

theorem Welt.settleHalt_of_running (w : Welt) (a : Lanes) (h : w.halt = .none) : w.settleHalt a = w := by
  unfold Welt.settleHalt; split
  · exact w.stop_of_running h
  · rfl

theorem Welt.settleHalt_rest (w : Welt) (a : Lanes) : { w.settleHalt a with
    traps := w.traps, halt := w.halt, wait := w.wait, wantSince := w.wantSince, wantPrice := w.wantPrice } = w := by
  unfold Welt.settleHalt; split
  · exact w.stop_rest
  · rfl

/-- From `w` to `u` a welt has changed in nothing but lanes, registers and `sr.fpctl`. -/
def Welt.Only (w u : Welt) : Prop :=
  { u with lanes := w.lanes, w := w.w, wfull := w.wfull, wbad := w.wbad, m := w.m, fpctl := w.fpctl } = w

theorem Welt.only_refl (w : Welt) : w.Only w := rfl

theorem Welt.only_mapLanes {w u : Welt} (h : w.Only u) (e : Lanes) (f : Nat → Lane → Lane) :
    w.Only (u.mapLanes e f) := by
  unfold Welt.Only at *
  unfold Welt.mapLanes
  exact h

theorem Welt.only_advance {w u : Welt} (h : w.Only u) (a : Lanes) (n : Nat) : w.Only (u.advance a n) := by
  unfold Welt.advance
  exact only_mapLanes h ..

theorem Welt.only_wrW {w u : Welt} (h : w.Only u) (r : Nat) (x : W64) : w.Only (u.wrW r x) := by
  unfold Welt.Only at *
  unfold Welt.wrW
  split <;> exact h

theorem Welt.only_maskWrite {w u : Welt} (h : w.Only u) (b : Bool) (r : Nat) (x : Lanes) :
    w.Only (maskWrite b u r x) := by
  unfold Welt.Only at *
  unfold maskWrite
  split <;> exact h

theorem Welt.only_fpctl {w u : Welt} (h : w.Only u) (x : W32) : w.Only { u with fpctl := x } := by
  unfold Welt.Only at *
  exact h

/-- What the issue marks on a welt that an effect has changed only in its registers is `Inside`. -/
theorem inside_issued {w u : Welt} (h : w.Only u) (a : Lanes) (p : Pc) (d : BitVec 6) (r : Option Nat) :
    Inside w { (u.issued a p d).settleHalt a with readyAt := r } := by
  have hr := (u.issued a p d).settleHalt_rest a
  have halt : u.halt = w.halt := (congrArg Welt.halt (show _ = w from h) :)
  have replay : u.replay = w.replay := (congrArg Welt.replay (show _ = w from h) :)
  have traps : u.traps = w.traps := (congrArg Welt.traps (show _ = w from h) :)
  refine ⟨?_, fun h0 h1 => ?_, fun h0 => ?_⟩
  · let norm (x : Welt) : Welt := { x with
      lanes := w.lanes, w := w.w, wfull := w.wfull, wbad := w.wbad, m := w.m, fpctl := w.fpctl, traps := w.traps
      halt := w.halt, readyAt := w.readyAt, wait := w.wait, spent := w.spent, wantSince := w.wantSince
      wantPrice := w.wantPrice, order := w.order
      yielded := w.yielded, atStart := w.atStart, started := w.started, replay := w.replay, stepDone := w.stepDone
      stepPc := w.stepPc, stepDepth := w.stepDepth, stepLanes := w.stepLanes }
    have e1 : norm ((u.issued a p d).settleHalt a) = norm (u.issued a p d) := (congrArg norm hr :)
    have e2 : norm (u.issued a p d) = norm u := rfl
    have e3 : norm u = norm w := (congrArg norm (show _ = w from h) :)
    exact e1.trans (e2.trans e3)
  · have : (u.issued a p d).halt = .none := by simp [Welt.issued, halt, h0, Halt.retired]
    rw [Welt.settleHalt_of_running _ _ this]
    simp [Welt.issued, Welt.endReplay, replay, h1, traps]
  · have : (u.issued a p d).halt = .none := by simp [Welt.issued, halt, h0, Halt.retired]
    rw [Welt.settleHalt_of_running _ _ this]
    exact this

/-! ### What is outside the issuing welt -/

/-- A byte as a reader finds it depends on no welt, core or event. -/
theorem getByte_congr {s t : State}
    (h : { t with welts := s.welts, cores := s.cores, agenda := s.agenda, stitches := s.stitches } = s) (l : Loc) :
    t.getByte l = s.getByte l := by
  have e : t.getByte l = ({ t with
      welts := s.welts, cores := s.cores, agenda := s.agenda, stitches := s.stitches } : State).getByte l := by
    cases l <;> rfl
  rw [e, h]

theorem without_other (x : Stitch) (i : Nat) (h : (x.members.any fun m => m.1 == i) = false) : x.without i = some x := by
  unfold Stitch.without; rw [h]; rfl

/-- A welt in no stitch leaves none. -/
theorem leaveStitch_alone (s : State) (i : Nat) (h : s.stitchOf i = none) : (s.leaveStitch i).stitches = s.stitches := by
  have h : ∀ x ∈ s.stitches, (x.members.any fun m => m.1 == i) = false := fun x hx =>
    Bool.eq_false_iff.mpr (List.find?_eq_none.mp h x hx)
  show s.stitches.filterMap _ = s.stitches
  generalize s.stitches = l at h
  induction l with
  | nil => rfl
  | cons x t ih =>
    rw [List.filterMap_cons, without_other x i (h x (List.mem_cons_self ..)),
      ih fun y hy => h y (List.mem_cons_of_mem _ hy)]

/-- A welt in no stitch counts in none. -/
theorem countStitch_alone (s : State) (i : Nat) (h : s.stitchOf i = none) : (s.countStitch i).stitches = s.stitches := by
  have h : ∀ x ∈ s.stitches, (x.members.any fun m => m.1 == i) = false := fun x hx =>
    Bool.eq_false_iff.mpr (List.find?_eq_none.mp h x hx)
  refine (List.map_congr_left fun x hx => ?_).trans (List.map_id _)
  have g : ∀ m ∈ x.members, (if m.1 == i then (i, m.2 + 1) else m) = id m := fun m hm => by
    have := List.any_eq_false.mp (h x hx) m hm
    rw [if_neg this]; rfl
  rw [List.map_congr_left g, List.map_id]; rfl

/-- What retiring leaves, in full: the welt, the marks of its core, its stitch, a single step due. -/
theorem retireWith_eq (s : State) (w : Welt) : ∃ st,
    (s.stitchOf s.cur = none → st = s.stitches) ∧
    s.retireWith w =
      { ((s.setCw { (w.issued s.cw.A s.cw.pc s.cw.lead.depth).settleHalt s.cw.A with readyAt := some s.now }).noteIssue
          s.cg.core s.cw.slice) with
        stitches := st
        agenda := s.agenda ++ if s.cw.stepping then [.singleStepComplete s.cur] else [] } := by
  cases p : s.cw.lead.pos with
  | inside c n =>
    cases c
    case control =>
      refine ⟨(s.leaveStitch s.cur).stitches, leaveStitch_alone s s.cur, ?_⟩
      unfold State.retireWith
      simp only [p]
      split
      · rfl
      · simp only [List.append_nil]; rfl
    all_goals
      refine ⟨(s.countStitch s.cur).stitches, countStitch_alone s s.cur, ?_⟩
      unfold State.retireWith
      simp only [p]
      split
      · rfl
      · simp only [List.append_nil]; rfl
  | _ =>
    refine ⟨(s.countStitch s.cur).stitches, countStitch_alone s s.cur, ?_⟩
    unfold State.retireWith
    simp only [p]
    split
    · rfl
    · simp only [List.append_nil]; rfl

/-- The cores after an issue: the marks of R321, R336 and R337 on the issuing one. -/
theorem coreAt_noteIssue (s : State) (core slice c : Nat) : (s.noteIssue core slice).coreAt c =
    if core = c ∧ c < 192 then
      { s.coreAt core with
        busyAt := s.now
        timerStart := s.now
        gate := .on
        slices := (s.coreAt core).slices.setIfInBounds slice
          { (s.coreAt core).slices.toList.getD slice Slice.init with issuedAt := some s.now } }
    else s.coreAt c := coreAt_setCoreAt ..

/-- Replacing the issuing welt, noting the issue, and the single step due: the device around the welt is `Outside`. -/
theorem outside_retireWith (s : State) (w : Welt) : Outside s (s.retireWith w) := by
  obtain ⟨st, hst, e⟩ := retireWith_eq s w
  have core (c : Nat) := coreAt_noteIssue
    (s.setCw { (w.issued s.cw.A s.cw.pc s.cw.lead.depth).settleHalt s.cw.A with readyAt := some s.now }) s.cg.core s.cw.slice c
  rw [e]
  refine ⟨getByte_congr rfl, rfl, hst, by simp [State.noteIssue],
    fun i hi => weltAt_setCw_ne _ _ _ hi, fun c hc => ?_, ?_, fun k => ?_, rfl⟩
  · exact (core c).trans (if_neg fun h => hc h.1.symm)
  · refine (congrArg (fun x : Core => ({ x with
      busyAt := (s.coreAt s.cg.core).busyAt
      timerStart := (s.coreAt s.cg.core).timerStart
      gate := (s.coreAt s.cg.core).gate
      slices := (s.coreAt s.cg.core).slices } : Core)) (core s.cg.core)).trans ?_
    split <;> rfl
  · refine (congrArg (fun x : Core => ({ x.slices.toList.getD k Slice.init with
      issuedAt := ((s.coreAt s.cg.core).slices.toList.getD k Slice.init).issuedAt } : Slice)) (core s.cg.core)).trans ?_
    split
    · simp only [getD_setIfInBounds, coreAt_setCw]
      split
      · rename_i h; rw [h.1]
      · rfl
    · rfl

theorem cw_retireWith (s : State) (w : Welt) (h : issuing s) : (s.retireWith w).cw =
    { (w.issued s.cw.A s.cw.pc s.cw.lead.depth).settleHalt s.cw.A with readyAt := some s.now } := by
  obtain ⟨st, -, e⟩ := retireWith_eq s w
  rw [e]
  exact cw_setCw s _ h

@[simp] theorem legacy_retireWith (s : State) (w : Welt) (h : issuing s) (hw : w.wg = s.cw.wg) :
    (s.retireWith w).legacy = s.legacy := by
  have e : (s.retireWith w).cw.wg = s.cw.wg := by
    rw [cw_retireWith s w h, ← hw]
    exact (congrArg Welt.wg ((w.issued s.cw.A s.cw.pc s.cw.lead.depth).settleHalt_rest s.cw.A) :)
  obtain ⟨st, -, r⟩ := retireWith_eq s w
  have e2 : (s.retireWith w).wgs = s.wgs ∧ (s.retireWith w).launches = s.launches := by
    rw [r]; exact ⟨rfl, rfl⟩
  simp [State.legacy, State.cl, State.launchOf, State.launchAt, State.cg, State.wgAt, e, e2]

/-! ### Retiring -/

/-- The effect of a register-only instruction on its welt, before the lanes move: registers and flags alone, and of the
lanes only the registers `rs` in `e`. -/
structure Welt.Effect (w u : Welt) (e : Lanes) (rs : List Nat) : Prop where
  only : w.Only u
  key : ∀ i < 32, (u.lane i).pc = (w.lane i).pc ∧ (u.lane i).depth = (w.lane i).depth
    ∧ (u.lane i).x = (w.lane i).x ∧ (u.lane i).h = (w.lane i).h ∧ (u.lane i).seg = (w.lane i).seg
  kept : ∀ i < 32, ∀ r < 128, (e.getLsbD i → r ∉ rs) → sameReg (u.lane i) (w.lane i) r
  full : ∀ i < 32, e.getLsbD i → ∀ r < 128, r ∈ rs →
    (u.lane i).full.getLsbD r = true ∧ (u.lane i).bad.getLsbD r = false

theorem lane_congr {w u : Welt} (h : u.lanes = w.lanes) (i : Nat) : u.lane i = w.lane i := by
  simp [Welt.lane, h]

/-- The lane of the issuing welt after it has retired: its effect, and moved on if it is in A. -/
theorem lane_retire (s : State) (w : Welt) (len : Nat) (h : issuing s) (i : Nat) (hi : i < 32) :
    (s.retire w len).cw.lane i = if s.cw.A.getLsbD i then
      { w.lane i with pc := (w.lane i).pc + BitVec.ofNat 48 (4 * len), pos := (w.lane i).pos.next } else w.lane i := by
  rw [State.retire, cw_retireWith _ _ h, lane_congr (w := w.advance s.cw.A len) (by simp)]
  exact lane_mapLanes _ _ _ _ hi

theorem sameUniform_trans {u v w : Welt} {r : Nat} (a : sameUniform u v r) (b : sameUniform v w r) : sameUniform u w r :=
  ⟨a.1.trans b.1, a.2.1.trans b.2.1, a.2.2.trans b.2.2⟩

/-- Retiring moves the lanes of A and marks the issue; the registers are those of the effect. -/
theorem retire_confined (s : State) (w : Welt) (len : Nat) (e : Lanes) (rs ws ms : List Nat) (fl : FlagBits)
    (h : issuing s) (x : s.cw.Effect w e rs)
    (hw : ∀ r < 64, r ∉ ws → sameUniform w s.cw r)
    (hm : ∀ r < 16, r ∉ ms → maskRead s.legacy w r = maskRead s.legacy s.cw r)
    (hf : w.fpctl = s.cw.fpctl ||| fl.setWidth 32) : Confined s (s.retire w len) len e rs ws ms fl := by
  have cw := cw_retireWith s (w.advance s.cw.A len) h
  have lane := lane_retire s w len h
  refine ⟨outside_retireWith _ _, ?_, ⟨fun i hi => ?_, fun i hi => ?_, fun i hi r hr g => ?_⟩,
    fun i hi he r hr g => ?_, fun r hr g => ?_, fun r hr g => ?_, ?_⟩
  · rw [State.retire, cw]
    exact inside_issued (Welt.only_advance x.only _ _) _ _ _ _
  · rw [lane i hi, ← (x.key i hi).1]; split <;> rfl
  · rw [lane i hi, ← (x.key i hi).2.1, ← (x.key i hi).2.2.1, ← (x.key i hi).2.2.2.1, ← (x.key i hi).2.2.2.2]
    split <;> exact ⟨rfl, rfl, rfl, rfl⟩
  · rw [lane i hi]; split <;> exact x.kept i hi r hr g
  · rw [lane i hi]; split <;> exact x.full i hi he r hr g
  · rw [State.retire, cw]
    refine sameUniform_trans ⟨?_, ?_, ?_⟩ (hw r hr g) <;> simp [Welt.rdW, Welt.fullW]
  · rw [State.retire, cw, ← hm r hr g]
    simp [maskRead]
  · rw [State.retire, cw, ← hf]
    simp

/-- The registers of the issuing welt after it has retired are those of the effect. -/
theorem rd_retire (s : State) (w : Welt) (len : Nat) (h : issuing s) (i : Nat) (hi : i < 32) (r : Nat) :
    ((s.retire w len).cw.lane i).rd r = (w.lane i).rd r := by
  rw [lane_retire s w len h i hi]; split <;> rfl

theorem rdTy_retire (s : State) (w : Welt) (len : Nat) (h : issuing s) (i : Nat) (hi : i < 32) (t : Ty) (r : Nat) :
    ((s.retire w len).cw.lane i).rdTy t r = (w.lane i).rdTy t r := by
  simp [Lane.rdTy, rd_retire s w len h i hi]

theorem rdW_retire (s : State) (w : Welt) (len : Nat) (h : issuing s) (r : Nat) :
    (s.retire w len).cw.rdW r = w.rdW r := by
  rw [State.retire, cw_retireWith _ _ h]; simp [Welt.rdW]

theorem fullW_retire (s : State) (w : Welt) (len : Nat) (h : issuing s) (r : Nat) :
    (s.retire w len).cw.fullW r = w.fullW r := by
  rw [State.retire, cw_retireWith _ _ h]; simp [Welt.fullW]

theorem maskRead_retire (s : State) (w : Welt) (len : Nat) (h : issuing s) (b : Bool) (r : Nat) :
    maskRead b (s.retire w len).cw r = maskRead b w r := by
  rw [State.retire, cw_retireWith _ _ h]; simp [maskRead]

/-! ### The shapes of register-only instructions -/

/-- A vector instruction that is ready: a next state, confined to its destination registers in the lanes of E, with
the value of `f` in each. -/
theorem vecOp_next (s : State) (p : BitVec 2) (d : Deps) (price len : Nat) (f : Nat → Lane → Lane) (rs : List Nat)
    (h : issuing s) (hi : s.issues (s.E p) d price = true)
    (key : ∀ i l, (f i l).pc = l.pc ∧ (f i l).depth = l.depth ∧ (f i l).x = l.x ∧ (f i l).h = l.h ∧ (f i l).seg = l.seg)
    (kept : ∀ i l, ∀ r < 128, r ∉ rs → sameReg (f i l) l r)
    (full : ∀ i l, ∀ r < 128, r ∈ rs → (f i l).full.getLsbD r = true ∧ (f i l).bad.getLsbD r = false) :
    ∃ t, s.vecOp p d price len f = .next t ∧ Confined s t len (s.E p) rs [] [] 0 ∧
      ∀ i < 32, (s.E p).getLsbD i → ∀ r, (t.cw.lane i).rd r = (f i (s.cw.lane i)).rd r := by
  have lane := lane_mapLanes s.cw (s.E p) f
  refine ⟨_, issue_go _ _ _ _ _ hi, retire_confined _ _ _ _ _ _ _ _ h ?_ (fun r _ _ => ?_) (fun r _ _ => ?_) ?_,
    fun i hi he r => ?_⟩
  · refine ⟨Welt.only_mapLanes s.cw.only_refl _ _, fun i hi => ?_, fun i hi r hr g => ?_, fun i hi he r hr g => ?_⟩
    · rw [lane i hi]; split
      · exact key _ _
      · exact ⟨rfl, rfl, rfl, rfl, rfl⟩
    · rw [lane i hi]; split
      · rename_i he; exact kept _ _ r hr (g he)
      · exact ⟨rfl, rfl, rfl⟩
    · rw [lane i hi, if_pos he]; exact full _ _ r hr g
  · exact ⟨by simp [Welt.rdW], by simp [Welt.fullW], by simp⟩
  · simp [maskRead]
  · simp
  · rw [rd_retire _ _ _ h _ hi, lane i hi, if_pos he]

/-- An effect that leaves the lanes alone. -/
theorem effect_of_lanes {w u : Welt} (h : w.Only u) (hl : u.lanes = w.lanes) : w.Effect u 0 [] := by
  refine ⟨h, fun i _ => ?_, fun i _ r _ _ => ?_, fun i _ he => by simp at he⟩
  · rw [lane_congr hl]; exact ⟨rfl, rfl, rfl, rfl, rfl⟩
  · rw [lane_congr hl]; exact ⟨rfl, rfl, rfl⟩

/-- A uniform or mask instruction that is ready: a next state with its effect on the welt. -/
theorem uniOp_next (s : State) (d : Deps) (len : Nat) (w : Welt) (ws ms : List Nat) (h : issuing s)
    (hi : s.issues s.cw.A d 0 = true) (ho : s.cw.Only w) (hl : w.lanes = s.cw.lanes)
    (hw : ∀ r < 64, r ∉ ws → sameUniform w s.cw r)
    (hm : ∀ r < 16, r ∉ ms → maskRead s.legacy w r = maskRead s.legacy s.cw r) (hf : w.fpctl = s.cw.fpctl) :
    ∃ t, s.uniOp d len w = .next t ∧ Confined s t len 0 [] ws ms 0 ∧
      (∀ r, t.cw.rdW r = w.rdW r ∧ t.cw.fullW r = w.fullW r) ∧ ∀ b r, maskRead b t.cw r = maskRead b w r :=
  ⟨_, issue_go _ _ _ _ _ hi,
    retire_confined _ _ _ _ _ _ _ _ h (effect_of_lanes ho hl) hw hm (by simpa using hf),
    fun r => ⟨rdW_retire _ _ _ h r, fullW_retire _ _ _ h r⟩, fun b r => maskRead_retire _ _ _ h b r⟩

/-- A uniform instruction that writes one uniform register. -/
theorem uniW_next (s : State) (d : Deps) (len : Nat) (r : WReg) (x : W64) (h : issuing s)
    (hi : s.issues s.cw.A d 0 = true) :
    ∃ t, s.uniOp d len (s.cw.wrW r.toNat x) = .next t ∧ Confined s t len 0 [] [r.toNat] [] 0 ∧
      (t.cw.rdW r.toNat = if r = 0 then 0 else x) ∧ t.cw.fullW r.toNat = true := by
  obtain ⟨t, e, c, v, -⟩ := uniOp_next s d len (s.cw.wrW r.toNat x) [r.toNat] [] h hi
    (Welt.only_wrW s.cw.only_refl _ _) (by simp)
    (fun q hq g => by
      simp only [List.mem_cons, List.not_mem_nil, or_false] at g
      exact sameUniform_wrW _ _ _ _ hq g)
    (fun q _ _ => by simp [maskRead]) (by simp)
  refine ⟨t, e, c, ?_, ?_⟩
  · rw [(v _).1]
    by_cases g : r = 0
    · subst g; rfl
    · rw [rdW_wrW _ _ _ _ (by omega) (fun c => g (BitVec.eq_of_toNat_eq c)), if_pos rfl, if_neg g]
  · rw [(v _).2, fullW_wrW _ _ _ _ (by omega)]; simp

/-- A mask register as R56 writes it. -/
def legacyMask (b : Bool) (x : Lanes) : Lanes := if b then x &&& 0xFFFF#32 else x

/-- A uniform or mask instruction that writes one mask register. -/
theorem uniM_next (s : State) (d : Deps) (len : Nat) (r : MReg) (x : Lanes) (h : issuing s)
    (hi : s.issues s.cw.A d 0 = true) :
    ∃ t, s.uniOp d len (maskWrite s.legacy s.cw r.toNat x) = .next t ∧ Confined s t len 0 [] [] [r.toNat] 0 ∧
      maskRead s.legacy t.cw r.toNat = if r = 0 then maskRead s.legacy s.cw 0 else legacyMask s.legacy x := by
  obtain ⟨t, e, c, -, v⟩ := uniOp_next s d len (maskWrite s.legacy s.cw r.toNat x) [] [r.toNat] h hi
    (Welt.only_maskWrite s.cw.only_refl _ _ _) (by simp)
    (fun q _ _ => ⟨by simp [Welt.rdW], by simp [Welt.fullW], by simp⟩)
    (fun q hq g => by
      simp only [List.mem_cons, List.not_mem_nil, or_false] at g
      exact maskRead_maskWrite_other _ _ _ _ _ hq g) (by simp)
  refine ⟨t, e, c, ?_⟩
  rw [v]
  by_cases g : r = 0
  · subst g; rfl
  · rw [maskRead_maskWrite _ _ _ _ _ (by omega) (fun c => g (BitVec.eq_of_toNat_eq c)), if_pos rfl, if_neg g]
    rfl

theorem ofPred_getLsbD (p : Fin 32 → Bool) (i : Nat) (h : i < 32) : (Lanes.ofPred p).getLsbD i = p ⟨i, h⟩ := by
  rw [BitVec.getLsbD_eq_getElem h]
  exact BitVec.getElem_ofFnLE p i h

/-- A vector instruction that writes the bits of E in one mask register (R131): `m0` keeps its value (R52), and R56
clears bits 31:16 in legacy-width mode. -/
theorem maskOp_next (s : State) (p : BitVec 2) (d : Deps) (len : Nat) (md : MReg) (f : Nat → Lane → Bool)
    (h : issuing s) (hi : s.issues (s.E p) d 0 = true) :
    ∃ t, s.maskOp p d len md f = .next t ∧ Confined s t len 0 [] [] [md.toNat] 0 ∧
      ∀ i < 32, (maskRead s.legacy t.cw md.toNat).getLsbD i =
        if md = 0 then (maskRead s.legacy s.cw 0).getLsbD i
        else if s.legacy && decide (16 ≤ i) then false
        else if (s.E p).getLsbD i then f i (s.cw.lane i) else (maskRead s.legacy s.cw md.toNat).getLsbD i := by
  refine ⟨_, issue_go _ _ _ _ _ hi, retire_confined _ _ _ _ _ _ _ _ h
    (effect_of_lanes (Welt.only_maskWrite s.cw.only_refl _ _ _) (by simp))
    (fun q _ _ => ⟨by simp [Welt.rdW], by simp [Welt.fullW], by simp⟩) (fun q hq g => ?_) (by simp), fun i hi => ?_⟩
  · simp only [List.mem_cons, List.not_mem_nil, or_false] at g
    exact maskRead_maskWrite_other _ _ _ _ _ hq g
  · rw [maskRead_retire _ _ _ h]
    by_cases g : md = 0
    · subst g; rfl
    · rw [maskRead_maskWrite _ _ _ _ _ (by omega) (fun c => g (BitVec.eq_of_toNat_eq c)), if_pos rfl, if_neg g]
      have o := fun q => ofPred_getLsbD q i hi
      by_cases l : s.legacy
      · by_cases k : 16 ≤ i
        · have : (0xFFFF#32).getLsbD i = false := by
            have : ∀ j : Fin 32, 16 ≤ j.val → (0xFFFF#32).getLsbD j = false := by decide
            exact this ⟨i, hi⟩ k
          simp only [l, if_true, BitVec.getLsbD_and, this, Bool.and_false, k, decide_true, Bool.and_self]
        · have : (0xFFFF#32).getLsbD i = true := by
            have : ∀ j : Fin 32, ¬16 ≤ j.val → (0xFFFF#32).getLsbD j = true := by decide
            exact this ⟨i, hi⟩ k
          simp only [l, if_true, BitVec.getLsbD_and, this, Bool.and_true, k, decide_false, Bool.and_false, o]
          simp [lane_getElem s.cw ⟨i, hi⟩]
      · simp only [l, if_false, Bool.false_eq_true, Bool.false_and, o]
        simp [lane_getElem s.cw ⟨i, hi⟩]

/-- A typed value written and read again: the form of `rdTy_wrTy` for an operand that R51 allows. -/
theorem rdTy_wrTy_of_even (l : Lane) (t : Ty) (r : VReg) (x : W64) (h : t.is64 = true → r.toNat % 2 = 0) :
    (l.wrTy t r.toNat x).rdTy t r.toNat = if t.is64 then x else (x.setWidth 32).setWidth 64 := by
  by_cases c : t.is64
  · exact rdTy_wrTy l t _ x (by have := h c; omega)
  · have h0 : r.toNat < 128 := r.isLt
    simp only [Lane.wrTy, Lane.rdTy, c, if_false, Bool.false_eq_true, rd_wr _ _ _ _ h0, if_true]

theorem wr_eq_wrTy (l : Lane) (r : Nat) (x : W32) : l.wr r x = l.wrTy .b32 r (x.setWidth 64) := by
  simp [Lane.wrTy, Ty.is64]

/-- A vector instruction that writes one typed value in each lane of E. -/
theorem vecW_next (s : State) (p : BitVec 2) (d : Deps) (price len : Nat) (t : Ty) (r : VReg) (f : Nat → Lane → W64)
    (h : issuing s) (hi : s.issues (s.E p) d price = true) (hr : t.is64 = true → r.toNat % 2 = 0) :
    ∃ u, s.vecOp p d price len (fun i l => l.wrTy t r.toNat (f i l)) = .next u ∧
      Confined s u len (s.E p) (regsOf t r.toNat) [] [] 0 ∧
      ∀ i < 32, (s.E p).getLsbD i → (u.cw.lane i).rdTy t r.toNat =
        if t.is64 then f i (s.cw.lane i) else ((f i (s.cw.lane i)).setWidth 32).setWidth 64 := by
  obtain ⟨u, e, c, v⟩ := vecOp_next s p d price len (fun i l => l.wrTy t r.toNat (f i l)) (regsOf t r.toNat) h hi
    (fun _ _ => by simp) (fun _ l q hq g => wrTy_other l t _ q _ hq g) (fun _ l q hq g => wrTy_full l t _ q _ hq g)
  refine ⟨u, e, c, fun i hi he => ?_⟩
  rw [← rdTy_wrTy_of_even (s.cw.lane i) t r _ hr]
  simp only [Lane.rdTy, v i hi he]

end Sys2Proof.Machine
end

