-- ==== Sys2Proof/Certificates/Slice0/Obligations.lean ====
section
/-!
DEFINITION. The statements of this slice, and the words they are said in. Each docstring names the rule of spec/ that
its statement formalises. `Safety.Confined` is the frame: what an instruction leaves as it was.
-/

namespace Sys2Proof.Claims

open Sys2Proof.Machine Sys2Proof.Safety

/-! ### Numbers and register images (R100, R101) -/

/-- The number that the low bits of a source hold: signed for an .s type, natural for the others (R100). -/
def num (t : Ty) (x : W64) : Int :=
  let n : Int := (x.toNat % 2 ^ t.width : Nat)
  if t.isSigned ∧ 2 ^ (t.width - 1) ≤ n then n - 2 ^ t.width else n

/-- The register image of a result: wrapped to the width of the type, sign-extended to the register for an .s type and
zero-extended for the others (R100); a pair is read whole. -/
def image (t : Ty) (z : Int) : W64 :=
  if t.is64 then BitVec.ofInt 64 z
  else if t.isSigned then ((BitVec.ofInt t.width z).signExtend 32).setWidth 64
  else (BitVec.ofNat 64 (BitVec.ofInt t.width z).toNat)

/-- A result that is the image of the string whose bits, from 0 to the width of the type, are given (R100). -/
def imageOfBits (t : Ty) (y : W64) (bits : Nat → Bool) : Prop :=
  y = image t (num t y) ∧ ∀ j < t.width, y.getLsbD j = bits j

/-- An exact result clamped to the range of the type (R101). -/
def clamp (t : Ty) (z : Int) : Int :=
  if t.isSigned then max (-2 ^ (t.width - 1)) (min z (2 ^ (t.width - 1) - 1)) else max 0 (min z (2 ^ t.width - 1))

/-- `n` is the number of leading zero bits among the low `k` bits of a natural number (R127). -/
def isClz (k x n : Nat) : Prop := n ≤ k ∧ x % 2 ^ k < 2 ^ (k - n) ∧ (n < k → 2 ^ (k - n - 1) ≤ x % 2 ^ k)

/-- The number of ones among the low `k` bits (R127). -/
def ones (k : Nat) (x : W64) : Nat := ((List.range k).map fun i => (x.getLsbD i).toNat).sum

/-! ### Shapes of what an instruction does -/

/-- Instruction `i` of `len` words runs to a next state in which the lanes of `e` hold in `d`, of type `t`, a value that
`R` relates to the lane before it; nothing else has changed. -/
def VectorResult (s : State) (i : Instr) (len : Nat) (e : Lanes) (t : Ty) (d : VReg) (R : Nat → Lane → W64 → Prop) :
    Prop :=
  ∃ u, exec i s = .next u ∧ Confined s u len e (regsOf t d.toNat) [] [] 0 ∧
    ∀ l < 32, e.getLsbD l → R l (s.cw.lane l) ((u.cw.lane l).rdTy t d.toNat)

/-- Instruction `i` of `len` words runs to a next state in which the uniform register `d` is full and holds a value that
`R` admits, and `w0` stays zero (R52); nothing else has changed. -/
def UniformResult (s : State) (i : Instr) (len : Nat) (d : WReg) (R : W64 → Prop) : Prop :=
  ∃ u, exec i s = .next u ∧ Confined s u len 0 [] [d.toNat] [] 0 ∧
    (if d = 0 then u.cw.rdW 0 = 0 else R (u.cw.rdW d.toNat)) ∧ u.cw.fullW d.toNat = true

/-- Instruction `i` of `len` words runs to a next state in which bit `l` of the mask register `md` is `b l`, but `m0` is as
it was (R52) and legacy-width mode writes bits 31:16 as zero (R56); nothing else has changed. -/
def MaskResult (s : State) (i : Instr) (len : Nat) (md : MReg) (b : Nat → Bool) : Prop :=
  ∃ u, exec i s = .next u ∧ Confined s u len 0 [] [] [md.toNat] 0 ∧
    ∀ l < 32, (maskRead s.legacy u.cw md.toNat).getLsbD l =
      if md = 0 then (maskRead s.legacy s.cw 0).getLsbD l else if s.legacy && decide (16 ≤ l) then false else b l

/-- A vector source that the instruction finds full is read with its t bit (R83): the dependences of two sources. -/
abbrev two (t : Ty) (d a b : VReg) (ta tb : Bool) : Deps := deps2 t d a b ta tb

end Sys2Proof.Claims

open Sys2Proof Sys2Proof.Machine Sys2Proof.Safety Sys2Proof.Claims

/-! ### Vector integer instructions -/

/-- R125: the one-word two-source forms. -/
def Obligations.VectorTwoSource : Prop :=
  ∀ (s : State) (d a b : VReg) (ta tb : Bool) (p : BitVec 2), issuing s →
    s.issues (s.E p) (deps2 .b32 d a b ta tb) 0 = true →
    ∀ q ∈ ([(.add d a b ta tb p, fun x y => x + y),
        (.sub d a b ta tb p, fun x y => x - y),
        (.mulLo d a b ta tb p, fun x y => x * y),
        (.mulHi d a b ta tb p, fun x y => BitVec.ofInt 32 (x.toInt * y.toInt / 2 ^ 32)),
        (.min d a b ta tb p, fun x y => if x.slt y then x else y),
        (.max d a b ta tb p, fun x y => if x.slt y then y else x),
        (.and d a b ta tb p, fun x y => x &&& y),
        (.or d a b ta tb p, fun x y => x ||| y),
        (.xor d a b ta tb p, fun x y => x ^^^ y),
        (.andn d a b ta tb p, fun x y => x &&& ~~~y),
        (.shl d a b ta tb p, fun x y => BitVec.ofNat 32 (x.toNat * 2 ^ (y.toNat % 32))),
        (.shr d a b ta tb p, fun x y => BitVec.ofNat 32 (x.toNat / 2 ^ (y.toNat % 32))),
        (.sar d a b ta tb p, fun x y => BitVec.ofInt 32 (x.toInt / 2 ^ (y.toNat % 32))),
        (.rot d a b ta tb p, fun x y => x <<< (y.toNat % 32) ||| x >>> (32 - y.toNat % 32))] :
          List (Instr × (W32 → W32 → W32))),
      VectorResult s q.1 1 (s.E p) .b32 d fun _ l y => y = (q.2 (l.rd a.toNat) (l.rd b.toNat)).setWidth 64

/-- R126, R127, R128, R86: the one-word forms with one source or an immediate, MOVI and LIT. -/
def Obligations.VectorOneSource : Prop :=
  ∀ (s : State) (d a : VReg) (ta : Bool) (p : BitVec 2), issuing s →
    (∀ (imm : BitVec 8) (cnt : BitVec 6), cnt.toNat < 32 → s.issues (s.E p) (deps1 .b32 d a ta) 0 = true →
      ∀ q ∈ ([(.addImm d a imm ta p, fun x y => y = x + imm.signExtend 32),
          (.shlImm d a cnt ta p, fun x y => y = BitVec.ofNat 32 (x.toNat * 2 ^ cnt.toNat)),
          (.shrImm d a cnt ta p, fun x y => y = BitVec.ofNat 32 (x.toNat / 2 ^ cnt.toNat)),
          (.sarImm d a cnt ta p, fun x y => y = BitVec.ofInt 32 (x.toInt / 2 ^ cnt.toNat)),
          (.rotImm d a cnt ta p, fun x y => y = x <<< cnt.toNat ||| x >>> (32 - cnt.toNat)),
          (.abs d a ta p, fun x y => y = if x.msb then -x else x),
          (.neg d a ta p, fun x y => y = 0 - x),
          (.not d a ta p, fun x y => ∀ j < 32, y.getLsbD j = !(x.getLsbD j)),
          (.clz d a ta p, fun x y => isClz 32 x.toNat y.toNat),
          (.popc d a ta p, fun x y => y.toNat = ones 32 (x.setWidth 64)),
          (.brev d a ta p, fun x y => ∀ j < 32, y.getLsbD j = x.getLsbD (31 - j)),
          (.mov d a ta p, fun x y => y = x)] : List (Instr × (W32 → W32 → Prop))),
        VectorResult s q.1 1 (s.E p) .b32 d fun _ l y => q.2 (l.rd a.toNat) (y.setWidth 32)) ∧
    (∀ imm : BitVec 16, s.issues (s.E p) (({} : Deps).dst [d.toNat]) 0 = true →
      VectorResult s (.movi d imm p) 1 (s.E p) .b32 d fun _ _ y => y = (imm.signExtend 32).setWidth 64) ∧
    ∀ (pr : Bool) (hi : BitVec 16) (lit : W32), (Instr.litVector d pr hi lit).wellFormed = true →
      s.issues (s.E 0) (({} : Deps).dst (regsOf (if pr then .b64 else .b32) d.toNat)) 0 = true →
      VectorResult s (.litVector d pr hi lit) 2 (s.E 0) (if pr then .b64 else .b32) d fun _ _ y =>
        y = if pr then hi.setWidth 32 ++ lit else lit.setWidth 64

/-- R130: the arithmetic of the X form on every integer type, wrapped or saturated. -/
def Obligations.VectorTypedArithmetic : Prop :=
  ∀ (s : State) (d a b c : VReg) (ta tb tc : Bool) (p : BitVec 2) (ty : Ty), issuing s →
    (s.issues (s.E p) (deps2 ty d a b ta tb) 0 = true →
      ∀ q ∈ ([(.addX d a b ta tb p ty, fun x y => x + y),
          (.subX d a b ta tb p ty, fun x y => x - y),
          (.mulLoX d a b ta tb p ty, fun x y => x * y),
          (.mulHiX d a b ta tb p ty, fun x y => x * y / 2 ^ ty.width),
          (.minX d a b ta tb p ty, fun x y => min x y),
          (.maxX d a b ta tb p ty, fun x y => max x y),
          (.addSat d a b ta tb p ty, fun x y => clamp ty (x + y)),
          (.subSat d a b ta tb p ty, fun x y => clamp ty (x - y))] : List (Instr × (Int → Int → Int))),
        q.1.wellFormed = true → VectorResult s q.1 2 (s.E p) ty d fun _ l y =>
          y = image ty (q.2 (num ty (l.rdTy ty a.toNat)) (num ty (l.rdTy ty b.toNat)))) ∧
    (s.issues (s.E p) (deps1 ty d a ta) 0 = true →
      ∀ q ∈ ([(.absX d a ta p ty, fun x => |x|), (.negX d a ta p ty, fun x => -x)] : List (Instr × (Int → Int))),
        q.1.wellFormed = true → VectorResult s q.1 2 (s.E p) ty d fun _ l y =>
          y = image ty (q.2 (num ty (l.rdTy ty a.toNat)))) ∧
    (s.issues (s.E p) ((deps2 ty d a b ta tb).src tc (regsOf ty c.toNat)) 0 = true →
      (Instr.mad d a b ta tb p c tc ty).wellFormed = true →
      VectorResult s (.mad d a b ta tb p c tc ty) 2 (s.E p) ty d fun _ l y =>
        y = image ty (num ty (l.rdTy ty a.toNat) * num ty (l.rdTy ty b.toNat) + num ty (l.rdTy ty c.toNat)))

/-- R130: the logic, bit fields, counts, selection and moves of the X form, bit by bit. -/
def Sys2Proof.Claims.vectorTypedBits : Prop :=
  ∀ (s : State) (d a b : VReg) (ta tb : Bool) (p : BitVec 2) (ty : Ty) (pos len : BitVec 6) (sl : MReg), issuing s →
    (s.issues (s.E p) (deps2 ty d a b ta tb) 0 = true →
      ∀ q ∈ ([(.andX d a b ta tb p ty, fun _ x y j => x.getLsbD j && y.getLsbD j),
          (.orX d a b ta tb p ty, fun _ x y j => x.getLsbD j || y.getLsbD j),
          (.xorX d a b ta tb p ty, fun _ x y j => x.getLsbD j != y.getLsbD j),
          (.andnX d a b ta tb p ty, fun _ x y j => x.getLsbD j && !(y.getLsbD j)),
          (.bfi d a b ta tb p ty pos len, fun _ x y j =>
            if pos.toNat ≤ j ∧ j ≤ pos.toNat + len.toNat then y.getLsbD (j - pos.toNat) else x.getLsbD j),
          (.sel d a b ta tb p ty sl, fun l x y j =>
            if (maskRead s.legacy s.cw sl.toNat).getLsbD l then x.getLsbD j else y.getLsbD j)] :
            List (Instr × (Nat → W64 → W64 → Nat → Bool))),
        q.1.wellFormed = true → VectorResult s q.1 2 (s.E p) ty d fun l x y =>
          imageOfBits ty y (q.2 l (x.rdTy ty a.toNat) (x.rdTy ty b.toNat))) ∧
    (s.issues (s.E p) (deps1 ty d a ta) 0 = true →
      ∀ q ∈ ([(.notX d a ta p ty, fun x y => imageOfBits ty y fun j => !(x.getLsbD j)),
          (.movX d a ta p ty, fun x y => imageOfBits ty y fun j => x.getLsbD j),
          (.brevX d a ta p ty, fun x y => imageOfBits ty y fun j => x.getLsbD (ty.width - 1 - j)),
          (.clzX d a ta p ty, fun x y => ∃ n, isClz ty.width x.toNat n ∧ y = image ty n),
          (.popcX d a ta p ty, fun x y => y = image ty (ones ty.width x)),
          (.bfe d a ta p ty pos len, fun x y => imageOfBits ty y fun j =>
            if j ≤ len.toNat then x.getLsbD (pos.toNat + j)
            else ty.isSigned && x.getLsbD (pos.toNat + len.toNat))] : List (Instr × (W64 → W64 → Prop))),
        q.1.wellFormed = true → VectorResult s q.1 2 (s.E p) ty d fun _ x y => q.2 (x.rdTy ty a.toNat) y)

/-- R130: the shifts of the X form, by a register modulo the width or by an immediate. -/
def Sys2Proof.Claims.vectorTypedShifts : Prop :=
  ∀ (s : State) (d a b : VReg) (ta tb : Bool) (p : BitVec 2) (ty : Ty) (im : Bool) (cnt : BitVec 6), issuing s →
    s.issues (s.E p) (if im then deps1 ty d a ta
      else ((({} : Deps).src ta (regsOf ty a.toNat)).src tb [b.toNat]).dst (regsOf ty d.toNat)) 0 = true →
    ∀ q ∈ ([(.shlX d a b ta tb p ty im cnt, fun x n j => decide (n ≤ j) && x.getLsbD (j - n)),
        (.shrX d a b ta tb p ty im cnt, fun x n j => decide (j + n < ty.width) && x.getLsbD (j + n)),
        (.sarX d a b ta tb p ty im cnt, fun x n j =>
          if j + n < ty.width then x.getLsbD (j + n) else x.getLsbD (ty.width - 1)),
        (.rotX d a b ta tb p ty im cnt, fun x n j => x.getLsbD ((j + ty.width - n) % ty.width))] :
          List (Instr × (W64 → Nat → Nat → Bool))),
      q.1.wellFormed = true → VectorResult s q.1 2 (s.E p) ty d fun _ x y =>
        imageOfBits ty y (q.2 (x.rdTy ty a.toNat) (if im then cnt.toNat else (x.rd b.toNat).toNat % ty.width))

/-- R130, R131: CMP writes the bits of E in its mask register and no other. -/
def Sys2Proof.Claims.compareWritesMask : Prop :=
  ∀ (s : State) (md : MReg) (a b : VReg) (ta tb : Bool) (p : BitVec 2) (ty : Ty) (cond : BitVec 3), issuing s →
    (Instr.cmp md a b ta tb p ty cond).wellFormed = true →
    s.issues (s.E p) ((({} : Deps).src ta (regsOf ty a.toNat)).src tb (regsOf ty b.toNat)) 0 = true →
    MaskResult s (.cmp md a b ta tb p ty cond) 2 md fun l =>
      if (s.E p).getLsbD l then
        let x := num ty ((s.cw.lane l).rdTy ty a.toNat)
        let y := num ty ((s.cw.lane l).rdTy ty b.toNat)
        [decide (x = y), decide (x ≠ y), decide (x < y), decide (x ≤ y), decide (y < x), decide (y ≤ x)].getD
          cond.toNat false
      else (maskRead s.legacy s.cw md.toNat).getLsbD l

/-! ### Uniform and mask instructions -/

/-- R132: the uniform two-source forms, on 64 bits. -/
def Sys2Proof.Claims.uniformTwoSource : Prop :=
  ∀ (s : State) (d a b : WReg) (ta tb : Bool), issuing s →
    s.issues s.cw.A (((({} : Deps).wsrc ta a.toNat).wsrc tb b.toNat).wdst d.toNat) 0 = true →
    ∀ q ∈ ([(.uniformAdd d a b ta tb, fun x y => x + y),
        (.uniformSub d a b ta tb, fun x y => x - y),
        (.uniformMulLo d a b ta tb, fun x y => x * y),
        (.uniformMulHiS d a b ta tb, fun x y => BitVec.ofInt 64 (x.toInt * y.toInt / 2 ^ 64)),
        (.uniformMulHiN d a b ta tb, fun x y => BitVec.ofNat 64 (x.toNat * y.toNat / 2 ^ 64)),
        (.uniformMinS d a b ta tb, fun x y => if x.slt y then x else y),
        (.uniformMinN d a b ta tb, fun x y => if x.ult y then x else y),
        (.uniformMaxS d a b ta tb, fun x y => if x.slt y then y else x),
        (.uniformMaxN d a b ta tb, fun x y => if x.ult y then y else x),
        (.uniformAddSatS d a b ta tb, fun x y => BitVec.ofInt 64 (clamp .s64 (x.toInt + y.toInt))),
        (.uniformAddSatN d a b ta tb, fun x y => BitVec.ofInt 64 (clamp .n64 (x.toNat + y.toNat))),
        (.uniformSubSatS d a b ta tb, fun x y => BitVec.ofInt 64 (clamp .s64 (x.toInt - y.toInt))),
        (.uniformSubSatN d a b ta tb, fun x y => BitVec.ofInt 64 (clamp .n64 (x.toNat - y.toNat))),
        (.uniformAnd d a b ta tb, fun x y => x &&& y),
        (.uniformOr d a b ta tb, fun x y => x ||| y),
        (.uniformXor d a b ta tb, fun x y => x ^^^ y),
        (.uniformAndn d a b ta tb, fun x y => x &&& ~~~y),
        (.uniformShl d a b ta tb, fun x y => BitVec.ofNat 64 (x.toNat * 2 ^ (y.toNat % 64))),
        (.uniformShr d a b ta tb, fun x y => BitVec.ofNat 64 (x.toNat / 2 ^ (y.toNat % 64))),
        (.uniformSar d a b ta tb, fun x y => BitVec.ofInt 64 (x.toInt / 2 ^ (y.toNat % 64))),
        (.uniformRot d a b ta tb, fun x y => x <<< (y.toNat % 64) ||| x >>> (64 - y.toNat % 64))] :
          List (Instr × (W64 → W64 → W64))),
      UniformResult s q.1 1 d fun y => y = q.2 (s.cw.rdW a.toNat) (s.cw.rdW b.toNat)

/-- R132, R133: the uniform forms with one source and those with an immediate. -/
def Sys2Proof.Claims.uniformOneSource : Prop :=
  ∀ (s : State) (d a : WReg) (ta : Bool) (imm : BitVec 20), issuing s →
    s.issues s.cw.A ((({} : Deps).wsrc ta a.toNat).wdst d.toNat) 0 = true →
    ∀ q ∈ ([(.uniformAbs d a ta, 1, fun x y => y = if x.msb then -x else x),
        (.uniformNeg d a ta, 1, fun x y => y = 0 - x),
        (.uniformNot d a ta, 1, fun x y => ∀ j < 64, y.getLsbD j = !(x.getLsbD j)),
        (.uniformClz d a ta, 1, fun x y => isClz 64 x.toNat y.toNat),
        (.uniformPopc d a ta, 1, fun x y => y.toNat = ones 64 x),
        (.uniformBrev d a ta, 1, fun x y => ∀ j < 64, y.getLsbD j = x.getLsbD (63 - j)),
        (.uniformMov d a ta, 1, fun x y => y = x),
        (.uniformAddImm d a ta imm, 2, fun x y => y = BitVec.ofInt 64 (x.toInt + imm.toInt)),
        (.uniformAndImm d a ta imm, 2, fun x y => y = x &&& imm.signExtend 64),
        (.uniformOrImm d a ta imm, 2, fun x y => y = x ||| imm.signExtend 64),
        (.uniformXorImm d a ta imm, 2, fun x y => y = x ^^^ imm.signExtend 64),
        (.uniformShlImm d a ta imm, 2, fun x y => y = BitVec.ofNat 64 (x.toNat * 2 ^ imm.toNat)),
        (.uniformShrImm d a ta imm, 2, fun x y => y = BitVec.ofNat 64 (x.toNat / 2 ^ imm.toNat)),
        (.uniformSarImm d a ta imm, 2, fun x y => y = BitVec.ofInt 64 (x.toInt / 2 ^ imm.toNat))] :
          List (Instr × Nat × (W64 → W64 → Prop))),
      q.1.wellFormed = true → UniformResult s q.1 q.2.1 d (q.2.2 (s.cw.rdW a.toNat))

/-- R133, R134, R135, R136, R147: MOVI, LIT, the seed reads, MGET, and the forms of opcode 0x1B that write a uniform
register. -/
def Obligations.UniformThirdForms : Prop :=
  ∀ (s : State) (d a b c : WReg) (ta tb tc : Bool) (ty : Ty) (pos len : BitVec 6) (sl ma : MReg), issuing s →
    (s.issues s.cw.A (({} : Deps).wdst d.toNat) 0 = true → ∀ (imm : BitVec 20) (hi : BitVec 16) (lit : W32),
      ∀ q ∈ ([(.uniformMovi d imm, 2, imm.signExtend 64),
          (.litUniform d hi lit, 2, hi.setWidth 32 ++ lit),
          (.seedTop d, 1, s.cl.seed.getLastD 0),
          (.seedDepth d, 1, BitVec.ofNat 64 s.cl.seed.length),
          (.mget d ma, 1, (maskRead s.legacy s.cw ma.toNat).setWidth 64)] : List (Instr × Nat × W64)),
        UniformResult s q.1 q.2.1 d fun y => y = q.2.2) ∧
    (s.issues s.cw.A (((({} : Deps).wsrc ta a.toNat).wsrc tb b.toNat).wdst d.toNat) 0 = true →
      ∀ q ∈ ([(.uniformBfi d a b ta tb ty pos len, fun x y z => imageOfBits ty z fun j =>
            if pos.toNat ≤ j ∧ j ≤ pos.toNat + len.toNat then y.getLsbD (j - pos.toNat) else x.getLsbD j),
          (.uniformSel d a b ta tb ty sl, fun x y z =>
            z = if maskRead s.legacy s.cw sl.toNat = 0 then y else x)] : List (Instr × (W64 → W64 → W64 → Prop))),
        q.1.wellFormed = true → UniformResult s q.1 2 d (q.2 (s.cw.rdW a.toNat) (s.cw.rdW b.toNat))) ∧
    (s.issues s.cw.A ((({} : Deps).wsrc ta a.toNat).wdst d.toNat) 0 = true →
      (Instr.uniformBfe d a ta ty pos len).wellFormed = true →
      UniformResult s (.uniformBfe d a ta ty pos len) 2 d fun z => imageOfBits ty z fun j =>
        if j ≤ len.toNat then (s.cw.rdW a.toNat).getLsbD (pos.toNat + j)
        else ty.isSigned && (s.cw.rdW a.toNat).getLsbD (pos.toNat + len.toNat)) ∧
    (s.issues s.cw.A ((((({} : Deps).wsrc ta a.toNat).wsrc tb b.toNat).wsrc tc c.toNat).wdst d.toNat) 0 = true →
      UniformResult s (.uniformMad d a b ta tb c tc ty) 2 d fun z =>
        z = BitVec.ofNat 64 ((s.cw.rdW a.toNat).toNat * (s.cw.rdW b.toNat).toNat + (s.cw.rdW c.toNat).toNat))

/-- R134, R136: the instructions that write a whole mask register. -/
def Sys2Proof.Claims.maskInstructions : Prop :=
  ∀ (s : State) (d a b : MReg) (wa wb : WReg) (ta tb : Bool) (ty : Ty) (cond : BitVec 3), issuing s →
    let m (r : MReg) (l : Nat) : Bool := (maskRead s.legacy s.cw r.toNat).getLsbD l
    (s.issues s.cw.A {} 0 = true →
      ∀ q ∈ ([(.mand d a b, fun l => m a l && m b l), (.mor d a b, fun l => m a l || m b l),
          (.mxor d a b, fun l => m a l != m b l), (.mandn d a b, fun l => m a l && !(m b l)),
          (.mnot d a, fun l => !(m a l)), (.mmov d a, fun l => m a l)] : List (Instr × (Nat → Bool))),
        MaskResult s q.1 1 d q.2) ∧
    (s.issues s.cw.A (({} : Deps).wsrc ta wa.toNat) 0 = true →
      MaskResult s (.mset d wa ta) 1 d fun l => (s.cw.rdW wa.toNat).getLsbD l) ∧
    (s.issues s.cw.A ((({} : Deps).wsrc ta wa.toNat).wsrc tb wb.toNat) 0 = true →
      (Instr.uniformCmp d wa wb ta tb ty cond).wellFormed = true →
      MaskResult s (.uniformCmp d wa wb ta tb ty cond) 2 d fun _ =>
        let x := num ty (s.cw.rdW wa.toNat)
        let y := num ty (s.cw.rdW wb.toNat)
        [decide (x = y), decide (x ≠ y), decide (x < y), decide (x ≤ y), decide (y < x), decide (y ≤ x)].getD
          cond.toNat false)

/-- R54, R55: an instruction with an empty source whose t bit is 1 raises EMPTY-READ in the lanes that found it empty, and
nothing is written; with only empty sources of t = 0, or an empty destination, it waits and nothing but the wait
changes. -/
def Obligations.ReadinessGate : Prop :=
  ∀ (s : State) (d a b : VReg) (ta tb : Bool) (p : BitVec 2), issuing s → s.cw.halt = .none →
    let hard := (if ta then [a.toNat] else []) ++ if tb then [b.toNat] else []
    let soft := (if ta then [] else [a.toNat]) ++ (if tb then [] else [b.toNat]) ++ [d.toNat]
    let empty (rs : List Nat) (l : Nat) : Bool :=
      (s.E p).getLsbD l && rs.any fun r => !((s.cw.lane l).full.getLsbD r)
    ((∃ l < 32, empty hard l = true) → ∃ m : Lanes, (∀ l < 32, m.getLsbD l = empty hard l) ∧
      exec (.add d a b ta tb p) s = .next (s.raiseEarly { cause := .emptyRead, lanes := m, pc := s.cw.pc })) ∧
    ((∀ l < 32, empty hard l = false) → (∃ l < 32, empty soft l = true) →
      ∃ r ∈ soft, exec (.add d a b ta tb p) s = .next (s.setCw { s.cw with wait := .register r, readyAt := none }))

/-! ### Collectives -/

namespace Sys2Proof.Claims

/-- The member set of the instance that an issue in `e` joins: fixed by its first arrival, and joined by later ones
(R137). -/
def members (s : State) (e : Lanes) (mem : MReg) : Lanes :=
  (match s.cw.collHere with
    | some c => c.members
    | none => maskRead s.legacy s.cw mem.toNat) ||| e

/-- The members that have arrived with this issue. -/
def arrived (s : State) (e : Lanes) : Lanes :=
  (match s.cw.collHere with
    | some c => c.arrived
    | none => 0) ||| e

/-- The instance completes in this issue: some lane executes, no member has exited, every member has arrived (R30,
R137). -/
def completes (s : State) (e : Lanes) (mem : MReg) : Prop :=
  e ≠ 0 ∧ (∀ l < 32, (members s e mem).getLsbD l → (s.cw.lane l).x = false ∧ (arrived s e).getLsbD l = true)

/-- A collective of two words has completed for the members `P` (R30, R139): they are released and move on with the other
lanes of A, the instance is gone, and nothing else has changed but the registers `rs` of the members, the mask registers
`ms`, and the sticky flags `fl`. -/
structure CollectiveDone (s t : State) (P : Lanes) (rs ms : List Nat) (fl : FlagBits) : Prop where
  outside : Outside s t
  inside : Inside s.cw { t.cw with colls := s.cw.colls }
  instances : t.cw.colls = s.cw.otherColls
  pc : ∀ l < 32, (t.cw.lane l).pc = if (P ||| s.cw.A).getLsbD l then (s.cw.lane l).pc + 8 else (s.cw.lane l).pc
  held : ∀ l < 32, (t.cw.lane l).h = if P.getLsbD l then false else (s.cw.lane l).h
  key : ∀ l < 32, (t.cw.lane l).depth = (s.cw.lane l).depth ∧ (t.cw.lane l).x = (s.cw.lane l).x
    ∧ (t.cw.lane l).seg = (s.cw.lane l).seg
  kept : ∀ l < 32, ∀ r < 128, (P.getLsbD l → r ∉ rs) → sameReg (t.cw.lane l) (s.cw.lane l) r
  full : ∀ l < 32, P.getLsbD l → ∀ r < 128, r ∈ rs →
    (t.cw.lane l).full.getLsbD r = true ∧ (t.cw.lane l).bad.getLsbD r = false
  uniform : t.cw.w = s.cw.w ∧ t.cw.wfull = s.cw.wfull ∧ t.cw.wbad = s.cw.wbad
  masks : ∀ r < 16, r ∉ ms → maskRead s.legacy t.cw r = maskRead s.legacy s.cw r
  flags : t.cw.fpctl = s.cw.fpctl ||| fl.setWidth 32

/-- Instruction `i` completes a collective with a value of type `t` in `d` of each member. -/
def MemberResult (s : State) (i : Instr) (P : Lanes) (fl : FlagBits) (t : Ty) (d : VReg) (R : Nat → W64 → Prop) : Prop :=
  ∃ u, exec i s = .next u ∧ CollectiveDone s u P (regsOf t d.toNat) [] fl ∧
    ∀ l < 32, P.getLsbD l → R l ((u.cw.lane l).rdTy t d.toNat)

/-- Instruction `i` completes a collective with a bit for each member in the mask register `md`; the bits of other lanes
keep their values, except as R52 and R56 require. -/
def MemberBits (s : State) (i : Instr) (P : Lanes) (md : MReg) (b : Nat → Bool) : Prop :=
  ∃ u, exec i s = .next u ∧ CollectiveDone s u P [] [md.toNat] 0 ∧
    ∀ l < 32, (maskRead s.legacy u.cw md.toNat).getLsbD l =
      if md = 0 then (maskRead s.legacy s.cw 0).getLsbD l
      else if s.legacy && decide (16 ≤ l) then false
      else if P.getLsbD l then b l else (maskRead s.legacy s.cw md.toNat).getLsbD l

end Sys2Proof.Claims

/-- R140: what each POLL reports of the members' values. -/
def Obligations.PollsReportMembers : Prop :=
  ∀ (s : State) (d a : VReg) (md mem : MReg) (ta : Bool) (p : BitVec 2) (ty : Ty), issuing s →
    completes s (s.E p) mem →
    let P := members s (s.E p) mem
    let x (t : Ty) (l : Nat) : W64 := (s.cw.lane l).rdTy t a.toNat
    (s.issues (s.E p) (collDeps .b32 d a ta) 0 = true →
      MemberResult s (.pollMask d a ta p mem) P 0 .b32 d (fun _ y =>
        ∀ j < 32, y.getLsbD j = (P.getLsbD j && x .b32 j != 0)) ∧
      MemberResult s (.pollCount d a ta p mem) P 0 .b32 d fun _ y =>
        y = BitVec.ofNat 64 ((List.range 32).filter fun j => P.getLsbD j && x .b32 j != 0).length) ∧
    (ty.isRaw = true → s.issues (s.E p) ((({} : Deps).src ta (regsOf ty a.toNat)).dst [d.toNat]) 0 = true →
      MemberResult s (.pollPeers d a ta p ty mem) P 0 .b32 d fun l y =>
        ∀ j < 32, y.getLsbD j = (P.getLsbD j && x ty j == x ty l)) ∧
    (s.issues (s.E p) (({} : Deps).src ta [a.toNat]) 0 = true →
      MemberBits s (.pollSome md a ta p mem) P md (fun _ => (List.range 32).any fun j => P.getLsbD j && x .b32 j != 0) ∧
      MemberBits s (.pollEvery md a ta p mem) P md fun _ =>
        (List.range 32).all fun j => !(P.getLsbD j) || x .b32 j != 0) ∧
    (ty.isRaw = true → s.issues (s.E p) (({} : Deps).src ta (regsOf ty a.toNat)) 0 = true →
      MemberBits s (.pollSame md a ta p ty mem) P md fun _ =>
        (List.range 32).all fun j => (List.range 32).all fun k =>
          !(P.getLsbD j && P.getLsbD k) || x ty j == x ty k) ∧
    (s.issues (s.E p) {} 0 = true →
      MemberBits s (.pollLead md p mem) P md (fun l => decide (∀ j < l, P.getLsbD j = false)) ∧
      MemberBits s (.pollLeadWelt md p mem) P md fun _ => decide (s.cw.index = 0))

/-- R141: the source lane of each PASS, and what a member receives where none serves. -/
def Obligations.PassHandsOver : Prop :=
  ∀ (s : State) (d a b : VReg) (mem : MReg) (ta tb z im : Bool) (p : BitVec 2) (ty : Ty) (imm : BitVec 5), issuing s →
    completes s (s.E p) mem → s.issues (s.E p) ((if im then ({} : Deps).src ta (regsOf ty a.toNat)
      else (({} : Deps).src ta (regsOf ty a.toNat)).src tb [b.toNat]).dst (regsOf ty d.toNat)) 0 = true →
    let P := members s (s.E p) mem
    let x (l : Nat) : W64 := (s.cw.lane l).rdTy ty a.toNat
    let dist (l : Nat) : Nat := if im then imm.toNat else ((s.cw.lane l).rd b.toNat).toNat
    ∀ q ∈ ([(.passFrom d a b ta tb p z ty imm im mem, fun _ k => some (k % 32)),
        (.passBack d a b ta tb p z ty imm im mem, fun l k => if k ≤ l then some (l - k) else none),
        (.passAhead d a b ta tb p z ty imm im mem, fun l k => if l + k ≤ 31 then some (l + k) else none),
        (.passSwap d a b ta tb p z ty imm im mem, fun l k => some (l ^^^ (k % 32))),
        (.passTurn d a b ta tb p z ty imm im mem, fun l k => some ((l + k) % 32))] :
          List (Instr × (Nat → Nat → Option Nat))),
      q.1.wellFormed = true → MemberResult s q.1 P 0 ty d fun l y =>
        let src := (q.2 l (dist l)).map fun k => if s.legacy ∧ 16 ≤ k then k - 16 else k
        (∀ k, src = some k → P.getLsbD k → y = x k) ∧
          ((∀ k, src = some k → P.getLsbD k = false) → y = if z then 0 else x l)

/-- R142: FOLD and SCAN of integers and bits over the members. -/
def Obligations.FoldsAndScans : Prop :=
  ∀ (s : State) (d a : VReg) (mem : MReg) (ta : Bool) (p : BitVec 2) (ty : Ty), issuing s →
    completes s (s.E p) mem → s.issues (s.E p) (collDeps ty d a ta) 0 = true →
    let P := members s (s.E p) mem
    let x (l : Nat) : W64 := (s.cw.lane l).rdTy ty a.toNat
    let n (l : Nat) : Int := num ty (x l)
    let sum (f : Nat → Bool) : Int := (((List.range 32).filter fun j => P.getLsbD j && f j).map n).sum
    (ty.isNumber = true → ∀ q ∈ ([(.foldAdd d a ta p ty mem, fun _ y => y = image ty (sum fun _ => true)),
        (.foldMin d a ta p ty mem, fun _ y => (∃ j < 32, P.getLsbD j ∧ y = image ty (n j)) ∧
          ∀ j < 32, P.getLsbD j → num ty y ≤ n j),
        (.foldMax d a ta p ty mem, fun _ y => (∃ j < 32, P.getLsbD j ∧ y = image ty (n j)) ∧
          ∀ j < 32, P.getLsbD j → n j ≤ num ty y),
        (.scanInc d a ta p ty mem, fun l y => y = image ty (sum fun j => decide (j ≤ l))),
        (.scanExc d a ta p ty mem, fun l y => y = image ty (sum fun j => decide (j < l)))] :
          List (Instr × (Nat → W64 → Prop))),
      q.1.wellFormed = true → MemberResult s q.1 P 0 ty d q.2) ∧
    (∀ q ∈ ([(.foldAnd d a ta p ty mem, fun b => b.all id), (.foldOr d a ta p ty mem, fun b => b.any id),
        (.foldXor d a ta p ty mem, fun b => b.foldl (· != ·) false)] : List (Instr × (List Bool → Bool))),
      q.1.wellFormed = true → MemberResult s q.1 P 0 ty d fun _ y => ∀ j < ty.width,
        y.getLsbD j = q.2 (((List.range 32).filter fun k => P.getLsbD k).map fun k => (x k).getLsbD j))

/-- R139, R142, R122, R110: FOLD and SCAN of floats by the tree of R122 and the members in ascending order; an enabled
condition is a trap, precise at the collective, that names all of P, writes nothing and releases them. That the flags of a
FOLD or SCAN are those of every addition of its tree, or of some lane's sum, is the model's reading (log 23). -/
def Obligations.FloatFoldsAndScans : Prop :=
  ∀ (s : State) (d a : VReg) (mem : MReg) (ta : Bool) (p : BitVec 2) (ty : Ty), issuing s →
    completes s (s.E p) mem → s.issues (s.E p) (collDeps ty d a ta) 0 = true → ty.isFloat = true →
    let P := members s (s.E p) mem
    let leaf (l : Nat) : FVal × FlagBits :=
      let x := flushIn ty (flushes s.cw.fpctl ty) (decodeF ty ((s.cw.lane l).rdTy ty a.toNat))
      (x, if x.isSnan then fNV else 0)
    let node (op : Nat) : FVal × FlagBits → FVal × FlagBits → FVal × FlagBits := foldNode ty (flushes s.cw.fpctl ty) op
    let tree (op : Nat) : FVal × FlagBits := (foldTree (node op) ((List.range 32).map fun l =>
      if P.getLsbD l then some (leaf l) else none)).getD (.fin false 0, 0)
    let run (ls : List Nat) : FVal × FlagBits := match ls with
      | [] => (.fin false 0, 0)
      | l :: r => (r.map leaf).foldl (node 0) (leaf l)
    let upTo (f : Nat → Nat → Bool) (l : Nat) : FVal × FlagBits :=
      run ((List.range 32).filter fun j => P.getLsbD j && f j l)
    let flagsOf (v : Nat → FVal × FlagBits) : FlagBits :=
      ((List.range 32).filter fun l => P.getLsbD l).foldl (fun f l => f ||| (v l).2) 0
    ∀ q ∈ ([(.foldAdd d a ta p ty mem, fun _ => tree 0), (.foldMin d a ta p ty mem, fun _ => tree 1),
        (.foldMax d a ta p ty mem, fun _ => tree 2),
        (.scanInc d a ta p ty mem, upTo fun j l => decide (j ≤ l)),
        (.scanExc d a ta p ty mem, upTo fun j l => decide (j < l))] : List (Instr × (Nat → FVal × FlagBits))),
      q.1.wellFormed = true →
        (fpTrap s.cw.fpctl (flagsOf q.2) = none →
          MemberResult s q.1 P (flagsOf q.2) ty d fun l y => y = image ty ((encodeF ty (q.2 l).1).toNat)) ∧
        ∀ c, fpTrap s.cw.fpctl (flagsOf q.2) = some c →
          exec q.1 s = .next ((s.setCw { (s.cw.hold P false) with colls := s.cw.otherColls }).raise
            { cause := c, lanes := P, pc := s.cw.pc, depth := some s.cw.lead.depth })

/-- R30, R137: members that arrive before the last one are held, with no result written, while the other lanes of A
pass. -/
def Obligations.CollectiveHolds : Prop :=
  ∀ (s : State) (d a b : VReg) (md mem : MReg) (ta tb z im : Bool) (p : BitVec 2) (ty : Ty) (imm : BitVec 5) (dep : Deps),
    issuing s → s.E p ≠ 0 → s.cw.serial = none → s.issues (s.E p) dep 0 = true →
    let P := members s (s.E p) mem
    (∀ l < 32, P.getLsbD l → (s.cw.lane l).x = false) →
    (∃ l < 32, P.getLsbD l ∧ (arrived s (s.E p)).getLsbD l = false) →
    (∃ l < 32, (s.E p).getLsbD l = false ∧ (s.cw.lane l).x = false ∧ (s.cw.lane l).h = false) →
    ∀ q ∈ ([(.pollMask d a ta p mem, collDeps .b32 d a ta), (.pollLead md p mem, {}),
        (.foldAdd d a ta p ty mem, collDeps ty d a ta), (.scanInc d a ta p ty mem, collDeps ty d a ta),
        (.passFrom d a b ta tb p z ty imm im mem, (if im then ({} : Deps).src ta (regsOf ty a.toNat)
          else (({} : Deps).src ta (regsOf ty a.toNat)).src tb [b.toNat]).dst (regsOf ty d.toNat))] :
          List (Instr × Deps)), q.2 = dep →
      ∃ u, exec q.1 s = .next u ∧ Outside s u ∧
        Inside s.cw { u.cw with colls := s.cw.colls } ∧ u.cw.w = s.cw.w ∧ u.cw.wfull = s.cw.wfull ∧
        u.cw.wbad = s.cw.wbad ∧ u.cw.m = s.cw.m ∧ u.cw.fpctl = s.cw.fpctl ∧
        u.cw.colls = ⟨s.cw.lead.depth, s.cw.pc, P, arrived s (s.E p), .none⟩ :: s.cw.otherColls ∧
        ∀ l < 32, (u.cw.lane l).v = (s.cw.lane l).v ∧ (u.cw.lane l).full = (s.cw.lane l).full ∧
          (u.cw.lane l).bad = (s.cw.lane l).bad ∧ (u.cw.lane l).h = ((s.E p).getLsbD l || (s.cw.lane l).h) ∧
          (u.cw.lane l).pc = if s.cw.A.getLsbD l && !((s.E p).getLsbD l) then (s.cw.lane l).pc + 8
            else (s.cw.lane l).pc

/-! ### Identity and random numbers -/

/-- R143: IDENT gives the lane, its unit's index at a level, or its key. -/
def Sys2Proof.Claims.identGivesPlace : Prop :=
  ∀ (s : State) (d : VReg) (sl : BitVec 8) (p : BitVec 2), issuing s → (Instr.ident d sl p).wellFormed = true →
    let ty : Ty := if sl = 16 then .b64 else .b32
    s.issues (s.E p) (({} : Deps).dst (regsOf ty d.toNat)) 0 = true →
    VectorResult s (.ident d sl p) 1 (s.E p) ty d fun l x y =>
      (sl = 0 → y = BitVec.ofNat 64 l) ∧
      (sl = 16 → y = BitVec.ofNat 64 (x.depth.toNat * 2 ^ 56 + x.pc.toNat)) ∧
      ∀ n < 8, sl.toNat = n + 1 →
        y = (BitVec.ofNat 32 (s.cl.unitIndex s.cg.logical s.cw.index l n)).setWidth 64

/-- R146, R53: RNG reads its counters at issue and empties its destinations, and RNG_LAND fills them with Philox of those
counters under the launch's seed. -/
def Sys2Proof.Claims.rngDrawsPhilox : Prop :=
  (∀ (s : State) (d a : VReg) (ta : Bool) (p : BitVec 2), issuing s → s.E p ≠ 0 →
    s.issues (s.E p) ((({} : Deps).src ta [a.toNat, a.toNat + 1, a.toNat + 2, a.toNat + 3]).dst
      [d.toNat, d.toNat + 1, d.toNat + 2, d.toNat + 3]) 1 = true →
    ∃ u es, exec (.rng d a ta p) s = .next u ∧ u.agenda = s.agenda
          ++ (if s.cw.stepping then [.singleStepComplete s.cur] else []) ++ [.rngLand s.cur s.cw.nextFlight] ∧
      u.cw.flights = s.cw.flights ++ [⟨s.cw.nextFlight, s.cw.order, .rng es⟩] ∧
      (∀ l < 32, (s.E p).getLsbD l ↔ (l, d.toNat, (s.cw.lane l).rd a.toNat, (s.cw.lane l).rd (a.toNat + 1),
        (s.cw.lane l).rd (a.toNat + 2), (s.cw.lane l).rd (a.toNat + 3)) ∈ es) ∧
      (∀ e ∈ es, e.1 < 32 ∧ (s.E p).getLsbD e.1) ∧
      u.cw.w = s.cw.w ∧ u.cw.m = s.cw.m ∧ u.cw.fpctl = s.cw.fpctl ∧ (∀ l, u.getByte l = s.getByte l) ∧
      ∀ l < 32, (u.cw.lane l).v = (s.cw.lane l).v ∧ ∀ r < 128, (u.cw.lane l).full.getLsbD r =
        ((s.cw.lane l).full.getLsbD r && !((s.E p).getLsbD l && decide (d.toNat ≤ r ∧ r < d.toNat + 4)))) ∧
  ∀ (s : State) (w n o lane d : Nat) (c0 c1 c2 c3 : W32), w < s.welts.length → lane < 32 → d + 3 < 128 →
    (s.weltAt w).flights.find? (fun f => f.num == n) = some ⟨n, o, .rng [(lane, d, c0, c1, c2, c3)]⟩ →
    let y := philox c0 c1 c2 c3 ((s.launchOf (s.wgAt (s.weltAt w).wg)).seed.getLastD 0)
    ∃ u, exec (.rngLand w n) s = .next u ∧
      (u.weltAt w).flights = (s.weltAt w).flights.filter (fun f => f.num != n) ∧
      (∀ l, u.getByte l = s.getByte l) ∧ (∀ i, i ≠ w → u.weltAt i = s.weltAt i) ∧
      (∀ j < 4, ((u.weltAt w).lane lane).rd (d + j) = philoxWord y j ∧
        ((u.weltAt w).lane lane).full.getLsbD (d + j) = true) ∧
      ∀ l < 32, ∀ r < 128, (l = lane → r < d ∨ d + 3 < r) →
        ((u.weltAt w).lane l).rd r = ((s.weltAt w).lane l).rd r ∧
        ((u.weltAt w).lane l).full.getLsbD r = ((s.weltAt w).lane l).full.getLsbD r

/-! ### Floating point and conversions -/

namespace Sys2Proof.Claims

/-- The conditions that occur in the lanes of `e`, each lane giving its own (R110). -/
def conditions (s : State) (e : Lanes) (R : Nat → Lane → W64 × FlagBits) : FlagBits :=
  ((List.range 32).filter fun l => e.getLsbD l).foldl (fun f l => f ||| (R l (s.cw.lane l)).2) 0

/-- R110: with no enabled condition, instruction `i` writes the result of `R` in each lane of `e` and sets the flags of
every condition; with one, it raises the one trap that comes first, naming the lanes in which that condition occurred,
and has no other effect but the return of its tokens (R164). -/
def FloatResult (s : State) (i : Instr) (len : Nat) (e : Lanes) (t : Ty) (d : VReg) (price : Nat)
    (R : Nat → Lane → W64 × FlagBits) : Prop :=
  (fpTrap s.cw.fpctl (conditions s e R) = none →
    ∃ u, exec i s = .next u ∧ Confined s u len e (regsOf t d.toNat) [] [] (conditions s e R) ∧
      ∀ l < 32, e.getLsbD l → (u.cw.lane l).rdTy t d.toNat = image t (R l (s.cw.lane l)).1.toNat) ∧
  ∀ c, fpTrap s.cw.fpctl (conditions s e R) = some c →
    ∃ m : Lanes, exec i s = .next ((s.tokensBack price).trapAt c m) ∧
      ∀ l < 32, m.getLsbD l = (e.getLsbD l && (R l (s.cw.lane l)).2 &&& causeFlag c != 0)

/-- A float source as R149 reads it: the flush bit of its type, then `abs`, then `neg`. -/
def source (s : State) (t : Ty) (l : Lane) (r : VReg) (neg abs : Bool) : FVal :=
  let x := decodeF t (l.rdTy t r.toNat)
  let x := match x with
    | .fin n q => if s.cw.fpctl.getLsbD (flushBit t) && decide (q < pow2 (gridOf t).emin) then .fin n 0 else x
    | _ => x
  let x := if abs then x.abs else x
  if neg then x.negate else x

/-- An exact outcome rounded into a type by a rounding code (R150, R153), as bits. -/
def rounded (s : State) (t : Ty) (rm : BitVec 3) (x : Mode → Exact) : W64 × FlagBits :=
  let m := modeOf s.cw.fpctl rm
  let r := finish t (s.cw.fpctl.getLsbD (flushBit t)) m (x m)
  (encodeF t r.1, r.2)

/-- A value with its conditions, as bits. -/
def asBits (t : Ty) (r : FVal × FlagBits) : W64 × FlagBits := (encodeF t r.1, r.2)

end Sys2Proof.Claims

/-- R153, R154, R110, R164: the two-source forms, one-word (.f32, RNE, no modifiers) and X. -/
def Obligations.FloatTwoSource : Prop :=
  ∀ (s : State) (d a b : VReg) (ta tb na aa nb ab : Bool) (p : BitVec 2) (ty : Ty) (rm : BitVec 3), issuing s →
    let add (m : Mode) (x y : FVal) : Exact := addExact m x y
    let sub (m : Mode) (x y : FVal) : Exact := addExact m x y.negate
    (∀ q ∈ ([(.fadd d a b ta tb p, 1, fun x y => rounded s .f32 0 fun m => add m x y),
        (.fsub d a b ta tb p, 1, fun x y => rounded s .f32 0 fun m => sub m x y),
        (.fmul d a b ta tb p, 1, fun x y => rounded s .f32 0 fun _ => mulExact x y),
        (.fdiv d a b ta tb p, 2, fun x y => rounded s .f32 0 fun _ => divExact x y),
        (.fmin d a b ta tb p, 0, fun x y => asBits .f32 (minMaxF false x y)),
        (.fmax d a b ta tb p, 0, fun x y => asBits .f32 (minMaxF true x y))] :
          List (Instr × Nat × (FVal → FVal → W64 × FlagBits))),
      s.issues (s.E p) (deps2 .f32 d a b ta tb) q.2.1 = true →
      FloatResult s q.1 1 (s.E p) .f32 d q.2.1 fun _ l => q.2.2 (source s .f32 l a false false)
        (source s .f32 l b false false)) ∧
    (∀ q ∈ ([(.faddX d a b ta tb p ty rm na aa nb ab, if ty = .f64 then 2 else 1,
          fun x y => rounded s ty rm fun m => add m x y),
        (.fsubX d a b ta tb p ty rm na aa nb ab, if ty = .f64 then 2 else 1,
          fun x y => rounded s ty rm fun m => sub m x y),
        (.fmulX d a b ta tb p ty rm na aa nb ab, if ty = .f64 then 2 else 1,
          fun x y => rounded s ty rm fun _ => mulExact x y),
        (.fdivX d a b ta tb p ty rm na aa nb ab, if ty = .f64 then 4 else if ty = .f32 then 2 else 1,
          fun x y => rounded s ty rm fun _ => divExact x y),
        (.fminX d a b ta tb p ty na aa nb ab, 0, fun x y => asBits ty (minMaxF false x y)),
        (.fmaxX d a b ta tb p ty na aa nb ab, 0, fun x y => asBits ty (minMaxF true x y))] :
          List (Instr × Nat × (FVal → FVal → W64 × FlagBits))),
      q.1.wellFormed = true → s.issues (s.E p) (deps2 ty d a b ta tb) q.2.1 = true →
      FloatResult s q.1 2 (s.E p) ty d q.2.1 fun _ l => q.2.2 (source s ty l a na aa) (source s ty l b nb ab))

/-- R153, R155: FFMA with one rounding, FSQRT, and the approximate functions, whose choice is a function of the
source alone. That an approximate result depends on its source alone is the model's choice (log 10). -/
def Obligations.FloatOtherArithmetic : Prop :=
  ∀ (s : State) (d a b c : VReg) (ta tb tc na aa nb ab nc ac : Bool) (p : BitVec 2) (ty : Ty) (rm : BitVec 3),
    issuing s →
    ((Instr.ffma d a b ta tb p c tc ty rm na aa nb ab nc ac).wellFormed = true →
      s.issues (s.E p) ((deps2 ty d a b ta tb).src tc (regsOf ty c.toNat)) (if ty = .f64 then 2 else 1) = true →
      FloatResult s (.ffma d a b ta tb p c tc ty rm na aa nb ab nc ac) 2 (s.E p) ty d (if ty = .f64 then 2 else 1)
        fun _ l => rounded s ty rm fun m =>
          fmaExact m (source s ty l a na aa) (source s ty l b nb ab) (source s ty l c nc ac)) ∧
    (s.issues (s.E p) (deps1 .f32 d a ta) 2 = true →
      FloatResult s (.fsqrt d a ta p) 1 (s.E p) .f32 d 2 fun _ l =>
        rounded s .f32 0 fun _ => sqrtExact (source s .f32 l a false false)) ∧
    ((Instr.fsqrtX d a ta p ty rm na aa).wellFormed = true →
      s.issues (s.E p) (deps1 ty d a ta) (if ty = .f64 then 4 else if ty = .f32 then 2 else 1) = true →
      FloatResult s (.fsqrtX d a ta p ty rm na aa) 2 (s.E p) ty d (if ty = .f64 then 4 else if ty = .f32 then 2 else 1)
        fun _ l => rounded s ty rm fun _ => sqrtExact (source s ty l a na aa)) ∧
    (s.issues (s.E p) (deps1 ty d a ta) 1 = true →
      ∀ q ∈ ([(.frcpA d a ta p ty na aa, rcpA), (.frsqA d a ta p ty na aa, rsqA), (.fexp2A d a ta p ty na aa, exp2A),
          (.flog2A d a ta p ty na aa, log2A)] :
          List (Instr × (Ty → Bool → W64 → FVal → FVal × FlagBits))),
        q.1.wellFormed = true → FloatResult s q.1 2 (s.E p) ty d 1 fun _ l =>
          asBits ty (q.2 ty (s.cw.fpctl.getLsbD (flushBit ty)) (encodeF ty (source s ty l a na aa))
            (source s ty l a na aa)))

/-- R155: the bound of FRCP.A, one ulp of the exact reciprocal, where that is a normal number of the type; a power of two
has its exact reciprocal. -/
def Obligations.ReciprocalWithinOneUlp : Prop :=
  ∀ (ty : Ty) (flush n m : Bool) (bits : W64) (q r : Rat) (f : FlagBits), ty.isFloat = true → ty ≠ .f64 → 0 < q →
    pow2 (gridOf ty).emin ≤ 1 / q → 1 / q ≤ (gridOf ty).max → rcpA ty flush bits (.fin n q) = (.fin m r, f) →
    m = n ∧ |r - 1 / q| ≤ pow2 (max (ilog2 (1 / q)) (gridOf ty).emin - ((gridOf ty).p - 1)) ∧
      (isPow2 q = true → r = 1 / q ∧ f = 0)

/-- R105, R107: each rounding of a magnitude to whole steps: RNE to the nearest with ties to even, RTZ downward, RDN and
RUP by the sign, SR to one of the two neighbours by the drawn value. -/
def Obligations.RoundingModes : Prop :=
  ∀ (neg : Bool) (q step : Rat), 0 ≤ q → 0 < step →
    let n : Int := (q / step).floor
    (∀ m, roundStep m neg q step = n * step ∨ roundStep m neg q step = (n + 1 : Int) * step ∧ q ≠ n * step) ∧
    (∀ k : Int, |roundStep .rne neg q step - q| ≤ |k * step - q| ∧
      (k * step ≠ roundStep .rne neg q step → |roundStep .rne neg q step - q| = |k * step - q| → k % 2 ≠ 0)) ∧
    roundStep .rtz neg q step ≤ q ∧
    (roundStep .rdn neg q step ≤ q ↔ neg = false ∨ q = n * step) ∧
    (roundStep .rup neg q step ≤ q ↔ neg = true ∨ q = n * step) ∧
    ∀ u : Nat, roundStep (.sr u) neg q step =
      if (u : Int) < ((q / step - n) * 2 ^ 32).floor then ((n + 1 : Int) : Rat) * step else n * step

/-- R156, R157: FCMP writes the bits of E in its mask register, with NV as its condition says; FCLASS writes the one class
bit of the raw source. -/
def Obligations.FloatCompareAndClass : Prop :=
  ∀ (s : State) (d a b : VReg) (md : MReg) (ta tb na aa nb ab : Bool) (p : BitVec 2) (cond : BitVec 3) (ty : Ty),
    issuing s →
    ((Instr.fcmp md a b ta tb p cond ty na aa nb ab).wellFormed = true →
      s.issues (s.E p) ((({} : Deps).src ta (regsOf ty a.toNat)).src tb (regsOf ty b.toNat)) 0 = true →
      let r (l : Nat) : Bool × FlagBits :=
        condF cond.toNat (source s ty (s.cw.lane l) a na aa) (source s ty (s.cw.lane l) b nb ab)
      let fl := conditions s (s.E p) fun l _ => (0, (r l).2)
      (fpTrap s.cw.fpctl fl = none →
        ∃ u, exec (.fcmp md a b ta tb p cond ty na aa nb ab) s = .next u ∧ Confined s u 2 0 [] [] [md.toNat] fl ∧
          ∀ l < 32, (maskRead s.legacy u.cw md.toNat).getLsbD l =
            if md = 0 then (maskRead s.legacy s.cw 0).getLsbD l else if s.legacy && decide (16 ≤ l) then false
            else if (s.E p).getLsbD l then (r l).1 else (maskRead s.legacy s.cw md.toNat).getLsbD l) ∧
      ∀ c, fpTrap s.cw.fpctl fl = some c →
        ∃ m : Lanes, exec (.fcmp md a b ta tb p cond ty na aa nb ab) s = .next (s.trapAt c m) ∧
          ∀ l < 32, m.getLsbD l = ((s.E p).getLsbD l && (r l).2 &&& causeFlag c != 0)) ∧
    ((Instr.fclass d a ta p ty).wellFormed = true →
      encode (.fclass d a ta p ty) = [BitVec.ofNat 32 (0x33 * 2 ^ 25 + d.toNat * 2 ^ 18 + a.toNat * 2 ^ 11 +
        (if ta then 8 else 0) + p.toNat), BitVec.ofNat 32 (ty.code.toNat * 2 ^ 16)]) ∧
    ((Instr.fclass d a ta p ty).wellFormed = true →
      s.issues (s.E p) ((({} : Deps).src ta (regsOf ty a.toNat)).dst [d.toNat]) 0 = true →
      VectorResult s (.fclass d a ta p ty) 2 (s.E p) .b32 d fun _ l y =>
        match decodeF ty (l.rdTy ty a.toNat) with
        | .inf n => y = if n then 1 else 128
        | .nan sn => y = if sn then 256 else 512
        | .fin n q => y = if q = 0 then (if n then 8 else 16)
          else if q < pow2 (gridOf ty).emin then (if n then 4 else 32) else (if n then 2 else 64))

/-- R159, R107, R110: CVT between the float and integer types. That stochastic rounding draws under the seeds of the launch
itself is the model's reading (log 37). -/
def Obligations.ConversionsBetweenTypes : Prop :=
  ∀ (s : State) (d a c : VReg) (ta tc : Bool) (p : BitVec 2) (dty sty : Ty) (rm : BitVec 3) (salt : BitVec 8),
    issuing s → (Instr.cvt d a ta p c tc dty rm sty salt).wellFormed = true →
    let dep := (({} : Deps).src ta (regsOf sty a.toNat)).dst (regsOf dty d.toNat)
    s.issues (s.E p) (if rm = 4 then dep.src tc [c.toNat] else dep) 0 = true →
    FloatResult s (.cvt d a ta p c tc dty rm sty salt) 2 (s.E p) dty d 0 fun _ l =>
      let mode : Mode := if rm = 4 then srDraw (s.cl.seed.getLastD 0) ((l.rd c.toNat).setWidth 64) (salt.setWidth 32)
        else modeOf s.cw.fpctl rm
      let fl := s.cw.fpctl.getLsbD (flushBit dty)
      if sty.isFloat = false then
        let z := num sty (l.rdTy sty a.toNat)
        asBits dty (if z = 0 then (.fin false 0, 0) else roundTo dty fl mode (decide (z < 0)) |(z : Rat)|)
      else
        let x := source s sty l a false false
        if dty.isFloat then asBits dty (match x with
          | .nan sn => (.nan false, if sn then fNV else 0)
          | .inf n => (.inf n, 0)
          | .fin n q => roundTo dty fl mode n q)
        else match x with
          | .nan _ => (0, fNV)
          | .inf n => (BitVec.ofInt 64 (if n then clamp dty (-2 ^ 64) else clamp dty (2 ^ 64)), fNV)
          | .fin n q =>
            let m : Int := (roundStep mode n q 1).floor
            let z : Int := if n then -m else m
            if clamp dty z ≠ z then (BitVec.ofInt 64 (clamp dty z), fNV)
            else (BitVec.ofInt 64 z, if (m : Rat) = q then 0 else fNX)

/-- R115, R117, R161, R162, R163: the narrow conversions under a descriptor that R115 accepts; one that it refuses
is ILLEGAL in any lane. That an infinite source overflows in the mode of the rounding (log 26), and that stochastic rounding
draws under the seeds of the launch itself (log 37), are the model's readings; the scale of a format whose largest finite
value is 0 is a free value (log 8). -/
def Obligations.NarrowConversions : Prop :=
  ∀ (s : State) (d a c : VReg) (b : WReg) (ta tc : Bool) (p : BitVec 2) (ty : Ty) (rm : BitVec 3) (salt : BitVec 8),
    issuing s → s.cw.fullW b.toNat = true →
    let desc : W32 := (s.cw.rdW b.toNat).setWidth 32
    let n := narrowOf desc
    let index (l : Nat) : W64 := ((s.cw.rdW b.toNat).extractLsb' 32 32).setWidth 64 + BitVec.ofNat 64 l
    let mode (l : Nat) : Mode := if rm = 4 then srDraw (s.cl.seed.getLastD 0) (index l) (salt.setWidth 32)
      else modeOf s.cw.fpctl rm
    let scale (l : Lane) : Option Rat := s20 ((l.rd c.toNat).toNat % 2 ^ 20)
    let into (m : Mode) (x : Option FVal) (f : FlagBits) : W64 × FlagBits := match x with
      | some v => (BitVec.ofNat 64 (n.round m v).1, (n.round m v).2 ||| f)
      | none => (BitVec.ofNat 64 n.nanAnswer.1, f ||| fNV ||| fNP ||| n.nanAnswer.2)
    let outOf (x : Option FVal) : W64 × FlagBits := match x with
      | some v => asBits ty (floatToFloat ty (s.cw.fpctl.getLsbD (flushBit ty)) (modeOf s.cw.fpctl rm) v)
      | none => (canonNan ty, fNV ||| fNP)
    ∀ q ∈ ([(.cvtn d a b ta p ty rm salt, .b32,
          ((({} : Deps).src ta (regsOf ty a.toNat)).dst [d.toNat]).wsrc ta b.toNat,
          fun k l => into (mode k) (some (source s ty l a false false)) 0),
        (.cvtnFrom d a b ta p ty rm, ty,
          ((({} : Deps).src ta [a.toNat]).dst (regsOf ty d.toNat)).wsrc ta b.toNat,
          fun _ l => outOf (some (n.decode (l.rd a.toNat).toNat))),
        (.bscale d a b ta p ty, .b32,
          ((({} : Deps).src ta (regsOf ty a.toNat)).dst [d.toNat]).wsrc ta b.toNat,
          fun _ l => let x := source s ty l a false true
            let r := bscale n (freeScale n x) x
            (BitVec.ofNat 64 r.1, r.2)),
        (.qnt d a b ta p c tc ty rm salt, .b32,
          ((({} : Deps).src ta (regsOf ty a.toNat)).src tc [c.toNat] |>.dst [d.toNat]).wsrc ta b.toNat,
          fun k l => let x := quotient (source s ty l a false false) (scale l)
            into (mode k) x.1 x.2),
        (.dqnt d a b ta p c tc ty rm, ty,
          ((({} : Deps).src ta [a.toNat]).src tc [c.toNat] |>.dst (regsOf ty d.toNat)).wsrc ta b.toNat,
          fun _ l => outOf (scaled (n.decode (l.rd a.toNat).toNat) (scale l)))] :
          List (Instr × Ty × Deps × (Nat → Lane → W64 × FlagBits))),
      q.1.wellFormed = true → s.issues (s.E p) q.2.2.1 0 = true →
        (narrowOk desc = true → FloatResult s q.1 2 (s.E p) q.2.1 d 0 q.2.2.2) ∧
        (narrowOk desc = false → exec q.1 s = .next s.illegal)

/-! ### Memory -/

namespace Sys2Proof.Claims

/-- No commutative partial is outstanding: an access combines none first (R238). -/
def noPartials (s : State) : Prop := s.pooledPartials = [] ∧ ∀ g ∈ s.wgs, g.partials = []

/-- Whether a location lies in a region's image (R198). -/
def inRegion : Loc → Prop
  | .region _ _ => True
  | _ => False

/-- The cell of memory that a location names: a byte of a mapped block is its device byte (R234), and a byte of host memory
is the same whatever port carries it (R228). -/
def cellOf : Loc → Loc
  | .block _ _ a => .dev a
  | .host _ k => .host 0 k
  | l => l

/-- What a location holds is defined: no copy whose completion nobody has observed writes there, also by way of the range that
a mapped block is bound to (R234, R291, R294). -/
def settled (s : State) : Loc → Prop
  | .stash g off | .block g off _ => s.unobserved 1 g off = false
  | .opbuf g off => s.unobserved 3 g off = false
  | .dev a => s.unobservedDev a = false
  | _ => True

/-- The address that a watch compares: a stash offset has one where its block is mapped (R431). -/
def watchVA (s : State) (stash : Bool) (a : W64) : Option W64 := if stash then s.stashVA a else some a

/-- No watch matches an access (R431). -/
def unwatched (s : State) (stash load store : Bool) (a : W64) (size : Nat) : Prop :=
  ∀ v, watchVA s stash a = some v → s.watched load store v size = false

/-- Elements `j0` to `n` of the lanes of `e` translate under `xl`, match no watch, and wait for no older access of their
welt and no ratio change (R246, R269, R270, R392, R431): the condition on which an access is performed. -/
def accessible (s : State) (stash load store : Bool) (size : Nat) (e : Lanes) (j0 n : Nat) (A : Nat → Nat → W64)
    (xl : W64 → Except XFault (List Loc)) : Prop :=
  ∀ l < 32, e.getLsbD l → ∀ j, j0 ≤ j → j < n → unwatched s stash load store (A l j) size ∧
    ∃ ls, xl (A l j) = .ok ls ∧ ls.length = size ∧ s.inFlight ls = false ∧ s.ratioHolds ls = false

/-- A load has issued: its elements fly to LOAD_LAND, and their registers are empty (R53). -/
structure LoadFlies (s u : State) (len : Nat) (e : Lanes) (ty : Ty) (d : VReg) (j0 n : Nat) (A : Nat → Nat → W64)
    (xl : W64 → Except XFault (List Loc)) (ms : List Nat) : Prop where
  bytes : ∀ l, u.getByte l = s.getByte l
  reaching : Reaching s u len e (elemRegs ty d n) [] ms 0
  agenda : u.agenda = s.agenda ++ (if s.cw.stepping then [.singleStepComplete s.cur] else [])
    ++ [.loadLand s.cur s.cw.nextFlight]
  flight : ∃ es, u.cw.flights = s.cw.flights ++ [⟨s.cw.nextFlight, s.cw.order, .load es⟩] ∧
    (∀ l < 32, e.getLsbD l → ∀ j, j0 ≤ j → j < n → ∀ ls, xl (A l j) = .ok ls → ⟨l, elemReg ty d j, ty, ls⟩ ∈ es) ∧
    ∀ x ∈ es, ∃ j, j0 ≤ j ∧ j < n ∧ e.getLsbD x.lane ∧ x.dst = elemReg ty d j ∧ x.ty = ty ∧ xl (A x.lane j) = .ok x.locs
  empty : ∀ l < 32, e.getLsbD l → ∀ j, j0 ≤ j → j < n → ∀ r ∈ regsOf ty (elemReg ty d j), r < 128 →
    (u.cw.lane l).full.getLsbD r = false

/-- A store of the lanes of `e` has been performed: the bytes at the translated addresses hold its values, where no two of
them name one cell, no copy writes there unobserved (R291, R294) and no other welt changes the block (R280); every other
byte of every memory is as it was. -/
structure StoreDone (s u : State) (len size : Nat) (e : Lanes) (n : Nat) (A : Nat → Nat → W64)
    (xl : W64 → Except XFault (List Loc)) (val : Nat → Nat → W64) : Prop where
  reaching : Reaching s u len 0 [] [] [] 0
  kept : ∀ a, (∀ l < 32, e.getLsbD l → ∀ j < n, ∀ ls, xl (A l j) = .ok ls → ∀ b ∈ ls, cellOf a ≠ cellOf b) →
    u.getByte a = s.getByte a
  stored : ∀ l < 32, e.getLsbD l → ∀ j < n, ∀ ls, xl (A l j) = .ok ls → (ls.map cellOf).Nodup →
    (∀ l' < 32, e.getLsbD l' → ∀ j' < n, (l, j) ≠ (l', j') → ∀ ls', xl (A l' j') = .ok ls' →
      ∀ a ∈ ls, ∀ b ∈ ls', cellOf a ≠ cellOf b) →
    ∀ k (h : k < ls.length), s.racing s.cur ls[k] = false → settled s ls[k] →
      u.getByte ls[k] = (val l j).extractLsb' (8 * k) 8

end Sys2Proof.Claims

/-- R53, R267, R269, R273, R274, R277: LD, LDX, LDS and the probe form send their elements to LOAD_LAND and empty their
registers; memory is as it was. -/
def Obligations.LoadsFly : Prop :=
  ∀ (s : State) (d i : VReg) (w : WReg) (md : MReg) (f p n cp : BitVec 2) (t : Bool) (ty : Ty) (disp : BitVec 13),
    issuing s → s.todo p ≠ 0 →
    let A (size : Nat) (disp : BitVec 13) := s.elemAddr w i f size disp
    let deps (ty : Ty) (n : Nat) := (memDeps {} t w i.toNat f n).dst (elemRegs ty d n)
    (∀ q ∈ ([(.ld d w i f t p, false, 1, .b32, 0, 1, 0, s.loadXlate 4),
        (.ldX d w i f t p ty cp disp, false, 2, ty, 0, 1, disp, s.loadXlate ty.bytes),
        (.ldx d w i f t p ty n cp disp, false, 2, ty, s.cw.replayElem, n.toNat + 1, disp, s.loadXlate ty.bytes),
        (.lds d w i f t p ty disp, true, 2, ty, 0, 1, disp, fun a => s.consume (s.stashXlate .load ty.bytes a))] :
          List (Instr × Bool × Nat × Ty × Nat × Nat × BitVec 13 × (W64 → Except XFault (List Loc)))),
      let ⟨ins, stash, len, ty, j0, n, disp, xl⟩ := q
      ins.wellFormed = true → j0 < n → s.issues (s.todo p) (deps ty n) 0 = true →
      accessible s stash true false ty.bytes (s.todo p) j0 n (A ty.bytes disp) xl →
      ∃ u, exec ins s = .next u ∧ LoadFlies s u len (s.todo p) ty d j0 n (A ty.bytes disp) xl []) ∧
    ((Instr.ldProbe d w i f t p ty md cp disp).wellFormed = true →
      s.issues (s.todo p) ((memDeps {} t w i.toNat f 1).dst (regsOf ty d.toNat)) 0 = true →
      accessible s false true false ty.bytes (s.todo p) 0 1 (A ty.bytes disp) (s.probeXlate ty.bytes) →
      ∃ u, exec (.ldProbe d w i f t p ty md cp disp) s = .next u ∧
        LoadFlies s u 2 (s.todo p) ty d 0 1 (A ty.bytes disp) (s.probeXlate ty.bytes) [md.toNat] ∧
        ∀ l < 32, md ≠ 0 → (maskRead s.legacy u.cw md.toNat).getLsbD l =
          if s.legacy && decide (16 ≤ l) then false
          else if (s.todo p).getLsbD l then s.probeBit ty.bytes (A ty.bytes disp l 0)
          else (maskRead s.legacy s.cw md.toNat).getLsbD l)

/-- R53, R267, R276: a landing load fills each register with the bytes at its location as its lane then sees them (R246,
R247), extended as its type says. That the bytes are read when the load lands is the model's choice (log 13). -/
def Obligations.LoadsLand : Prop :=
  ∀ (s : State) (w n o : Nat), w < s.welts.length → (s.weltAt w).ended = false → noPartials s →
    (∀ es : List Elem, (s.weltAt w).flights.find? (fun f => f.num == n) = some ⟨n, o, .load es⟩ →
      (∀ e ∈ es, e.lane < 32 ∧ ∀ r ∈ regsOf e.ty e.dst, r < 128) →
      es.Pairwise (fun e e' => e.lane ≠ e'.lane ∨ ∀ r ∈ regsOf e.ty e.dst, r ∉ regsOf e'.ty e'.dst) →
      ∃ u, exec (.loadLand w n) s = .next u ∧ (∀ l, u.getByte l = s.getByte l) ∧
        (u.weltAt w).flights = (s.weltAt w).flights.filter (fun f => f.num != n) ∧
        (∀ i, i ≠ w → u.weltAt i = s.weltAt i) ∧
        (∀ e ∈ es, ((u.weltAt w).lane e.lane).rdTy e.ty e.dst = image e.ty (num e.ty
          (s.seenLocs ⟨w, BitVec.twoPow 32 e.lane⟩ e.locs)) ∧ ∀ r ∈ regsOf e.ty e.dst, ((u.weltAt w).lane e.lane).full.getLsbD r = true) ∧
        ∀ l < 32, ∀ r < 128, (∀ e ∈ es, e.lane = l → r ∉ regsOf e.ty e.dst) →
          sameReg ((u.weltAt w).lane l) ((s.weltAt w).lane l) r) ∧
    ∀ (d : WReg) (ty : Ty) (lanes : Lanes) (ls : List Loc), d ≠ 0 →
      (s.weltAt w).flights.find? (fun f => f.num == n) = some ⟨n, o, .loadW d ty lanes ls⟩ →
      ∃ u, exec (.loadLand w n) s = .next u ∧ (∀ l, u.getByte l = s.getByte l) ∧
        (u.weltAt w).fullW d.toNat = true ∧ (u.weltAt w).lanes = (s.weltAt w).lanes ∧
        (u.weltAt w).rdW d.toNat = BitVec.ofInt 64 (num ty (s.seenLocs ⟨w, lanes⟩ ls))

/-- R267, R270, R273, R274, R277: ST, STX and STS store each lane's elements at the addresses they compute; a lane that
faults is a trap before any lane stores. -/
def Sys2Proof.Claims.storesWriteTheirBytes : Prop :=
  ∀ (s : State) (d i : VReg) (w : WReg) (f p n cp : BitVec 2) (t : Bool) (ty : Ty) (disp : BitVec 13),
    issuing s → memoriesWf s → noPartials s →
    let deps (ty : Ty) (n : Nat) := (memDeps {} t w i.toNat f n).src t (elemRegs ty d n)
    ∀ q ∈ ([(.st d w i f t p, false, 1, .b32, 1, 0, s.dataXlate .store 4),
        (.stX d w i f t p ty cp disp, false, 2, ty, 1, disp, s.dataXlate .store ty.bytes),
        (.stx d w i f t p ty n cp disp, false, 2, ty, n.toNat + 1, disp, s.dataXlate .store ty.bytes),
        (.sts d w i f t p ty disp, true, 2, ty, 1, disp, s.stashXlate .store ty.bytes)] :
          List (Instr × Bool × Nat × Ty × Nat × BitVec 13 × (W64 → Except XFault (List Loc)))),
      let ⟨ins, stash, len, ty, n, disp, xl⟩ := q
      let A := s.elemAddr w i f ty.bytes disp
      let as := s.accesses stash (accessesOf (s.E p) n A xl)
      ins.wellFormed = true → s.issues (s.E p) (deps ty n) 0 = true →
      (accessible s stash false true ty.bytes (s.E p) 0 n A xl →
        (∀ l < 32, (s.E p).getLsbD l → ∀ j < n, ∀ ls, xl (A l j) = .ok ls → ∀ a ∈ ls, ¬inRegion a) →
        ∃ u, exec ins s = .next u ∧ StoreDone s u len ty.bytes (s.E p) n A xl
          fun l j => (s.cw.lane l).rdTy ty (elemReg ty d j)) ∧
      ((∀ l < 32, (s.E p).getLsbD l → ∀ j < n, unwatched s stash false true (A l j) ty.bytes) →
        (∀ l < 32, (s.E p).getLsbD l → ∀ j < n, ∀ ls, xl (A l j) = .ok ls → ∀ a ∈ ls, ¬inRegion a) →
        (∃ l < 32, (s.E p).getLsbD l ∧ ∃ j < n, ∃ x, xl (A l j) = .error x) →
        exec ins s = .next ((s.fillTlbs as).faultTrap as 0))

/-- R275: STC packs the values of the lanes of E, in ascending lane order, from the address of the lowest. -/
def Sys2Proof.Claims.compressStorePacks : Prop :=
  ∀ (s : State) (d i : VReg) (w : WReg) (f p cp : BitVec 2) (t : Bool) (ty : Ty) (disp : BitVec 13),
    issuing s → memoriesWf s → noPartials s → s.cw.replay = none →
    (Instr.stc d w i f t p ty cp disp).wellFormed = true →
    s.issues (s.E p) ((memDeps {} t w i.toNat f 1).src t (regsOf ty d.toNat)) 0 = true →
    let lanes := (List.range 32).filter fun l => (s.E p).getLsbD l
    let base := s.elemAddr w i f ty.bytes disp (lanes.headD 0) 0
    let A (k : Nat) : W64 := base + BitVec.ofNat 64 (k * ty.bytes)
    (∀ k < lanes.length, s.watched false true (A k) ty.bytes = false ∧ ∃ ls, s.dataXlate .store ty.bytes (A k) = .ok ls ∧
      (ls.map cellOf).Nodup ∧ ls.length = ty.bytes ∧ s.inFlight ls = false ∧ s.ratioHolds ls = false ∧
      (∀ a ∈ ls, ¬inRegion a)) →
    (∀ k < lanes.length, ∀ k' < lanes.length, k ≠ k' → ∀ ls ls', s.dataXlate .store ty.bytes (A k) = .ok ls →
      s.dataXlate .store ty.bytes (A k') = .ok ls' → ∀ a ∈ ls, ∀ b ∈ ls', cellOf a ≠ cellOf b) →
    ∃ u, exec (.stc d w i f t p ty cp disp) s = .next u ∧ Reaching s u 2 0 [] [] [] 0 ∧
      (∀ a, (∀ k < lanes.length, ∀ ls, s.dataXlate .store ty.bytes (A k) = .ok ls →
          ∀ b ∈ ls, cellOf a ≠ cellOf b) → u.getByte a = s.getByte a) ∧
      ∀ k < lanes.length, ∀ ls, s.dataXlate .store ty.bytes (A k) = .ok ls → ∀ b (h : b < ls.length), settled s ls[b] →
        u.getByte ls[b] = ((s.cw.lane (lanes.getD k 0)).rdTy ty d.toNat).extractLsb' (8 * b) 8

/-- R276, R278: LDW and STW move one value for the welt; PREF changes nothing but the pc. That a store takes its
place in the coherence order as it issues is the model's choice (log 13). -/
def Obligations.UniformAccesses : Prop :=
  ∀ (s : State) (a b d : WReg) (i : VReg) (ta tb t : Bool) (f p cp : BitVec 2) (ty : Ty) (disp : BitVec 13), issuing s →
    let x := s.cw.rdW a.toNat
    (s.issues s.cw.A ((({} : Deps).wsrc ta a.toNat).wdst d.toNat) 0 = true →
      s.watched true false x ty.bytes = false → ∀ ls, s.loadXlate ty.bytes x = .ok ls →
      s.inFlight ls = false → s.ratioHolds ls = false →
      ∃ u, exec (.ldw d a ta ty cp) s = .next u ∧ (∀ l, u.getByte l = s.getByte l) ∧ Reaching s u 2 0 [] [d.toNat] [] 0 ∧
        u.cw.flights = s.cw.flights ++ [⟨s.cw.nextFlight, s.cw.order, .loadW d ty s.cw.A ls⟩] ∧ (d ≠ 0 → u.cw.fullW d.toNat = false) ∧
        u.agenda = s.agenda ++ (if s.cw.stepping then [.singleStepComplete s.cur] else [])
          ++ [.loadLand s.cur s.cw.nextFlight]) ∧
    (memoriesWf s → noPartials s → s.issues s.cw.A ((({} : Deps).wsrc ta a.toNat).wsrc tb b.toNat) 0 = true →
      s.watched false true x ty.bytes = false → ∀ ls, s.dataXlate .store ty.bytes x = .ok ls →
      (ls.map cellOf).Nodup → ls.length = ty.bytes → (∀ l ∈ ls, ¬inRegion l) → s.inFlight ls = false →
      s.ratioHolds ls = false →
      ∃ u, exec (.stw a b ta tb ty cp) s = .next u ∧ Reaching s u 2 0 [] [] [] 0 ∧
        (∀ l, (∀ b ∈ ls, cellOf l ≠ cellOf b) → u.getByte l = s.getByte l) ∧
        ∀ k (h : k < ls.length), settled s ls[k] → u.getByte ls[k] = (s.cw.rdW b.toNat).extractLsb' (8 * k) 8) ∧
    (s.issues (s.E p) (memDeps {} t a i.toNat f 1) 0 = true →
      ∃ u, exec (.pref a i f t p cp disp) s = .next u ∧ Confined s u 2 0 [] [] [] 0)

/-- R231, R234, R279, R280: STMAP binds a scratch block to a 64 KiB device range, STUNMAP makes a block scratch that reads as
zero and holds no line any more, STFLUSH writes its dirty lines back and leaves the bytes as they are; each waits for the
older accesses of its welt to the block. STUNMAP and STFLUSH of a block with dirty lines complete once these are written back:
until then the welt waits, and what another welt reads or writes in the block is undefined; what breaks R279 is ILLEGAL. -/
def Obligations.StashBlocks : Prop :=
  ∀ (s : State) (a b : WReg) (ta : Bool), issuing s → memoriesWf s → s.cw.wg < s.wgs.length →
    let k := s.cw.rdW a.toNat
    let x := s.cw.rdW b.toNat
    let block (g : Wg) (j : Nat) : W64 := g.blocks.toList.getD j 0
    let changing (u : State) : Prop :=
      ∀ i, i ≠ s.cur → ∀ off, off / 65536 = k.toNat → u.racing i (.stash s.cw.wg off) = true
    let exists_ : Prop := k.toNat < 32 ∧ (block s.cg k.toNat).getLsbD 63 = true
    let mine (r : Rebind) : Prop := r.block = k.toNat ∧ r.welt = s.cur
    let flies : Prop := ∃ f ∈ s.cw.flights, ∃ l ∈ f.kind.locs, ∃ off, off / 65536 = k.toNat ∧
      (l = .stash s.cw.wg off ∨ ∃ x, l = .block s.cw.wg off x)
    let waits (u : State) : Prop := u.cw = { s.cw with wait := .order, readyAt := none } ∧ u.mem = s.mem ∧ u.host = s.host
    let unmapped (u : State) : Prop :=
      (block u.cg k.toNat).getLsbD 62 = false ∧ (block u.cg k.toNat).getLsbD 63 = true ∧
        (∀ off, off / 65536 = k.toNat → cellRead u.cg.stash off = 0) ∧
        (∀ off, off / 65536 ≠ k.toNat → cellRead u.cg.stash off = cellRead s.cg.stash off) ∧
        (∀ c ∈ u.cached, c.block ≠ some (s.cw.wg, k.toNat)) ∧ u.mem = s.mem ∧ u.host = s.host
    let flushed (u : State) : Prop := (∀ l, u.getByte l = s.getByte l) ∧ u.cg.blocks = s.cg.blocks ∧
      ∀ c ∈ u.cached, c.block = some (s.cw.wg, k.toNat) → c.dirty = false
    (s.issues s.cw.A ((({} : Deps).wsrc ta a.toNat).wsrc false b.toNat) 0 = true →
      (exists_ → (block s.cg k.toNat).getLsbD 62 = false → field x 0 16 = 0 → field x 52 12 = 0 →
        (∀ j < 32, (block s.cg j).getLsbD 62 = true → field (block s.cg j) 16 36 ≠ field x 16 36) →
        s.mapFault x = none →
        (¬flies → ∃ u, exec (.stmap a b ta) s = .next u ∧ Reaching s u 1 0 [] [] [] 0 ∧
          (block u.cg k.toNat).getLsbD 62 = true ∧ field (block u.cg k.toNat) 16 36 = field x 16 36 ∧
          (∀ j < 32, j ≠ k.toNat → block u.cg j = block s.cg j) ∧
          (∀ off, off / 65536 ≠ k.toNat → cellRead u.cg.stash off = cellRead s.cg.stash off) ∧
          u.mem = s.mem ∧ u.host = s.host ∧ u.cg.rebinding = s.cg.rebinding) ∧
        (flies → s.cw.halt = .none → ∃ u, exec (.stmap a b ta) s = .next u ∧ waits u)) ∧
      (field x 0 16 ≠ 0 → exec (.stmap a b ta) s = .next s.illegal)) ∧
    (s.issues s.cw.A (({} : Deps).wsrc ta a.toNat) 0 = true → exists_ →
      (∀ q ∈ ([(.stunmap a ta, unmapped), (.stflush a ta, flushed)] : List (Instr × (State → Prop))),
        (q.1 = .stflush a ta → (block s.cg k.toNat).getLsbD 62 = true) →
        ((∀ r ∈ s.cg.rebinding, ¬mine r) → ¬flies → s.blockDirty s.cw.wg k.toNat = [] →
          ∃ u, exec q.1 s = .next u ∧ Reaching s u 1 0 [] [] [] 0 ∧ q.2 u) ∧
        ((∀ r ∈ s.cg.rebinding, ¬mine r) → ¬flies → s.blockDirty s.cw.wg k.toNat ≠ [] → s.cw.halt = .none →
          ∃ u, exec q.1 s = .next u ∧ u.cw = { s.cw with wait := .order, readyAt := none } ∧ q.2 u ∧ changing u) ∧
        ((∀ r ∈ s.cg.rebinding, ¬mine r) → flies → s.cw.halt = .none → ∃ u, exec q.1 s = .next u ∧ waits u) ∧
        ∀ r, s.cg.rebinding.find? (fun r => r.block == k.toNat && r.welt == s.cur) = some r →
          (r.done = true → ∃ u, exec q.1 s = .next u ∧ Reaching s u 1 0 [] [] [] 0 ∧ (∀ l, u.getByte l = s.getByte l) ∧
            u.cg.blocks = s.cg.blocks ∧ u.cg.rebinding = s.cg.rebinding.erase r) ∧
          (r.done = false → s.cw.halt = .none → ∃ u, exec q.1 s = .next u ∧ waits u)) ∧
      ((block s.cg k.toNat).getLsbD 62 = false → exec (.stflush a ta) s = .next s.illegal))

/-! ### Atomics, commutative ranges, fences -/

namespace Sys2Proof.Claims

/-- The value that an atomic stores (R282), of which the low bits of the type are kept: the operations of R92 by code. -/
def atomValue (op : Nat) (ty : Ty) (old v cmp : W64) : W64 :=
  let k := ty.width
  if ty.isFloat then
    (match op with
      | 0 => encodeF ty (finish ty false .rne (addExact .rne (decodeF ty old) (decodeF ty v))).1
      | 1 => encodeF ty (minMaxF false (decodeF ty old) (decodeF ty v)).1
      | 2 => encodeF ty (minMaxF true (decodeF ty old) (decodeF ty v)).1
      | _ => v)
  else
    match op with
    | 0 => BitVec.ofInt 64 (num ty old + num ty v)
    | 1 => BitVec.ofInt 64 (min (num ty old) (num ty v))
    | 2 => BitVec.ofInt 64 (max (num ty old) (num ty v))
    | 3 => old &&& v
    | 4 => old ||| v
    | 5 => old ^^^ v
    | 6 => v
    | 7 => if old.toNat % 2 ^ k = cmp.toNat % 2 ^ k then v else old
    | _ => if v.toNat % 2 ^ k ≤ old.toNat % 2 ^ k then 0 else old + 1

/-- Operations of distinct lanes, each on a location of whole bytes of device or host memory that no copy leaves undefined. -/
def wholeOps (s : State) (ops : List AtomOp) : Prop :=
  (∀ o ∈ ops, (o.locs.map cellOf).Nodup ∧ o.locs.length = o.ty.bytes ∧
    ∀ a ∈ o.locs, ((∃ k, a = .dev k) ∨ ∃ p k, a = .host p k) ∧ settled s a) ∧
  ops.Pairwise fun o o' => o.lane ≠ o'.lane

/-- The value at a location under a reading of the bytes. -/
def valueOf (m : Loc → Byte) (ls : List Loc) : W64 := BitVec.ofNat 64 (leValue (ls.map m))

/-- What the bytes read as once an operation has been carried out: the bytes of its location hold its result (R282), every
other byte is as it was. -/
def afterOp (m : Loc → Byte) (o : AtomOp) (a : Loc) : Byte :=
  match (o.locs.map cellOf).idxOf? (cellOf a) with
  | some k => (atomValue o.op o.ty (valueOf m o.locs) o.val o.cmp).extractLsb' (8 * k) 8
  | none => m a

/-- The value that each of some operations, carried out one after another, finds at its location. -/
def oldValues : (Loc → Byte) → List AtomOp → List (AtomOp × W64)
  | _, [] => []
  | m, o :: os => (o, valueOf m o.locs) :: oldValues (afterOp m o) os

/-- The operations have been carried out in the order given, one read-modify-write each, two of one location too (R240); every
byte of no location among them is as it was. -/
def carriedOut (s u : State) (ops : List AtomOp) : Prop :=
  (∀ o ∈ ops, ∀ a ∈ o.locs, u.getByte a = ops.foldl afterOp s.getByte a) ∧
  ∀ a, (∀ o ∈ ops, ∀ b ∈ o.locs, cellOf a ≠ cellOf b) → u.getByte a = s.getByte a

/-- The operations that the lanes of E ask for, with the operand and comparand that each reads (R281, R282). -/
def operations (s : State) (e : Lanes) (op : Nat) (ty : Ty) (d c : VReg) (rt : Bool) (A : Nat → W64) : List AtomOp :=
  ((List.range 32).filter fun l => e.getLsbD l).filterMap fun l =>
    match s.consume (s.dataXlate .both ty.bytes (A l)) with
    | .ok ls => some ⟨l, ls, op, ty, (s.cw.lane l).rdTy ty c.toNat, (s.cw.lane l).rdTy ty d.toNat,
        if rt then some d.toNat else none⟩
    | .error _ => none

/-- Every lane of E may perform its atomic: aligned, translated, unwatched, not behind an older access of its welt, held by
no ratio change, and not replayed (R272, R281, R282, R392). -/
def atomicsReady (s : State) (e : Lanes) (ty : Ty) (A : Nat → W64) : Prop :=
  s.cw.replay = none ∧ e ≠ 0 ∧
  ∀ l < 32, e.getLsbD l → (A l).toNat % ty.bytes = 0 ∧ s.watched true true (A l) ty.bytes = false ∧
    ∃ ls, s.consume (s.dataXlate .both ty.bytes (A l)) = .ok ls ∧ s.inFlight ls = false ∧ s.ratioHolds ls = false

/-- Whether the welt's core holds the line of an operation exclusively, once the translations are entered and the homes
have classified the pages of the lines that it does not (R235, R240, R405). -/
def near (s : State) (e : Lanes) (ty : Ty) (A : Nat → W64) (ops : List AtomOp) (o : AtomOp) : Bool :=
  ((s.fillTlbs (accessesOf e 1 (fun l _ => A l) fun a => s.consume (s.dataXlate .both ty.bytes a))).classifyAtoms
    s.cg.core ops).isNear s.cg.core o

/-- The word of a workgroup's partials that adds to word `j` of line `l` of range `r` (R238): the identity where nothing
was added. -/
def partialWord (g : Wg) (cop r l j : Nat) : W32 :=
  match g.partials.find? fun q => q.launch == g.launch && q.wg == g.logical && q.range == r && q.line == l with
  | some q => ((q.words.find? fun x => x.1 == j).map (·.2)).getD (crIdentity cop)
  | none => crIdentity cop

/-- Byte `k` of a 32-bit word of device memory. -/
def wordAtDev (s : State) (a : Nat) : W32 := BitVec.ofNat 32 (cellsRead s.mem a 4)

end Sys2Proof.Claims

/-- R240, R243, R281, R282: an atomic outside deterministic launches is carried out at once where its core holds every line
exclusively, and else flies to the engine; a destination is empty until the old values land. One on a host page is carried
out by the endpoint or under the leases of its lines, which the welt waits for; with no means, or in the lanes whose lease is
refused, it is HOST-ATOMIC. That the leases are asked for together, one for each line, and answered in the order of the lines,
and that a refused one keeps every lane from its effect, is the model's reading (log 35). -/
def Obligations.AtomicsStart : Prop :=
  ∀ (s : State) (d i c : VReg) (w : WReg) (f p : BitVec 2) (t tc rt : Bool) (ty : Ty) (disp : BitVec 13),
    issuing s → memoriesWf s → noPartials s → s.cl.det = false →
    ∀ q ∈ ([(.atomAdd d w i f t p c tc ty rt disp, 0, rt), (.atomMin d w i f t p c tc ty rt disp, 1, rt),
        (.atomMax d w i f t p c tc ty rt disp, 2, rt), (.atomAnd d w i f t p c tc ty rt disp, 3, rt),
        (.atomOr d w i f t p c tc ty rt disp, 4, rt), (.atomXor d w i f t p c tc ty rt disp, 5, rt),
        (.atomExch d w i f t p c tc ty rt disp, 6, rt), (.atomCas d w i f t p c tc ty disp, 7, true),
        (.atomIncwrap d w i f t p c tc ty rt disp, 8, rt)] : List (Instr × Nat × Bool)),
      let ⟨ins, op, rt⟩ := q
      let A (l : Nat) := s.elemAddr w i f ty.bytes disp l 0
      let src := (memDeps {} t w i.toNat f 1).src tc (regsOf ty c.toNat)
      let src := if op = 7 then src.src t (regsOf ty d.toNat) else src
      let ops := operations s (s.E p) op ty d c rt A
      let rs := if rt then regsOf ty d.toNat else []
      ins.wellFormed = true → s.issues (s.E p) (if rt then src.dst (regsOf ty d.toNat) else src) 0 = true →
      let v := s.fillTlbs (accessesOf (s.E p) 1 (fun l _ => A l) fun a => s.consume (s.dataXlate .both ty.bytes a))
      let leased (answers : List Bool) (since : Nat) : Wait := .lease (s.E p) (hostLines ops) answers since
      (s.cl.walker = true → op ≠ 6 ∧ op ≠ 7) → atomicsReady s (s.E p) ty A →
      ((∀ o ∈ ops, o.way s.cc = .none) → exec ins s = .next (v.hostAtomic A (s.E p))) ∧
      ((∀ o ∈ ops, o.way s.cc = .lease) →
        (s.cw.wait = .none → exec ins s = .next (v.stall (leased [] s.now))) ∧
        ∀ t0 answers, s.cw.wait = leased answers t0 →
          (answers.length < (hostLines ops).length → exec ins s = .next (v.stall (leased answers t0))) ∧
          (answers.length = (hostLines ops).length → false ∈ answers → ∃ m : Lanes,
            (∀ l < 32, m.getLsbD l ↔ ∃ o ∈ ops, o.lane = l ∧
              ∃ k ∈ hostLines [o], (k, false) ∈ (hostLines ops).zip answers) ∧
            exec ins s = .next ((v.endLease s.cur).hostAtomic A m))) ∧
      (wholeOps s ops → ((∀ o ∈ ops, o.way s.cc = .native) ∨ (∀ o ∈ ops, o.way s.cc = .lease) ∧
          ∃ t0, s.cw.wait = leased ((hostLines ops).map fun _ => true) t0) →
      ((∀ o ∈ ops, near s (s.E p) ty A ops o = true) → ∃ u fl os, exec ins s = .next u ∧ os.Perm ops ∧ carriedOut s u os ∧
        Reaching s u 2 (s.E p) rs [] [] fl ∧ (ty.isFloat = false → fl = 0) ∧
        (rt = true → ∃ es, u.cw.flights = s.cw.flights ++ [⟨s.cw.nextFlight, s.cw.order, .value es⟩] ∧
          (∀ x, x ∈ es ↔ ∃ y ∈ oldValues s.getByte os, x = (y.1.lane, d.toNat, ty, y.2)) ∧
          .loadLand s.cur s.cw.nextFlight ∈ u.agenda)) ∧
      ((∀ o ∈ ops, near s (s.E p) ty A ops o = false) → ∃ u, exec ins s = .next u ∧ (∀ l, u.getByte l = s.getByte l) ∧
        Reaching s u 2 (s.E p) rs [] [] 0 ∧
        u.cw.flights = s.cw.flights ++ [⟨s.cw.nextFlight, s.cw.order, .atom ops⟩] ∧
        .farAtomic s.cur s.cw.nextFlight ∈ u.agenda) ∧
      ∀ u, exec ins s = .next u → rt = true → ∀ l < 32, (s.E p).getLsbD l → ∀ r ∈ rs,
        (u.cw.lane l).full.getLsbD r = false)

/-- R240, R282: FAR_ATOMIC carries the operations out at the home's engine, one after another in an order that the spec leaves
open (log 9); old values then land as a load's do. -/
def Obligations.FarAtomicsCarryOut : Prop :=
  ∀ (s : State) (w n o : Nat) (ops : List AtomOp), w < s.welts.length → (s.weltAt w).ended = false → memoriesWf s →
    noPartials s → wholeOps s ops → (s.weltAt w).flights.find? (fun f => f.num == n) = some ⟨n, o, .atom ops⟩ →
    ∃ u os, exec (.farAtomic w n) s = .next u ∧ os.Perm ops ∧ carriedOut s u os ∧ (u.weltAt w).lanes = (s.weltAt w).lanes ∧
      (u.weltAt w).w = (s.weltAt w).w ∧ (u.weltAt w).m = (s.weltAt w).m ∧
      (∀ i, i ≠ w → sameRegisters (s.weltAt i) (u.weltAt i) ∧ (u.weltAt i).flights = (s.weltAt i).flights ∧
        (u.weltAt i).wait = (s.weltAt i).wait) ∧
      ((∀ o ∈ ops, o.dst = none) → (u.weltAt w).flights = (s.weltAt w).flights.filter fun f => f.num != n) ∧
      ((∃ o ∈ ops, o.dst ≠ none) → .loadLand w n ∈ u.agenda ∧
        ∃ es, (u.weltAt w).flights.find? (fun f => f.num == n) = some ⟨n, o, .value es⟩ ∧
          ∀ x, x ∈ es ↔ ∃ y ∈ oldValues s.getByte os, ∃ d, y.1.dst = some d ∧ x = (y.1.lane, d, y.1.ty, y.2))

/-- R241, R284: ATOMD, and ATOM in a deterministic launch, record one entry for each lane under the key of its logical
workgroup, welt, lane and program order, and touch no memory; a destination takes the value a load would return. -/
def Obligations.BufferedAtomics : Prop :=
  ∀ (s : State) (d i c : VReg) (w : WReg) (f p : BitVec 2) (t tc rt : Bool) (ty : Ty) (disp : BitVec 13),
    issuing s → s.cw.wg < s.wgs.length →
    let A (l : Nat) := s.elemAddr w i f ty.bytes disp l 0
    let src := (memDeps {} t w i.toNat f 1).src tc (regsOf ty c.toNat)
    let recorded (u : State) (ops : List AtomOp) : Prop :=
      (∀ l, u.getByte l = s.getByte l) ∧ u.cg.detBuf = s.cg.detBuf ++ ops.map fun o =>
        ⟨s.cg.launch, s.cg.logical, s.cw.index, o.lane, s.cw.order, s.cw.level, (A o.lane).toNat, o⟩
    (∀ q ∈ ([(.atomdAdd w i f t p c tc ty disp, 0), (.atomdMin w i f t p c tc ty disp, 1),
        (.atomdMax w i f t p c tc ty disp, 2), (.atomdAnd w i f t p c tc ty disp, 3),
        (.atomdOr w i f t p c tc ty disp, 4), (.atomdXor w i f t p c tc ty disp, 5),
        (.atomdIncwrap w i f t p c tc ty disp, 8)] : List (Instr × Nat)),
      let ops := operations s (s.E p) q.2 ty 0 c false A
      q.1.wellFormed = true → s.issues (s.E p) src 0 = true → atomicsReady s (s.E p) ty A →
      s.detCount s.cg.core + ops.length ≤ 4096 →
      ∃ u, exec q.1 s = .next u ∧ recorded u ops ∧ Reaching s u 2 0 [] [] [] 0) ∧
    ∀ q ∈ ([(.atomAdd d w i f t p c tc ty rt disp, 0, rt), (.atomMin d w i f t p c tc ty rt disp, 1, rt),
        (.atomMax d w i f t p c tc ty rt disp, 2, rt), (.atomAnd d w i f t p c tc ty rt disp, 3, rt),
        (.atomOr d w i f t p c tc ty rt disp, 4, rt), (.atomXor d w i f t p c tc ty rt disp, 5, rt),
        (.atomExch d w i f t p c tc ty rt disp, 6, rt), (.atomCas d w i f t p c tc ty disp, 7, true),
        (.atomIncwrap d w i f t p c tc ty rt disp, 8, rt)] : List (Instr × Nat × Bool)),
      let ⟨ins, op, rt⟩ := q
      let src := if op = 7 then src.src t (regsOf ty d.toNat) else src
      let ops := operations s (s.E p) op ty d c rt A
      let rs := if rt then regsOf ty d.toNat else []
      s.cl.det = true → noPartials s → ins.wellFormed = true →
      s.issues (s.E p) (if rt then src.dst (regsOf ty d.toNat) else src) 0 = true → atomicsReady s (s.E p) ty A →
      s.detCount s.cg.core + ops.length ≤ 4096 →
      ∃ u, exec ins s = .next u ∧ recorded u ops ∧ Reaching s u 2 (s.E p) rs [] [] 0 ∧
        (rt = true → ∀ o ∈ ops, (u.cw.lane o.lane).rdTy ty d.toNat =
          image ty (num ty (s.seenLocs ⟨s.cur, BitVec.twoPow 32 o.lane⟩ o.locs)))

/-- R237, R238, R285, R286: CRDECL enters a range once, CRADD adds every lane of E in ascending order into the workgroup's
partials and touches no memory, and the combination applies each word to the home and discards the partials. That a range of
another launch or operation that is equal in extent is let be is the model's choice (log 28). -/
def Obligations.CommutativeRanges : Prop :=
  (∀ (s : State) (a b : WReg) (ta tb : Bool) (cop : BitVec 4), issuing s →
    s.issues s.cw.A ((({} : Deps).wsrc ta a.toNat).wsrc tb b.toNat) 0 = true →
    let x := s.cw.rdW a.toNat
    let n := s.cw.rdW b.toNat
    let mine := s.ranges.filter fun r => r.live && r.ctx == s.cl.ctx
    let again : Prop := ∃ r ∈ mine, r.launch = s.cg.launch ∧ r.base = x.toNat ∧ r.len = n.toNat ∧ r.op = cop.toNat
    x.toNat % 128 = 0 → n.toNat % 128 = 0 → n ≠ 0 → n.toNat ≤ 2 ^ 26 → s.pagesFault (rangePages x n.toNat) = none →
    (again ∨ (mine.length < 256 ∧
      ∀ r ∈ mine, overlap r.base r.len x.toNat n.toNat = true → r.base = x.toNat ∧ r.len = n.toNat)) →
    ∃ u, exec (.crdecl a b ta tb cop) s = .next u ∧ (∀ l, u.getByte l = s.getByte l) ∧
      Reaching s u 2 0 [] [] [] 0 ∧ (again → u.ranges = s.ranges) ∧
      (¬again → u.ranges = s.ranges ++ [⟨s.cl.ctx, s.cg.launch, x.toNat, n.toNat, cop.toNat, true⟩])) ∧
  (∀ (s : State) (d i : VReg) (w : WReg) (f p : BitVec 2) (t : Bool) (cop : BitVec 4) (disp : BitVec 13),
    issuing s → s.cw.wg < s.wgs.length →
    s.issues (s.E p) ((memDeps {} t w i.toNat f 1).src t [d.toNat]) 0 = true →
    let A (l : Nat) := s.elemAddr w i f 4 disp l 0
    let lanes := (List.range 32).filter fun l => (s.E p).getLsbD l
    let range (l : Nat) := s.rangeAt s.cl.ctx s.cg.launch cop.toNat (A l).toNat
    (∀ l ∈ lanes, (A l).toNat % 4 = 0 ∧ (range l).isSome ∧ s.watched false true (A l) 4 = false ∧
      ∃ k rest, s.dataXlate .both 4 (A l) = .ok (.dev k :: rest) ∧ s.inFlight (.dev k :: rest) = false ∧
        s.ratioHolds (.dev k :: rest) = false) →
    ∃ u, exec (.cradd d w i f t p cop disp) s = .next u ∧ (∀ l, u.getByte l = s.getByte l) ∧
      Reaching s u 2 0 [] [] [] 0 ∧
      (∀ r v j, partialWord u.cg cop.toNat r v j = (lanes.filter fun l =>
          range l == some r && (A l).toNat / 128 == v && (A l).toNat % 128 / 4 == j).foldl
        (fun y l => crApply cop.toNat y ((s.cw.lane l).rd d.toNat)) (partialWord s.cg cop.toNat r v j)) ∧
      ∀ q, (q.launch ≠ s.cg.launch ∨ q.wg ≠ s.cg.logical) → (q ∈ u.cg.partials ↔ q ∈ s.cg.partials)) ∧
  ∀ (s : State) (ctx line : Nat),
    let left : Partial_ → Bool := fun q =>
      (s.launchAt q.launch).det || (s.launchAt q.launch).ctx != ctx || q.line != line
    ∃ u, exec (.commutativeCombination ctx line) s = .next u ∧ u.welts = s.welts ∧
      u.pooledPartials = s.pooledPartials.filter left ∧
      (∀ g, (u.wgAt g).partials = (s.wgAt g).partials.filter left) ∧
      ∀ (q : Partial_) (k : Nat), memoriesWf s → s.pooledPartials = [q] → (∀ g ∈ s.wgs, g.partials = []) →
        left q = false → s.partialLine q = some k →
        (∀ j < 32, wordAtDev u (128 * k + 4 * j) = crApply (s.rangeOp q.range) (wordAtDev s (128 * k + 4 * j))
          (((q.words.find? fun x => x.1 == j).map (·.2)).getD (crIdentity (s.rangeOp q.range)))) ∧
        ∀ a, a / 128 ≠ k → cellRead u.mem a = cellRead s.mem a

namespace Sys2Proof.Claims

/-- What a fence of welt `w` with predecessor mask `pm` waits for (R248): with R its loads and the values of its atomics in
flight, with W its atomics in flight, with CR or CW its copies under way, with MR or MW its queued matrix work. -/
def outstanding (s : State) (w : Nat) (pm : BitVec 6) : Prop :=
  (pm.getLsbD 5 = true ∧ ∃ f ∈ (s.weltAt w).flights, (∃ es, f.kind = .load es) ∨ (∃ d t m ls, f.kind = .loadW d t m ls) ∨
    (∃ ops, f.kind = .atom ops) ∨ ∃ es, f.kind = .value es) ∨
  (pm.getLsbD 4 = true ∧ ∃ f ∈ (s.weltAt w).flights, ∃ ops, f.kind = .atom ops) ∨
  ((pm.getLsbD 3 = true ∨ pm.getLsbD 2 = true) ∧ ∃ c ∈ s.copies, c.w = w ∧ c.done = false) ∨
  ((pm.getLsbD 1 = true ∨ pm.getLsbD 0 = true) ∧ ∃ st ∈ (s.weltAt w).streams.toList, st.queue ≠ [])

/-- The issuing welt waits at a fence for what `pm` names, and FENCE_COMPLETE is due. -/
def waitsAtFence (s u : State) (pm : BitVec 6) : Prop :=
  (∀ l, u.getByte l = s.getByte l) ∧ u.cw = { s.cw with wait := .fence pm, readyAt := none } ∧
    (s.cw.wait ≠ .fence pm → .fenceComplete s.cur ∈ u.agenda)

end Sys2Proof.Claims

/-- R248, R252, R282, R287, R288: a FENCE whose before set has nothing outstanding in the classes of its mask runs, whatever
else is outstanding; it changes no byte and no register, with CW the welt's copies that are done are observed, and with W the
stores of its lanes are then visible to every party of its scope. With something outstanding it waits, and FENCE_COMPLETE ends
the wait when that is over. One with an empty mask orders nothing; it waits for atomics only. IFENCE waits for the welt's
atomics and drops the lines that the welt has fetched. That CR and CW wait for a whole copy, and MR and MW for a stream's whole
queue, is the model's reading (log 13). -/
def Obligations.FencesWait : Prop :=
  ∀ (s : State) (pm sm : BitVec 6) (sc : BitVec 3) (cum : Bool) (w : Nat), issuing s →
    let mask : BitVec 6 := if pm = 0 ∨ sm = 0 then pm &&& 0x10 else pm
    (¬outstanding s s.cur mask →
      ∃ u, exec (.fence pm sm sc cum) s = .next u ∧ (∀ l, u.rawByte l = s.rawByte l) ∧ Reaching s u 1 0 [] [] [] 0 ∧
        u.copies = (s.copies.map fun c => if sm ≠ 0 ∧ pm.getLsbD 2 ∧ c.w = s.cur ∧ c.done = true then { c with observed := true }
          else c) ∧
        (pm.getLsbD 4 = true → sm ≠ 0 → sc ≠ 0 → ∀ v ∈ s.veils, v.welt = s.cur → v.lanes &&& s.cw.A ≠ 0 →
          ∃ v' ∈ u.veils, v'.num = v.num ∧ v'.bytes = v.bytes ∧
            ∀ r, s.within r (s.unitOf sc.toNat ⟨s.cur, s.cw.A⟩) = true → u.sees r v' = true)) ∧
    (outstanding s s.cur mask → s.cw.halt = .none → ∃ u, exec (.fence pm sm sc cum) s = .next u ∧ waitsAtFence s u mask) ∧
    (¬outstanding s s.cur 0x10 →
      ∃ u, exec .ifence s = .next u ∧ (∀ l, u.getByte l = s.getByte l) ∧ Reaching s u 1 0 [] [] [] 0 ∧ u.cw.code = []) ∧
    (outstanding s s.cur 0x10 → s.cw.halt = .none → ∃ u, exec .ifence s = .next u ∧ waitsAtFence s u 0x10) ∧
    (w < s.welts.length → (s.weltAt w).wait = .fence pm →
      (¬outstanding s w pm → exec (.fenceComplete w) s = .next (s.setWeltAt w { s.weltAt w with wait := .none })) ∧
      (outstanding s w pm → exec (.fenceComplete w) s = .next (s.post (.fenceComplete w))))


/-! ### Copies and circular buffers -/

namespace Sys2Proof.Claims

/-- The byte that a location holds, whether or not a copy that is under way leaves it undefined (R291). -/
abbrev held (s : State) (l : Loc) : Byte := s.rawByte l

/-- The copy `c` is captured: it stands last among the copies, with the device ranges bound to what it writes (R234), `ev`
is due, and no memory has changed (R290). -/
def captured (s u : State) (c : Copy) (ev : Nat → Instr) : Prop :=
  u.copies = s.copies ++ [c.noteBound s] ∧ ev s.copies.length ∈ u.agenda ∧ (∀ l, held u l = held s l) ∧
    Reaching s u 2 0 [] [] [] 0

end Sys2Proof.Claims

/-- R289, R290, R293, R294, R297: CPY, CPY.MC and CPY.COLL capture what they need and hand it to the copy engine; a copy
with B = 1 waits for its slot. That the engine always has room, where R289 has the welt wait for it, which engine takes the
copy, and that a slot must also hold the converted bytes, is the model's choice (log 27). -/
def Obligations.CopiesAreCaptured : Prop :=
  ∀ (s : State) (a b c : WReg) (ta tb tc : Bool) (src dst : BitVec 2) (srole drole salt : BitVec 8) (set conv : BitVec 4)
    (rm : BitVec 3) (e f : CopyEnd) (id : Nat), issuing s →
    let x := s.cw.rdW a.toNat
    let y := s.cw.rdW b.toNat
    let z := s.cw.rdW c.toNat
    let len := field z 0 30
    let dl := len / (convSize conv.toNat).1 * (convSize conv.toNat).2
    len ≠ 0 → s.issues s.cw.A (copyDeps a b c ta tb tc) 0 = true →
    (z.getLsbD 30 = false → s.copyPhaser z = some (some id) → s.copyEnd src.toNat x srole.toNat len = some e →
      s.copyEnd dst.toNat y drole.toNat dl = some f → convOk conv.toNat len x y.toNat = true →
      ∃ u, exec (.cpy a b ta tb c tc src dst srole drole conv) s = .next u ∧
        captured s u (s.newCopy e [f] len conv.toNat 1 (some id) none none) .copyLineLand) ∧
    (z.getLsbD 30 = true → s.copyPhaser z = some none → s.copyEnd src.toNat x srole.toNat len = some e →
      dst = 1 → drole = 0 → y.toNat < 16 →
      (∃ q, s.cg.buf y.toNat = some q ∧ q.freeing = false ∧ len ≤ q.size ∧ dl ≤ q.size) →
      convOk conv.toNat len x 0 = true →
      ∃ u, exec (.cpy a b ta tb c tc src dst srole drole conv) s = .next u ∧
        captured s u (s.newCopy e [] len conv.toNat 1 none (some y.toNat) none) .cbSlotClaim) ∧
    (z.getLsbD 30 = false → s.copyPhaser z = some (some id) → s.copyEnd src.toNat x 0 len = some e →
      convOk conv.toNat len x y.toNat = true → set ≠ 0 →
      let roles := ((List.range 4).filter fun j => set.getLsbD j).map fun j => srole.toNat + j
      (∀ r ∈ roles, ∃ g, s.roleWg s.cw.wg r = some g ∧
        if dst = 1 then (s.wgAt g).hasRange y.toNat dl = true else y.toNat + dl ≤ 1024 * s.cl.lastKiB) →
      ∃ u, exec (.cpyMc a b ta tb c tc src dst srole set conv) s = .next u ∧
        captured s u (s.newCopy e (roles.map fun r =>
            ⟨if dst = 1 then 1 else 3, (s.roleWg s.cw.wg r).getD 0, y.toNat⟩) len conv.toNat 1 (some id) none none)
          .copyLineLand) ∧
    (s.issues s.cw.A ((copyDeps a b c ta tb tc).wsrc tc (c.toNat + 1)) 0 = true → z.getLsbD 30 = false →
      s.copyPhaser z = some (some id) → s.copyEnd src.toNat x 0 len = some e →
      let v := s.cw.rdW (c.toNat + 1)
      let d : W32 := v.extractLsb' 32 32
      let bl := blockLen (narrowOf d) (field v 30 2)
      field v 21 9 = 0 → narrowOk d = true → len % (4 * bl) = 0 → field v 0 21 % 4 = 0 →
      s.cg.hasRange (field v 0 21) len = true →
      (∃ r q, s.rangeAt s.cl.ctx s.cg.launch 0 y.toNat = some r ∧ s.ranges[r]? = some q ∧ y.toNat + len ≤ q.base + q.len) →
      ∃ u, exec (.cpyColl a b ta tb c tc src salt rm) s = .next u ∧
        captured s u (s.newCopy e [⟨0, s.cw.wg, y.toNat⟩] len 0 2 (some id) none
          (some ⟨d, bl, field v 0 21, rm, salt, s.cl.seed.getLastD 0⟩)) .copyLineLand)

/-- R251, R291, R297: the events of copies run in every state and change no vector, uniform or mask register. One line of a
copy lands whole, its bytes come off the phaser's counter, and the copy goes on to its next line or ends; a failed copy
records its cause with its phaser and its slot (R292, R330); the first waiting copy of a buffer claims the tail slot. That
the lines of a copy land in ascending order is the model's choice (log 27). -/
def Obligations.CopyLinesLand : Prop :=
  (∀ (s : State) (k : Nat) (cause : Cause) (kind : Nat),
    ∀ ev ∈ ([.copyLineLand k, .copyFail k cause kind, .cbSlotClaim k] : List Instr), ∃ u, exec ev s = .next u ∧
      ∀ i, (u.weltAt i).lanes = (s.weltAt i).lanes ∧ (u.weltAt i).w = (s.weltAt i).w ∧
        (u.weltAt i).m = (s.weltAt i).m) ∧
  ∀ (s : State) (k : Nat) (c : Copy), s.copies[k]? = some c → c.done = false →
    (∀ (e : CopyEnd) (src dst : Nat → Loc), memoriesWf s → noPartials s → c.coll = none → c.conv = 0 →
      c.chunks ≤ c.paid → c.dsts = [e] → c.target = 0 → c.line < c.len → c.cb = none →
      let n := min (c.len - c.line) (128 - (e.addr + c.line) % 128)
      (∀ i < n, s.endLoc c .load c.src (c.line + i) = .ok (src i) ∧ s.badLoc (src i) = false ∧
        s.endLoc c .store e (c.line + i) = .ok (dst i) ∧ ¬inRegion (dst i) ∧ s.overlaps c e (c.line + i) = false ∧
        s.residual (dst i) = false ∧
        (∀ g off, dst i = .stash g off ∨ dst i = .opbuf g off → g < s.wgs.length)) →
      (∀ i < n, ∀ j < n, cellOf (dst i) = cellOf (dst j) → i = j) →
      (∀ id i q, c.ph = some id → s.phaserIdx c.ctx id = some i → s.phasers[i]? = some q → q.scope = 6 →
        q.pending ≠ BitVec.ofNat 48 n) →
      ∃ u, exec (.copyLineLand k) s = .next u ∧ (∀ i < n, held u (dst i) = s.seenByte ⟨c.w, 0⟩ (src i)) ∧
        (∀ l, (∀ i < n, cellOf (dst i) ≠ cellOf l) → held u l = held s l) ∧
        (∀ i, (u.weltAt i).lanes = (s.weltAt i).lanes ∧ (u.weltAt i).w = (s.weltAt i).w) ∧
        (u.copies[k]?.map (·.line) = some (if c.line + n < c.len then c.line + n else c.line)) ∧
        (u.copies[k]?.map (·.done) = some (decide (¬c.line + n < c.len))) ∧
        (c.line + n < c.len → .copyLineLand k ∈ u.agenda) ∧
        ∀ id i q, c.ph = some id → s.phaserIdx c.ctx id = some i → s.phasers[i]? = some q →
          u.phasers[i]?.map (·.pending) = some (q.pending - BitVec.ofNat 48 n)) ∧
    (∀ (cause : Cause) (kind : Nat), ∃ u, exec (.copyFail k cause kind) s = .next u ∧
      u.copies[k]? = some { c with done := true } ∧
      (∀ b j q, c.cb = some b → c.slot = some j → (s.wgAt c.wg).buf b = some q → c.wg < s.wgs.length → b < 16 →
        ∃ q', (u.wgAt c.wg).buf b = some q' ∧ (j, cause) ∈ q'.failed) ∧
      ∀ id i q, c.ph = some id → s.phaserIdx c.ctx id = some i → s.phasers[i]? = some q →
        u.phasers[i]?.map (·.pending) = some (q.pending - BitVec.ofNat 48 (c.total - c.landed)) ∧
        u.phasers[i]?.map (·.fail) = some (some (match q.fail with
          | some f => if f.2 = q.phase then f else (cause, q.phase)
          | none => (cause, q.phase)))) ∧
    (∀ (b : Nat) (q : CircBuf), c.cb = some b → (s.wgAt c.wg).buf b = some q → c.wg < s.wgs.length → b < 16 →
      s.firstClaim c.wg b = some k → 1 ≤ q.free →
      ∃ u, exec (.cbSlotClaim k) s = .next u ∧
        u.copies[k]? = some (({ c with slot := some q.tail, dsts := [⟨1, c.wg, q.base + q.tail * q.size⟩] } : Copy).noteBound s) ∧
        (u.wgAt c.wg).buf b = some { q with
          free := q.free - 1, claimed := q.claimed + 1, tail := (q.tail + 1) % q.slots } ∧
        .copyLineLand k ∈ u.agenda ∧ ∀ l, held u l = held s l)

/-- R295, R296, R298: CBINIT makes a buffer with every slot free, CBWAIT gives the head slot's offset once enough slots are
filled and waits until then, CBPOP frees slots from the head, CBFREE ends a buffer that no copy claims. -/
def Obligations.CircularBuffers : Prop :=
  ∀ (s : State) (a b d : WReg) (ta tb : Bool) (n : BitVec 12), issuing s → s.cw.wg < s.wgs.length →
    let x := s.cw.rdW a.toNat
    let m := n.toNat + 1
    (∀ k base slots, s.issues s.cw.A ((({} : Deps).wsrc ta a.toNat).wsrc tb b.toNat) 0 = true →
      let size := (s.cw.rdW b.toNat).toNat
      k < 16 → 0 < slots → slots ≤ 4096 → base < 2 ^ 21 → base % 128 = 0 → size % 128 = 0 → 0 < size → size ≤ 0x100000 →
      x = BitVec.ofNat 64 (k * 2 ^ 48 + (slots - 1) * 2 ^ 32 + base) → s.cg.buf k = none →
      s.cg.hasRange base (slots * size) = true →
      ∃ u, exec (.cbinit a b ta tb) s = .next u ∧ Reaching s u 2 0 [] [] [] 0 ∧ (∀ l, u.getByte l = s.getByte l) ∧
        u.cg.buf k = some ⟨base, size, slots, slots, 0, 0, 0, 0, [], [], false⟩ ∧
        ∀ j, j ≠ k → u.cg.buf j = s.cg.buf j) ∧
    ∀ q, x.toNat < 16 → s.cg.buf x.toNat = some q →
      (s.issues s.cw.A ((({} : Deps).wsrc ta a.toNat).wdst d.toNat) 0 = true →
        (m ≤ q.slots → m ≤ q.filled → q.failed = [] →
          ∃ u, exec (.cbwait d a ta n) s = .next u ∧ Reaching s u 2 0 [] [d.toNat] [] 0 ∧
            (d ≠ 0 → u.cw.rdW d.toNat = BitVec.ofNat 64 (q.base + q.head * q.size)) ∧ ∀ l, held u l = held s l) ∧
        (m ≤ q.slots → q.filled < m → s.cw.halt = .none →
          exec (.cbwait d a ta n) s = .next (s.atSwitchPoint.setCw
            { s.cw with wait := .buffer x.toNat m, readyAt := none }))) ∧
      (s.issues s.cw.A (({} : Deps).wsrc ta a.toNat) 0 = true →
        (m ≤ q.filled → (∀ f ∈ s.cw.flights, ∀ l ∈ f.kind.locs, s.inStash l = false) →
          ∃ u, exec (.cbpop a ta n) s = .next u ∧ Reaching s u 2 0 [] [] [] 0 ∧
            (∃ q', u.cg.buf x.toNat = some q' ∧ q'.filled = q.filled - m ∧ q'.free = q.free + m ∧
              q'.head = (q.head + m) % q.slots ∧ q'.base = q.base ∧ q'.size = q.size ∧ q'.claimed = q.claimed) ∧
            ∀ l, u.getByte l = s.getByte l) ∧
        (q.claimed = 0 → s.firstClaim s.cw.wg x.toNat = none →
          ∃ u, exec (.cbfree a ta) s = .next u ∧ Reaching s u 2 0 [] [] [] 0 ∧ u.cg.buf x.toNat = none ∧
            ∀ l, u.getByte l = s.getByte l) ∧
        (q.filled < m → exec (.cbpop a ta n) s = .next s.illegal))

/-! ### The matrix unit -/

namespace Sys2Proof.Claims

/-- Every non-exited lane is in A, so no matrix instruction is MASK-PARTIAL (R174). -/
def converged (s : State) : Prop := s.cw.living &&& ~~~s.cw.A = 0

/-- `op` has entered stream `k`, whose accumulator type at its end is now `acc`; no byte, accumulator or other stream has
changed, and the head of the stream is due (R175). -/
structure Entered (s u : State) (len : Nat) (e : Lanes) (rs : List Nat) (k : BitVec 3) (op : StreamOp) (acc : Ty) :
    Prop where
  reaching : Reaching s u len e rs [] [] 0
  bytes : ∀ l, u.getByte l = s.getByte l
  wgs : u.wgs = s.wgs
  queue : (u.cw.strm k).queue = (s.cw.strm k).queue ++ [op]
  acc : (u.cw.strm k).accEnd = acc
  others : ∀ j, j ≠ k → u.cw.strm j = s.cw.strm j
  due : (s.cw.strm k).queue = [] → (match op with
    | .step .. => Instr.matrixStep s.cur k
    | _ => .streamInstructionEffect s.cur k) ∈ u.agenda

/-- The head of stream `k` of welt `w` may take effect: the welt lives, its workgroup is on its core, the price is paid,
and no other stream of the workgroup has work outstanding (R175, R180, R194). -/
def headRuns (s : State) (w : Nat) (k : BitVec 3) (op : StreamOp) (rest : List StreamOp) : Prop :=
  w < s.welts.length ∧ (s.weltAt w).wg < s.wgs.length ∧ (s.weltAt w).ended = false ∧
    ((s.weltAt w).strm k).queue = op :: rest ∧ (s.wgAt (s.weltAt w).wg).st = .resident ∧
    s.headPrice w k ≤ ((s.weltAt w).strm k).paid ∧ s.rivals w k = []

/-- The bytes of the accumulator share of a workgroup outside tile `t` of a type are as they were. -/
def otherTilesKept (g h : Wg) (t : Nat) (acc : Ty) : Prop :=
  ∀ b, (b < 4096 * t ∨ 4096 * t + 1024 * accSize acc ≤ b) → cellRead h.acc b = cellRead g.acc b

/-- The head of stream `k` is done: what is left is `rest`, and its first instruction is due. -/
def headDone (u : State) (w : Nat) (k : BitVec 3) (rest : List StreamOp) : Prop :=
  ((u.weltAt w).strm k).queue = rest ∧ ∀ op t, rest = op :: t → op.event w k ∈ u.agenda

end Sys2Proof.Claims

/-- R170, R171, R173, R174, R189: MRES fills its handle with the record that two uniform registers hold, or is ILLEGAL;
MREL frees a handle, or is ILLEGAL; a non-exited lane outside A makes either MASK-PARTIAL. -/
def Sys2Proof.Claims.reservationHandles : Prop :=
  ∀ (s : State) (h : BitVec 4) (wr : BitVec 6) (tc : Bool) (ty : Ty), issuing s →
    let lo := s.cw.rdW wr.toNat
    let hi := s.cw.rdW (wr.toNat + 1)
    let kept (u : State) := u.setCw { u.cw with handles := s.cw.handles }
    (s.issues s.cw.A ((({} : Deps).wsrc tc wr.toNat).wsrc tc (wr.toNat + 1)) 0 = true →
      (converged s → s.resOk ty lo hi = true →
        ∃ u, exec (.mres h wr tc ty) s = .next u ∧ Confined s (kept u) 2 0 [] [] [] 0 ∧
          (∃ r, u.cw.handle h = some r ∧ r.ty = ty ∧ r.desc.toNat = lo.toNat / 2 ^ 32 ∧
            r.base = lo.toNat / 2 ^ 21 % 2 ^ 11 ∧ r.len = lo.toNat / 2 ^ 10 % 2 ^ 11 ∧ r.rows = lo.toNat / 2 ^ 5 % 2 ^ 5 ∧
            r.blk = lo.toNat / 2 ^ 3 % 4 ∧ r.remote = lo.getLsbD 2 ∧ r.unscaled = lo.getLsbD 1 ∧
            r.role = hi.toNat / 2 ^ 32 % 2 ^ 8 ∧ r.scaleoff = hi.toNat % 2 ^ 17) ∧
          ∀ j, j ≠ h → u.cw.handle j = s.cw.handle j) ∧
      (converged s → s.resOk ty lo hi = false → exec (.mres h wr tc ty) s = .next s.illegal) ∧
      (¬converged s →
        exec (.mres h wr tc ty) s = .next (s.trapAt .maskPartial (s.cw.living &&& ~~~s.cw.A)))) ∧
    (s.issues s.cw.A {} 0 = true → converged s →
      (s.cw.handle h ≠ none → ∃ u, exec (.mrel h) s = .next u ∧ Confined s (kept u) 1 0 [] [] [] 0 ∧
        u.cw.handle h = none ∧ ∀ j, j ≠ h → u.cw.handle j = s.cw.handle j) ∧
      (s.cw.handle h = none → exec (.mrel h) s = .next s.illegal))

/-- R175, R178, R190, R191, R192: MFMT, MZERO, MSTEP, MLOOP, MRD, MWR, MSKV and MSAMP enter their stream with what
they need; MRD empties its registers, MWR reads its values. A capacity of exactly 16 entries is the model's choice
(log 22). -/
def Obligations.StreamsCapture : Prop :=
  ∀ (s : State) (k : BitVec 3) (ty : Ty) (t wr : BitVec 6) (ha hb dep sk : BitVec 4) (tc act : Bool) (cnt : BitVec 12)
    (d : VReg) (row : BitVec 5) (rc : BitVec 3), issuing s → converged s → (s.cw.strm k).queue.length < 16 →
    let acc := (s.cw.strm k).accEnd
    let n := rc.toNat + 1
    let regs := rowRegs acc d n
    let x := s.cw.rdW wr.toNat
    let dt : Int := (if acc = .f64 then 2 else 1) * (x.extractLsb' 12 6).toInt
    let step (a b : Res) (a0 b0 : Nat) (da db dt : Int) (count : Nat) : StreamOp :=
      .step t.toNat a b a0 b0 da db dt 0 count s.cw.fpctl s.cw.level s.cw.openSpans
    let fits (a b : Res) (a0 b0 : Nat) (da db dt : Int) (count : Nat) : Prop := pairOk a b acc = true ∧ ∀ j < count,
      a.hasPanel (a0 + j * da) = true ∧ b.hasPanel (b0 + j * db) = true ∧
        tileOk s.cl.accKiB acc (t.toNat + j * dt) = true
    (s.issues s.cw.A {} 0 = true →
      (∃ u, exec (.mfmt k ty) s = .next u ∧ Entered s u 2 0 [] k (.mfmt ty) ty) ∧
      (∃ u, exec (.msamp k cnt) s = .next u ∧ Entered s u 2 0 [] k (.msamp (cnt.toNat + 1)) acc) ∧
      (tileOk s.cl.accKiB acc t.toNat = true →
        ∃ u, exec (.mzero k t) s = .next u ∧ Entered s u 1 0 [] k (.mzero t.toNat) acc) ∧
      ∀ a b, s.cw.handle ha = some a → s.cw.handle hb = some b → fits a b 0 0 0 0 0 1 →
        ∃ u, exec (.mstep k ha hb t) s = .next u ∧ Entered s u 1 0 [] k (step a b 0 0 0 0 0 1) acc) ∧
    (s.issues s.cw.A (({} : Deps).wsrc tc wr.toNat) 0 = true →
      (∀ a b, s.cw.handle ha = some a → s.cw.handle hb = some b → field x 56 8 = 0 → field x 0 12 = 0 →
        let da := (x.extractLsb' 26 8).toInt
        let db := (x.extractLsb' 18 8).toInt
        fits a b (field x 45 11) (field x 34 11) da db dt (cnt.toNat + 1) →
        ∃ u, exec (.mloop k ha hb t wr tc cnt) s = .next u ∧
          Entered s u 2 0 [] k (step a b (field x 45 11) (field x 34 11) da db dt (cnt.toNat + 1)) acc) ∧
      (field x 32 32 = 0 → (x.toNat < 0x7F800000 ∨ x = 0x80000000#64) →
        ∃ u, exec (.mskv k wr tc dep sk act) s = .next u ∧
          Entered s u 2 0 [] k (.mskv dep.toNat sk.toNat act (x.setWidth 32)) acc)) ∧
    (rowsOk s.cl.accKiB acc t.toNat d row.toNat n = true → (acc = .f64 → d.toNat % 2 = 0) →
      (s.issues s.cw.A (({} : Deps).dst regs) 0 = true →
        ∃ u, exec (.mrd k t d row rc) s = .next u ∧ Entered s u 2 s.cw.living regs k
          (.mrd t.toNat d.toNat row.toNat n s.cw.living) acc ∧
          ∀ l < 32, s.cw.living.getLsbD l → ∀ r ∈ regs, (u.cw.lane l).full.getLsbD r = false) ∧
      (s.issues s.cw.A (({} : Deps).src tc regs) 0 = true →
        ∃ u vals, exec (.mwr k t d tc row rc) s = .next u ∧
          Entered s u 2 0 [] k (.mwr t.toNat row.toNat n vals) acc ∧
          (∀ l v, (l, v) ∈ vals ↔ l < 32 ∧ s.cw.living.getLsbD l ∧ v = (List.range n).map fun j =>
            if acc = .f64 then (s.cw.lane l).rdTy .b64 (d.toNat + 2 * j) else (s.cw.lane l).rdTy .b32 (d.toNat + j))))

/-- R175, R185, R190, R191, R192: in stream order MZERO makes a tile zero, MRD fills registers from tile rows, MWR
writes them, MFMT, MSKV and MSAMP set the stream's state; a head whose price (R195) is not paid stays due. What MSAMP
makes of a count that still runs is the model's reading (log 24), and so is that MRD, MWR and MZERO ask for their tokens at
the head of their stream (log 22). -/
def Obligations.StreamOrderEffects : Prop :=
  ∀ (s : State) (w : Nat) (k : BitVec 3) (op : StreamOp) (rest : List StreamOp), memoriesWf s →
    let x := s.weltAt w
    let g := s.wgAt x.wg
    let st := x.strm k
    let unchanged (u : State) : Prop := (∀ l, u.getByte l = s.getByte l) ∧ u.wgs = s.wgs ∧
      (∀ i, sameRegisters (s.weltAt i) (u.weltAt i)) ∧ ∀ j, j ≠ k → (u.weltAt w).strm j = x.strm j
    (headRuns s w k op rest →
      (∀ t, op = .mzero t → ∃ u, exec (.streamInstructionEffect w k) s = .next u ∧ headDone u w k rest ∧
        (∀ e < 1024, (u.wgAt x.wg).cell t st.acc e = 0) ∧ otherTilesKept g (u.wgAt x.wg) t st.acc ∧
        (∀ l, u.getByte l = s.getByte l) ∧ ∀ i, sameRegisters (s.weltAt i) (u.weltAt i)) ∧
      (∀ t d row count (lanes : Lanes), op = .mrd t d row count lanes → row + count ≤ 32 →
        d + (if st.acc = .f64 then 2 * count else count) ≤ 128 →
        ∃ u, exec (.streamInstructionEffect w k) s = .next u ∧ headDone u w k rest ∧ u.wgs = s.wgs ∧
          (∀ l < 32, lanes.getLsbD l → ∀ i < count, if st.acc = .f64
            then ((u.weltAt w).lane l).rdTy .b64 (d + 2 * i) = g.cell t st.acc (32 * (row + i) + l)
            else ((u.weltAt w).lane l).rd (d + i) = (g.cell t st.acc (32 * (row + i) + l)).setWidth 32) ∧
          (∀ l < 32, ∀ r < 128, lanes.getLsbD l → d ≤ r → r < d + (if st.acc = .f64 then 2 * count else count) →
            ((u.weltAt w).lane l).full.getLsbD r = true) ∧
          (∀ l < 32, ∀ r < 128, (lanes.getLsbD l → r < d ∨ d + (if st.acc = .f64 then 2 * count else count) ≤ r) →
            ((u.weltAt w).lane l).rd r = (x.lane l).rd r) ∧ (∀ l, u.getByte l = s.getByte l) ∧
          sameRegisters { x with lanes := (u.weltAt w).lanes } (u.weltAt w) ∧
          ∀ i, i ≠ w → sameRegisters (s.weltAt i) (u.weltAt i)) ∧
      (∀ t row count (vals : List (Nat × List W64)), op = .mwr t row count vals → row + count ≤ 32 →
        (∀ v ∈ vals, v.1 < 32) → vals.Pairwise (fun a b => a.1 ≠ b.1) →
        ∃ u, exec (.streamInstructionEffect w k) s = .next u ∧ headDone u w k rest ∧
          (∀ v ∈ vals, ∀ i < count, ((u.wgAt x.wg).cell t st.acc (32 * (row + i) + v.1)).toNat
            = (v.2.getD i 0).toNat % 2 ^ (8 * accSize st.acc)) ∧
          (∀ e < 1024, (∀ v ∈ vals, e % 32 = v.1 → e / 32 < row ∨ row + count ≤ e / 32) →
            (u.wgAt x.wg).cell t st.acc e = g.cell t st.acc e) ∧ otherTilesKept g (u.wgAt x.wg) t st.acc ∧
          (∀ l, u.getByte l = s.getByte l) ∧ ∀ i, sameRegisters (s.weltAt i) (u.weltAt i)) ∧
      (∀ ty, op = .mfmt ty → ∃ u, exec (.streamInstructionEffect w k) s = .next u ∧ headDone u w k rest ∧ unchanged u ∧
        ((u.weltAt w).strm k).acc = ty) ∧
      (∀ dep e act thr, op = .mskv dep e act thr →
        ∃ u, exec (.streamInstructionEffect w k) s = .next u ∧ headDone u w k rest ∧ unchanged u ∧
          ((u.weltAt w).strm k).dep = dep ∧ ((u.weltAt w).strm k).k = e ∧ ((u.weltAt w).strm k).act = act ∧
          ((u.weltAt w).strm k).thr = (if thr = 0x80000000#32 then 0 else thr) ∧ ((u.weltAt w).strm k).n = 0) ∧
      ∀ n, op = .msamp n → ∃ u, exec (.streamInstructionEffect w k) s = .next u ∧ headDone u w k rest ∧ unchanged u ∧
        ((u.weltAt w).strm k).samp = max st.samp n) ∧
    (w < s.welts.length → x.ended = false → st.queue = op :: rest → g.st = .resident →
      st.paid < s.headPrice w k → ∃ u, exec (op.event w k) s = .next u ∧ unchanged u ∧
        ((u.weltAt w).strm k).queue = st.queue ∧ op.event w k ∈ u.agenda)

namespace Sys2Proof.Claims

/-- An operand element of a step: its sign, magnitude, significand, the exponent of its unit (R184) and its block scale. -/
structure Operand where
  neg : Bool
  mag : Rat
  sig : Nat
  unit : Int
  scale : Rat

/-- Element `j` of row `i` of panel `p` of a reservation whose bytes `f` gives: its slot bits lie at bit `j` times the slot,
its scale is number `blocks * i + q` of the scale panel, 20 bits each, where `q` is its block; rows past the reservation's
are +0 under scale 1 (R118, R120, R168, R169). None for a NaN or infinite element and for the NaN scale. -/
def operand (h : Res) (p : Nat) (f : Nat → Byte) (i j : Nat) : Option Operand :=
  if h.rows < i then some ⟨false, 0, 0, 0, 1⟩ else
  let code := leValue ((List.range 48).map fun b => f (1536 * p + 48 * i + b)) / 2 ^ (h.slot * j) % 2 ^ h.slot
  let scales := leValue ((List.range (80 * h.blocks)).map fun b => f (16 * h.scaleoff + 80 * h.blocks * p + b))
  let e := elemOf h code none
  match e.val, (if h.isScaled then s20 (scales / 2 ^ (20 * (h.blocks * i + j / (h.perRow / h.blocks))) % 2 ^ 20)
    else some 1) with
  | .fin n v, some k => some ⟨n, v, e.g, e.q, k⟩
  | _, _ => none

/-- A product of two significands without its partial products of weight below `d` (R184). -/
def skived (d a b : Nat) : Nat :=
  ((List.range 64).map fun i => ((List.range 64).map fun j =>
    if a.testBit i ∧ b.testBit j ∧ d ≤ i + j then 2 ^ (i + j) else 0).sum).sum

/-- The exact product of two operands at depth `d`, with its sign (R177, R184). -/
def termOf (d : Nat) (a b : Operand) : Rat :=
  let m := if d = 0 then a.mag * a.scale * (b.mag * b.scale)
    else skived d a.sig b.sig * pow2 (a.unit + b.unit) * a.scale * b.scale
  if a.neg = b.neg then m else -m

/-- Whether a product is −0. -/
def minusZero (d : Nat) (a b : Operand) : Bool := a.neg != b.neg && termOf d a b == 0

/-- What stream work of welt `w` at a level reads at byte `off` of a reservation: `b`, which it can have, from its own
operand buffer or, where the reservation is remote, from the workgroup that holds the role (R172). -/
def operandReads (s : State) (w level : Nat) (h : Res) (off : Nat) (b : Byte) : Prop :=
  ∃ g l, s.resHome (s.weltAt w).wg h = some g ∧ s.badLoc l = false ∧ s.seenByte ⟨w, 0⟩ l = b ∧
    if h.remote then s.stashLoc g level (1024 * h.base + off) .load = .ok l ∧ ¬inRegion l
    else l = .opbuf g (1024 * h.base + off)

/-- `f` gives the bytes of the rows of panel `p` and of their scales. -/
def panelReads (s : State) (w level : Nat) (h : Res) (p : Nat) (f : Nat → Byte) : Prop :=
  (∀ i ≤ h.rows, ∀ b < 48, operandReads s w level h (1536 * p + 48 * i + b) (f (1536 * p + 48 * i + b))) ∧
  (h.isScaled = true → ∀ b, 8 * b < 20 * h.blocks * (h.rows + 1) →
    let off := 16 * h.scaleoff + 80 * h.blocks * p + b
    operandReads s w level h off (f off))

end Sys2Proof.Claims

/-- R168, R169, R177, R178, R184: a step adds to each element of its tile the sum of the products of a row of its A panel and
a row of its B panel, of any type, local or remote, under their block scales and at the stream's depth: wrapped to 32 bits
for integers, and for finite floats rounded once into the accumulator type (R122), with the conditions of those roundings.
A sampled step (R186) and elements that are NaN or infinite are not in it. -/
def Obligations.MatrixStepAddsProducts : Prop :=
  ∀ (s : State) (w : Nat) (k : BitVec 3) (t : Nat) (ha hb : Res) (a0 b0 : Nat) (da db dt : Int) (j count : Nat)
    (f : W32) (level : Nat) (rest : List StreamOp) (fa fb : Nat → Byte) (ea eb : Nat → Nat → Operand), memoriesWf s →
    let x := s.weltAt w
    let g := s.wgAt x.wg
    let st := x.strm k
    let tile := ((t : Int) + j * dt).toNat
    let pa := ((a0 : Int) + j * da).toNat
    let pb := ((b0 : Int) + j * db).toNat
    headRuns s w k (.step t ha hb a0 b0 da db dt j count f level []) rest → (st.dep = 0 ∨ s.sampled w k = false) →
    pairOk ha hb st.acc = true → ha.ty.isPanel = true → hb.ty.isPanel = true →
    (ha.remote = true ∨ hb.remote = true → noPartials s) →
    panelReads s w level ha pa fa → panelReads s w level hb pb fb →
    (∀ i < 32, ∀ q < ha.perRow, operand ha pa fa i q = some (ea i q) ∧ operand hb pb fb i q = some (eb i q)) →
    let done (u : State) : Prop := headDone u w k (if j + 1 < count then
        .step t ha hb a0 b0 da db dt (j + 1) count f level [] :: rest else rest) ∧
      otherTilesKept g (u.wgAt x.wg) tile st.acc ∧ (∀ l, u.getByte l = s.getByte l) ∧
      (∀ i, i ≠ w → sameRegisters (s.weltAt i) (u.weltAt i)) ∧
      sameRegisters { x with fpctl := (u.weltAt w).fpctl } (u.weltAt w)
    let row (e : Nat) : List Rat := (List.range ha.perRow).map fun q => termOf st.dep (ea (e / 32) q) (eb (e % 32) q)
    (st.acc = .s32 →
      ∃ u, exec (.matrixStep w k) s = .next u ∧ done u ∧ (u.weltAt w).fpctl = x.fpctl ∧
        ∀ e < 1024, (u.wgAt x.wg).cell tile .s32 e =
          BitVec.setWidth 64 (BitVec.ofInt 32 (num .s32 (g.cell tile .s32 e) + (row e).sum.floor))) ∧
    (st.acc = .f32 ∨ st.acc = .f64 → (∀ e < 1024, ∃ b v, decodeF st.acc (g.cell tile st.acc e) = .fin b v) →
      let rounded (e : Nat) := finish st.acc false .rne (.real ((decodeF st.acc (g.cell tile st.acc e)).toRat + (row e).sum)
        (decodeF st.acc (g.cell tile st.acc e) == .fin true 0 &&
          (List.range ha.perRow).all fun q => minusZero st.dep (ea (e / 32) q) (eb (e % 32) q)))
      ∃ u, exec (.matrixStep w k) s = .next u ∧ done u ∧
        (∀ e < 1024, (u.wgAt x.wg).cell tile st.acc e = encodeF st.acc (rounded e).1) ∧
          (u.weltAt w).fpctl = x.fpctl ||| ((List.range 1024).foldl (fun f e => f ||| (rounded e).2) 0).setWidth 32)

/-- R179, R183, R193: MWAIT waits until the streams of its mask have drained, delivers one pending trap, FP-NAN first, then
SKIVE-DRIFT and MEMORY-ERROR, or lets the instruction pass; a trap that is not delivered stays pending. Of several streams
with the same trap pending the lowest comes first, and MEMORY-ERROR last, which is the model's choice (log 24). -/
def Sys2Proof.Claims.matrixWaits : Prop :=
  ∀ (s : State) (k : BitVec 3), issuing s → converged s → s.issues s.cw.A {} 0 = true →
    ∀ q ∈ ([(.mwait k, BitVec.twoPow 8 k.toNat), (.mwaitAll, BitVec.allOnes 8)] : List (Instr × BitVec 8)),
      ((∃ n < 8, q.2.getLsbD n ∧ (s.cw.stream n).queue ≠ []) →
        s.cw.halt = .none → exec q.1 s = .next (s.setCw { s.cw with wait := .stream q.2.toNat, readyAt := none })) ∧
      ((∀ n < 8, q.2.getLsbD n → (s.cw.stream n).queue = []) →
        ((∀ n < 8, q.2.getLsbD n → (s.cw.stream n).pendNan = false ∧ (s.cw.stream n).pendDrift = false ∧
          (s.cw.stream n).pendMem = false) →
          ∃ u, exec q.1 s = .next u ∧ Reaching s u 1 0 [] [] [] 0 ∧ (∀ l, u.getByte l = s.getByte l) ∧
            u.wgs = s.wgs ∧ ∀ n < 8, (u.cw.stream n).queue = (s.cw.stream n).queue) ∧
        ∀ n < 8, q.2.getLsbD n →
          let none_ (f : Stream → Bool) (N : Nat) : Prop := ∀ m < N, q.2.getLsbD m → f (s.cw.stream m) = false
          let delivers (st : Stream) (c : Cause) : Prop :=
            exec q.1 s = .next ((s.setCw (s.cw.setStream n st)).trapAt c s.cw.living)
          ((s.cw.stream n).pendNan = true → none_ (·.pendNan) n →
            delivers { s.cw.stream n with pendNan := false } .fpNan) ∧
          ((s.cw.stream n).pendDrift = true → none_ (·.pendNan) 8 → none_ (·.pendDrift) n →
            delivers { s.cw.stream n with pendDrift := false } .skiveDrift) ∧
          ((s.cw.stream n).pendMem = true → none_ (·.pendNan) 8 → none_ (·.pendDrift) 8 → none_ (·.pendMem) n →
            delivers { s.cw.stream n with pendMem := false } .memoryError))

/-! ### Fitted regions -/

namespace Sys2Proof.Claims

/-- Nothing of the issuing welt is outstanding, so a fence of all six kinds is complete at once (R248). -/
def quiet (s : State) : Prop := s.cw.flights = [] ∧ (∀ c ∈ s.copies, c.w = s.cur → c.done = true ∧ c.observed = true) ∧
  ∀ st ∈ s.cw.streams.toList, st.queue = []

/-- A result is on its way to `d`, which is empty until `ev` brings it (R53, R214, R326). -/
structure OnItsWay (s u : State) (d : WReg) (k : FlightKind) (ev : Nat → Nat → Instr) : Prop where
  reaching : Reaching s u 1 0 [] [d.toNat] [] 0
  bytes : ∀ l, u.getByte l = s.getByte l
  flight : u.cw.flights = s.cw.flights ++ [⟨s.cw.nextFlight, s.cw.order, k⟩]
  empty : d ≠ 0 → u.cw.fullW d.toNat = false
  due : ev s.cur s.cw.nextFlight ∈ u.agenda

/-- The result `v` of producer `n` of welt `w` is in `d`, which is full, and no other register has changed. -/
structure Landed (s u : State) (w n : Nat) (d : WReg) (v : W64) : Prop where
  value : d ≠ 0 → (u.weltAt w).rdW d.toNat = v
  full : (u.weltAt w).fullW d.toNat = true
  kept : ∀ r < 64, r ≠ d.toNat → sameUniform (u.weltAt w) (s.weltAt w) r
  flights : (u.weltAt w).flights = (s.weltAt w).flights.filter fun f => f.num != n
  registers : sameRegisters
    { s.weltAt w with w := (u.weltAt w).w, wfull := (u.weltAt w).wfull, wbad := (u.weltAt w).wbad } (u.weltAt w)
  others : ∀ i, i ≠ w → u.weltAt i = s.weltAt i

end Sys2Proof.Claims

/-- R196, R208, R214-R219: RGMAKE, RGDROP, RGFIT and RGSTAT ask the home, a misaligned address is ILLEGAL, and
REGION_STATUS_RETURN carries the request out and brings its status. The order in which RGFIT tries its statuses and a range
beyond 2^52 as RGMAKE's status 2 (log 29), and the width that the fill bits of an .nx descriptor keep (log 25), are the
model's readings. -/
def Obligations.RegionRequests : Prop :=
  (∀ (s : State) (d a b : WReg) (ta tb : Bool), issuing s →
    let x := s.cw.rdW a.toNat
    let y := s.cw.rdW b.toNat
    let asked (i : Instr) (q : RegionReq) : Prop :=
      ∃ u, exec i s = .next u ∧ OnItsWay s u d (.region d q) .regionStatusReturn
    (s.issues s.cw.A (((({} : Deps).wsrc ta a.toNat).wsrc tb b.toNat).wdst d.toNat) 0 = true →
      (quiet s → x.toNat % 64 = 0 → y.toNat % 65536 = 0 → x.toNat < 2 ^ 52 → y.toNat < 2 ^ 52 →
        asked (.rgmake d a b ta tb) (.make s.cw.level x.toNat y.toNat)) ∧
      (quiet s → x.toNat % 65536 = 0 → x.toNat < 2 ^ 52 → (b ≠ 0 → y.toNat % 64 = 0 ∧ y.toNat < 2 ^ 52) →
        asked (.rgfit d a b ta tb) (.fit s.cw.level x.toNat (if b = 0 then none else some y.toNat))) ∧
      (x.toNat % 64 ≠ 0 → exec (.rgmake d a b ta tb) s = .next s.illegal)) ∧
    (s.issues s.cw.A ((({} : Deps).wsrc ta a.toNat).wdst d.toNat) 0 = true →
      (x.toNat % 65536 = 0 → x.toNat < 2 ^ 52 →
        asked (.rgdrop d a ta) (.drop x.toNat) ∧ asked (.rgstat d a ta) (.stat x.toNat)) ∧
      (x.toNat % 65536 ≠ 0 → exec (.rgdrop d a ta) s = .next s.illegal ∧ exec (.rgstat d a ta) s = .next s.illegal))) ∧
  ∀ (s : State) (w n o level base : Nat) (d : WReg), w < s.welts.length →
    let ctx := (s.launchOf (s.wgAt (s.weltAt w).wg)).ctx
    let at_ (q : RegionReq) : Prop :=
      (s.weltAt w).flights.find? (fun f => f.num == n) = some ⟨n, o, .region d q⟩
    let brings (v : W64) (P : State → Prop) : Prop :=
      ∃ u, exec (.regionStatusReturn w n) s = .next u ∧ Landed s u w n d v ∧ P u
    (at_ (.stat base) → (s.regionBased ctx base = none → brings 0 fun u => u.regions = s.regions) ∧
      ∀ i r, s.regionBased ctx base = some i → s.regions[i]? = some r → r.exc.length < 2 ^ 25 → r.cap < 2 ^ 25 →
        ∃ v : W64, brings v (fun u => u.regions = s.regions) ∧ v.getLsbD 0 = true ∧ field v 1 4 = 0 ∧
          v.getLsbD 5 = r.refit.isSome ∧ field v 6 8 = min r.gen 255 ∧ field v 14 25 = r.cap ∧ field v 39 25 = r.exc.length) ∧
    (at_ (.drop base) → (s.regionBased ctx base = none → brings 3 fun u => u.regions = s.regions) ∧
      ∀ i r, s.regionBased ctx base = some i → s.regions[i]? = some r → r.refit = none →
        brings 0 fun u => u.regions[i]?.map (·.live) = some false ∧ ∀ j, j ≠ i → u.regions[j]? = s.regions[j]?) ∧
    (∀ desc f, at_ (.make level desc base) → (s.settleVA ctx level desc 1760).readVA ctx level desc 1760 = .error f →
      brings 4 fun u => u.regions = s.regions) ∧
    (∀ desc bs, at_ (.make level desc base) →
      let t := s.settleVA ctx level desc 1760
      t.readVA ctx level desc 1760 = .ok bs →
      let r := descRegion ctx base (t.homeQuarter level (descRegion ctx base 0 bs)) bs
      (descOk bs = false → brings 1 fun u => u.regions = s.regions) ∧
      (descOk bs = true → (s.regions.filter fun q => q.live && q.ctx == ctx).length < 1024 →
        (t.rangeUsable level (descRegion ctx base 0 bs) = false → brings 2 fun u => u.regions = s.regions) ∧
        (t.rangeUsable level (descRegion ctx base 0 bs) = true → field (wordAt bs 6) 0 52 = 0 →
          brings 0 fun u => u.regions = s.regions ++ [r] ∧ u.mem = t.mem)) ∧
      (descOk bs = true → 1024 ≤ (s.regions.filter fun q => q.live && q.ctx == ctx).length →
        brings 5 fun u => u.regions = s.regions)) ∧
    ∀ desc, at_ (.fit level base desc) → (s.regionBased ctx base = none → brings 3 fun u => u.regions = s.regions) ∧
      ∀ i r, s.regionBased ctx base = some i → s.regions[i]? = some r →
        (r.refit ≠ none → brings 2 fun u => u.regions = s.regions) ∧
        (r.refit = none → desc = none → ∃ u, exec (.regionStatusReturn w n) s = .next u ∧ .refitCommit i ∈ u.agenda ∧
          u.regions[i]? = some { r with refit := some ⟨w, n, none, r.exc, []⟩ } ∧
          sameRegisters (s.weltAt w) (u.weltAt w))

/-- R201, R204, R205, R207, R209, R212: a refit commits as the next generation if every index without an entry meets its
budget and is rejected otherwise; a stored byte of an image reads back as it was stored, and a store that finds no room
for its entries does nothing. -/
def Obligations.RegionsAtHome : Prop :=
  (∀ (s : State) (i : Nat) (r : Region) (f : Refit) (p : Net), s.regions[i]? = some r → r.refit = some f →
    f.net = some p → f.w < s.welts.length →
    let k := r.gen + 1
    let before (j : Nat) : W64 := match f.exc0.find? fun e => e.1 == j with
      | some e => e.2
      | none => netValue r r.net j
    let passes : Prop := ∀ j < r.size, (∃ e ∈ f.exc0, e.1 = j) ∨ meets r k (netValue r p j) (before j) = true
    ∃ u r', exec (.refitCommit i) s = .next u ∧ u.regions[i]? = some r' ∧ r'.refit = none ∧
      .regionStatusReturn f.w f.flight ∈ u.agenda ∧ (∀ j, j ≠ i → u.regions[j]? = s.regions[j]?) ∧
      (∀ j, sameRegisters (s.weltAt j) (u.weltAt j)) ∧ u.mem = s.mem ∧ u.host = s.host ∧ u.wgs = s.wgs ∧
      (passes → r'.net = p ∧ r'.gen = k ∧ r'.cached = [] ∧ ∀ e, e ∈ r'.exc ↔
        e ∈ r.exc ∧ (e.1 ∈ f.stored ∨ meets r k (netValue r p e.1) e.2 = false)) ∧
      (¬passes → r'.net = r.net ∧ r'.gen = r.gen ∧ r'.exc = r.exc)) ∧
  (∀ (r : Region) (k : Nat) (p c : W64) (ε : Rat), decodeF .f64 r.eps = .fin false ε →
    (meets r k p c = true ↔ p = c ∨ (k ≤ 24 ∧ ∃ m x n y, elemVal r.ty r.desc p = .fin m x ∧
      elemVal r.ty r.desc c = .fin n y ∧
      |(if m then -x else x) - (if n then -y else y)| * 2 ^ (k + 1) < ε))) ∧
  (∀ (s : State) (r line : Nat), ∃ u, exec (.regionLineEvaluation r line) s = .next u ∧
    (∀ l, u.getByte l = s.getByte l) ∧ { u with regions := s.regions } = s ∧
    ∀ x, s.regions[r]? = some x → x.live = true → 128 * line < x.bytes →
      ∃ y, u.regions[r]? = some y ∧ line ∈ y.cached) ∧
  ∀ (s : State) (r off : Nat) (bytes : List Byte) (x : Region), s.regions[r]? = some x →
    (x.slot = 8 ∨ x.slot = 16 ∨ x.slot = 32 ∨ x.slot = 64) →
    let room : Prop := x.live = true ∧ off + bytes.length ≤ x.bytes ∧
      x.exc.length + x.newEntries ((List.range bytes.length).map (off + ·)) ≤ x.cap
    (¬room → exec (.regionStore r off bytes) s = .next s) ∧
    (room → ∃ u, exec (.regionStore r off bytes) s = .next u ∧
      (∀ j, (h : j < bytes.length) → u.getByte (.region r (off + j)) = bytes[j]) ∧
      (∀ l, (∀ j < bytes.length, l ≠ .region r (off + j)) → u.getByte l = s.getByte l) ∧
      { u with regions := s.regions, cached := s.cached, l2 := s.l2, dir := s.dir } = s ∧ ∀ j, j ≠ r → u.regions[j]? = s.regions[j]?)

/-! ### Phasers and barriers -/

namespace Sys2Proof.Claims

/-- The result word of a phaser instruction (R331): the phase in bits 63:32, a failure's cause in bits 15:8, a status in
bits 7:0. -/
def phaserWord (phase : W32) (cause status : Nat) : W64 :=
  BitVec.ofNat 64 (2 ^ 32 * phase.toNat + 2 ^ 8 * cause + status)

/-- A phaser that has not come to its advance: a signalling member has not signalled, or bytes are pending (R328). -/
def waiting (p : Phaser) : Prop := p.pending ≠ 0 ∨ (∀ m ∈ p.members, m.2.1 ≠ 1 ∧ m.2.1 ≠ 3) ∨
  ∃ m ∈ p.members, (m.2.1 = 1 ∨ m.2.1 = 3) ∧ m.2.2.1 = false

/-- Whether a deterministic entry, or a partial, of launch `l` stands anywhere (R241, R242). -/
def buffers (s : State) (l : Nat) : Prop :=
  (∃ e ∈ s.pooled ++ (s.wgs.flatMap fun g => g.detBuf) ++ s.ctxs.flatMap fun c => c.detArea, e.launch = l) ∨
    ∃ q ∈ s.pooledPartials ++ s.wgs.flatMap fun g => g.partials, q.launch = l

/-- Nothing that a device-scope advance would flush is there (R242). -/
def calm (s : State) : Prop := noPartials s ∧ s.pooled = [] ∧ (∀ g ∈ s.wgs, g.detBuf = []) ∧ ∀ c ∈ s.ctxs, c.detArea = []

/-- All non-exited lanes arrive together (R325). -/
def together (s : State) : Prop := converged s ∧ s.cw.collHere = none ∧ s.cw.A ≠ 0

end Sys2Proof.Claims

/-- R326, R327, R331, R332: PHNEW makes a phaser at phase 0 under a number no phaser has, PHFREE ends one without members or
pending bytes, PHREG and PHDROP change its members, PHBYTES its pending bytes; a number that names none gives status 1. -/
def Obligations.PhaserRegistry : Prop :=
  (∀ (s : State) (d a b : WReg) (ta tb : Bool) (mode : BitVec 3), issuing s →
    let x := s.cw.rdW a.toNat
    let y := s.cw.rdW b.toNat
    let one := ((({} : Deps).wsrc ta a.toNat).wdst d.toNat)
    let gives (i : Instr) (v : W64) (P : State → Prop) : Prop :=
      ∃ u, exec i s = .next u ∧ OnItsWay s u d (.word d v) .phaserResultReturn ∧ P u
    let ops : List Instr := [.phfree d a ta, .phreg d a mode ta, .phdrop d a ta]
    (s.issues s.cw.A one 0 = true →
      (∀ scope ∈ [2, 4, 5, 6], ∀ m < 4, x = BitVec.ofNat 64 (8 * m + scope) → s.phasers.length < 2 ^ 32 - 1 →
        s.phasersFull s.cl.ctx (quarterOf s.cg.core) = false → s.registrations s.cur < 64 →
        ∃ p, gives (.phnew d a ta) (BitVec.ofNat 64 p.id) (fun u => u.phasers = s.phasers ++ [p]) ∧ p.id ≠ 0 ∧
          (∀ q ∈ s.phasers, q.id ≠ p.id) ∧ p.scope = scope ∧ p.phase = 0 ∧ p.pending = 0 ∧ p.ctx = s.cl.ctx ∧
          p.members = if m = 0 then [] else [(s.cur, m, false, 0)]) ∧
      (2 ^ 32 ≤ x.toNat → ∀ i ∈ ops, exec i s = .next s.illegal) ∧
      (x.toNat < 2 ^ 32 → s.phaserNamed x.toNat = none →
        ∀ i ∈ ops, gives i (phaserWord 0 0 1) fun u => u.phasers = s.phasers) ∧
      ∀ i p, x.toNat < 2 ^ 32 → s.phaserNamed x.toNat = some (i, p) →
        let sets (u : State) (q : Phaser) : Prop := ∃ ls, u.phasers = s.phasers.set i { q with launches := ls }
        (p.members = [] → p.pending = 0 → gives (.phfree d a ta) (phaserWord p.phase 0 0) fun u =>
          ∀ q, q ∈ u.phasers ↔ q ∈ s.phasers ∧ ¬(q.id = p.id ∧ q.ctx = p.ctx)) ∧
        (p.members ≠ [] → gives (.phfree d a ta) (phaserWord p.phase 0 5) fun u => u.phasers = s.phasers) ∧
        (p.member s.cur = none → s.inScope p = true → p.members.length < 2048 → s.registrations s.cur < 64 →
          let q := { p with members := p.members ++ [(s.cur, mode.toNat, false, p.phase)] }
          waiting q → gives (.phreg d a mode ta) (phaserWord p.phase 0 0) fun u => sets u q) ∧
        ((p.member s.cur).isSome = true →
          gives (.phreg d a mode ta) (phaserWord p.phase 0 4) fun u => u.phasers = s.phasers) ∧
        (p.member s.cur = none →
          gives (.phdrop d a ta) (phaserWord p.phase 0 3) fun u => u.phasers = s.phasers) ∧
        ((p.member s.cur).isSome = true →
          let q := { p with members := p.members.filter fun m => m.1 != s.cur }
          waiting q → gives (.phdrop d a ta) (phaserWord p.phase 0 0) fun u => sets u q)) ∧
    (s.issues s.cw.A ((((({} : Deps).wsrc ta a.toNat).wsrc tb b.toNat)).wdst d.toNat) 0 = true →
      (∀ i p, -(2 ^ 47) ≤ y.toInt → y.toInt < 2 ^ 47 → x.toNat < 2 ^ 32 → s.phaserNamed x.toNat = some (i, p) →
        let q := { p with pending := p.pending + BitVec.ofInt 48 y.toInt }
        waiting q → gives (.phbytes d a b ta tb) (phaserWord p.phase 0 0) fun u =>
          ∃ ls, u.phasers = s.phasers.set i { q with launches := ls }) ∧
      (y.toInt < -(2 ^ 47) ∨ 2 ^ 47 ≤ y.toInt → exec (.phbytes d a b ta tb) s = .next s.illegal))) ∧
  ∀ (s : State) (w n o : Nat) (d : WReg) (v : W64), w < s.welts.length →
    (s.weltAt w).flights.find? (fun f => f.num == n) = some ⟨n, o, .word d v⟩ →
    ∃ u, exec (.phaserResultReturn w n) s = .next u ∧ Landed s u w n d v ∧ ∀ l, u.getByte l = s.getByte l

/-- R242, R325, R328, R329, R330, R332: PHSIG counts a signal, PHWAIT passes once the phase is past the welt's own and waits
until then, PHARR does both as one; the last signal advances the phaser and makes every waiter look. The advance of a
phaser of device scope (6) first applies everything that the launches of its signalling members have buffered: nothing of
it is left, and an entry that was the only one has had its effect (R282). -/
def Obligations.PhaserArrivals : Prop :=
  (∀ (s : State) (d a : WReg) (ta : Bool) (i : Nat) (p : Phaser) (mode : Nat) (sig : Bool) (wp : W32),
    issuing s → together s → s.cw.halt = .none →
    s.issues s.cw.A ((({} : Deps).wsrc ta a.toNat).wdst d.toNat) 0 = true →
    let x := s.cw.rdW a.toNat
    x.toNat < 2 ^ 32 → s.phaserNamed x.toNat = some (i, p) → p.member s.cur = some (s.cur, mode, sig, wp) →
    let after (u : State) (f : Phaser → Prop) : Prop := ∃ q, u.phasers[i]? = some q ∧ f q ∧
      ∀ j, j ≠ i → u.phasers[j]? = s.phasers[j]?
    let q := p.setMember s.cur true wp
    let passes (ins : Instr) (cause : Nat) (phase : W32) : Prop :=
      ∃ u, exec ins s = .next u ∧ Reaching s u 1 0 [] [d.toNat] [] 0 ∧ u.mem = s.mem ∧ u.host = s.host ∧
        (d ≠ 0 → u.cw.rdW d.toNat = phaserWord phase cause 0) ∧ after u fun k => k.phase = phase ∧
          (k.member s.cur).map (fun m => m.2.2.2) = some phase
    let waits (ins : Instr) : Prop := ∃ u, exec ins s = .next u ∧ u.cw.wait = .phaser x.toNat ∧
      u.mem = s.mem ∧ u.host = s.host ∧ u.cw.w = s.cw.w ∧ u.cw.m = s.cw.m ∧
      ∀ l < 32, (u.cw.lane l).v = (s.cw.lane l).v ∧ (u.cw.lane l).pc = (s.cw.lane l).pc ∧
        (s.cw.A.getLsbD l → (u.cw.lane l).h = true)
    ((mode = 1 ∨ mode = 3) → sig = false → waiting q →
      ∃ u, exec (.phsig d a ta) s = .next u ∧ OnItsWay s u d (.word d (phaserWord p.phase 0 0)) .phaserResultReturn ∧
        after u fun k => k.phase = p.phase ∧ (k.member s.cur).map (fun m => m.2.2.1) = some true) ∧
    ((mode = 1 ∨ mode = 3) → sig = false → ¬waiting q → ∃ u, exec (.phsig d a ta) s = .next u ∧
      (after u fun k => k.phase = p.phase + 1 ∧ ∀ m ∈ k.members, m.2.2.1 = false) ∧
      (∀ w ∈ s.waitersOf p.id, .phaserWaitRelease w ∈ u.agenda) ∧
      (p.scope ≠ 6 → u.mem = s.mem ∧ u.host = s.host) ∧
      (p.scope = 6 → (∀ l ∈ s.signalLaunches p, ¬buffers u l) ∧
        ∀ e ls, noPartials s → s.pooled = [e] → e.launch ∈ s.signalLaunches p → (∀ g ∈ s.wgs, g.detBuf = []) →
          (∀ c ∈ s.ctxs, c.detArea = []) → memoriesWf s → wholeOps s [{ e.op with locs := ls }] →
          (∀ a ∈ ls, ∃ k, a = .dev k) → s.translateN none (s.launchAt e.launch).ctx e.level .both
            (BitVec.ofNat 64 e.addr) e.op.ty.bytes = .ok ls → carriedOut s u [{ e.op with locs := ls }])) ∧
    ((mode = 1 ∨ mode = 3) → sig = true → waits (.phsig d a ta)) ∧
    ((mode = 2 ∨ mode = 3) → p.phase ≠ wp → p.fail = none → passes (.phwait d a ta) 0 p.phase) ∧
    ((mode = 2 ∨ mode = 3) → p.phase = wp → waits (.phwait d a ta)) ∧
    (mode = 3 → sig = false → ¬waiting q → p.phase = wp → p.fail = none → (p.scope ≠ 6 ∨ calm s) → passes (.pharr d a ta) 0 (p.phase + 1)) ∧
    (mode = 3 → sig = false → waiting q → p.phase = wp → waits (.pharr d a ta))) ∧
  ∀ (s : State) (w id i : Nat) (p : Phaser) (c : Coll) (rest : List Coll) (d : WReg) (mode : Nat) (sig : Bool) (wp : W32),
    w < s.welts.length →
    let x := s.weltAt w
    x.ended = false → x.halt = .none → (s.wgAt x.wg).st = .resident → x.colls = c :: rest →
    c.wait = .phase id false (some d) false true → x.stands c = true → (∀ l < 32, c.members.getLsbD l →
      (x.lane l).x = false) →
    s.phaserIdx (s.launchOf (s.wgAt x.wg)).ctx id = some i → s.phasers[i]? = some p →
    p.member w = some (w, mode, sig, wp) → (mode = 2 ∨ mode = 3) → p.phase ≠ wp → p.fail = none →
    ∃ u, exec (.phaserWaitRelease w) s = .next u ∧ (d ≠ 0 → (u.weltAt w).rdW d.toNat = phaserWord p.phase 0 0) ∧
      (∀ r < 64, r ≠ d.toNat → (u.weltAt w).rdW r = x.rdW r) ∧ (∀ j, j ≠ w → u.weltAt j = s.weltAt j) ∧
      (∀ l < 32, ((u.weltAt w).lane l).v = (x.lane l).v ∧ (c.members.getLsbD l →
        ((u.weltAt w).lane l).h = false ∧ ((u.weltAt w).lane l).pc = (x.lane l).pc + 4)) ∧
      u.mem = s.mem ∧ u.host = s.host

/-- R328, R333, R334, R338: the last welt at BAR passes and the others are released; a welt before it waits; BARTO
sets the timeout of the phases that begin later; FLUSHDA sends the workgroup's entries to the home pools;
BARRIER_TIMEOUT stays due until the time has passed, and then raises its trap in the welt that reports, whose next BAR
starts the count again. -/
def Obligations.Barriers : Prop :=
  (∀ (s : State), issuing s → together s → s.cw.halt = .none → s.cw.wg < s.wgs.length →
    s.issues s.cw.A {} 0 = true → ∀ sig wp, s.cg.members.find? (fun m => m.1 == s.cur) = some (s.cur, sig, wp) →
    s.cg.phase = wp → sig = false →
    ((∀ m ∈ s.cg.members, m.1 ≠ s.cur → m.2.1 = true) →
      ∃ u, exec .bar s = .next u ∧ Reaching s u 1 0 [] [] [] 0 ∧ (∀ l, u.getByte l = s.getByte l) ∧
        u.cg.phase = wp + 1 ∧ (∀ m ∈ u.cg.members, m.2.1 = false) ∧
        ∀ m ∈ s.cg.members, .phaserWaitRelease m.1 ∈ u.agenda) ∧
    ((∃ m ∈ s.cg.members, m.1 ≠ s.cur ∧ m.2.1 = false) →
      ∃ u, exec .bar s = .next u ∧ u.cw.wait = .barrier ∧ (∀ l, u.getByte l = s.getByte l) ∧
        u.cg.phase = wp ∧ ((∀ r, s.cg.barHeld = some r → r = s.cur) → u.cg.barSince ≠ none) ∧ u.cw.w = s.cw.w ∧ u.cw.m = s.cw.m ∧
        ∀ l < 32, (u.cw.lane l).v = (s.cw.lane l).v ∧ (u.cw.lane l).pc = (s.cw.lane l).pc ∧
          (s.cw.A.getLsbD l → (u.cw.lane l).h = true))) ∧
  (∀ (s : State) (a b : WReg) (ta tb : Bool), issuing s → s.cw.wg < s.wgs.length →
    s.issues s.cw.A ((({} : Deps).wsrc ta a.toNat).wsrc tb b.toNat) 0 = true →
    let x := s.cw.rdW a.toNat
    let y := s.cw.rdW b.toNat
    (x ≠ 0 → x.toNat < 2 ^ 48 → y.toNat < 2 ^ 52 → y.toNat % 64 = 0 →
      ∃ u, exec (.barto a b ta tb) s = .next u ∧ Reaching s u 1 0 [] [] [] 0 ∧ (∀ l, u.getByte l = s.getByte l) ∧
        u.cg = { s.cg with barNext := x.toNat, barRecordNext := y.toNat }) ∧
    (x = 0 ∨ 2 ^ 48 ≤ x.toNat ∨ 2 ^ 52 ≤ y.toNat ∨ y.toNat % 64 ≠ 0 →
      exec (.barto a b ta tb) s = .next s.illegal)) ∧
  (∀ s : State, issuing s → s.cw.wg < s.wgs.length → s.issues s.cw.A {} 0 = true →
    ∃ u, exec .flushda s = .next u ∧ Reaching s u 1 0 [] [] [] 0 ∧ (∀ l, u.getByte l = s.getByte l) ∧
      u.cg.detBuf = [] ∧ (∀ e ∈ s.pooled ++ s.cg.detBuf, e ∈ u.pooled) ∧
      (∀ q ∈ s.cg.partials, s.looseLaunch q = true → q ∈ u.pooledPartials ∧ q ∉ u.cg.partials) ∧
      ∀ q ∈ s.cg.partials, s.looseLaunch q = false → q ∈ u.cg.partials) ∧
  ∀ (s : State) (g t0 : Nat), g < s.wgs.length →
    let x := s.wgAt g
    (x.barSince = none → x.barStop = false → exec (.barrierTimeout g) s = .next s) ∧
    (x.barSince = some t0 → x.st = .resident → s.now < t0 + x.barTimeout →
      exec (.barrierTimeout g) s = .next (s.post (.barrierTimeout g))) ∧
    (x.barSince = some t0 → x.st = .resident → t0 + x.barTimeout ≤ s.now → x.barRecord = 0 → ∀ r c n,
      s.barReporter g = some (r, c) → r < s.welts.length → (∀ i ∈ s.weltsOf g, i ≠ r →
        (s.weltAt i).ended = true ∨ s.arrivedBar i = true ∨ (s.weltAt i).halt = .stopped) →
      s.takeLevel (s.weltAt r) 4 (firstLevel (s.weltAt r)
        { cause := .barrierTimeout, lanes := (s.weltAt r).living, pc := c.pc, depth := some c.depth }) = some n →
      (s.weltAt r).wg = g → x.killed = false →
      ∃ u, exec (.barrierTimeout g) s = .next u ∧ (u.weltAt r).level = n ∧ (u.wgAt g).barHeld = some r ∧
        (u.wgAt g).barSince = none ∧
        field ((u.weltAt r).trap n).tcause 0 8 = Cause.barrierTimeout.code.toNat ∧
        ((u.weltAt r).trap n).tlanes = (s.weltAt r).living.setWidth 64 ∧
        ((u.weltAt r).trap n).tpcv = c.pc.setWidth 64 ∧ ∀ l, u.getByte l = s.getByte l)

/-! ### Locks -/

namespace Sys2Proof.Claims

/-- A lock instruction completes with `v` in `d` (R348). -/
def lockGives (s : State) (i : Instr) (d : WReg) (v : W64) (P : State → Prop) : Prop :=
  ∃ u, exec i s = .next u ∧ Reaching s u 1 0 [] [d.toNat] [] 0 ∧ (∀ l, u.getByte l = s.getByte l) ∧
    (d ≠ 0 → u.cw.rdW d.toNat = v) ∧ P u

/-- A transaction in which no granted request waits for its instruction. -/
def asked (t : Txn) : Txn := { t with grant := none }

/-- No wound waits for the welt's next lock instruction (R346, R348). -/
def unwounded (s : State) : Prop := ∀ t, s.cw.txn = some t → t.wounded = false

end Sys2Proof.Claims

/-- R341-R343, R346, R348-R350: transactions begin, end and abort, LKREL releases a name with no child held, LKSTAT reports,
LKMAT sets a legal matrix while no transaction is open, and a wounded transaction gets status 2. -/
def Obligations.LockTransactions : Prop :=
  ∀ (s : State) (d a : WReg) (ta : Bool), issuing s →
    let name := s.cw.rdW a.toNat
    let free (u : State) (n : W64) : Prop := ∀ l ∈ u.locks, l.ctx = s.cl.ctx → l.name = n →
      (∀ h ∈ l.holders, h.1 ≠ s.ageOf s.cur) ∧ ∀ q ∈ l.queue, q.age ≠ s.ageOf s.cur
    (s.issues s.cw.A (({} : Deps).wdst d.toNat) 0 = true →
      (s.cw.txn = none → ∀ q ∈ ([(.lkbegin d, false), (.lkbeginWt d, true)] : List (Instr × Bool)),
        lockGives s q.1 d 0 fun u => (∃ t, u.cw.txn = some t ∧ t.wt = q.2 ∧ t.held = [] ∧ t.wounded = false) ∧
          u.locks = s.locks) ∧
      (∀ t, s.cw.txn = some t → t.wounded = false →
        exec (.lkbegin d) s = .next s.illegal ∧ exec (.lkbeginWt d) s = .next s.illegal) ∧
      (s.cw.txn = none → exec (.lkend d) s = .next s.illegal ∧ exec (.lkabort d) s = .next s.illegal) ∧
      (∀ t, s.cw.txn = some t → t.wounded = true → t.wt = false →
        ∀ i ∈ [Instr.lkbegin d, .lkbeginWt d, .lkend d], lockGives s i d 2 fun u => u.cw.txn = some (asked t) ∧
          u.locks = s.locks) ∧
      ∀ t, s.cw.txn = some t → quiet s → s.locks.Pairwise (fun l k => l.ctx ≠ k.ctx ∨ l.name ≠ k.name) →
        let closed (u : State) : Prop := u.cw.txn = none ∧ ∀ n, free u n
        lockGives s (.lkabort d) d 0 closed ∧ (t.wounded = false → lockGives s (.lkend d) d 0 closed)) ∧
    (s.issues s.cw.A ((({} : Deps).wsrc ta a.toNat).wdst d.toNat) 0 = true →
      (lockNameOk name = true → ∃ v : W64, lockGives s (.lkstat d a ta) d v (fun u => u.cw.txn = s.cw.txn.map asked ∧
          u.locks = s.locks) ∧ v.getLsbD 63 = s.cw.txn.isSome ∧ ∀ t, s.cw.txn = some t → t.held.length ≤ 64 →
        t.mode name < 8 → v.getLsbD 62 = t.wounded ∧ v.getLsbD 61 = t.wt ∧ field v 48 8 = t.held.length ∧
          field v 0 3 = t.mode name) ∧
      (unwounded s → s.cl.ctx < s.ctxs.length → (∀ j k, j < 8 → k < 8 → name.getLsbD k = true ∧
          name.getLsbD (8 * j + k) = name.getLsbD (8 * k + j)) →
        ((∀ w ∈ s.welts, w.txn = none) → lockGives s (.lkmat d a ta) d 0 fun u => u.cc.matrix = name) ∧
        ((∃ w ∈ s.welts, w.txn ≠ none ∧ (s.launchOf (s.wgAt w.wg)).ctx = s.cl.ctx) →
          lockGives s (.lkmat d a ta) d 1 fun u => u.cc.matrix = s.cc.matrix)) ∧
      ∀ t, s.cw.txn = some t → t.wounded = false → lockNameOk name = true →
        ((¬∃ m, (name, m) ∈ t.held) → lockGives s (.lkrel d a ta) d 5 fun u => u.cw.txn = some (asked t)) ∧
        ((∃ m, (name, m) ∈ t.held) → (∀ h ∈ t.held, lockParent h.1 ≠ some name) → quiet s →
          s.locks.Pairwise (fun l k => l.ctx ≠ k.ctx ∨ l.name ≠ k.name) →
          lockGives s (.lkrel d a ta) d 0 fun u => free u name ∧ ∃ t', u.cw.txn = some t' ∧
            t'.held = t.held.filter fun h => h.1 != name) ∧
        ((∃ m, (name, m) ∈ t.held) → (∃ h ∈ t.held, lockParent h.1 = some name) →
          exec (.lkrel d a ta) s = .next (s.trapAt .lockHierarchy s.cw.A)))

/-- R339-R348, R350: LKACQ and LKUP are granted at once or wait, LKTRY is granted at once or returns status 1; a
name without the right on its parent is LOCK-HIERARCHY; LOCK_GRANT serves the head of the queue, whose request then
completes with status 0 whatever has come since; a younger holder is wounded, and WOUND reaches a welt that waits. When a
wound is delivered is the model's reading (log 30). The homes answer the leases of an instruction one line after another
(log 35), and its time ends the wait for those that are not granted (R243). -/
def Obligations.LockRequests : Prop :=
  (∀ (s : State) (d a : WReg) (mode : BitVec 3) (ta : Bool) (t : Txn), issuing s →
    s.issues s.cw.A ((({} : Deps).wsrc ta a.toNat).wdst d.toNat) 0 = true → s.cw.txn = some t →
    t.grant = some (s.cw.rdW a.toNat, mode.toNat) → ∀ i ∈ [Instr.lkacq d a mode ta, .lkup d a mode ta],
      lockGives s i d 0 fun u => u.cw.txn = some (asked t) ∧ u.locks = s.locks) ∧
  (∀ (s : State) (d a : WReg) (mode : BitVec 3) (ta : Bool) (t : Txn), issuing s → s.cw.halt = .none →
    s.issues s.cw.A ((({} : Deps).wsrc ta a.toNat).wdst d.toNat) 0 = true → s.cw.txn = some t → t.wounded = false →
    let name := s.cw.rdW a.toNat
    let age := s.ageOf s.cur
    let m := mode.toNat
    t.grant ≠ some (name, m) → lockNameOk name = true → m ≠ 0 →
    let old := lockRights (t.mode name)
    let new := lockRights m
    let mayAsk : Prop := t.parentOk name m = true ∧ t.held.length < 64 ∧ s.locksFull name = false
    let entry (i : Nat) (hs : List (Age × Nat × Nat)) (q : List Waiter) : Prop :=
      (∃ rel, s.lockNamed name = some (i, ⟨s.cl.ctx, name, hs, q, rel⟩)) ∨
        (s.lockNamed name = none ∧ i = s.locks.length ∧ hs = [] ∧ q = [])
    let agrees (hs : List (Age × Nat × Nat)) : Prop := ∀ h ∈ hs, h.1 = age ∨ s.cc.matrix.getLsbD (8 * m + h.2.2) = true
    let granted (i : Nat) (hs : List (Age × Nat × Nat)) (u : State) : Prop :=
      (∃ l, u.locks[i]? = some l ∧ l.holders = hs ++ [(age, s.cur, m)] ∧ l.queue = []) ∧
        ∃ t', u.cw.txn = some t' ∧ t'.mode name = m ∧ t'.holds name = true
    (t.holds name = false → ∀ i hs, entry i hs [] → (∀ h ∈ hs, h.1 ≠ age) → mayAsk →
      (agrees hs → lockGives s (.lkacq d a mode ta) d 0 (granted i hs) ∧
        lockGives s (.lktry d a mode ta) d 0 (granted i hs)) ∧
      (¬agrees hs → lockGives s (.lktry d a mode ta) d 1 (fun u => u.locks = s.locks ∧ u.cw.txn = some (asked t)) ∧
        ∃ u, exec (.lkacq d a mode ta) s = .next u ∧ u.cw.wait = .lock name ∧ (∀ l, u.getByte l = s.getByte l) ∧
          (∀ j, sameRegisters (s.weltAt j) (u.weltAt j)) ∧
          ((∀ h ∈ hs, age.lt h.1 = false) → ∃ l, u.locks[i]? = some l ∧ l.queue = [⟨age, s.cur, m, false⟩]) ∧
          ∀ h ∈ hs, ∀ k, age.lt h.1 = true → s.cc.matrix.getLsbD (8 * m + h.2.2) = false → h.2.1 < s.welts.length →
            (s.weltAt h.2.1).txn = some k → ∃ k', (u.weltAt h.2.1).txn = some k' ∧ k'.wounded = true)) ∧
    (t.holds name = true → new &&& old = old → new ≠ old → t.parentOk name m = true → ∀ i hs x, entry i (hs ++ [x]) [] →
      x.1 = age → x.2.2 ≠ m → (∀ h ∈ hs, h.1 ≠ age) → agrees hs → lockGives s (.lkup d a mode ta) d 0 (granted i hs)) ∧
    (t.holds name = true → lockGives s (.lkacq d a mode ta) d 3 fun u => u.locks = s.locks) ∧
    (t.holds name = false → lockGives s (.lkup d a mode ta) d 5 fun u => u.locks = s.locks) ∧
    (t.holds name = false → t.parentOk name m = false →
      exec (.lkacq d a mode ta) s = .next (s.trapAt .lockHierarchy s.cw.A))) ∧
  (∀ (s : State) (k ctx : Nat) (name : W64) (hs : List (Age × Nat × Nat)) (q : Waiter) (rel : List (Nat × Nat)),
    s.locks[k]? = some ⟨ctx, name, hs, [q], rel⟩ →
    let fits : Prop := ∀ h ∈ hs, h.1 = q.age ∨ (s.ctxAt ctx).matrix.getLsbD (8 * q.mode + h.2.2) = true
    let put (l : Lock) : State := { s with locks := s.locks.set k l }
    (fits → (q.age, q.w, q.mode) ∉ hs → exec (.lockGrant k) s =
      .next ((put ⟨ctx, name, (hs.filter fun h => h.1 != q.age) ++ [(q.age, q.w, q.mode)], [], rel⟩).setWeltAt q.w
        { s.weltAt q.w with txn := (s.weltAt q.w).txn.map fun t =>
          { t with held := (name, q.mode) :: t.held.filter fun h => h.1 != name, grant := some (name, q.mode) } })) ∧
    (¬fits → exec (.lockGrant k) s = .next (put ⟨ctx, name, hs, [q], rel⟩))) ∧
  (∀ (s : State) (w : Nat) (t : Txn), w < s.welts.length → (s.weltAt w).ended = false → (s.weltAt w).txn = some t →
    let x := s.weltAt w
    let g := s.wgAt x.wg
    (t.wt = false ∨ t.wounded = false ∨ t.delivered = true → exec (.woundDelivery w) s = .next s) ∧
    (t.wt = true → t.wounded = true → t.delivered = false → g.st = .resident → x.halt = .none →
      x.colls = [] → x.live ≠ 0 → (∃ name, x.wait = .lock name) → t.grant = none →
      exec (.woundDelivery w) s = .next (s.deliverWound w x.A x.pc)) ∧
    (t.wounded = true → t.reported = false → g.st ≠ .saved →
      (s.now < t.since + (s.ctxAt (s.launchOf g).ctx).woundPatience →
        exec (.woundPatienceExpiry w) s = .next (s.post (.woundPatienceExpiry w))) ∧
      (t.since + (s.ctxAt (s.launchOf g).ctx).woundPatience ≤ s.now →
        ∃ u, exec (.woundPatienceExpiry w) s = .next u ∧ (u.weltAt w).txn = some { t with reported := true } ∧
          ∀ i, sameRegisters (s.weltAt i) (u.weltAt i)))) ∧
  ∀ (s : State) (w since : Nat) (lanes : Lanes) (lines : List LineKey) (got : List Bool), w < s.welts.length →
    (s.weltAt w).wait = .lease lanes lines got since → got.length < lines.length →
    let answered (more : List Bool) : State :=
      s.setWeltAt w { s.weltAt w with wait := .lease lanes lines ((got ++ more).take lines.length) since }
    (∀ a, exec (.coherenceLeaseAnswer w a) s = .next (answered [a])) ∧
    (since + 2 ^ 20 ≤ s.now →
      exec (.hostAtomicLeaseTimeout w) s = .next (answered (List.replicate lines.length false))) ∧
    (s.now < since + 2 ^ 20 → exec (.hostAtomicLeaseTimeout w) s = .next s)

/-! ### Control flow and launches -/

namespace Sys2Proof.Claims

/-- The lanes of A have gone to `tgt` with the depth `dep` gives, and no register but `rs` of those lanes has changed; all
else is as `Outside` and `Inside` say. -/
structure Jumped (s u : State) (tgt : Nat → W64) (dep : BitVec 6 → BitVec 6) (rs : List Nat) : Prop where
  outside : Outside s u
  inside : Inside s.cw u.cw
  lanes : ∀ l < 32, (u.cw.lane l).x = (s.cw.lane l).x ∧ (u.cw.lane l).h = (s.cw.lane l).h ∧
    (u.cw.lane l).pc = (if s.cw.A.getLsbD l then (tgt l).setWidth 48 else (s.cw.lane l).pc) ∧
    (u.cw.lane l).depth = (if s.cw.A.getLsbD l then dep (s.cw.lane l).depth else (s.cw.lane l).depth)
  kept : ∀ l < 32, ∀ r < 128, (s.cw.A.getLsbD l → r ∉ rs) → sameReg (u.cw.lane l) (s.cw.lane l) r
  others : u.cw.w = s.cw.w ∧ u.cw.wfull = s.cw.wfull ∧ u.cw.wbad = s.cw.wbad ∧ u.cw.m = s.cw.m ∧ u.cw.fpctl = s.cw.fpctl

/-- Every lane of A has a target that is the start of a segment it may execute (R33, R361). -/
def reachable (s : State) (tgt : Nat → W64) : Prop := ∀ l < 32, s.cw.A.getLsbD l → s.target (tgt l) = .ok

end Sys2Proof.Claims

/-- R354-R362, R38, R39: each successor sends the lanes of A to its targets; CALL and CALLX leave the link in V127
one deeper, RET comes back, EXIT ends its lanes and with the last of them the welt, YIELD lets the instructions that are
ready by the next cycle of its slice (R17) go first, and NOP goes on. That YIELD checks the fall-through as a target is the
model's reading (log 21). -/
def Obligations.ControlFlow : Prop :=
  ∀ (s : State) (off : BitVec 22) (m : BitVec 3) (a : VReg) (ta : Bool), issuing s → s.cw.A ≠ 0 →
    let pc : W64 := s.cw.pc.setWidth 64
    let t : W64 := BitVec.ofInt 64 (s.cw.pc.toNat + 4 * off.toInt)
    let reg (l : Nat) : W64 := (s.cw.lane l).rdTy .b64 a.toNat
    let br (l : Nat) : W64 := if (maskRead s.legacy s.cw m.toNat).getLsbD l then t else pc + 4
    let link (l : Nat) : W64 := BitVec.ofNat 64 (s.cw.pc.toNat / 2 ^ 32 * 2 ^ 32 + ((s.cw.lane l).rd a.toNat).toNat)
    let pair := ({} : Deps).src ta [a.toNat, a.toNat + 1]
    let near (tgt : Nat → W64) : Prop := (s.cw.pc.toNat + 4) / 2 ^ 32 = s.cw.pc.toNat / 2 ^ 32 ∧
      ∀ l < 32, s.cw.A.getLsbD l → (tgt l).toNat / 2 ^ 32 = s.cw.pc.toNat / 2 ^ 32
    let left (r : Option Nat) : Option Nat := if r = some s.cur then none else r
    let ratio := ((s.coreAt s.cg.core).slices.toList.getD s.cw.slice Slice.init).ratio
    let goes (i : Instr) (tgt : Nat → W64) : Prop := ∃ u, exec i s = .next u ∧ Jumped s u tgt id []
    let called (i : Instr) (tgt : Nat → W64) : Prop := ∃ u, exec i s = .next u ∧ Jumped s u tgt (· + 1) [127] ∧
      ∀ l < 32, s.cw.A.getLsbD l → (u.cw.lane l).rd 127 = (s.cw.pc + 4).setWidth 32 ∧
        (u.cw.lane l).full.getLsbD 127 = true
    (s.issues s.cw.A {} 0 = true →
      (reachable s (fun _ => t) → goes (.go off) fun _ => t) ∧ (reachable s br → goes (.br off m) br) ∧
      (s.target t = .illegal → ∃ lanes : State → Lanes, exec (.go off) s = .next (s.illegalAt lanes false) ∧
        ∀ v : State, v.cw.pc = s.cw.pc → v.target t = .illegal → lanes v = v.cw.A) ∧
      (reachable s (fun _ => pc + 4) → ∃ u, exec .yield s = .next u ∧ Reaching s u 1 0 [] [] [] 0 ∧
        (∀ l, u.getByte l = s.getByte l) ∧ u.cw.yielded = true ∧ u.cw.readyAt = some (nextSliceCycle ratio s.now)) ∧
      (∃ u, exec .nop s = .next u ∧ Confined s u 1 0 [] [] [] 0) ∧
      (s.cw.colls = [] → s.cw.A ≠ s.cw.living → ∃ u, exec .exit s = .next u ∧ Outside s { u with wgs := s.wgs } ∧
        (∀ k, u.wgAt k = if k = s.cw.wg then
          { s.cg with runner := left s.cg.runner, handlerRunner := left s.cg.handlerRunner } else s.wgAt k) ∧
        ∀ l < 32, (s.cw.A.getLsbD l → (u.cw.lane l).x = true ∧ (u.cw.lane l).h = false ∧ (u.cw.lane l).depth = 0 ∧
          (u.cw.lane l).pc = 0) ∧ (¬s.cw.A.getLsbD l → u.cw.lane l = s.cw.lane l)) ∧
      (s.cw.colls = [] → s.cw.A = s.cw.living → (∀ n < 8, (s.cw.stream n).queue = [] ∧ (s.cw.stream n).pendNan = false ∧
          (s.cw.stream n).pendDrift = false ∧ (s.cw.stream n).pendMem = false) →
        ∃ u, exec .exit s = .next u ∧ (u.weltAt s.cur).ended = true)) ∧
    (s.issues s.cw.A pair 0 = true → reachable s reg → goes (.brx a ta) reg) ∧
    (s.cw.serial = none → s.cw.lead.depth.toNat < 63 →
      (s.issues s.cw.A (({} : Deps).dst [127]) 0 = true → reachable s (fun _ => t) → near (fun _ => t) →
        called (.call off) fun _ => t) ∧
      (s.issues s.cw.A (pair.dst [127]) 0 = true → reachable s reg → near reg → called (.callx a ta) reg)) ∧
    (s.cw.serial = none → s.cw.lead.depth = 63 → s.issues s.cw.A (({} : Deps).dst [127]) 0 = true →
      reachable s (fun _ => t) → near (fun _ => t) → ∃ u z, exec (.call off) s = .next u ∧ u.cw.serial = some z ∧
        z.queue = s.cw.A ∧ z.overflow = s.cw.pc + 4 ∧ s.cw.A.getLsbD z.running = true ∧
        ∀ l < 32, s.cw.A.getLsbD l → (u.cw.lane l).depth = 63 ∧ (u.cw.lane l).pc = t.setWidth 48) ∧
    (s.cw.serial = none → s.issues s.cw.A (({} : Deps).src ta [a.toNat]) 0 = true →
      (s.cw.lead.depth ≠ 0 → reachable s link → ∃ u, exec (.ret a ta) s = .next u ∧ Jumped s u link (· - 1) []) ∧
      (s.cw.lead.depth = 0 → exec (.ret a ta) s = .next s.illegal))

/-- R305, R306, R308, R319, R363, R364: LAUNCH reads its record as the welt sees memory after its fence, and a valid one
becomes the context's next launch, whose number W[wd] gets; JOIN gives the word of a launch that has ended and waits for one
that has not. That JOIN waits for a launch that has not ended, however old, is the model's choice (log 34). -/
def Obligations.LaunchesAndJoins : Prop :=
  ∀ (s : State) (d a : WReg) (ta : Bool), issuing s → s.cl.ctx < s.ctxs.length →
    s.issues s.cw.A ((({} : Deps).wsrc ta a.toNat).wdst d.toNat) 0 = true →
    let x := s.cw.rdW a.toNat
    let gives (i : Instr) (v : W64) (P : State → Prop) : Prop :=
      ∃ u, exec i s = .next u ∧ Reaching s u 1 0 [] [d.toNat] [] 0 ∧ (∀ l, u.getByte l = s.getByte l) ∧
        (d ≠ 0 → u.cw.rdW d.toNat = v) ∧ P u
    (quiet s → noPartials s → x.toNat % 256 = 0 → x.toNat < 2 ^ 52 → ∀ ls, s.dataXlate .load 256 x = .ok ls →
      (∀ l ∈ ls, s.badLoc l = false) → s.ratioHolds ls = false →
      let words := (List.range 32).map (wordAt (ls.map (s.afterFull.seenByte ⟨s.cur, s.cw.A⟩)))
      let l := launchFrom s.cc s.cl.ctx words false
      l.valid s.cc.nextSeq s.cl.seed = true →
      (s.openLaunches s.cl.ctx < 4096 → gives (.launch d a ta) (BitVec.ofNat 64 s.cc.nextSeq) fun u =>
        u.cc.nextSeq = s.cc.nextSeq + 1 ∧ .launchEnd s.launches.length ∈ u.agenda ∧
        ∃ k, u.launches = s.launches ++ [k] ∧ k.words = words ∧ k.seq = s.cc.nextSeq ∧ k.ctx = s.cl.ctx ∧
          k.join = none ∧ some k.seed = seedOp s.cl.seed (field (l.q 12) 0 2) (l.q 13) ((l.q 12).extractLsb' 16 32)) ∧
      (4096 ≤ s.openLaunches s.cl.ctx → gives (.launch d a ta) 0 fun u => u.launches = s.launches)) ∧
    (x.toNat % 256 ≠ 0 → exec (.launch d a ta) s = .next s.illegal) ∧
    (x.toNat = s.cl.seq → gives (.join d a ta) 0xFE fun u => u.launches = s.launches) ∧
    (x.toNat ≠ s.cl.seq → s.launchIdx s.cl.ctx x.toNat = none →
      gives (.join d a ta) 0xFF fun u => u.launches = s.launches) ∧
    ∀ i, x.toNat ≠ s.cl.seq → s.launchIdx s.cl.ctx x.toNat = some i →
      (∀ v, (s.launchAt i).join = some v → s.cc.nextSeq ≤ x.toNat + 65536 →
        gives (.join d a ta) v fun u => u.launches = s.launches) ∧
      ((s.launchAt i).join = none → s.cw.halt = .none → ∃ u, exec (.join d a ta) s = .next u ∧
        u.cw = { s.cw with wait := .join x, readyAt := none } ∧ u.launches = s.launches ∧ ∀ l, u.getByte l = s.getByte l)

/-! ### The command plane -/

namespace Sys2Proof.Claims

/-- Packet `p` of endpoint `ep` is a command that context `c` takes: it is its control endpoint's, it is the next, and the
context neither ends nor holds 4,096 completions (R441, R445). -/
def taken (s : State) (ep : Nat) (p : Packet) (c : Nat) : Prop :=
  s.ctxOfPacket ep p = some c ∧ c < s.ctxs.length ∧ (s.ctxAt c).ending = false ∧ (s.ctxAt c).held.length < 4096 ∧
    field (p.getD 0 0) 0 48 = (s.ctxAt c).nextCmd ∧ (s.ctxAt c).awaitSync = false

/-- The command `i` is answered: one more kind-1 completion of the context goes to its control endpoint, with the status,
the command's number and a value (R444); no byte of memory and no register changes. -/
def answered (s : State) (i : Instr) (c : Nat) (p : Packet) (status val : Nat) (P : State → Prop) : Prop :=
  ∃ u, exec i s = .next u ∧ u.sent = s.sent ++ [((s.ctxAt c).control, [
      BitVec.ofNat 64 (2 ^ 56 + status * 2 ^ 48 + ((s.ctxAt c).issued + 1)),
      BitVec.ofNat 64 ((s.ctxAt c).num.toNat * 2 ^ 48 + (s.ctxAt c).nextCmd), BitVec.ofNat 64 val, 0, 0, 0, 0, 0])] ∧
    (u.ctxAt c).nextCmd = (s.ctxAt c).nextCmd + 1 ∧ (u.ctxAt c).issued = (s.ctxAt c).issued + 1 ∧
    (u.ctxAt c).ack = max (s.ctxAt c).ack (field (p.getD 2 0) 0 48) ∧ u.welts = s.welts ∧
    (∀ l, u.getByte l = s.getByte l) ∧ P u

end Sys2Proof.Claims

/-- R319, R320, R441-R446: the op code of a packet says which command it is; each command of the host, taken in its order,
has its effect and its answer: a launch, a cancel, a seed operation, a vacate, a kill, an unknown operation; SYNC is
answered at once and lets completions go again. Which refusals are numbered, and the order of the checks, are the model's
choice (log 34). -/
def Obligations.HostCommands : Prop :=
  ∀ (s : State) (ep c : Nat) (p : Packet),
    let op := field (p.getD 0 0) 56 8
    let flits := field (p.getD 0 0) 48 4
    let arg := field (p.getD 1 0) 0 48
    let x := s.ctxAt c
    let packets := [Instr.launchCommand ep p, .cancel ep p, .seedCommand ep p, .vacateCommand ep p, .kill ep p, .sync ep p,
      .unknownCommand ep p]
    (∀ i ∈ packets, ∀ j ∈ packets, exec i s = exec j s) ∧
    (taken s ep p c →
      (op = 0 ∨ 0x06 < op → answered s (.unknownCommand ep p) c p 7 0 fun u => u.launches = s.launches) ∧
      (∀ l, l = launchFrom x c (p.drop 8) true → op = 0x01 → flits = 4 → s.openLaunches c < 4096 →
        (l.valid x.nextSeq x.seed = true → answered s (.launchCommand ep p) c p 0 x.nextSeq fun u =>
          (u.ctxAt c).nextSeq = x.nextSeq + 1 ∧ ∃ k, u.launches = s.launches ++ [k] ∧ k.words = p.drop 8 ∧
            k.seq = x.nextSeq ∧ k.ctx = c ∧ k.host = true ∧ k.join = none) ∧
        (l.valid x.nextSeq x.seed = false → answered s (.launchCommand ep p) c p 1 0 fun u =>
          u.launches = s.launches)) ∧
      (flits = 0 → s.launchIdx c arg = none →
        (op = 0x02 → answered s (.cancel ep p) c p 5 0 fun u => u.launches = s.launches) ∧
        (op = 0x04 → answered s (.vacateCommand ep p) c p 5 0 fun u => u.launches = s.launches)) ∧
      (op = 0x02 → flits = 0 → ∀ l, s.launchIdx c arg = some l → (s.launchAt l).join = none →
        answered s (.cancel ep p) c p 0 arg fun u => (u.launchAt l).flags.cancelled = true ∧
          (u.launchAt l).flags.stop = true ∧ ∀ k, k ≠ l → u.launchAt k = s.launchAt k) ∧
      (op = 0x04 → flits = 0 → ∀ l, s.launchIdx c arg = some l → s.vacateRefused (some l) (p.getD 3 0).toNat none = none →
        ∃ u, exec (.vacateCommand ep p) s = .next u ∧ u.sent = s.sent ∧ (u.ctxAt c).nextCmd = x.nextCmd + 1 ∧
          (u.launchAt l).vacate = some (none, (p.getD 3 0).toNat, x.nextCmd) ∧ (∀ b, u.getByte b = s.getByte b) ∧
          ∀ i, sameRegisters (s.weltAt i) (u.weltAt i)) ∧
      (op = 0x03 → flits = 0 → (p.getD 3 0).toNat = 1 → x.seed.length < 16 →
        answered s (.seedCommand ep p) c p 0 0 fun u => (u.ctxAt c).seed = x.seed ++ [p.getD 4 0]) ∧
      (op = 0x03 → flits = 0 → (p.getD 3 0).toNat = 1 → x.seed.length = 16 →
        answered s (.seedCommand ep p) c p 1 0 fun u => (u.ctxAt c).seed = x.seed) ∧
      ((op = 0x01 → flits ≠ 4) → (1 < op → flits ≠ 0) → 0 < op → op < 0x06 →
        answered s (.kill ep p) c p 1 0 fun u => u.launches = s.launches) ∧
      (op = 0x05 → flits = 0 → ∃ u, exec (.kill ep p) s = .next u ∧ (u.ctxAt c).ending = true ∧
        .contextKill c 0 ∈ u.agenda ∧ u.sent = s.sent)) ∧
    (s.ctxOfPacket ep p = some c → c < s.ctxs.length → op = 0x06 → ∃ u, exec (.sync ep p) s = .next u ∧
      (u.ctxAt c).awaitSync = false ∧ u.welts = s.welts ∧ (∀ l, u.getByte l = s.getByte l) ∧
      let a := max x.ack (field (p.getD 2 0) 0 48)
      u.sent = s.sent ++ (ep, completionFlit 3 0 x.issued x.num.toNat (x.nextCmd - 1) 0 0) ::
        (x.held.filter fun h => decide (a < h.num)).map fun h => (ep, h.flit)) ∧
    (s.ctxOfPacket ep p = none → ∀ i ∈ packets, exec i s = .next { s with sent := s.sent ++
      [(ep, completionFlit (if op = 0x06 then 3 else 1) 4 0 (field (p.getD 1 0) 48 12) (field (p.getD 0 0) 0 48) 0 0)] })

/-! ### System instructions -/

/-- R3, R4, R6, R108, R112, R187, R271, R410-R412, R420-R426: SRD gives each register that has one copy, under level copy 0,
and the trap registers of the level or a lower one, reserved bits as zero; SWR writes the bits that may be written and
leaves a read-only register as it is; a level below the register's, and `sr.laneid` without a vector destination, are
ILLEGAL. That `sr.seed` is the top of the launch's own seeds is the model's reading (log 37). -/
def Obligations.SystemRegisters : Prop :=
  ∀ (s : State) (d a : WReg) (v : VReg) (ta : Bool) (lv : BitVec 2) (sl : BitVec 8), issuing s → lv.toNat ≤ 2 →
    let t := s.cw.trap lv.toNat
    let x := s.cw.rdW a.toNat
    (s.issues s.cw.A (({} : Deps).wdst d.toNat) 0 = true →
      (lv = 0 → ∀ q ∈ ([(0x00, BitVec.ofNat 64 (s.cw.level * 2 ^ 10 + s.cw.serial.isSome.toNat * 2 ^ 9 +
            s.cl.interlocked.toNat * 2 ^ 8 + s.cl.det.toNat * 2 ^ 7 + s.cl.walker.toNat * 2 ^ 6 + s.cl.legacy.toNat * 2 ^ 5)),
          (0x01, s.cw.fpctl.setWidth 64), (0x02, s.cyclesOf s.cg.core), (0x05, BitVec.ofNat 64 (s.cg.logical % 2 ^ 58)),
          (0x06, BitVec.ofNat 64 (s.cg.logical % 2 ^ 58 * 2 ^ 6 + s.cw.index % 2 ^ 6)), (0x07, s.cl.seed.getLastD 0),
          (0x08, s.tokensWord), (0x09, s.cw.skivestat), (0x0A, s.cw.nanrec),
          (0x0C, BitVec.ofNat 64 (s.cc.part * 2 ^ 12 + s.cc.num.toNat))] : List (BitVec 8 × W64)),
        sl = q.1 → UniformResult s (.srd d lv sl) 2 d fun y => y = q.2) ∧
      (lv = 0 → 1 ≤ s.cw.level → sl = 0x04 → UniformResult s (.srd d lv sl) 2 d fun y => y = BitVec.ofNat 64
        (quarterOf s.cg.core * 2 ^ 14 + s.physCore s.cg.core * 2 ^ 8 + s.cw.slice * 2 ^ 5 + s.cw.slot)) ∧
      (lv.toNat ≤ s.cw.level → ∀ q ∈ ([(0x0B, t.restart), (0x10, t.tcause), (0x11, t.tlanes),
          (0x12, t.tpcv), (0x13, t.tsw &&& 0x3FFFF80#64), (0x14, t.tvec), (0x15, t.skid)] : List (BitVec 8 × W64)),
        sl = q.1 → UniformResult s (.srd d lv sl) 2 d fun y => y = q.2) ∧
      (s.cw.level < lv.toNat → exec (.srd d lv sl) s = .next s.illegal) ∧
      (s.cw.level = 0 ∧ sl = 0x04 ∨ sl = 0x03 → exec (.srd d lv sl) s = .next s.illegal)) ∧
    (s.issues s.cw.A (({} : Deps).dst [v.toNat]) 0 = true →
      VectorResult s (.srdLaneid v) 2 s.cw.A .b32 v fun l _ y => y = BitVec.ofNat 64 l) ∧
    (s.issues s.cw.A (({} : Deps).wsrc ta a.toNat) 0 = true → s.cw.halt = .none → s.cw.replay = none →
      let writes (q : BitVec 8 × Welt) : Prop :=
        sl = q.1 → ∃ u, exec (.swr a ta lv sl) s = .next u ∧ (∀ l, u.getByte l = s.getByte l) ∧
          Lanewise s.cw u.cw s.cw.A 2 0 [] ∧ (∀ i, i ≠ s.cur → u.weltAt i = s.weltAt i) ∧
          sameRegisters { q.2 with lanes := u.cw.lanes } u.cw
      (lv = 0 → ∀ q ∈ ([(0x01, { s.cw with
            fpctl := (x.setWidth 32 &&& 0x3F780#32) ||| (s.cw.fpctl &&& ~~~(x.setWidth 32) &&& 0x3F#32) }),
          (0x09, { s.cw with
            skivestat := (x &&& 0xFFFFFFFFFFFF#64) ||| (s.cw.skivestat &&& ~~~x &&& 0x80FF000000000000#64) }),
          (0x0A, { s.cw with nanrec := (s.cw.nanrec &&& 0x7FFFFFFFFFFFFFFF#64) ||| (x &&& 0x8000000000000000#64) }),
          (0x00, s.cw), (0x02, s.cw), (0x05, s.cw), (0x06, s.cw), (0x07, s.cw), (0x08, s.cw), (0x0C, s.cw)] :
            List (BitVec 8 × Welt)), writes q) ∧
      (lv = 0 → 1 ≤ s.cw.level → writes (0x04, s.cw)) ∧
      (lv.toNat ≤ s.cw.level → ∀ q ∈ ([(0x0B, s.cw.setTrap lv.toNat { t with restart := x &&& 0xC0000003FFFFFFFF#64 }),
          (0x10, s.cw.setTrap lv.toNat { t with tcause := x }),
          (0x11, s.cw.setTrap lv.toNat { t with tlanes := x &&& 0xFFFFFFFF#64 }),
          (0x12, s.cw),
          (0x13, s.cw.setTrap lv.toNat { t with
            tsw := (t.tsw &&& 0x3FFF380#64) ||| (x &&& 0xFFFFFFFFFC000C7F#64) }),
          (0x14, s.cw.setTrap lv.toNat { t with
            tvec := x &&& (if lv = 0 then 0xFFFFFFFFFFFF#64 else 0xFFFFFFFFFFFD#64) }),
          (0x15, s.cw.setTrap lv.toNat { t with skid := x })] : List (BitVec 8 × Welt)), writes q) ∧
      (s.cw.level < lv.toNat → exec (.swr a ta lv sl) s = .next s.illegal) ∧
      (s.cw.level = 0 ∧ sl = 0x04 ∨ sl = 0x03 → exec (.swr a ta lv sl) s = .next s.illegal))

/-- R394, R406, R413, R437: TOKQ answers from its table, TLBINV takes the range out of every TLB, SKEY rewrites
saved keys in a handler above level 0, VACATE and HALTWG answer or stop a workgroup; at level 0 TLBINV, VACATE and
HALTWG are ILLEGAL, and so is SKEY outside a handler above level 0. That VACATE of no core gets status 2 is the
model's choice (log 34). -/
def Obligations.SupervisorInstructions : Prop :=
  ∀ (s : State) (d a b : WReg) (c : VReg) (ta tb tc : Bool), issuing s →
    let x := s.cw.rdW a.toNat
    let y := s.cw.rdW b.toNat
    let two := ((({} : Deps).wsrc ta a.toNat).wsrc tb b.toNat)
    let gives (i : Instr) (v : W64) (P : State → Prop) : Prop :=
      ∃ u, exec i s = .next u ∧ (d ≠ 0 → u.cw.rdW d.toNat = v) ∧ P u
    (s.issues s.cw.A ((({} : Deps).wsrc ta a.toNat).wdst d.toNat) 0 = true →
      (field x 56 8 = 0 → ∀ q ∈ [(0, 20, 2), (1, 12, 2), (2, 16, 2), (3, 10, 2), (4, 14, 2), (5, 9, 2), (6, 13, 4),
          (7, 8, 4), (8, 12, 8), (9, 8, 8), (10, 1, 8), (11, 1, 8), (12, 2, 4), (13, 4, 32), (14, 2, 16), (15, 1, 4),
          (16, 1, 2048), (17, 2, 2048)], field x 0 56 = q.1 →
        UniformResult s (.tokq d a ta) 1 d fun z => z = BitVec.ofNat 64 (2 ^ 63 + q.2.2 * 2 ^ 16 + q.2.1)) ∧
      (field x 56 8 = 0 → 18 ≤ field x 0 56 → UniformResult s (.tokq d a ta) 1 d fun z => z = 0)) ∧
    (s.issues s.cw.A two 0 = true → 1 ≤ s.cw.level → y.toNat ≤ 3 →
      let size := [2 ^ 16, 2 ^ 21, 2 ^ 30, 2 ^ 64].getD y.toNat 0
      x.toNat % size = 0 → (∀ w ∈ s.welts, w.flights = []) →
      ∃ u, exec (.tlbinv a b ta tb) s = .next u ∧ Reaching s u 1 0 [] [] [] 0 ∧ (∀ l, u.getByte l = s.getByte l) ∧
        let kept (e : Tlb) : Prop := ¬(e.ctx = s.cl.ctx ∧ e.page < x.toNat + size ∧ x.toNat < e.page + e.size)
        (∀ e, e ∈ u.tlb ↔ e ∈ s.tlb ∧ kept e) ∧ ∀ e, e ∈ u.tlb2 ↔ e ∈ s.tlb2 ∧ kept e) ∧
    (s.issues s.cw.A (({} : Deps).wsrc ta a.toNat) 0 = true → x.toNat < 2 ^ 32 →
      s.issues (x.setWidth 32) (({} : Deps).src tc [c.toNat, c.toNat + 1]) 0 = true → s.cw.halt = .none →
      ∀ n rest sv, s.cw.inHandler = n :: rest → (n = 1 ∨ n = 2) → s.cw.saved.toList.getD n none = some sv →
      let key (l : Nat) : W64 := (s.cw.lane l).rdTy .b64 c.toNat
      (∀ l < 32, x.getLsbD l → field (key l) 48 8 = 0 ∧ field (key l) 0 2 = 0 ∧ (key l).getLsbD 63 = false ∧
        (key l).getLsbD 62 = sv.h.getLsbD l ∧ s.cw.populated.getLsbD l = true) →
      ∃ u sv', exec (.skey a ta c tc) s = .next u ∧ (∀ l, u.getByte l = s.getByte l) ∧
        u.cw.saved.toList.getD n none = some sv' ∧ sv'.h = sv.h ∧ sv'.serial = sv.serial ∧ sv'.colls = sv.colls ∧
        Lanewise s.cw u.cw s.cw.A 2 0 [] ∧ u.cw.w = s.cw.w ∧ u.cw.m = s.cw.m ∧
        ∀ l : Fin 32, if x.getLsbD l
          then sv'.x.getLsbD l = false ∧ sv'.depth[l] = (key l).extractLsb' 56 6 ∧ sv'.pc[l] = (key l).setWidth 48
          else sv'.x.getLsbD l = sv.x.getLsbD l ∧ sv'.depth[l] = sv.depth[l] ∧ sv'.pc[l] = sv.pc[l]) ∧
    (s.issues s.cw.A (two.wdst d.toNat) 0 = true → 1 ≤ s.cw.level → field x 60 4 = 0 →
      (s.namedLaunch x = none → gives (.vacate d a b ta tb) 1 (fun u => u.wgs = s.wgs) ∧
        gives (.haltwg d a b ta tb) 1 fun u => u.wgs = s.wgs) ∧
      (∀ i, s.namedLaunch x = some i → (s.launchAt i).join = none → (s.launchAt i).vacate = none → y = 0 →
        gives (.vacate d a b ta tb) 2 fun u => u.wgs = s.wgs) ∧
      (∀ i k, s.namedLaunch x = some i → (s.launchAt i).vacate = some (some s.cur, k, 0) →
        (∀ g ∈ s.wgs, g.vacating = false) → s.cw.ended = false →
        gives (.vacate d a b ta tb) (BitVec.ofNat 64 (k * 2 ^ 32)) fun u => (u.launchAt i).vacate = none) ∧
      (∀ i g, s.namedLaunch x = some i → (s.launchAt i).join = none → field y 0 58 < (s.launchAt i).wgCount →
        s.wgOf i (field y 0 58) = some g → g ≠ s.cw.wg → (s.wgAt g).st = .saved → s.cw.ended = false →
        gives (.haltwg d a b ta tb) 0 fun u => (u.wgAt g).st = .ended)) ∧
    (s.cw.level = 0 →
      (s.issues s.cw.A two 0 = true → exec (.tlbinv a b ta tb) s = .next s.illegal) ∧
      (s.issues s.cw.A (two.wdst d.toNat) 0 = true → exec (.vacate d a b ta tb) s = .next s.illegal ∧
        exec (.haltwg d a b ta tb) s = .next s.illegal)) ∧
    (s.cw.inHandler.headD 0 = 0 → s.issues s.cw.A (({} : Deps).wsrc ta a.toNat) 0 = true →
      s.issues (x.setWidth 32) (({} : Deps).src tc [c.toNat, c.toNat + 1]) 0 = true →
      exec (.skey a ta c tc) s = .next s.illegal)

/-! ### Traps -/

namespace Sys2Proof.Claims

/-- The trap that R417 to R421 describe has been taken at level `n`: the record of its cause, lanes, pc and status, the
saved places of the lanes, and every non-exited lane at the handler at depth 0; no register of a lane, no uniform or
mask register, no flag and no byte of memory has changed, and every other running welt of the workgroup is being
stopped. -/
structure TrapTaken (s u : State) (n : Nat) (cause : Cause) (addr : BitVec 52) (sk hdr : Bool) : Prop where
  bytes : ∀ l, u.getByte l = s.getByte l
  level : u.cw.level = n ∧ u.cw.inHandler = n :: s.cw.inHandler
  tcause : (u.cw.trap n).tcause = BitVec.ofNat 64 (addr.toNat * 2 ^ 12 + cause.code.toNat)
  tlanes : (u.cw.trap n).tlanes = s.cw.A.setWidth 64
  tpcv : (u.cw.trap n).tpcv = s.cw.pc.setWidth 64
  tsw : field (u.cw.trap n).tsw 20 6 = s.cw.lead.depth.toNat ∧ field (u.cw.trap n).tsw 12 2 = s.cw.level ∧
    (u.cw.trap n).tsw.getLsbD 14 = s.cw.serial.isSome ∧ (u.cw.trap n).tsw.getLsbD 10 = sk ∧
    (u.cw.trap n).tsw.getLsbD 9 = false ∧ (u.cw.trap n).tsw.getLsbD 8 = hdr ∧
    (u.cw.trap n).tsw.getLsbD 7 = (s.stitchOf s.cur).isSome ∧ u.stitchOf s.cur = none
  tvec : (u.cw.trap n).tvec = (s.cw.trap n).tvec
  saved : ∃ sv, u.cw.saved.toList.getD n none = some sv ∧ sv.serial = s.cw.serial ∧ sv.colls = s.cw.colls ∧
    ∀ l : Fin 32, sv.x.getLsbD l = (s.cw.lane l).x ∧ sv.h.getLsbD l = (s.cw.lane l).h ∧
      sv.depth[l] = (s.cw.lane l).depth ∧ sv.pc[l] = (s.cw.lane l).pc
  lanes : ∀ l < 32, (u.cw.lane l).x = (s.cw.lane l).x ∧ (u.cw.lane l).v = (s.cw.lane l).v ∧
    (u.cw.lane l).full = (s.cw.lane l).full ∧ (u.cw.lane l).bad = (s.cw.lane l).bad ∧ ((s.cw.lane l).x = false → (u.cw.lane l).h = false ∧
      (u.cw.lane l).depth = 0 ∧ (u.cw.lane l).pc.toNat = (s.cw.trap n).tvec.toNat % 2 ^ 48 / 4 * 4)
  kept : u.cw.w = s.cw.w ∧ u.cw.wfull = s.cw.wfull ∧ u.cw.wbad = s.cw.wbad ∧ u.cw.m = s.cw.m ∧ u.cw.fpctl = s.cw.fpctl ∧
    u.cw.handles = s.cw.handles ∧ u.cw.serial = none ∧ u.cw.colls = []
  siblings : ∀ i, i ≠ s.cur → sameRegisters { s.weltAt i with traps := (u.weltAt i).traps } (u.weltAt i) ∧
    ((u.weltAt i).traps = (s.weltAt i).traps ∨ (u.weltAt i).halt = .stopped) ∧ (i < s.welts.length →
    (s.weltAt i).wg = s.cw.wg → (s.weltAt i).ended = false → (s.weltAt i).inHandler = [] → (u.weltAt i).halt ≠ .none)

end Sys2Proof.Claims

/-- R37, R96, R417-R421, R424, R429, R437: TRAP, TRAP.s, BRK and an unassigned encoding take their trap at the level that
R419 names, with ST set where the issue was stitched, which ends the stitch; the ILLEGAL of a stitched issue is taken by the
stitch's lowest welt; a trap in a handler goes one level up, above level 2 it ends the workgroup, and a workgroup that is
being ended runs no handler. That a trap in a user handler goes one level up is the model's reading (log 19). -/
def Obligations.TrapsAreTaken : Prop :=
  ∀ (s : State) (a : WReg) (ta hdr : Bool) (n : Nat), issuing s → s.cw.A ≠ 0 → s.cw.level ≤ 2 →
    (∀ z, s.cw.serial = some z → z.running < 32) →
    let x := s.cw.rdW a.toNat
    let user := (s.cw.trap 0).tvec.getLsbD 0
    let at_ (low : Nat) : Prop := n ≤ 2 ∧ ((s.cw.inHandler = [] ∧ s.cw.level = 0 ∧ n = low) ∨
        ∃ k rest, s.cw.inHandler = k :: rest ∧ n = k + 1) ∧
      (s.cw.trap n).tvec.getLsbD 0 = true ∧ s.cg.killed = false ∧
      s.segmentAt s.cw n (tvecAddr (s.cw.trap n).tvec) = true
    let takes (i : Instr) (cause : Cause) (addr : BitVec 52) (sk hdr : Bool) : Prop :=
      ∃ u, exec i s = .next u ∧ TrapTaken s u n cause addr sk hdr
    (s.issues s.cw.A (({} : Deps).wsrc ta a.toNat) 0 = true →
      (∀ c ∈ [Cause.illegal, .maskPartial, .collectiveMismatch, .exitedMember, .emptyRead, .fpNan, .fpInvalid,
          .fpDivzero, .fpOverflow, .skiveDrift, .regionDomain, .regionFull, .hostAtomic, .wound, .lockHierarchy,
          .barrierTimeout, .orderInsensitive], field x 0 12 = c.code.toNat →
        (at_ (if user then 0 else 1) → takes (.trap a ta) c (x.extractLsb' 12 52) true false) ∧
        (at_ 1 → takes (.trapS a ta) c (x.extractLsb' 12 52) true false)) ∧
      (field x 8 4 ≠ 0 → exec (.trap a ta) s = .next s.illegal ∧ exec (.trapS a ta) s = .next s.illegal)) ∧
    (s.issues s.cw.A {} 0 = true →
      (at_ (if user && !((s.cw.trap 0).tvec.getLsbD 1) then 0 else 1) → takes .brk .brk 0 true false) ∧
      (∀ rest, s.cg.killed = false → s.cw.inHandler = 2 :: rest →
        exec .brk s = .next ((s.setCw s.cw.endReplay).faultWg s.cw.wg 0x40 false)) ∧
      (s.cg.killed = true → ∃ u, exec .brk s = .next u ∧ u.cw.halt = .stopped ∧ u.cw.inHandler = s.cw.inHandler ∧
        (∀ l, u.getByte l = s.getByte l) ∧ ∀ i, i ≠ s.cur → u.weltAt i = s.weltAt i)) ∧
    (at_ (if user then 0 else 1) → (∀ i, (s.stitchOf s.cur).bind Stitch.lowest = some i → i = s.cur) →
      takes (.unassignedOpcode hdr) .illegal 0 false hdr) ∧
    ∀ i, (s.stitchOf s.cur).bind Stitch.lowest = some i → i ≠ s.cur → i < s.welts.length →
      let w := s.weltAt i
      w.wg = s.cw.wg → w.pc = s.cw.pc → s.cg.killed = false → w.inHandler = [] → w.level = 0 →
      n = (if (w.trap 0).tvec.getLsbD 0 then 0 else 1) → (w.trap n).tvec.getLsbD 0 = true →
      s.segmentAt w n (tvecAddr (w.trap n).tvec) = true →
      ∃ u, exec (.unassignedOpcode hdr) s = .next u ∧ (u.weltAt i).level = n ∧
        ((u.weltAt i).trap n).tcause = BitVec.ofNat 64 Cause.illegal.code.toNat ∧
        ((u.weltAt i).trap n).tlanes = w.A.setWidth 64 ∧ ((u.weltAt i).trap n).tpcv = s.cw.pc.setWidth 64 ∧
        ((u.weltAt i).trap n).tsw.getLsbD 7 = true ∧ u.stitchOf i = none ∧ (∀ l, u.getByte l = s.getByte l) ∧
        (s.cw.ended = false → s.cw.halt = .none → s.cw.inHandler = [] →
          (u.weltAt s.cur).halt ≠ .none ∧ u.stitchOf s.cur = none)

/-- R29, R31, R272, R424, R429: TRET brings back each lane's key and place, with SK past the trapping instruction, the level,
serial mode and the collectives, where no collective can be judged incomplete; a welt whose lanes have all exited ends;
outside a handler it is ILLEGAL, and a reserved bit set is TRET-STATE. A replay
that the handler's level has set in `sr.restart` begins, else one that was due when the trap came goes on. Which place a
restored pc has, and that a lane which a handler has exited leaves the serial queue, are the model's readings (logs 17, 19). -/
def Obligations.TrapReturns : Prop :=
  ∀ (s : State), issuing s → s.issues s.cw.A {} 0 = true →
    (s.cw.inHandler = [] → exec .tret s = .next s.illegal) ∧
    ∀ n rest, s.cw.inHandler = n :: rest →
      let t := s.cw.trap n
      (field t.tsw 26 38 ≠ 0 ∨ field t.tsw 0 7 ≠ 0 → exec .tret s = .next (s.trapAt .tretState s.cw.A)) ∧
      ∀ sv, field t.tsw 26 38 = 0 → field t.tsw 0 7 = 0 → s.cw.saved.toList.getD n none = some sv →
        let skips : Bool := t.tsw.getLsbD 10 && !(t.tsw.getLsbD 8) && !(t.tsw.getLsbD 9) && field t.tcause 0 8 != 0x41
        let len := s.lengthAt (field t.tsw 12 2) (t.tpcv.setWidth 48)
        let serial := sv.serial.bind (·.without sv.x)
        ((∀ l < 32, sv.x.getLsbD l = true) → ∃ u, exec .tret s = .next u ∧ (u.weltAt s.cur).ended = true) ∧
        ((∃ l < 32, sv.x.getLsbD l = false) →
          (∀ c ∈ sv.colls, c.wait = .none → c.arrived ≠ 0 → c.members &&& sv.x = 0) →
          ((∃ l < 32, sv.x.getLsbD l = false ∧ sv.h.getLsbD l = false ∧ ∀ z, serial = some z → z.running = l) ∨
            ∀ c ∈ sv.colls, c.wait ≠ .none ∨ c.arrived = 0) →
        ∃ u, exec .tret s = .next u ∧ (∀ l, u.getByte l = s.getByte l) ∧ u.cw.level = field t.tsw 12 2 ∧
          u.cw.inHandler = rest ∧ u.cw.serial = serial ∧ u.cw.colls = sv.colls ∧
          u.cw.stepping = t.tsw.getLsbD 11 ∧ u.cw.w = s.cw.w ∧ u.cw.m = s.cw.m ∧ u.cw.fpctl = s.cw.fpctl ∧
          u.cw.handles = s.cw.handles ∧ (∀ i, sameRegisters { s.weltAt i with
            lanes := (u.weltAt i).lanes, saved := (u.weltAt i).saved, level := (u.weltAt i).level
            traps := (u.weltAt i).traps } (u.weltAt i)) ∧
          (s.cw.replay = none → (s.cw.halt = .none → u.cw.traps = s.cw.traps) ∧
            u.cw.replay = if t.restart.getLsbD 63 then some n else sv.replay) ∧
          (∀ i, i ≠ s.cur → (u.weltAt i).traps = (s.weltAt i).traps ∧ (u.weltAt i).lanes = (s.weltAt i).lanes ∧ (u.weltAt i).saved = (s.weltAt i).saved ∧
            (u.weltAt i).level = (s.weltAt i).level) ∧
          ∀ l : Fin 32, (u.cw.lane l).v = (s.cw.lane l).v ∧ (u.cw.lane l).full = (s.cw.lane l).full ∧
            (u.cw.lane l).x = sv.x.getLsbD l ∧ (u.cw.lane l).h = sv.h.getLsbD l ∧ (u.cw.lane l).depth = sv.depth[l] ∧
            (u.cw.lane l).pc = if skips ∧ sv.x.getLsbD l = false ∧ sv.depth[l].toNat = field t.tsw 20 6 ∧
              sv.pc[l] = t.tpcv.setWidth 48 then sv.pc[l] + BitVec.ofNat 48 (4 * len) else sv.pc[l])

/-! ### Power, clock, debug -/

namespace Sys2Proof.Claims

/-- No byte of any memory and no register of any welt has changed. -/
def untouched (s u : State) : Prop :=
  (∀ l, u.getByte l = s.getByte l) ∧ ∀ i, sameRegisters (s.weltAt i) (u.weltAt i)

/-- Event `i` leads to a state in which no byte and no register has changed, and of which `P` holds. -/
def eventGives (s : State) (i : Instr) (P : State → Prop) : Prop := ∃ u, exec i s = .next u ∧ untouched s u ∧ P u

end Sys2Proof.Claims

/-- R23, R381-R393: tokens are spent on the oldest request, for which the core has reserved them, and return to the ring at
their station, none made and none lost; a core is hungry while its oldest request has waited 96 cc; quotas stay within their
bounds; ratios and read grants change as R391 and R392 say; heat lowers quotas and then resets; a cycle advances the clock.
-/
def Sys2Proof.Claims.powerAndClock : Prop :=
  ∀ (s : State) (core : Nat), core < 192 →
    let c := s.coreAt core
    let others (u : State) : Prop := ∀ k, k ≠ core → u.coreAt k = s.coreAt k
    (∀ r, s.oldest core = some r →
      (c.reserve < r.price ∨ c.reserveFor ≠ some r.who → exec (.tokenSpend core) s = .next s) ∧
      (r.price ≤ c.reserve → c.reserveFor = some r.who → eventGives s (.tokenSpend core) fun u => others u ∧
        (u.coreAt core).reserve = c.reserve - r.price ∧ (u.coreAt core).reserveFor = none ∧ (u.coreAt core).hungry = false ∧
        (∃ h, (u.coreAt core).held = c.held ++ [h] ∧ h.count = r.price ∧ h.who = r.who ∧
          (∀ k n, r.who = .copy k n → h.left = 2048 ∧ h.slice = none) ∧
          ∀ i n, r.who = .welt i n → h.figure ≤ 32 ∧ h.left = 16 + h.figure ∧ h.slice = some (s.weltAt i).slice) ∧
        (u.coreAt core).tokens = c.tokens ∧ u.rings = s.rings ∧
        ∀ i n, r.who = .welt i n → i < s.welts.length → (u.weltAt i).spent = r.price ∧ (u.weltAt i).wait = .none)) ∧
    (s.oldest core = none → exec (.tokenSpend core) s = .next s) ∧
    (∀ p, s.partOf core = some p → eventGives s (.tokenReturn core) fun u => others u ∧
      (u.coreAt core).held = c.held.filter (fun h => !(s.holdOver h)) ∧ (u.coreAt core).reserve = c.reserve ∧
      countOf p.num ((u.ringAt (core / 48)).at_ (core % 48)) + (u.coreAt core).tokens =
        countOf p.num ((s.ringAt (core / 48)).at_ (core % 48)) + c.tokens) ∧
    (eventGives s (.coreHungry core) fun u => others u ∧ u.rings = s.rings ∧ ((u.coreAt core).hungry = true ↔
      ∃ r, s.oldest core = some r ∧ r.since + 96 ≤ s.now)) ∧
    (∀ q p n, q < 4 → p ∈ s.parts → p.live = true → (∀ o ∈ s.parts, o.live = true → o.num = p.num → o = p) →
      eventGives s (.powerQuotaChange p.num q n) fun u =>
        (u.partNum p.num).quota q = min (max n (64 * p.coresOn q)) (256 * p.coresOn q)) ∧
    (∀ k < 6, ∀ (code : BitVec 3) (n : Nat),
      let slice (t : State) : Slice := (t.coreAt core).slices.toList.getD k Slice.init
      (eventGives s (.sliceRatioChange core k code) fun u => others u ∧ (slice u).ratio = (slice s).ratio ∧
        (slice u).pending = some (code, s.now + 64) ∧ .sliceRatioTakesEffect core k ∈ u.agenda) ∧
      (∀ t, (slice s).pending = some (code, t) → eventGives s (.sliceRatioTakesEffect core k) fun u => others u ∧
        (slice u).ratio = code ∧ (slice u).pending = none) ∧
      (2 ≤ n → n ≤ 12 → eventGives s (.readGrantChange core k n) fun u => others u ∧ (slice u).grants = n)) ∧
    (∀ q heat, (heat < 95 → exec (.thermalThrottle q heat) s = .next s) ∧
      (heat < 105 → exec (.thermalReset q heat) s = .next s) ∧
      (95 ≤ heat → q < 4 → s.parts.Pairwise (fun o p => o.live = false ∨ p.live = false ∨ o.num ≠ p.num) →
        eventGives s (.thermalThrottle q heat) fun u => u.mgmtOut.length = s.mgmtOut.length + 1 ∧
          ∀ p ∈ s.parts, p.live = true → p.coresOn q ≠ 0 → (u.partNum p.num).quota q = 64 * p.coresOn q) ∧
      (105 ≤ heat → ∃ u, exec (.thermalReset q heat) s = .next u ∧ u.bringup = .reset ∧ u.mem = [] ∧ u.welts = [] ∧
        u.host = s.host ∧ u.mgmtOut.length = s.mgmtOut.length + 1)) ∧
    eventGives s .laceCycle fun u => u.now = s.now + 1

/-- R425, R426, R428, R430, R431: a welt to which halts have come stops at a clause boundary or where it waits, with a
record for each level that sent one, and runs on inside a clause; a core that awaits service stops its other welts; a step
that is done raises STEP when nothing of it is in flight; a watch is armed and disarmed. -/
def Sys2Proof.Claims.stopsAndWatches : Prop :=
  ∀ (s : State) (w core : Nat) (slot : BitVec 2) (watch : Watch), w < s.welts.length → core < 192 →
    let x := s.weltAt w
    (∀ hs, x.halt = .coming hs → x.ended = false →
      (x.atBoundary = true ∨ x.wait ≠ .none ∨ x.live = 0 → ∃ u, exec (.siblingStop w) s = .next u ∧ (∀ l, u.getByte l = s.getByte l) ∧
        (∀ i, i ≠ w → u.weltAt i = s.weltAt i) ∧ (u.weltAt w).halt = .stopped ∧ (u.weltAt w).lanes = x.lanes ∧
        (u.weltAt w).w = x.w ∧ (u.weltAt w).m = x.m ∧
        ((∀ r ∈ hs, ∀ m, r.kind ≠ .sibling m) → (u.weltAt w).traps = x.traps) ∧
        ∀ r ∈ hs, ∀ m ≤ 2, r.kind = .sibling m → (∀ r' ∈ hs, r'.kind = .sibling m → r' = r) →
          ((u.weltAt w).trap m).tcause = 0 ∧ ((u.weltAt w).trap m).tlanes = 0 ∧
          ((u.weltAt w).trap m).tpcv = x.nextLane.pc.setWidth 64 ∧ ((u.weltAt w).trap m).tsw.getLsbD 9 = true ∧
          (r.n < 256 → field ((u.weltAt w).trap m).skid 56 8 = r.n) ∧
          field ((u.weltAt w).trap m).skid 0 56 = field r.at_ 0 56) ∧
      (x.atBoundary = false → x.wait = .none → x.live ≠ 0 → exec (.siblingStop w) s = .next s)) ∧
    (x.halt = .none → exec (.siblingStop w) s = .next s) ∧
    (s.inService core = false → exec (.coreStall core) s = .next s) ∧
    (s.inService core = true → eventGives s (.coreStall core) fun u => ∀ i < s.welts.length,
      (s.weltAt i).wg ∈ s.wgsOn core → (s.weltAt i).ended = false → (s.weltAt i).inHandler = [] →
      (u.weltAt i).halt ≠ .none) ∧
    (x.stepDone = false → exec (.singleStepComplete w) s = .next s) ∧
    (x.stepDone = true → x.ended = false → (∀ c ∈ x.colls, c.wait = .none) →
      (x.flights ≠ [] → exec (.singleStepComplete w) s = .next (s.post (.singleStepComplete w))) ∧
      (x.flights = [] → exec (.singleStepComplete w) s = .next (s.raiseIn w
        { cause := .step, lanes := x.stepLanes, pc := x.stepPc, depth := some x.stepDepth }))) ∧
    let armed (u : State) (v : Option Watch) : Prop := (∀ k, k ≠ core → u.coreAt k = s.coreAt k) ∧
      ∀ k < 4, (u.coreAt core).watches.toList.getD k none =
        if k = slot.toNat then v else (s.coreAt core).watches.toList.getD k none
    eventGives s (.watchArm core slot watch) (fun u => armed u (some watch)) ∧
    eventGives s (.watchDisarm core slot) fun u => armed u none

/-! ### The scheduler -/

/-- R26, R310, R314-R316, R320, R336, R337, R441: the scheduler's events: dispatch starts a workgroup with zero
registers at its launch's entry, gangs wait and fail as R314 says, a move and a switch begin, a launch ends with the
word of R320, a broken one with its saved workgroups, cores gate and wake, and a hang is told to the management plane in
flits of eight words. Which unit goes first where the spec leaves it open, that a gang whose candidate is empty fails, and what
a broken launch does with saved workgroups are the model's choice (logs 30, 32). -/
def Obligations.SchedulerEvents : Prop :=
  ∀ (s : State) (l core : Nat), core < 192 →
    let x := s.launchAt l
    (s.comesFirst l core = false → exec (.workgroupDispatch l core) s = .next s) ∧
    (∀ k, s.comesFirst l core = true → s.placeAt l core = some (k, [core]) → x.gangSize = 1 → s.wgOf l k = none →
      x.binding = 0 → (∀ g ∈ s.wgs, g.launch = l → g.gang ≠ k) → ∃ u g, exec (.workgroupDispatch l core) s = .next u ∧ u.wgs = s.wgs ++ [g] ∧ g.launch = l ∧
        g.logical = k ∧ g.core = core ∧ g.st = .resident ∧ u.mem = s.mem ∧ u.host = s.host ∧
        (∀ i < s.welts.length, u.weltAt i = s.weltAt i) ∧ u.welts.length = s.welts.length + x.weltCount ∧
        ∀ i < x.weltCount, let w := u.weltAt (s.welts.length + i)
          w.wg = s.wgs.length ∧ w.index = i ∧ w.level = 0 ∧ w.fpctl = 0 ∧ (∀ r, w.rdW r = 0) ∧ (∀ m < 16, w.m.toList.getD m 0 = 0) ∧
          ∀ n < 32, let e := w.lane n
            (∀ r < 128, e.rd r = 0 ∧ e.full.getLsbD r = true) ∧ e.h = false ∧ e.depth = 0 ∧
            (if n < (if x.legacy then 16 else 32) then e.x = false ∧ e.pc = x.entry else e.x = true)) ∧
    (l < s.launches.length →
      (if s.patienceOver l false && x.candidate.isNone && s.stuck l
        then eventGives s (.gangCandidateReserve l) fun u => u.launchAt l = { x with
          candidate := (s.bestCluster l).bind fun c => (s.nextUnit l).map fun k => (c, k) }
        else exec (.gangCandidateReserve l) s = .next s) ∧
      (x.candidate = none → exec (.gangPatienceExpiry l) s = .next s) ∧
      (∀ c, x.candidate = some c → s.patienceOver l true = false → exec (.gangPatienceExpiry l) s = .next s) ∧
      (∀ c, x.candidate = some c → s.patienceOver l true = true → s.stuck l = true →
        (∀ g ∈ s.occupants c.1, (s.launchOf (s.wgAt g)).ctx = x.ctx) → eventGives s (.gangPatienceExpiry l) fun u =>
          (u.launchAt l).flags.unplaced = true ∧ (u.launchAt l).candidate = none ∧ .launchEnd l ∈ u.agenda) ∧
      (x.broken = true → ∃ u, exec (.launchEnd l) s = .next u ∧ ∀ g < s.wgs.length, (s.wgAt g).launch = l →
        (u.wgAt g).st ≠ .saved) ∧
      let rest : Prop := x.broken = false ∨ ∀ g < s.wgs.length, (s.wgAt g).launch = l → (s.wgAt g).st ≠ .saved
      (rest → x.join = none → s.launchOver l = false → exec (.launchEnd l) s = .next s) ∧
      (rest → x.join = none → s.launchOver l = true → x.host = false →
        ∃ u j, exec (.launchEnd l) s = .next u ∧ (u.launchAt l).join = some j ∧
          (x.flags.unplaced = true → j = 0x3B04) ∧
          (x.flags.unplaced = false → x.flags.cancelled = true ∨ s.boxLost l = true → j = 3) ∧
          (x.flags.unplaced = false → x.flags.cancelled = false → s.boxLost l = false →
            (∀ c, x.flags.killed = some c → j = BitVec.ofNat 64 (2 + 2 ^ 8 * c.toNat)) ∧
            (∀ c, x.flags.killed = none → x.flags.faulted = some c → j = BitVec.ofNat 64 (1 + 2 ^ 8 * c.toNat)) ∧
            (x.flags.killed = none → x.flags.faulted = none → j = 0)))) ∧
    (∀ g, g < s.wgs.length → (s.wgAt g).moving = none →
      ((s.wgAt g).leaving = true ∨ s.mayMove g core = false → exec (.workgroupMove g core) s = .next s) ∧
      ((s.wgAt g).leaving = false → s.mayMove g core = true →
        (∀ c ∈ s.copies, c.wg ∈ s.movers g → c.done = true) → eventGives s (.workgroupMove g core) fun u =>
          (∀ k ∈ s.movers g, (u.wgAt k).moving = some core ∧ (u.wgAt k).core = (s.wgAt k).core) ∧
            .workgroupMove g core ∈ u.agenda)) ∧
    (∀ c, c < s.ctxs.length → (∀ g ∈ s.wgs, g.vacating = false) → (s.coreAt core).slicedOut = some c →
      ∃ u, exec (.timeSliceExpiry c core) s = .next u ∧ (u.ctxAt c).charged core = 0 ∧
        (u.coreAt core).slicedOut = none) ∧
    (∀ c, c < s.ctxs.length → (∀ g ∈ s.wgs, g.vacating = false) → (s.coreAt core).slicedOut ≠ some c →
      ((s.ctxAt c).charged core < (s.ctxAt c).slice → exec (.timeSliceExpiry c core) s = .next s) ∧
      ((s.ctxAt c).slice ≤ (s.ctxAt c).charged core → s.othersWait c core = false →
        (s.othersReady c core = true → exec (.timeSliceExpiry c core) s = .next s) ∧
        (s.othersReady c core = false →
          eventGives s (.timeSliceExpiry c core) fun u => (u.ctxAt c).charged core = 0)) ∧
      ((s.ctxAt c).slice ≤ (s.ctxAt c).charged core → s.othersWait c core = true →
        eventGives s (.timeSliceExpiry c core) fun u => .timeSliceExpiry c core ∈ u.agenda ∧
          (u.coreAt core).slicedOut = some c ∧
          ∀ g ∈ s.sliceWgs c core, (u.wgAt g).leaving = true)) ∧
    (if s.gateDue core then eventGives s (.coreClockGate core) fun u => (u.coreAt core).gate = .clock s.now
      else exec (.coreClockGate core) s = .next s) ∧
    (∀ t, (s.coreAt core).gate = .clock t → t + 65536 ≤ s.now →
      (s.coreWaits core = true → eventGives s (.corePowerGate core) fun u => (u.coreAt core).gate = .power) ∧
      (s.coreWaits core = false → exec (.corePowerGate core) s = .next s)) ∧
    ((s.coreAt core).gate = .on → exec (.corePowerGate core) s = .next s) ∧
    (eventGives s (.coreWake core) fun u => (u.coreAt core).gate = .on ∧ ∀ k, k ≠ core → u.coreAt k = s.coreAt k) ∧
    (s.hungWgs core = [] → exec (.hang core) s = .next s) ∧
    (∀ g, s.hungWgs core = [g] → ∃ u more, exec (.hang core) s = .next u ∧ (u.coreAt core).timerStart = s.now ∧
      u.mgmtOut = s.mgmtOut ++ [BitVec.ofNat 64 (2 ^ 56), BitVec.ofNat 64 (s.ctxAt (s.launchOf (s.wgAt g)).ctx).part,
        BitVec.ofNat 64 (s.ctxAt (s.launchOf (s.wgAt g)).ctx).num.toNat, BitVec.ofNat 64 (s.launchOf (s.wgAt g)).seq,
        BitVec.ofNat 64 (s.wgAt g).logical, 0, 0, 0] :: more ∧ more.length = (2 * (s.liveWelts g).length + 7) / 8 ∧
      ∀ m ∈ more, m.length = 8)

/-! ### Coherence, the host, management -/

/-- R14, R235, R236, R404, R405: a miss starts a walk, where one of the 64 of its quarter is free, whose end fills the TLB;
a first access gives a page its class and another core's makes it shared; an eviction of a dirty line sends a write-back
under the line's version, which the home takes if that version stands; a record dropped makes its page shared; none of these
changes a byte. -/
def Sys2Proof.Claims.coherenceEvents : Prop :=
  ∀ (s : State) (core ctx page line k : Nat) (va : W64),
    let q := quarterOf core
    let a := va.toNat
    (field va 52 12 ≠ 0 ∨ 192 ≤ core ∨ (s.regionAt ctx a).isSome = true → exec (.pageWalk core ctx va) s = .next s) ∧
    (field va 52 12 = 0 → core < 192 → s.regionAt ctx a = none → s.tlbHit core ctx a = none →
      (s.tlb2Hit q ctx a = none → s.walkOf q ctx a = none → 64 ≤ (s.walks.filter fun w => w.quarter == q).length →
        exec (.pageWalk core ctx va) s = .next (s.post (.pageWalk core ctx va))) ∧
      (∀ t, s.tlb2Hit q ctx a = some t → s.walkOf q ctx a = none → eventGives s (.pageWalk core ctx va) fun u =>
        (∃ b, (⟨core, ctx, a / t.size * t.size, t.size, t.leaf, b⟩ : Tlb) ∈ u.tlb) ∧ u.tlb2 = s.tlb2 ∧ u.walks = s.walks) ∧
      (s.tlb2Hit q ctx a = none → s.walkOf q ctx a = none → (s.walks.filter fun w => w.quarter == q).length < 64 →
        eventGives s (.pageWalk core ctx va) fun u =>
        u.walks = ⟨q, ctx, a / 65536, s.walkEnd ctx a⟩ :: s.walks ∧ .pageWalk core ctx va ∈ u.agenda ∧
          u.tlb = s.tlb ∧ u.tlb2 = s.tlb2) ∧
      (∀ w, s.walkOf q ctx a = some w → ∀ r, s.leafOf (some core) ctx a = r →
        eventGives s (.pageWalk core ctx va) fun u => w ∉ u.walks ∧ (∀ e ∈ s.tlb, e ∈ u.tlb) ∧ match r with
          | .error _ => u.tlb = s.tlb ∧ u.tlb2 = s.tlb2
          | .ok (size, leaf) => (∃ b, (⟨core, ctx, a / size * size, size, leaf, b⟩ : Tlb) ∈ u.tlb) ∧
            (s.tlb2Hit q ctx a = none → (⟨q, ctx, a / size * size, size, leaf, false⟩ : Tlb) ∈ u.tlb2))) ∧
    (core < 192 → physExists (65536 * page) = true → (s.frameOf (65536 * page)).isSome = true →
      let cls (u : State) : Option PageClass := (u.pageRec (65536 * page)).map PageRec.cls
      (cls s = none → eventGives s (.pageMiss core page) fun u =>
        cls u = some (if q = homeOf (65536 * page) then .priv core else .shared)) ∧
      (∀ c, cls s = some (.priv c) → eventGives s (.pageMiss core page) fun u =>
        cls u = some (if c = core then .priv core else .shared)) ∧
      (cls s = some .shared → eventGives s (.pageMiss core page) fun u => cls u = some .shared) ∧
      (cls s = some .shared ∨ cls s = none → exec (.pageRecordDrop page) s = .next s) ∧
      ∀ c, cls s = some (.priv c) → eventGives s (.pageRecordDrop page) fun u => cls u = some .shared ∧
        ∀ p, s.pageRec (65536 * page) = some p → ∀ x ∈ u.cached, x.core = c → lineIn p.base p.size x.line = true →
          x.dirty = false ∧ x.excl = false ∧ c ∈ (u.dirLine x.line).sharers) ∧
    (s.writeBacks[k]? = none → exec (.writeBackArrival k) s = .next s) ∧
    (∀ b, s.writeBacks[k]? = some b →
      let d := s.dirLine b.line
      let current : Prop := d.owner = some b.core ∧ d.version = b.version ∧ s.lineOf b.core b.line = none
      eventGives s (.writeBackArrival k) fun u => u.writeBacks = s.writeBacks.eraseIdx k ∧
        (current → u.dirLine b.line = { d with owner := none }) ∧ (¬current → u.dir = s.dir)) ∧
    (noPartials s →
      let n : LineKey := (0, 0, line)
      (s.lineOf core n = none → exec (.lineEviction core line) s = .next s) ∧
      ∀ c, s.lineOf core n = some c → (∀ b, c.block = some b → exec (.lineEviction core line) s = .next s) ∧
        (c.block = none → eventGives s (.lineEviction core line) fun u =>
          (∀ x, x ∈ u.cached ↔ x ∈ s.cached ∧ x ≠ c) ∧
          (c.dirty = true → u.writeBacks = s.writeBacks ++ [⟨core, n, (s.dirLine n).version⟩] ∧ u.dir = s.dir) ∧
          (c.dirty = false → u.writeBacks = s.writeBacks ∧ (u.dirLine n).owner ≠ some core ∧
            core ∉ (u.dirLine n).sharers ∧ (u.dirLine n).version = (s.dirLine n).version)))

/-- R228, R398, R399, R414, R415, R433, R439-R441, R445, R449-R451: bring-up, partitions and contexts, the data plane, link
loss, resets, errors, attestation and the security version. -/
def Sys2Proof.Claims.hostAndManagement : Prop :=
  ∀ s : State,
    let fails (i : Instr) (step : Nat) : Prop := ∃ m : List W64, m.length = 8 ∧ m.getD 1 0 = BitVec.ofNat 64 step ∧
      exec i s = .next { s with bringup := if s.ctxs = [] then .recovery else s.bringup, mgmtOut := s.mgmtOut ++ [m] }
    let onward (b : Bringup) : Prop := exec (.bringUp true) s = .next (({ s with bringup := b } : State).post (.bringUp true))
    (s.bringup = .reset → ∀ ok,
      (ok = true → s.secVersion.toNat ≤ Config.fwVersion.toNat → onward .firmware) ∧
      (ok = false ∨ Config.fwVersion.toNat < s.secVersion.toNat →
        ∃ u m, exec (.bringUp ok) s = .next u ∧ u.bringup = .recovery ∧ u.mgmtOut = s.mgmtOut ++ [m])) ∧
    (s.bringup = .firmware → onward .stacks ∧ fails (.bringUp false) 2) ∧
    (s.bringup = .stacks → onward .ports ∧ fails (.bringUp false) 3) ∧
    (s.bringup = .ports → exec (.bringUp true) s = .next { s with bringup := .up } ∧ fails (.bringUp false) 4) ∧
    (s.bringup = .up ∨ s.bringup = .recovery → ∀ ok, exec (.bringUp ok) s = .next s) ∧
    (∃ u, exec .moduleReset s = .next u ∧ u.bringup = .reset ∧ u.mem = [] ∧ u.parts = [] ∧ u.ctxs = [] ∧
      u.launches = [] ∧ u.wgs = [] ∧ u.welts = [] ∧ u.phasers = [] ∧ u.locks = [] ∧ u.regions = [] ∧ u.copies = [] ∧
      u.tlb = [] ∧ u.host = s.host ∧ u.fused = s.fused ∧ u.secVersion = s.secVersion ∧ u.mgmtOut = s.mgmtOut) ∧
    (s.bringup ≠ .up → ∀ (p : PartSpec) (c : CtxSpec), exec (.partitionCreate p) s = .next s ∧
      exec (.contextCreate c) s = .next s) ∧
    (s.bringup = .up → ∀ p : PartSpec, (s.partOk p = false → fails (.partitionCreate p) 5) ∧
      (s.partOk p = true → p.imageVerifies = true → s.secVersion.toNat ≤ p.image.toNat →
        eventGives s (.partitionCreate p) fun u => ∃ q, u.parts = s.parts ++ [q] ∧ q.num = p.num.toNat ∧
          q.clusters = p.clusters ∧ q.engines = p.engines ∧ q.live = true ∧ q.image = p.image ∧
          q.phaserShare = p.phaserShare ∧ q.lockShare = p.lockShare ∧ q.overBase = p.overBase ∧ q.overSize = p.overSize ∧
          q.tvec.getLsbD 0 = true ∧ q.tvec.getLsbD 1 = false ∧ field q.tvec 2 46 = field p.tvec 2 46 ∧
          ∀ i < 4, q.coresOn i ≠ 0 → 64 * q.coresOn i ≤ q.quota i ∧ q.quota i ≤ 256 * q.coresOn i) ∧
      (s.partOk p = true → p.imageVerifies = false ∨ p.image.toNat < s.secVersion.toNat →
        eventGives s (.partitionCreate p) fun u => u.parts = s.parts ∧ u.bringup = .recovery ∧
          u.mgmtOut.length = s.mgmtOut.length + 1) ∧
      (s.partOk p = true → p.clusters ≠ [] ∧ p.clusters.Nodup ∧ (∀ c ∈ p.clusters, c < 52 ∧ s.enabled c = true) ∧
        (∀ c ∈ p.clusters, ∃ e ∈ p.engines, e.1 = c / 13) ∧
        ((s.parts.filter (·.live)).map (·.phaserShare)).sum + p.phaserShare ≤ 16384 ∧
        ((s.parts.filter (·.live)).map (·.lockShare)).sum + p.lockShare ≤ 65536)) ∧
    (s.bringup = .up → ∀ c : CtxSpec,
      let fits : Prop := (∃ q ∈ s.parts, q.live = true ∧ q.num = c.part.toNat) ∧ c.endpoints.length ≤ 256 ∧
        (∀ e ∈ c.endpoints, e.port < 32) ∧ ∀ d, c.detArea = some d → d.1 % 65536 = 0 ∧ d.2 % 65536 = 0
      (¬fits → fails (.contextCreate c) 6) ∧
      (fits → (s.ctxs.filter fun x => !x.ended).length < 4096 →
        eventGives s (.contextCreate c) fun u => ∃ x, u.ctxs = s.ctxs ++ [x] ∧
          (∀ y ∈ s.ctxs, y.ended = true ∨ y.num ≠ x.num) ∧ x.root = c.root ∧
          x.p1 = c.p1.getD (2 ^ 20) ∧ x.p2 = c.p2.getD (2 ^ 24) ∧ x.hangAt = c.hangAt.getD (2 ^ 32) ∧
          x.woundPatience = c.woundPatience.getD (2 ^ 22) ∧ x.slice = c.slice.getD (2 ^ 24) ∧
          (∀ i, i ∈ x.images ↔ i ∈ c.images ∧ i.coreRoles ≤ 4 ∧ i.copyRoles ≤ 24 ∧ i.bankRoles ≤ 32) ∧
          x.seed = [c.seed] ∧ x.part = c.part.toNat ∧ x.nextSeq = 1 ∧ x.nextCmd = 1 ∧ x.issued = 0 ∧
          x.matrix = 0x010329132F0F5FFF ∧ x.ended = false ∧ x.ending = false)) ∧
    (∀ (c : Nat) (cause : W64), c < s.ctxs.length →
      ((s.ctxAt c).ended = true → exec (.contextKill c cause) s = .next s) ∧
      ((s.ctxAt c).ended = false → (s.ctxAt c).awaitSync = true → ∃ u, exec (.contextKill c cause) s = .next u ∧
        (u.ctxAt c).ended = false ∧ .contextKill c cause ∈ u.agenda ∧ u.sent = s.sent) ∧
      ((s.ctxAt c).ended = false → (s.ctxAt c).awaitSync = false → (∀ x ∈ s.launches, x.ctx ≠ c) →
        (∀ g ∈ s.wgs, (s.launchOf g).ctx ≠ c ∨ g.st = .ended) → s.regions = [] →
        ∃ u, exec (.contextKill c cause) s = .next u ∧ (u.ctxAt c).ended = true ∧ u.mem = s.mem ∧
          (∀ p ∈ u.phasers, p.ctx ≠ c) ∧ (∀ r ∈ u.ranges, r.ctx = c → r.live = false) ∧
          (∀ k ∈ u.locks, k.ctx = c → k.holders = [] ∧ k.queue = []) ∧
          u.sent = s.sent ++ [((s.ctxAt c).control,
            completionFlit 4 0 ((s.ctxAt c).issued + 1) (s.ctxAt c).num.toNat 0 0 0)])) ∧
    (∀ (n : Nat) (ok : Bool), (s.parts.find? (fun p => p.live && p.num == n) = none →
        exec (.partitionReset n ok) s = .next s) ∧
      ∀ p, s.parts.find? (fun p => p.live && p.num == n) = some p →
        ((∀ x ∈ s.ctxs, x.part ≠ n ∨ x.ended = true) →
          (ok = true → s.secVersion.toNat ≤ p.image.toNat → exec (.partitionReset n ok) s = .next s) ∧
          (ok = false ∨ p.image.toNat < s.secVersion.toNat → eventGives s (.partitionReset n ok) fun u =>
            u.bringup = .recovery ∧ u.mgmtOut.length = s.mgmtOut.length + 1 ∧ (∀ q < 4, ∀ i < 48,
              countOf p.num ((u.ringAt q).at_ i) = 0) ∧
            ∀ c < 192, s.partOf c = some p → p.clusters.contains (s.clusterOf c) = true →
              (u.coreAt c).tokens = 0)) ∧
        ∀ c, c < s.ctxs.length → (s.ctxAt c).part = n → (s.ctxAt c).ended = false → (s.ctxAt c).ending = false →
          eventGives s (.partitionReset n ok) fun u => (u.ctxAt c).ending = true ∧ .contextKill c 0 ∈ u.agenda ∧
            .partitionReset n ok ∈ u.agenda) ∧
    (∀ port : Nat, (eventGives s (.wormusPortRestore port) fun u => ∀ q, q ∈ u.lost ↔ q ∈ s.lost ∧ q ≠ port) ∧
      eventGives s (.wormusLinkLoss port) fun u => (∀ q, q ∈ u.lost ↔ q ∈ s.lost ∨ q = port) ∧
        ∀ c, c < s.ctxs.length → (s.ctxAt c).ended = false → (s.ctxAt c).controlPort = some port →
          (u.ctxAt c).awaitSync = true ∧ ((s.ctxAt c).control, completionFlit 3 9 (s.ctxAt c).issued
            (s.ctxAt c).num.toNat ((s.ctxAt c).nextCmd - 1) 0 0) ∈ u.sent) ∧
    (∀ (c n : Nat) (va : W64) (bs : List Byte) (ls : List Loc), noPartials s →
      let xl (need : Need) (n : Nat) := (List.range n).mapM fun i => s.translate none c 0 need (va + BitVec.ofNat 64 i)
      (memoriesWf s → xl .store bs.length = .ok ls → (ls.map cellOf).Nodup → (∀ l ∈ ls, ¬inRegion l) →
        ∃ u, exec (.hostDataWrite c va bs) s = .next u ∧ u.dataOut = s.dataOut ++ [(c, true, [])] ∧
          (∀ i (h : i < ls.length), u.getByte ls[i] = bs.getD i 0 ∧ u.homeByte ls[i] = bs.getD i 0) ∧
          (∀ l, (∀ b ∈ ls, cellOf l ≠ cellOf b) → u.getByte l = s.getByte l) ∧
          ∀ i, sameRegisters (s.weltAt i) (u.weltAt i)) ∧
      (∀ e, xl .store bs.length = .error e →
        exec (.hostDataWrite c va bs) s = .next { s with dataOut := s.dataOut ++ [(c, false, [])] }) ∧
      (xl .load n = .ok ls → (∀ l ∈ ls, s.badLoc l = false) →
        eventGives s (.hostDataRead c va n) fun u => u.dataOut = s.dataOut ++ [(c, true, ls.map s.hostByte)]) ∧
      (xl .load n = .ok ls → (∃ l ∈ ls, s.badLoc l = true) →
        exec (.hostDataRead c va n) s = .next { s with dataOut := s.dataOut ++ [(c, false, [])] }) ∧
      (∀ e, xl .load n = .error e →
        exec (.hostDataRead c va n) s = .next { s with dataOut := s.dataOut ++ [(c, false, [])] })) ∧
    (∀ (c : Nat) (nonce : List Byte), c < s.ctxs.length → (s.ctxAt c).ended = false → nonce.length = 32 →
      ∃ r, exec (.attestationRequest c nonce) s = .next { s with mgmtOut := s.mgmtOut ++ [r] } ∧ r.length = 2103 ∧
        r.getD 0 0 = 1 ∧ r.getD 1 0 = Config.serial ∧ r.getD 2 0 = BitVec.ofNat 64 ((s.ctxAt c).part * 2 ^ 12 + (s.ctxAt c).num.toNat) ∧
        (∀ i < 4, r.getD (3 + i) 0 = wordAt nonce i) ∧
        (∀ i < 6, r.getD (13 + i) 0 = wordAt (sha384 (s.partNum (s.ctxAt c).part).imageBody) i) ∧
        (∀ i < 6, r.getD (19 + i) 0 = wordAt (sha384 ((s.ctxAt c).images.flatMap (·.body))) i) ∧
        r.getD 25 0 = BitVec.ofNat 64 (Config.fwVersion.toNat + (s.partNum (s.ctxAt c).part).image.toNat * 2 ^ 32) ∧
        r.getD 26 0 = 0) ∧
    (∀ (v : BitVec 32) (sig : List Byte),
      let raised : Prop := Config.commandVerifies v sig = true ∧ s.secVersion.toNat < v.toNat
      (raised → exec (.securityVersionRaise v sig) s = .next { s with secVersion := v }) ∧
      (¬raised → exec (.securityVersionRaise v sig) s = .next s)) ∧
    (∀ (a c : Nat), c < s.ctxs.length → (s.ctxAt c).ended = false → eventGives s (.uncontainedError a [c]) fun u =>
      .contextKill c 0x28 ∈ u.agenda ∧ u.mgmtOut = s.mgmtOut ++ [[BitVec.ofNat 64 (3 * 2 ^ 56), BitVec.ofNat 64 a, 1,
        BitVec.ofNat 64 (s.ctxAt c).num.toNat, 0, 0, 0, 0]]) ∧
    ∀ counts : List W64,
      let cs := (List.range 16).map fun i => s.corrected.getD i 0 + (counts.getD i 0).toNat
      (s.countsDue = false → exec (.correctedErrorReport counts) s = .next { s with corrected := cs }) ∧
      (s.countsDue = true → ∃ m : List W64, m.length = 8 ∧ m.getD 0 0 = BitVec.ofNat 64 (4 * 2 ^ 56) ∧
        (∀ i < 16, field (m.getD (1 + i / 4) 0) (16 * (i % 4)) 16 = min (cs.getD i 0) 65535) ∧
        exec (.correctedErrorReport counts) s = .next { s with
          mgmtOut := s.mgmtOut ++ [m], corrected := List.replicate 16 0, countedAt := s.now })

/-! ### Statements in parts -/

/-- R143, R146, R53: what IDENT gives, and how RNG draws. -/
def Obligations.IdentityAndRandomNumbers : Prop := Claims.identGivesPlace ∧ Claims.rngDrawsPhilox

/-- R132, R133: the uniform forms with two sources, one source or an immediate. -/
def Obligations.UniformArithmetic : Prop := Claims.uniformTwoSource ∧ Claims.uniformOneSource

/-- R130: the bit operations and the shifts of the X form. -/
def Obligations.VectorTypedBitsAndShifts : Prop := Claims.vectorTypedBits ∧ Claims.vectorTypedShifts

/-- R130, R131, R134, R136: what CMP and the mask instructions write. -/
def Obligations.MaskResults : Prop := Claims.compareWritesMask ∧ Claims.maskInstructions

/-- R267, R270, R273-R275, R277: what each store writes, and where. That stores take their place in the coherence order as
they issue is the model's choice (log 13). -/
def Obligations.StoresWriteTheirBytes : Prop := Claims.storesWriteTheirBytes ∧ Claims.compressStorePacks

/-- R170-R174, R179, R183, R189, R193: handles, and what MWAIT waits for and delivers. -/
def Obligations.HandlesAndWaits : Prop := Claims.reservationHandles ∧ Claims.matrixWaits

/-- R23, R381-R393, R425-R431: tokens, quotas, slices, heat, the clock, and what stops and watches cores. When a
cycle passes and when held tokens return are the model's choice (log 33). -/
def Obligations.CoreEvents : Prop := Claims.powerAndClock ∧ Claims.stopsAndWatches

/-- R228, R235, R236, R398, R399, R405, R414, R415, R433, R439-R441, R445, R449-R451: coherence, the host's data
plane and the management plane. The TLB's policy, what follows a refused image or a reset beyond the spec's words, the
numbers of contexts, the layouts of flits that R451 leaves open, the digests of the attestation report (SHA-384) and what a
signed command verifies are the model's choice (logs 12, 14, 15, 36). -/
def Obligations.DeviceEvents : Prop := Claims.coherenceEvents ∧ Claims.hostAndManagement

/-! ### The whole machine -/

/-- R79-R93: for every well-formed instruction with an encoding, with every operand at every value that it admits, the
decoder reads back from its bytes the instruction itself. -/
def Obligations.DecodeEncode : Prop :=
  ∀ i : Instr, i.wellFormed = true → encode i ≠ [] → decodeBytes ((encode i).flatMap bytesOfWord) = .ok i

/-- Every step keeps every memory in its canonical form, from every state that has it: a run's memories are equal data
when they are equal memories. -/
def Obligations.StepKeepsMemories : Prop :=
  ∀ s t : State, memoriesWf s → step s = .next t → memoriesWf t

/-- R449, R450: what reset leaves: bring-up not begun, every record gone, and every memory in its canonical form.
That a byte which nothing has written reads as zero is the model's choice (log 2). -/
def Obligations.ResetState : Prop :=
  memoriesWf State.reset ∧ State.reset.bringup = .reset ∧ State.reset.parts = [] ∧ State.reset.ctxs = [] ∧
    State.reset.launches = [] ∧ State.reset.welts = [] ∧ ∀ a, cellRead State.reset.mem a = 0

/-- A welt's turn runs the instruction that its fetch decodes: when the word at its pc, inside a clause or behind a
well-formed header at the pc, fits its clause and decodes to `i` of which MRD and MWR name no odd pair (R81), when no fetch
watch matches, no wound is due at a segment start and no ratio change holds a copy back, the step is exec of `i` in the
state whose turn has passed, with the line of the word fetched whole and a stitch that may not hold `i` split. An event's
turn runs the event. Whose turn it is, and that lines are fetched as they are needed, is the model's choice (logs 1, 13). -/
def Obligations.StepRunsDecoded : Prop :=
  ∀ s : State,
    let ready := s.noteReady.noteWide
    let moved : State := { ready with turn := Config.nextTurn s.tick, tick := s.tick + 1 }
    (∀ (k : Nat) (c : Cls) (n : Nat) (w x : W32) (i : Instr), ready.pick = .welt k →
      let t := moved.choose k
      let runs (h : State) : Prop := h.fetchWord h.cw h.cw.level h.cw.pc = .ok w →
        (hasSecondWord w = true → h.fetchWord h.cw h.cw.level (h.cw.pc + 4) = .ok x) →
        h.cw.oddPair i = false → wordFitsClass w c = true → (c = .control → n = 1) → decode w (if hasSecondWord w then x else 0) = .ok i →
        (c = .copy → ((h.coreAt h.cg.core).slices.toList.getD h.cw.slice Slice.init).pending = none) →
        h.fetchWatched h.cw.pc = false → (h.cw.atStart = true → h.cw.woundDue = false) →
        step s = exec i (if stitchHolds w c then h else h.splitStitch h.cur)
      (t.cw.lead.pos = .inside c n → runs t.holdInstr) ∧
      ∀ y, t.cw.lead.pos = .start ∨ t.cw.lead.pos = .cont →
        let f := t.holdCode t.cw.pc
        f.fetchWord f.cw f.cw.level f.cw.pc = .ok y → (Header.ofWord y).n ≠ 0 → (Header.ofWord y).reserved = 0 →
        ((Header.ofWord y).start = true ↔ t.cw.lead.pos = .start) → c = (Header.ofWord y).cls → n = (Header.ofWord y).n →
        runs (f.setCw (f.cw.pastHeader (Header.ofWord y))).holdInstr) ∧
    (∀ k i, ready.pick = .event k → ready.agenda[k]? = some i →
      step s = exec i { moved with agenda := ready.agenda.eraseIdx k }) ∧
    ∀ i rest, ready.pick = .input → ready.inbox = i :: rest → step s = exec i { moved with inbox := rest }

/-- R78-R92, R129, R158, R188, R268, R281, R289, R412: words that the spec prints, one or more of each family of the
opcode map, and the instructions that it says they are. -/
def Obligations.SpecWords : Prop :=
  decode 0x00142028 0 = .ok (.add 5 4 2 true false 0) ∧
  decode 0x1E0C1010 0 = .ok (.shlImm 3 2 2 false 0) ∧
  decode 0x22082050 0x000C0002 = .ok (.cmp 2 4 5 false false 0 .s32 2) ∧
  decode 0x46243000 0x00100000 = .ok (.scanExc 9 6 false 0 .s32 0) ∧
  decode 0x60082060 0x106A0100 = .ok (.ffma 2 4 6 false false 0 8 false .f32 0 false false false false true false) ∧
  decode 0x86406060 0x1C0A0000 = .ok (.qnt 16 12 3 false 0 14 false .f32 0 0) ∧
  decode 0x90104060 0 = .ok (.ld 4 4 3 0 false 0) ∧
  decode 0x9210D049 0x00A90000 = .ok (.ldProbe 4 13 2 1 false 1 .f32 2 0 0) ∧
  decode 0xB0206048 0x12008000 = .ok (.atomAdd 8 6 2 1 false 0 9 false .s32 true 0) ∧
  decode 0xC000C000 0x1A100000 = .ok (.cpy 6 0 false false 13 false 0 1 0 0 0) ∧
  decode 0xC8040000 0x14E00000 = .ok (.mres 1 10 false .nx) ∧
  decode 0xDA79A008 0 = .ok (.rgstat 15 13 false) ∧
  decode 0xDE30A180 0 = .ok (.phreg 6 5 3 false) ∧
  decode 0xECB18110 0 = .ok (.lkup 22 12 2 false) ∧
  decode 0xF3FFEFF8 0 = .ok (.call 0x3FFDFF) ∧
  decode 0xF6000000 0 = .ok .nop ∧
  decode 0xFA00E008 0x00000001 = .ok (.swr 7 false 0 1) ∧
  decode 0xF8000010 0 = .ok .tret
end

