-- ==== Sys2Proof/Laws/Dispatch.lean ====
section
/-!
SUPPORT. The arms of `exec` as equations: each constructor runs its own meaning.
-/

namespace Sys2Proof.Machine

theorem exec_rngLand w n (s : State) :
    exec (.rngLand w n) s = execRngLand w n s := rfl
theorem exec_loadLand w n (s : State) :
    exec (.loadLand w n) s = execLoadLand w n s := rfl
theorem exec_farAtomic w n (s : State) :
    exec (.farAtomic w n) s = execFarAtomic w n s := rfl
theorem exec_hostAtomicLeaseTimeout w (s : State) :
    exec (.hostAtomicLeaseTimeout w) s = execHostAtomicLeaseTimeout w s := rfl
theorem exec_commutativeCombination ctx line (s : State) :
    exec (.commutativeCombination ctx line) s = execCommutativeCombination ctx line s := rfl
theorem exec_fenceComplete w (s : State) :
    exec (.fenceComplete w) s = execFenceComplete w s := rfl
theorem exec_copyLineLand k (s : State) :
    exec (.copyLineLand k) s = execCopyLineLand k s := rfl
theorem exec_copyFail k cause kind (s : State) :
    exec (.copyFail k cause kind) s = execCopyFail k cause kind s := rfl
theorem exec_cbSlotClaim k (s : State) :
    exec (.cbSlotClaim k) s = execCbSlotClaim k s := rfl
theorem exec_streamInstructionEffect w sn (s : State) :
    exec (.streamInstructionEffect w sn) s = execStreamInstructionEffect w sn s := rfl
theorem exec_matrixStep w sn (s : State) :
    exec (.matrixStep w sn) s = execMatrixStep w sn s := rfl
theorem exec_regionStatusReturn w n (s : State) :
    exec (.regionStatusReturn w n) s = execRegionStatusReturn w n s := rfl
theorem exec_refitCommit r (s : State) :
    exec (.refitCommit r) s = execRefitCommit r s := rfl
theorem exec_regionLineEvaluation r line (s : State) :
    exec (.regionLineEvaluation r line) s = execRegionLineEvaluation r line s := rfl
theorem exec_regionStore r off bytes (s : State) :
    exec (.regionStore r off bytes) s = execRegionStore r off bytes s := rfl
theorem exec_phaserWaitRelease w (s : State) :
    exec (.phaserWaitRelease w) s = execPhaserWaitRelease w s := rfl
theorem exec_barrierTimeout g (s : State) :
    exec (.barrierTimeout g) s = execBarrierTimeout g s := rfl
theorem exec_lockGrant k (s : State) :
    exec (.lockGrant k) s = execLockGrant k s := rfl
theorem exec_woundDelivery w (s : State) :
    exec (.woundDelivery w) s = execWoundDelivery w s := rfl
theorem exec_woundPatienceExpiry w (s : State) :
    exec (.woundPatienceExpiry w) s = execWoundPatienceExpiry w s := rfl
theorem exec_siblingStop w (s : State) :
    exec (.siblingStop w) s = execSiblingStop w s := rfl
theorem exec_coreStall core (s : State) :
    exec (.coreStall core) s = execCoreStall core s := rfl
theorem exec_singleStepComplete w (s : State) :
    exec (.singleStepComplete w) s = execSingleStepComplete w s := rfl
theorem exec_pageWalk core ctx va (s : State) :
    exec (.pageWalk core ctx va) s = execPageWalk core ctx va s := rfl
theorem exec_pageMiss core page (s : State) :
    exec (.pageMiss core page) s = execPageMiss core page s := rfl
theorem exec_writeBackArrival k (s : State) :
    exec (.writeBackArrival k) s = execWriteBackArrival k s := rfl
theorem exec_workgroupDispatch l core (s : State) :
    exec (.workgroupDispatch l core) s = execWorkgroupDispatch l core s := rfl
theorem exec_gangCandidateReserve l (s : State) :
    exec (.gangCandidateReserve l) s = execGangCandidateReserve l s := rfl
theorem exec_gangPatienceExpiry l (s : State) :
    exec (.gangPatienceExpiry l) s = execGangPatienceExpiry l s := rfl
theorem exec_workgroupMove g core (s : State) :
    exec (.workgroupMove g core) s = execWorkgroupMove g core s := rfl
theorem exec_timeSliceExpiry ctx core (s : State) :
    exec (.timeSliceExpiry ctx core) s = execTimeSliceExpiry ctx core s := rfl
theorem exec_launchEnd l (s : State) :
    exec (.launchEnd l) s = execLaunchEnd l s := rfl
theorem exec_tokenSpend core (s : State) :
    exec (.tokenSpend core) s = execTokenSpend core s := rfl
theorem exec_tokenReturn core (s : State) :
    exec (.tokenReturn core) s = execTokenReturn core s := rfl
theorem exec_coreHungry core (s : State) :
    exec (.coreHungry core) s = execCoreHungry core s := rfl
theorem exec_powerQuotaChange part q quota (s : State) :
    exec (.powerQuotaChange part q quota) s = execPowerQuotaChange part q quota s := rfl
theorem exec_sliceRatioChange core slice code (s : State) :
    exec (.sliceRatioChange core slice code) s = execSliceRatioChange core slice code s := rfl
theorem exec_sliceRatioTakesEffect core slice (s : State) :
    exec (.sliceRatioTakesEffect core slice) s = execSliceRatioTakesEffect core slice s := rfl
theorem exec_readGrantChange core slice grants (s : State) :
    exec (.readGrantChange core slice grants) s = execReadGrantChange core slice grants s := rfl
theorem exec_thermalThrottle q celsius (s : State) :
    exec (.thermalThrottle q celsius) s = execThermalThrottle q celsius s := rfl
theorem exec_thermalReset q celsius (s : State) :
    exec (.thermalReset q celsius) s = execThermalReset q celsius s := rfl
theorem exec_coreClockGate core (s : State) :
    exec (.coreClockGate core) s = execCoreClockGate core s := rfl
theorem exec_corePowerGate core (s : State) :
    exec (.corePowerGate core) s = execCorePowerGate core s := rfl
theorem exec_coreWake core (s : State) :
    exec (.coreWake core) s = execCoreWake core s := rfl
theorem exec_hang core (s : State) :
    exec (.hang core) s = execHang core s := rfl
theorem exec_uncontainedError addr ctxs (s : State) :
    exec (.uncontainedError addr ctxs) s = execUncontainedError addr ctxs s := rfl
theorem exec_correctedErrorReport counts (s : State) :
    exec (.correctedErrorReport counts) s = execCorrectedErrorReport counts s := rfl
theorem exec_launchCommand ep pkt (s : State) :
    exec (.launchCommand ep pkt) s = execLaunchCommand ep pkt s := rfl
theorem exec_cancel ep pkt (s : State) :
    exec (.cancel ep pkt) s = execCancel ep pkt s := rfl
theorem exec_seedCommand ep pkt (s : State) :
    exec (.seedCommand ep pkt) s = execSeedCommand ep pkt s := rfl
theorem exec_vacateCommand ep pkt (s : State) :
    exec (.vacateCommand ep pkt) s = execVacateCommand ep pkt s := rfl
theorem exec_kill ep pkt (s : State) :
    exec (.kill ep pkt) s = execKill ep pkt s := rfl
theorem exec_sync ep pkt (s : State) :
    exec (.sync ep pkt) s = execSync ep pkt s := rfl
theorem exec_unknownCommand ep pkt (s : State) :
    exec (.unknownCommand ep pkt) s = execUnknownCommand ep pkt s := rfl
theorem exec_wormusLinkLoss port (s : State) :
    exec (.wormusLinkLoss port) s = execWormusLinkLoss port s := rfl
theorem exec_wormusPortRestore port (s : State) :
    exec (.wormusPortRestore port) s = execWormusPortRestore port s := rfl
theorem exec_hostDataWrite ctx va bytes (s : State) :
    exec (.hostDataWrite ctx va bytes) s = execHostDataWrite ctx va bytes s := rfl
theorem exec_hostDataRead ctx va n (s : State) :
    exec (.hostDataRead ctx va n) s = execHostDataRead ctx va n s := rfl
theorem exec_partitionCreate spec (s : State) :
    exec (.partitionCreate spec) s = execPartitionCreate spec s := rfl
theorem exec_contextCreate spec (s : State) :
    exec (.contextCreate spec) s = execContextCreate spec s := rfl
theorem exec_contextKill ctx cause (s : State) :
    exec (.contextKill ctx cause) s = execContextKill ctx cause s := rfl
theorem exec_partitionReset part ok (s : State) :
    exec (.partitionReset part ok) s = execPartitionReset part ok s := rfl
theorem exec_moduleReset (s : State) :
    exec (.moduleReset) s = execModuleReset s := rfl
theorem exec_bringUp ok (s : State) :
    exec (.bringUp ok) s = execBringUp ok s := rfl
theorem exec_watchArm core slot watch (s : State) :
    exec (.watchArm core slot watch) s = execWatchArm core slot watch s := rfl
theorem exec_watchDisarm core slot (s : State) :
    exec (.watchDisarm core slot) s = execWatchDisarm core slot s := rfl
theorem exec_attestationRequest ctx nonce (s : State) :
    exec (.attestationRequest ctx nonce) s = execAttestationRequest ctx nonce s := rfl
theorem exec_securityVersionRaise ver sig (s : State) :
    exec (.securityVersionRaise ver sig) s = execSecurityVersionRaise ver sig s := rfl
theorem exec_unassignedOpcode hdr (s : State) :
    exec (.unassignedOpcode hdr) s = execUnassignedOpcode hdr s := rfl
theorem exec_phaserResultReturn w n (s : State) :
    exec (.phaserResultReturn w n) s = execPhaserResultReturn w n s := rfl
theorem exec_lineEviction core line (s : State) :
    exec (.lineEviction core line) s = execLineEviction core line s := rfl
theorem exec_pageRecordDrop page (s : State) :
    exec (.pageRecordDrop page) s = execPageRecordDrop page s := rfl
theorem exec_laceCycle (s : State) :
    exec (.laceCycle) s = execLaceCycle s := rfl
theorem exec_coherenceLeaseAnswer w granted (s : State) :
    exec (.coherenceLeaseAnswer w granted) s = execCoherenceLeaseAnswer w granted s := rfl
theorem exec_add d a b ta tb p (s : State) :
    exec (.add d a b ta tb p) s = execAdd d a b ta tb p s := rfl
theorem exec_sub d a b ta tb p (s : State) :
    exec (.sub d a b ta tb p) s = execSub d a b ta tb p s := rfl
theorem exec_mulLo d a b ta tb p (s : State) :
    exec (.mulLo d a b ta tb p) s = execMulLo d a b ta tb p s := rfl
theorem exec_mulHi d a b ta tb p (s : State) :
    exec (.mulHi d a b ta tb p) s = execMulHi d a b ta tb p s := rfl
theorem exec_min d a b ta tb p (s : State) :
    exec (.min d a b ta tb p) s = execMin d a b ta tb p s := rfl
theorem exec_max d a b ta tb p (s : State) :
    exec (.max d a b ta tb p) s = execMax d a b ta tb p s := rfl
theorem exec_and d a b ta tb p (s : State) :
    exec (.and d a b ta tb p) s = execAnd d a b ta tb p s := rfl
theorem exec_or d a b ta tb p (s : State) :
    exec (.or d a b ta tb p) s = execOr d a b ta tb p s := rfl
theorem exec_xor d a b ta tb p (s : State) :
    exec (.xor d a b ta tb p) s = execXor d a b ta tb p s := rfl
theorem exec_andn d a b ta tb p (s : State) :
    exec (.andn d a b ta tb p) s = execAndn d a b ta tb p s := rfl
theorem exec_shl d a b ta tb p (s : State) :
    exec (.shl d a b ta tb p) s = execShl d a b ta tb p s := rfl
theorem exec_shr d a b ta tb p (s : State) :
    exec (.shr d a b ta tb p) s = execShr d a b ta tb p s := rfl
theorem exec_sar d a b ta tb p (s : State) :
    exec (.sar d a b ta tb p) s = execSar d a b ta tb p s := rfl
theorem exec_rot d a b ta tb p (s : State) :
    exec (.rot d a b ta tb p) s = execRot d a b ta tb p s := rfl
theorem exec_addImm d a imm ta p (s : State) :
    exec (.addImm d a imm ta p) s = execAddImm d a imm ta p s := rfl
theorem exec_shlImm d a cnt ta p (s : State) :
    exec (.shlImm d a cnt ta p) s = execShlImm d a cnt ta p s := rfl
theorem exec_shrImm d a cnt ta p (s : State) :
    exec (.shrImm d a cnt ta p) s = execShrImm d a cnt ta p s := rfl
theorem exec_sarImm d a cnt ta p (s : State) :
    exec (.sarImm d a cnt ta p) s = execSarImm d a cnt ta p s := rfl
theorem exec_rotImm d a cnt ta p (s : State) :
    exec (.rotImm d a cnt ta p) s = execRotImm d a cnt ta p s := rfl
theorem exec_abs d a ta p (s : State) :
    exec (.abs d a ta p) s = execAbs d a ta p s := rfl
theorem exec_neg d a ta p (s : State) :
    exec (.neg d a ta p) s = execNeg d a ta p s := rfl
theorem exec_not d a ta p (s : State) :
    exec (.not d a ta p) s = execNot d a ta p s := rfl
theorem exec_clz d a ta p (s : State) :
    exec (.clz d a ta p) s = execClz d a ta p s := rfl
theorem exec_popc d a ta p (s : State) :
    exec (.popc d a ta p) s = execPopc d a ta p s := rfl
theorem exec_brev d a ta p (s : State) :
    exec (.brev d a ta p) s = execBrev d a ta p s := rfl
theorem exec_mov d a ta p (s : State) :
    exec (.mov d a ta p) s = execMov d a ta p s := rfl
theorem exec_addX d a b ta tb p ty (s : State) :
    exec (.addX d a b ta tb p ty) s = execAddX d a b ta tb p ty s := rfl
theorem exec_subX d a b ta tb p ty (s : State) :
    exec (.subX d a b ta tb p ty) s = execSubX d a b ta tb p ty s := rfl
theorem exec_mulLoX d a b ta tb p ty (s : State) :
    exec (.mulLoX d a b ta tb p ty) s = execMulLoX d a b ta tb p ty s := rfl
theorem exec_mulHiX d a b ta tb p ty (s : State) :
    exec (.mulHiX d a b ta tb p ty) s = execMulHiX d a b ta tb p ty s := rfl
theorem exec_mad d a b ta tb p c tc ty (s : State) :
    exec (.mad d a b ta tb p c tc ty) s = execMad d a b ta tb p c tc ty s := rfl
theorem exec_minX d a b ta tb p ty (s : State) :
    exec (.minX d a b ta tb p ty) s = execMinX d a b ta tb p ty s := rfl
theorem exec_maxX d a b ta tb p ty (s : State) :
    exec (.maxX d a b ta tb p ty) s = execMaxX d a b ta tb p ty s := rfl
theorem exec_absX d a ta p ty (s : State) :
    exec (.absX d a ta p ty) s = execAbsX d a ta p ty s := rfl
theorem exec_negX d a ta p ty (s : State) :
    exec (.negX d a ta p ty) s = execNegX d a ta p ty s := rfl
theorem exec_andX d a b ta tb p ty (s : State) :
    exec (.andX d a b ta tb p ty) s = execAndX d a b ta tb p ty s := rfl
theorem exec_orX d a b ta tb p ty (s : State) :
    exec (.orX d a b ta tb p ty) s = execOrX d a b ta tb p ty s := rfl
theorem exec_xorX d a b ta tb p ty (s : State) :
    exec (.xorX d a b ta tb p ty) s = execXorX d a b ta tb p ty s := rfl
theorem exec_andnX d a b ta tb p ty (s : State) :
    exec (.andnX d a b ta tb p ty) s = execAndnX d a b ta tb p ty s := rfl
theorem exec_notX d a ta p ty (s : State) :
    exec (.notX d a ta p ty) s = execNotX d a ta p ty s := rfl
theorem exec_shlX d a b ta tb p ty im cnt (s : State) :
    exec (.shlX d a b ta tb p ty im cnt) s = execShlX d a b ta tb p ty im cnt s := rfl
theorem exec_shrX d a b ta tb p ty im cnt (s : State) :
    exec (.shrX d a b ta tb p ty im cnt) s = execShrX d a b ta tb p ty im cnt s := rfl
theorem exec_sarX d a b ta tb p ty im cnt (s : State) :
    exec (.sarX d a b ta tb p ty im cnt) s = execSarX d a b ta tb p ty im cnt s := rfl
theorem exec_rotX d a b ta tb p ty im cnt (s : State) :
    exec (.rotX d a b ta tb p ty im cnt) s = execRotX d a b ta tb p ty im cnt s := rfl
theorem exec_clzX d a ta p ty (s : State) :
    exec (.clzX d a ta p ty) s = execClzX d a ta p ty s := rfl
theorem exec_popcX d a ta p ty (s : State) :
    exec (.popcX d a ta p ty) s = execPopcX d a ta p ty s := rfl
theorem exec_brevX d a ta p ty (s : State) :
    exec (.brevX d a ta p ty) s = execBrevX d a ta p ty s := rfl
theorem exec_bfe d a ta p ty pos len (s : State) :
    exec (.bfe d a ta p ty pos len) s = execBfe d a ta p ty pos len s := rfl
theorem exec_bfi d a b ta tb p ty pos len (s : State) :
    exec (.bfi d a b ta tb p ty pos len) s = execBfi d a b ta tb p ty pos len s := rfl
theorem exec_sel d a b ta tb p ty sl (s : State) :
    exec (.sel d a b ta tb p ty sl) s = execSel d a b ta tb p ty sl s := rfl
theorem exec_cmp md a b ta tb p ty cond (s : State) :
    exec (.cmp md a b ta tb p ty cond) s = execCmp md a b ta tb p ty cond s := rfl
theorem exec_movX d a ta p ty (s : State) :
    exec (.movX d a ta p ty) s = execMovX d a ta p ty s := rfl
theorem exec_addSat d a b ta tb p ty (s : State) :
    exec (.addSat d a b ta tb p ty) s = execAddSat d a b ta tb p ty s := rfl
theorem exec_subSat d a b ta tb p ty (s : State) :
    exec (.subSat d a b ta tb p ty) s = execSubSat d a b ta tb p ty s := rfl
theorem exec_movi d imm p (s : State) :
    exec (.movi d imm p) s = execMovi d imm p s := rfl
theorem exec_litVector d pr hi lit (s : State) :
    exec (.litVector d pr hi lit) s = execLitVector d pr hi lit s := rfl
theorem exec_uniformAdd d a b ta tb (s : State) :
    exec (.uniformAdd d a b ta tb) s = execUniformAdd d a b ta tb s := rfl
theorem exec_uniformSub d a b ta tb (s : State) :
    exec (.uniformSub d a b ta tb) s = execUniformSub d a b ta tb s := rfl
theorem exec_uniformMulLo d a b ta tb (s : State) :
    exec (.uniformMulLo d a b ta tb) s = execUniformMulLo d a b ta tb s := rfl
theorem exec_uniformMulHiS d a b ta tb (s : State) :
    exec (.uniformMulHiS d a b ta tb) s = execUniformMulHiS d a b ta tb s := rfl
theorem exec_uniformMulHiN d a b ta tb (s : State) :
    exec (.uniformMulHiN d a b ta tb) s = execUniformMulHiN d a b ta tb s := rfl
theorem exec_uniformMinS d a b ta tb (s : State) :
    exec (.uniformMinS d a b ta tb) s = execUniformMinS d a b ta tb s := rfl
theorem exec_uniformMinN d a b ta tb (s : State) :
    exec (.uniformMinN d a b ta tb) s = execUniformMinN d a b ta tb s := rfl
theorem exec_uniformMaxS d a b ta tb (s : State) :
    exec (.uniformMaxS d a b ta tb) s = execUniformMaxS d a b ta tb s := rfl
theorem exec_uniformMaxN d a b ta tb (s : State) :
    exec (.uniformMaxN d a b ta tb) s = execUniformMaxN d a b ta tb s := rfl
theorem exec_uniformAddSatS d a b ta tb (s : State) :
    exec (.uniformAddSatS d a b ta tb) s = execUniformAddSatS d a b ta tb s := rfl
theorem exec_uniformAddSatN d a b ta tb (s : State) :
    exec (.uniformAddSatN d a b ta tb) s = execUniformAddSatN d a b ta tb s := rfl
theorem exec_uniformSubSatS d a b ta tb (s : State) :
    exec (.uniformSubSatS d a b ta tb) s = execUniformSubSatS d a b ta tb s := rfl
theorem exec_uniformSubSatN d a b ta tb (s : State) :
    exec (.uniformSubSatN d a b ta tb) s = execUniformSubSatN d a b ta tb s := rfl
theorem exec_uniformAbs d a ta (s : State) :
    exec (.uniformAbs d a ta) s = execUniformAbs d a ta s := rfl
theorem exec_uniformNeg d a ta (s : State) :
    exec (.uniformNeg d a ta) s = execUniformNeg d a ta s := rfl
theorem exec_uniformAnd d a b ta tb (s : State) :
    exec (.uniformAnd d a b ta tb) s = execUniformAnd d a b ta tb s := rfl
theorem exec_uniformOr d a b ta tb (s : State) :
    exec (.uniformOr d a b ta tb) s = execUniformOr d a b ta tb s := rfl
theorem exec_uniformXor d a b ta tb (s : State) :
    exec (.uniformXor d a b ta tb) s = execUniformXor d a b ta tb s := rfl
theorem exec_uniformAndn d a b ta tb (s : State) :
    exec (.uniformAndn d a b ta tb) s = execUniformAndn d a b ta tb s := rfl
theorem exec_uniformNot d a ta (s : State) :
    exec (.uniformNot d a ta) s = execUniformNot d a ta s := rfl
theorem exec_uniformShl d a b ta tb (s : State) :
    exec (.uniformShl d a b ta tb) s = execUniformShl d a b ta tb s := rfl
theorem exec_uniformShr d a b ta tb (s : State) :
    exec (.uniformShr d a b ta tb) s = execUniformShr d a b ta tb s := rfl
theorem exec_uniformSar d a b ta tb (s : State) :
    exec (.uniformSar d a b ta tb) s = execUniformSar d a b ta tb s := rfl
theorem exec_uniformRot d a b ta tb (s : State) :
    exec (.uniformRot d a b ta tb) s = execUniformRot d a b ta tb s := rfl
theorem exec_uniformClz d a ta (s : State) :
    exec (.uniformClz d a ta) s = execUniformClz d a ta s := rfl
theorem exec_uniformPopc d a ta (s : State) :
    exec (.uniformPopc d a ta) s = execUniformPopc d a ta s := rfl
theorem exec_uniformBrev d a ta (s : State) :
    exec (.uniformBrev d a ta) s = execUniformBrev d a ta s := rfl
theorem exec_uniformMov d a ta (s : State) :
    exec (.uniformMov d a ta) s = execUniformMov d a ta s := rfl
theorem exec_uniformAddImm d a ta imm (s : State) :
    exec (.uniformAddImm d a ta imm) s = execUniformAddImm d a ta imm s := rfl
theorem exec_uniformAndImm d a ta imm (s : State) :
    exec (.uniformAndImm d a ta imm) s = execUniformAndImm d a ta imm s := rfl
theorem exec_uniformOrImm d a ta imm (s : State) :
    exec (.uniformOrImm d a ta imm) s = execUniformOrImm d a ta imm s := rfl
theorem exec_uniformXorImm d a ta imm (s : State) :
    exec (.uniformXorImm d a ta imm) s = execUniformXorImm d a ta imm s := rfl
theorem exec_uniformShlImm d a ta imm (s : State) :
    exec (.uniformShlImm d a ta imm) s = execUniformShlImm d a ta imm s := rfl
theorem exec_uniformShrImm d a ta imm (s : State) :
    exec (.uniformShrImm d a ta imm) s = execUniformShrImm d a ta imm s := rfl
theorem exec_uniformSarImm d a ta imm (s : State) :
    exec (.uniformSarImm d a ta imm) s = execUniformSarImm d a ta imm s := rfl
theorem exec_uniformMovi d imm (s : State) :
    exec (.uniformMovi d imm) s = execUniformMovi d imm s := rfl
theorem exec_uniformMad d a b ta tb c tc ty (s : State) :
    exec (.uniformMad d a b ta tb c tc ty) s = execUniformMad d a b ta tb c tc ty s := rfl
theorem exec_uniformBfe d a ta ty pos len (s : State) :
    exec (.uniformBfe d a ta ty pos len) s = execUniformBfe d a ta ty pos len s := rfl
theorem exec_uniformBfi d a b ta tb ty pos len (s : State) :
    exec (.uniformBfi d a b ta tb ty pos len) s = execUniformBfi d a b ta tb ty pos len s := rfl
theorem exec_uniformCmp md a b ta tb ty cond (s : State) :
    exec (.uniformCmp md a b ta tb ty cond) s = execUniformCmp md a b ta tb ty cond s := rfl
theorem exec_uniformSel d a b ta tb ty sl (s : State) :
    exec (.uniformSel d a b ta tb ty sl) s = execUniformSel d a b ta tb ty sl s := rfl
theorem exec_litUniform d hi lit (s : State) :
    exec (.litUniform d hi lit) s = execLitUniform d hi lit s := rfl
theorem exec_seedTop d (s : State) :
    exec (.seedTop d) s = execSeedTop d s := rfl
theorem exec_seedDepth d (s : State) :
    exec (.seedDepth d) s = execSeedDepth d s := rfl
theorem exec_mand d a b (s : State) :
    exec (.mand d a b) s = execMand d a b s := rfl
theorem exec_mor d a b (s : State) :
    exec (.mor d a b) s = execMor d a b s := rfl
theorem exec_mxor d a b (s : State) :
    exec (.mxor d a b) s = execMxor d a b s := rfl
theorem exec_mandn d a b (s : State) :
    exec (.mandn d a b) s = execMandn d a b s := rfl
theorem exec_mnot d a (s : State) :
    exec (.mnot d a) s = execMnot d a s := rfl
theorem exec_mmov d a (s : State) :
    exec (.mmov d a) s = execMmov d a s := rfl
theorem exec_mget d ma (s : State) :
    exec (.mget d ma) s = execMget d ma s := rfl
theorem exec_mset md a ta (s : State) :
    exec (.mset md a ta) s = execMset md a ta s := rfl
theorem exec_pollMask d a ta p mem (s : State) :
    exec (.pollMask d a ta p mem) s = execPollMask d a ta p mem s := rfl
theorem exec_pollSome md a ta p mem (s : State) :
    exec (.pollSome md a ta p mem) s = execPollSome md a ta p mem s := rfl
theorem exec_pollEvery md a ta p mem (s : State) :
    exec (.pollEvery md a ta p mem) s = execPollEvery md a ta p mem s := rfl
theorem exec_pollSame md a ta p ty mem (s : State) :
    exec (.pollSame md a ta p ty mem) s = execPollSame md a ta p ty mem s := rfl
theorem exec_pollPeers d a ta p ty mem (s : State) :
    exec (.pollPeers d a ta p ty mem) s = execPollPeers d a ta p ty mem s := rfl
theorem exec_pollLead md p mem (s : State) :
    exec (.pollLead md p mem) s = execPollLead md p mem s := rfl
theorem exec_pollLeadWelt md p mem (s : State) :
    exec (.pollLeadWelt md p mem) s = execPollLeadWelt md p mem s := rfl
theorem exec_pollCount d a ta p mem (s : State) :
    exec (.pollCount d a ta p mem) s = execPollCount d a ta p mem s := rfl
theorem exec_passFrom d a b ta tb p z ty imm im mem (s : State) :
    exec (.passFrom d a b ta tb p z ty imm im mem) s = execPassFrom d a b ta tb p z ty imm im mem s := rfl
theorem exec_passBack d a b ta tb p z ty imm im mem (s : State) :
    exec (.passBack d a b ta tb p z ty imm im mem) s = execPassBack d a b ta tb p z ty imm im mem s := rfl
theorem exec_passAhead d a b ta tb p z ty imm im mem (s : State) :
    exec (.passAhead d a b ta tb p z ty imm im mem) s = execPassAhead d a b ta tb p z ty imm im mem s := rfl
theorem exec_passSwap d a b ta tb p z ty imm im mem (s : State) :
    exec (.passSwap d a b ta tb p z ty imm im mem) s = execPassSwap d a b ta tb p z ty imm im mem s := rfl
theorem exec_passTurn d a b ta tb p z ty imm im mem (s : State) :
    exec (.passTurn d a b ta tb p z ty imm im mem) s = execPassTurn d a b ta tb p z ty imm im mem s := rfl
theorem exec_foldAdd d a ta p ty mem (s : State) :
    exec (.foldAdd d a ta p ty mem) s = execFoldAdd d a ta p ty mem s := rfl
theorem exec_foldMin d a ta p ty mem (s : State) :
    exec (.foldMin d a ta p ty mem) s = execFoldMin d a ta p ty mem s := rfl
theorem exec_foldMax d a ta p ty mem (s : State) :
    exec (.foldMax d a ta p ty mem) s = execFoldMax d a ta p ty mem s := rfl
theorem exec_foldAnd d a ta p ty mem (s : State) :
    exec (.foldAnd d a ta p ty mem) s = execFoldAnd d a ta p ty mem s := rfl
theorem exec_foldOr d a ta p ty mem (s : State) :
    exec (.foldOr d a ta p ty mem) s = execFoldOr d a ta p ty mem s := rfl
theorem exec_foldXor d a ta p ty mem (s : State) :
    exec (.foldXor d a ta p ty mem) s = execFoldXor d a ta p ty mem s := rfl
theorem exec_scanInc d a ta p ty mem (s : State) :
    exec (.scanInc d a ta p ty mem) s = execScanInc d a ta p ty mem s := rfl
theorem exec_scanExc d a ta p ty mem (s : State) :
    exec (.scanExc d a ta p ty mem) s = execScanExc d a ta p ty mem s := rfl
theorem exec_rng d a ta p (s : State) :
    exec (.rng d a ta p) s = execRng d a ta p s := rfl
theorem exec_ident d sl p (s : State) :
    exec (.ident d sl p) s = execIdent d sl p s := rfl
theorem exec_fadd d a b ta tb p (s : State) :
    exec (.fadd d a b ta tb p) s = execFadd d a b ta tb p s := rfl
theorem exec_fsub d a b ta tb p (s : State) :
    exec (.fsub d a b ta tb p) s = execFsub d a b ta tb p s := rfl
theorem exec_fmul d a b ta tb p (s : State) :
    exec (.fmul d a b ta tb p) s = execFmul d a b ta tb p s := rfl
theorem exec_fmin d a b ta tb p (s : State) :
    exec (.fmin d a b ta tb p) s = execFmin d a b ta tb p s := rfl
theorem exec_fmax d a b ta tb p (s : State) :
    exec (.fmax d a b ta tb p) s = execFmax d a b ta tb p s := rfl
theorem exec_fdiv d a b ta tb p (s : State) :
    exec (.fdiv d a b ta tb p) s = execFdiv d a b ta tb p s := rfl
theorem exec_fsqrt d a ta p (s : State) :
    exec (.fsqrt d a ta p) s = execFsqrt d a ta p s := rfl
theorem exec_faddX d a b ta tb p ty rm na aa nb ab (s : State) :
    exec (.faddX d a b ta tb p ty rm na aa nb ab) s = execFaddX d a b ta tb p ty rm na aa nb ab s := rfl
theorem exec_fsubX d a b ta tb p ty rm na aa nb ab (s : State) :
    exec (.fsubX d a b ta tb p ty rm na aa nb ab) s = execFsubX d a b ta tb p ty rm na aa nb ab s := rfl
theorem exec_fmulX d a b ta tb p ty rm na aa nb ab (s : State) :
    exec (.fmulX d a b ta tb p ty rm na aa nb ab) s = execFmulX d a b ta tb p ty rm na aa nb ab s := rfl
theorem exec_fminX d a b ta tb p ty na aa nb ab (s : State) :
    exec (.fminX d a b ta tb p ty na aa nb ab) s = execFminX d a b ta tb p ty na aa nb ab s := rfl
theorem exec_fmaxX d a b ta tb p ty na aa nb ab (s : State) :
    exec (.fmaxX d a b ta tb p ty na aa nb ab) s = execFmaxX d a b ta tb p ty na aa nb ab s := rfl
theorem exec_fdivX d a b ta tb p ty rm na aa nb ab (s : State) :
    exec (.fdivX d a b ta tb p ty rm na aa nb ab) s = execFdivX d a b ta tb p ty rm na aa nb ab s := rfl
theorem exec_ffma d a b ta tb p c tc ty rm na aa nb ab nc ac (s : State) :
    exec (.ffma d a b ta tb p c tc ty rm na aa nb ab nc ac) s = execFfma d a b ta tb p c tc ty rm na aa nb ab nc ac s := rfl
theorem exec_fsqrtX d a ta p ty rm na aa (s : State) :
    exec (.fsqrtX d a ta p ty rm na aa) s = execFsqrtX d a ta p ty rm na aa s := rfl
theorem exec_frcpA d a ta p ty na aa (s : State) :
    exec (.frcpA d a ta p ty na aa) s = execFrcpA d a ta p ty na aa s := rfl
theorem exec_frsqA d a ta p ty na aa (s : State) :
    exec (.frsqA d a ta p ty na aa) s = execFrsqA d a ta p ty na aa s := rfl
theorem exec_fexp2A d a ta p ty na aa (s : State) :
    exec (.fexp2A d a ta p ty na aa) s = execFexp2A d a ta p ty na aa s := rfl
theorem exec_flog2A d a ta p ty na aa (s : State) :
    exec (.flog2A d a ta p ty na aa) s = execFlog2A d a ta p ty na aa s := rfl
theorem exec_fcmp md a b ta tb p cond ty na aa nb ab (s : State) :
    exec (.fcmp md a b ta tb p cond ty na aa nb ab) s = execFcmp md a b ta tb p cond ty na aa nb ab s := rfl
theorem exec_fclass d a ta p ty (s : State) :
    exec (.fclass d a ta p ty) s = execFclass d a ta p ty s := rfl
theorem exec_cvt d a ta p c tc dty rm sty salt (s : State) :
    exec (.cvt d a ta p c tc dty rm sty salt) s = execCvt d a ta p c tc dty rm sty salt s := rfl
theorem exec_cvtn d a b ta p ty rm salt (s : State) :
    exec (.cvtn d a b ta p ty rm salt) s = execCvtn d a b ta p ty rm salt s := rfl
theorem exec_cvtnFrom d a b ta p ty rm (s : State) :
    exec (.cvtnFrom d a b ta p ty rm) s = execCvtnFrom d a b ta p ty rm s := rfl
theorem exec_bscale d a b ta p ty (s : State) :
    exec (.bscale d a b ta p ty) s = execBscale d a b ta p ty s := rfl
theorem exec_qnt d a b ta p c tc ty rm salt (s : State) :
    exec (.qnt d a b ta p c tc ty rm salt) s = execQnt d a b ta p c tc ty rm salt s := rfl
theorem exec_dqnt d a b ta p c tc ty rm (s : State) :
    exec (.dqnt d a b ta p c tc ty rm) s = execDqnt d a b ta p c tc ty rm s := rfl
theorem exec_ld d w i f t p (s : State) :
    exec (.ld d w i f t p) s = execLd d w i f t p s := rfl
theorem exec_ldX d w i f t p ty cp disp (s : State) :
    exec (.ldX d w i f t p ty cp disp) s = execLdX d w i f t p ty cp disp s := rfl
theorem exec_ldProbe d w i f t p ty md cp disp (s : State) :
    exec (.ldProbe d w i f t p ty md cp disp) s = execLdProbe d w i f t p ty md cp disp s := rfl
theorem exec_st d w i f t p (s : State) :
    exec (.st d w i f t p) s = execSt d w i f t p s := rfl
theorem exec_stX d w i f t p ty cp disp (s : State) :
    exec (.stX d w i f t p ty cp disp) s = execStX d w i f t p ty cp disp s := rfl
theorem exec_ldx d w i f t p ty n cp disp (s : State) :
    exec (.ldx d w i f t p ty n cp disp) s = execLdx d w i f t p ty n cp disp s := rfl
theorem exec_stx d w i f t p ty n cp disp (s : State) :
    exec (.stx d w i f t p ty n cp disp) s = execStx d w i f t p ty n cp disp s := rfl
theorem exec_stc d w i f t p ty cp disp (s : State) :
    exec (.stc d w i f t p ty cp disp) s = execStc d w i f t p ty cp disp s := rfl
theorem exec_ldw d a ta ty cp (s : State) :
    exec (.ldw d a ta ty cp) s = execLdw d a ta ty cp s := rfl
theorem exec_stw a b ta tb ty cp (s : State) :
    exec (.stw a b ta tb ty cp) s = execStw a b ta tb ty cp s := rfl
theorem exec_lds d w i f t p ty disp (s : State) :
    exec (.lds d w i f t p ty disp) s = execLds d w i f t p ty disp s := rfl
theorem exec_sts d w i f t p ty disp (s : State) :
    exec (.sts d w i f t p ty disp) s = execSts d w i f t p ty disp s := rfl
theorem exec_pref w i f t p cp disp (s : State) :
    exec (.pref w i f t p cp disp) s = execPref w i f t p cp disp s := rfl
theorem exec_stmap a b ta (s : State) :
    exec (.stmap a b ta) s = execStmap a b ta s := rfl
theorem exec_stunmap a ta (s : State) :
    exec (.stunmap a ta) s = execStunmap a ta s := rfl
theorem exec_stflush a ta (s : State) :
    exec (.stflush a ta) s = execStflush a ta s := rfl
theorem exec_atomAdd d w i f t p c tc ty rt disp (s : State) :
    exec (.atomAdd d w i f t p c tc ty rt disp) s = execAtomAdd d w i f t p c tc ty rt disp s := rfl
theorem exec_atomMin d w i f t p c tc ty rt disp (s : State) :
    exec (.atomMin d w i f t p c tc ty rt disp) s = execAtomMin d w i f t p c tc ty rt disp s := rfl
theorem exec_atomMax d w i f t p c tc ty rt disp (s : State) :
    exec (.atomMax d w i f t p c tc ty rt disp) s = execAtomMax d w i f t p c tc ty rt disp s := rfl
theorem exec_atomAnd d w i f t p c tc ty rt disp (s : State) :
    exec (.atomAnd d w i f t p c tc ty rt disp) s = execAtomAnd d w i f t p c tc ty rt disp s := rfl
theorem exec_atomOr d w i f t p c tc ty rt disp (s : State) :
    exec (.atomOr d w i f t p c tc ty rt disp) s = execAtomOr d w i f t p c tc ty rt disp s := rfl
theorem exec_atomXor d w i f t p c tc ty rt disp (s : State) :
    exec (.atomXor d w i f t p c tc ty rt disp) s = execAtomXor d w i f t p c tc ty rt disp s := rfl
theorem exec_atomExch d w i f t p c tc ty rt disp (s : State) :
    exec (.atomExch d w i f t p c tc ty rt disp) s = execAtomExch d w i f t p c tc ty rt disp s := rfl
theorem exec_atomCas d w i f t p c tc ty disp (s : State) :
    exec (.atomCas d w i f t p c tc ty disp) s = execAtomCas d w i f t p c tc ty disp s := rfl
theorem exec_atomIncwrap d w i f t p c tc ty rt disp (s : State) :
    exec (.atomIncwrap d w i f t p c tc ty rt disp) s = execAtomIncwrap d w i f t p c tc ty rt disp s := rfl
theorem exec_atomdAdd w i f t p c tc ty disp (s : State) :
    exec (.atomdAdd w i f t p c tc ty disp) s = execAtomdAdd w i f t p c tc ty disp s := rfl
theorem exec_atomdMin w i f t p c tc ty disp (s : State) :
    exec (.atomdMin w i f t p c tc ty disp) s = execAtomdMin w i f t p c tc ty disp s := rfl
theorem exec_atomdMax w i f t p c tc ty disp (s : State) :
    exec (.atomdMax w i f t p c tc ty disp) s = execAtomdMax w i f t p c tc ty disp s := rfl
theorem exec_atomdAnd w i f t p c tc ty disp (s : State) :
    exec (.atomdAnd w i f t p c tc ty disp) s = execAtomdAnd w i f t p c tc ty disp s := rfl
theorem exec_atomdOr w i f t p c tc ty disp (s : State) :
    exec (.atomdOr w i f t p c tc ty disp) s = execAtomdOr w i f t p c tc ty disp s := rfl
theorem exec_atomdXor w i f t p c tc ty disp (s : State) :
    exec (.atomdXor w i f t p c tc ty disp) s = execAtomdXor w i f t p c tc ty disp s := rfl
theorem exec_atomdIncwrap w i f t p c tc ty disp (s : State) :
    exec (.atomdIncwrap w i f t p c tc ty disp) s = execAtomdIncwrap w i f t p c tc ty disp s := rfl
theorem exec_crdecl a b ta tb cop (s : State) :
    exec (.crdecl a b ta tb cop) s = execCrdecl a b ta tb cop s := rfl
theorem exec_cradd d w i f t p cop disp (s : State) :
    exec (.cradd d w i f t p cop disp) s = execCradd d w i f t p cop disp s := rfl
theorem exec_fence pm sm sc cum (s : State) :
    exec (.fence pm sm sc cum) s = execFence pm sm sc cum s := rfl
theorem exec_ifence (s : State) :
    exec (.ifence) s = execIfence s := rfl
theorem exec_cpy a b ta tb c tc src dst srole drole conv (s : State) :
    exec (.cpy a b ta tb c tc src dst srole drole conv) s = execCpy a b ta tb c tc src dst srole drole conv s := rfl
theorem exec_cpyMc a b ta tb c tc src dst role set conv (s : State) :
    exec (.cpyMc a b ta tb c tc src dst role set conv) s = execCpyMc a b ta tb c tc src dst role set conv s := rfl
theorem exec_cpyColl a b ta tb c tc src salt rm (s : State) :
    exec (.cpyColl a b ta tb c tc src salt rm) s = execCpyColl a b ta tb c tc src salt rm s := rfl
theorem exec_cbinit a b ta tb (s : State) :
    exec (.cbinit a b ta tb) s = execCbinit a b ta tb s := rfl
theorem exec_cbwait d a ta n (s : State) :
    exec (.cbwait d a ta n) s = execCbwait d a ta n s := rfl
theorem exec_cbpop a ta n (s : State) :
    exec (.cbpop a ta n) s = execCbpop a ta n s := rfl
theorem exec_cbfree a ta (s : State) :
    exec (.cbfree a ta) s = execCbfree a ta s := rfl
theorem exec_mres h wr tc ty (s : State) :
    exec (.mres h wr tc ty) s = execMres h wr tc ty s := rfl
theorem exec_mrel h (s : State) :
    exec (.mrel h) s = execMrel h s := rfl
theorem exec_mzero sn t (s : State) :
    exec (.mzero sn t) s = execMzero sn t s := rfl
theorem exec_mwait sn (s : State) :
    exec (.mwait sn) s = execMwait sn s := rfl
theorem exec_mwaitAll (s : State) :
    exec (.mwaitAll) s = execMwaitAll s := rfl
theorem exec_mfmt sn ty (s : State) :
    exec (.mfmt sn ty) s = execMfmt sn ty s := rfl
theorem exec_mstep sn ha hb t (s : State) :
    exec (.mstep sn ha hb t) s = execMstep sn ha hb t s := rfl
theorem exec_mloop sn ha hb t wr tc cnt (s : State) :
    exec (.mloop sn ha hb t wr tc cnt) s = execMloop sn ha hb t wr tc cnt s := rfl
theorem exec_mrd sn t d row cnt (s : State) :
    exec (.mrd sn t d row cnt) s = execMrd sn t d row cnt s := rfl
theorem exec_mwr sn t d tc row cnt (s : State) :
    exec (.mwr sn t d tc row cnt) s = execMwr sn t d tc row cnt s := rfl
theorem exec_mskv sn wr tc dep k act (s : State) :
    exec (.mskv sn wr tc dep k act) s = execMskv sn wr tc dep k act s := rfl
theorem exec_msamp sn cnt (s : State) :
    exec (.msamp sn cnt) s = execMsamp sn cnt s := rfl
theorem exec_rgmake d a b ta tb (s : State) :
    exec (.rgmake d a b ta tb) s = execRgmake d a b ta tb s := rfl
theorem exec_rgdrop d a ta (s : State) :
    exec (.rgdrop d a ta) s = execRgdrop d a ta s := rfl
theorem exec_rgfit d a b ta tb (s : State) :
    exec (.rgfit d a b ta tb) s = execRgfit d a b ta tb s := rfl
theorem exec_rgstat d a ta (s : State) :
    exec (.rgstat d a ta) s = execRgstat d a ta s := rfl
theorem exec_phnew d a ta (s : State) :
    exec (.phnew d a ta) s = execPhnew d a ta s := rfl
theorem exec_phfree d a ta (s : State) :
    exec (.phfree d a ta) s = execPhfree d a ta s := rfl
theorem exec_phreg d a mode ta (s : State) :
    exec (.phreg d a mode ta) s = execPhreg d a mode ta s := rfl
theorem exec_phdrop d a ta (s : State) :
    exec (.phdrop d a ta) s = execPhdrop d a ta s := rfl
theorem exec_phsig d a ta (s : State) :
    exec (.phsig d a ta) s = execPhsig d a ta s := rfl
theorem exec_phwait d a ta (s : State) :
    exec (.phwait d a ta) s = execPhwait d a ta s := rfl
theorem exec_pharr d a ta (s : State) :
    exec (.pharr d a ta) s = execPharr d a ta s := rfl
theorem exec_phbytes d a b ta tb (s : State) :
    exec (.phbytes d a b ta tb) s = execPhbytes d a b ta tb s := rfl
theorem exec_bar (s : State) :
    exec (.bar) s = execBar s := rfl
theorem exec_barto a b ta tb (s : State) :
    exec (.barto a b ta tb) s = execBarto a b ta tb s := rfl
theorem exec_flushda (s : State) :
    exec (.flushda) s = execFlushda s := rfl
theorem exec_lkmat d a ta (s : State) :
    exec (.lkmat d a ta) s = execLkmat d a ta s := rfl
theorem exec_lkbegin d (s : State) :
    exec (.lkbegin d) s = execLkbegin d s := rfl
theorem exec_lkbeginWt d (s : State) :
    exec (.lkbeginWt d) s = execLkbeginWt d s := rfl
theorem exec_lkend d (s : State) :
    exec (.lkend d) s = execLkend d s := rfl
theorem exec_lkabort d (s : State) :
    exec (.lkabort d) s = execLkabort d s := rfl
theorem exec_lkacq d a mode ta (s : State) :
    exec (.lkacq d a mode ta) s = execLkacq d a mode ta s := rfl
theorem exec_lktry d a mode ta (s : State) :
    exec (.lktry d a mode ta) s = execLktry d a mode ta s := rfl
theorem exec_lkup d a mode ta (s : State) :
    exec (.lkup d a mode ta) s = execLkup d a mode ta s := rfl
theorem exec_lkrel d a ta (s : State) :
    exec (.lkrel d a ta) s = execLkrel d a ta s := rfl
theorem exec_lkstat d a ta (s : State) :
    exec (.lkstat d a ta) s = execLkstat d a ta s := rfl
theorem exec_go off (s : State) :
    exec (.go off) s = execGo off s := rfl
theorem exec_br off m (s : State) :
    exec (.br off m) s = execBr off m s := rfl
theorem exec_call off (s : State) :
    exec (.call off) s = execCall off s := rfl
theorem exec_brx a ta (s : State) :
    exec (.brx a ta) s = execBrx a ta s := rfl
theorem exec_callx a ta (s : State) :
    exec (.callx a ta) s = execCallx a ta s := rfl
theorem exec_ret a ta (s : State) :
    exec (.ret a ta) s = execRet a ta s := rfl
theorem exec_exit (s : State) :
    exec (.exit) s = execExit s := rfl
theorem exec_yield (s : State) :
    exec (.yield) s = execYield s := rfl
theorem exec_nop (s : State) :
    exec (.nop) s = execNop s := rfl
theorem exec_launch d a ta (s : State) :
    exec (.launch d a ta) s = execLaunch d a ta s := rfl
theorem exec_join d a ta (s : State) :
    exec (.join d a ta) s = execJoin d a ta s := rfl
theorem exec_trap a ta (s : State) :
    exec (.trap a ta) s = execTrap a ta s := rfl
theorem exec_trapS a ta (s : State) :
    exec (.trapS a ta) s = execTrapS a ta s := rfl
theorem exec_brk (s : State) :
    exec (.brk) s = execBrk s := rfl
theorem exec_tret (s : State) :
    exec (.tret) s = execTret s := rfl
theorem exec_srd d lv sl (s : State) :
    exec (.srd d lv sl) s = execSrd d lv sl s := rfl
theorem exec_srdLaneid d (s : State) :
    exec (.srdLaneid d) s = execSrdLaneid d s := rfl
theorem exec_swr a ta lv sl (s : State) :
    exec (.swr a ta lv sl) s = execSwr a ta lv sl s := rfl
theorem exec_skey a ta c tc (s : State) :
    exec (.skey a ta c tc) s = execSkey a ta c tc s := rfl
theorem exec_tlbinv a b ta tb (s : State) :
    exec (.tlbinv a b ta tb) s = execTlbinv a b ta tb s := rfl
theorem exec_vacate d a b ta tb (s : State) :
    exec (.vacate d a b ta tb) s = execVacate d a b ta tb s := rfl
theorem exec_tokq d a ta (s : State) :
    exec (.tokq d a ta) s = execTokq d a ta s := rfl
theorem exec_haltwg d a b ta tb (s : State) :
    exec (.haltwg d a b ta tb) s = execHaltwg d a b ta tb s := rfl

end Sys2Proof.Machine
end

