-- ==== Sys2Proof/Laws/Memory.lean ====
section
/-!
SUPPORT. Memory: a read after a write, and that every memory operation keeps the canonical form. A meaning writes
memory through these operations alone.
-/

namespace Sys2Proof.Machine

open Safety

/-! ### Cells -/

/-- Every address listed lies above `a`. -/
def above (a : Nat) (m : List Host.Cell) : Prop := ∀ c ∈ m, a < c.1

theorem wf_nil : Memory.wf [] := ⟨List.Pairwise.nil, by simp⟩

theorem wf_cons {k : Nat} {v : Byte} {m : List Host.Cell} :
    Memory.wf ((k, v) :: m) ↔ above k m ∧ v ≠ Memory.unlisted ∧ Memory.wf m := by
  simp only [Memory.wf, above, List.pairwise_cons, List.mem_cons, forall_eq_or_imp]
  tauto

theorem wf_filter {m : List Host.Cell} (p : Host.Cell → Bool) (h : Memory.wf m) : Memory.wf (m.filter p) :=
  ⟨h.1.filter p, fun c hc => h.2 c (List.mem_of_mem_filter hc)⟩

theorem wf_cellCons {a : Nat} {b : Byte} {m : List Host.Cell} (h : Memory.wf m) (ha : above a m) :
    Memory.wf (cellCons a b m) := by
  unfold cellCons
  split
  · exact h
  · exact wf_cons.2 ⟨ha, ‹_›, h⟩

theorem above_cellCons {k a : Nat} {b : Byte} {m : List Host.Cell} (hk : k < a) (h : above k m) :
    above k (cellCons a b m) := by
  unfold cellCons
  split
  · exact h
  · intro c hc
    rcases List.mem_cons.1 hc with rfl | hc
    · exact hk
    · exact h c hc

theorem above_trans {j k : Nat} {m : List Host.Cell} (hj : j < k) (h : above k m) : above j m :=
  fun c hc => hj.trans (h c hc)

theorem above_cellWrite {k a : Nat} {b : Byte} {m : List Host.Cell} (hk : k < a) (h : above k m) :
    above k (cellWrite m a b) := by
  induction m with
  | nil => exact above_cellCons hk h
  | cons x t ih =>
    obtain ⟨j, v⟩ := x
    have ht : above k t := fun c hc => h c (List.mem_cons_of_mem _ hc)
    unfold cellWrite
    split_ifs
    · exact above_cellCons hk ht
    · exact above_cellCons hk h
    · intro c hc
      rcases List.mem_cons.1 hc with rfl | hc
      · exact h _ List.mem_cons_self
      · exact ih ht c hc

/-- A write keeps the canonical form. -/
theorem wf_cellWrite {m : List Host.Cell} (a : Nat) (b : Byte) (h : Memory.wf m) : Memory.wf (cellWrite m a b) := by
  induction m with
  | nil => exact wf_cellCons h (by simp [above])
  | cons x t ih =>
    obtain ⟨k, v⟩ := x
    obtain ⟨hk, hv, ht⟩ := wf_cons.1 h
    unfold cellWrite
    split_ifs with h1 h2
    · exact wf_cellCons ht (h1 ▸ hk)
    · exact wf_cellCons h fun c hc => by
        rcases List.mem_cons.1 hc with rfl | hc
        · exact h2
        · exact h2.trans (hk c hc)
    · exact wf_cons.2 ⟨above_cellWrite (by omega) hk, hv, ih ht⟩

theorem wf_cellsWrite {m : List Host.Cell} (a : Nat) (bs : List Byte) (h : Memory.wf m) :
    Memory.wf (cellsWrite m a bs) := by
  induction bs generalizing m a with
  | nil => exact h
  | cons b bs ih => exact ih _ (wf_cellWrite a b h)

theorem cellRead_above {a : Nat} {m : List Host.Cell} (h : above a m) : cellRead m a = Memory.unlisted := by
  cases m with
  | nil => rfl
  | cons x t =>
    obtain ⟨k, v⟩ := x
    have : a < k := h _ List.mem_cons_self
    simp [cellRead, this, Nat.ne_of_gt this]

theorem cellRead_skip {k : Nat} {v : Byte} {m : List Host.Cell} (hk : above k m) {q : Nat} (g : q ≠ k) :
    cellRead ((k, v) :: m) q = cellRead m q := by
  by_cases h : q < k
  · simp [cellRead, Ne.symm g, h, cellRead_above (above_trans h hk)]
  · simp [cellRead, Ne.symm g, h]

theorem cellRead_cellCons {a : Nat} {b : Byte} {m : List Host.Cell} (h : above a m) (q : Nat) :
    cellRead (cellCons a b m) q = if q = a then b else cellRead m q := by
  by_cases g : q = a
  · subst g
    by_cases h1 : b = Memory.unlisted
    · simp [cellCons, h1, cellRead_above h]
    · simp [cellCons, h1, cellRead]
  · by_cases h1 : b = Memory.unlisted
    · simp [cellCons, h1, g]
    · simp only [cellCons, h1, if_false, g, cellRead_skip h g]

/-- A read after a write gives what was written there, and elsewhere what it gave before. -/
theorem cellRead_cellWrite {m : List Host.Cell} (h : Memory.wf m) (a : Nat) (b : Byte) (q : Nat) :
    cellRead (cellWrite m a b) q = if q = a then b else cellRead m q := by
  induction m with
  | nil => exact cellRead_cellCons (by simp [above]) q
  | cons x t ih =>
    obtain ⟨k, v⟩ := x
    obtain ⟨hk, hv, ht⟩ := wf_cons.1 h
    by_cases h1 : k = a
    · subst h1
      simp only [cellWrite, if_true, cellRead_cellCons hk]
      by_cases g : q = k
      · simp [g]
      · simp only [g, if_false, cellRead_skip hk g]
    · by_cases h2 : a < k
      · have ha : above a ((k, v) :: t) := fun c hc => by
          rcases List.mem_cons.1 hc with rfl | hc
          · exact h2
          · exact h2.trans (hk c hc)
        simp only [cellWrite, h1, h2, if_false, if_true, cellRead_cellCons ha]
      · have hw : above k (cellWrite t a b) := above_cellWrite (by omega) hk
        simp only [cellWrite, h1, h2, if_false]
        by_cases g : q = k
        · subst g
          simp [cellRead, h1]
        · rw [cellRead_skip hw g, cellRead_skip hk g, ih ht]

theorem cellRead_cellWrite_same {m : List Host.Cell} (h : Memory.wf m) (a : Nat) (b : Byte) :
    cellRead (cellWrite m a b) a = b := by rw [cellRead_cellWrite h, if_pos rfl]

theorem cellRead_cellWrite_other {m : List Host.Cell} (h : Memory.wf m) (a : Nat) (b : Byte) {q : Nat} (g : q ≠ a) :
    cellRead (cellWrite m a b) q = cellRead m q := by rw [cellRead_cellWrite h, if_neg g]

/-- Bytes written from an address on are read back, and every other address reads as before. -/
theorem cellRead_cellsWrite {m : List Host.Cell} (h : Memory.wf m) (a : Nat) (bs : List Byte) (q : Nat) :
    cellRead (cellsWrite m a bs) q = if a ≤ q ∧ q < a + bs.length then bs.getD (q - a) 0 else cellRead m q := by
  induction bs generalizing m a with
  | nil => simp [cellsWrite]
  | cons b bs ih =>
    rw [cellsWrite, ih (wf_cellWrite a b h), cellRead_cellWrite h]
    simp only [List.length_cons]
    by_cases g : q = a
    · subst g
      simp
    · by_cases g1 : a + 1 ≤ q ∧ q < a + 1 + bs.length
      · rw [if_pos g1, if_pos (by omega), show q - a = (q - (a + 1)) + 1 by omega, List.getD_cons_succ]
      · rw [if_neg g1, if_neg g, if_neg (by omega)]

/-! ### Every memory of the state -/

theorem reset_memoriesWf : memoriesWf State.reset := ⟨wf_nil, wf_nil, by simp [State.reset]⟩

/-- The memories of one workgroup. -/
def Wg.wf (g : Wg) : Prop := Memory.wf g.stash ∧ Memory.wf g.opbuf ∧ Memory.wf g.acc

theorem wgInit_wf : Wg.init.wf := ⟨wf_nil, wf_nil, wf_nil⟩

theorem memoriesWf_wgAt {s : State} (h : memoriesWf s) (i : Nat) : (s.wgAt i).wf := by
  unfold State.wgAt
  rw [List.getD_eq_getElem?_getD]
  cases g : s.wgs[i]? with
  | none => exact wgInit_wf
  | some x => exact h.2.2 x (List.mem_of_getElem? g)

/-- What does not touch a memory keeps them all. -/
theorem memoriesWf_congr {s t : State} (h : memoriesWf s) (hm : t.mem = s.mem) (hh : t.host = s.host)
    (hg : t.wgs = s.wgs) : memoriesWf t := by
  unfold memoriesWf
  rw [hm, hh, hg]
  exact h

theorem memoriesWf_setWgAt {s : State} (h : memoriesWf s) (i : Nat) {g : Wg} (hg : g.wf) :
    memoriesWf (s.setWgAt i g) := by
  refine ⟨h.1, h.2.1, fun x hx => ?_⟩
  rcases List.mem_or_eq_of_mem_set hx with hx | rfl
  · exact h.2.2 x hx
  · exact hg

theorem memoriesWf_setCg {s : State} (h : memoriesWf s) {g : Wg} (hg : g.wf) : memoriesWf (s.setCg g) :=
  memoriesWf_setWgAt h _ hg

theorem memoriesWf_setWeltAt {s : State} (h : memoriesWf s) (i : Nat) (w : Welt) : memoriesWf (s.setWeltAt i w) := h

theorem memoriesWf_setCw {s : State} (h : memoriesWf s) (w : Welt) : memoriesWf (s.setCw w) := h

theorem memoriesWf_setCoreAt {s : State} (h : memoriesWf s) (i : Nat) (c : Core) : memoriesWf (s.setCoreAt i c) := h

theorem memoriesWf_setLaunchAt {s : State} (h : memoriesWf s) (i : Nat) (l : Launch) :
    memoriesWf (s.setLaunchAt i l) := h

theorem memoriesWf_setCtxAt {s : State} (h : memoriesWf s) (i : Nat) (c : Ctx) : memoriesWf (s.setCtxAt i c) := h

theorem memoriesWf_post {s : State} (h : memoriesWf s) (i : Instr) : memoriesWf (s.post i) := h

/-- One byte stored keeps the canonical form of every memory. -/
theorem memoriesWf_putByte {s : State} (h : memoriesWf s) (l : Loc) (b : Byte) : memoriesWf (s.putByte l b) := by
  cases l with
  | dev a => exact ⟨wf_cellWrite _ _ h.1, h.2⟩
  | block _ _ a => exact ⟨wf_cellWrite _ _ h.1, h.2⟩
  | host p k => exact ⟨h.1, wf_cellWrite _ _ h.2.1, h.2.2⟩
  | region i off => exact h
  | stash g off =>
    have := memoriesWf_wgAt h g
    exact memoriesWf_setWgAt h _ ⟨wf_cellWrite _ _ this.1, this.2⟩
  | opbuf g off =>
    have := memoriesWf_wgAt h g
    exact memoriesWf_setWgAt h _ ⟨this.1, wf_cellWrite _ _ this.2.1, this.2.2⟩
  | byte b => exact h

theorem memoriesWf_putLocs {s : State} (h : memoriesWf s) (ls : List Loc) (bs : List Byte) :
    memoriesWf (s.putLocs ls bs) := by
  induction ls generalizing s bs with
  | nil => exact h
  | cons l ls ih =>
    cases bs with
    | nil => exact h
    | cons b bs => exact ih (memoriesWf_putByte h l b) bs

theorem memoriesWf_clearBad {s : State} (h : memoriesWf s) (ls : List Loc) : memoriesWf (s.clearBad ls) := h

theorem memoriesWf_stall {s : State} (h : memoriesWf s) (r : Wait) : memoriesWf (s.stall r) := h

/-- Retiring an instruction touches no memory. -/
theorem memoriesWf_retireWith {s : State} (h : memoriesWf s) (w : Welt) : memoriesWf (s.retireWith w) := by
  obtain ⟨st, -, e⟩ := retireWith_eq s w
  rw [e]
  exact h

theorem memoriesWf_retire {s : State} (h : memoriesWf s) (w : Welt) (len : Nat) : memoriesWf (s.retire w len) :=
  memoriesWf_retireWith h _

/-- A byte of device memory after a store of one byte anywhere. -/
theorem cellRead_putByte_dev {s : State} (h : memoriesWf s) (a : Nat) (b : Byte) (q : Nat) :
    cellRead (s.putByte (.dev a) b).mem q = if q = a then b else cellRead s.mem q := cellRead_cellWrite h.1 a b q

end Sys2Proof.Machine
end

