-- ==== Sys2Proof/Laws/PerInstr.lean ====
section
/-!
SUPPORT. The family `Encoding`: what is shown of each instruction as syntax, constructor by constructor. The opcode alone
tells how many words an instruction has (spec/04_encoding.md R78, R82): the fetch that reads a second word exactly when
`hasSecondWord` says so reads exactly the words of `encode`.
-/

namespace Sys2Proof.Laws.Encoding

/-! ### The opcode of a word that is put together from fields -/

theorem shift_append {n m : Nat} (x : BitVec n) (y : BitVec m) (k : Nat) (h : m ≤ k) :
    (x ++ y).toNat >>> k = x.toNat >>> (k - m) := by
  obtain ⟨j, rfl⟩ := Nat.exists_eq_add_of_le h
  rw [BitVec.toNat_append, Nat.shiftRight_add, Nat.shiftRight_or_distrib, Nat.shiftLeft_shiftRight,
    Nat.add_sub_cancel_left, Nat.shiftRight_eq_div_pow y.toNat, Nat.div_eq_of_lt y.isLt, Nat.or_zero]

@[simp] theorem shift_append_1 {n : Nat} (x : BitVec n) (y : BitVec 1) (k : Nat) (h : 1 ≤ k) :
    (x ++ y).toNat >>> k = x.toNat >>> (k - 1) := shift_append x y k h
@[simp] theorem shift_append_2 {n : Nat} (x : BitVec n) (y : BitVec 2) (k : Nat) (h : 2 ≤ k) :
    (x ++ y).toNat >>> k = x.toNat >>> (k - 2) := shift_append x y k h
@[simp] theorem shift_append_3 {n : Nat} (x : BitVec n) (y : BitVec 3) (k : Nat) (h : 3 ≤ k) :
    (x ++ y).toNat >>> k = x.toNat >>> (k - 3) := shift_append x y k h
@[simp] theorem shift_append_4 {n : Nat} (x : BitVec n) (y : BitVec 4) (k : Nat) (h : 4 ≤ k) :
    (x ++ y).toNat >>> k = x.toNat >>> (k - 4) := shift_append x y k h
@[simp] theorem shift_append_6 {n : Nat} (x : BitVec n) (y : BitVec 6) (k : Nat) (h : 6 ≤ k) :
    (x ++ y).toNat >>> k = x.toNat >>> (k - 6) := shift_append x y k h
@[simp] theorem shift_append_7 {n : Nat} (x : BitVec n) (y : BitVec 7) (k : Nat) (h : 7 ≤ k) :
    (x ++ y).toNat >>> k = x.toNat >>> (k - 7) := shift_append x y k h
@[simp] theorem shift_append_8 {n : Nat} (x : BitVec n) (y : BitVec 8) (k : Nat) (h : 8 ≤ k) :
    (x ++ y).toNat >>> k = x.toNat >>> (k - 8) := shift_append x y k h
@[simp] theorem shift_append_9 {n : Nat} (x : BitVec n) (y : BitVec 9) (k : Nat) (h : 9 ≤ k) :
    (x ++ y).toNat >>> k = x.toNat >>> (k - 9) := shift_append x y k h
@[simp] theorem shift_append_10 {n : Nat} (x : BitVec n) (y : BitVec 10) (k : Nat) (h : 10 ≤ k) :
    (x ++ y).toNat >>> k = x.toNat >>> (k - 10) := shift_append x y k h
@[simp] theorem shift_append_13 {n : Nat} (x : BitVec n) (y : BitVec 13) (k : Nat) (h : 13 ≤ k) :
    (x ++ y).toNat >>> k = x.toNat >>> (k - 13) := shift_append x y k h
@[simp] theorem shift_append_16 {n : Nat} (x : BitVec n) (y : BitVec 16) (k : Nat) (h : 16 ≤ k) :
    (x ++ y).toNat >>> k = x.toNat >>> (k - 16) := shift_append x y k h
@[simp] theorem shift_append_22 {n : Nat} (x : BitVec n) (y : BitVec 22) (k : Nat) (h : 22 ≤ k) :
    (x ++ y).toNat >>> k = x.toNat >>> (k - 22) := shift_append x y k h
@[simp] theorem shift_append_25 {n : Nat} (x : BitVec n) (y : BitVec 25) (k : Nat) (h : 25 ≤ k) :
    (x ++ y).toNat >>> k = x.toNat >>> (k - 25) := shift_append x y k h

theorem opcode_shift (w : W32) : (w.extractLsb' 25 7).toNat = w.toNat >>> 25 := by
  rw [BitVec.extractLsb'_toNat, Nat.mod_eq_of_lt]
  have := w.isLt
  rw [Nat.shiftRight_eq_div_pow]
  omega

/-- Whether a second word follows depends on the opcode alone (R82). -/
theorem opcode_length {w : W32} {b : Bool} (k : Nat) (h : w.toNat >>> 25 = k)
    (g : hasSecondWord (BitVec.ofNat 32 (k <<< 25)) = b) : hasSecondWord w = b := by
  rw [← g]
  simp only [hasSecondWord, opcode_shift, h]
  have : k < 128 := by
    have := w.isLt
    rw [Nat.shiftRight_eq_div_pow] at h
    omega
  rw [BitVec.toNat_ofNat, Nat.shiftLeft_eq, Nat.mod_eq_of_lt (by omega), ← Nat.shiftLeft_eq, Nat.shiftLeft_shiftRight]

/-! ### The statement -/

/-- An instruction has no encoding, or its first word tells whether it has a second, and it has no third. -/
def Statement (i : Instr) : Prop :=
  ∀ w r, encode i = w :: r → hasSecondWord w = !r.isEmpty ∧ r.length ≤ 1

theorem no_words {i : Instr} (h : encode i = []) : Statement i := by simp [Statement, h]

theorem one_word {i : Instr} {w : W32} (h : encode i = [w]) (g : hasSecondWord w = false) : Statement i := by
  rintro v r e
  obtain ⟨rfl, rfl⟩ := List.cons.inj (h.symm.trans e)
  simp [g]

theorem two_words {i : Instr} {w x : W32} (h : encode i = [w, x]) (g : hasSecondWord w = true) : Statement i := by
  rintro v r e
  obtain ⟨rfl, rfl⟩ := List.cons.inj (h.symm.trans e)
  simp [g]

/-! ### Constructor by constructor -/

theorem add (d a b ta tb p) : Statement (.add d a b ta tb p) :=
  one_word rfl (opcode_length 0 (by simp) rfl)
theorem sub (d a b ta tb p) : Statement (.sub d a b ta tb p) :=
  one_word rfl (opcode_length 1 (by simp) rfl)
theorem mulLo (d a b ta tb p) : Statement (.mulLo d a b ta tb p) :=
  one_word rfl (opcode_length 3 (by simp) rfl)
theorem mulHi (d a b ta tb p) : Statement (.mulHi d a b ta tb p) :=
  one_word rfl (opcode_length 4 (by simp) rfl)
theorem min (d a b ta tb p) : Statement (.min d a b ta tb p) :=
  one_word rfl (opcode_length 5 (by simp) rfl)
theorem max (d a b ta tb p) : Statement (.max d a b ta tb p) :=
  one_word rfl (opcode_length 6 (by simp) rfl)
theorem and (d a b ta tb p) : Statement (.and d a b ta tb p) :=
  one_word rfl (opcode_length 7 (by simp) rfl)
theorem or (d a b ta tb p) : Statement (.or d a b ta tb p) :=
  one_word rfl (opcode_length 8 (by simp) rfl)
theorem xor (d a b ta tb p) : Statement (.xor d a b ta tb p) :=
  one_word rfl (opcode_length 9 (by simp) rfl)
theorem andn (d a b ta tb p) : Statement (.andn d a b ta tb p) :=
  one_word rfl (opcode_length 10 (by simp) rfl)
theorem shl (d a b ta tb p) : Statement (.shl d a b ta tb p) :=
  one_word rfl (opcode_length 11 (by simp) rfl)
theorem shr (d a b ta tb p) : Statement (.shr d a b ta tb p) :=
  one_word rfl (opcode_length 12 (by simp) rfl)
theorem sar (d a b ta tb p) : Statement (.sar d a b ta tb p) :=
  one_word rfl (opcode_length 13 (by simp) rfl)
theorem rot (d a b ta tb p) : Statement (.rot d a b ta tb p) :=
  one_word rfl (opcode_length 14 (by simp) rfl)
theorem addImm (d a imm ta p) : Statement (.addImm d a imm ta p) :=
  one_word rfl (opcode_length 2 (by simp) rfl)
theorem shlImm (d a cnt ta p) : Statement (.shlImm d a cnt ta p) :=
  one_word rfl (opcode_length 15 (by simp) rfl)
theorem shrImm (d a cnt ta p) : Statement (.shrImm d a cnt ta p) :=
  one_word rfl (opcode_length 15 (by simp) rfl)
theorem sarImm (d a cnt ta p) : Statement (.sarImm d a cnt ta p) :=
  one_word rfl (opcode_length 15 (by simp) rfl)
theorem rotImm (d a cnt ta p) : Statement (.rotImm d a cnt ta p) :=
  one_word rfl (opcode_length 15 (by simp) rfl)
theorem abs (d a ta p) : Statement (.abs d a ta p) :=
  one_word rfl (opcode_length 16 (by simp) rfl)
theorem neg (d a ta p) : Statement (.neg d a ta p) :=
  one_word rfl (opcode_length 16 (by simp) rfl)
theorem not (d a ta p) : Statement (.not d a ta p) :=
  one_word rfl (opcode_length 16 (by simp) rfl)
theorem clz (d a ta p) : Statement (.clz d a ta p) :=
  one_word rfl (opcode_length 16 (by simp) rfl)
theorem popc (d a ta p) : Statement (.popc d a ta p) :=
  one_word rfl (opcode_length 16 (by simp) rfl)
theorem brev (d a ta p) : Statement (.brev d a ta p) :=
  one_word rfl (opcode_length 16 (by simp) rfl)
theorem mov (d a ta p) : Statement (.mov d a ta p) :=
  one_word rfl (opcode_length 16 (by simp) rfl)
theorem addX (d a b ta tb p ty) : Statement (.addX d a b ta tb p ty) :=
  two_words rfl (opcode_length 17 (by simp) rfl)
theorem subX (d a b ta tb p ty) : Statement (.subX d a b ta tb p ty) :=
  two_words rfl (opcode_length 17 (by simp) rfl)
theorem mulLoX (d a b ta tb p ty) : Statement (.mulLoX d a b ta tb p ty) :=
  two_words rfl (opcode_length 17 (by simp) rfl)
theorem mulHiX (d a b ta tb p ty) : Statement (.mulHiX d a b ta tb p ty) :=
  two_words rfl (opcode_length 17 (by simp) rfl)
theorem mad (d a b ta tb p c tc ty) : Statement (.mad d a b ta tb p c tc ty) :=
  two_words rfl (opcode_length 17 (by simp) rfl)
theorem minX (d a b ta tb p ty) : Statement (.minX d a b ta tb p ty) :=
  two_words rfl (opcode_length 17 (by simp) rfl)
theorem maxX (d a b ta tb p ty) : Statement (.maxX d a b ta tb p ty) :=
  two_words rfl (opcode_length 17 (by simp) rfl)
theorem absX (d a ta p ty) : Statement (.absX d a ta p ty) :=
  two_words rfl (opcode_length 17 (by simp) rfl)
theorem negX (d a ta p ty) : Statement (.negX d a ta p ty) :=
  two_words rfl (opcode_length 17 (by simp) rfl)
theorem andX (d a b ta tb p ty) : Statement (.andX d a b ta tb p ty) :=
  two_words rfl (opcode_length 17 (by simp) rfl)
theorem orX (d a b ta tb p ty) : Statement (.orX d a b ta tb p ty) :=
  two_words rfl (opcode_length 17 (by simp) rfl)
theorem xorX (d a b ta tb p ty) : Statement (.xorX d a b ta tb p ty) :=
  two_words rfl (opcode_length 17 (by simp) rfl)
theorem andnX (d a b ta tb p ty) : Statement (.andnX d a b ta tb p ty) :=
  two_words rfl (opcode_length 17 (by simp) rfl)
theorem notX (d a ta p ty) : Statement (.notX d a ta p ty) :=
  two_words rfl (opcode_length 17 (by simp) rfl)
theorem shlX (d a b ta tb p ty im cnt) : Statement (.shlX d a b ta tb p ty im cnt) :=
  two_words rfl (opcode_length 17 (by simp) rfl)
theorem shrX (d a b ta tb p ty im cnt) : Statement (.shrX d a b ta tb p ty im cnt) :=
  two_words rfl (opcode_length 17 (by simp) rfl)
theorem sarX (d a b ta tb p ty im cnt) : Statement (.sarX d a b ta tb p ty im cnt) :=
  two_words rfl (opcode_length 17 (by simp) rfl)
theorem rotX (d a b ta tb p ty im cnt) : Statement (.rotX d a b ta tb p ty im cnt) :=
  two_words rfl (opcode_length 17 (by simp) rfl)
theorem clzX (d a ta p ty) : Statement (.clzX d a ta p ty) :=
  two_words rfl (opcode_length 17 (by simp) rfl)
theorem popcX (d a ta p ty) : Statement (.popcX d a ta p ty) :=
  two_words rfl (opcode_length 17 (by simp) rfl)
theorem brevX (d a ta p ty) : Statement (.brevX d a ta p ty) :=
  two_words rfl (opcode_length 17 (by simp) rfl)
theorem bfe (d a ta p ty pos len) : Statement (.bfe d a ta p ty pos len) :=
  two_words rfl (opcode_length 17 (by simp) rfl)
theorem bfi (d a b ta tb p ty pos len) : Statement (.bfi d a b ta tb p ty pos len) :=
  two_words rfl (opcode_length 17 (by simp) rfl)
theorem sel (d a b ta tb p ty sl) : Statement (.sel d a b ta tb p ty sl) :=
  two_words rfl (opcode_length 17 (by simp) rfl)
theorem cmp (md a b ta tb p ty cond) : Statement (.cmp md a b ta tb p ty cond) :=
  two_words rfl (opcode_length 17 (by simp) rfl)
theorem movX (d a ta p ty) : Statement (.movX d a ta p ty) :=
  two_words rfl (opcode_length 17 (by simp) rfl)
theorem addSat (d a b ta tb p ty) : Statement (.addSat d a b ta tb p ty) :=
  two_words rfl (opcode_length 17 (by simp) rfl)
theorem subSat (d a b ta tb p ty) : Statement (.subSat d a b ta tb p ty) :=
  two_words rfl (opcode_length 17 (by simp) rfl)
theorem movi (d imm p) : Statement (.movi d imm p) :=
  one_word rfl (opcode_length 18 (by simp) rfl)
theorem litVector (d pr hi lit) : Statement (.litVector d pr hi lit) :=
  two_words rfl (opcode_length 19 (by simp) rfl)
theorem uniformAdd (d a b ta tb) : Statement (.uniformAdd d a b ta tb) :=
  one_word rfl (opcode_length 24 (by simp) rfl)
theorem uniformSub (d a b ta tb) : Statement (.uniformSub d a b ta tb) :=
  one_word rfl (opcode_length 24 (by simp) rfl)
theorem uniformMulLo (d a b ta tb) : Statement (.uniformMulLo d a b ta tb) :=
  one_word rfl (opcode_length 24 (by simp) rfl)
theorem uniformMulHiS (d a b ta tb) : Statement (.uniformMulHiS d a b ta tb) :=
  one_word rfl (opcode_length 24 (by simp) rfl)
theorem uniformMulHiN (d a b ta tb) : Statement (.uniformMulHiN d a b ta tb) :=
  one_word rfl (opcode_length 24 (by simp) rfl)
theorem uniformMinS (d a b ta tb) : Statement (.uniformMinS d a b ta tb) :=
  one_word rfl (opcode_length 24 (by simp) rfl)
theorem uniformMinN (d a b ta tb) : Statement (.uniformMinN d a b ta tb) :=
  one_word rfl (opcode_length 24 (by simp) rfl)
theorem uniformMaxS (d a b ta tb) : Statement (.uniformMaxS d a b ta tb) :=
  one_word rfl (opcode_length 24 (by simp) rfl)
theorem uniformMaxN (d a b ta tb) : Statement (.uniformMaxN d a b ta tb) :=
  one_word rfl (opcode_length 24 (by simp) rfl)
theorem uniformAddSatS (d a b ta tb) : Statement (.uniformAddSatS d a b ta tb) :=
  one_word rfl (opcode_length 24 (by simp) rfl)
theorem uniformAddSatN (d a b ta tb) : Statement (.uniformAddSatN d a b ta tb) :=
  one_word rfl (opcode_length 24 (by simp) rfl)
theorem uniformSubSatS (d a b ta tb) : Statement (.uniformSubSatS d a b ta tb) :=
  one_word rfl (opcode_length 24 (by simp) rfl)
theorem uniformSubSatN (d a b ta tb) : Statement (.uniformSubSatN d a b ta tb) :=
  one_word rfl (opcode_length 24 (by simp) rfl)
theorem uniformAbs (d a ta) : Statement (.uniformAbs d a ta) :=
  one_word rfl (opcode_length 24 (by simp) rfl)
theorem uniformNeg (d a ta) : Statement (.uniformNeg d a ta) :=
  one_word rfl (opcode_length 24 (by simp) rfl)
theorem uniformAnd (d a b ta tb) : Statement (.uniformAnd d a b ta tb) :=
  one_word rfl (opcode_length 25 (by simp) rfl)
theorem uniformOr (d a b ta tb) : Statement (.uniformOr d a b ta tb) :=
  one_word rfl (opcode_length 25 (by simp) rfl)
theorem uniformXor (d a b ta tb) : Statement (.uniformXor d a b ta tb) :=
  one_word rfl (opcode_length 25 (by simp) rfl)
theorem uniformAndn (d a b ta tb) : Statement (.uniformAndn d a b ta tb) :=
  one_word rfl (opcode_length 25 (by simp) rfl)
theorem uniformNot (d a ta) : Statement (.uniformNot d a ta) :=
  one_word rfl (opcode_length 25 (by simp) rfl)
theorem uniformShl (d a b ta tb) : Statement (.uniformShl d a b ta tb) :=
  one_word rfl (opcode_length 25 (by simp) rfl)
theorem uniformShr (d a b ta tb) : Statement (.uniformShr d a b ta tb) :=
  one_word rfl (opcode_length 25 (by simp) rfl)
theorem uniformSar (d a b ta tb) : Statement (.uniformSar d a b ta tb) :=
  one_word rfl (opcode_length 25 (by simp) rfl)
theorem uniformRot (d a b ta tb) : Statement (.uniformRot d a b ta tb) :=
  one_word rfl (opcode_length 25 (by simp) rfl)
theorem uniformClz (d a ta) : Statement (.uniformClz d a ta) :=
  one_word rfl (opcode_length 25 (by simp) rfl)
theorem uniformPopc (d a ta) : Statement (.uniformPopc d a ta) :=
  one_word rfl (opcode_length 25 (by simp) rfl)
theorem uniformBrev (d a ta) : Statement (.uniformBrev d a ta) :=
  one_word rfl (opcode_length 25 (by simp) rfl)
theorem uniformMov (d a ta) : Statement (.uniformMov d a ta) :=
  one_word rfl (opcode_length 25 (by simp) rfl)
theorem uniformAddImm (d a ta imm) : Statement (.uniformAddImm d a ta imm) :=
  two_words rfl (opcode_length 26 (by simp) rfl)
theorem uniformAndImm (d a ta imm) : Statement (.uniformAndImm d a ta imm) :=
  two_words rfl (opcode_length 26 (by simp) rfl)
theorem uniformOrImm (d a ta imm) : Statement (.uniformOrImm d a ta imm) :=
  two_words rfl (opcode_length 26 (by simp) rfl)
theorem uniformXorImm (d a ta imm) : Statement (.uniformXorImm d a ta imm) :=
  two_words rfl (opcode_length 26 (by simp) rfl)
theorem uniformShlImm (d a ta imm) : Statement (.uniformShlImm d a ta imm) :=
  two_words rfl (opcode_length 26 (by simp) rfl)
theorem uniformShrImm (d a ta imm) : Statement (.uniformShrImm d a ta imm) :=
  two_words rfl (opcode_length 26 (by simp) rfl)
theorem uniformSarImm (d a ta imm) : Statement (.uniformSarImm d a ta imm) :=
  two_words rfl (opcode_length 26 (by simp) rfl)
theorem uniformMovi (d imm) : Statement (.uniformMovi d imm) :=
  two_words rfl (opcode_length 26 (by simp) rfl)
theorem uniformMad (d a b ta tb c tc ty) : Statement (.uniformMad d a b ta tb c tc ty) :=
  two_words rfl (opcode_length 27 (by simp) rfl)
theorem uniformBfe (d a ta ty pos len) : Statement (.uniformBfe d a ta ty pos len) :=
  two_words rfl (opcode_length 27 (by simp) rfl)
theorem uniformBfi (d a b ta tb ty pos len) : Statement (.uniformBfi d a b ta tb ty pos len) :=
  two_words rfl (opcode_length 27 (by simp) rfl)
theorem uniformCmp (md a b ta tb ty cond) : Statement (.uniformCmp md a b ta tb ty cond) :=
  two_words rfl (opcode_length 27 (by simp) rfl)
theorem uniformSel (d a b ta tb ty sl) : Statement (.uniformSel d a b ta tb ty sl) :=
  two_words rfl (opcode_length 27 (by simp) rfl)
theorem litUniform (d hi lit) : Statement (.litUniform d hi lit) :=
  two_words rfl (opcode_length 28 (by simp) rfl)
theorem seedTop (d) : Statement (.seedTop d) :=
  one_word rfl (opcode_length 29 (by simp) rfl)
theorem seedDepth (d) : Statement (.seedDepth d) :=
  one_word rfl (opcode_length 29 (by simp) rfl)
theorem mand (d a b) : Statement (.mand d a b) :=
  one_word rfl (opcode_length 36 (by simp) rfl)
theorem mor (d a b) : Statement (.mor d a b) :=
  one_word rfl (opcode_length 36 (by simp) rfl)
theorem mxor (d a b) : Statement (.mxor d a b) :=
  one_word rfl (opcode_length 36 (by simp) rfl)
theorem mandn (d a b) : Statement (.mandn d a b) :=
  one_word rfl (opcode_length 36 (by simp) rfl)
theorem mnot (d a) : Statement (.mnot d a) :=
  one_word rfl (opcode_length 36 (by simp) rfl)
theorem mmov (d a) : Statement (.mmov d a) :=
  one_word rfl (opcode_length 36 (by simp) rfl)
theorem mget (d ma) : Statement (.mget d ma) :=
  one_word rfl (opcode_length 37 (by simp) rfl)
theorem mset (md a ta) : Statement (.mset md a ta) :=
  one_word rfl (opcode_length 37 (by simp) rfl)
theorem pollMask (d a ta p mem) : Statement (.pollMask d a ta p mem) :=
  two_words rfl (opcode_length 32 (by simp) rfl)
theorem pollSome (md a ta p mem) : Statement (.pollSome md a ta p mem) :=
  two_words rfl (opcode_length 32 (by simp) rfl)
theorem pollEvery (md a ta p mem) : Statement (.pollEvery md a ta p mem) :=
  two_words rfl (opcode_length 32 (by simp) rfl)
theorem pollSame (md a ta p ty mem) : Statement (.pollSame md a ta p ty mem) :=
  two_words rfl (opcode_length 32 (by simp) rfl)
theorem pollPeers (d a ta p ty mem) : Statement (.pollPeers d a ta p ty mem) :=
  two_words rfl (opcode_length 32 (by simp) rfl)
theorem pollLead (md p mem) : Statement (.pollLead md p mem) :=
  two_words rfl (opcode_length 32 (by simp) rfl)
theorem pollLeadWelt (md p mem) : Statement (.pollLeadWelt md p mem) :=
  two_words rfl (opcode_length 32 (by simp) rfl)
theorem pollCount (d a ta p mem) : Statement (.pollCount d a ta p mem) :=
  two_words rfl (opcode_length 32 (by simp) rfl)
theorem passFrom (d a b ta tb p z ty imm im mem) : Statement (.passFrom d a b ta tb p z ty imm im mem) :=
  two_words rfl (opcode_length 33 (by simp) rfl)
theorem passBack (d a b ta tb p z ty imm im mem) : Statement (.passBack d a b ta tb p z ty imm im mem) :=
  two_words rfl (opcode_length 33 (by simp) rfl)
theorem passAhead (d a b ta tb p z ty imm im mem) : Statement (.passAhead d a b ta tb p z ty imm im mem) :=
  two_words rfl (opcode_length 33 (by simp) rfl)
theorem passSwap (d a b ta tb p z ty imm im mem) : Statement (.passSwap d a b ta tb p z ty imm im mem) :=
  two_words rfl (opcode_length 33 (by simp) rfl)
theorem passTurn (d a b ta tb p z ty imm im mem) : Statement (.passTurn d a b ta tb p z ty imm im mem) :=
  two_words rfl (opcode_length 33 (by simp) rfl)
theorem foldAdd (d a ta p ty mem) : Statement (.foldAdd d a ta p ty mem) :=
  two_words rfl (opcode_length 34 (by simp) rfl)
theorem foldMin (d a ta p ty mem) : Statement (.foldMin d a ta p ty mem) :=
  two_words rfl (opcode_length 34 (by simp) rfl)
theorem foldMax (d a ta p ty mem) : Statement (.foldMax d a ta p ty mem) :=
  two_words rfl (opcode_length 34 (by simp) rfl)
theorem foldAnd (d a ta p ty mem) : Statement (.foldAnd d a ta p ty mem) :=
  two_words rfl (opcode_length 34 (by simp) rfl)
theorem foldOr (d a ta p ty mem) : Statement (.foldOr d a ta p ty mem) :=
  two_words rfl (opcode_length 34 (by simp) rfl)
theorem foldXor (d a ta p ty mem) : Statement (.foldXor d a ta p ty mem) :=
  two_words rfl (opcode_length 34 (by simp) rfl)
theorem scanInc (d a ta p ty mem) : Statement (.scanInc d a ta p ty mem) :=
  two_words rfl (opcode_length 35 (by simp) rfl)
theorem scanExc (d a ta p ty mem) : Statement (.scanExc d a ta p ty mem) :=
  two_words rfl (opcode_length 35 (by simp) rfl)
theorem rng (d a ta p) : Statement (.rng d a ta p) :=
  one_word rfl (opcode_length 38 (by simp) rfl)
theorem ident (d sl p) : Statement (.ident d sl p) :=
  one_word rfl (opcode_length 39 (by simp) rfl)
theorem fadd (d a b ta tb p) : Statement (.fadd d a b ta tb p) :=
  one_word rfl (opcode_length 40 (by simp) rfl)
theorem fsub (d a b ta tb p) : Statement (.fsub d a b ta tb p) :=
  one_word rfl (opcode_length 41 (by simp) rfl)
theorem fmul (d a b ta tb p) : Statement (.fmul d a b ta tb p) :=
  one_word rfl (opcode_length 42 (by simp) rfl)
theorem fmin (d a b ta tb p) : Statement (.fmin d a b ta tb p) :=
  one_word rfl (opcode_length 43 (by simp) rfl)
theorem fmax (d a b ta tb p) : Statement (.fmax d a b ta tb p) :=
  one_word rfl (opcode_length 44 (by simp) rfl)
theorem fdiv (d a b ta tb p) : Statement (.fdiv d a b ta tb p) :=
  one_word rfl (opcode_length 45 (by simp) rfl)
theorem fsqrt (d a ta p) : Statement (.fsqrt d a ta p) :=
  one_word rfl (opcode_length 46 (by simp) rfl)
theorem faddX (d a b ta tb p ty rm na aa nb ab) : Statement (.faddX d a b ta tb p ty rm na aa nb ab) :=
  two_words rfl (opcode_length 48 (by simp) rfl)
theorem fsubX (d a b ta tb p ty rm na aa nb ab) : Statement (.fsubX d a b ta tb p ty rm na aa nb ab) :=
  two_words rfl (opcode_length 48 (by simp) rfl)
theorem fmulX (d a b ta tb p ty rm na aa nb ab) : Statement (.fmulX d a b ta tb p ty rm na aa nb ab) :=
  two_words rfl (opcode_length 48 (by simp) rfl)
theorem fminX (d a b ta tb p ty na aa nb ab) : Statement (.fminX d a b ta tb p ty na aa nb ab) :=
  two_words rfl (opcode_length 48 (by simp) rfl)
theorem fmaxX (d a b ta tb p ty na aa nb ab) : Statement (.fmaxX d a b ta tb p ty na aa nb ab) :=
  two_words rfl (opcode_length 48 (by simp) rfl)
theorem fdivX (d a b ta tb p ty rm na aa nb ab) : Statement (.fdivX d a b ta tb p ty rm na aa nb ab) :=
  two_words rfl (opcode_length 48 (by simp) rfl)
theorem ffma (d a b ta tb p c tc ty rm na aa nb ab nc ac) : Statement (.ffma d a b ta tb p c tc ty rm na aa nb ab nc ac) :=
  two_words rfl (opcode_length 48 (by simp) rfl)
theorem fsqrtX (d a ta p ty rm na aa) : Statement (.fsqrtX d a ta p ty rm na aa) :=
  two_words rfl (opcode_length 49 (by simp) rfl)
theorem frcpA (d a ta p ty na aa) : Statement (.frcpA d a ta p ty na aa) :=
  two_words rfl (opcode_length 49 (by simp) rfl)
theorem frsqA (d a ta p ty na aa) : Statement (.frsqA d a ta p ty na aa) :=
  two_words rfl (opcode_length 49 (by simp) rfl)
theorem fexp2A (d a ta p ty na aa) : Statement (.fexp2A d a ta p ty na aa) :=
  two_words rfl (opcode_length 49 (by simp) rfl)
theorem flog2A (d a ta p ty na aa) : Statement (.flog2A d a ta p ty na aa) :=
  two_words rfl (opcode_length 49 (by simp) rfl)
theorem fcmp (md a b ta tb p cond ty na aa nb ab) : Statement (.fcmp md a b ta tb p cond ty na aa nb ab) :=
  two_words rfl (opcode_length 50 (by simp) rfl)
theorem fclass (d a ta p ty) : Statement (.fclass d a ta p ty) :=
  two_words rfl (opcode_length 51 (by simp) rfl)
theorem cvt (d a ta p c tc dty rm sty salt) : Statement (.cvt d a ta p c tc dty rm sty salt) :=
  two_words rfl (opcode_length 64 (by simp) rfl)
theorem cvtn (d a b ta p ty rm salt) : Statement (.cvtn d a b ta p ty rm salt) :=
  two_words rfl (opcode_length 65 (by simp) rfl)
theorem cvtnFrom (d a b ta p ty rm) : Statement (.cvtnFrom d a b ta p ty rm) :=
  two_words rfl (opcode_length 65 (by simp) rfl)
theorem bscale (d a b ta p ty) : Statement (.bscale d a b ta p ty) :=
  two_words rfl (opcode_length 66 (by simp) rfl)
theorem qnt (d a b ta p c tc ty rm salt) : Statement (.qnt d a b ta p c tc ty rm salt) :=
  two_words rfl (opcode_length 67 (by simp) rfl)
theorem dqnt (d a b ta p c tc ty rm) : Statement (.dqnt d a b ta p c tc ty rm) :=
  two_words rfl (opcode_length 68 (by simp) rfl)
theorem ld (d w i f t p) : Statement (.ld d w i f t p) :=
  one_word rfl (opcode_length 72 (by simp) rfl)
theorem ldX (d w i f t p ty cp disp) : Statement (.ldX d w i f t p ty cp disp) :=
  two_words rfl (opcode_length 73 (by simp) rfl)
theorem ldProbe (d w i f t p ty md cp disp) : Statement (.ldProbe d w i f t p ty md cp disp) :=
  two_words rfl (opcode_length 73 (by simp) rfl)
theorem st (d w i f t p) : Statement (.st d w i f t p) :=
  one_word rfl (opcode_length 74 (by simp) rfl)
theorem stX (d w i f t p ty cp disp) : Statement (.stX d w i f t p ty cp disp) :=
  two_words rfl (opcode_length 75 (by simp) rfl)
theorem ldx (d w i f t p ty n cp disp) : Statement (.ldx d w i f t p ty n cp disp) :=
  two_words rfl (opcode_length 76 (by simp) rfl)
theorem stx (d w i f t p ty n cp disp) : Statement (.stx d w i f t p ty n cp disp) :=
  two_words rfl (opcode_length 77 (by simp) rfl)
theorem stc (d w i f t p ty cp disp) : Statement (.stc d w i f t p ty cp disp) :=
  two_words rfl (opcode_length 78 (by simp) rfl)
theorem ldw (d a ta ty cp) : Statement (.ldw d a ta ty cp) :=
  two_words rfl (opcode_length 79 (by simp) rfl)
theorem stw (a b ta tb ty cp) : Statement (.stw a b ta tb ty cp) :=
  two_words rfl (opcode_length 80 (by simp) rfl)
theorem lds (d w i f t p ty disp) : Statement (.lds d w i f t p ty disp) :=
  two_words rfl (opcode_length 81 (by simp) rfl)
theorem sts (d w i f t p ty disp) : Statement (.sts d w i f t p ty disp) :=
  two_words rfl (opcode_length 82 (by simp) rfl)
theorem pref (w i f t p cp disp) : Statement (.pref w i f t p cp disp) :=
  two_words rfl (opcode_length 83 (by simp) rfl)
theorem stmap (a b ta) : Statement (.stmap a b ta) :=
  one_word rfl (opcode_length 84 (by simp) rfl)
theorem stunmap (a ta) : Statement (.stunmap a ta) :=
  one_word rfl (opcode_length 84 (by simp) rfl)
theorem stflush (a ta) : Statement (.stflush a ta) :=
  one_word rfl (opcode_length 84 (by simp) rfl)
theorem atomAdd (d w i f t p c tc ty rt disp) : Statement (.atomAdd d w i f t p c tc ty rt disp) :=
  two_words rfl (opcode_length 88 (by simp) rfl)
theorem atomMin (d w i f t p c tc ty rt disp) : Statement (.atomMin d w i f t p c tc ty rt disp) :=
  two_words rfl (opcode_length 88 (by simp) rfl)
theorem atomMax (d w i f t p c tc ty rt disp) : Statement (.atomMax d w i f t p c tc ty rt disp) :=
  two_words rfl (opcode_length 88 (by simp) rfl)
theorem atomAnd (d w i f t p c tc ty rt disp) : Statement (.atomAnd d w i f t p c tc ty rt disp) :=
  two_words rfl (opcode_length 88 (by simp) rfl)
theorem atomOr (d w i f t p c tc ty rt disp) : Statement (.atomOr d w i f t p c tc ty rt disp) :=
  two_words rfl (opcode_length 88 (by simp) rfl)
theorem atomXor (d w i f t p c tc ty rt disp) : Statement (.atomXor d w i f t p c tc ty rt disp) :=
  two_words rfl (opcode_length 88 (by simp) rfl)
theorem atomExch (d w i f t p c tc ty rt disp) : Statement (.atomExch d w i f t p c tc ty rt disp) :=
  two_words rfl (opcode_length 88 (by simp) rfl)
theorem atomCas (d w i f t p c tc ty disp) : Statement (.atomCas d w i f t p c tc ty disp) :=
  two_words rfl (opcode_length 88 (by simp) rfl)
theorem atomIncwrap (d w i f t p c tc ty rt disp) : Statement (.atomIncwrap d w i f t p c tc ty rt disp) :=
  two_words rfl (opcode_length 88 (by simp) rfl)
theorem atomdAdd (w i f t p c tc ty disp) : Statement (.atomdAdd w i f t p c tc ty disp) :=
  two_words rfl (opcode_length 89 (by simp) rfl)
theorem atomdMin (w i f t p c tc ty disp) : Statement (.atomdMin w i f t p c tc ty disp) :=
  two_words rfl (opcode_length 89 (by simp) rfl)
theorem atomdMax (w i f t p c tc ty disp) : Statement (.atomdMax w i f t p c tc ty disp) :=
  two_words rfl (opcode_length 89 (by simp) rfl)
theorem atomdAnd (w i f t p c tc ty disp) : Statement (.atomdAnd w i f t p c tc ty disp) :=
  two_words rfl (opcode_length 89 (by simp) rfl)
theorem atomdOr (w i f t p c tc ty disp) : Statement (.atomdOr w i f t p c tc ty disp) :=
  two_words rfl (opcode_length 89 (by simp) rfl)
theorem atomdXor (w i f t p c tc ty disp) : Statement (.atomdXor w i f t p c tc ty disp) :=
  two_words rfl (opcode_length 89 (by simp) rfl)
theorem atomdIncwrap (w i f t p c tc ty disp) : Statement (.atomdIncwrap w i f t p c tc ty disp) :=
  two_words rfl (opcode_length 89 (by simp) rfl)
theorem crdecl (a b ta tb cop) : Statement (.crdecl a b ta tb cop) :=
  two_words rfl (opcode_length 90 (by simp) rfl)
theorem cradd (d w i f t p cop disp) : Statement (.cradd d w i f t p cop disp) :=
  two_words rfl (opcode_length 91 (by simp) rfl)
theorem fence (pm sm sc cum) : Statement (.fence pm sm sc cum) :=
  one_word rfl (opcode_length 92 (by simp) rfl)
theorem ifence : Statement .ifence :=
  one_word rfl (opcode_length 93 (by simp) rfl)
theorem cpy (a b ta tb c tc src dst srole drole conv) : Statement (.cpy a b ta tb c tc src dst srole drole conv) :=
  two_words rfl (opcode_length 96 (by simp) rfl)
theorem cpyMc (a b ta tb c tc src dst role set conv) : Statement (.cpyMc a b ta tb c tc src dst role set conv) :=
  two_words rfl (opcode_length 97 (by simp) rfl)
theorem cpyColl (a b ta tb c tc src salt rm) : Statement (.cpyColl a b ta tb c tc src salt rm) :=
  two_words rfl (opcode_length 98 (by simp) rfl)
theorem cbinit (a b ta tb) : Statement (.cbinit a b ta tb) :=
  two_words rfl (opcode_length 99 (by simp) rfl)
theorem cbwait (d a ta n) : Statement (.cbwait d a ta n) :=
  two_words rfl (opcode_length 99 (by simp) rfl)
theorem cbpop (a ta n) : Statement (.cbpop a ta n) :=
  two_words rfl (opcode_length 99 (by simp) rfl)
theorem cbfree (a ta) : Statement (.cbfree a ta) :=
  two_words rfl (opcode_length 99 (by simp) rfl)
theorem mres (h wr tc ty) : Statement (.mres h wr tc ty) :=
  two_words rfl (opcode_length 100 (by simp) rfl)
theorem mrel (h) : Statement (.mrel h) :=
  one_word rfl (opcode_length 101 (by simp) rfl)
theorem mzero (s t) : Statement (.mzero s t) :=
  one_word rfl (opcode_length 101 (by simp) rfl)
theorem mwait (s) : Statement (.mwait s) :=
  one_word rfl (opcode_length 101 (by simp) rfl)
theorem mwaitAll : Statement .mwaitAll :=
  one_word rfl (opcode_length 101 (by simp) rfl)
theorem mfmt (s ty) : Statement (.mfmt s ty) :=
  two_words rfl (opcode_length 102 (by simp) rfl)
theorem mstep (s ha hb t) : Statement (.mstep s ha hb t) :=
  one_word rfl (opcode_length 103 (by simp) rfl)
theorem mloop (s ha hb t wr tc cnt) : Statement (.mloop s ha hb t wr tc cnt) :=
  two_words rfl (opcode_length 104 (by simp) rfl)
theorem mrd (s t d row cnt) : Statement (.mrd s t d row cnt) :=
  two_words rfl (opcode_length 105 (by simp) rfl)
theorem mwr (s t d tc row cnt) : Statement (.mwr s t d tc row cnt) :=
  two_words rfl (opcode_length 106 (by simp) rfl)
theorem mskv (s wr tc dep k act) : Statement (.mskv s wr tc dep k act) :=
  two_words rfl (opcode_length 107 (by simp) rfl)
theorem msamp (s cnt) : Statement (.msamp s cnt) :=
  two_words rfl (opcode_length 107 (by simp) rfl)
theorem rgmake (d a b ta tb) : Statement (.rgmake d a b ta tb) :=
  one_word rfl (opcode_length 108 (by simp) rfl)
theorem rgdrop (d a ta) : Statement (.rgdrop d a ta) :=
  one_word rfl (opcode_length 108 (by simp) rfl)
theorem rgfit (d a b ta tb) : Statement (.rgfit d a b ta tb) :=
  one_word rfl (opcode_length 109 (by simp) rfl)
theorem rgstat (d a ta) : Statement (.rgstat d a ta) :=
  one_word rfl (opcode_length 109 (by simp) rfl)
theorem phnew (d a ta) : Statement (.phnew d a ta) :=
  one_word rfl (opcode_length 110 (by simp) rfl)
theorem phfree (d a ta) : Statement (.phfree d a ta) :=
  one_word rfl (opcode_length 110 (by simp) rfl)
theorem phreg (d a mode ta) : Statement (.phreg d a mode ta) :=
  one_word rfl (opcode_length 111 (by simp) rfl)
theorem phdrop (d a ta) : Statement (.phdrop d a ta) :=
  one_word rfl (opcode_length 111 (by simp) rfl)
theorem phsig (d a ta) : Statement (.phsig d a ta) :=
  one_word rfl (opcode_length 112 (by simp) rfl)
theorem phwait (d a ta) : Statement (.phwait d a ta) :=
  one_word rfl (opcode_length 112 (by simp) rfl)
theorem pharr (d a ta) : Statement (.pharr d a ta) :=
  one_word rfl (opcode_length 112 (by simp) rfl)
theorem phbytes (d a b ta tb) : Statement (.phbytes d a b ta tb) :=
  one_word rfl (opcode_length 113 (by simp) rfl)
theorem bar : Statement .bar :=
  one_word rfl (opcode_length 114 (by simp) rfl)
theorem barto (a b ta tb) : Statement (.barto a b ta tb) :=
  one_word rfl (opcode_length 114 (by simp) rfl)
theorem flushda : Statement .flushda :=
  one_word rfl (opcode_length 115 (by simp) rfl)
theorem lkmat (d a ta) : Statement (.lkmat d a ta) :=
  one_word rfl (opcode_length 116 (by simp) rfl)
theorem lkbegin (d) : Statement (.lkbegin d) :=
  one_word rfl (opcode_length 117 (by simp) rfl)
theorem lkbeginWt (d) : Statement (.lkbeginWt d) :=
  one_word rfl (opcode_length 117 (by simp) rfl)
theorem lkend (d) : Statement (.lkend d) :=
  one_word rfl (opcode_length 117 (by simp) rfl)
theorem lkabort (d) : Statement (.lkabort d) :=
  one_word rfl (opcode_length 117 (by simp) rfl)
theorem lkacq (d a mode ta) : Statement (.lkacq d a mode ta) :=
  one_word rfl (opcode_length 118 (by simp) rfl)
theorem lktry (d a mode ta) : Statement (.lktry d a mode ta) :=
  one_word rfl (opcode_length 118 (by simp) rfl)
theorem lkup (d a mode ta) : Statement (.lkup d a mode ta) :=
  one_word rfl (opcode_length 118 (by simp) rfl)
theorem lkrel (d a ta) : Statement (.lkrel d a ta) :=
  one_word rfl (opcode_length 119 (by simp) rfl)
theorem lkstat (d a ta) : Statement (.lkstat d a ta) :=
  one_word rfl (opcode_length 119 (by simp) rfl)
theorem go (off) : Statement (.go off) :=
  one_word rfl (opcode_length 120 (by simp) rfl)
theorem br (off m) : Statement (.br off m) :=
  one_word rfl (opcode_length 120 (by simp) rfl)
theorem call (off) : Statement (.call off) :=
  one_word rfl (opcode_length 121 (by simp) rfl)
theorem brx (a ta) : Statement (.brx a ta) :=
  one_word rfl (opcode_length 122 (by simp) rfl)
theorem callx (a ta) : Statement (.callx a ta) :=
  one_word rfl (opcode_length 122 (by simp) rfl)
theorem ret (a ta) : Statement (.ret a ta) :=
  one_word rfl (opcode_length 122 (by simp) rfl)
theorem exit : Statement .exit :=
  one_word rfl (opcode_length 122 (by simp) rfl)
theorem yield : Statement .yield :=
  one_word rfl (opcode_length 122 (by simp) rfl)
theorem nop : Statement .nop :=
  one_word rfl (opcode_length 123 (by simp) rfl)
theorem launch (d a ta) : Statement (.launch d a ta) :=
  one_word rfl (opcode_length 123 (by simp) rfl)
theorem join (d a ta) : Statement (.join d a ta) :=
  one_word rfl (opcode_length 123 (by simp) rfl)
theorem trap (a ta) : Statement (.trap a ta) :=
  one_word rfl (opcode_length 124 (by simp) rfl)
theorem trapS (a ta) : Statement (.trapS a ta) :=
  one_word rfl (opcode_length 124 (by simp) rfl)
theorem brk : Statement .brk :=
  one_word rfl (opcode_length 124 (by simp) rfl)
theorem tret : Statement .tret :=
  one_word rfl (opcode_length 124 (by simp) rfl)
theorem srd (d lv sl) : Statement (.srd d lv sl) :=
  two_words rfl (opcode_length 125 (by simp) rfl)
theorem srdLaneid (d) : Statement (.srdLaneid d) :=
  two_words rfl (opcode_length 125 (by simp) rfl)
theorem swr (a ta lv sl) : Statement (.swr a ta lv sl) :=
  two_words rfl (opcode_length 125 (by simp) rfl)
theorem skey (a ta c tc) : Statement (.skey a ta c tc) :=
  two_words rfl (opcode_length 125 (by simp) rfl)
theorem tlbinv (a b ta tb) : Statement (.tlbinv a b ta tb) :=
  one_word rfl (opcode_length 126 (by simp) rfl)
theorem vacate (d a b ta tb) : Statement (.vacate d a b ta tb) :=
  one_word rfl (opcode_length 126 (by simp) rfl)
theorem tokq (d a ta) : Statement (.tokq d a ta) :=
  one_word rfl (opcode_length 126 (by simp) rfl)
theorem haltwg (d a b ta tb) : Statement (.haltwg d a b ta tb) :=
  one_word rfl (opcode_length 126 (by simp) rfl)
theorem rngLand (w n) : Statement (.rngLand w n) := no_words rfl
theorem loadLand (w n) : Statement (.loadLand w n) := no_words rfl
theorem farAtomic (w n) : Statement (.farAtomic w n) := no_words rfl
theorem hostAtomicLeaseTimeout (w) : Statement (.hostAtomicLeaseTimeout w) := no_words rfl
theorem commutativeCombination (ctx line) : Statement (.commutativeCombination ctx line) := no_words rfl
theorem fenceComplete (w) : Statement (.fenceComplete w) := no_words rfl
theorem copyLineLand (k) : Statement (.copyLineLand k) := no_words rfl
theorem copyFail (k cause kind) : Statement (.copyFail k cause kind) := no_words rfl
theorem cbSlotClaim (k) : Statement (.cbSlotClaim k) := no_words rfl
theorem streamInstructionEffect (w s) : Statement (.streamInstructionEffect w s) := no_words rfl
theorem matrixStep (w s) : Statement (.matrixStep w s) := no_words rfl
theorem regionStatusReturn (w n) : Statement (.regionStatusReturn w n) := no_words rfl
theorem refitCommit (r) : Statement (.refitCommit r) := no_words rfl
theorem regionLineEvaluation (r line) : Statement (.regionLineEvaluation r line) := no_words rfl
theorem regionStore (r off bytes) : Statement (.regionStore r off bytes) := no_words rfl
theorem phaserWaitRelease (w) : Statement (.phaserWaitRelease w) := no_words rfl
theorem barrierTimeout (g) : Statement (.barrierTimeout g) := no_words rfl
theorem lockGrant (k) : Statement (.lockGrant k) := no_words rfl
theorem woundDelivery (w) : Statement (.woundDelivery w) := no_words rfl
theorem woundPatienceExpiry (w) : Statement (.woundPatienceExpiry w) := no_words rfl
theorem siblingStop (w) : Statement (.siblingStop w) := no_words rfl
theorem coreStall (core) : Statement (.coreStall core) := no_words rfl
theorem singleStepComplete (w) : Statement (.singleStepComplete w) := no_words rfl
theorem pageWalk (core ctx va) : Statement (.pageWalk core ctx va) := no_words rfl
theorem pageMiss (core page) : Statement (.pageMiss core page) := no_words rfl
theorem writeBackArrival (k) : Statement (.writeBackArrival k) := no_words rfl
theorem workgroupDispatch (l core) : Statement (.workgroupDispatch l core) := no_words rfl
theorem gangCandidateReserve (l) : Statement (.gangCandidateReserve l) := no_words rfl
theorem gangPatienceExpiry (l) : Statement (.gangPatienceExpiry l) := no_words rfl
theorem workgroupMove (g core) : Statement (.workgroupMove g core) := no_words rfl
theorem timeSliceExpiry (ctx core) : Statement (.timeSliceExpiry ctx core) := no_words rfl
theorem launchEnd (l) : Statement (.launchEnd l) := no_words rfl
theorem tokenSpend (core) : Statement (.tokenSpend core) := no_words rfl
theorem tokenReturn (core) : Statement (.tokenReturn core) := no_words rfl
theorem coreHungry (core) : Statement (.coreHungry core) := no_words rfl
theorem powerQuotaChange (part q quota) : Statement (.powerQuotaChange part q quota) := no_words rfl
theorem sliceRatioChange (core slice code) : Statement (.sliceRatioChange core slice code) := no_words rfl
theorem sliceRatioTakesEffect (core slice) : Statement (.sliceRatioTakesEffect core slice) := no_words rfl
theorem readGrantChange (core slice grants) : Statement (.readGrantChange core slice grants) := no_words rfl
theorem thermalThrottle (q celsius) : Statement (.thermalThrottle q celsius) := no_words rfl
theorem thermalReset (q celsius) : Statement (.thermalReset q celsius) := no_words rfl
theorem coreClockGate (core) : Statement (.coreClockGate core) := no_words rfl
theorem corePowerGate (core) : Statement (.corePowerGate core) := no_words rfl
theorem coreWake (core) : Statement (.coreWake core) := no_words rfl
theorem hang (core) : Statement (.hang core) := no_words rfl
theorem uncontainedError (addr ctxs) : Statement (.uncontainedError addr ctxs) := no_words rfl
theorem correctedErrorReport (counts) : Statement (.correctedErrorReport counts) := no_words rfl
theorem launchCommand (ep pkt) : Statement (.launchCommand ep pkt) := no_words rfl
theorem cancel (ep pkt) : Statement (.cancel ep pkt) := no_words rfl
theorem seedCommand (ep pkt) : Statement (.seedCommand ep pkt) := no_words rfl
theorem vacateCommand (ep pkt) : Statement (.vacateCommand ep pkt) := no_words rfl
theorem kill (ep pkt) : Statement (.kill ep pkt) := no_words rfl
theorem sync (ep pkt) : Statement (.sync ep pkt) := no_words rfl
theorem unknownCommand (ep pkt) : Statement (.unknownCommand ep pkt) := no_words rfl
theorem wormusLinkLoss (port) : Statement (.wormusLinkLoss port) := no_words rfl
theorem wormusPortRestore (port) : Statement (.wormusPortRestore port) := no_words rfl
theorem hostDataWrite (ctx va bytes) : Statement (.hostDataWrite ctx va bytes) := no_words rfl
theorem hostDataRead (ctx va n) : Statement (.hostDataRead ctx va n) := no_words rfl
theorem partitionCreate (spec) : Statement (.partitionCreate spec) := no_words rfl
theorem contextCreate (spec) : Statement (.contextCreate spec) := no_words rfl
theorem contextKill (ctx cause) : Statement (.contextKill ctx cause) := no_words rfl
theorem partitionReset (part ok) : Statement (.partitionReset part ok) := no_words rfl
theorem moduleReset : Statement .moduleReset := no_words rfl
theorem bringUp (ok) : Statement (.bringUp ok) := no_words rfl
theorem watchArm (core slot watch) : Statement (.watchArm core slot watch) := no_words rfl
theorem watchDisarm (core slot) : Statement (.watchDisarm core slot) := no_words rfl
theorem attestationRequest (ctx nonce) : Statement (.attestationRequest ctx nonce) := no_words rfl
theorem securityVersionRaise (ver sig) : Statement (.securityVersionRaise ver sig) := no_words rfl
theorem unassignedOpcode (hdr) : Statement (.unassignedOpcode hdr) := no_words rfl
theorem phaserResultReturn (w n) : Statement (.phaserResultReturn w n) := no_words rfl
theorem lineEviction (core line) : Statement (.lineEviction core line) := no_words rfl
theorem pageRecordDrop (page) : Statement (.pageRecordDrop page) := no_words rfl
theorem laceCycle : Statement .laceCycle := no_words rfl
theorem coherenceLeaseAnswer (w granted) : Statement (.coherenceLeaseAnswer w granted) := no_words rfl

end Sys2Proof.Laws.Encoding
end

