-- ==== Sys2Proof/Tests/Slice0.lean ====
section
/-!
SUPPORT. The model's own tests. First the words of the spec's encodings and what `WellFormed` refuses; then, for each
statement of Certificates/Slice0/Obligations.lean, a state and operands that meet its hypotheses; then single steps with
results that the spec prints or that follow by hand from its rules.
-/

namespace Sys2Proof.Tests

open Sys2Proof.Machine Sys2Proof.Safety Sys2Proof.Claims

set_option Elab.async false
set_option maxRecDepth 20000
set_option synthInstance.maxSize 1000

/-! ### Words -/

/-- Each pair of words decodes to the instruction beside it. -/
noncomputable def reads (l : List (W32 × W32 × Instr)) : Bool :=
  l.all fun q => match decode q.1 q.2.1 with
    | .ok i => decide (i = q.2.2)
    | .error _ => false

/-- Words from R92, R125. -/
theorem test_vector_integer_words : reads [
    (0x0155563A, 0, .add 85 42 99 true false 2),
    (0x0355563A, 0, .sub 85 42 99 true false 2),
    (0x0755563A, 0, .mulLo 85 42 99 true false 2),
    (0x0955563A, 0, .mulHi 85 42 99 true false 2),
    (0x0B55563A, 0, .min 85 42 99 true false 2),
    (0x0D55563A, 0, .max 85 42 99 true false 2),
    (0x0F55563A, 0, .and 85 42 99 true false 2),
    (0x1155563A, 0, .or 85 42 99 true false 2),
    (0x1355563A, 0, .xor 85 42 99 true false 2),
    (0x1555563A, 0, .andn 85 42 99 true false 2),
    (0x1755563A, 0, .shl 85 42 99 true false 2),
    (0x1955563A, 0, .shr 85 42 99 true false 2),
    (0x1B55563A, 0, .sar 85 42 99 true false 2),
    (0x1D55563A, 0, .rot 85 42 99 true false 2)] = true := by decide

/-- Words from R92, R126-R128, R86. -/
theorem test_vector_immediate_words : reads [
    (0x0555541D, 0, .addImm 85 42 0x83 true 1),
    (0x1F55509D, 0, .shlImm 85 42 19 true 1),
    (0x1F55529D, 0, .shrImm 85 42 19 true 1),
    (0x1F55549D, 0, .sarImm 85 42 19 true 1),
    (0x1F55569D, 0, .rotImm 85 42 19 true 1),
    (0x2155500B, 0, .abs 85 42 true 3),
    (0x2155501B, 0, .neg 85 42 true 3),
    (0x2155502B, 0, .not 85 42 true 3),
    (0x2155503B, 0, .clz 85 42 true 3),
    (0x2155504B, 0, .popc 85 42 true 3),
    (0x2155505B, 0, .brev 85 42 true 3),
    (0x2155506B, 0, .mov 85 42 true 3),
    (0x25560006, 0, .movi 85 0x8001 2),
    (0x27538246, 0x89ABCDEF, .litVector 84 true 0xC123 0x89ABCDEF)] = true := by decide

/-- Words from R129, R130. -/
theorem test_vector_typed_words : reads [
    (0x23515625, 0x00400000, .addX 84 42 98 false true 1 .n64),
    (0x23515625, 0x00408000, .subX 84 42 98 false true 1 .n64),
    (0x23515625, 0x00410000, .mulLoX 84 42 98 false true 1 .n64),
    (0x23515625, 0x00418000, .mulHiX 84 42 98 false true 1 .n64),
    (0x23515625, 0x00428000, .minX 84 42 98 false true 1 .n64),
    (0x23515625, 0x00430000, .maxX 84 42 98 false true 1 .n64),
    (0x23515625, 0x004D0000, .addSat 84 42 98 false true 1 .n64),
    (0x23515625, 0x004D8000, .subSat 84 42 98 false true 1 .n64),
    (0x23515625, 0x85420000, .mad 84 42 98 false true 1 66 true .n64),
    (0x23515625, 0x00548000, .andX 84 42 98 false true 1 .b64),
    (0x23515625, 0x00550000, .orX 84 42 98 false true 1 .b64),
    (0x23515625, 0x00558000, .xorX 84 42 98 false true 1 .b64),
    (0x23515625, 0x00560000, .andnX 84 42 98 false true 1 .b64)] = true := by decide

/-- Words from R129, R130. -/
theorem test_vector_typed_unary_words : reads [
    (0x2351500A, 0x00338000, .absX 84 42 true 2 .s64),
    (0x2351500A, 0x00340000, .negX 84 42 true 2 .s64),
    (0x2351500A, 0x00568000, .notX 84 42 true 2 .b64),
    (0x2351500A, 0x00490000, .clzX 84 42 true 2 .n64),
    (0x2351500A, 0x00598000, .popcX 84 42 true 2 .b64),
    (0x2351500A, 0x005A0000, .brevX 84 42 true 2 .b64),
    (0x2351500A, 0x005C8000, .movX 84 42 true 2 .b64),
    (0x2351500A, 0x00374025, .shlX 84 42 0 true false 2 .s64 true 37),
    (0x2351500A, 0x0047C025, .shrX 84 42 0 true false 2 .n64 true 37),
    (0x2351500A, 0x00384025, .sarX 84 42 0 true false 2 .s64 true 37),
    (0x2351500A, 0x0058C025, .rotX 84 42 0 true false 2 .b64 true 37),
    (0x2351500A, 0x004A8854, .bfe 84 42 true 2 .n64 33 20),
    (0x2351562A, 0x005B0854, .bfi 84 42 98 true false 2 .b64 33 20),
    (0x2351562A, 0x005B800B, .sel 84 42 98 true false 2 .b64 11),
    (0x222D562A, 0x004C0005, .cmp 11 42 98 true false 2 .n64 5)] = true := by decide

/-- Words from R92, R132. -/
theorem test_uniform_words : reads [
    (0x31AD4C84, 0, .uniformAdd 53 42 25 true false),
    (0x31AD4C8C, 0, .uniformSub 53 42 25 true false),
    (0x31AD4C94, 0, .uniformMulLo 53 42 25 true false),
    (0x31AD4C9C, 0, .uniformMulHiS 53 42 25 true false),
    (0x31AD4CA4, 0, .uniformMulHiN 53 42 25 true false),
    (0x31AD4CAC, 0, .uniformMinS 53 42 25 true false),
    (0x31AD4CB4, 0, .uniformMinN 53 42 25 true false),
    (0x31AD4CBC, 0, .uniformMaxS 53 42 25 true false),
    (0x31AD4CC4, 0, .uniformMaxN 53 42 25 true false),
    (0x31AD4CCC, 0, .uniformAddSatS 53 42 25 true false),
    (0x31AD4CD4, 0, .uniformAddSatN 53 42 25 true false),
    (0x31AD4CDC, 0, .uniformSubSatS 53 42 25 true false),
    (0x31AD4CE4, 0, .uniformSubSatN 53 42 25 true false),
    (0x31AD406C, 0, .uniformAbs 53 42 true),
    (0x31AD4074, 0, .uniformNeg 53 42 true)] = true := by decide

/-- Words from R92, R132. -/
theorem test_uniform_logic_words : reads [
    (0x33AD4C82, 0, .uniformAnd 53 42 25 false true),
    (0x33AD4C8A, 0, .uniformOr 53 42 25 false true),
    (0x33AD4C92, 0, .uniformXor 53 42 25 false true),
    (0x33AD4C9A, 0, .uniformAndn 53 42 25 false true),
    (0x33AD4CAA, 0, .uniformShl 53 42 25 false true),
    (0x33AD4CB2, 0, .uniformShr 53 42 25 false true),
    (0x33AD4CBA, 0, .uniformSar 53 42 25 false true),
    (0x33AD4CC2, 0, .uniformRot 53 42 25 false true),
    (0x33AD4024, 0, .uniformNot 53 42 true),
    (0x33AD404C, 0, .uniformClz 53 42 true),
    (0x33AD4054, 0, .uniformPopc 53 42 true),
    (0x33AD405C, 0, .uniformBrev 53 42 true),
    (0x33AD4064, 0, .uniformMov 53 42 true),
    (0x3BA80000, 0, .seedTop 53),
    (0x3BA80008, 0, .seedDepth 53)] = true := by decide

/-- Words from R133, R134, R86. -/
theorem test_uniform_immediate_words : reads [
    (0x35AD4004, 0x0008F0F1, .uniformAddImm 53 42 true 0x8f0f1),
    (0x35AD400C, 0x0008F0F1, .uniformAndImm 53 42 true 0x8f0f1),
    (0x35AD4014, 0x0008F0F1, .uniformOrImm 53 42 true 0x8f0f1),
    (0x35AD401C, 0x0008F0F1, .uniformXorImm 53 42 true 0x8f0f1),
    (0x35AD4024, 0x0000003D, .uniformShlImm 53 42 true 0x3d),
    (0x35AD402C, 0x0000003D, .uniformShrImm 53 42 true 0x3d),
    (0x35AD4034, 0x0000003D, .uniformSarImm 53 42 true 0x3d),
    (0x35A80038, 0x0008F0F1, .uniformMovi 53 0x8F0F1),
    (0x37AD4C84, 0x59400000, .uniformMad 53 42 25 true false 44 true .n64),
    (0x37AD400C, 0x00400854, .uniformBfe 53 42 true .n64 33 20),
    (0x37AD4C94, 0x00500854, .uniformBfi 53 42 25 true false .b64 33 20),
    (0x365D4C9C, 0x00300004, .uniformCmp 11 42 25 true false .s64 4),
    (0x37AD4CA4, 0x0050000B, .uniformSel 53 42 25 true false .b64 11),
    (0x39AE0918, 0x89ABCDEF, .litUniform 53 0xC123 0x89ABCDEF)] = true := by decide

/-- Words from R92, R136. -/
theorem test_mask_words : reads [
    (0x49B4C000, 0, .mand 13 10 6),
    (0x49B4C400, 0, .mor 13 10 6),
    (0x49B4C800, 0, .mxor 13 10 6),
    (0x49B4CC00, 0, .mandn 13 10 6),
    (0x49B41000, 0, .mnot 13 10),
    (0x49B41400, 0, .mmov 13 10),
    (0x4BA94000, 0, .mget 53 10),
    (0x4A6D400C, 0, .mset 13 42 true),
    (0x4D514009, 0, .rng 84 40 true 1),
    (0x4F540039, 0, .ident 85 7 1),
    (0x4F500081, 0, .ident 84 16 1)] = true := by decide

/-- Words from R138, R140-R142. -/
theorem test_collective_words_1 : reads [
    (0x41555009, 0x00000809, .pollMask 85 42 true 1 9),
    (0x402D5009, 0x00100809, .pollSome 11 42 true 1 9),
    (0x402D5009, 0x00200809, .pollEvery 11 42 true 1 9),
    (0x402D5009, 0x00301409, .pollSame 11 42 true 1 .b64 9),
    (0x41555009, 0x00401409, .pollPeers 85 42 true 1 .b64 9),
    (0x402C0001, 0x00500009, .pollLead 11 1 9),
    (0x402C0001, 0x00504009, .pollLeadWelt 11 1 9),
    (0x41555009, 0x00600809, .pollCount 85 42 true 1 9),
    (0x43515629, 0x00009409, .passFrom 84 42 98 true false 1 true .b64 0 false 9),
    (0x43515629, 0x00109409, .passBack 84 42 98 true false 1 true .b64 0 false 9),
    (0x43515629, 0x00209409, .passAhead 84 42 98 true false 1 true .b64 0 false 9),
    (0x43515629, 0x00309409, .passSwap 84 42 98 true false 1 true .b64 0 false 9),
    (0x43515629, 0x00409409, .passTurn 84 42 98 true false 1 true .b64 0 false 9),
    (0x43515009, 0x00100A79, .passBack 84 42 0 true false 1 false .b32 19 true 9),
    (0x45515009, 0x00002C09, .foldAdd 84 42 true 1 .f64 9),
    (0x45515009, 0x00101009, .foldMin 84 42 true 1 .n64 9),
    (0x45515009, 0x00200C09, .foldMax 84 42 true 1 .s64 9),
    (0x45515009, 0x00301409, .foldAnd 84 42 true 1 .b64 9)] = true := by decide

/-- Words from R138, R140-R142. -/
theorem test_collective_words_2 : reads [
    (0x45515009, 0x00400809, .foldOr 84 42 true 1 .b32 9),
    (0x45515009, 0x00500809, .foldXor 84 42 true 1 .b32 9),
    (0x47515009, 0x00000409, .scanInc 84 42 true 1 .n32 9),
    (0x47515009, 0x00102809, .scanExc 84 42 true 1 .f32 9)] = true := by decide

/-- Words from R92, R152-R157. -/
theorem test_float_words_1 : reads [
    (0x5155563A, 0, .fadd 85 42 99 true false 2),
    (0x5355563A, 0, .fsub 85 42 99 true false 2),
    (0x5555563A, 0, .fmul 85 42 99 true false 2),
    (0x5755563A, 0, .fmin 85 42 99 true false 2),
    (0x5955563A, 0, .fmax 85 42 99 true false 2),
    (0x5B55563A, 0, .fdiv 85 42 99 true false 2),
    (0x5D55500A, 0, .fsqrt 85 42 true 2),
    (0x6151562A, 0x000B7200, .faddX 84 42 98 true false 2 .f64 3 true false false true),
    (0x6151562A, 0x001B7200, .fsubX 84 42 98 true false 2 .f64 3 true false false true),
    (0x6151562A, 0x002B7200, .fmulX 84 42 98 true false 2 .f64 3 true false false true),
    (0x6151562A, 0x005B7200, .fdivX 84 42 98 true false 2 .f64 3 true false false true),
    (0x6151562A, 0x003B1200, .fminX 84 42 98 true false 2 .f64 true false false true),
    (0x6151562A, 0x004B1200, .fmaxX 84 42 98 true false 2 .f64 true false false true),
    (0x6151562A, 0x856B2C80, .ffma 84 42 98 true false 2 66 true .f64 1 false true true false false true),
    (0x6351500A, 0x000B4800, .fsqrtX 84 42 true 2 .f64 2 false true),
    (0x6351500A, 0x001C1000, .frcpA 84 42 true 2 .f16 true false),
    (0x6351500A, 0x002C1000, .frsqA 84 42 true 2 .f16 true false),
    (0x6351500A, 0x003C1000, .fexp2A 84 42 true 2 .f16 true false)] = true := by decide

/-- Words from R92, R152-R157. -/
theorem test_float_words_2 : reads [
    (0x6351500A, 0x004C1000, .flog2A 84 42 true 2 .f16 true false),
    (0x642D562A, 0x006B0C00, .fcmp 11 42 98 true false 2 6 .f64 false true true false),
    (0x6755500A, 0x000B0000, .fclass 85 42 true 2 .f64)] = true := by decide

/-- Words from R158, R160. -/
theorem test_conversion_words : reads [
    (0x8155500A, 0x850D8AA5, .cvt 85 42 true 2 66 true .bf16 4 .f32 0xA5),
    (0x835556A6, 0x000A80A5, .cvtn 85 42 53 true 2 .f32 4 0xA5),
    (0x835556AE, 0x000A6000, .cvtnFrom 85 42 53 true 2 .f32 3),
    (0x855556A6, 0x000A0000, .bscale 85 42 53 true 2 .f32),
    (0x875556A6, 0x850A80A5, .qnt 85 42 53 true 2 66 true .f32 4 0xA5),
    (0x895556A6, 0x850A2000, .dqnt 85 42 53 true 2 66 true .f32 1)] = true := by decide

/-- Words from R267, R268, R273-R279. -/
theorem test_memory_words : reads [
    (0x9156AC75, 0, .ld 85 42 99 2 true 1),
    (0x9556AC75, 0, .st 85 42 99 2 true 1),
    (0x93500C5D, 0x00505ABC, .ldX 84 0 98 3 true 1 .b64 2 0x1ABC),
    (0x93500C5D, 0x005DDABC, .ldProbe 84 0 98 3 true 1 .b64 11 2 0x1ABC),
    (0x97500C5D, 0x00505ABC, .stX 84 0 98 3 true 1 .b64 2 0x1ABC),
    (0x99500C5D, 0x005C5ABC, .ldx 84 0 98 3 true 1 .b64 3 2 0x1ABC),
    (0x9B500C5D, 0x005C5ABC, .stx 84 0 98 3 true 1 .b64 3 2 0x1ABC),
    (0x9D500C5D, 0x00505ABC, .stc 84 0 98 3 true 1 .b64 2 0x1ABC),
    (0x9FAD4004, 0x00704000, .ldw 53 42 true .n8 2),
    (0xA0054C84, 0x00704000, .stw 42 25 true false .n8 2),
    (0xA3500C5D, 0x00501ABC, .lds 84 0 98 3 true 1 .b64 0x1ABC),
    (0xA5500C5D, 0x00501ABC, .sts 84 0 98 3 true 1 .b64 0x1ABC),
    (0xA6000C5D, 0x00003ABC, .pref 0 98 3 true 1 1 0x1ABC),
    (0xA805400C, 0, .stunmap 42 true),
    (0xA8054014, 0, .stflush 42 true),
    (0xA8054C84, 0, .stmap 42 25 true)] = true := by decide

/-- Words from R281, R282, R285, R286. -/
theorem test_atomic_words_1 : reads [
    (0xB1500C5D, 0x850B9ABC, .atomAdd 84 0 98 3 true 1 66 true .f64 true 0x1ABC),
    (0xB1500C5D, 0x85149ABC, .atomMin 84 0 98 3 true 1 66 true .n64 true 0x1ABC),
    (0xB1500C5D, 0x85239ABC, .atomMax 84 0 98 3 true 1 66 true .s64 true 0x1ABC),
    (0xB1500C5D, 0x85359ABC, .atomAnd 84 0 98 3 true 1 66 true .b64 true 0x1ABC),
    (0xB1500C5D, 0x85459ABC, .atomOr 84 0 98 3 true 1 66 true .b64 true 0x1ABC),
    (0xB1500C5D, 0x85559ABC, .atomXor 84 0 98 3 true 1 66 true .b64 true 0x1ABC),
    (0xB1500C5D, 0x85659ABC, .atomExch 84 0 98 3 true 1 66 true .b64 true 0x1ABC),
    (0xB1500C5D, 0x85849ABC, .atomIncwrap 84 0 98 3 true 1 66 true .n64 true 0x1ABC),
    (0xB1500C5D, 0x85759ABC, .atomCas 84 0 98 3 true 1 66 true .b64 0x1ABC),
    (0xB2000C5D, 0x85001ABC, .atomdAdd 0 98 3 true 1 66 true .s32 0x1ABC),
    (0xB2000C5D, 0x85141ABC, .atomdMin 0 98 3 true 1 66 true .n64 0x1ABC),
    (0xB2000C5D, 0x85231ABC, .atomdMax 0 98 3 true 1 66 true .s64 0x1ABC),
    (0xB2000C5D, 0x85351ABC, .atomdAnd 0 98 3 true 1 66 true .b64 0x1ABC),
    (0xB2000C5D, 0x85451ABC, .atomdOr 0 98 3 true 1 66 true .b64 0x1ABC),
    (0xB2000C5D, 0x85551ABC, .atomdXor 0 98 3 true 1 66 true .b64 0x1ABC),
    (0xB2000C5D, 0x85841ABC, .atomdIncwrap 0 98 3 true 1 66 true .n64 0x1ABC),
    (0xB4054C84, 0x00300000, .crdecl 42 25 true false 3),
    (0xB7540C5D, 0x00201ABC, .cradd 85 0 98 3 true 1 2 0x1ABC)] = true := by decide

/-- Words from R281, R282, R285, R286. -/
theorem test_atomic_words_2 : reads [
    (0xB9AD5200, 0, .fence 53 42 4 true),
    (0xBA000000, 0, .ifence)] = true := by decide

/-- Words from R289, R291, R293-R295. -/
theorem test_copy_words : reads [
    (0xC0054C84, 0x59AA55C3, .cpy 42 25 true false 44 true 2 2 0xA5 0x5C 3),
    (0xC2054C84, 0x597A5C02, .cpyMc 42 25 true false 44 true 1 3 0xA5 0xC 2),
    (0xC4054C84, 0x594A5004, .cpyColl 42 25 true false 44 true 1 0xA5 4),
    (0xC6054C84, 0x00000000, .cbinit 42 25 true false),
    (0xC7AD400C, 0x00000ABC, .cbwait 53 42 true 0xABC),
    (0xC6054014, 0x00000ABC, .cbpop 42 true 0xABC),
    (0xC605401C, 0x00000000, .cbfree 42 true)] = true := by decide

/-- Words from R188. -/
theorem test_matrix_words : reads [
    (0xC82C0000, 0x55E00000, .mres 11 42 true .nx),
    (0xCA2C0000, 0, .mrel 11),
    (0xCB402B10, 0, .mzero 5 43),
    (0xCB400020, 0, .mwait 5),
    (0xCA040020, 0, .mwaitAll),
    (0xCD400000, 0x00B00000, .mfmt 5 .f64),
    (0xCF6DAB00, 0, .mstep 5 11 6 43),
    (0xD16DAB00, 0x55000ABC, .mloop 5 11 6 43 42 true 0xABC),
    (0xD3402B00, 0xA809D000, .mrd 5 43 84 19 5),
    (0xD5402B00, 0xA909D000, .mwr 5 43 84 true 19 5),
    (0xD7400000, 0x550B6800, .mskv 5 42 true 11 6 true),
    (0xD7400010, 0x00000ABC, .msamp 5 0xABC)] = true := by decide

/-- Words from R92, R208, R332-R338. -/
theorem test_region_and_phaser_words : reads [
    (0xD9AD4C84, 0, .rgmake 53 42 25 true false),
    (0xDBAD4C84, 0, .rgfit 53 42 25 true false),
    (0xE3AD4C84, 0, .phbytes 53 42 25 true false),
    (0xD9AD400C, 0, .rgdrop 53 42 true),
    (0xDBAD400C, 0, .rgstat 53 42 true),
    (0xDDAD4004, 0, .phnew 53 42 true),
    (0xDDAD400C, 0, .phfree 53 42 true),
    (0xDFAD400C, 0, .phdrop 53 42 true),
    (0xE1AD4004, 0, .phsig 53 42 true),
    (0xE1AD400C, 0, .phwait 53 42 true),
    (0xE1AD4014, 0, .pharr 53 42 true),
    (0xDFAD4184, 0, .phreg 53 42 3 true),
    (0xE4000000, 0, .bar),
    (0xE4054C8C, 0, .barto 42 25 true false),
    (0xE6000000, 0, .flushda)] = true := by decide

/-- Words from R92, R348. -/
theorem test_lock_words : reads [
    (0xEBA80000, 0, .lkbegin 53),
    (0xEBA80008, 0, .lkbeginWt 53),
    (0xEBA80010, 0, .lkend 53),
    (0xEBA80018, 0, .lkabort 53),
    (0xEDAD4304, 0, .lkacq 53 42 6 true),
    (0xEDAD430C, 0, .lktry 53 42 6 true),
    (0xEDAD4314, 0, .lkup 53 42 6 true),
    (0xE9AD4004, 0, .lkmat 53 42 true),
    (0xEFAD4004, 0, .lkrel 53 42 true),
    (0xEFAD400C, 0, .lkstat 53 42 true)] = true := by decide

/-- Words from R87, R92, R355-R364. -/
theorem test_control_words : reads [
    (0xF155E6F0, 0, .go 0x2ABCDE),
    (0xF155E6F5, 0, .br 0x2ABCDE 5),
    (0xF355E6F0, 0, .call 0x2ABCDE),
    (0xF5520000, 0, .brx 84 true),
    (0xF5520001, 0, .callx 84 true),
    (0xF5560002, 0, .ret 85 true),
    (0xF4000003, 0, .exit),
    (0xF4000004, 0, .yield),
    (0xF6000000, 0, .nop),
    (0xF7AD400C, 0, .launch 53 42 true),
    (0xF7AD4014, 0, .join 53 42 true)] = true := by decide

/-- Words from R412, R413, R429, R92. -/
theorem test_system_words : reads [
    (0xF8054004, 0, .trap 42 true),
    (0xF8054084, 0, .trapS 42 true),
    (0xF8000008, 0, .brk),
    (0xF8000010, 0, .tret),
    (0xFBA80000, 0x00000215, .srd 53 2 0x15),
    (0xFA000000, 0xAA000403, .srdLaneid 85),
    (0xFA05400C, 0x00000215, .swr 42 true 2 0x15),
    (0xFA054014, 0xA9000000, .skey 42 true 84 true),
    (0xFC054C84, 0, .tlbinv 42 25 true false),
    (0xFDAD4C8C, 0, .vacate 53 42 25 true false),
    (0xFDAD4C9C, 0, .haltwg 53 42 25 true false),
    (0xFDAD4014, 0, .tokq 53 42 true)] = true := by decide

/-- Words from the words printed in spec/04, spec/06, spec/14 and spec/24. -/
theorem test_printed_integer_words : reads [
    (0x00080010, 0, .add 2 0 1 false false 0),
    (0x1E0C1010, 0, .shlImm 3 2 2 false 0),
    (0x00142028, 0, .add 5 4 2 true false 0),
    (0x22082050, 0x000C0002, .cmp 2 4 5 false false 0 .s32 2),
    (0x22040830, 0x001C0002, .cmp 1 1 3 false false 0 .n32 2),
    (0x22042050, 0x000C0004, .cmp 1 4 5 false false 0 .s32 4),
    (0x24180005, 0, .movi 6 1 1),
    (0x240C0001, 0, .movi 3 0 1),
    (0x401C3000, 0x00000800, .pollMask 7 6 false 0 0),
    (0x20203840, 0, .popc 8 7 false 0),
    (0x46243000, 0x00100000, .scanExc 9 6 false 0 .s32 0),
    (0x06305820, 0, .mulLo 12 11 2 false false 0),
    (0x4A0A8008, 0, .mset 1 20 false)] = true := by decide

/-- Words from the words printed in spec/04, spec/12, spec/13, spec/14, spec/19 and spec/24. -/
theorem test_printed_memory_words : reads [
    (0x90104060, 0, .ld 4 4 3 0 false 0),
    (0x94145060, 0, .st 5 5 3 0 false 0),
    (0x90088029, 0, .ld 2 8 1 1 false 1),
    (0x9210D049, 0x00A90000, .ldProbe 4 13 2 1 false 1 .f32 2 0 0),
    (0xA4200140, 0x00200000, .sts 8 0 10 0 false 0 .b32 0),
    (0xB8860800, 0, .fence 16 48 2 false),
    (0x9C106189, 0x00000000, .stc 4 6 12 1 false 1 .s32 0 0),
    (0xA22D4020, 0x00700020, .lds 11 20 1 0 false 0 .n8 32),
    (0x9674A028, 0x00D00040, .stX 29 10 1 1 false 0 .bf16 0 64),
    (0x96D88041, 0x00500000, .stX 54 8 2 0 false 1 .b64 0 0),
    (0xB0206048, 0x12008000, .atomAdd 8 6 2 1 false 0 9 false .s32 true 0),
    (0xB000A028, 0x06000000, .atomAdd 0 10 1 1 false 0 3 false .s32 false 0),
    (0xC000C000, 0x1A100000, .cpy 6 0 false false 13 false 0 1 0 0 0),
    (0xC6A00008, 0x00000003, .cbwait 20 0 false 3)] = true := by decide

/-- Words from the words printed in spec/07, spec/08, spec/13, spec/14, spec/16, spec/17, spec/19, spec/20 and spec/23. -/
theorem test_printed_other_words_1 : reads [
    (0x86406060, 0x1C0A0000, .qnt 16 12 3 false 0 14 false .f32 0 0),
    (0x60082060, 0x106A0100, .ffma 2 4 6 false false 0 8 false .f32 0 false false false false true false),
    (0x8684A060, 0x640A0000, .qnt 33 20 3 false 0 50 false .f32 0 0),
    (0x5C101800, 0, .fsqrt 4 3 false 0),
    (0xC8040000, 0x14E00000, .mres 1 10 false .nx),
    (0xCE048500, 0, .mstep 0 1 2 5),
    (0xDA79A008, 0, .rgstat 15 13 false),
    (0xDC20A000, 0, .phnew 4 5 false),
    (0xDE30A180, 0, .phreg 6 5 3 false),
    (0xE4012508, 0, .barto 9 10 false false),
    (0xE4000000, 0, .bar),
    (0xE6000000, 0, .flushda),
    (0xECA98080, 0, .lkacq 21 12 1 false),
    (0xECB18110, 0, .lkup 22 12 2 false),
    (0xECB9A380, 0, .lkacq 23 13 7 false),
    (0xEAA00000, 0, .lkbegin 20),
    (0xEA280008, 0, .lkbeginWt 5),
    (0xEAC00010, 0, .lkend 24)] = true := by decide

/-- Words from the words printed in spec/07, spec/08, spec/13, spec/14, spec/16, spec/17, spec/19, spec/20 and spec/23. -/
theorem test_printed_other_words_2 : reads [
    (0xEAD00018, 0, .lkabort 26),
    (0xEE28C000, 0, .lkrel 5 6 false),
    (0xF0000200, 0, .go 0x40),
    (0xF0000081, 0, .br 16 1),
    (0xF3FFEFF8, 0, .call 0x3FFDFF),
    (0xF4000003, 0, .exit),
    (0xF4000004, 0, .yield),
    (0xF4500001, 0, .callx 20 false),
    (0xF6000000, 0, .nop),
    (0xF628C008, 0, .launch 5 6 false),
    (0xF638A010, 0, .join 7 5 false),
    (0xFA280000, 0x00000006, .srd 5 0 6),
    (0xFA00E008, 0x00000001, .swr 7 false 0 1),
    (0xFA014008, 0x00000014, .swr 10 false 0 0x14),
    (0xFAA00000, 0x00000011, .srd 20 0 0x11),
    (0xF8000010, 0, .tret)] = true := by decide

/-! ### What WellFormed refuses (R81, R85, R93) -/

/-- A vector pair of a 64-bit type starts at an even register (R51). -/
theorem test_wf_pair : (Instr.addX 1 2 4 false false 0 .s64).wellFormed = false ∧
    (Instr.addX 0 3 4 false false 0 .s64).wellFormed = false := by decide
/-- A float type is no type of the integer X form (R129). -/
theorem test_wf_type : (Instr.addX 0 2 4 false false 0 .f32).wellFormed = false := by decide
/-- The one-word shifts take a count of 0 to 31 (R92). -/
theorem test_wf_count : (Instr.shlImm 0 1 32 false 0).wellFormed = false ∧
    (Instr.shlImm 0 1 31 false 0).wellFormed = true := by decide
/-- A condition code of CMP is at most 5 (R129). -/
theorem test_wf_cond : (Instr.cmp 1 2 4 false false 0 .s32 6).wellFormed = false := by decide
/-- The raw types have no order (R130). -/
theorem test_wf_raw_order : (Instr.cmp 1 2 4 false false 0 .b32 2).wellFormed = false := by decide
/-- A LIT of one register has no high half (R86). -/
theorem test_wf_lit : (Instr.litVector 0 false 1 0).wellFormed = false := by decide
/-- An immediate count of the uniform shifts lies in 0 to 63 (R133). -/
theorem test_wf_uniform_count : (Instr.uniformShlImm 1 2 false 64).wellFormed = false := by decide
/-- The uniform third forms act on 64-bit types alone (R134). -/
theorem test_wf_uniform_type : (Instr.uniformMad 1 2 3 false false 4 false .s32).wellFormed = false := by decide
/-- RNG names blocks of four registers (R146). -/
theorem test_wf_rng : (Instr.rng 2 4 false 0).wellFormed = false := by decide
/-- IDENT has selectors 0 to 8 and 16 (R143). -/
theorem test_wf_ident : (Instr.ident 0 9 0).wellFormed = false := by decide
/-- A rounding code of 6 or 7 is none (R150). -/
theorem test_wf_rounding : (Instr.faddX 0 2 4 false false 0 .f32 6 false false false false).wellFormed = false := by decide
/-- The approximate functions have no .f64 form (R155). -/
theorem test_wf_approx : (Instr.frcpA 0 2 false 0 .f64 false false).wellFormed = false := by decide
/-- A salt belongs to stochastic rounding (R158). -/
theorem test_wf_salt : (Instr.cvt 0 2 false 0 0 false .f16 0 .f32 1).wellFormed = false := by decide
/-- CVT converts to or from a float (R158). -/
theorem test_wf_cvt : (Instr.cvt 0 2 false 0 0 false .s32 0 .s16 0).wellFormed = false := by decide
/-- In form 0b11 of a memory operand the base field is zero and the index even (R64). -/
theorem test_wf_memory : (Instr.ld 0 1 2 3 false 0).wellFormed = false ∧ (Instr.ld 0 0 3 3 false 0).wellFormed = false := by
  decide
/-- The registers of a gather end at v127 (R274). -/
theorem test_wf_gather : (Instr.ldx 126 1 0 0 false 0 .b32 2 0 0).wellFormed = false ∧
    (Instr.ldx 125 1 0 0 false 0 .b32 2 0 0).wellFormed = true := by decide
/-- `cas` and the other atomics have the types of R282; an atomic with RT = 0 names no destination (R281). -/
theorem test_wf_atomic : (Instr.atomAdd 0 1 2 0 false 0 4 false .b32 true 0).wellFormed = false ∧
    (Instr.atomAdd 2 1 2 0 false 0 4 false .s32 false 0).wellFormed = false := by decide
/-- A buffer control register of MRES is even, from w2 (R188). -/
theorem test_wf_mres : (Instr.mres 1 3 false .f16).wellFormed = false := by decide
/-- An accumulator format is .s32, .f32 or .f64 (R188). -/
theorem test_wf_mfmt : (Instr.mfmt 0 .f16).wellFormed = false := by decide
/-- A selector that R411 does not assign, and a level for a register with one copy (R412). -/
theorem test_wf_selector : (Instr.srd 1 0 0x20).wellFormed = false ∧ (Instr.srd 1 1 6).wellFormed = false := by decide
/-- The key vector of SKEY is a pair (R413). -/
theorem test_wf_skey : (Instr.skey 1 false 3 false).wellFormed = false := by decide
/-- An unassigned opcode, and a function value that an opcode does not have (R93). -/
theorem test_wf_unassigned : decode 0xFE000000 0 = .error .unassignedOpcode ∧
    (match decode 0x30000078 0 with
      | .ok _ => false
      | .error _ => true) = true := by decide
/-- A nonzero reserved field, and the type code 0xF (R81, R85). -/
theorem test_wf_reserved : (match decode 0xF6000002 0 with
      | .ok _ => false
      | .error _ => true) = true ∧ decode 0x22000000 0x00F00000 = .error .badType := by decide

/-! ### States -/

/-- A lane inside a vector clause at 0x1000; register n holds n. -/
def lane0 : Lane :=
  { Lane.init with
    v := Vector.ofFn fun i : Fin 128 => BitVec.ofNat 32 i.val
    x := false, pc := 0x1004, pos := .inside .vector 2, seg := 0x1000 }

/-- A welt of 32 such lanes with tokens to spend; uniform register n holds n, and `m1` names the low half. -/
def welt0 : Welt :=
  { Welt.init with
    populated := 0xFFFFFFFF
    lanes := Vector.replicate 32 lane0
    w := Vector.ofFn fun i : Fin 64 => BitVec.ofNat 64 i.val
    m := (Vector.replicate 16 0).set 1 0xFFFF
    spent := 4096
    started := true }

/-- A welt on its own: one context, one launch, one workgroup on core 0. -/
def lone (w : Welt) : State :=
  { State.reset with
    bringup := .up, ctxs := [Ctx.init], launches := [Launch.init], wgs := [Wg.init], welts := [w], agenda := [] }

/-- The common state of the witnesses. -/
def s0 : State := lone welt0

/-- A welt whose lanes are all one lane. -/
def withLane (l : Lane) : Welt := { welt0 with lanes := Vector.replicate 32 l }

/-- Two groups of lanes: the low half first, by its smaller pc. -/
def s0two : State := lone { welt0 with lanes := Vector.ofFn fun i : Fin 32 =>
  if i.val < 16 then lane0 else { lane0 with pc := 0x1040 } }

/-- A draw in flight for lane 31. -/
def s0rng : State := lone { welt0 with flights := [⟨7, 0, .rng [(31, 124, 0, 0, 0, 0)]⟩], nextFlight := 8 }

/-- Lanes whose register 1 holds 4 times their number and whose pair 2, 3 holds the address of their own 8 bytes. -/
def apart : Welt := { welt0 with
  lanes := Vector.ofFn fun i : Fin 32 =>
    { lane0 with v := (((lane0.v.set 1 (BitVec.ofNat 32 (4 * i.val))).set 2 (BitVec.ofNat 32 (0x10000 + 8 * i.val))).set 3 0) }
  w := welt0.w.set 4 0x20000 }

/-- Page tables at address 0: the first gigabyte maps to itself, with every right. -/
def table : List Host.Cell := [(1, 0x40), (7, 0xC0), (0x4007, 0x8E)]

/-- Such lanes in a context with that table. -/
def s1 : State := { lone apart with mem := table }

/-! ### Witnesses: vector, uniform and mask instructions -/

theorem witness_VectorTwoSource : issuing s0 ∧ s0.issues (s0.E 1) (deps2 .b32 0 127 3 true false) 0 = true := by
  unfold issuing
  decide

theorem witness_VectorOneSource : issuing s0 ∧ s0.issues (s0.E 0) (deps1 .b32 127 0 true) 0 = true ∧
    s0.issues (s0.E 0) (({} : Deps).dst [127]) 0 = true ∧
    (Instr.litVector 126 true 0xFFFF 0xFFFFFFFF).wellFormed = true ∧
    s0.issues (s0.E 0) (({} : Deps).dst (regsOf .b64 126)) 0 = true ∧
    (Instr.litVector 127 false 0 1).wellFormed = true ∧ s0.issues (s0.E 0) (({} : Deps).dst (regsOf .b32 127)) 0 = true := by
  unfold issuing
  decide

theorem witness_VectorTypedArithmetic : issuing s0 ∧ s0.issues (s0.E 2) (deps2 .s64 126 0 2 true true) 0 = true ∧
    ([.addX 126 0 2 true true 2 .s64, .subX 126 0 2 true true 2 .s64, .mulLoX 126 0 2 true true 2 .s64,
      .mulHiX 126 0 2 true true 2 .s64, .minX 126 0 2 true true 2 .s64, .maxX 126 0 2 true true 2 .s64,
      .addSat 126 0 2 true true 2 .s64, .subSat 126 0 2 true true 2 .s64, .absX 126 0 true 2 .s64,
      .negX 126 0 true 2 .s64, .mad 126 0 2 true true 2 4 true .s64] : List Instr).all (·.wellFormed) = true ∧
    s0.issues (s0.E 2) (deps1 .s64 126 0 true) 0 = true ∧
    s0.issues (s0.E 2) ((deps2 .s64 126 0 2 true true).src true (regsOf .s64 4)) 0 = true := by
  unfold issuing
  decide

theorem witness_VectorTypedBitsAndShifts :
    ([.andX 126 0 2 true true 0 .b64, .orX 126 0 2 true true 0 .b64, .xorX 126 0 2 true true 0 .b64,
      .andnX 126 0 2 true true 0 .b64, .bfi 126 0 2 true true 0 .b64 60 3, .sel 126 0 2 true true 0 .b64 15,
      .notX 126 0 true 0 .b64, .movX 126 0 true 0 .b64, .brevX 126 0 true 0 .b64, .clzX 126 0 true 0 .b64,
      .popcX 126 0 true 0 .b64, .bfe 126 0 true 0 .n64 0 63, .shlX 126 0 0 true false 0 .s64 true 63,
      .shrX 126 0 1 true false 0 .n64 false 0, .sarX 126 0 0 true false 0 .s64 true 63,
      .rotX 126 0 0 true false 0 .b64 true 63] : List Instr).all (·.wellFormed) = true ∧
    s0.issues (s0.E 0) (deps2 .b64 126 0 2 true true) 0 = true ∧ s0.issues (s0.E 0) (deps1 .n64 126 0 true) 0 = true ∧
    s0.issues (s0.E 0) (((({} : Deps).src true (regsOf .n64 0)).src false [1]).dst (regsOf .n64 126)) 0 = true := by decide

theorem witness_MaskResults : (Instr.cmp 15 126 0 false true 3 .s64 5).wellFormed = true ∧
    s0.issues (s0.E 3) ((({} : Deps).src false (regsOf .s64 126)).src true (regsOf .s64 0)) 0 = true ∧
    s0.issues s0.cw.A {} 0 = true ∧ s0.issues s0.cw.A (({} : Deps).wsrc true 63) 0 = true ∧
    s0.issues s0.cw.A ((({} : Deps).wsrc true 63).wsrc false 0) 0 = true ∧
    (Instr.uniformCmp 0 63 0 true false .n64 5).wellFormed = true := by decide

theorem witness_UniformArithmetic : s0.issues s0.cw.A (((({} : Deps).wsrc true 63).wsrc false 1).wdst 0) 0 = true ∧
    s0.issues s0.cw.A ((({} : Deps).wsrc true 63).wdst 63) 0 = true ∧
    ([.uniformAbs 63 63 true, .uniformNeg 63 63 true, .uniformNot 63 63 true, .uniformClz 63 63 true,
      .uniformPopc 63 63 true, .uniformBrev 63 63 true, .uniformMov 63 63 true, .uniformAddImm 63 63 true 0xFFFFF,
      .uniformAndImm 63 63 true 0x80000, .uniformOrImm 63 63 true 1, .uniformXorImm 63 63 true 1,
      .uniformShlImm 63 63 true 63, .uniformShrImm 63 63 true 63, .uniformSarImm 63 63 true 63] : List Instr).all
        (·.wellFormed) = true := by decide

theorem witness_UniformThirdForms : s0.issues s0.cw.A (({} : Deps).wdst 63) 0 = true ∧
    (Instr.uniformBfi 63 1 2 true false .b64 0 63).wellFormed = true ∧
    (Instr.uniformSel 63 1 2 true false .b64 15).wellFormed = true ∧
    (Instr.uniformBfe 63 1 true .s64 63 0).wellFormed = true ∧
    s0.issues s0.cw.A ((((({} : Deps).wsrc true 1).wsrc false 2).wsrc true 3).wdst 63) 0 = true := by decide

/-- Register 5 is empty in every lane: EMPTY-READ with t = 1, a wait with t = 0. -/
def s0empty : State := lone (withLane { lane0 with full := lane0.full.shiftLeft 6 })

theorem witness_ReadinessGate : issuing s0empty ∧ s0empty.cw.halt = .none ∧
    (s0empty.E 0).getLsbD 31 = true ∧ (s0empty.cw.lane 31).full.getLsbD 5 = false ∧
    (s0empty.cw.lane 31).full.getLsbD 6 = true := by
  unfold issuing
  decide

/-! ### Witnesses: collectives, identity, random numbers -/

/-- One lane of two members has arrived before; the others arrive now. -/
def s0held : State := lone { welt0 with
  lanes := welt0.lanes.set 0 { lane0 with h := true }
  colls := [⟨0, 0x1004, 0x3, 0x1, .none⟩] }

theorem witness_PollsReportMembers : completes s0 (s0.E 0) 1 ∧ completes s0held (s0held.E 0) 0 ∧
    s0.issues (s0.E 0) (collDeps .b32 127 0 true) 0 = true ∧
    s0.issues (s0.E 0) ((({} : Deps).src true (regsOf .b64 0)).dst [127]) 0 = true := by
  unfold completes
  decide

theorem witness_PassHandsOver : completes s0 (s0.E 0) 0 ∧
    s0.issues (s0.E 0) ((({} : Deps).src true (regsOf .b64 0)).dst (regsOf .b64 126)) 0 = true ∧
    ([.passFrom 126 0 0 true false 0 true .b64 31 true 0, .passBack 126 0 0 true false 0 true .b64 31 true 0,
      .passAhead 126 0 0 true false 0 true .b64 0 true 0, .passSwap 126 0 1 true false 0 true .b64 0 false 0,
      .passTurn 126 0 1 true false 0 true .b64 0 false 0] : List Instr).all (·.wellFormed) = true := by
  unfold completes
  decide

theorem witness_FoldsAndScans : completes s0 (s0.E 0) 1 ∧ s0.issues (s0.E 0) (collDeps .s64 126 0 true) 0 = true ∧
    Ty.isNumber .s64 = true ∧ ([.foldAdd 126 0 true 0 .s64 1, .foldMin 126 0 true 0 .s64 1, .foldMax 126 0 true 0 .s64 1,
      .scanInc 126 0 true 0 .s64 1, .scanExc 126 0 true 0 .s64 1, .foldAnd 126 0 true 0 .b64 1, .foldOr 126 0 true 0 .b64 1,
      .foldXor 126 0 true 0 .b64 1] : List Instr).all (·.wellFormed) = true := by
  unfold completes
  decide

/-- A signalling NaN in every lane, and the trap on invalid operations enabled. -/
def s0snan : State := lone { withLane { lane0 with v := Vector.replicate 128 0x7F800001 } with fpctl := 0x200 }

/-! ### Witnesses: floating point and conversions -/

theorem witness_FloatFoldsAndScans : completes s0 (s0.E 0) 0 ∧ s0.issues (s0.E 0) (collDeps .f32 126 0 true) 0 = true ∧
    fpTrap s0.cw.fpctl 0x3F = none ∧ ([.foldAdd 126 0 true 0 .f64 1, .foldMin 126 0 true 0 .f32 1,
      .foldMax 126 0 true 0 .f64 1, .scanInc 126 0 true 0 .f32 1, .scanExc 126 0 true 0 .f64 1] : List Instr).all
        (·.wellFormed) = true := by
  unfold completes
  decide

/-- A signalling NaN is an invalid operation, whose trap is enabled. -/
theorem witness_FloatFoldsAndScans_trap : completes s0snan (s0snan.E 0) 0 ∧
    (decodeF .f32 ((s0snan.cw.lane 31).rdTy .f32 127)).isSnan = true ∧
    fpTrap s0snan.cw.fpctl fNV = some .fpInvalid := by
  unfold completes
  decide

theorem witness_CollectiveHolds : issuing s0two ∧ s0two.E 0 ≠ 0 ∧ s0two.cw.serial = none ∧
    s0two.issues (s0two.E 0) (collDeps .b32 127 0 true) 0 = true ∧
    (∀ l < 32, (members s0two (s0two.E 0) 0).getLsbD l → (s0two.cw.lane l).x = false) ∧
    (members s0two (s0two.E 0) 0).getLsbD 31 = true ∧ (arrived s0two (s0two.E 0)).getLsbD 31 = false ∧
    (s0two.E 0).getLsbD 31 = false ∧ (s0two.cw.lane 31).x = false ∧ (s0two.cw.lane 31).h = false := by
  unfold issuing
  decide

theorem witness_IdentityAndRandomNumbers : (Instr.ident 126 16 3).wellFormed = true ∧
    (Instr.ident 127 8 3).wellFormed = true ∧ (Instr.ident 127 0 3).wellFormed = true ∧
    s0.issues (s0.E 3) (({} : Deps).dst (regsOf .b64 126)) 0 = true ∧ s0.E 1 ≠ 0 ∧
    s0.issues (s0.E 1) ((({} : Deps).src true [124, 125, 126, 127]).dst [0, 1, 2, 3]) 1 = true ∧
    (s0rng.weltAt 0).flights.find? (fun f => f.num == 7) = some ⟨7, 0, .rng [(31, 124, 0, 0, 0, 0)]⟩ := by decide

theorem witness_FloatTwoSource : s0.issues (s0.E 0) (deps2 .f32 0 127 1 true false) 2 = true ∧
    fpTrap s0.cw.fpctl (conditions s0 (s0.E 0) fun _ l =>
      rounded s0 .f32 0 fun m => addExact m (source s0 .f32 l 127 false false) (source s0 .f32 l 1 false false)) = none ∧
    fpTrap s0snan.cw.fpctl (conditions s0snan (s0snan.E 0) fun _ l =>
      rounded s0snan .f32 0 fun m => addExact m (source s0snan .f32 l 127 false false)
        (source s0snan .f32 l 1 false false)) = some .fpInvalid ∧
    ([.faddX 126 0 2 true false 0 .f64 5 true true true true, .fsubX 126 0 2 true false 0 .f64 0 true true true true,
      .fmulX 126 0 2 true false 0 .f64 4 true true true true, .fdivX 126 0 2 true false 0 .f64 3 true true true true,
      .fminX 126 0 2 true false 0 .f64 true true true true, .fmaxX 126 0 2 true false 0 .f64 true true true true] :
        List Instr).map (·.wellFormed) = [true, true, false, true, true, true] ∧
    (Instr.fmulX 126 0 2 true false 0 .f64 5 true true true true).wellFormed = true ∧
    s0.issues (s0.E 0) (deps2 .f64 126 0 2 true false) 4 = true := by decide +kernel

theorem witness_FloatOtherArithmetic :
    (Instr.ffma 126 0 2 true false 0 4 true .f64 5 true true true true true true).wellFormed = true ∧
    s0.issues (s0.E 0) ((deps2 .f64 126 0 2 true false).src true (regsOf .f64 4)) 2 = true ∧
    s0.issues (s0.E 0) (deps1 .f32 127 0 true) 2 = true ∧
    (Instr.fsqrtX 126 0 true 0 .f64 3 true true).wellFormed = true ∧ s0.issues (s0.E 0) (deps1 .f64 126 0 true) 4 = true ∧
    ([.frcpA 127 0 true 0 .f32 true true, .frsqA 127 0 true 0 .bf16 true true, .fexp2A 127 0 true 0 .f16 true true,
      .flog2A 127 0 true 0 .f32 true true] : List Instr).all (·.wellFormed) = true ∧
    s0.issues (s0.E 0) (deps1 .bf16 127 0 true) 1 = true := by decide

theorem witness_ReciprocalWithinOneUlp : Ty.isFloat .f16 = true ∧ Ty.f16 ≠ Ty.f64 ∧ (0 : Rat) < 2 ∧
    pow2 (gridOf .f16).emin ≤ 1 / (2 : Rat) ∧ 1 / (2 : Rat) ≤ (gridOf .f16).max ∧
    rcpA .f16 false 0x4000 (.fin false 2) = (.fin false (1 / 2), 0) := by decide +kernel

theorem witness_RoundingModes : (0 : Rat) ≤ 5 / 2 ∧ (0 : Rat) < 1 := by decide +kernel

theorem witness_FloatCompareAndClass : (Instr.fcmp 15 126 0 true false 0 7 .f64 true true true true).wellFormed = true ∧
    s0.issues (s0.E 0) ((({} : Deps).src true (regsOf .f64 126)).src false (regsOf .f64 0)) 0 = true ∧
    fpTrap s0.cw.fpctl (conditions s0 (s0.E 0) fun l _ =>
      (0, (condF 2 (source s0 .f32 (s0.cw.lane l) 126 false false) (source s0 .f32 (s0.cw.lane l) 0 false false)).2)) = none ∧
    fpTrap s0snan.cw.fpctl (conditions s0snan (s0snan.E 0) fun l _ => (0, (condF 2
      (source s0snan .f32 (s0snan.cw.lane l) 126 false false)
      (source s0snan .f32 (s0snan.cw.lane l) 0 false false)).2)) = some .fpInvalid ∧
    (Instr.fclass 127 126 true 0 .f64).wellFormed = true ∧
    s0.issues (s0.E 0) ((({} : Deps).src true (regsOf .f64 126)).dst [127]) 0 = true := by decide +kernel

theorem witness_ConversionsBetweenTypes : (Instr.cvt 127 126 true 0 3 true .bf16 4 .f64 255).wellFormed = true ∧
    s0.issues (s0.E 0) (((({} : Deps).src true (regsOf .f64 126)).dst (regsOf .bf16 127)).src true [3]) 0 = true ∧
    (Instr.cvt 126 127 true 0 0 false .s64 3 .f32 0).wellFormed = true ∧
    (Instr.cvt 126 127 true 0 0 false .f64 0 .n8 0).wellFormed = true ∧
    s0.issues (s0.E 0) ((({} : Deps).src true (regsOf .n8 127)).dst (regsOf .f64 126)) 0 = true := by decide

/-- Descriptors in `w2`, one that R115 accepts and one that it refuses. -/
def s0desc (d : W64) : State := lone { welt0 with w := welt0.w.set 2 d }

theorem witness_NarrowConversions : (s0desc 0xA1104000).cw.fullW 2 = true ∧
    narrowOk (((s0desc 0xA1104000).cw.rdW 2).setWidth 32) = true ∧
    narrowOk (((s0desc 0xFFFFFFFF).cw.rdW 2).setWidth 32) = false ∧
    ([.cvtn 127 126 2 true 0 .f64 4 255, .cvtnFrom 126 127 2 true 0 .f64 3, .bscale 127 126 2 true 0 .f64,
      .qnt 127 126 2 true 0 3 true .f64 4 255, .dqnt 126 127 2 true 0 3 true .f64 3] : List Instr).all
        (·.wellFormed) = true ∧
    (s0desc 0xA1104000).issues s0.cw.A
      (((({} : Deps).src true (regsOf .f64 126)).src true [3] |>.dst [127]).wsrc true 2) 0 = true := by decide

/-! ### Witnesses: memory -/

/-- `accessible` as a computation. -/
def canAccess (s : State) (stash load store : Bool) (size : Nat) (e : Lanes) (j0 n : Nat) (A : Nat → Nat → W64)
    (xl : W64 → Except XFault (List Loc)) : Bool :=
  (List.range 32).all fun l => !(e.getLsbD l) || (List.range n).all fun j => decide (j < j0) ||
    (match watchVA s stash (A l j) with
      | some v => !(s.watched load store v size)
      | none => true) && match xl (A l j) with
      | .ok ls => decide (ls.length = size) && !(s.inFlight ls) && !(s.ratioHolds ls)
      | .error _ => false

theorem accessible_of {s : State} {stash load store : Bool} {size : Nat} {e : Lanes} {j0 n : Nat} {A : Nat → Nat → W64}
    {xl : W64 → Except XFault (List Loc)} (h : canAccess s stash load store size e j0 n A xl = true) :
    accessible s stash load store size e j0 n A xl := by
  intro l hl he j hj hn
  simp only [canAccess, List.all_eq_true, List.mem_range, Bool.or_eq_true, Bool.and_eq_true] at h
  have := h l hl
  simp only [he, Bool.not_true, Bool.false_eq_true, false_or] at this
  obtain h1 | ⟨h1, h2⟩ := this j hn
  · exact absurd hj (by simpa using h1)
  · refine ⟨fun v hv => by simpa [hv] using h1, ?_⟩
    split at h2
    · next ls hx => exact ⟨ls, hx, by simpa [and_assoc] using h2⟩
    · exact absurd h2 (by simp)

/-- No location of a list lies in a region. -/
def outsideRegions (ls : List Loc) : Bool := ls.all fun l => match l with
  | .region _ _ => false
  | _ => true

theorem not_inRegion {ls : List Loc} (h : outsideRegions ls = true) : ∀ a ∈ ls, ¬inRegion a := by
  intro a ha hr
  simp only [outsideRegions, List.all_eq_true] at h
  have := h a ha
  cases a <;> simp_all [inRegion]

theorem witness_LoadsFly : issuing s1 ∧ s1.todo 0 ≠ 0 ∧ (Instr.ldX 126 4 1 0 true 0 .b64 2 0x1000).wellFormed = true ∧
    s1.issues (s1.E 0) ((memDeps {} true 4 1 0 1).dst (elemRegs .b64 126 1)) 0 = true ∧
    accessible s1 false true false 8 (s1.todo 0) 0 1 (s1.elemAddr 4 1 0 8 0x1000) (s1.loadXlate 8) ∧
    (Instr.ldx 120 0 2 3 false 0 .b64 0 0 0).wellFormed = true ∧ s1.cw.replayElem < 1 ∧
    accessible s1 false true false 8 (s1.todo 0) s1.cw.replayElem 1 (s1.elemAddr 0 2 3 8 0) (s1.loadXlate 8) ∧
    (Instr.ldProbe 126 4 1 0 true 0 .b64 15 2 0x0FFF).wellFormed = true ∧
    accessible s1 false true false 8 (s1.todo 0) 0 1 (s1.elemAddr 4 1 0 8 0x0FFF) (s1.probeXlate 8) := by
  refine ⟨by unfold issuing; decide, by decide, by decide, by decide, accessible_of (by decide +kernel), by decide, by decide,
    accessible_of (by decide +kernel), by decide, accessible_of (by decide +kernel)⟩

/-- A stash block that exists, and lanes that reach it with a base of 0. -/
def s1stash : State := { s1 with
  wgs := [{ Wg.init with blocks := Wg.init.blocks.set 31 (BitVec.twoPow 64 63) }]
  welts := [{ apart with w := apart.w.set 4 0x1FFF00 }] }

theorem witness_LoadsFly_stash : (Instr.lds 127 4 1 0 true 0 .b32 0).wellFormed = true ∧
    accessible s1stash true true false 4 (s1stash.todo 0) 0 1 (s1stash.elemAddr 4 1 0 4 0)
      (fun a => s1stash.consume (s1stash.stashXlate .load 4 a)) :=
  ⟨by decide, accessible_of (by decide +kernel)⟩

/-- A load of two lanes, one of which fills consecutive registers up to the last, and one of a uniform register in flight. -/
def s1flying : State := lone { welt0 with
  flights := [⟨3, 0, .load [⟨0, 126, .b64, (List.range 8).map .dev⟩, ⟨31, 5, .s8, [.dev 127]⟩,
    ⟨31, 126, .b32, [.dev 0, .dev 1, .dev 2, .dev 3]⟩, ⟨31, 127, .b32, [.dev 4, .dev 5, .dev 6, .dev 7]⟩]⟩,
    ⟨4, 1, .loadW 63 .n16 0xFFFFFFFF [.dev 0, .dev 1]⟩]
  nextFlight := 5 }

theorem witness_LoadsLand : 0 < s1flying.welts.length ∧ (s1flying.weltAt 0).ended = false ∧ noPartials s1flying ∧
    (match (s1flying.weltAt 0).flights.find? (fun f => f.num == 3) with
      | some ⟨3, 0, .load es⟩ => es.length == 4 && es.all (fun e => decide (e.lane < 32) &&
          (regsOf e.ty e.dst).all fun r => decide (r < 128)) &&
        decide (es.Pairwise fun e e' => e.lane ≠ e'.lane ∨ ∀ r ∈ regsOf e.ty e.dst, r ∉ regsOf e'.ty e'.dst)
      | _ => false) = true ∧
    (s1flying.weltAt 0).flights.find? (fun f => f.num == 4) = some ⟨4, 1, .loadW 63 .n16 0xFFFFFFFF [.dev 0, .dev 1]⟩ := by
  unfold noPartials
  decide

theorem witness_StoresWriteTheirBytes : memoriesWf s1 ∧ noPartials s1 ∧
    (Instr.stx 124 0 2 3 true 0 .b64 0 2 0x1FFF).wellFormed = true ∧
    s1.issues (s1.E 0) ((memDeps {} true 0 2 3 1).src true (elemRegs .b64 124 1)) 0 = true ∧
    accessible s1 false false true 8 (s1.E 0) 0 1 (s1.elemAddr 0 2 3 8 0x1FFF) (s1.dataXlate .store 8) ∧
    (List.range 32).all (fun l => match s1.dataXlate .store 8 (s1.elemAddr 0 2 3 8 0x1FFF l 0) with
      | .ok ls => outsideRegions ls
      | .error _ => false) = true ∧ (∀ k, settled s1 (.dev k)) := by
  refine ⟨?_, ?_, by decide, by decide, accessible_of (by decide +kernel), by decide +kernel, fun k => ?_⟩
  · unfold memoriesWf; decide
  · unfold noPartials; decide
  · simp [settled, State.unobservedDev, show s1.copies = [] from by decide]

/-- In a context with no table every lane faults. -/
theorem witness_StoresWriteTheirBytes_fault : (Instr.st 127 4 1 0 true 0).wellFormed = true ∧
    (∀ l < 32, ∀ j < 1, unwatched s0 false false true (s0.elemAddr 4 1 0 4 0 l j) 4) ∧
    (match s0.dataXlate .store 4 (s0.elemAddr 4 1 0 4 0 31 0) with
      | .ok _ => false
      | .error x => decide (x = ⟨.page, 1⟩)) = true := by
  have h : (s0.coreAt s0.cg.core).watches.toList = List.replicate 4 none := by decide
  refine ⟨by decide, fun l hl j hj v hv => ?_, by decide +kernel⟩
  unfold State.watched
  rw [h]
  rfl

theorem witness_StoresWriteTheirBytes_compress : s1.cw.replay = none ∧
    (Instr.stc 126 4 1 0 true 1 .b64 0 0).wellFormed = true ∧
    s1.issues (s1.E 1) ((memDeps {} true 4 1 0 1).src true (regsOf .b64 126)) 0 = true ∧
    ((List.range 32).filter fun l => (s1.E 1).getLsbD l).length = 16 ∧
    (List.range 16).all (fun k => match s1.dataXlate .store 8 (s1.elemAddr 4 1 0 8 0 0 0 + BitVec.ofNat 64 (8 * k)) with
      | .ok ls => decide (ls = (List.range 8).map fun b => .dev (0x20000 + 8 * k + b)) && decide (ls.map cellOf).Nodup && !(s1.inFlight ls) &&
          !(s1.ratioHolds ls)
      | .error _ => false) = true ∧
    (List.range 16).all (fun k => !(s1.watched false true (s1.elemAddr 4 1 0 8 0 0 0 + BitVec.ofNat 64 (8 * k)) 8)) = true := by
  decide +kernel

theorem witness_UniformAccesses : s1.issues s1.cw.A ((({} : Deps).wsrc true 4).wdst 63) 0 = true ∧
    s1.watched true false (s1.cw.rdW 4) 8 = false ∧ s1.watched false true (s1.cw.rdW 4) 8 = false ∧
    s1.loadXlate 8 (s1.cw.rdW 4) = .ok ((List.range 8).map fun k => .dev (0x20000 + k)) ∧
    s1.dataXlate .store 8 (s1.cw.rdW 4) = .ok ((List.range 8).map fun k => .dev (0x20000 + k)) ∧
    s1.inFlight ((List.range 8).map fun k => .dev (0x20000 + k)) = false ∧
    (((List.range 8).map fun k => Loc.dev (0x20000 + k)).map cellOf).Nodup ∧
    s1.ratioHolds ((List.range 8).map fun k => .dev (0x20000 + k)) = false ∧
    s1.issues s1.cw.A ((({} : Deps).wsrc true 4).wsrc false 63) 0 = true ∧
    s1.issues (s1.E 3) (memDeps {} true 4 127 2 1) 0 = true := by decide +kernel

/-- Block 31 scratch, block 0 bound to the range at 0x20000; `w2` names a range for block 31. -/
def s1blocks : State := { s1 with
  wgs := [{ Wg.init with blocks := (Wg.init.blocks.set 31 (BitVec.twoPow 64 63)).set 0 0xC000000000020000 }]
  welts := [{ apart with w := ((apart.w.set 1 31).set 2 0x30000).set 3 0 }] }

theorem witness_StashBlocks : s1blocks.cw.wg < s1blocks.wgs.length ∧ (s1blocks.cw.rdW 1).toNat < 32 ∧
    (s1blocks.cg.blocks.toList.getD 31 0).getLsbD 63 = true ∧ (s1blocks.cg.blocks.toList.getD 31 0).getLsbD 62 = false ∧
    field (s1blocks.cw.rdW 2) 0 16 = 0 ∧ field (s1blocks.cw.rdW 2) 52 12 = 0 ∧
    (∀ j < 32, (s1blocks.cg.blocks.toList.getD j 0).getLsbD 62 = true →
      field (s1blocks.cg.blocks.toList.getD j 0) 16 36 ≠ field (s1blocks.cw.rdW 2) 16 36) ∧
    s1blocks.mapFault (s1blocks.cw.rdW 2) = none ∧ (s1blocks.cg.blocks.toList.getD (s1blocks.cw.rdW 3).toNat 0).getLsbD 62 = true ∧
    field (s1blocks.cw.rdW 5) 0 16 ≠ 0 ∧ s1blocks.issues s1blocks.cw.A ((({} : Deps).wsrc true 1).wsrc false 2) 0 = true ∧
    s1blocks.issues s1blocks.cw.A (({} : Deps).wsrc true 3) 0 = true ∧ s1blocks.cg.rebinding = [] ∧
    s1blocks.blockDirty s1blocks.cw.wg 0 = [] ∧ s1blocks.cw.flights = [] ∧ s1blocks.cw.halt = .none := by decide +kernel

/-- Block 0 with a dirty line, a load of the welt from block 31 in flight, and a change of block 0 that is over or not. -/
def s1changing (done : Bool) : State := { s1blocks with
  cached := [⟨0, (0, 0, 0x400), some (0, 0), true, true⟩]
  wgs := [{ s1blocks.cg with rebinding := [⟨0, 0, [], done⟩] }]
  welts := [{ s1blocks.cw with flights := [⟨0, 0, .load [⟨0, 5, .s8, [.stash 0 0x1F0000]⟩]⟩] }] }

theorem witness_StashBlocks_changing : (∃ f ∈ (s1changing true).cw.flights, ∃ l ∈ f.kind.locs, ∃ off, off / 65536 = 31 ∧
      (l = .stash (s1changing true).cw.wg off ∨ ∃ x, l = .block (s1changing true).cw.wg off x)) ∧
    ((s1changing true).cw.rdW 1).toNat = 31 ∧ (s1changing true).blockDirty 0 0 ≠ [] ∧
    (s1changing true).cg.rebinding.find? (fun r => r.block == 0 && r.welt == 0) = some ⟨0, 0, [], true⟩ ∧
    (s1changing false).cg.rebinding.find? (fun r => r.block == 0 && r.welt == 0) = some ⟨0, 0, [], false⟩ :=
  ⟨⟨_, List.mem_cons_self .., _, List.mem_cons_self .., 0x1F0000, rfl, .inl rfl⟩, by decide, by decide, by decide, by decide⟩

/-! ### Witnesses: atomics, ranges, fences -/

/-- The operations of an integer add that the lanes of `m1` ask for at their own words. -/
def addOps : List AtomOp := operations s1 (s1.E 1) 0 .n32 126 127 true fun l => s1.elemAddr 4 1 0 4 0 l 0

theorem addOps_eq : addOps = (List.range 16).map fun l =>
    ⟨l, (List.range 4).map fun k => .dev (0x20000 + 4 * l + k), 0, .n32, 127, 126, some 126⟩ := by decide +kernel

theorem addOps_whole : wholeOps s1 addOps := by
  rw [addOps_eq]
  refine ⟨fun o ho => ?_, ?_⟩
  · obtain ⟨l, -, rfl⟩ := List.mem_map.1 ho
    refine ⟨?_, by simp [Ty.bytes, Ty.width], fun a ha => ?_⟩
    · rw [List.map_map, List.nodup_map_iff_inj_on List.nodup_range]
      intro a _ b _ e
      simpa [cellOf] using e
    · obtain ⟨k, -, rfl⟩ := List.mem_map.1 ha
      exact ⟨.inl ⟨_, rfl⟩, by simp [settled, State.unobservedDev, show s1.copies = [] from by decide]⟩
  · rw [List.pairwise_map]
    exact (List.nodup_range (n := 16)).imp fun h => h

/-- `atomicsReady` as a computation. -/
def readyAtoms (s : State) (e : Lanes) (ty : Ty) (A : Nat → W64) : Bool :=
  s.cw.replay.isNone && e != 0 && (List.range 32).all fun l => !(e.getLsbD l) ||
    decide ((A l).toNat % ty.bytes = 0) && !(s.watched true true (A l) ty.bytes) &&
      match s.consume (s.dataXlate .both ty.bytes (A l)) with
      | .ok ls => !(s.inFlight ls) && !(s.ratioHolds ls)
      | .error _ => false

theorem atomicsReady_of {s : State} {e : Lanes} {ty : Ty} {A : Nat → W64} (h : readyAtoms s e ty A = true) :
    atomicsReady s e ty A := by
  simp only [readyAtoms, List.all_eq_true, List.mem_range, Bool.or_eq_true, Bool.and_eq_true, bne_iff_ne] at h
  refine ⟨by simpa using h.1.1, h.1.2, fun l hl he => ?_⟩
  have := h.2 l hl
  simp only [he, Bool.not_true, Bool.false_eq_true, false_or] at this
  refine ⟨by simpa using this.1.1, by simpa using this.1.2, ?_⟩
  have h2 := this.2
  split at h2
  · next ls hx => exact ⟨ls, hx, by simpa using h2⟩
  · exact absurd h2 (by simp)

theorem witness_AtomicsStart : issuing s1 ∧ s1.cl.det = false ∧
    (Instr.atomAdd 126 4 1 0 true 1 127 true .n32 true 0).wellFormed = true ∧
    s1.issues (s1.E 1) (((memDeps {} true 4 1 0 1).src true (regsOf .n32 127)).dst (regsOf .n32 126)) 0 = true ∧
    s1.cl.walker = false ∧ atomicsReady s1 (s1.E 1) .n32 (fun l => s1.elemAddr 4 1 0 4 0 l 0) ∧ wholeOps s1 addOps ∧
    addOps.all (fun o => o.way s1.cc == .native) = true ∧
    addOps.all (near s1 (s1.E 1) .n32 (fun l => s1.elemAddr 4 1 0 4 0 l 0) addOps) = true := by
  refine ⟨by unfold issuing; decide, by decide, by decide, by decide, by decide, atomicsReady_of (by decide +kernel),
    addOps_whole, ?_, ?_⟩ <;> decide +kernel

/-- The page of those words is shared and no core holds their lines, so the operations are far. -/
theorem witness_AtomicsStart_far :
    addOps.all (fun o => !(near { s1 with pages := [⟨0x20000, 65536, .shared⟩] } (s1.E 1) .n32
      (fun l => s1.elemAddr 4 1 0 4 0 l 0) addOps o)) = true := by decide +kernel

/-- The same lanes where the table maps those words to a host page on an endpoint that has no native atomics. -/
def s1host (leases : Bool) : State := { s1 with
  ctxs := [{ Ctx.init with endpoints := [⟨0, 0, [], leases⟩] }]
  mem := [(1, 0x40), (7, 0xC0), (0x4007, 0x9E)] }

theorem witness_AtomicsStart_host : [false, true].all (fun b =>
    readyAtoms (s1host b) ((s1host b).E 1) .n32 (fun l => (s1host b).elemAddr 4 1 0 4 0 l 0) &&
    ((operations (s1host b) ((s1host b).E 1) 0 .n32 126 127 true fun l => (s1host b).elemAddr 4 1 0 4 0 l 0).map
      fun o => o.way (s1host b).cc) == List.replicate 16 (if b then .lease else .none)) = true ∧
    (s1host true).cw.wait = .none := by decide +kernel

/-- The operations on the leased page, and the state in which some of the leases have been answered. -/
def leasedOps : List AtomOp :=
  operations (s1host true) ((s1host true).E 1) 0 .n32 126 127 true fun l => (s1host true).elemAddr 4 1 0 4 0 l 0

def s1leased (answers : List Bool) : State := { s1host true with
  welts := [{ apart with wait := .lease ((s1host true).E 1) (hostLines leasedOps) answers 0 }] }

theorem witness_AtomicsStart_leases : (hostLines leasedOps).length = 1 ∧ ([] : List Bool).length < (hostLines leasedOps).length ∧
    false ∈ [false] ∧ [true] = (hostLines leasedOps).map (fun _ => true) ∧ [[], [false], [true]].all (fun b =>
      readyAtoms (s1leased b) ((s1leased b).E 1) .n32 (fun l => (s1leased b).elemAddr 4 1 0 4 0 l 0) &&
      decide (operations (s1leased b) ((s1leased b).E 1) 0 .n32 126 127 true
        (fun l => (s1leased b).elemAddr 4 1 0 4 0 l 0) = leasedOps) &&
      leasedOps.all (fun o => o.way (s1leased b).cc == .lease &&
        !(near (s1leased b) ((s1leased b).E 1) .n32 (fun l => (s1leased b).elemAddr 4 1 0 4 0 l 0) leasedOps o)) &&
      (s1leased b).issues ((s1leased b).E 1) (((memDeps {} true 4 1 0 1).src true (regsOf .n32 127)).dst (regsOf .n32 126)) 0) = true := by
  decide +kernel

/-- The same operations in flight. -/
def s1far : State := { s1 with welts := [{ apart with flights := [⟨0, 0, .atom addOps⟩], nextFlight := 1 }] }

theorem witness_FarAtomicsCarryOut : 0 < s1far.welts.length ∧ (s1far.weltAt 0).ended = false ∧
    (s1far.weltAt 0).flights.find? (fun f => f.num == 0) = some ⟨0, 0, .atom addOps⟩ ∧ wholeOps s1 addOps ∧
    (addOps.any fun o => o.dst.isSome) = true :=
  ⟨by decide, by decide, rfl, addOps_whole, by decide +kernel⟩

theorem witness_BufferedAtomics : (Instr.atomdAdd 4 1 0 true 1 127 true .n32 0).wellFormed = true ∧
    (Instr.atomdIncwrap 4 1 0 true 1 126 true .n64 0).wellFormed = true ∧
    s1.issues (s1.E 1) ((memDeps {} true 4 1 0 1).src true (regsOf .n32 127)) 0 = true ∧
    s1.cw.wg < s1.wgs.length ∧ s1.detCount s1.cg.core + addOps.length ≤ 4096 ∧
    ({ s1 with launches := [{ Launch.init with words := Launch.init.words.set 9 (BitVec.twoPow 64 51) }] } : State).cl.det
      = true := by decide +kernel

/-- `w1` holds a range of 128 bytes at 0x20000 that `w2` gives the length of. -/
def s1range : State := { s1 with welts := [{ apart with w := (apart.w.set 1 0x20000).set 2 128 }] }

theorem witness_CommutativeRanges : s1range.issues s1range.cw.A ((({} : Deps).wsrc true 1).wsrc false 2) 0 = true ∧
    (s1range.cw.rdW 1).toNat % 128 = 0 ∧ (s1range.cw.rdW 2).toNat % 128 = 0 ∧ (s1range.cw.rdW 2).toNat ≤ 2 ^ 26 ∧
    s1range.cw.rdW 2 ≠ 0 ∧
    s1range.ranges = [] ∧ s1range.pagesFault (rangePages (s1range.cw.rdW 1) (s1range.cw.rdW 2).toNat) = none := by decide +kernel

/-- A declared range of INT32 additions, and partials of its first line in the pool. -/
def s1cr : State := { s1 with
  ranges := [⟨0, 0, 0x20000, 128, 1, true⟩]
  pooledPartials := [⟨0, 0, 0, 1024, 0, [(31, 5)]⟩] }

theorem witness_CommutativeRanges_add : s1cr.cw.wg < s1cr.wgs.length ∧
    s1cr.issues (s1cr.E 1) ((memDeps {} true 4 1 0 1).src true [127]) 0 = true ∧
    (List.range 16).all (fun l => let a := s1cr.elemAddr 4 1 0 4 0 l 0
      decide (a.toNat % 4 = 0) && s1cr.rangeAt s1cr.cl.ctx s1cr.cg.launch 1 a.toNat == some 0 &&
      !(s1cr.watched false true a 4) && match s1cr.dataXlate .both 4 a with
        | .ok (.dev k :: rest) => !(s1cr.inFlight (.dev k :: rest)) && !(s1cr.ratioHolds (.dev k :: rest))
        | _ => false) = true ∧
    (∀ g ∈ s1cr.wgs, g.partials = []) ∧ (s1cr.launchAt 0).det = false ∧ (s1cr.launchAt 0).ctx = 0 ∧
    s1cr.partialLine ⟨0, 0, 0, 1024, 0, [(31, 5)]⟩ = some 1024 := by decide +kernel

/-- A load in flight, and a fence that waits for it. -/
def s1fence (wait : Wait) (fs : List Flight) : State := lone { welt0 with wait := wait, flights := fs }

/-- `outstanding` as a computation. -/
def stillOut (s : State) (w : Nat) (pm : BitVec 6) : Bool :=
  let fs := (s.weltAt w).flights
  (pm.getLsbD 5 && fs.any fun f => match f.kind with
    | .load _ | .loadW _ _ _ _ | .atom _ | .value _ => true
    | _ => false) ||
  (pm.getLsbD 4 && fs.any fun f => match f.kind with
    | .atom _ => true
    | _ => false) ||
  ((pm.getLsbD 3 || pm.getLsbD 2) && s.copies.any fun c => decide (c.w = w) && !c.done) ||
  ((pm.getLsbD 1 || pm.getLsbD 0) && (s.weltAt w).streams.toList.any fun st => decide (st.queue ≠ []))

theorem outstanding_iff (s : State) (w : Nat) (pm : BitVec 6) : outstanding s w pm ↔ stillOut s w pm = true := by
  unfold outstanding stillOut
  simp only [Bool.or_eq_true, Bool.and_eq_true, List.any_eq_true, decide_eq_true_eq, Bool.not_eq_true', or_assoc]
  refine or_congr (and_congr_right fun _ => exists_congr fun f => and_congr_right fun _ => ?_)
    (or_congr (and_congr_right fun _ => exists_congr fun f => and_congr_right fun _ => ?_) Iff.rfl)
  all_goals cases f.kind <;> simp

/-- A load, an atomic, a copy and a stream's work, each on its own. -/
theorem witness_FencesWait : issuing s0 ∧ ¬outstanding s0 0 0x3F ∧ outstanding (s1fence .none [⟨0, 0, .load []⟩]) 0 0x20 ∧
    ¬outstanding (s1fence .none [⟨0, 0, .load []⟩]) 0 0x1F ∧ outstanding (s1fence .none [⟨0, 0, .atom []⟩]) 0 0x10 ∧
    ¬outstanding (s1fence .none [⟨0, 0, .atom []⟩]) 0 0x0F ∧
    (s1fence .none [⟨0, 0, .load []⟩]).cw.halt = .none ∧ ((s1fence (.fence 0x3F) []).weltAt 0).wait = .fence 0x3F ∧
    ¬outstanding (s1fence (.fence 0x3F) []) 0 0x3F ∧ outstanding (s1fence (.fence 0x20) [⟨0, 0, .load []⟩]) 0 0x20 := by
  simp only [outstanding_iff]
  unfold issuing
  decide

/-- A store of the welt that no other core sees, and a fence that names W. -/
theorem witness_FencesWait_stores : let s : State := { s0 with veils := [⟨0, 0, 0xFFFFFFFF, 0, 0, 0, [], [(.dev 5, 1)], []⟩] }
    ∃ v ∈ s.veils, v.welt = s.cur ∧ v.lanes &&& s.cw.A ≠ 0 := by
  decide

/-! ### Witnesses: copies and circular buffers -/

/-- A launch whose workgroups have 64 KiB of the last memory, 64 KiB of accumulators and 32 stash blocks. -/
def shared : Launch :=
  { Launch.init with words := Launch.init.words.set 9 (BitVec.ofNat 64 (64 * 2 ^ 19 + 64 * 2 ^ 29 + 32 * 2 ^ 13)) }

/-- A phaser with a pending count. -/
def phaser5 : Phaser := ⟨5, 0, 0, 0, 0, 0, 0, [(0, 3, false, 0)], 256, none, [0]⟩

/-- `w1`, `w2` and `w3` hold a source, a destination and a control word of a copy of 128 bytes counted by phaser 5; `w4`
what CPY.COLL needs beside it; buffer 3 has two free slots. -/
def s2 (control : W64) : State := { s1 with
  launches := [shared]
  phasers := [phaser5]
  ranges := [⟨0, 0, 0x30000, 4096, 0, true⟩]
  wgs := [{ Wg.init with
    blocks := Wg.init.blocks.set 0 (BitVec.twoPow 64 63)
    bufs := Wg.init.bufs.set 3 (some ⟨0x8000, 256, 2, 2, 0, 0, 0, 0, [], [], false⟩) }]
  welts := [{ apart with w := (((apart.w.set 1 0x100).set 2 0x200).set 3 control).set 4 0xA110400000000000 }] }

theorem witness_CopiesAreCaptured : field ((s2 0x580000080).cw.rdW 3) 0 30 = 128 ∧
    (s2 0x580000080).issues s0.cw.A (copyDeps 1 2 3 true true true) 0 = true ∧
    ((s2 0x580000080).cw.rdW 3).getLsbD 30 = false ∧
    (s2 0x580000080).copyPhaser ((s2 0x580000080).cw.rdW 3) = some (some 5) ∧
    (s2 0x580000080).copyEnd 1 0x100 0 128 = some ⟨1, 0, 0x100⟩ ∧ (s2 0x580000080).copyEnd 3 0x200 0 64 = some ⟨3, 0, 0x200⟩ ∧
    convOk 1 128 0x100 0x200 = true := by decide

theorem witness_CopiesAreCaptured_buffer : ((s2 0x40000080).cw.rdW 3).getLsbD 30 = true ∧
    (s2 0x40000080).copyPhaser ((s2 0x40000080).cw.rdW 3) = some none ∧
    (s2 0x40000080).copyEnd 0 0x100 0 128 = some ⟨0, 0, 0x100⟩ ∧
    ((s2 0x40000080).cg.buf 3).map (fun q => (q.freeing, q.size)) = some (false, 256) ∧ convOk 3 128 0x100 0 = true := by
  decide

theorem witness_CopiesAreCaptured_several : (s2 0x580000080).roleWg 0 0 = some 0 ∧
    ((s2 0x580000080).wgAt 0).hasRange 0x200 256 = true ∧ (s2 0x580000080).copyEnd 0 0x100 0 128 = some ⟨0, 0, 0x100⟩ := by
  decide

theorem witness_CopiesAreCaptured_collective :
    (s2 0x580000080).issues s0.cw.A ((copyDeps 1 2 3 true true true).wsrc true 4) 0 = true ∧
    field ((s2 0x580000080).cw.rdW 4) 21 9 = 0 ∧ narrowOk (((s2 0x580000080).cw.rdW 4).extractLsb' 32 32) = true ∧
    128 % (4 * blockLen (narrowOf (((s2 0x580000080).cw.rdW 4).extractLsb' 32 32)) 0) = 0 ∧
    field ((s2 0x580000080).cw.rdW 4) 0 21 % 4 = 0 ∧ (s2 0x580000080).cg.hasRange 0 128 = true ∧
    (s2 0x580000080).rangeAt 0 0 0 0x30080 = some 0 ∧ (s2 0x580000080).ranges[0]? = some ⟨0, 0, 0x30000, 4096, 0, true⟩ ∧
    0x30080 + 128 ≤ 0x30000 + 4096 := by decide

/-- A copy of 256 bytes from the stash to the operand buffer, its second line next. -/
def copy0 : Copy where
  w := 0
  wg := 0
  ctx := 0
  level := 0
  src := ⟨1, 0, 0x100⟩
  dsts := [⟨3, 0, 0x200⟩]
  len := 256
  conv := 0
  ph := some 5
  cb := none
  slot := none
  coll := none
  line := 128
  target := 0
  carried := []
  engine := 0
  price := 1
  paid := 1
  since := none
  bound := []
  resBound := []
  done := false
  observed := false

/-- That copy, one that failed, and one that waits for a slot of buffer 3. -/
def s2copies : State := { s2 0 with
  copies := [copy0, { copy0 with ph := none }, { copy0 with ph := none, cb := some 3, dsts := [], line := 0 }]
  phasers := [{ phaser5 with pending := 384 }] }

theorem witness_CopyLinesLand : s2copies.copies[0]? = some copy0 ∧ copy0.done = false ∧ memoriesWf s2copies ∧
    noPartials s2copies ∧ copy0.coll = none ∧ copy0.conv = 0 ∧ copy0.chunks ≤ copy0.paid ∧ copy0.target = 0 ∧ copy0.line < copy0.len ∧
    min (copy0.len - copy0.line) (128 - (0x200 + copy0.line) % 128) = 128 ∧
    (List.range 128).all (fun i =>
      match s2copies.endLoc copy0 .load copy0.src (128 + i), s2copies.endLoc copy0 .store ⟨3, 0, 0x200⟩ (128 + i) with
        | .ok a, .ok b => decide (a = .stash 0 (0x180 + i)) && decide (b = .opbuf 0 (0x280 + i)) && !(s2copies.badLoc a)
            && !(s2copies.overlaps copy0 ⟨3, 0, 0x200⟩ (128 + i)) && !(s2copies.residual b)
        | _, _ => false) = true ∧
    0 < s2copies.wgs.length ∧ s2copies.phaserIdx 0 5 = some 0 ∧ (384 : BitVec 48) ≠ BitVec.ofNat 48 128 := by
  unfold memoriesWf noPartials
  decide +kernel

/-- The phaser of that copy is of workgroup scope, and a copy's whole count of bytes is not pending. -/
theorem witness_CopyLinesLand_phaser : s2copies.phasers[0]?.map (fun q => (q.scope, q.pending)) = some (0, 384) ∧
    copy0.cb = none ∧ copy0.dsts = [⟨3, 0, 0x200⟩] := by decide

theorem witness_CopyLinesLand_ends : (s2copies.copies[1]?.map (fun c => (c.cb, c.ph, c.done))) = some (none, none, false) ∧
    (s2copies.copies[2]?.map (·.cb)) = some (some 3) ∧ s2copies.firstClaim 0 3 = some 2 ∧
    ((s2copies.wgAt 0).buf 3).map (·.free) = some 2 := by decide

/-- Buffer 3 with its first slot filled, buffer 15 about to be made with 4,096 slots of 128 bytes. -/
def s2bufs : State := { s2 0 with
  wgs := [{ Wg.init with
    blocks := Vector.replicate 32 (BitVec.twoPow 64 63)
    bufs := Wg.init.bufs.set 3 (some ⟨0x8000, 256, 2, 1, 0, 1, 0, 1, [], [], false⟩) }]
  welts := [{ apart with w := ((apart.w.set 1 (BitVec.ofNat 64 (15 * 2 ^ 48 + 4095 * 2 ^ 32 + 0))).set 2 128).set 3 3 }] }

theorem witness_CircularBuffers : s2bufs.cw.wg < s2bufs.wgs.length ∧ (s2bufs.cw.rdW 2).toNat = 128 ∧
    s2bufs.cw.rdW 1 = BitVec.ofNat 64 (15 * 2 ^ 48 + (4096 - 1) * 2 ^ 32 + 0) ∧ s2bufs.cg.buf 15 = none ∧
    s2bufs.cg.hasRange 0 (4096 * 128) = true ∧
    s2bufs.issues s2bufs.cw.A ((({} : Deps).wsrc true 1).wsrc true 2) 0 = true ∧ (s2bufs.cw.rdW 3).toNat < 16 ∧
    s2bufs.cg.buf 3 = some ⟨0x8000, 256, 2, 1, 0, 1, 0, 1, [], [], false⟩ ∧
    s2bufs.issues s2bufs.cw.A ((({} : Deps).wsrc true 3).wdst 63) 0 = true ∧ s2bufs.cw.halt = .none ∧
    (∀ f ∈ s1flying.cw.flights, ∀ l ∈ f.kind.locs, s1flying.inStash l = false) ∧ s2bufs.cw.flights = [] ∧
    s2bufs.firstClaim s2bufs.cw.wg 3 = none := by decide

/-! ### Witnesses: the matrix unit -/

/-- Two reservations of 16-bit panels, and two of 8-bit panels. -/
def panels (t : Ty) (base : Nat) : Res := ⟨t, 0, base, 31, 31, 0, false, false, 0, 0⟩

/-- Handles 1 and 2 hold reservations of a type, stream 5 has a queue; `w2`, `w3` hold a record, `w4` a loop word. -/
def s3 (t : Ty) (acc : Ty) (queue : List StreamOp) : State := { s2 0 with
  welts := [{ apart with
    handles := (apart.handles.set 1 (some (panels t 0))).set 2 (some (panels t 32))
    streams := apart.streams.set 5 { Stream.init with acc := acc, accEnd := acc, queue := queue, paid := 4096 }
    w := ((apart.w.set 2 (BitVec.ofNat 64 (32 * 2 ^ 21 + 31 * 2 ^ 10 + 31 * 2 ^ 5))).set 3 0).set 4
      (BitVec.ofNat 64 (1 * 2 ^ 26 + 0x3F * 2 ^ 12)) }] }

theorem witness_HandlesAndWaits : converged (s3 .f16 .f32 []) ∧ (s3 .f16 .f32 []).resOk .f16
      ((s3 .f16 .f32 []).cw.rdW 2) ((s3 .f16 .f32 []).cw.rdW 3) = true ∧
    (s3 .f16 .f32 []).resOk .f16 1 0 = false ∧
    (s3 .f16 .f32 []).issues s0.cw.A ((({} : Deps).wsrc true 2).wsrc true 3) 0 = true ∧
    (s3 .f16 .f32 []).cw.handle 1 ≠ none ∧ (s3 .f16 .f32 []).cw.handle 0 = none ∧ s0two.cw.living &&& ~~~s0two.cw.A ≠ 0 ∧
    ((s3 .f16 .f32 [.mzero 0]).cw.stream 5).queue ≠ [] ∧ (s3 .f16 .f32 [.mzero 0]).cw.halt = .none ∧
    (∀ n < 8, ((s3 .f16 .f32 []).cw.stream n).queue = [] ∧ ((s3 .f16 .f32 []).cw.stream n).pendNan = false) := by
  unfold converged
  decide

/-- Stream 5 with traps pending, and stream 6 with the one of MEMORY-ERROR. -/
def s3pending (nan drift : Bool) : State := lone { welt0 with
  streams := (welt0.streams.set 5 { Stream.init with pendNan := nan, pendDrift := drift }).set 6 { Stream.init with pendMem := true } }

theorem witness_HandlesAndWaits_trap : ((s3pending true true).cw.stream 5).pendNan = true ∧
    (∀ m < 5, ((s3pending true true).cw.stream m).pendNan = false) ∧
    ((s3pending false true).cw.stream 5).pendDrift = true ∧ (∀ m < 8, ((s3pending false true).cw.stream m).pendNan = false) ∧
    (∀ m < 5, ((s3pending false true).cw.stream m).pendDrift = false) ∧
    ((s3pending false false).cw.stream 6).pendMem = true ∧ (∀ m < 8, ((s3pending false false).cw.stream m).pendNan = false ∧
      ((s3pending false false).cw.stream m).pendDrift = false) ∧
    (∀ m < 6, ((s3pending false false).cw.stream m).pendMem = false) ∧
    ∀ n < 8, ((s3pending true true).cw.stream n).queue = [] := by decide

theorem witness_StreamsCapture : converged (s3 .f16 .f32 []) ∧ ((s3 .f16 .f32 []).cw.strm 5).queue.length < 16 ∧
    tileOk (s3 .f16 .f32 []).cl.accKiB .f32 15 = true ∧ (s3 .f16 .f32 []).cw.handle 1 = some (panels .f16 0) ∧
    pairOk (panels .f16 0) (panels .f16 32) .f32 = true ∧ (panels .f16 0).hasPanel 0 = true ∧
    field ((s3 .f16 .f32 []).cw.rdW 4) 56 8 = 0 ∧ field ((s3 .f16 .f32 []).cw.rdW 4) 0 12 = 0 ∧
    (List.range 16).all (fun j => (panels .f16 0).hasPanel (j * (((s3 .f16 .f32 []).cw.rdW 4).extractLsb' 26 8).toInt) &&
      tileOk (s3 .f16 .f32 []).cl.accKiB .f32 (15 + j * (((s3 .f16 .f32 []).cw.rdW 4).extractLsb' 12 6).toInt)) = true ∧
    field (s0.cw.rdW 1) 32 32 = 0 ∧ (s0.cw.rdW 1).toNat < 0x7F800000 ∧
    rowsOk (s3 .f16 .f32 []).cl.accKiB .f32 15 120 24 8 = true ∧
    (s3 .f16 .f32 []).issues s0.cw.A (({} : Deps).dst (rowRegs .f32 120 8)) 0 = true := by
  unfold converged
  decide

theorem witness_StreamOrderEffects : memoriesWf (s3 .f16 .f64 [.mwr 14 31 1 [(31, [1])], .msamp 4096]) ∧
    headRuns (s3 .f16 .f64 [.mwr 14 31 1 [(31, [1])], .msamp 4096]) 0 5 (.mwr 14 31 1 [(31, [1])]) [.msamp 4096] ∧
    headRuns (s3 .f16 .f32 [.mzero 15]) 0 5 (.mzero 15) [] ∧
    headRuns (s3 .f16 .f32 [.mrd 15 120 24 8 0xFFFFFFFF]) 0 5 (.mrd 15 120 24 8 0xFFFFFFFF) [] ∧
    headRuns (s3 .f16 .f32 [.mfmt .s32]) 0 5 (.mfmt .s32) [] ∧
    headRuns (s3 .f16 .f32 [.mskv 3 7 true 0x80000000]) 0 5 (.mskv 3 7 true 0x80000000) [] ∧
    headRuns (s3 .f16 .f32 [.msamp 1]) 0 5 (.msamp 1) [] := by
  unfold memoriesWf headRuns
  decide

/-- The same stream with nothing paid. -/
theorem witness_StreamOrderEffects_unpaid : ((lone { welt0 with
      streams := welt0.streams.set 5 { Stream.init with queue := [.mzero 15] } }).cw.strm 5).paid <
    (lone { welt0 with streams := welt0.streams.set 5 { Stream.init with queue := [.mzero 15] } }).headPrice 0 5 := by decide

/-- A step of 16-bit floats and one of 8-bit integers. -/
def s3step (t acc : Ty) : State :=
  s3 t acc [.step 15 (panels t 0) (panels t 32) 0 0 0 0 0 0 1 0 0 []]

/-- Scaled panels of narrow elements in the stash of a workgroup of the gang: one row, whose block scale is 1. -/
def narrow : Res := ⟨.nx, 0xA1104000, 0, 31, 0, 3, true, false, 0, 96⟩

/-- Its bytes: all zero but those of the scale. -/
def narrowByte (off : Nat) : Byte := if off = 1537 then 0x80 else if off = 1538 then 0x07 else 0

/-- A step of such panels at depth 5, which is not sampled. -/
def s3remote : State :=
  let s := s3 .nx .f32 [.step 15 narrow narrow 0 0 0 0 0 0 1 0 0 []]
  { s with
    wgs := [{ s.cg with stash := [(1537, 0x80), (1538, 0x07)] }]
    welts := [{ s.cw with streams := s.cw.streams.set 5 { s.cw.strm 5 with dep := 5, k := 15 } }] }

/-- `operandReads` as a computation, for reservations of workgroup 0. -/
def canRead (s : State) (h : Res) (off : Nat) (b : Byte) : Bool :=
  let l : Loc := if h.remote then .stash 0 (1024 * h.base + off) else .opbuf 0 (1024 * h.base + off)
  decide (s.resHome (s.weltAt 0).wg h = some 0) && !(s.badLoc l) && decide (s.seenByte ⟨0, 0⟩ l = b) &&
    (!h.remote || decide (s.stashLoc 0 0 (1024 * h.base + off) .load = .ok l))

theorem operandReads_of {s : State} {h : Res} {off : Nat} {b : Byte} (hc : canRead s h off b = true) :
    operandReads s 0 0 h off b := by
  simp only [canRead, Bool.and_eq_true, Bool.or_eq_true, Bool.not_eq_true', decide_eq_true_eq] at hc
  refine ⟨0, _, hc.1.1.1, hc.1.1.2, hc.1.2, ?_⟩
  cases hr : h.remote <;> simp_all [inRegion]

/-- `panelReads` as a computation. -/
def canReadPanel (s : State) (h : Res) (p : Nat) (f : Nat → Byte) : Bool :=
  ((List.range (h.rows + 1)).all fun i => (List.range 48).all fun b =>
    canRead s h (1536 * p + 48 * i + b) (f (1536 * p + 48 * i + b))) &&
  (!h.isScaled || (List.range (20 * h.blocks * (h.rows + 1))).all fun b =>
    let off := 16 * h.scaleoff + 80 * h.blocks * p + b
    canRead s h off (f off))

theorem panelReads_of {s : State} {h : Res} {p : Nat} {f : Nat → Byte} (hc : canReadPanel s h p f = true) :
    panelReads s 0 0 h p f := by
  simp only [canReadPanel, Bool.and_eq_true, Bool.or_eq_true, List.all_eq_true, List.mem_range, Bool.not_eq_true'] at hc
  refine ⟨fun i hi b hb => operandReads_of (hc.1 i (by omega) b hb), fun hs b hb => ?_⟩
  have h2 := hc.2.resolve_left (by simp [hs])
  exact operandReads_of (h2 b (by omega))

/-- Every element of a panel is a finite number under a number as its scale. -/
def finite (h : Res) (p : Nat) (f : Nat → Byte) : Bool :=
  (List.range 32).all fun i => (List.range h.perRow).all fun q => (operand h p f i q).isSome

theorem witness_MatrixStepAddsProducts : memoriesWf (s3step .f16 .f32) ∧
    headRuns (s3step .f16 .f32) 0 5 (.step 15 (panels .f16 0) (panels .f16 32) 0 0 0 0 0 0 1 0 0 []) [] ∧
    headRuns (s3step .n8 .s32) 0 5 (.step 15 (panels .n8 0) (panels .n8 32) 0 0 0 0 0 0 1 0 0 []) [] ∧
    ((s3step .f16 .f32).cw.strm 5).dep = 0 ∧ ((s3step .f16 .f32).cw.strm 5).acc = .f32 ∧
    ((s3step .n8 .s32).cw.strm 5).acc = .s32 ∧ pairOk (panels .f16 0) (panels .f16 32) .f32 = true ∧
    pairOk (panels .n8 0) (panels .n8 32) .s32 = true ∧ Ty.isPanel .f16 = true ∧ decodeF .f32 0 = .fin false 0 ∧
    (s3step .f16 .f32).cg.acc = [] := by
  unfold memoriesWf headRuns
  decide +kernel

/-- What the steps of local panels read. -/
theorem witness_MatrixStepAddsProducts_local :
    panelReads (s3step .f16 .f32) 0 0 (panels .f16 0) 0 (fun _ => 0) ∧ panelReads (s3step .f16 .f32) 0 0 (panels .f16 32) 0 (fun _ => 0) ∧
    panelReads (s3step .n8 .s32) 0 0 (panels .n8 0) 0 (fun _ => 0) ∧ panelReads (s3step .n8 .s32) 0 0 (panels .n8 32) 0 (fun _ => 0) ∧
    finite (panels .f16 0) 0 (fun _ => 0) = true ∧ finite (panels .n8 0) 0 (fun _ => 0) = true :=
  ⟨panelReads_of (by decide +kernel), panelReads_of (by decide +kernel), panelReads_of (by decide +kernel),
    panelReads_of (by decide +kernel), by decide +kernel, by decide +kernel⟩

/-- What the step of remote panels reads, at a depth in which it is not sampled. -/
theorem witness_MatrixStepAddsProducts_remote : memoriesWf s3remote ∧ noPartials s3remote ∧
    headRuns s3remote 0 5 (.step 15 narrow narrow 0 0 0 0 0 0 1 0 0 []) [] ∧ (s3remote.cw.strm 5).dep = 5 ∧
    s3remote.sampled 0 5 = false ∧ pairOk narrow narrow .f32 = true ∧ narrow.isScaled = true ∧
    panelReads s3remote 0 0 narrow 0 narrowByte ∧ finite narrow 0 narrowByte = true := by
  refine ⟨?_, ?_, ?_, by decide +kernel, by decide +kernel, by decide +kernel, by decide, panelReads_of (by decide +kernel),
    by decide +kernel⟩
  · unfold memoriesWf; decide
  · unfold noPartials; decide
  · unfold headRuns; decide +kernel

/-! ### Witnesses: regions -/

/-- A region of four FP32 elements of tolerance 1 whose network gives 0 for each; its image is the 64 KiB below the
second gigabyte. -/
def region0 : Region where
  ctx := 0
  base := 0x3FFF0000
  dims := [4]
  ty := .f32
  desc := 0
  eps := 0x3FF0000000000000
  fill := 0
  cap := 2
  net := ⟨[0], [0], [⟨1, 0, List.replicate 256 0, List.replicate 16 0⟩]⟩
  exc := [(3, 0x42C80000)]
  gen := 0
  home := 0
  refit := none
  cached := []
  live := true

/-- The second gigabyte maps to the first bytes of memory, where a valid descriptor stands at 0x100000: four FP32 elements,
tolerance 1, two entries. -/
def table2 : List Host.Cell :=
  [(1, 0x40), (7, 0xC0), (0x400F, 0x8E), (0x100000, 4), (0x100013, 0xA0), (0x100026, 0xF0), (0x100027, 0x3F), (0x100028, 2)]

/-- Requests in flight, and operands of the region instructions: `w1` the descriptor, `w2` a base. -/
def s4 (regions : List Region) : State := { lone { welt0 with
    w := (welt0.w.set 1 0x40100000).set 2 0x3FFF0000
    flights := [⟨0, 0, .region 9 (.stat 0x3FFF0000)⟩, ⟨1, 0, .region 9 (.drop 0x3FFF0000)⟩, ⟨2, 0, .region 9 (.make 0 0x40100000 0x3FFF0000)⟩,
      ⟨3, 0, .region 9 (.fit 0 0x3FFF0000 none)⟩]
    nextFlight := 4 } with
  mem := table2
  regions := regions }

theorem witness_RegionRequests : issuing s0 ∧ quiet s0 ∧
    (s1.issues s1.cw.A (((({} : Deps).wsrc true 0).wsrc true 0).wdst 63) 0 = true ∧ (s1.cw.rdW 0).toNat % 65536 = 0 ∧
      (s1.cw.rdW 0).toNat < 2 ^ 52) ∧
    (s0.issues s0.cw.A ((({} : Deps).wsrc true 63).wdst 0) 0 = true ∧ (s0.cw.rdW 63).toNat % 64 ≠ 0 ∧
      (s0.cw.rdW 63).toNat % 65536 ≠ 0) := by
  unfold issuing quiet
  decide

theorem witness_RegionRequests_answers :
    (s4 []).regionBased 0 0x3FFF0000 = none ∧ (s4 [region0]).regionBased 0 0x3FFF0000 = some 0 ∧
    region0.exc.length < 2 ^ 25 ∧ region0.cap < 2 ^ 25 ∧ region0.refit = none ∧
    ([(0, .stat 0x3FFF0000), (1, .drop 0x3FFF0000), (2, .make 0 0x40100000 0x3FFF0000), (3, .fit 0 0x3FFF0000 none)]
      : List (Nat × RegionReq)).all (fun q =>
        decide (((s4 []).weltAt 0).flights.find? (fun f => f.num == q.1) = some ⟨q.1, 0, .region 9 q.2⟩)) = true := by
  decide

/-- The bytes of that descriptor, and those of a record that is none: the first bytes of memory. -/
def desc0 : List Byte := [4] ++ List.replicate 18 0 ++ [0xA0] ++ List.replicate 18 0 ++ [0xF0, 0x3F, 2] ++ List.replicate 1719 0
def desc1 : List Byte := [0, 0x40, 0, 0, 0, 0, 0, 0xC0] ++ List.replicate 1752 0

/-- The bytes that the home reads at an address, after it has made them current. -/
def readsAs (va : Nat) (bs : List Byte) : Bool := match ((s4 []).settleVA 0 0 va 1760).readVA 0 0 va 1760 with
  | .ok x => x == bs
  | .error _ => false

/-- What reading the descriptor gives. -/
theorem witness_RegionRequests_make : readsAs 0x40100000 desc0 = true := by decide +kernel
theorem witness_RegionRequests_invalid : readsAs 0x40000000 desc1 = true := by decide +kernel
theorem witness_RegionRequests_unreadable : (match ((s4 []).settleVA 0 0 0x80000000 1760).readVA 0 0 0x80000000 1760 with
    | .ok _ => false
    | .error _ => true) = true := by decide +kernel

/-- Whether it is valid. -/
theorem witness_RegionRequests_valid : descOk desc0 = true ∧ field (wordAt desc0 6) 0 52 = 0 ∧ descOk desc1 = false := by
  decide +kernel

/-- Whether the range can be used, and a full table. -/
theorem witness_RegionRequests_usable :
    ((s4 []).settleVA 0 0 0x40100000 1760).rangeUsable 0 (descRegion 0 0x3FFF0000 0 desc0) = true ∧
    ((s4 [region0]).settleVA 0 0 0x40100000 1760).rangeUsable 0 (descRegion 0 0x3FFF0000 0 desc0) = false ∧
    1024 ≤ ((s4 (List.replicate 1024 region0)).regions.filter fun q => q.live && q.ctx == 0).length := by decide +kernel

/-- A proposal whose one bias is the largest FP16 number. -/
def far : Net := ⟨[0], [0], [⟨1, 0, List.replicate 256 0, 0x7BFF :: List.replicate 15 0⟩]⟩

theorem witness_RegionsAtHome : (∀ j < region0.size, (∃ e ∈ region0.exc, e.1 = j) ∨
      meets region0 1 (netValue region0 region0.net j) (netValue region0 region0.net j) = true) ∧
    (¬∀ j < region0.size, (∃ e ∈ region0.exc, e.1 = j) ∨
      meets region0 1 (netValue region0 far j) (netValue region0 region0.net j) = true) ∧
    (region0.slot = 32 ∧ 12 + 4 ≤ region0.bytes ∧ region0.exc.length + region0.newEntries [12, 13, 14, 15] ≤ region0.cap) ∧
    (region0.bytes < 13 + 4 ∧ region0.cap < region0.exc.length + region0.newEntries [0, 1, 2, 3, 4, 5]) ∧
    128 * 0 < region0.bytes ∧ decodeF .f64 region0.eps = .fin false 1 := by decide +kernel

/-! ### Witnesses: phasers and barriers -/

/-- Phasers 5, 6 and 7: bytes pending and the welt not a member, the welt a member that must signal and wait beside another
that has not signalled, and no member; `w30` to `w33` name them or nothing. -/
def s5 (members : List (Nat × Nat × Bool × W32)) (phase : W32) : State := { lone { welt0 with
    w := welt0.w.set 33 0x100000000 } with
  phasers := [{ phaser5 with members := [(1, 3, false, 0)], scope := 5 }, ⟨6, 0, 0, 5, 0, 0, phase, members, 0, none, []⟩,
    ⟨7, 0, 0, 2, 0, 0, 0, [], 0, none, []⟩]
  parts := [{ Part.init with phaserShare := 4, lockShare := 4, live := true }] }

/-- Two members of which neither has signalled. -/
def s5two : State := s5 [(0, 3, false, 0), (1, 1, false, 0)] 0

/-- `waiting` as a computation. -/
def stillWaits (p : Phaser) : Bool :=
  p.pending != 0 || (p.members.all fun m => m.2.1 != 1 && m.2.1 != 3)
    || p.members.any fun m => (m.2.1 == 1 || m.2.1 == 3) && !m.2.2.1

theorem waiting_iff (p : Phaser) : waiting p ↔ stillWaits p = true := by
  simp [waiting, stillWaits, or_assoc]

theorem witness_PhaserRegistry : issuing s5two ∧ s5two.issues s5two.cw.A ((({} : Deps).wsrc true 63).wdst 63) 0 = true ∧
    s5two.cw.rdW 2 = BitVec.ofNat 64 (8 * 0 + 2) ∧ s5two.cw.rdW 30 = BitVec.ofNat 64 (8 * 3 + 6) ∧
    s5two.phasers.length < 2 ^ 32 - 1 ∧ s5two.phasersFull s5two.cl.ctx (quarterOf s5two.cg.core) = false ∧
    s5two.registrations s5two.cur < 64 ∧ 2 ^ 32 ≤ (s5two.cw.rdW 33).toNat ∧ s5two.phaserNamed (s5two.cw.rdW 8).toNat = none ∧
    (s5two.phaserNamed 7).map (fun q => (q.1, q.2.members, q.2.pending)) = some (2, [], 0) ∧
    (s5two.phaserNamed 6).map (fun q => (q.1, (q.2.member s5two.cur).isSome)) = some (1, true) ∧
    (s5two.phaserNamed 5).map (fun q => (q.1, q.2.member s5two.cur, s5two.inScope q.2, q.2.pending)) =
      some (0, none, true, 256) ∧
    waiting { phaser5 with members := [(1, 3, false, 0), (0, 3, false, 0)] } ∧ waiting ⟨6, 0, 0, 5, 0, 0, 0, [(1, 1, false, 0)], 0, none, []⟩ := by
  unfold issuing
  simp only [waiting_iff]
  decide

theorem witness_PhaserRegistry_bytes : -(2 ^ 47) ≤ (s5two.cw.rdW 63).toInt ∧ (s5two.cw.rdW 63).toInt < 2 ^ 47 ∧
    s5two.issues s5two.cw.A ((((({} : Deps).wsrc true 5).wsrc true 63)).wdst 1) 0 = true ∧
    ((-(2 ^ 47) : Int) = (BitVec.ofInt 64 (-(2 ^ 47))).toInt ∧ 2 ^ 47 ≤ (BitVec.ofNat 64 (2 ^ 47)).toInt) ∧
    waiting { phaser5 with pending := phaser5.pending + BitVec.ofInt 48 63 } := by
  simp only [waiting_iff]
  decide

theorem witness_PhaserRegistry_returns : ((lone { welt0 with flights := [⟨2, 0, .word 63 7⟩] }).weltAt 0).flights.find?
    (fun f => f.num == 2) = some ⟨2, 0, .word 63 7⟩ := by decide

theorem witness_PhaserArrivals : issuing s5two ∧ together s5two ∧ s5two.cw.halt = .none ∧
    s5two.issues s5two.cw.A ((({} : Deps).wsrc true 6).wdst 63) 0 = true ∧ (s5two.phaserNamed (s5two.cw.rdW 6).toNat).map
      (fun q => (q.2.member s5two.cur, q.2.scope, q.2.phase)) = some (some (0, 3, false, 0), 5, 0) ∧
    waiting ⟨6, 0, 0, 5, 0, 0, 0, [(0, 3, true, 0), (1, 1, false, 0)], 0, none, []⟩ ∧
    ¬waiting ⟨6, 0, 0, 5, 0, 0, 0, [(0, 3, true, 0), (1, 1, true, 0)], 0, none, []⟩ ∧
    ¬waiting ⟨6, 0, 0, 5, 0, 0, 0xFFFFFFFF, [(0, 3, true, 0xFFFFFFFF)], 0, none, []⟩ := by
  unfold issuing together converged
  simp only [waiting_iff]
  decide

/-- A device-scope phaser, of which the welt is the one member and for whose launch one entry stands in a pool. -/
def s5device : State := { s1 with
  phasers := [⟨6, 0, 0, 6, 0, 0, 0, [(0, 3, false, 0)], 0, none, []⟩]
  pooled := [⟨0, 0, 0, 3, 0, 0, 0x2000C, ⟨3, [], 0, .n32, 5, 0, none⟩⟩] }

theorem witness_PhaserArrivals_device : issuing s5device ∧ together s5device ∧ memoriesWf s5device ∧ noPartials s5device ∧
    (s5device.phaserNamed 6).map (fun q => (q.2.member s5device.cur, q.2.scope)) = some (some (0, 3, false, 0), 6) ∧
    s5device.signalLaunches ⟨6, 0, 0, 6, 0, 0, 0, [(0, 3, false, 0)], 0, none, []⟩ = [0] ∧
    ¬waiting ⟨6, 0, 0, 6, 0, 0, 0, [(0, 3, true, 0)], 0, none, []⟩ ∧
    s5device.translateN none (s5device.launchAt 0).ctx 0 .both (BitVec.ofNat 64 0x2000C) 4 =
      .ok [.dev 0x2000C, .dev 0x2000D, .dev 0x2000E, .dev 0x2000F] ∧
    wholeOps s5device [⟨3, [.dev 0x2000C, .dev 0x2000D, .dev 0x2000E, .dev 0x2000F], 0, .n32, 5, 0, none⟩] := by
  refine ⟨?_, ?_, ?_, ?_, by decide, by decide, ?_, by decide +kernel, ?_⟩
  · unfold issuing; decide
  · unfold together converged; decide
  · unfold memoriesWf; decide
  · unfold noPartials; decide
  · rw [waiting_iff]; decide
  · unfold wholeOps
    simp [settled, State.unobservedDev, show s5device.copies = [] from by decide, cellOf, Ty.bytes, Ty.width]

/-- Nothing stands in a pool. -/
theorem witness_PhaserArrivals_calm : calm s5two := by
  unfold calm noPartials
  decide

/-- The welt has passed no phase while the phaser has gone one on, and it has signalled. -/
def s5past : State := s5 [(0, 2, true, 0xFFFFFFFF), (1, 1, false, 0)] 0

theorem witness_PhaserArrivals_past : (s5past.phaserNamed 6).map
      (fun q => (q.2.member s5past.cur, q.2.phase, q.2.fail)) = some (some (0, 2, true, 0xFFFFFFFF), 0, none) ∧
    (0 : W32) ≠ 0xFFFFFFFF := by decide

/-- All lanes held at a PHWAIT on phaser 6, which has advanced. -/
def s5held : State := { lone { welt0 with
    lanes := Vector.replicate 32 { lane0 with h := true }
    colls := [⟨0, 0x1004, 0xFFFFFFFF, 0xFFFFFFFF, .phase 6 false (some 63) false true⟩] } with
  phasers := [⟨6, 0, 0, 5, 0, 0, 0, [(0, 3, false, 0xFFFFFFFF)], 0, none, []⟩] }

theorem witness_PhaserArrivals_release : (s5held.weltAt 0).ended = false ∧ (s5held.weltAt 0).halt = .none ∧
    (s5held.wgAt (s5held.weltAt 0).wg).st = .resident ∧
    (s5held.weltAt 0).colls = [⟨0, 0x1004, 0xFFFFFFFF, 0xFFFFFFFF, .phase 6 false (some 63) false true⟩] ∧
    (s5held.weltAt 0).stands ⟨0, 0x1004, 0xFFFFFFFF, 0xFFFFFFFF, .phase 6 false (some 63) false true⟩ = true ∧
    (∀ l < 32, ((s5held.weltAt 0).lane l).x = false) ∧ s5held.phaserIdx 0 6 = some 0 ∧
    (s5held.phasers[0]?.map fun p => (p.member 0, p.phase, p.fail)) = some (some (0, 3, false, 0xFFFFFFFF), 0, none) := by
  decide

/-- A workgroup of two welts of which the other has arrived at BAR, or has not. -/
def s5bar (there : Bool) : State := { s0 with
  wgs := [{ Wg.init with members := [(0, false, 0), (1, there, 0)], detBuf := [], partials := [⟨0, 0, 0, 0, 0, []⟩] }]
  welts := [welt0, welt0] }

theorem witness_Barriers : issuing (s5bar true) ∧ together (s5bar true) ∧ (s5bar true).cw.halt = .none ∧
    (s5bar true).issues s0.cw.A {} 0 = true ∧ (s5bar true).cg.members.find? (fun m => m.1 == (s5bar true).cur) = some (0, false, 0) ∧
    (s5bar true).cg.phase = 0 ∧ (∀ m ∈ (s5bar true).cg.members, m.1 ≠ (s5bar true).cur → m.2.1 = true) ∧
    (∃ m ∈ (s5bar false).cg.members, m.1 ≠ (s5bar false).cur ∧ m.2.1 = false) ∧
    (s5bar true).issues s0.cw.A ((({} : Deps).wsrc true 1).wsrc true 0) 0 = true ∧ (s5bar true).cw.rdW 1 ≠ 0 ∧
    (s5bar true).cw.rdW 0 = 0 ∧ (s5bar true).cw.rdW 1 ≠ 0 ∧ (s5bar true).cw.wg < (s5bar true).wgs.length ∧
    (s5bar true).looseLaunch ⟨0, 0, 0, 0, 0, []⟩ = true := by
  unfold issuing together converged
  decide

/-- The first of two welts has been held at BAR since cycle 0; the second has stopped. -/
def s5late (now : Nat) : State := { s0 with
  now := now
  mem := table ++ [(0x800003, 0x11)]
  wgs := [{ Wg.init with barSince := some 0, members := [(0, true, 0), (1, false, 0)] }]
  welts := [{ welt0 with
      traps := welt0.traps.set 0 { TrapRegs.init with tvec := 0x800001 }
      lanes := Vector.replicate 32 { lane0 with h := true }
      colls := [⟨0, 0x1004, 0xFFFFFFFF, 0xFFFFFFFF, .phase 0 true none false true⟩] },
    { welt0 with index := 1, halt := .stopped }] }

theorem witness_Barriers_timeout : ((s5bar true).wgAt 0).barSince = none ∧ ((s5bar true).wgAt 0).barStop = false ∧
    (s5late 5).now < 0 + ((s5late 5).wgAt 0).barTimeout ∧ 0 + ((s5late (2 ^ 31)).wgAt 0).barTimeout ≤ (s5late (2 ^ 31)).now ∧
    ((s5late 5).wgAt 0).st = .resident ∧ ((s5late 5).wgAt 0).barRecord = 0 ∧
    (s5late (2 ^ 31)).barReporter 0 =
      some (0, ⟨0, 0x1004, 0xFFFFFFFF, 0xFFFFFFFF, .phase 0 true none false true⟩) ∧
    (∀ i ∈ (s5late (2 ^ 31)).weltsOf 0, i ≠ 0 → ((s5late (2 ^ 31)).weltAt i).halt = .stopped) ∧
    (s5late (2 ^ 31)).takeLevel ((s5late (2 ^ 31)).weltAt 0) 4 (firstLevel ((s5late (2 ^ 31)).weltAt 0)
      { cause := .barrierTimeout, lanes := 0xFFFFFFFF, pc := 0x1004, depth := some 0 }) = some 0 ∧
    ((s5late (2 ^ 31)).weltAt 0).living = 0xFFFFFFFF ∧ ((s5late (2 ^ 31)).weltAt 0).wg = 0 ∧
    ((s5late (2 ^ 31)).wgAt 0).killed = false ∧ ((s5late 5).wgAt 0).barSince = some 0 := by
  decide +kernel

/-! ### Witnesses: locks -/

/-- A transaction that holds the tensor 1 in mode IW and a tile of it. -/
def txn0 : Txn := ⟨false, [(0x4000010000010000, 1), (0x10000000000, 2)], none, false, 0, false, false, []⟩

/-- `w1` names tensor 1, `w2` a tile of it, `w3` a line of that tile, `w4` is the default matrix, `w5` tensor 2. -/
def s6 (txn : Option Txn) (locks : List Lock) : State := { lone { welt0 with
    w := ((((welt0.w.set 1 0x10000000000).set 2 0x4000010000010000).set 3 0x8000010000010001).set 4 defaultMatrix).set 5 0x20000000000
    txn := txn } with
  locks := locks
  parts := [{ Part.init with lockShare := 4, live := true }] }

theorem witness_LockTransactions : issuing (s6 none []) ∧ (s6 none []).issues s0.cw.A (({} : Deps).wdst 63) 0 = true ∧
    quiet (s6 (some txn0) []) ∧ (s6 (some txn0) []).cw.txn = some txn0 ∧ txn0.wounded = false ∧ (s6 none []).cw.txn = none ∧
    (s6 (some txn0) [⟨0, 0x10000000000, [], [], []⟩, ⟨1, 0x10000000000, [], [], [(7, 3)]⟩]).locks.Pairwise
      (fun l k => l.ctx ≠ k.ctx ∨ l.name ≠ k.name) ∧
    (s6 none []).issues s0.cw.A ((({} : Deps).wsrc true 3).wdst 0) 0 = true ∧
    lockNameOk ((s6 none []).cw.rdW 3) = true ∧ txn0.held.length ≤ 64 ∧ txn0.mode ((s6 none []).cw.rdW 1) < 8 ∧
    (s6 none []).cl.ctx < (s6 none []).ctxs.length ∧ (∀ w ∈ (s6 none []).welts, w.txn = none) ∧
    (∃ w ∈ (s6 (some txn0) []).welts, w.txn ≠ none ∧
      ((s6 (some txn0) []).launchOf ((s6 (some txn0) []).wgAt w.wg)).ctx = (s6 (some txn0) []).cl.ctx) := by
  unfold issuing quiet
  decide

theorem witness_LockTransactions_wounded : (s6 (some { txn0 with wounded := true }) []).cw.txn =
      some { txn0 with wounded := true } ∧ txn0.wt = false ∧ unwounded (s6 none []) :=
  ⟨by decide, by decide, fun t h => by
    have e : (s6 none []).cw.txn = none := by decide
    rw [e] at h
    cases h⟩

theorem witness_LockTransactions_matrix : ∀ j k, j < 8 → k < 8 → ((s6 none []).cw.rdW 4).getLsbD k = true ∧
    ((s6 none []).cw.rdW 4).getLsbD (8 * j + k) = ((s6 none []).cw.rdW 4).getLsbD (8 * k + j) := by
  have : ∀ j < 8, ∀ k < 8, ((s6 none []).cw.rdW 4).getLsbD k = true ∧
    ((s6 none []).cw.rdW 4).getLsbD (8 * j + k) = ((s6 none []).cw.rdW 4).getLsbD (8 * k + j) := by decide
  exact fun j k hj hk => this j hj k hk

theorem witness_LockTransactions_release : (¬∃ m, ((s6 none []).cw.rdW 5, m) ∈ txn0.held) ∧
    (∃ m, ((s6 none []).cw.rdW 2, m) ∈ txn0.held) ∧ (∀ h ∈ txn0.held, lockParent h.1 ≠ some ((s6 none []).cw.rdW 2)) ∧
    (∃ m, ((s6 none []).cw.rdW 1, m) ∈ txn0.held) ∧ (∃ h ∈ txn0.held, lockParent h.1 = some ((s6 none []).cw.rdW 1)) := by
  have h : txn0.held = [((s6 none []).cw.rdW 2, 1), ((s6 none []).cw.rdW 1, 2)] := by decide
  refine ⟨?_, ⟨1, by decide⟩, by decide, ⟨2, by decide⟩, by decide⟩
  rintro ⟨m, hm⟩
  rw [h] at hm
  have h1 : (s6 none []).cw.rdW 5 ≠ (s6 none []).cw.rdW 2 := by decide
  have h2 : (s6 none []).cw.rdW 5 ≠ (s6 none []).cw.rdW 1 := by decide
  simp [h1, h2] at hm

theorem witness_LockRequests : (s6 (some txn0) []).lockNamed 0x20000000000 = none ∧
    (s6 (some txn0) [⟨0, 0x20000000000, [(⟨9, 0, 0⟩, 1, 7)], [], []⟩]).lockNamed 0x20000000000 =
      some (0, ⟨0, 0x20000000000, [(⟨9, 0, 0⟩, 1, 7)], [], []⟩) ∧ txn0.holds 0x20000000000 = false ∧
    txn0.parentOk 0x20000000000 7 = true ∧ txn0.held.length < 64 ∧ (s6 (some txn0) []).locksFull 0x20000000000 = false ∧
    (s6 (some txn0) []).ageOf 0 = ⟨0, 0, 0⟩ ∧ (⟨0, 0, 0⟩ : Age).lt ⟨9, 0, 0⟩ = true ∧
    (s6 (some txn0) []).cc.matrix.getLsbD (8 * 7 + 7) = false ∧ (s6 (some txn0) []).cc.matrix.getLsbD (8 * 1 + 2) = true ∧
    txn0.holds 0x10000000000 = true ∧ lockRights 7 &&& lockRights (txn0.mode 0x10000000000) = lockRights (txn0.mode 0x10000000000) ∧
    lockRights 7 ≠ lockRights (txn0.mode 0x10000000000) ∧ txn0.parentOk 0x10000000000 7 = true ∧
    (s6 (some txn0) [⟨0, 0x10000000000, [(⟨0, 0, 0⟩, 0, 2)], [], []⟩]).lockNamed 0x10000000000 =
      some (0, ⟨0, 0x10000000000, [] ++ [(⟨0, 0, 0⟩, 0, 2)], [], []⟩) ∧
    txn0.holds 0x8000010000020001 = false ∧ txn0.parentOk 0x8000010000020001 1 = false := by decide

theorem witness_LockRequests_grant : (s6 none [⟨0, 5, [(⟨9, 0, 0⟩, 1, 7)], [⟨⟨0, 0, 0⟩, 0, 7, false⟩], []⟩]).locks[0]? =
      some ⟨0, 5, [(⟨9, 0, 0⟩, 1, 7)], [⟨⟨0, 0, 0⟩, 0, 7, false⟩], []⟩ ∧
    (∀ h ∈ ([] : List (Age × Nat × Nat)), h.1 = ⟨0, 0, 0⟩ ∨ (s6 none []).cc.matrix.getLsbD (8 * 7 + h.2.2) = true) ∧
    ¬∀ h ∈ [((⟨9, 0, 0⟩ : Age), 1, 7)], h.1 = ⟨0, 0, 0⟩ ∨ ((s6 none []).ctxAt 0).matrix.getLsbD (8 * 7 + h.2.2) = true := by
  decide

/-- The request for tensor 2 has been granted while the welt waited. -/
theorem witness_LockRequests_granted : let s := s6 (some { txn0 with grant := some (0x20000000000, 7) }) []
    s.cw.txn.map (·.grant) = some (some (s.cw.rdW 5, (7 : BitVec 3).toNat)) ∧
    s.issues s.cw.A ((({} : Deps).wsrc true 5).wdst 63) 0 = true ∧ txn0.grant = none := by decide

/-- A welt that waits for a lock in a wounded transaction of LKBEGIN.wt. -/
def s6wound : State := { lone { welt0 with
    txn := some { txn0 with wt := true, wounded := true }
    wait := .lock 0x20000000000 } with now := 2 ^ 22 }

theorem witness_LockRequests_wound : (s6wound.weltAt 0).ended = false ∧ (s6wound.weltAt 0).halt = .none ∧
    (s6wound.weltAt 0).colls = [] ∧ (s6wound.weltAt 0).live ≠ 0 ∧
    (s6wound.weltAt 0).wait = .lock 0x20000000000 ∧ (s6wound.wgAt 0).st = .resident ∧
    0 + (s6wound.ctxAt (s6wound.launchOf (s6wound.wgAt 0)).ctx).woundPatience ≤ s6wound.now ∧
    0 < 0 + (s6wound.ctxAt 0).woundPatience ∧ txn0.grant = none ∧ txn0.reported = false ∧ txn0.delivered = false ∧ txn0.wt = false := by decide

/-- A welt that waits for the second of two leases. -/
def s6lease (now : Nat) : State := { lone { welt0 with wait := .lease 3 [(1, 0, 4), (1, 0, 5)] [true] 0 } with now := now }

theorem witness_LockRequests_lease : ((s6lease 0).weltAt 0).wait = .lease 3 [(1, 0, 4), (1, 0, 5)] [true] 0 ∧
    [true].length < [(1, 0, 4), ((1, 0, 5) : LineKey)].length ∧ (s6lease 0).now < 0 + 2 ^ 20 ∧
    0 + 2 ^ 20 ≤ (s6lease (2 ^ 20)).now := by decide

/-! ### Witnesses: control flow, launches and commands -/

/-- Segments start at 0x1008 and 0x2000; every lane holds 0x2000 in register 2 and a depth. -/
def s7 (depth : BitVec 6) : State := { lone (withLane { lane0 with
    v := (lane0.v.set 2 0x2000).set 3 0
    depth := depth }) with
  mem := [(1, 0x40), (7, 0xC0), (0x100B, 0x11), (0x2003, 0x11), (0x4007, 0x8E)] }

/-- `reachable` as a computation. -/
def canReach (s : State) (tgt : Nat → W64) : Bool := (List.range 32).all fun l => match s.target (tgt l) with
  | .ok => true
  | _ => false

theorem reachable_of {s : State} {tgt : Nat → W64} (h : canReach s tgt = true) : reachable s tgt := by
  intro l hl _
  simp only [canReach, List.all_eq_true, List.mem_range] at h
  have := h l hl
  split at this
  · assumption
  · exact absurd this (by simp)

theorem witness_ControlFlow : issuing (s7 62) ∧ (s7 62).cw.A ≠ 0 ∧ (s7 62).issues (s7 62).cw.A {} 0 = true ∧
    reachable (s7 62) (fun _ => BitVec.ofInt 64 ((s7 62).cw.pc.toNat + 4 * ((0x3FF : BitVec 22)).toInt)) ∧
    reachable (s7 62) (fun l => if (maskRead (s7 62).legacy (s7 62).cw 1).getLsbD l then 0x2000 else 0x1008) ∧
    reachable (s7 62) (fun l => ((s7 62).cw.lane l).rdTy .b64 2) ∧
    (s7 62).target (BitVec.ofInt 64 ((s7 62).cw.pc.toNat + 4 * ((0x200000 : BitVec 22)).toInt)) = .illegal ∧
    (s7 62).issues (s7 62).cw.A ((({} : Deps).src true [2, 2 + 1]).dst [127]) 0 = true ∧ (s7 62).cw.serial = none ∧
    (s7 62).cw.lead.depth.toNat < 63 ∧ (s7 63).cw.lead.depth = 63 ∧ (s7 0).cw.lead.depth = 0 ∧
    ((s7 62).cw.pc.toNat + 4) / 2 ^ 32 = (s7 62).cw.pc.toNat / 2 ^ 32 ∧ 0x2000 / 2 ^ 32 = (s7 62).cw.pc.toNat / 2 ^ 32 := by
  refine ⟨by unfold issuing; decide, by decide, by decide, reachable_of (by decide +kernel), reachable_of (by decide +kernel),
    reachable_of (by decide +kernel), by decide +kernel, by decide, by decide, by decide, by decide, by decide, by decide, by decide⟩

theorem witness_ControlFlow_exit : s0two.cw.colls = [] ∧ s0two.cw.A ≠ s0two.cw.living ∧ s0.cw.colls = [] ∧
    s0.cw.A = s0.cw.living ∧ (∀ n < 8, (s0.cw.stream n).queue = [] ∧ (s0.cw.stream n).pendNan = false ∧
      (s0.cw.stream n).pendDrift = false ∧ (s0.cw.stream n).pendMem = false) := by decide

/-- The words of a valid record: one lane group of 32 lanes, one welt, one workgroup of a device-wide launch. -/
def record : List W64 := (((((((List.replicate 32 (0 : W64)).set 0 0x2000).set 1 0x100000010).set 2 0x2000000130).set 3
  0x100000250).set 4 0x1000006B0).set 9 0x4000000000)

/-- That record in memory at 0x8000, which `w1` names; `w2` and `w3` are the numbers of a launch that has ended and one
that has not. -/
def s7launch : State := { lone { welt0 with w := welt0.w.set 1 0x8000 } with
  mem := [(1, 0x40), (7, 0xC0), (0x4007, 0x8E), (0x8001, 0x20), (0x8008, 0x10), (0x800C, 1), (0x8010, 0x30), (0x8011, 1),
    (0x8014, 0x20), (0x8018, 0x50), (0x8019, 2), (0x801C, 1), (0x8020, 0xB0), (0x8021, 6), (0x8024, 1), (0x804C, 0x40)]
  launches := [Launch.init, { Launch.init with seq := 2, join := some 7 }, { Launch.init with seq := 3 }]
  ctxs := [{ Ctx.init with nextSeq := 4 }] }

theorem witness_LaunchesAndJoins : issuing s7launch ∧ quiet s7launch ∧ noPartials s7launch ∧
    s7launch.issues s0.cw.A ((({} : Deps).wsrc true 1).wdst 63) 0 = true ∧
    (match s7launch.dataXlate .load 256 (s7launch.cw.rdW 1) with
      | .ok ls => ls.all (fun l => !(s7launch.badLoc l)) &&
          decide ((List.range 32).map (wordAt (ls.map
            (s7launch.afterFull.seenByte ⟨s7launch.cur, s7launch.cw.A⟩))) = record)
      | .error _ => false) = true ∧
    (launchFrom s7launch.cc s7launch.cl.ctx record false).valid s7launch.cc.nextSeq s7launch.cl.seed = true ∧
    s7launch.openLaunches s7launch.cl.ctx < 4096 ∧ (s7launch.cw.rdW 63).toNat % 256 ≠ 0 ∧
    (s7launch.cw.rdW 0).toNat = s7launch.cl.seq ∧ s7launch.launchIdx s7launch.cl.ctx 4 = none ∧
    s7launch.launchIdx s7launch.cl.ctx 2 = some 1 ∧ (s7launch.launchAt 1).join = some 7 ∧
    s7launch.cc.nextSeq ≤ 2 + 65536 ∧ s7launch.launchIdx s7launch.cl.ctx 3 = some 2 ∧ (s7launch.launchAt 2).join = none ∧
    s7launch.cw.halt = .none ∧ (match s7launch.dataXlate .load 256 (s7launch.cw.rdW 1) with
      | .ok ls => !(s7launch.ratioHolds ls)
      | .error _ => false) = true := by
  refine ⟨?_, ?_, ?_, ?_⟩
  · unfold issuing; decide
  · unfold quiet; decide
  · unfold noPartials; decide
  · decide +kernel

/-- A command packet of context 0: its first flit's words, its record. -/
def packet (op flits : Nat) (arg x y : W64) : Packet :=
  BitVec.ofNat 64 (op * 2 ^ 56 + flits * 2 ^ 48 + 1) :: arg :: 0 :: x :: y :: 0 :: 0 :: 0 :: record

/-- A launch that may run on every core, with one workgroup on core 0. -/
def s7host (seed : List W64) : State := { s7launch with
  launches := [{ Launch.init with words := record }]
  parts := [{ Part.init with clusters := [0], live := true }]
  ctxs := [{ Ctx.init with seed := seed }] }

theorem witness_HostCommands : (∀ op ∈ [0, 1, 2, 3, 4, 5, 7], taken (s7host [0]) 0 (packet op (if op = 1 then 4 else 0) 0 1 7) 0) ∧
    (∀ op ∈ [0, 1, 2, 3, 4, 5, 6, 7, 255], field ((packet op 4 0 0 0).getD 0 0) 56 8 = op) ∧
    field ((packet 1 4 0 0 0).getD 0 0) 48 4 = 4 ∧ field ((packet 1 0 0 0 0).getD 0 0) 48 4 ≠ 4 ∧
    (packet 1 4 0 0 0).drop 8 = record ∧ (s7host [0]).openLaunches 0 < 4096 ∧
    (launchFrom ((s7host [0]).ctxAt 0) 0 record true).valid 1 [0] = true ∧
    (launchFrom ((s7host [0]).ctxAt 0) 0 (record.set 31 1) true).valid 1 [0] = false ∧
    field ((packet 2 0 9 1 7).getD 1 0) 0 48 = 9 ∧ (s7host [0]).launchIdx 0 9 = none ∧ (s7host [0]).launchIdx 0 0 = some 0 ∧
    ((s7host [0]).launchAt 0).join = none ∧ (s7host [0]).vacateRefused (some 0) 1 none = none ∧
    ((packet 3 0 0 1 7).getD 3 0).toNat = 1 ∧ ((s7host [0]).ctxAt 0).seed.length < 16 ∧
    ((s7host (List.replicate 16 0)).ctxAt 0).seed.length = 16 ∧
    (s7host [0]).ctxOfPacket 0 (packet 6 0 0 1 7) = some 0 ∧ (s7host [0]).ctxOfPacket 1 (packet 1 0 0 1 7) = none := by
  unfold taken
  decide

/-! ### Witnesses: system instructions and traps -/

/-- What a trap saves of the lanes of `welt0`. -/
def saved0 : Saved := welt0.save

/-- A welt at a level, in the handlers given, all three handlers enabled at segments; `w1` and up hold small numbers. -/
def s8 (level : Nat) (handlers : List Nat) : State := { lone { welt0 with
    level := level
    inHandler := handlers
    traps := Vector.replicate 3 { TrapRegs.init with tvec := 0x2001 }
    saved := Vector.replicate 3 (some saved0)
    lanes := Vector.replicate 32 { lane0 with v := (lane0.v.set 2 0x2000).set 3 0 }
    w := ((((((welt0.w.set 8 3).set 1 0x80000000).set 2 0x200000).set 3 1).set 4 0).set 5 0xFFF).set 6 0x9000000000000 } with
  mem := [(1, 0x40), (7, 0xC0), (0x100B, 0x11), (0x2003, 0x11), (0x4007, 0x8E)]
  wgs := [Wg.init, { Wg.init with logical := 1, st := .saved }]
  launches := [{ Launch.init with words := record.set 4 0x2000006B0 }] }

theorem witness_SystemRegisters : issuing (s8 2 [2]) ∧ (2 : BitVec 2).toNat ≤ (s8 2 [2]).cw.level ∧
    (s8 2 [2]).issues (s8 2 [2]).cw.A (({} : Deps).wdst 63) 0 = true ∧
    (s8 2 [2]).issues (s8 2 [2]).cw.A (({} : Deps).wsrc true 0) 0 = true ∧
    (s8 2 [2]).issues (s8 2 [2]).cw.A (({} : Deps).dst [127]) 0 = true ∧ (s8 2 [2]).cw.halt = .none ∧
    (s8 2 [2]).cw.replay = none ∧ s0.cw.level < (1 : BitVec 2).toNat ∧ s0.cw.level = 0 ∧ 1 ≤ (s8 2 [2]).cw.level := by
  unfold issuing
  decide

theorem witness_SupervisorInstructions : issuing (s8 2 [2]) ∧ field ((s8 2 [2]).cw.rdW 17) 0 56 = 17 ∧
    field ((s8 2 [2]).cw.rdW 17) 56 8 = 0 ∧ 18 ≤ field ((s8 2 [2]).cw.rdW 63) 0 56 ∧
    (s8 2 [2]).issues (s8 2 [2]).cw.A ((({} : Deps).wsrc true 2).wsrc true 3) 0 = true ∧ 1 ≤ (s8 2 [2]).cw.level ∧
    ((s8 2 [2]).cw.rdW 3).toNat ≤ 3 ∧ ((s8 2 [2]).cw.rdW 2).toNat % 2 ^ 21 = 0 ∧ (∀ w ∈ (s8 2 [2]).welts, w.flights = []) ∧
    ((s8 2 [2]).cw.rdW 1).toNat < 2 ^ 32 ∧
    (s8 2 [2]).issues (((s8 2 [2]).cw.rdW 1).setWidth 32) (({} : Deps).src true [2, 2 + 1]) 0 = true ∧
    (s8 2 [2]).cw.halt = .none ∧ (s8 2 [2]).cw.inHandler = [2] ∧ (s8 2 [2]).cw.saved.toList.getD 2 none = some saved0 ∧
    ((s8 2 [2]).cw.rdW 8).toNat = 3 ∧ ((s8 2 [2]).cw.rdW 4).toNat % 2 ^ 64 = 0 ∧
    (∀ l < 32, ((s8 2 [2]).cw.rdW 1).getLsbD l → field (((s8 2 [2]).cw.lane l).rdTy .b64 2) 48 8 = 0 ∧
      field (((s8 2 [2]).cw.lane l).rdTy .b64 2) 0 2 = 0 ∧ (((s8 2 [2]).cw.lane l).rdTy .b64 2).getLsbD 63 = false ∧
      (((s8 2 [2]).cw.lane l).rdTy .b64 2).getLsbD 62 = saved0.h.getLsbD l ∧ (s8 2 [2]).cw.populated.getLsbD l = true) := by
  unfold issuing
  decide +kernel

theorem witness_SupervisorInstructions_user : s0.cw.level = 0 ∧ s0.cw.inHandler.headD 0 = 0 ∧
    s0.issues s0.cw.A ((({} : Deps).wsrc true 2).wsrc true 3) 0 = true ∧
    s0.issues ((s0.cw.rdW 63).setWidth 32) (({} : Deps).src true [2, 2 + 1]) 0 = true := by decide

theorem witness_SupervisorInstructions_vacate :
    (s8 2 [2]).issues (s8 2 [2]).cw.A (((({} : Deps).wsrc true 4).wsrc true 3).wdst 63) 0 = true ∧
    field ((s8 2 [2]).cw.rdW 6) 60 4 = 0 ∧ (s8 2 [2]).namedLaunch ((s8 2 [2]).cw.rdW 6) = none ∧
    (s8 2 [2]).namedLaunch ((s8 2 [2]).cw.rdW 4) = some 0 ∧ ((s8 2 [2]).launchAt 0).join = none ∧
    ((s8 2 [2]).launchAt 0).vacate = none ∧ (∀ g ∈ (s8 2 [2]).wgs, g.vacating = false) ∧
    field ((s8 2 [2]).cw.rdW 3) 0 58 < ((s8 2 [2]).launchAt 0).wgCount ∧ (s8 2 [2]).wgOf 0 1 = some 1 ∧
    1 ≠ (s8 2 [2]).cw.wg ∧ ((s8 2 [2]).wgAt 1).st = .saved ∧ (s8 2 [2]).cw.ended = false ∧
    (({ s8 2 [2] with launches := [{ Launch.init with vacate := some (some 0, 4, 0) }] } : State).launchAt 0).vacate =
      some (some (s8 2 [2]).cur, 4, 0) := by decide

theorem witness_TrapsAreTaken : issuing (s8 0 []) ∧ (s8 0 []).cw.A ≠ 0 ∧ (s8 0 []).cw.level ≤ 2 ∧ (s8 0 []).cw.serial = none ∧
    (s8 0 []).issues (s8 0 []).cw.A (({} : Deps).wsrc true 5) 0 = true ∧ ((s8 0 []).cw.trap 0).tvec.getLsbD 0 = true ∧
    ((s8 0 []).cw.trap 0).tvec.getLsbD 1 = false ∧ (s8 0 []).cw.inHandler = [] ∧ (s8 0 []).cw.level = 0 ∧
    (s8 0 []).segmentAt (s8 0 []).cw 0 (tvecAddr ((s8 0 []).cw.trap 0).tvec) = true ∧
    (s8 2 [1]).segmentAt (s8 2 [1]).cw 2 (tvecAddr ((s8 2 [1]).cw.trap 2).tvec) = true ∧
    (s8 0 []).cg.killed = false ∧
    ({ s8 0 [] with wgs := [{ Wg.init with killed := true }] } : State).cg.killed = true ∧
    (s8 1 [1]).cw.inHandler = [1] ∧ (s8 2 [2]).cw.inHandler = [2] ∧ field ((s8 0 []).cw.rdW 5) 8 4 ≠ 0 ∧
    field ((s8 0 []).cw.rdW 3) 0 12 = Cause.illegal.code.toNat := by
  unfold issuing
  decide +kernel

/-- Two such welts in a stitch, of which the higher issues. -/
def s8stitch : State := { s8 0 [] with
  welts := [(s8 0 []).cw, { (s8 0 []).cw with index := 1 }]
  cur := 1
  stitches := [⟨[(1, 0), (0, 0)]⟩] }

theorem witness_TrapsAreTaken_stitch : issuing s8stitch ∧ s8stitch.issues s8stitch.cw.A {} 0 = true ∧
    (s8stitch.stitchOf s8stitch.cur).bind Stitch.lowest = some 0 ∧ 0 ≠ s8stitch.cur ∧ 0 < s8stitch.welts.length ∧
    (s8stitch.weltAt 0).wg = s8stitch.cw.wg ∧ s8stitch.cg.killed = false ∧ (s8stitch.weltAt 0).inHandler = [] ∧
    (s8stitch.weltAt 0).level = 0 ∧ ((s8stitch.weltAt 0).trap 0).tvec.getLsbD 0 = true ∧
    s8stitch.segmentAt (s8stitch.weltAt 0) 0 (tvecAddr ((s8stitch.weltAt 0).trap 0).tvec) = true ∧
    (s8 0 []).stitchOf (s8 0 []).cur = none ∧ s8stitch.cw.ended = false ∧ s8stitch.cw.halt = .none := by
  unfold issuing
  decide +kernel

theorem witness_TrapReturns : issuing (s8 2 [2, 0]) ∧ (s8 2 [2, 0]).issues (s8 2 [2, 0]).cw.A {} 0 = true ∧
    (s8 2 [2, 0]).cw.inHandler = [2, 0] ∧ field ((s8 2 [2, 0]).cw.trap 2).tsw 26 38 = 0 ∧
    field ((s8 2 [2, 0]).cw.trap 2).tsw 0 7 = 0 ∧ (s8 2 [2, 0]).cw.saved.toList.getD 2 none = some saved0 ∧
    s0.cw.inHandler = [] ∧ field (BitVec.twoPow 64 63) 26 38 ≠ 0 ∧ field (0x40 : W64) 0 7 ≠ 0 ∧
    saved0.colls = [] ∧ saved0.serial = none ∧ saved0.x.getLsbD 31 = false ∧ saved0.h.getLsbD 31 = false ∧
    (∀ l < 32, ({ saved0 with x := 0xFFFFFFFF } : Saved).x.getLsbD l = true) ∧ (s8 2 [2, 0]).cw.replay = none ∧
    (s8 2 [2, 0]).cw.halt = .none := by
  unfold issuing
  decide +kernel

/-- A welt in serial mode whose running lane a handler has exited: a lane of the queue runs on. -/
theorem witness_TrapReturns_serial : ((some (⟨0x38, 3, 0, 0x2000⟩ : Serial)).bind (·.without 8)).isSome = true ∧
    (∀ z, (some (⟨0x38, 3, 0, 0x2000⟩ : Serial)).bind (·.without 8) = some z → z.running = 4) := by decide

/-! ### Witnesses: the scheduler -/

/-- One partition of a cluster, two contexts in it, and launches of one workgroup each. -/
def s9 (launches : List Launch) (wgs : List Wg) (now : Nat) : State := { lone welt0 with
  now := now
  parts := [{ Part.init with clusters := [0], live := true }]
  ctxs := [Ctx.init, { Ctx.init with num := 1 }]
  launches := launches
  wgs := wgs }

/-- A launch of the record's shape, and one that needs a core's whole last memory. -/
def launch1 : Launch := { Launch.init with words := record }
def whole : Launch := { Launch.init with words := (record.set 4 0x4000006B0).set 9 (BitVec.ofNat 64 (2 ^ 38 + 512 * 2 ^ 19)) }

theorem witness_SchedulerEvents : (s9 [launch1] [] 0).comesFirst 0 0 = true ∧ (s9 [launch1] [] 0).placeAt 0 0 = some (0, [0]) ∧
    launch1.gangSize = 1 ∧ (s9 [launch1] [] 0).wgOf 0 0 = none ∧ (s9 [launch1] [] 0).wgs = [] ∧ launch1.binding = 0 ∧
    (s9 [launch1] [Wg.init] 0).comesFirst 0 0 = false ∧ (s9 [launch1] [] 0).launchOver 0 = false ∧ launch1.join = none ∧
    (s9 [launch1] [{ Wg.init with st := .ended }] 0).launchOver 0 = true ∧ launch1.host = false ∧
    (s9 [launch1] [{ Wg.init with st := .ended }] 0).boxLost 0 = false ∧ launch1.broken = false := by decide +kernel

/-- A launch that a fault has broken, with a workgroup saved. -/
def s9broken : State :=
  s9 [{ launch1 with flags := { launch1.flags with faulted := some 0x40 } }] [{ Wg.init with st := .saved }] 0

theorem witness_SchedulerEvents_broken : (s9broken.launchAt 0).broken = true ∧ 0 < s9broken.launches.length ∧
    (s9broken.wgAt 0).launch = 0 ∧ (s9broken.wgAt 0).st = .saved := by decide

/-- Four workgroups fill the cluster; a launch waits since cycle 0 with a candidate. -/
def s9full (now : Nat) : State := s9 [whole, { whole with seq := 1, waiting := some 0, candidate := some (0, 0) }]
  [Wg.init, { Wg.init with core := 1, logical := 1 }, { Wg.init with core := 2, logical := 2 },
    { Wg.init with core := 3, logical := 3 }] now

theorem witness_SchedulerEvents_gangs : (s9full (2 ^ 20 + 2 ^ 24)).patienceOver 1 true = true ∧
    (s9full (2 ^ 20 + 2 ^ 24)).stuck 1 = true ∧ (s9full (2 ^ 20 + 2 ^ 24)).occupants 0 ≠ [] ∧
    (∀ g ∈ (s9full (2 ^ 20 + 2 ^ 24)).occupants 0, ((s9full (2 ^ 20 + 2 ^ 24)).launchOf ((s9full (2 ^ 20 + 2 ^ 24)).wgAt g)).ctx =
      ((s9full (2 ^ 20 + 2 ^ 24)).launchAt 1).ctx) ∧ ((s9full 0).launchAt 1).candidate = some (0, 0) ∧
    (s9full (2 ^ 20 + 2 ^ 24 - 1)).patienceOver 1 true = false ∧ ((s9full 0).launchAt 0).candidate = none := by
  decide +kernel

theorem witness_SchedulerEvents_moves : (s9 [launch1] [Wg.init] 0).mayMove 0 1 = true ∧
    (s9 [launch1] [Wg.init] 0).mayMove 0 0 = false ∧ ((s9 [launch1] [Wg.init] 0).wgAt 0).moving = none ∧
    ((s9 [launch1] [Wg.init] 0).wgAt 0).leaving = false ∧ ({ Wg.init with vacating := true } : Wg).leaving = true ∧
    (s9 [launch1] [Wg.init] 0).copies = [] := by decide +kernel

/-- The context has used its slice on core 0, and the other has work or none. -/
def s9slice (launches : List Launch) : State := { s9 launches [Wg.init] 0 with
  ctxs := [{ Ctx.init with charge := [(0, 2 ^ 24)] }, { Ctx.init with num := 1 }] }

theorem witness_SchedulerEvents_slices : ((s9slice []).ctxAt 1).charged 0 < ((s9slice []).ctxAt 1).slice ∧
    ((s9slice []).ctxAt 0).slice ≤ ((s9slice []).ctxAt 0).charged 0 ∧ (s9slice [launch1]).othersWait 0 0 = false ∧ (s9slice [launch1]).othersReady 0 0 = false ∧
    (s9slice [launch1, { launch1 with ctx := 1 }]).othersWait 0 0 = true ∧
    (∀ g ∈ (s9slice [launch1]).wgs, g.vacating = false) ∧ ((s9slice [launch1]).coreAt 0).slicedOut = none ∧
    (({ s9slice [launch1] with cores := s0.cores.set 0 { Core.init with slicedOut := some 0 } } : State).coreAt 0).slicedOut =
      some 0 := by decide +kernel

/-- Core 0 clock-gated at cycle 0; and a core whose one workgroup has not issued for 2^32 cycles. -/
theorem witness_SchedulerEvents_cores : (({ s0 with cores := s0.cores.set 0 { Core.init with gate := .clock 0 } }
      : State).coreAt 0).gate = .clock 0 ∧ 0 + 65536 ≤ (s9 [] [] 65536).now ∧ (s0.coreAt 191).gate = .on ∧
    s0.coreWaits 0 = false ∧ (s9 [] [] 0).coreWaits 0 = true ∧ s0.hungWgs 0 = [] ∧ (s9 [launch1] [Wg.init] (2 ^ 32)).hungWgs 0 = [0] := by decide +kernel

/-! ### Witnesses: tokens, stops and watches -/

/-- The welt's next instruction waits for 64 tokens since cycle 0; the core has a reserve. -/
def s10 (reserve : Nat) : State := { s9 [launch1] [Wg.init] 96 with
  welts := [{ welt0 with wantSince := some 0, wantPrice := 64 }]
  cores := s0.cores.set 0 { Core.init with reserve := reserve, reserveFor := some (.welt 0 0), held := [⟨3, 0, none, 0, .stream 0 0⟩] } }

theorem witness_CoreEvents : ((s10 64).oldest 0).map (fun r => (r.price, r.who)) = some (64, .welt 0 0) ∧
    ((s10 64).coreAt 0).reserveFor = some (.welt 0 0) ∧ (Core.init.reserveFor ≠ some (.welt 0 0)) ∧
    64 ≤ ((s10 64).coreAt 0).reserve ∧ ((s10 63).coreAt 0).reserve < 64 ∧ s0.oldest 0 = none ∧
    ((s10 64).partOf 0).isSome = true ∧ (s10 64).parts = [{ Part.init with clusters := [0], live := true }] ∧
    (s10 64).parts.Pairwise (fun o p => o.live = false ∨ p.live = false ∨ o.num ≠ p.num) ∧
    (({ s0 with cores := s0.cores.set 191 { Core.init with slices := Core.init.slices.set 5 { Slice.init with
      pending := some (7, 64) } } } : State).coreAt 191).slices.toList.getD 5 Slice.init = { Slice.init with
      pending := some (7, 64) } := by decide +kernel

/-- A welt that halts at its clause boundary, and one inside its clause. -/
def s10halt (pos : Pos) : State := lone { withLane { lane0 with pos := pos } with halt := .coming [⟨.sibling 2, 255, 7⟩, ⟨.stall, 0, 0⟩] }

theorem witness_CoreEvents_stops : ((s10halt .cont).weltAt 0).halt = .coming [⟨.sibling 2, 255, 7⟩, ⟨.stall, 0, 0⟩] ∧
    ((s10halt .cont).weltAt 0).ended = false ∧ ((s10halt .cont).weltAt 0).atBoundary = true ∧
    ((s10halt (.inside .vector 1)).weltAt 0).atBoundary = false ∧ ((s10halt (.inside .vector 1)).weltAt 0).wait = .none ∧
    ((s10halt (.inside .vector 1)).weltAt 0).live ≠ 0 ∧ (s0.weltAt 0).halt = .none ∧ s0.inService 0 = false ∧
    (lone { welt0 with service := true }).inService 0 = true ∧ (s0.weltAt 0).stepDone = false ∧
    ((lone { welt0 with stepDone := true }).weltAt 0).stepDone = true ∧ (s0.weltAt 0).colls = [] ∧ (s0.weltAt 0).flights = [] ∧
    (s0rng.weltAt 0).flights ≠ [] := by decide

/-! ### Witnesses: coherence and management -/

/-- Core 0 holds line 5 of device memory, which it changed; write-backs under its version, from a core that is no owner
and under an older version; pages of each class. -/
def s11 : State := { s1 with
  pages := [⟨0x10000, 65536, .priv 0⟩, ⟨0x20000, 65536, .shared⟩]
  uses := [⟨0, 3, 0x30000, 65536⟩]
  dir := [⟨(0, 0, 5), 2, some 0, []⟩, ⟨(0, 0, 6), 3, some 1, []⟩]
  cached := [⟨0, (0, 0, 5), none, true, true⟩, ⟨0, (0, 0, 7), some (0, 31), true, true⟩, ⟨2, (0, 0, 8), none, false, false⟩]
  writeBacks := [⟨1, (0, 0, 6), 3⟩, ⟨0, (0, 0, 6), 3⟩]
  walks := [⟨0, 0, 1, s1.walkEnd 0 0x10000⟩] }

theorem witness_DeviceEvents : field (0x10000 : W64) 52 12 = 0 ∧ s11.regionAt 0 0x10000 = none ∧
    s11.tlbHit 0 0 0x10000 = none ∧ s11.tlb2Hit (quarterOf 0) 0 0x20000 = none ∧ s11.walkOf (quarterOf 0) 0 0x20000 = none ∧
    s11.walkOf (quarterOf 0) 0 0x10000 = some ⟨0, 0, 1, s1.walkEnd 0 0x10000⟩ ∧
    (s11.leafOf (some 0) 0 0x10000).map (fun q => q.1) = .ok (2 ^ 30) ∧
    (match s1.leafOf (some 0) 0 0x40000000 with
      | .ok _ => false
      | .error _ => true) = true ∧ physExists (65536 * 3) = true ∧
    (s11.frameOf (65536 * 3)).isSome = true ∧ (s11.pageRec (65536 * 3)).map PageRec.cls = none ∧ (s11.pageRec (65536 * 1)).map PageRec.cls = some (.priv 0) ∧
    (s11.pageRec (65536 * 2)).map PageRec.cls = some .shared ∧ s11.writeBacks[2]? = none ∧
    s11.writeBacks[0]? = some ⟨1, (0, 0, 6), 3⟩ ∧ (s11.dirLine (0, 0, 6)).owner = some 1 ∧
    (s11.dirLine (0, 0, 6)).version = 3 ∧ s11.lineOf 1 (0, 0, 6) = none ∧
    s11.writeBacks[1]? = some ⟨0, (0, 0, 6), 3⟩ ∧ noPartials s11 ∧
    s11.lineOf 0 (0, 0, 5) = some ⟨0, (0, 0, 5), none, true, true⟩ ∧
    s11.lineOf 0 (0, 0, 7) = some ⟨0, (0, 0, 7), some (0, 31), true, true⟩ ∧
    s11.lineOf 2 (0, 0, 8) = some ⟨2, (0, 0, 8), none, false, false⟩ ∧ s11.lineOf 1 (0, 0, 5) = none := by
  unfold noPartials
  decide +kernel

/-- An entry of the quarter's TLB, and a quarter whose walkers are all busy. -/
theorem witness_DeviceEvents_walkers :
    (({ s11 with tlb2 := [⟨0, 0, 0x20000, 65536, 7, false⟩] } : State).tlb2Hit 0 0 0x20000).isSome = true ∧
    64 ≤ (({ s11 with walks := (List.range 64).map fun n => ⟨0, 1, n, .fault .page 1⟩ } : State).walks.filter fun w => w.quarter == 0).length ∧
    ({ s11 with walks := (List.range 64).map fun n => ⟨0, 1, n, .fault .page 1⟩ } : State).walkOf 0 0 0x20000 = none := by decide +kernel

/-- What the management plane gives a partition and a context. -/
def spec0 : PartSpec where
  num := 63
  clusters := [0, 11]
  engines := [(0, 23)]
  quotas := []
  phaserShare := 4
  lockShare := 4
  overBase := 0x10000
  overSize := 0x10000
  imageBody := [1, 2, 3]
  image := 0
  imageVerifies := true
  tvec := 1
  ringBase := 0
  ringSize := 65536

def ctx1 : CtxSpec where
  part := 0
  root := 0
  seed := 7
  endpoints := [⟨0, 31, [], false⟩]
  control := 0
  p1 := none
  p2 := some 1
  hangAt := none
  woundPatience := some 1
  slice := none
  detArea := some (0x10000, 0x10000)
  images := []

theorem witness_DeviceEvents_management : State.reset.bringup = .reset ∧
    [Bringup.firmware, .stacks, .ports, .recovery].all (fun b => decide (({ State.reset with bringup := b } : State).bringup = b)) = true ∧
    s0.bringup = .up ∧ s0.partOk spec0 = true ∧
    s0.partOk { spec0 with clusters := [13, 13] } = false ∧ spec0.imageVerifies = true ∧
    s0.secVersion.toNat ≤ spec0.image.toNat ∧ (∃ x ∈ s0.ctxs, x.ended = false ∧ x.num = 0) ∧
    (∃ q ∈ (s10 0).parts, q.live = true ∧ q.num = ctx1.part.toNat) ∧ ((s10 0).ctxs.filter fun x => !x.ended).length < 4096 ∧
    ctx1.endpoints.length ≤ 256 ∧ (∀ e ∈ ctx1.endpoints, e.port < 32) ∧
    (s10 0).parts.find? (fun p => p.live && p.num == 1) = none ∧
    (s10 0).parts.find? (fun p => p.live && p.num == 0) = some { Part.init with clusters := [0], live := true } ∧
    ((s10 0).ctxAt 1).part = 0 ∧ ((s10 0).ctxAt 1).ended = false ∧ ((s10 0).ctxAt 1).ending = false ∧
    ((s10 0).ctxAt 1).awaitSync = false ∧ s0.countsDue = false ∧ ({ s0 with now := 2 ^ 32 } : State).countsDue = true ∧
    ({ Ctx.init with awaitSync := true } : Ctx).ended = false ∧ ¬(∀ e ∈ [(⟨0, 32, [], false⟩ : Endpoint)], e.port < 32) ∧
    (∀ x ∈ (s10 0).launches, x.ctx ≠ 1) ∧
    (∀ g ∈ (s10 0).wgs, ((s10 0).launchOf g).ctx ≠ 1 ∨ g.st = .ended) ∧ (s10 0).regions = [] ∧
    ({ Ctx.init with endpoints := [⟨0, 31, [], false⟩] } : Ctx).controlPort = some 31 := by
  decide +kernel

theorem witness_DeviceEvents_area : ∀ d, ctx1.detArea = some d → d.1 % 65536 = 0 ∧ d.2 % 65536 = 0 := by
  rintro d h
  cases h
  decide

theorem witness_DeviceEvents_data : memoriesWf s1 ∧ noPartials s1 ∧
    (List.range 2).mapM (fun i => s1.translate none 0 0 .store (0x3FFFFFFE + BitVec.ofNat 64 i)) =
      .ok [.dev 0x3FFFFFFE, .dev 0x3FFFFFFF] ∧ ([Loc.dev 0x3FFFFFFE, .dev 0x3FFFFFFF].map cellOf).Nodup ∧
    (match (List.range 2).mapM fun i => s1.translate none 0 0 .load (0x3FFFFFFF + BitVec.ofNat 64 i) with
      | .ok _ => false
      | .error _ => true) = true ∧ s1.badLoc (.dev 0x3FFFFFFE) = false ∧ (List.replicate 32 (0 : Byte)).length = 32 := by
  unfold memoriesWf noPartials
  decide +kernel

/-! ### Witnesses: the whole machine -/

theorem witness_DecodeEncode : (Instr.ffma 126 4 6 true true 3 8 true .f64 3 true true true true true true).wellFormed = true ∧
    encode (Instr.ffma 126 4 6 true true 3 8 true .f64 3 true true true true true true) ≠ [] := by decide

theorem witness_StepKeepsMemories : memoriesWf s1 := by unfold memoriesWf; decide

/-- A welt alone at NOP in its clause, or at the header before it. -/
def s12 (lane : Lane) : State := { lone (withLane lane) with
  mem := [(1, 0x40), (7, 0xC0), (0x1003, 0x11), (0x1007, 0xF6), (0x4007, 0x8E)] }

/-- Its turn has passed, and the line of its pc is fetched. -/
noncomputable def s12at (lane : Lane) : State :=
  ({ (s12 lane).noteReady with turn := Config.nextTurn (s12 lane).tick, tick := (s12 lane).tick + 1 } : State).choose 0

theorem witness_StepRunsDecoded : (s12 lane0).noteReady.pick = .welt 0 ∧ (s12at lane0).cw.lead.pos = .inside .vector 2 ∧
    (s12at lane0).holdInstr.fetchWord (s12at lane0).holdInstr.cw (s12at lane0).holdInstr.cw.level
      (s12at lane0).holdInstr.cw.pc = .ok 0xF6000000 ∧
    hasSecondWord 0xF6000000 = false ∧ wordFitsClass 0xF6000000 .vector = true ∧
    (s12at lane0).holdInstr.fetchWatched (s12at lane0).holdInstr.cw.pc = false ∧ decode 0xF6000000 0 = .ok .nop :=
  ⟨by decide +kernel, by decide +kernel, by decide +kernel, by decide, by decide, by decide +kernel, rfl⟩

/-- The same welt at the header. -/
def lane1 : Lane := { lane0 with pc := 0x1000, pos := .start }

theorem witness_StepRunsDecoded_header : (s12 lane1).noteReady.pick = .welt 0 ∧ (s12at lane1).cw.lead.pos = .start ∧
    (let f := (s12at lane1).holdCode (s12at lane1).cw.pc
     match f.fetchWord f.cw f.cw.level f.cw.pc with
      | .ok y =>
        let z := Header.ofWord y
        let h := (f.setCw (f.cw.pastHeader z)).holdInstr
        decide (z.n ≠ 0) && z.reserved == 0 && z.start && wordFitsClass 0xF6000000 z.cls &&
          (z.cls != .control || z.n == 1) && !(h.fetchWatched h.cw.pc) && !(h.cw.atStart && h.cw.woundDue) &&
          decide (h.fetchWord h.cw h.cw.level h.cw.pc = .ok 0xF6000000)
      | .error _ => false) = true := by decide +kernel

theorem witness_StepRunsDecoded_events :
    ({ State.reset with agenda := [.laceCycle] } : State).noteReady.pick = .event 0 ∧
    ({ State.reset with agenda := [], inbox := [.laceCycle] } : State).noteReady.pick = .input := by decide +kernel

/-! ### Single steps -/

/-- What a test reads of the state that an instruction leads to. -/
noncomputable def after {α : Type} (i : Instr) (s : State) (f : State → α) : Option α :=
  match exec i s with
  | .next u => some (f u)
  | _ => none

/-- Register `r` of lane `l` of the issuing welt. -/
def reg (r l : Nat) (u : State) : W32 := (u.cw.lane l).rd r

/-- The worked example "flags, ballot and offsets" of spec/06: `v4` is 1 in the lanes whose number is a multiple of 4. -/
def flagged : State := lone { welt0 with lanes := Vector.ofFn fun i : Fin 32 =>
  { lane0 with v := lane0.v.set 4 (if i.val % 4 = 0 then 1 else 0) } }

theorem test_pollMask_ballot : after (.pollMask 5 4 false 0 0) flagged (reg 5 31) = some 0x11111111 := by decide +kernel

theorem test_scanExc_offsets : after (.scanExc 6 4 false 0 .s32 0) flagged
    (fun u => [0, 1, 4, 5, 28, 31].map fun l => reg 6 l u) = some [0, 1, 1, 2, 7, 8] := by decide +kernel

theorem test_foldAdd_count : after (.foldAdd 7 4 false 0 .s32 0) flagged (reg 7 3) = some 8 := by decide +kernel

/-- The worked example "quantising a block" of spec/07: `w3` the descriptor, `v10` the magnitude 3.5, `v14` the scale. -/
def block (x code : W32) : State := lone { withLane { lane0 with
    v := (((lane0.v.set 10 0x40600000).set 12 x).set 14 0x78000).set 16 code } with
  w := welt0.w.set 3 0xC60F6000 }

theorem test_bscale_exact : after (.bscale 14 10 3 false 0 .f32) (block 0 0) (reg 14 0) = some 0x78000 := by decide +kernel

theorem test_qnt_codes : after (.qnt 16 12 3 false 0 14 false .f32 0 0) (block 0x40600000 0) (reg 16 0) = some 0x7E ∧
    after (.qnt 16 12 3 false 0 14 false .f32 0 0) (block 0xBE980000 0) (fun u => (reg 16 0 u, u.cw.fpctl.getLsbD 0)) =
      some (0xE2, true) := by decide +kernel

theorem test_dqnt_value : after (.dqnt 18 16 3 false 0 14 false .f32 0) (block 0 0xE2) (reg 18 0) = some 0xBEA00000 := by
  decide +kernel

/-- The worked decodings of spec/05 R118. -/
theorem test_narrow_values : (match (narrowOf 0xC60F6000).decode 0x5B, (narrowOf 0xA2026000).decode 0x7 with
    | .fin false a, .fin false b => decide (a = 22) && decide (b = 6)
    | _, _ => false) = true := by decide +kernel

/-- R106: FP32 1 + 2^-24 lies halfway between two numbers, and RNE takes the even one; R53: Philox of spec/06 R145. -/
theorem test_fadd_ties_to_even : after (.fadd 9 1 2 false false 0)
    (lone (withLane { lane0 with v := (lane0.v.set 1 0x3F800000).set 2 0x33800000 })) (reg 9 31) = some 0x3F800000 := by
  decide +kernel

theorem test_philox : philox 0 0 0 0 0 = (0x6627E8D5, 0xE169C58D, 0xBC57AC4C, 0x9B00DBD8) := by decide +kernel

/-- R128: a sum past 2^32 wraps, and a source may be the destination. -/
theorem test_add_wraps : after (.add 1 1 2 false false 0)
    (lone (withLane { lane0 with v := (lane0.v.set 1 0xFFFFFFFF).set 2 3 })) (reg 1 0) = some 2 := by decide +kernel

/-- The worked encoding of TOKQ in spec/18: with W[6] = 14 it gives price 2 and 16 slice cycles. -/
theorem test_tokq_matrix : after (.tokq 5 6 false) (lone { welt0 with w := welt0.w.set 6 14 }) (fun u => u.cw.rdW 5) =
    some 0x8000000000100002 := by decide +kernel

/-- The worked example of spec/12 and spec/21: lanes 5 and 9 of a load lie in an unmapped page, lane 5's address is
0x40_0003_0014, and the supervisor's handler is enabled. -/
def faulting : State := { lone { welt0 with
    traps := welt0.traps.set 1 { TrapRegs.init with tvec := 0x2001 }
    lanes := Vector.ofFn fun i : Fin 32 => { lane0 with
      v := lane0.v.set 3 (if i.val = 5 then 5 else if i.val = 9 then 6 else 0x10000000)
      pc := 0x20044 }
    w := welt0.w.set 4 0x4000030000 } with
  mem := [(1, 0x40), (7, 0xC0), (0x2003, 0x11), (0x4007, 0x8E), (0x480F, 0x8E)] }

theorem test_ld_page_fault : after (.ldX 8 4 3 1 false 0 .f32 0 0) faulting
    (fun u => let t := u.cw.trap 1
      (t.tcause, t.tlanes, t.tpcv, t.tsw, t.restart)) =
    some (0x0004000030014120, 0x220, 0x20044, 0, 0x8000000000000220) := by decide +kernel

/-- The worked example "an indirect call under divergence" of spec/17: the return address goes to `v127`. -/
theorem test_call_links : after (.call 0x3FF) (s7 0) (fun u => (reg 127 0 u, (u.cw.lane 0).pc, (u.cw.lane 0).depth)) =
    some (0x1008, 0x2000, 1) := by decide +kernel

/-- R447: the first step after a program is loaded issues its first instruction, here MOVI `v5`, 0x8001. -/
theorem test_first_instruction : (match step (State.reset.withFetchWord 32 0x24160004) with
    | .next u => ((u.weltAt 0).lane 31).rd 5
    | _ => 0) = 0xFFFF8001 := by decide +kernel

/-- R92: the same word as the opcode table numbers its bits. -/
theorem test_table_word : decodeTableWord 32 0x24160004 = some (.movi 5 0x8001 0) := by rfl

/-- Constants that FIPS 180-4 prints for SHA-384: the first and last round constant and the first word of the initial value. -/
theorem test_sha384_constants : (rootFraction 3 2, rootFraction 3 409, rootFraction 2 23) =
    (0x428a2f98d728ae22#64, 0x6c44198c4a475817#64, 0xcbbb9d5dc1059ed8#64) := by decide +kernel

/-- The message "abc" of FIPS 180-4's example fills one block: its first word and the length at its end. -/
theorem test_sha384_pad : ((shaPad [0x61, 0x62, 0x63]).length, (shaWords (shaPad [0x61, 0x62, 0x63]) 0).head?,
    (shaWords (shaPad [0x61, 0x62, 0x63]) 0).getLast?) = (128, some 0x6162638000000000#64, some 24#64) := by decide +kernel

/-- R96: the lowest welt of a stitch takes the ILLEGAL, with ST set, and the one that raised it stops as its sibling. -/
theorem test_stitch_illegal : after (.unassignedOpcode false) s8stitch (fun u =>
    (((u.weltAt 0).trap 0).tcause, ((u.weltAt 0).trap 0).tsw.getLsbD 7, (u.weltAt 1).inHandler, u.stitches)) =
      some (0x01, true, [], []) := by decide +kernel
end Sys2Proof.Tests
end

/-!
The system registers (R410-R412, R420-R426): what SRD reads and SWR writes, selector by selector, and O43.
-/

namespace Sys2Proof.Machine

open Safety Claims

/-! ### SRD: what each selector reads -/

theorem readSys_of_level_lt (s : State) (sl : Nat) {lv : Nat} (h : s.cw.level < lv) : s.readSys sl lv = none := if_pos h

theorem readSys_laneid (s : State) (lv : Nat) : s.readSys 0x03 lv = none := by simp [State.readSys]

theorem readSys_weltid_user (s : State) (lv : Nat) (h : s.cw.level = 0) : s.readSys 0x04 lv = none := by
  simp [State.readSys, h]

theorem readSys_weltid (s : State) (h : 1 ≤ s.cw.level) : s.readSys 0x04 0 = some s.weltIdWord := by
  simp [State.readSys, Nat.ne_of_gt h]

theorem ite_two_pow (b : Bool) (k : Nat) : (if b then 2 ^ k else 0) = b.toNat * 2 ^ k := by cases b <;> simp

/-- `sr.status` as the sum of its fields, each at its place (R410). -/
theorem statusWord_eq (s : State) : s.statusWord = BitVec.ofNat 64 (s.cw.level * 2 ^ 10 + s.cw.serial.isSome.toNat * 2 ^ 9
    + s.cl.interlocked.toNat * 2 ^ 8 + s.cl.det.toNat * 2 ^ 7 + s.cl.walker.toNat * 2 ^ 6 + s.cl.legacy.toNat * 2 ^ 5) := by
  simp only [State.statusWord, ite_two_pow]

/-- The registers of one copy, which every level reads (R410, R411). -/
theorem readSys_singleCopy (s : State) : ∀ q ∈ ([(0x00, BitVec.ofNat 64 (s.cw.level * 2 ^ 10
        + s.cw.serial.isSome.toNat * 2 ^ 9 + s.cl.interlocked.toNat * 2 ^ 8 + s.cl.det.toNat * 2 ^ 7
        + s.cl.walker.toNat * 2 ^ 6 + s.cl.legacy.toNat * 2 ^ 5)),
      (0x01, s.cw.fpctl.setWidth 64), (0x02, s.cyclesOf s.cg.core), (0x05, BitVec.ofNat 64 (s.cg.logical % 2 ^ 58)),
      (0x06, BitVec.ofNat 64 (s.cg.logical % 2 ^ 58 * 2 ^ 6 + s.cw.index % 2 ^ 6)), (0x07, s.cl.seed.getLastD 0),
      (0x08, s.tokensWord), (0x09, s.cw.skivestat), (0x0A, s.cw.nanrec),
      (0x0C, BitVec.ofNat 64 (s.cc.part * 2 ^ 12 + s.cc.num.toNat))] : List (BitVec 8 × W64)),
    s.readSys q.1.toNat 0 = some q.2 := by
  rw [← statusWord_eq]
  simp [State.readSys, levelId, Launch.top]

/-- The trap registers of the level or of a lower one (R411, R420-R424). -/
theorem readSys_trap (s : State) {lv : Nat} (h : lv ≤ s.cw.level) : ∀ q ∈ ([(0x0B, (s.cw.trap lv).restart),
      (0x10, (s.cw.trap lv).tcause), (0x11, (s.cw.trap lv).tlanes), (0x12, (s.cw.trap lv).tpcv),
      (0x13, (s.cw.trap lv).tsw &&& 0x3FFFF80#64), (0x14, (s.cw.trap lv).tvec), (0x15, (s.cw.trap lv).skid)] :
      List (BitVec 8 × W64)),
    s.readSys q.1.toNat lv = some q.2 := by
  simp [State.readSys, Nat.not_lt.mpr h]

/-- A register that may be read is what SRD puts in its destination. -/
theorem srd_result {s : State} (d : WReg) {lv : BitVec 2} {sl : BitVec 8} {y : W64} (h : issuing s)
    (hi : s.issues s.cw.A (({} : Deps).wdst d.toNat) 0 = true) (hy : s.readSys sl.toNat lv.toNat = some y) :
    UniformResult s (.srd d lv sl) 2 d fun z => z = y := by
  obtain ⟨u, e, c, v, f⟩ := uniW_next s _ 2 d y h hi
  refine ⟨u, ?_, c, ?_, f⟩
  · rw [← e, exec_srd, execSrd, hy]; rfl
  · split
    · exact rdW_zero _
    · rw [v, if_neg ‹_›]

theorem srd_illegal {s : State} (d : WReg) {lv : BitVec 2} {sl : BitVec 8}
    (hi : s.issues s.cw.A (({} : Deps).wdst d.toNat) 0 = true) (hn : s.readSys sl.toNat lv.toNat = none) :
    exec (.srd d lv sl) s = .next s.illegal := by
  rw [exec_srd, execSrd, issue_go _ _ _ _ _ hi, hn]

/-- A typed write in each lane of `e` touches there the registers of its type alone, and makes them full. -/
theorem effect_mapLanes_wrTy (w : Welt) (e : Lanes) (t : Ty) (r : Nat) (f : Nat → Lane → W64) :
    w.Effect (w.mapLanes e fun i l => l.wrTy t r (f i l)) e (regsOf t r) := by
  refine ⟨Welt.only_mapLanes w.only_refl _ _, fun i hi => ?_, fun i hi q hq g => ?_, fun i hi he q hq g => ?_⟩ <;>
    rw [lane_mapLanes _ _ _ _ hi]
  · split <;> simp
  · split
    · exact wrTy_other _ _ _ _ _ hq (g ‹_›)
    · exact ⟨rfl, rfl, rfl⟩
  · rw [if_pos he]
    exact wrTy_full _ _ _ _ _ hq g

/-- A typed write in the lanes of any set `e` retires confined to its registers there, which hold the value written. -/
theorem retire_mapLanes_wrTy (s : State) (e : Lanes) (t : Ty) (r : VReg) (f : Nat → Lane → W64) (len : Nat)
    (h : issuing s) (hr : t.is64 = true → r.toNat % 2 = 0) :
    Confined s (s.retire (s.cw.mapLanes e fun i l => l.wrTy t r.toNat (f i l)) len) len e (regsOf t r.toNat) [] [] 0 ∧
      ∀ i < 32, e.getLsbD i →
        ((s.retire (s.cw.mapLanes e fun i l => l.wrTy t r.toNat (f i l)) len).cw.lane i).rdTy t r.toNat =
          if t.is64 then f i (s.cw.lane i) else ((f i (s.cw.lane i)).setWidth 32).setWidth 64 := by
  refine ⟨retire_confined _ _ _ _ _ _ _ _ h (effect_mapLanes_wrTy ..) (fun q _ _ => ?_) (fun q _ _ => ?_) (by simp),
    fun i hi he => ?_⟩
  · exact ⟨by simp [Welt.rdW], by simp [Welt.fullW], by simp⟩
  · simp [maskRead]
  · rw [rdTy_retire _ _ _ h _ hi, lane_mapLanes _ _ _ _ hi, if_pos he, rdTy_wrTy_of_even _ _ _ _ hr]

/-- SRD of `sr.laneid` writes each lane of A its own index (R412). -/
theorem srdLaneid_result {s : State} (v : VReg) (h : issuing s)
    (hi : s.issues s.cw.A (({} : Deps).dst [v.toNat]) 0 = true) :
    VectorResult s (.srdLaneid v) 2 s.cw.A .b32 v fun l _ y => y = BitVec.ofNat 64 l := by
  obtain ⟨confined, value⟩ :=
    retire_mapLanes_wrTy s s.cw.A .b32 v (fun i _ => (BitVec.ofNat 32 i).setWidth 64) 2 h (by simp [Ty.is64])
  refine ⟨_, ?_, confined, fun l hl ha => (value l hl ha).trans (BitVec.eq_of_toNat_eq ?_)⟩
  · rw [exec_srdLaneid, execSrdLaneid, issue_go _ _ _ _ _ hi]
    simp only [wr_eq_wrTy]
  · simp only [Ty.is64, if_false, Bool.false_eq_true, BitVec.toNat_setWidth, BitVec.toNat_ofNat]
    omega

/-! ### SWR: what each selector writes -/

theorem writeSys_of_level_lt (w : Welt) (sl : Nat) {lv : Nat} (x : W64) (h : w.level < lv) :
    w.writeSys sl lv x = none := if_pos h

theorem writeSys_laneid (w : Welt) (lv : Nat) (x : W64) : w.writeSys 0x03 lv x = none := by simp [Welt.writeSys]

theorem writeSys_weltid_user (w : Welt) (lv : Nat) (x : W64) (h : w.level = 0) : w.writeSys 0x04 lv x = none := by
  simp [Welt.writeSys, h]

theorem writeSys_weltid (w : Welt) (x : W64) (h : 1 ≤ w.level) : w.writeSys 0x04 0 x = some w := by
  simp [Welt.writeSys, Nat.ne_of_gt h]

/-- The registers of one copy: the bits that may be written, and the read-only registers (R3, R108, R112, R187, R411). -/
theorem writeSys_singleCopy (w : Welt) (x : W64) : ∀ q ∈ ([(0x01, { w with
        fpctl := (x.setWidth 32 &&& 0x3F780#32) ||| (w.fpctl &&& ~~~(x.setWidth 32) &&& 0x3F#32) }),
      (0x09, { w with
        skivestat := (x &&& 0xFFFFFFFFFFFF#64) ||| (w.skivestat &&& ~~~x &&& 0x80FF000000000000#64) }),
      (0x0A, { w with nanrec := (w.nanrec &&& 0x7FFFFFFFFFFFFFFF#64) ||| (x &&& 0x8000000000000000#64) }),
      (0x00, w), (0x02, w), (0x05, w), (0x06, w), (0x07, w), (0x08, w), (0x0C, w)] : List (BitVec 8 × Welt)),
    w.writeSys q.1.toNat 0 x = some q.2 := by
  simp [Welt.writeSys, writeBits]

/-- The trap registers of the level or of a lower one (R271, R411, R420-R426). -/
theorem writeSys_trap (w : Welt) (x : W64) {lv : BitVec 2} (h : lv.toNat ≤ w.level) :
    ∀ q ∈ ([(0x0B, w.setTrap lv.toNat { w.trap lv.toNat with restart := x &&& 0xC0000003FFFFFFFF#64 }),
      (0x10, w.setTrap lv.toNat { w.trap lv.toNat with tcause := x }),
      (0x11, w.setTrap lv.toNat { w.trap lv.toNat with tlanes := x &&& 0xFFFFFFFF#64 }),
      (0x12, w),
      (0x13, w.setTrap lv.toNat { w.trap lv.toNat with
        tsw := ((w.trap lv.toNat).tsw &&& 0x3FFF380#64) ||| (x &&& 0xFFFFFFFFFC000C7F#64) }),
      (0x14, w.setTrap lv.toNat { w.trap lv.toNat with
        tvec := x &&& (if lv = 0 then 0xFFFFFFFFFFFF#64 else 0xFFFFFFFFFFFD#64) }),
      (0x15, w.setTrap lv.toNat { w.trap lv.toNat with skid := x })] : List (BitVec 8 × Welt)),
    w.writeSys q.1.toNat lv.toNat x = some q.2 := by
  have user : lv.toNat = 0 ↔ lv = 0 := BitVec.toNat_inj (y := 0)
  simp [Welt.writeSys, writeBits, Nat.not_lt.mpr h, user]

/-- A write of a system register leaves the lanes, a halt and a replay due as they were. -/
theorem writeSys_frame {w u : Welt} {sl lv : Nat} {x : W64} (h : w.writeSys sl lv x = some u) :
    u.lanes = w.lanes ∧ u.halt = w.halt ∧ u.replay = w.replay := by
  unfold Welt.writeSys at h
  split at h
  · cases h
  · split at h <;> simp only [Option.some.injEq, Option.ite_none_left_eq_some, reduceCtorEq] at h
    case h_8 => obtain ⟨-, rfl⟩ := h; exact ⟨rfl, rfl, rfl⟩
    all_goals subst h; exact ⟨rfl, rfl, rfl⟩

/-! ### Retiring a welt whose lanes have not changed -/

/-- The lanes of A move past the instruction; nothing else of a lane changes. -/
theorem lanewise_retire (s : State) {w : Welt} (len : Nat) (h : issuing s) (hl : w.lanes = s.cw.lanes) :
    Lanewise s.cw (s.retire w len).cw s.cw.A len 0 [] := by
  have lane (i : Nat) (hi : i < 32) := lane_congr hl i ▸ lane_retire s w len h i hi
  refine ⟨fun i hi => ?_, fun i hi => ?_, fun i hi r _ _ => ?_⟩ <;> rw [lane i hi]
  · split <;> rfl
  · split <;> exact ⟨rfl, rfl, rfl, rfl⟩
  · split <;> exact ⟨rfl, rfl, rfl⟩

/-- With no halt to come and no replay due, the registers beside the lanes are those that the effect has left. -/
theorem sameRegisters_retire (s : State) {w : Welt} (len : Nat) (h : issuing s) (hh : w.halt = .none)
    (hr : w.replay = none) :
    sameRegisters { w with lanes := (s.retire w len).cw.lanes } (s.retire w len).cw := by
  have running : ((w.advance s.cw.A len).issued s.cw.A s.cw.pc s.cw.lead.depth).halt = .none := by
    simp [Welt.issued, hh, Halt.retired]
  have traps : ((w.advance s.cw.A len).issued s.cw.A s.cw.pc s.cw.lead.depth).traps = w.traps := by
    simp [Welt.issued, Welt.endReplay, hr]
  rw [State.retire, cw_retireWith _ _ h, Welt.settleHalt_of_running _ _ running]
  simp [sameRegisters, traps]

/-- What SWR answers where it puts `w` in the place of its welt: the registers are those of `w`, the lanes of A move on,
and no byte of memory and no other welt changes. -/
def SwrResult (s : State) (i : Instr) (w : Welt) : Prop :=
  ∃ u, exec i s = .next u ∧ (∀ l, u.getByte l = s.getByte l) ∧ Lanewise s.cw u.cw s.cw.A 2 0 [] ∧
    (∀ j, j ≠ s.cur → u.weltAt j = s.weltAt j) ∧ sameRegisters { w with lanes := u.cw.lanes } u.cw

theorem swr_result {s : State} {a : WReg} {ta : Bool} {lv : BitVec 2} {sl : BitVec 8} {w : Welt} (h : issuing s)
    (hi : s.issues s.cw.A (({} : Deps).wsrc ta a.toNat) 0 = true) (hh : s.cw.halt = .none) (hr : s.cw.replay = none)
    (hw : s.cw.writeSys sl.toNat lv.toNat (s.cw.rdW a.toNat) = some w) : SwrResult s (.swr a ta lv sl) w := by
  obtain ⟨lanes, halt, replay⟩ := writeSys_frame hw
  have out : Outside s (s.retire w 2) := outside_retireWith ..
  refine ⟨s.retire w 2, ?_, out.bytes, lanewise_retire s 2 h lanes, out.welts,
    sameRegisters_retire s 2 h (halt.trans hh) (replay.trans hr)⟩
  rw [exec_swr, execSwr, issue_go _ _ _ _ _ hi, hw]

theorem swr_illegal {s : State} {a : WReg} {ta : Bool} {lv : BitVec 2} {sl : BitVec 8}
    (hi : s.issues s.cw.A (({} : Deps).wsrc ta a.toNat) 0 = true)
    (hn : s.cw.writeSys sl.toNat lv.toNat (s.cw.rdW a.toNat) = none) :
    exec (.swr a ta lv sl) s = .next s.illegal := by
  rw [exec_swr, execSwr, issue_go _ _ _ _ _ hi, hn]

/-- Settles O43: each selector by what `readSys` and `writeSys` answer for it. -/
theorem systemRegisters : Obligations.SystemRegisters := by
  unfold Obligations.SystemRegisters
  intro s d a v ta lv sl h _ t x
  refine ⟨fun hi => ⟨?_, ?_, ?_, ?_, ?_⟩, srdLaneid_result v h, fun hi hh hr => ⟨?_, ?_, ?_, ?_, ?_⟩⟩
  · rintro rfl q hq rfl
    exact srd_result d h hi (readSys_singleCopy s q hq)
  · rintro rfl hl rfl
    exact srd_result d h hi (readSys_weltid s hl)
  · rintro hl q hq rfl
    exact srd_result d h hi (readSys_trap s hl q hq)
  · exact fun hl => srd_illegal d hi (readSys_of_level_lt s _ hl)
  · rintro (⟨hl, rfl⟩ | rfl)
    · exact srd_illegal d hi (readSys_weltid_user s _ hl)
    · exact srd_illegal d hi (readSys_laneid s _)
  · rintro rfl q hq rfl
    exact swr_result h hi hh hr (writeSys_singleCopy s.cw x q hq)
  · rintro rfl hl rfl
    exact swr_result h hi hh hr (writeSys_weltid s.cw x hl)
  · rintro hl q hq rfl
    exact swr_result h hi hh hr (writeSys_trap s.cw x hl q hq)
  · exact fun hl => swr_illegal hi (writeSys_of_level_lt s.cw _ x hl)
  · rintro (⟨hl, rfl⟩ | rfl)
    · exact swr_illegal hi (writeSys_weltid_user s.cw _ x hl)
    · exact swr_illegal hi (writeSys_laneid s.cw _ x)

end Sys2Proof.Machine

/-!
Tokens, quotas, slices, heat, the clock, and what stops and watches cores (R23, R381-R393, R425-R431): what each of these
events leaves alone, what it does, and O54.
-/

namespace Sys2Proof.Machine

open Safety Claims

/-! ### What a program can read of the state -/

/-- The registers of a welt (R50, R411). -/
def Welt.registers (w : Welt) : Vector Lane 32 × Vector W64 64 × BitVec 64 × BitVec 64 × Vector W32 16 ×
    Vector (Option Res) 16 × W32 × W64 × W64 × Vector TrapRegs 3 × Vector (Option Saved) 3 × Nat :=
  (w.lanes, w.w, w.wfull, w.wbad, w.m, w.handles, w.fpctl, w.nanrec, w.skivestat, w.traps, w.saved, w.level)

/-- The bytes that stand in a workgroup. -/
def Wg.bytes (g : Wg) : List Host.Cell × List Host.Cell := (g.stash, g.opbuf)

/-- A copy apart from how its chunks are paid for. -/
def Copy.unpaid (c : Copy) : Copy := { c with paid := 0, since := none }

/-- The clock, the registers of every welt, and all that the bytes of memory rest on: what tokens, hunger, halts and the
schedule leave alone. -/
def State.tangible (s : State) :=
  (s.mem, s.host, s.regions, s.tick, s.now, s.copies.map Copy.unpaid, s.wgs.map Wg.bytes,
    s.welts.map Welt.registers)

theorem sameRegisters_of_registers {w u : Welt} (h : u.registers = w.registers) : sameRegisters w u := by
  simp only [Welt.registers, Prod.mk.injEq] at h
  exact h

/-- What is asked of copies apart from how they are paid for, they answer alike. -/
theorem any_copies_congr {s u : State} (h : u.copies.map Copy.unpaid = s.copies.map Copy.unpaid) (p : Copy → Bool)
    (hp : ∀ c, p c.unpaid = p c) : u.copies.any p = s.copies.any p := by
  have e : p = p ∘ Copy.unpaid := funext fun c => (hp c).symm
  rw [e, ← List.any_map, ← List.any_map, h]

theorem getByte_of_tangible {s u : State} (h : u.tangible = s.tangible) (l : Loc) : u.getByte l = s.getByte l := by
  simp only [State.tangible, Prod.mk.injEq] at h
  obtain ⟨mem, host, regions, tick, -, copies, wgs, -⟩ := h
  have wg (g : Nat) : (u.wgAt g).bytes = (s.wgAt g).bytes := by
    simpa only [List.getD_map, State.wgAt] using congrArg (fun x => x.getD g Wg.init.bytes) wgs
  have raw : u.rawByte l = s.rawByte l := by
    cases l with
    | stash g off => exact congrArg (fun x => cellRead x.1 off) (wg g)
    | opbuf g off => exact congrArg (fun x => cellRead x.2 off) (wg g)
    | _ => simp only [State.rawByte, mem, host, regions]
  have spaces (space g off : Nat) : u.unobserved space g off = s.unobserved space g off :=
    any_copies_congr copies _ fun _ => rfl
  have dev (a : Nat) : u.unobservedDev a = s.unobservedDev a := any_copies_congr copies _ fun _ => rfl
  cases l <;> simp only [State.getByte, raw, spaces, dev, State.undefByte, tick]

theorem registers_of_tangible {s u : State} (h : u.tangible = s.tangible) (i : Nat) :
    (u.weltAt i).registers = (s.weltAt i).registers := by
  simp only [State.tangible, Prod.mk.injEq] at h
  obtain ⟨-, -, -, -, -, -, -, welts⟩ := h
  simpa only [List.getD_map, State.weltAt] using congrArg (fun x => x.getD i Welt.init.registers) welts

theorem now_of_tangible {s u : State} (h : u.tangible = s.tangible) : u.now = s.now := by
  simp only [State.tangible, Prod.mk.injEq] at h
  obtain ⟨-, -, -, -, now, -⟩ := h
  exact now

theorem untouched_of_tangible {s u : State} (h : u.tangible = s.tangible) : untouched s u :=
  ⟨getByte_of_tangible h, fun i => sameRegisters_of_registers (registers_of_tangible h i)⟩

/-- A meaning that answers `u`, in which what programs read is as it was. -/
theorem eventGives_of_tangible {s u : State} {i : Instr} {P : State → Prop} (e : exec i s = .next u)
    (h : u.tangible = s.tangible) (p : P u) : eventGives s i P := ⟨u, e, untouched_of_tangible h, p⟩

/-! ### Updates that leave it alone -/

/-- What every step of a fold keeps, the fold keeps. -/
theorem foldl_keeps {α β γ : Type} (g : β → γ) {f : β → α → β} (h : ∀ b a, g (f b a) = g b) (l : List α) (b : β) :
    g (l.foldl f b) = g b :=
  List.foldlRecOn l f (motive := fun x => g x = g b) rfl fun _ e a _ => (h _ a).trans e

@[simp] theorem tangible_setCoreAt (s : State) (i : Nat) (c : Core) : (s.setCoreAt i c).tangible = s.tangible := rfl
@[simp] theorem tangible_setPart (s : State) (p : Part) : (s.setPart p).tangible = s.tangible := rfl
@[simp] theorem tangible_post (s : State) (i : Instr) : (s.post i).tangible = s.tangible := rfl

theorem map_set_of_eq {α β : Type} (f : α → β) (l : List α) (i : Nat) (d x : α) (h : f x = f (l.getD i d)) :
    (l.set i x).map f = l.map f := by
  rw [List.map_set, h]
  by_cases hi : i < l.length
  · rw [List.getD_eq_getElem _ _ hi, ← List.getElem_map f (h := by simpa using hi), List.set_getElem_self]
  · exact List.set_eq_of_length_le (by simpa using hi)

theorem tangible_setWeltAt (s : State) (i : Nat) (w : Welt) (h : w.registers = (s.weltAt i).registers) :
    (s.setWeltAt i w).tangible = s.tangible := by
  simp only [State.tangible, State.setWeltAt, map_set_of_eq Welt.registers s.welts i Welt.init w h]

theorem tangible_setWgAt (s : State) (i : Nat) (g : Wg) (h : g.bytes = (s.wgAt i).bytes) :
    (s.setWgAt i g).tangible = s.tangible := by
  simp only [State.tangible, State.setWgAt, map_set_of_eq Wg.bytes s.wgs i Wg.init g h]

/-! ### Tokens on a core: what else they leave -/

theorem registers_setStream (w : Welt) (k : Nat) (st : Stream) : (w.setStream k st).registers = w.registers := rfl

/-- A copy whose payment alone has changed is the same copy. -/
theorem tangible_setCopy (s : State) (k : Nat) {c d : Copy} (hc : s.copies[k]? = some c) (h : d.unpaid = c.unpaid) :
    ({ s with copies := s.copies.set k d } : State).tangible = s.tangible := by
  have hd : s.copies.getD k c = c := by rw [List.getD_eq_getElem?_getD, hc]; rfl
  simp only [State.tangible, map_set_of_eq Copy.unpaid s.copies k c d (by rw [hd, h])]

/-- A granted request changes nothing that a program reads (R385). -/
@[simp] theorem tangible_grantReq (s : State) (r : WideReq) : (s.grantReq r).tangible = s.tangible := by
  unfold State.grantReq
  split
  · exact tangible_setWeltAt _ _ _ rfl
  · exact tangible_setWeltAt _ _ _ (registers_setStream ..)
  · split
    next c hc => exact tangible_setCopy _ _ hc rfl
    next => rfl

/-- A granted request changes neither the cores nor the rings. -/
theorem grantReq_frame (s : State) (r : WideReq) :
    (s.grantReq r).cores = s.cores ∧ (s.grantReq r).rings = s.rings := by
  unfold State.grantReq
  split
  · exact ⟨rfl, rfl⟩
  · exact ⟨rfl, rfl⟩
  · split <;> exact ⟨rfl, rfl⟩

@[simp] theorem tangible_spendNow (s : State) (core : Nat) : (s.spendNow core).tangible = s.tangible := by
  unfold State.spendNow
  split
  · rfl
  · dsimp only
    split <;> simp

@[simp] theorem tangible_setHungry (s : State) (core : Nat) : (s.setHungry core).tangible = s.tangible := rfl

/-- Tokens put on a ring change that ring alone. -/
theorem putTokens_frame (s : State) (q station part n : Nat) :
    { s.putTokens q station part n with rings := s.rings } = s := by
  unfold State.putTokens
  split <;> rfl

@[simp] theorem tangible_putTokens (s : State) (q station part n : Nat) :
    (s.putTokens q station part n).tangible = s.tangible :=
  (congrArg State.tangible (putTokens_frame s q station part n) :)

@[simp] theorem tangible_returnTokens (s : State) (core n : Nat) : (s.returnTokens core n).tangible = s.tangible := by
  unfold State.returnTokens
  split <;> simp

@[simp] theorem tangible_dropReserve (s : State) (core : Nat) : (s.dropReserve core).tangible = s.tangible := by
  simp [State.dropReserve]

@[simp] theorem tangible_ageHolds (s : State) (core : Nat) : (s.ageHolds core).tangible = s.tangible := by
  unfold State.ageHolds
  dsimp only
  split <;> simp

theorem setCoreAt_self (s : State) (i : Nat) : s.setCoreAt i (s.coreAt i) = s := by
  have e : s.cores.setIfInBounds i (s.coreAt i) = s.cores := by
    apply Vector.ext
    intro j hj
    rw [Vector.getElem_setIfInBounds]
    split
    · subst_vars
      simp [State.coreAt, List.getD, hj]
    · rfl
  rw [State.setCoreAt, e]

theorem setWeltAt_self (s : State) (i : Nat) : s.setWeltAt i (s.weltAt i) = s := by
  have e : s.welts.set i (s.weltAt i) = s.welts := by
    simpa only [List.map_id] using map_set_of_eq id s.welts i Welt.init (s.weltAt i) rfl
  rw [State.setWeltAt, e]

/-- What the spending of welts leaves alone stands after held tokens have returned as where the core's record alone has
lost them (R386). -/
theorem takeDue_keeps {γ : Type} (g : State → γ) (hw : ∀ t i, g (t.setWeltAt i { t.weltAt i with spent := 0 }) = g t)
    (s : State) (core : Nat) :
    g (s.takeDue core).1 = g (s.setCoreAt core { s.coreAt core with
      held := (s.coreAt core).held.filter fun h => !(s.holdOver h) }) := by
  unfold State.takeDue
  dsimp only
  split
  · rename_i none_due
    have all : (s.coreAt core).held.filter (fun h => !(s.holdOver h)) = (s.coreAt core).held :=
      List.filter_eq_self.2 fun h hh => by
        simpa using List.filter_eq_nil_iff.1 (List.isEmpty_iff.1 none_due) h hh
    rw [all]
    exact congrArg g (setCoreAt_self s core).symm
  · refine foldl_keeps g (fun t h => ?_) _ _
    split
    · split
      · exact hw ..
      · rfl
    · rfl

theorem takeDue_count (s : State) (core : Nat) :
    (s.takeDue core).2 = (((s.coreAt core).held.filter s.holdOver).map (·.count)).sum := by
  unfold State.takeDue
  dsimp only
  split
  · rename_i none_due
    rw [List.isEmpty_iff.1 none_due]; rfl
  · rfl

@[simp] theorem tangible_takeDue (s : State) (core : Nat) : (s.takeDue core).1.tangible = s.tangible :=
  takeDue_keeps State.tangible (fun _ _ => tangible_setWeltAt _ _ _ rfl) s core

/-! ### A cycle of the rings -/

theorem tangible_withdrawAt0 (s : State) (q : Nat) (arr : List (Nat × Nat)) :
    (s.withdrawAt0 q arr).1.tangible = s.tangible := by
  refine foldl_keeps (fun a : State × List (Nat × Nat) => a.1.tangible) (fun a p => ?_) s.parts (s, arr)
  dsimp only
  split
  · rfl
  · split <;> simp

theorem tangible_station (s : State) (q i : Nat) (arr : List (Nat × Nat)) (seen : BitVec 48) :
    (s.station q i arr seen).1.tangible = s.tangible := by
  unfold State.station
  dsimp only
  split
  · simp
  · split
    · simp
    · split <;> simp

theorem tangible_turnRing (s : State) (q : Nat) : (s.turnRing q).tangible = s.tangible := by
  unfold State.turnRing
  generalize List.range 48 = stations
  exact (foldl_keeps (fun a : RingStep => a.st.tangible) (fun a i => tangible_station ..) stations _).trans
    (tangible_withdrawAt0 ..)

/-! ### The rest of a cycle -/

theorem tangible_noteBusy (s : State) (core : Nat) : (s.noteBusy core).tangible = s.tangible := by
  unfold State.noteBusy
  split <;> simp

theorem tangible_ratioDue (s : State) (core : Nat) : (s.ratioDue core).tangible = s.tangible := by
  unfold State.ratioDue
  dsimp only
  split <;> simp

/-- Lines given back change the records of the caches alone (R229). -/
theorem tangible_giveBack (s : State) (mine : CLine → Bool) : (s.giveBack mine).tangible = s.tangible := by
  unfold State.giveBack
  dsimp only
  split
  · rfl
  · refine (foldl_keeps State.tangible (fun t c => ?_) _ _ : State.tangible (List.foldl _ _ _) = _)
    split <;> rfl

theorem tangible_dropBlock (s : State) (g b : Nat) : (s.dropBlock g b).tangible = s.tangible := tangible_giveBack ..

theorem tangible_unreserve (s : State) (g : Nat) : (s.unreserve g).tangible = s.tangible := by
  unfold State.unreserve
  dsimp only
  split <;> simp

/-- A workgroup leaves its core with the registers and bytes that it has (R435, R436). -/
theorem tangible_saveWg (s : State) (g : Nat) : (s.saveWg g).tangible = s.tangible := by
  unfold State.saveWg
  generalize List.range 32 = blocks
  have off (t : State) (i : Nat) : (t.setWeltAt i ((t.weltAt i).offCore t.now)).tangible = t.tangible :=
    tangible_setWeltAt t i _ rfl
  refine (foldl_keeps State.tangible off _ _).trans ?_
  rw [tangible_setWgAt _ _ _ (by rfl), tangible_unreserve]
  exact (foldl_keeps State.tangible (fun t b => tangible_dropBlock ..) _ _).trans rfl

theorem tangible_finishSaves (s : State) : s.finishSaves.tangible = s.tangible := by
  refine foldl_keeps State.tangible (fun t g => ?_) _ _
  split
  · exact tangible_saveWg ..
  · rfl

theorem tangible_complete (s : State) (c kind status cseq : Nat) (val join : W64) :
    (s.complete c kind status cseq val join).tangible = s.tangible := by
  unfold State.complete
  dsimp only
  split <;> rfl

theorem tangible_finishVacates (s : State) : s.finishVacates.tangible = s.tangible := by
  refine foldl_keeps State.tangible (fun t l => ?_) _ _
  split
  · split
    · exact tangible_complete ..
    · rfl
  · rfl

@[simp] theorem tangible_markWaiting (s : State) : s.markWaiting.tangible = s.tangible := rfl
@[simp] theorem tangible_chargeCycle (s : State) : s.chargeCycle.tangible = s.tangible := rfl
theorem tangible_agenda (s : State) (due : List Instr) :
    ({ s with agenda := due } : State).tangible = s.tangible := rfl

/-- A cycle moves the clock, and nothing else that a program reads (R381, R385, R441). -/
theorem laceCycle_next (s : State) :
    ∃ u, exec .laceCycle s = .next u ∧ u.tangible = ({ s with now := s.now + 1 } : State).tangible := by
  rw [exec_laceCycle, execLaceCycle]
  generalize List.range 192 = cores
  generalize List.range 4 = rings
  refine ⟨_, rfl, ?_⟩
  rw [tangible_agenda, tangible_markWaiting, tangible_chargeCycle, tangible_finishVacates, tangible_finishSaves]
  exact (foldl_keeps State.tangible tangible_ratioDue _ _).trans
    ((foldl_keeps State.tangible tangible_turnRing _ _).trans (foldl_keeps State.tangible tangible_noteBusy _ _))

/-! ### One core's record -/

theorem coreAt_setCoreAt_same (s : State) {core : Nat} (c : Core) (h : core < 192) :
    (s.setCoreAt core c).coreAt core = c := by
  rw [coreAt_setCoreAt, if_pos ⟨rfl, h⟩]

theorem coreAt_setCoreAt_ne (s : State) {core k : Nat} (c : Core) (h : k ≠ core) :
    (s.setCoreAt core c).coreAt k = s.coreAt k := by
  rw [coreAt_setCoreAt, if_neg fun e => h e.1.symm]

theorem coreAt_congr {s u : State} (h : u.cores = s.cores) (k : Nat) : u.coreAt k = s.coreAt k := by
  rw [State.coreAt, State.coreAt, h]

/-! ### Tokens spent (R385-R387) -/

theorem Core.tokens_eq (c : Core) : c.tokens = c.reserve + (c.held.map (·.count)).sum := by
  rw [Core.tokens, List.sum_eq_foldl]

theorem figure_le (s : State) (i price : Nat) : s.figure i price ≤ 32 := by
  have two {c : Prop} [Decidable c] {a b : Nat} (ha : a ≤ 32) (hb : b ≤ 32) : (if c then a else b) ≤ 32 := by
    split <;> assumption
  unfold State.figure
  match price with
  | 1 => exact two (by omega) (by omega)
  | 2 => exact two (by omega) (by omega)
  | 0 | _ + 3 => exact Nat.le_refl 32

theorem holdFor_count (s : State) (r : WideReq) : (s.holdFor r).count = r.price := by
  unfold State.holdFor; split <;> rfl

theorem holdFor_who (s : State) (r : WideReq) : (s.holdFor r).who = r.who := by
  unfold State.holdFor; split <;> rfl

theorem holdFor_copy (s : State) {r : WideReq} {k n : Nat} (h : r.who = .copy k n) :
    (s.holdFor r).left = 2048 ∧ (s.holdFor r).slice = none := by
  simp [State.holdFor, h]

theorem holdFor_welt (s : State) {r : WideReq} {i n : Nat} (h : r.who = .welt i n) :
    (s.holdFor r).figure ≤ 32 ∧ (s.holdFor r).left = 16 + (s.holdFor r).figure ∧
      (s.holdFor r).slice = some (s.weltAt i).slice := by
  simp [State.holdFor, h, figure_le]

/-- The record of a core whose reserve is spent on a request. -/
def Core.spend (c : Core) (price : Nat) (h : HeldTokens) : Core :=
  { c with reserve := c.reserve - price, reserveFor := none, held := c.held ++ [h], hungry := false }

/-- Spending moves tokens from the reserve to those held: none is made and none lost. -/
theorem Core.tokens_spend (c : Core) (price : Nat) (h : HeldTokens) (hp : price ≤ c.reserve) (hc : h.count = price) :
    (c.spend price h).tokens = c.tokens := by
  simp only [Core.tokens_eq, Core.spend, List.map_append, List.sum_append, List.map_cons, List.map_nil,
    List.sum_cons, List.sum_nil, hc]
  omega

theorem spendNow_of_none {s : State} {core : Nat} (h : s.oldest core = none) : s.spendNow core = s := by
  simp [State.spendNow, h]

theorem spendNow_of_unready {s : State} {core : Nat} {r : WideReq} (hr : s.oldest core = some r)
    (h : (s.coreAt core).reserve < r.price ∨ (s.coreAt core).reserveFor ≠ some r.who) : s.spendNow core = s := by
  simp [State.spendNow, hr, h]

theorem spendNow_of_ready {s : State} {core : Nat} {r : WideReq} (hr : s.oldest core = some r)
    (hp : r.price ≤ (s.coreAt core).reserve) (hf : (s.coreAt core).reserveFor = some r.who) :
    s.spendNow core = (s.setCoreAt core ((s.coreAt core).spend r.price (s.holdFor r))).grantReq r := by
  simp [State.spendNow, hr, hf, Nat.not_lt.2 hp, Core.spend]

theorem coreAt_grantReq (s : State) (r : WideReq) (k : Nat) : (s.grantReq r).coreAt k = s.coreAt k :=
  coreAt_congr (grantReq_frame s r).1 k

/-- A welt whose request is granted waits no more, and has its price (R385). -/
theorem weltAt_grantReq {s : State} {r : WideReq} {i n : Nat} (h : r.who = .welt i n) (hi : i < s.welts.length) :
    ((s.grantReq r).weltAt i).spent = r.price ∧ ((s.grantReq r).weltAt i).wait = .none := by
  simp [State.grantReq, h, weltAt_setWeltAt, hi]

/-! ### Counts of a ring (R381, R386) -/

theorem countOf_cons (key : Nat) (e : Nat × Nat) (l : List (Nat × Nat)) :
    countOf key (e :: l) = if e.1 = key then e.2 else countOf key l := by
  by_cases h : e.1 = key <;> simp [countOf, h]

theorem addCount_cons (key n : Nat) (e : Nat × Nat) (l : List (Nat × Nat)) (h : e.1 ≠ key) :
    addCount key n (e :: l) = e :: addCount key n l := by
  by_cases g : l.any fun e => e.1 == key <;> simp [addCount, h, g]

theorem countOf_addCount (key n : Nat) (l : List (Nat × Nat)) : countOf key (addCount key n l) = countOf key l + n := by
  induction l with
  | nil => simp [addCount, countOf]
  | cons e l ih =>
    by_cases h : e.1 = key
    · simp [addCount, countOf_cons, h]
    · rw [addCount_cons key n e l h, countOf_cons, countOf_cons, if_neg h, if_neg h, ih]

/-- Tokens put on a ring at a station stand there. -/
theorem countOf_putTokens (s : State) {q station : Nat} (part n : Nat) (hq : q < 4) (hs : station < 48) :
    countOf part (((s.putTokens q station part n).ringAt q).at_ station) =
      countOf part ((s.ringAt q).at_ station) + n := by
  unfold State.putTokens
  split
  · subst n; rfl
  · simp only [State.ringAt, Ring.at_, getD_setIfInBounds, hq, hs, and_self, if_true]
    exact countOf_addCount ..

/-- What is kept and what is due are all that a core holds. -/
theorem sum_filter_add_sum_filter_not {α : Type} (f : α → Nat) (p : α → Bool) (l : List α) :
    ((l.filter p).map f).sum + ((l.filter fun x => !(p x)).map f).sum = (l.map f).sum := by
  induction l with
  | nil => rfl
  | cons x l ih => cases h : p x <;> simp [h, ← ih] <;> omega

/-! ### Tokens returned (R386) -/

theorem putTokens_cores (s : State) (q station part n : Nat) : (s.putTokens q station part n).cores = s.cores :=
  (congrArg State.cores (putTokens_frame s q station part n) :)

theorem putTokens_parts (s : State) (q station part n : Nat) : (s.putTokens q station part n).parts = s.parts :=
  (congrArg State.parts (putTokens_frame s q station part n) :)

theorem putTokens_mgmtOut (s : State) (q station part n : Nat) :
    (s.putTokens q station part n).mgmtOut = s.mgmtOut :=
  (congrArg State.mgmtOut (putTokens_frame s q station part n) :)

/-- The state after the tokens of ended work have returned: the core keeps the rest, and the ring has them at its
station. -/
theorem tokenReturn_next {s : State} {core : Nat} {p : Part} (h : core < 192) (hp : s.partOf core = some p) :
    eventGives s (.tokenReturn core) fun u => (∀ k, k ≠ core → u.coreAt k = s.coreAt k) ∧
      (u.coreAt core).held = (s.coreAt core).held.filter (fun h => !(s.holdOver h)) ∧
      (u.coreAt core).reserve = (s.coreAt core).reserve ∧
      countOf p.num ((u.ringAt (core / 48)).at_ (core % 48)) + (u.coreAt core).tokens =
        countOf p.num ((s.ringAt (core / 48)).at_ (core % 48)) + (s.coreAt core).tokens := by
  have cores (k : Nat) : (s.takeDue core).1.coreAt k = _ := takeDue_keeps (State.coreAt · k) (fun _ _ => rfl) s core
  have rings : (s.takeDue core).1.ringAt (core / 48) = s.ringAt (core / 48) :=
    takeDue_keeps (State.ringAt · (core / 48)) (fun _ _ => rfl) s core
  have part : (s.takeDue core).1.partOf core = some p :=
    (takeDue_keeps (State.partOf · core) (fun _ _ => rfl) s core).trans hp
  have ret : (s.takeDue core).1.returnTokens core (s.takeDue core).2 =
      (s.takeDue core).1.putTokens (core / 48) (core % 48) p.num (s.takeDue core).2 := by
    rw [State.returnTokens, part]
  have cores' (k : Nat) : ((s.takeDue core).1.returnTokens core (s.takeDue core).2).coreAt k = _ :=
    (coreAt_congr (ret ▸ putTokens_cores ..) k).trans (cores k)
  refine eventGives_of_tangible (exec_tokenReturn core s) (by simp) ⟨fun k hk => ?_, ?_, ?_, ?_⟩
  · rw [cores' k, coreAt_setCoreAt_ne _ _ hk]
  · rw [cores' core, coreAt_setCoreAt_same _ _ h]
  · rw [cores' core, coreAt_setCoreAt_same _ _ h]
  · rw [cores' core, coreAt_setCoreAt_same _ _ h, ret, countOf_putTokens _ _ _ (by omega) (by omega), rings,
      takeDue_count, Core.tokens_eq, Core.tokens_eq]
    have := sum_filter_add_sum_filter_not (·.count) s.holdOver (s.coreAt core).held
    dsimp only
    omega

/-- TOKEN_SPEND where the reserve meets the price of the oldest request (R385-R388). -/
theorem tokenSpend_next {s : State} {core : Nat} {r : WideReq} (h : core < 192) (hr : s.oldest core = some r)
    (hp : r.price ≤ (s.coreAt core).reserve) (hf : (s.coreAt core).reserveFor = some r.who) :
    eventGives s (.tokenSpend core) fun u => (∀ k, k ≠ core → u.coreAt k = s.coreAt k) ∧
      u.coreAt core = (s.coreAt core).spend r.price (s.holdFor r) ∧ u.rings = s.rings ∧
      ∀ i n, r.who = .welt i n → i < s.welts.length → (u.weltAt i).spent = r.price ∧ (u.weltAt i).wait = .none := by
  refine eventGives_of_tangible (exec_tokenSpend core s) (tangible_spendNow s core) ?_
  rw [spendNow_of_ready hr hp hf]
  refine ⟨fun k hk => ?_, ?_, (grantReq_frame ..).2, fun i n hw hi => weltAt_grantReq hw hi⟩
  · rw [coreAt_grantReq, coreAt_setCoreAt_ne _ _ hk]
  · rw [coreAt_grantReq, coreAt_setCoreAt_same _ _ h]

/-! ### Hunger (R388) -/

theorem starving_iff (s : State) (core : Nat) :
    s.starving core = true ↔ ∃ r, s.oldest core = some r ∧ r.since + 96 ≤ s.now := by
  unfold State.starving
  cases s.oldest core <;> simp

theorem coreHungry_next (s : State) {core : Nat} (h : core < 192) :
    eventGives s (.coreHungry core) fun u => (∀ k, k ≠ core → u.coreAt k = s.coreAt k) ∧ u.rings = s.rings ∧
      ((u.coreAt core).hungry = true ↔ ∃ r, s.oldest core = some r ∧ r.since + 96 ≤ s.now) := by
  refine eventGives_of_tangible (exec_coreHungry core s) (tangible_setHungry s core)
    ⟨fun k hk => coreAt_setCoreAt_ne _ _ hk, rfl, ?_⟩
  rw [State.setHungry, coreAt_setCoreAt_same _ _ h]
  exact starving_iff s core

/-! ### Quotas (R382, R383) -/

/-- The live partition of a number, if there is one. -/
def State.livePart (s : State) (n : Nat) : Option Part := s.parts.find? fun p => p.live && p.num == n

theorem partNum_of_livePart {s : State} {n : Nat} {p : Part} (h : s.livePart n = some p) : s.partNum n = p := by
  rw [State.livePart] at h
  rw [State.partNum, h]; rfl

theorem livePart_spec {s : State} {n : Nat} {p : Part} (h : s.livePart n = some p) : p.live = true ∧ p.num = n := by
  simpa using List.find?_some h

/-- A live partition whose number no other one has is the one of its number. -/
theorem livePart_of_unique {s : State} {p : Part} (hp : p ∈ s.parts) (hl : p.live = true)
    (h : ∀ o ∈ s.parts, o.live = true → o.num = p.num → o = p) : s.livePart p.num = some p := by
  obtain ⟨o, ho⟩ : ∃ o, s.livePart p.num = some o := by
    rw [← Option.isSome_iff_exists, State.livePart, List.find?_isSome]
    exact ⟨p, hp, by simp [hl]⟩
  obtain ⟨live, num⟩ := livePart_spec ho
  rw [ho, h o (List.mem_of_find?_eq_some ho) live num]

/-- A live partition replaced is the one of its number from then on; the others stay. -/
theorem livePart_setPart (s : State) {p : Part} (hl : p.live = true) (n : Nat) :
    (s.setPart p).livePart n = (s.livePart n).map fun o => if n = p.num then p else o := by
  have e : ((fun o : Part => o.live && o.num == n) ∘ fun o : Part => if o.live && o.num == p.num then p else o) =
      fun o => o.live && o.num == n := by
    funext o
    by_cases h : o.live = true ∧ o.num = p.num <;> simp [h, hl]
  rw [State.livePart, State.setPart, List.find?_map, e]
  cases h : s.livePart n with
  | none => rw [State.livePart] at h; rw [h]; rfl
  | some o =>
    obtain ⟨live, num⟩ := livePart_spec h
    rw [State.livePart] at h
    rw [h]
    simp [live, num]

theorem livePart_congr {s u : State} (h : u.parts = s.parts) (n : Nat) : u.livePart n = s.livePart n := by
  rw [State.livePart, State.livePart, h]

/-- A quota wanted on a quarter, brought within the bounds of R382. -/
def Part.bounded (p : Part) (q want : Nat) : Nat := min (max want (p.floor q)) (p.ceiling q)

/-- A partition with a new quota on a quarter, and what is still to be withdrawn there. -/
def Part.withQuota (p : Part) (q new : Nat) (due : Vector Nat 4) : Part :=
  { p with quotas := p.quotas.setIfInBounds q new, withdraw := due }

theorem quota_withQuota (p : Part) {q : Nat} (new : Nat) (due : Vector Nat 4) (hq : q < 4) :
    (p.withQuota q new due).quota q = new := by
  simp only [Part.quota, Part.withQuota, getD_setIfInBounds, hq, and_self, if_true]

/-- A quota change replaces the partition by one of the new quota, and puts the tokens added on the ring (R383). -/
theorem setQuota_eq (s : State) (p : Part) (q want : Nat) : ∃ due k,
    s.setQuota p q want = (s.setPart (p.withQuota q (p.bounded q want) due)).putTokens q 0 p.num k := by
  unfold State.setQuota
  dsimp only
  split
  · exact ⟨_, _, rfl⟩
  · exact ⟨_, 0, rfl⟩

@[simp] theorem tangible_setQuota (s : State) (p : Part) (q want : Nat) :
    (s.setQuota p q want).tangible = s.tangible := by
  obtain ⟨due, k, e⟩ := setQuota_eq s p q want
  simp [e]

theorem setQuota_mgmtOut (s : State) (p : Part) (q want : Nat) : (s.setQuota p q want).mgmtOut = s.mgmtOut := by
  obtain ⟨due, k, e⟩ := setQuota_eq s p q want
  rw [e, putTokens_mgmtOut]; rfl

/-- The partitions after a quota change: that one's quota has been set within its bounds, and its cores are the same. -/
theorem livePart_setQuota {s : State} {p : Part} {q m : Nat} (want : Nat) (hq : q < 4) (hp : s.livePart m = some p) :
    (∃ p', (s.setQuota p q want).livePart m = some p' ∧ p'.clusters = p.clusters ∧ p'.quota q = p.bounded q want) ∧
    ∀ n, n ≠ m → (s.setQuota p q want).livePart n = s.livePart n := by
  obtain ⟨live, rfl⟩ := livePart_spec hp
  obtain ⟨due, k, e⟩ := setQuota_eq s p q want
  have part (n : Nat) : (s.setQuota p q want).livePart n =
      (s.livePart n).map fun o => if n = p.num then p.withQuota q (p.bounded q want) due else o := by
    rw [e, livePart_congr (putTokens_parts ..)]
    exact livePart_setPart s (p := p.withQuota q (p.bounded q want) due) live n
  refine ⟨⟨p.withQuota q (p.bounded q want) due, ?_, rfl, quota_withQuota _ _ _ hq⟩, fun n hn => ?_⟩
  · rw [part, hp, Option.map_some, if_pos rfl]
  · rw [part n]
    simp [hn]

theorem powerQuotaChange_next {s : State} {q : Nat} {p : Part} (n : Nat) (hq : q < 4) (hp : p ∈ s.parts)
    (hl : p.live = true) (h : ∀ o ∈ s.parts, o.live = true → o.num = p.num → o = p) :
    eventGives s (.powerQuotaChange p.num q n) fun u =>
      (u.partNum p.num).quota q = min (max n (64 * p.coresOn q)) (256 * p.coresOn q) := by
  have found := livePart_of_unique hp hl h
  have run : exec (.powerQuotaChange p.num q n) s = .next (s.setQuota p q n) := by
    rw [State.livePart] at found
    simp only [exec_powerQuotaChange, execPowerQuotaChange, hq, decide_true, Bool.and_true, found]
  obtain ⟨⟨p', e, -, quota⟩, -⟩ := livePart_setQuota n hq found
  exact eventGives_of_tangible run (tangible_setQuota ..) (partNum_of_livePart e ▸ quota)

/-! ### Heat (R23, R383) -/

/-- The quota of the partition of a number on a quarter goes to its floor. -/
def State.toFloor (q : Nat) (s : State) (m : Nat) : State := s.setQuota (s.partNum m) q 0

/-- The partition of a number, has its floor as its quota on a quarter. -/
def State.atFloor (s : State) (q n : Nat) : Prop := (s.partNum n).quota q = (s.partNum n).floor q

theorem bounded_zero (p : Part) (q : Nat) : p.bounded q 0 = p.floor q := by
  rw [Part.bounded, Part.floor, Part.ceiling]; omega

theorem floor_congr {p o : Part} (h : p.clusters = o.clusters) (q : Nat) : p.floor q = o.floor q := by
  rw [Part.floor, Part.floor, Part.coresOn, Part.coresOn, h]

/-- One partition throttled: it is at its floor, the others keep what they have, and each keeps its cores. -/
theorem toFloor_spec {s : State} {q m : Nat} (hq : q < 4) (hm : (s.livePart m).isSome) :
    (s.toFloor q m).atFloor q m ∧ (∀ n, n ≠ m → (s.toFloor q m).livePart n = s.livePart n) ∧
      ∀ n, ((s.toFloor q m).livePart n).map (·.clusters) = (s.livePart n).map (·.clusters) := by
  obtain ⟨p, hp⟩ := Option.isSome_iff_exists.1 hm
  obtain ⟨⟨p', e, clusters, quota⟩, others⟩ := livePart_setQuota 0 hq hp
  rw [State.toFloor, partNum_of_livePart hp]
  refine ⟨?_, others, fun n => ?_⟩
  · rw [State.atFloor, partNum_of_livePart e, quota, bounded_zero, floor_congr clusters]
  · by_cases h : n = m
    · subst h; rw [e, hp, Option.map_some, Option.map_some, clusters]
    · rw [others n h]

theorem atFloor_toFloor {s : State} {q m n : Nat} (hq : q < 4) (hm : (s.livePart m).isSome) (h : s.atFloor q n) :
    (s.toFloor q m).atFloor q n := by
  obtain ⟨floor, others, -⟩ := toFloor_spec hq hm
  by_cases e : n = m
  · exact e ▸ floor
  · have same : (s.toFloor q m).partNum n = s.partNum n := by
      simpa only [State.partNum, State.livePart] using congrArg (·.getD Part.init) (others n e)
    rw [State.atFloor, same]
    exact h

/-- Partitions throttled one after another are all at their floors, with the cores that they had. -/
theorem foldl_toFloor_spec {q : Nat} (hq : q < 4) (ms : List Nat) {s : State} (hm : ∀ m ∈ ms, (s.livePart m).isSome) :
    (∀ n, n ∈ ms ∨ s.atFloor q n → (ms.foldl (State.toFloor q) s).atFloor q n) ∧
      ∀ n, ((ms.foldl (State.toFloor q) s).livePart n).map (·.clusters) = (s.livePart n).map (·.clusters) := by
  induction ms generalizing s with
  | nil => exact ⟨fun n h => h.resolve_left (by simp), fun _ => rfl⟩
  | cons m ms ih =>
    have hm0 := hm m (List.mem_cons_self ..)
    obtain ⟨floor, -, clusters⟩ := toFloor_spec hq hm0
    have hm' : ∀ k ∈ ms, ((s.toFloor q m).livePart k).isSome := fun k hk => by
      rw [← Option.isSome_map, clusters k, Option.isSome_map]
      exact hm k (List.mem_cons_of_mem _ hk)
    obtain ⟨all, same⟩ := ih hm'
    refine ⟨fun n hn => all n ?_, fun n => (same n).trans (clusters n)⟩
    rcases hn with hn | hn
    · rcases List.mem_cons.1 hn with rfl | hn
      · exact .inr floor
      · exact .inl hn
    · exact .inr (atFloor_toFloor hq hm0 hn)

/-- The numbers of the live partitions that have cores on a quarter. -/
def State.partsOn (s : State) (q : Nat) : List Nat :=
  (s.parts.filter fun p => p.live && p.coresOn q != 0).map Part.num

theorem mem_partsOn {s : State} {q n : Nat} :
    n ∈ s.partsOn q ↔ ∃ p ∈ s.parts, p.live = true ∧ p.coresOn q ≠ 0 ∧ p.num = n := by
  simp [State.partsOn, and_assoc]

/-- At 95 °C the partitions of the quarter are throttled, and the management plane is told. -/
theorem thermalThrottle_hot (s : State) (q : Nat) {heat : Nat} (hh : 95 ≤ heat) : ∃ words,
    exec (.thermalThrottle q heat) s = .next (((s.partsOn q).foldl (State.toFloor q) s).tellMgmt 5 words) := by
  rw [exec_thermalThrottle, execThermalThrottle, if_neg (by omega), State.partsOn, List.foldl_map]
  exact ⟨_, rfl⟩

/-- Where no two live partitions share a number, a live one is the one of its number. -/
theorem livePart_of_pairwise {s : State}
    (h : s.parts.Pairwise fun o p => o.live = false ∨ p.live = false ∨ o.num ≠ p.num) {p : Part} (hp : p ∈ s.parts)
    (hl : p.live = true) : s.livePart p.num = some p := by
  have symm : Std.Symm fun o p : Part => o.live = false ∨ p.live = false ∨ o.num ≠ p.num :=
    ⟨fun o p => by rw [ne_comm (a := p.num)]; tauto⟩
  refine livePart_of_unique hp hl fun o ho live num => ?_
  by_contra ne
  have := h.forall ho hp ne
  simp [hl, live, num] at this

theorem tangible_tellMgmt (s : State) (kind : Nat) (words : List W64) :
    (s.tellMgmt kind words).tangible = s.tangible := rfl

theorem tellMgmt_length (s : State) (kind : Nat) (words : List W64) :
    (s.tellMgmt kind words).mgmtOut.length = s.mgmtOut.length + 1 := by simp [State.tellMgmt]

/-- At 95 °C the management plane is told, and each partition of the quarter is at its floor (R23, R383, R451). -/
theorem thermalThrottle_next {s : State} {q heat : Nat} (hh : 95 ≤ heat) (hq : q < 4)
    (h : s.parts.Pairwise fun o p => o.live = false ∨ p.live = false ∨ o.num ≠ p.num) :
    eventGives s (.thermalThrottle q heat) fun u => u.mgmtOut.length = s.mgmtOut.length + 1 ∧
      ∀ p ∈ s.parts, p.live = true → p.coresOn q ≠ 0 → (u.partNum p.num).quota q = 64 * p.coresOn q := by
  obtain ⟨words, run⟩ := thermalThrottle_hot s q hh
  have kept : ((s.partsOn q).foldl (State.toFloor q) s).mgmtOut = s.mgmtOut :=
    foldl_keeps State.mgmtOut (fun t m => setQuota_mgmtOut ..) _ s
  have still : ((s.partsOn q).foldl (State.toFloor q) s).tangible = s.tangible :=
    foldl_keeps State.tangible (fun t m => tangible_setQuota ..) _ s
  have live : ∀ m ∈ s.partsOn q, (s.livePart m).isSome := fun m hm => by
    obtain ⟨p, hp, hl, -, rfl⟩ := mem_partsOn.1 hm
    rw [livePart_of_pairwise h hp hl]; rfl
  obtain ⟨floor, clusters⟩ := foldl_toFloor_spec hq _ live
  refine eventGives_of_tangible run ((tangible_tellMgmt ..).trans still)
    ⟨by rw [tellMgmt_length, kept], fun p hp hl hc => ?_⟩
  obtain ⟨p', found, same⟩ : ∃ p', ((s.partsOn q).foldl (State.toFloor q) s).livePart p.num = some p' ∧
      p'.clusters = p.clusters := by
    simpa [livePart_of_pairwise h hp hl] using clusters p.num
  have quota := floor p.num (.inl (mem_partsOn.2 ⟨p, hp, hl, hc, rfl⟩))
  rw [State.atFloor, partNum_of_livePart found, floor_congr same] at quota
  exact (congrArg (Part.quota · q) (partNum_of_livePart found)).trans quota

/-- At 105 °C the module resets, host memory stays, and the management plane is told (R23, R449). -/
theorem thermalReset_next (s : State) (q : Nat) {heat : Nat} (hh : 105 ≤ heat) :
    ∃ u, exec (.thermalReset q heat) s = .next u ∧ u.bringup = .reset ∧ u.mem = [] ∧ u.welts = [] ∧
      u.host = s.host ∧ u.mgmtOut.length = s.mgmtOut.length + 1 := by
  refine ⟨_, (exec_thermalReset q heat s).trans (if_neg (by omega)), rfl, rfl, rfl, rfl, ?_⟩
  exact tellMgmt_length ..

/-! ### Slices (R391, R392) -/

/-- A slice of a core. -/
def State.sliceOf (s : State) (core k : Nat) : Slice := (s.coreAt core).slices.toList.getD k Slice.init

theorem sliceOf_setSlice (s : State) {core k : Nat} (f : Slice → Slice) (h : core < 192) (hk : k < 6) :
    (s.setSlice core k f).sliceOf core k = f (s.sliceOf core k) := by
  simp only [State.sliceOf, State.setSlice, coreAt_setCoreAt_same _ _ h, getD_setIfInBounds, hk, and_self, if_true]

theorem coreAt_setSlice_ne (s : State) {core k j : Nat} (f : Slice → Slice) (h : j ≠ core) :
    (s.setSlice core k f).coreAt j = s.coreAt j := coreAt_setCoreAt_ne _ _ h

theorem sliceOf_post (s : State) (i : Instr) (core k : Nat) : (s.post i).sliceOf core k = s.sliceOf core k := rfl

theorem tangible_setSlice (s : State) (core k : Nat) (f : Slice → Slice) :
    (s.setSlice core k f).tangible = s.tangible := rfl

/-- A change of a ratio becomes pending (R392). -/
theorem sliceRatioChange_next (s : State) {core k : Nat} (code : BitVec 3) (h : core < 192) (hk : k < 6) :
    eventGives s (.sliceRatioChange core k code) fun u => (∀ j, j ≠ core → u.coreAt j = s.coreAt j) ∧
      (u.sliceOf core k).ratio = (s.sliceOf core k).ratio ∧ (u.sliceOf core k).pending = some (code, s.now + 64) ∧
      .sliceRatioTakesEffect core k ∈ u.agenda := by
  refine eventGives_of_tangible (exec_sliceRatioChange core k code s) (tangible_post ..) ⟨fun j hj => ?_, ?_, ?_, ?_⟩
  · rw [coreAt_post, coreAt_setSlice_ne s _ hj]
  · rw [sliceOf_post, sliceOf_setSlice s _ h hk]
  · rw [sliceOf_post, sliceOf_setSlice s _ h hk]
  · exact List.mem_append_right _ (List.mem_singleton_self _)

/-- A pending change of a ratio takes effect (R392). -/
theorem sliceRatioTakesEffect_next {s : State} {core k t : Nat} {code : BitVec 3} (h : core < 192) (hk : k < 6)
    (ht : (s.sliceOf core k).pending = some (code, t)) :
    eventGives s (.sliceRatioTakesEffect core k) fun u => (∀ j, j ≠ core → u.coreAt j = s.coreAt j) ∧
      (u.sliceOf core k).ratio = code ∧ (u.sliceOf core k).pending = none := by
  refine eventGives_of_tangible (exec_sliceRatioTakesEffect core k s) (tangible_setSlice ..)
    ⟨fun j hj => coreAt_setSlice_ne s _ hj, ?_⟩
  rw [sliceOf_setSlice s _ h hk, Slice.newRatio, ht]
  exact ⟨rfl, rfl⟩

/-- The read grants of a slice change (R391). -/
theorem readGrantChange_next (s : State) {core k n : Nat} (h : core < 192) (hk : k < 6) (h2 : 2 ≤ n) (h12 : n ≤ 12) :
    eventGives s (.readGrantChange core k n) fun u => (∀ j, j ≠ core → u.coreAt j = s.coreAt j) ∧
      (u.sliceOf core k).grants = n := by
  refine eventGives_of_tangible (exec_readGrantChange core k n s) (tangible_setSlice ..)
    ⟨fun j hj => coreAt_setSlice_ne s _ hj, ?_⟩
  rw [sliceOf_setSlice s _ h hk]
  show min 12 (max 2 n) = n
  omega

/-- A cycle advances the clock by one (R381). -/
theorem laceCycle_clock (s : State) : eventGives s .laceCycle fun u => u.now = s.now + 1 := by
  obtain ⟨u, run, e⟩ := laceCycle_next s
  refine ⟨u, run, ⟨fun l => ?_, fun i => ?_⟩, now_of_tangible e⟩
  · rw [getByte_of_tangible e]
    cases l <;> rfl
  · exact sameRegisters_of_registers (registers_of_tangible e i)

/-- R381-R393: each clause by the lemma for its event. -/
theorem powerAndClock_holds : powerAndClock := by
  intro s core hc c others
  refine ⟨fun r hr => ⟨fun h => ?_, fun hp hf => ?_⟩, fun h => ?_, fun p hp => tokenReturn_next hc hp,
    coreHungry_next s hc, fun q p n hq hp hl h => powerQuotaChange_next n hq hp hl h,
    fun k hk code n => ⟨sliceRatioChange_next s code hc hk, fun t ht => sliceRatioTakesEffect_next hc hk ht,
      fun h2 h12 => readGrantChange_next s hc hk h2 h12⟩,
    fun q heat => ⟨fun h => (exec_thermalThrottle q heat s).trans (if_pos h),
      fun h => (exec_thermalReset q heat s).trans (if_pos h), fun h hq hd => thermalThrottle_next h hq hd,
      fun h => thermalReset_next s q h⟩, laceCycle_clock s⟩
  · rw [exec_tokenSpend, execTokenSpend, spendNow_of_unready hr h]
  · obtain ⟨u, run, still, oth, core', rings, welts⟩ := tokenSpend_next hc hr hp hf
    refine ⟨u, run, still, oth, ?_⟩
    rw [core']
    exact ⟨rfl, rfl, rfl, ⟨s.holdFor r, rfl, holdFor_count s r, holdFor_who s r, fun k n h => holdFor_copy s h,
      fun i n h => holdFor_welt s h⟩, Core.tokens_spend _ _ _ hp (holdFor_count s r), rings, welts⟩
  · rw [exec_tokenSpend, execTokenSpend, spendNow_of_none h]

/-! ### What a stop records (R425) -/

theorem trap_setTrap (w : Welt) (n k : Nat) (t : TrapRegs) :
    (w.setTrap n t).trap k = if n = k ∧ k < 3 then t else w.trap k := getD_setIfInBounds ..

/-- A record reads of the welt what records leave as it was. -/
theorem nextLane_foldl_record (w : Welt) (hs : List HaltRec) : (hs.foldl Welt.record w).nextLane = w.nextLane :=
  (congrArg Welt.nextLane (w.record_rest hs) :)

/-- What the record of a halt, which a trap of a sibling at level `m` sent, holds (R425). -/
structure Welt.Recorded (w u : Welt) (m : Nat) (r : HaltRec) : Prop where
  cause : (u.trap m).tcause = 0
  lanes : (u.trap m).tlanes = 0
  pc : (u.trap m).tpcv = w.nextLane.pc.setWidth 64
  status : (u.trap m).tsw.getLsbD 9 = true
  retired : r.n < 256 → field (u.trap m).skid 56 8 = r.n
  arrival : field (u.trap m).skid 0 56 = field r.at_ 0 56

/-- SIB stands in the status word of a sibling's record (R424). -/
theorem tswOf_sibling (d : BitVec 6) (z : Option Serial) (level : Nat) :
    (tswOf d z level false true false false).getLsbD 9 = true := by
  simp only [tswOf, BitVec.getLsbD_ofNat, Nat.testBit_eq_decide_div_mod_eq]
  cases z <;> simp <;> omega

/-- The count of retired instructions stands above the cycle count of the halt (R426). -/
theorem skid_fields (n : Nat) (c : W64) :
    (n < 256 → field (BitVec.ofNat 64 (n * 2 ^ 56) ||| (c &&& 0x00FFFFFFFFFFFFFF#64)) 56 8 = n) ∧
      field (BitVec.ofNat 64 (n * 2 ^ 56) ||| (c &&& 0x00FFFFFFFFFFFFFF#64)) 0 56 = field c 0 56 := by
  have high : (BitVec.ofNat 64 (n * 2 ^ 56)).extractLsb' 56 8 = BitVec.ofNat 8 n := by
    apply BitVec.eq_of_toNat_eq
    rw [BitVec.extractLsb'_toNat, BitVec.toNat_ofNat, BitVec.toNat_ofNat, Nat.shiftRight_eq_div_pow]
    omega
  have low : (BitVec.ofNat 64 (n * 2 ^ 56)).extractLsb' 0 56 = 0#56 := by
    apply BitVec.eq_of_toNat_eq
    rw [BitVec.extractLsb'_toNat, BitVec.toNat_ofNat, BitVec.toNat_ofNat, Nat.shiftRight_eq_div_pow]
    omega
  have high_mask : (0x00FFFFFFFFFFFFFF#64).extractLsb' 56 8 = 0#8 := by simp
  have low_mask : (0x00FFFFFFFFFFFFFF#64).extractLsb' 0 56 = BitVec.allOnes 56 := by simp
  refine ⟨fun hn => ?_, ?_⟩
  · rw [field, BitVec.extractLsb'_or, BitVec.extractLsb'_and, high, high_mask, BitVec.and_zero, BitVec.or_zero,
      BitVec.toNat_ofNat, Nat.mod_eq_of_lt hn]
  · rw [field, BitVec.extractLsb'_or, BitVec.extractLsb'_and, low, low_mask, BitVec.and_allOnes, BitVec.zero_or]
    rfl

theorem recorded_stopRecord (w : Welt) {m : Nat} (r : HaltRec) (hm : m ≤ 2) :
    w.Recorded (w.stopRecord m r.n r.at_) m r := by
  have e : (w.stopRecord m r.n r.at_).trap m = _ := (trap_setTrap ..).trans (if_pos ⟨rfl, by omega⟩)
  constructor <;> rw [e]
  · exact tswOf_sibling ..
  · exact (skid_fields r.n r.at_).1
  · exact (skid_fields r.n r.at_).2

/-- A halt that is not of a trap at level `m` writes no record there. -/
theorem trap_record_other (w : Welt) {r : HaltRec} {m : Nat} (h : r.kind ≠ .sibling m) :
    (w.record r).trap m = w.trap m := by
  unfold Welt.record
  split
  · rename_i k hk
    exact (trap_setTrap w k m _).trans (if_neg fun e => h (hk.trans (congrArg HaltKind.sibling e.1)))
  · rfl

/-- Each halt of a trap has its record, where no other halt of its level has come. -/
theorem recorded_foldl (w : Welt) {r : HaltRec} {m : Nat} (hm : m ≤ 2) (hk : r.kind = .sibling m) (hs : List HaltRec)
    (hr : r ∈ hs) (only : ∀ r' ∈ hs, r'.kind = .sibling m → r' = r) : w.Recorded (hs.foldl Welt.record w) m r := by
  induction hs using List.reverseRecOn with
  | nil => simp at hr
  | append_singleton hs x ih =>
    rw [List.foldl_append, List.foldl_cons, List.foldl_nil]
    by_cases hx : x.kind = .sibling m
    · obtain rfl := only x (by simp) hx
      have e : (hs.foldl Welt.record w).record x = (hs.foldl Welt.record w).stopRecord m x.n x.at_ := by
        rw [Welt.record, hx]
      have := recorded_stopRecord (hs.foldl Welt.record w) x hm
      rw [e]
      exact { this with pc := (nextLane_foldl_record w hs) ▸ this.pc }
    · have hr' : r ∈ hs := by
        rcases List.mem_append.1 hr with h | h
        · exact h
        · obtain rfl := List.mem_singleton.1 h
          exact absurd hk hx
      have := ih hr' fun r' h' => only r' (List.mem_append_left _ h')
      obtain ⟨a, b, c, d, f, g⟩ := this
      constructor <;> rwa [trap_record_other _ hx]

theorem traps_foldl_record (w : Welt) (hs : List HaltRec) (h : ∀ r ∈ hs, ∀ m, r.kind ≠ .sibling m) :
    (hs.foldl Welt.record w).traps = w.traps := by
  have e : hs.foldl Welt.record w = w :=
    List.foldlRecOn hs Welt.record (motive := fun x => x = w) rfl fun x hx r hr => by
      rw [Welt.record]
      split
      · rename_i m hm
        exact absurd hm (h r hr m)
      · exact hx
  rw [e]

/-! ### Stops (R425, R428) -/

/-- A byte as a reader finds it depends on no welt. -/
theorem getByte_setWeltAt (s : State) (i : Nat) (w : Welt) (l : Loc) : (s.setWeltAt i w).getByte l = s.getByte l := by
  cases l <;> rfl

theorem siblingStop_of_halted {s : State} {w : Nat} (h : (s.weltAt w).atStop = true) (he : (s.weltAt w).ended = false) :
    exec (.siblingStop w) s = .next (s.setWeltAt w (s.weltAt w).stop) := by
  simp [exec_siblingStop, execSiblingStop, h, he]

theorem siblingStop_of_running {s : State} {w : Nat} (h : (s.weltAt w).halt = .none) :
    exec (.siblingStop w) s = .next s := by
  rw [exec_siblingStop, execSiblingStop]
  simp only [Welt.stop_of_running _ h, setWeltAt_self, ite_self]

theorem siblingStop_inside {s : State} {w : Nat} (h : ¬(s.weltAt w).atStop = true) :
    exec (.siblingStop w) s = .next s := by
  simp [exec_siblingStop, execSiblingStop, h]

theorem atStop_iff (w : Welt) : w.atStop = true ↔ w.atBoundary = true ∨ w.wait ≠ .none ∨ w.live = 0 := by
  simp [Welt.atStop, or_assoc]

/-- A halt sent to a welt that does not ignore it is there at once (R425). -/
theorem haltWelt_cases (s : State) (k : HaltKind) (i : Nat) :
    ((s.weltAt i).ignores k = true ∧ s.haltWelt k i = s) ∨
      ∃ h, h ≠ Halt.none ∧ s.haltWelt k i =
        ((s.setWeltAt i { s.weltAt i with halt := h }).splitStitch i).post (.siblingStop i) := by
  unfold State.haltWelt
  by_cases ig : (s.weltAt i).ignores k = true
  · exact .inl ⟨ig, if_pos ig⟩
  · refine .inr ⟨_, ?_, if_neg ig⟩
    split
    · split <;> simp
    · simp

/-- Of a welt a halt that is sent changes the halt alone, and never takes one away. -/
theorem weltAt_haltWelt (s : State) (k : HaltKind) (i j : Nat) :
    ∃ h, (h ≠ .none ∨ h = (s.weltAt j).halt) ∧ (s.haltWelt k i).weltAt j = { s.weltAt j with halt := h } := by
  rcases haltWelt_cases s k i with ⟨-, e⟩ | ⟨h, hn, e⟩
  · exact ⟨_, .inr rfl, by rw [e]⟩
  · have at_ : (s.haltWelt k i).weltAt j = _ := (congrArg (State.weltAt · j) e).trans (weltAt_setWeltAt s i j _)
    by_cases c : i = j ∧ j < s.welts.length
    · obtain ⟨rfl, hj⟩ := c
      exact ⟨h, .inl hn, at_.trans (if_pos ⟨rfl, hj⟩)⟩
    · exact ⟨_, .inr rfl, at_.trans (if_neg c)⟩

theorem length_haltWelt (s : State) (k : HaltKind) (i : Nat) : (s.haltWelt k i).welts.length = s.welts.length := by
  rcases haltWelt_cases s k i with ⟨-, e⟩ | ⟨h, -, e⟩ <;> rw [e]
  exact length_setWeltAt ..

theorem tangible_haltWelt (s : State) (k : HaltKind) (i : Nat) : (s.haltWelt k i).tangible = s.tangible := by
  rcases haltWelt_cases s k i with ⟨-, e⟩ | ⟨h, -, e⟩ <;> rw [e]
  exact tangible_setWeltAt s i _ rfl

/-- At a stall of its core a welt that runs no handler is halted (R428). -/
theorem halt_haltWelt_stall {s : State} {i : Nat} (hi : i < s.welts.length) (he : (s.weltAt i).ended = false)
    (hh : (s.weltAt i).inHandler = []) : ((s.haltWelt .stall i).weltAt i).halt ≠ .none := by
  rcases haltWelt_cases s .stall i with ⟨ig, e⟩ | ⟨h, hn, e⟩
  · have stopped : (s.weltAt i).halt = .stopped := by simpa [Welt.ignores, he, hh] using ig
    rw [e, stopped]
    simp
  · have at_ : (s.haltWelt .stall i).weltAt i = _ :=
      (congrArg (State.weltAt · i) e).trans ((weltAt_setWeltAt s i i _).trans (if_pos ⟨rfl, hi⟩))
    rw [at_]
    exact hn

/-- Every welt that is told to stop at a stall, and runs no handler, is halted, and stays so (R428). -/
theorem halt_foldl_haltWelt {s : State} {j : Nat} (hj : j < s.welts.length) (he : (s.weltAt j).ended = false)
    (hh : (s.weltAt j).inHandler = []) (is : List Nat) (h : j ∈ is ∨ (s.weltAt j).halt ≠ .none) :
    ((is.foldl (State.haltWelt · .stall ·) s).weltAt j).halt ≠ .none := by
  induction is generalizing s with
  | nil => exact h.resolve_left (by simp)
  | cons i is ih =>
    obtain ⟨x, kept, e⟩ := weltAt_haltWelt s .stall i j
    refine ih (by rwa [length_haltWelt]) (by rw [e]; exact he) (by rw [e]; exact hh) ?_
    by_cases eq : j = i
    · exact .inr (eq ▸ halt_haltWelt_stall (eq ▸ hj) (eq ▸ he) (eq ▸ hh))
    · refine h.imp (fun m => (List.mem_cons.1 m).resolve_left eq) fun n => ?_
      rw [e]
      rcases kept with k | k
      · exact k
      · exact k ▸ n

theorem mem_liveWelts {s : State} {g i : Nat} :
    i ∈ s.liveWelts g ↔ i < s.welts.length ∧ (s.weltAt i).wg = g ∧ (s.weltAt i).ended = false := by
  simp [State.liveWelts, State.weltsOf, and_comm]

theorem coreStall_next {s : State} {core : Nat} (h : s.inService core = true) :
    eventGives s (.coreStall core) fun u => ∀ i < s.welts.length, (s.weltAt i).wg ∈ s.wgsOn core →
      (s.weltAt i).ended = false → (s.weltAt i).inHandler = [] → (u.weltAt i).halt ≠ .none := by
  refine eventGives_of_tangible ((exec_coreStall core s).trans (if_pos h))
    (foldl_keeps State.tangible (fun t i => tangible_haltWelt ..) _ _) fun i hi hg he hh => ?_
  exact halt_foldl_haltWelt hi he hh _ (.inl (List.mem_flatMap.2 ⟨_, hg, mem_liveWelts.2 ⟨hi, rfl, he⟩⟩))

theorem stop_of_coming {w : Welt} {hs : List HaltRec} (h : w.halt = .coming hs) :
    w.stop = { hs.foldl Welt.record w with halt := .stopped } := by
  rw [Welt.stop, h]

/-- A welt to which halts have come, at a stop point: it stops there with its records (R425, R426). -/
theorem siblingStop_next {s : State} {w : Nat} {hs : List HaltRec} (hw : w < s.welts.length)
    (hc : (s.weltAt w).halt = .coming hs) (he : (s.weltAt w).ended = false) (h : (s.weltAt w).atStop = true) :
    ∃ u, exec (.siblingStop w) s = .next u ∧ (∀ l, u.getByte l = s.getByte l) ∧
      (∀ i, i ≠ w → u.weltAt i = s.weltAt i) ∧
      u.weltAt w = { hs.foldl Welt.record (s.weltAt w) with halt := .stopped } := by
  refine ⟨_, siblingStop_of_halted h he, fun l => getByte_setWeltAt .., fun i hi => ?_, ?_⟩
  · rw [weltAt_setWeltAt, if_neg fun e => hi e.1.symm]
  · rw [weltAt_setWeltAt, if_pos ⟨rfl, hw⟩, stop_of_coming hc]

/-! ### Single steps (R430) -/

/-- STEP as a welt raises it for the instruction that it stepped. -/
def Welt.stepTrap (w : Welt) : TrapInfo where
  cause := .step
  lanes := w.stepLanes
  pc := w.stepPc
  depth := some w.stepDepth

theorem singleStep_undone {s : State} {w : Nat} (h : (s.weltAt w).stepDone = false) :
    exec (.singleStepComplete w) s = .next s := by
  simp [exec_singleStepComplete, execSingleStepComplete, h]

/-- A step that is done, of a welt that runs and waits at no collective, is awaited while something of it is in flight. -/
theorem singleStep_done {s : State} {w : Nat} (hd : (s.weltAt w).stepDone = true) (he : (s.weltAt w).ended = false)
    (hc : ∀ c ∈ (s.weltAt w).colls, c.wait = .none) :
    exec (.singleStepComplete w) s = .next (if (s.weltAt w).flights ≠ [] then s.post (.singleStepComplete w)
      else s.raiseIn w (s.weltAt w).stepTrap) := by
  have free : ((s.weltAt w).colls.any fun c => c.wait != .none && (s.weltAt w).stands c) = false := by
    simpa using fun c h wait => absurd (hc c h) wait
  by_cases hf : (s.weltAt w).flights = [] <;>
    simp [exec_singleStepComplete, execSingleStepComplete, hd, he, free, hf, Welt.stepTrap]

/-! ### Watches (R431) -/

/-- A watch of a core set, or taken away: the core's other watches and the other cores are as they were. -/
theorem setWatch_spec (s : State) {core : Nat} (slot : BitVec 2) (v : Option Watch) (h : core < 192) :
    let u := s.setCoreAt core { s.coreAt core with watches := (s.coreAt core).watches.setIfInBounds slot.toNat v }
    (∀ k, k ≠ core → u.coreAt k = s.coreAt k) ∧ ∀ k < 4, (u.coreAt core).watches.toList.getD k none =
      if k = slot.toNat then v else (s.coreAt core).watches.toList.getD k none := by
  refine ⟨fun k hk => coreAt_setCoreAt_ne _ _ hk, fun k hk => ?_⟩
  rw [coreAt_setCoreAt_same _ _ h, getD_setIfInBounds]
  simp only [hk, and_true, eq_comm]

/-- R425, R426, R428, R430, R431: each clause by the lemma for its event. -/
theorem stopsAndWatches_holds : stopsAndWatches := by
  intro s w core slot watch hw hcore x
  refine ⟨fun hs hc he => ⟨fun h => ?_, fun hb hwait hl => ?_⟩, siblingStop_of_running,
    fun h => (exec_coreStall core s).trans (if_neg (by simp [h])), coreStall_next, singleStep_undone,
    fun hd he hc => ⟨fun hf => ?_, fun hf => ?_⟩, ?_⟩
  · obtain ⟨u, run, bytes, others, stopped⟩ := siblingStop_next hw hc he ((atStop_iff x).2 h)
    have rest := x.record_rest hs
    refine ⟨u, run, bytes, others, ?_⟩
    rw [stopped]
    refine ⟨rfl, (congrArg Welt.lanes rest :), (congrArg Welt.w rest :), (congrArg Welt.m rest :),
      traps_foldl_record x hs, fun r hr m hm hk only => ?_⟩
    obtain ⟨cause, lanes, pc, status, retired, arrival⟩ := recorded_foldl x hm hk hs hr only
    exact ⟨cause, lanes, pc, status, retired, arrival⟩
  · have inside : ¬x.atStop = true := fun h => by
      rcases (atStop_iff x).1 h with b | b | b
      · simp [hb] at b
      · exact b hwait
      · exact hl b
    exact siblingStop_inside inside
  · rw [singleStep_done hd he hc, if_pos hf]
  · rw [singleStep_done hd he hc, if_neg (not_not.2 hf)]; rfl
  · intro armed
    exact ⟨eventGives_of_tangible (exec_watchArm core slot watch s) (tangible_setCoreAt ..)
        (setWatch_spec s slot (some watch) hcore),
      eventGives_of_tangible (exec_watchDisarm core slot s) (tangible_setCoreAt ..) (setWatch_spec s slot none hcore)⟩

/-- Settles O54: tokens, quotas, slices, heat and the clock, then stops, steps and watches. -/
theorem coreEvents : Obligations.CoreEvents := ⟨powerAndClock_holds, stopsAndWatches_holds⟩

end Sys2Proof.Machine

/-!
A turn of the device (R27, R78, R81): what `State.prepare` makes ready for the move that is picked, and O59.
-/

namespace Sys2Proof.Machine

open Safety Claims

/-! ### Fetching an instruction -/

/-- The word at the pc of `h` is `w`, followed by `x` where it has a second word; it fits a clause of class `c` with `n`
instructions left, decodes to `i`, and nothing holds it back: what a turn needs to run it. -/
structure Fetches (h : State) (c : Cls) (n : Nat) (w x : W32) (i : Instr) : Prop where
  word : h.fetchWord h.cw h.cw.level h.cw.pc = .ok w
  second : hasSecondWord w = true → h.fetchWord h.cw h.cw.level (h.cw.pc + 4) = .ok x
  pair : h.cw.oddPair i = false
  fits : wordFitsClass w c = true
  last : c = .control → n = 1
  decodes : decode w (if hasSecondWord w then x else 0) = .ok i
  ratio : c = .copy → ((h.coreAt h.cg.core).slices.toList.getD h.cw.slice Slice.init).pending = none
  watch : h.fetchWatched h.cw.pc = false
  wound : h.cw.atStart = true → h.cw.woundDue = false

/-- The word after the first is read where the first says that there is one. -/
theorem Fetches.operand {h : State} {c : Cls} {n : Nat} {w x : W32} {i : Instr} (f : Fetches h c n w x i) :
    (if hasSecondWord w then h.fetchWord h.cw h.cw.level (h.cw.pc + 4) else .ok 0) =
      .ok (if hasSecondWord w then x else 0) := by
  split
  · exact f.second ‹_›
  · rfl

theorem fetchInstr_run {h : State} {c : Cls} {n : Nat} {w x : W32} {i : Instr} (f : Fetches h c n w x i) :
    h.fetchInstr c n = .run i (if stitchHolds w c then h else h.splitStitch h.cur) := by
  have last : (c == .control && n != 1) = false := by
    by_cases g : c = .control
    · simp [f.last g]
    · simp [g]
  have ratio : (c == .copy
      && ((h.coreAt h.cg.core).slices.toList.getD h.cw.slice Slice.init).pending.isSome) = false := by
    by_cases g : c = .copy
    · rw [f.ratio g]; simp
    · simp [g]
  have wound : (h.cw.woundDue && h.cw.atStart) = false := by
    cases g : h.cw.atStart
    · simp
    · simp [f.wound g]
  simp only [State.fetchInstr, f.word, f.operand, f.fits, last, f.decodes, f.pair, ratio, f.watch, wound, Bool.not_true,
    Bool.or_self, Bool.false_eq_true, if_false]

/-! ### Where a welt stands -/

/-- A place that no handler has written is that of the lane. -/
theorem placeOf_of_ne_restored (s : State) (w : Welt) {l : Lane} (h : l.pos ≠ .restored) : s.placeOf w l = l.pos := by
  unfold State.placeOf
  split
  · exact absurd ‹_› h
  · rfl

theorem fetchNext_inside {s : State} {c : Cls} {n : Nat} (h : s.cw.lead.pos = .inside c n) :
    s.fetchNext = s.holdInstr.fetchInstr c n := by
  rw [State.fetchNext, placeOf_of_ne_restored _ _ (by simp [h]), h]

/-- At a header place a well-formed header is passed, and the instruction after it is fetched (R78, R79, R81). -/
theorem fetchNext_header {s : State} (hp : s.cw.lead.pos = .start ∨ s.cw.lead.pos = .cont) {y : W32}
    (hy : (s.holdCode s.cw.pc).fetchWord (s.holdCode s.cw.pc).cw (s.holdCode s.cw.pc).cw.level
      (s.holdCode s.cw.pc).cw.pc = .ok y)
    (hn : (Header.ofWord y).n ≠ 0) (hr : (Header.ofWord y).reserved = 0)
    (hs : (Header.ofWord y).start = true ↔ s.cw.lead.pos = .start) :
    s.fetchNext = ((s.holdCode s.cw.pc).setCw ((s.holdCode s.cw.pc).cw.pastHeader (Header.ofWord y))).holdInstr.fetchInstr
      (Header.ofWord y).cls (Header.ofWord y).n := by
  rw [State.fetchNext, placeOf_of_ne_restored _ _ (by rcases hp with g | g <;> simp [g])]
  rcases hp with g | g <;> rw [g] at hs ⊢ <;> simp_all

/-! ### One move made ready -/

/-- The state in which a move is made: readiness noted, the turn passed (R10, R223). -/
noncomputable def State.moved (s : State) : State :=
  { s.noteReady.noteWide with turn := Config.nextTurn s.tick, tick := s.tick + 1 }

theorem prepare_welt {s : State} {k : Nat} (h : s.noteReady.noteWide.pick = .welt k) :
    s.prepare = (s.moved.choose k).fetchNext := by
  rw [State.prepare, h]; rfl

theorem prepare_event {s : State} {k : Nat} {i : Instr} (h : s.noteReady.noteWide.pick = .event k)
    (hi : s.noteReady.noteWide.agenda[k]? = some i) :
    s.prepare = .run i { s.moved with agenda := s.noteReady.noteWide.agenda.eraseIdx k } := by
  rw [State.prepare, h]
  simp only [hi]
  rfl

theorem prepare_input {s : State} {i : Instr} {rest : List Instr} (h : s.noteReady.noteWide.pick = .input)
    (hi : s.noteReady.noteWide.inbox = i :: rest) : s.prepare = .run i { s.moved with inbox := rest } := by
  rw [State.prepare, h]
  simp only [hi]
  rfl

/-- Settles O59: a welt fetches where it stands, and an event or input runs as it is. -/
theorem stepRunsDecoded : Obligations.StepRunsDecoded := by
  unfold Obligations.StepRunsDecoded
  intro s ready moved
  refine ⟨fun k c n w x i pick => ?_, fun k i pick due => step_of_prepare _ _ _ (prepare_event pick due),
    fun i rest pick due => step_of_prepare _ _ _ (prepare_input pick due)⟩
  intro t runs
  have turn : s.prepare = t.fetchNext := prepare_welt pick
  refine ⟨fun inside word second pair fits last decodes ratio watch wound => ?_, ?_⟩
  · refine step_of_prepare _ _ _ (turn.trans ?_)
    rw [fetchNext_inside inside]
    exact fetchInstr_run ⟨word, second, pair, fits, last, decodes, ratio, watch, wound⟩
  · rintro y place f header nonzero reserved start rfl rfl word second pair fits last decodes ratio watch wound
    refine step_of_prepare _ _ _ (turn.trans ?_)
    rw [fetchNext_header place header nonzero reserved start]
    exact fetchInstr_run ⟨word, second, pair, fits, last, decodes, ratio, watch, wound⟩

end Sys2Proof.Machine

/-!
Readiness (R53-R55): in which lanes an instruction finds a register empty, and O5.
-/

namespace Sys2Proof.Machine

open Safety Claims

/-! ### Empty registers -/

theorem emptyIn_getLsbD (w : Welt) (e : Lanes) (rs : List Nat) {l : Nat} (h : l < 32) :
    (w.emptyIn e rs).getLsbD l = (e.getLsbD l && rs.any fun r => !((w.lane l).full.getLsbD r)) := by
  rw [Welt.emptyIn, BitVec.getLsbD_and, ofPred_getLsbD _ _ h]
  simp only [← lane_getElem w ⟨l, h⟩]

theorem lanes_eq_zero_iff (m : Lanes) : m = 0 ↔ ∀ l < 32, m.getLsbD l = false :=
  ⟨fun h => by simp [h], fun h => BitVec.eq_of_getLsbD_eq fun l hl => by simp [h l hl]⟩

theorem lanes_ne_zero_iff (m : Lanes) : m ≠ 0 ↔ ∃ l < 32, m.getLsbD l = true := by
  rw [ne_eq, lanes_eq_zero_iff]
  simp only [not_forall, Bool.not_eq_false, exists_prop]

/-- The register that a welt is said to await is one of those that some lane finds empty. -/
theorem firstEmpty_mem {w : Welt} {e : Lanes} {rs : List Nat} (h : w.emptyIn e rs ≠ 0) : w.firstEmpty e rs ∈ rs := by
  obtain ⟨l, hl, he⟩ := (lanes_ne_zero_iff _).1 h
  rw [emptyIn_getLsbD _ _ _ hl, Bool.and_eq_true, List.any_eq_true] at he
  obtain ⟨hel, r, hr, hf⟩ := he
  have found : (rs.find? fun r => w.emptyIn e [r] != 0).isSome :=
    List.find?_isSome.2 ⟨r, hr, bne_iff_ne.2 ((lanes_ne_zero_iff _).2 ⟨l, hl, by simp [emptyIn_getLsbD _ _ _ hl, hel, hf]⟩)⟩
  obtain ⟨q, hq⟩ := Option.isSome_iff_exists.1 found
  rw [Welt.firstEmpty, hq]
  exact List.mem_of_find?_eq_some hq

/-! ### What readiness finds of vector registers -/

theorem readiness_of_emptyIn {w : Welt} {e : Lanes} {d : Deps} (hw : d.wHard = []) (h : w.emptyIn e d.vHard ≠ 0) :
    w.readiness e d = .emptyRead (w.emptyIn e d.vHard) := by
  have hard : (w.emptyIn e d.vHard ||| if d.wHard.all w.fullW then 0 else e) = w.emptyIn e d.vHard := by simp [hw]
  rw [Welt.readiness, hard, if_pos h]

theorem readiness_of_full_hard {w : Welt} {e : Lanes} {d : Deps} (hw : d.wHard = []) (hard : w.emptyIn e d.vHard = 0)
    (soft : w.emptyIn e (d.vSoft ++ d.vDst) ≠ 0) : w.readiness e d = .await (w.firstEmpty e (d.vSoft ++ d.vDst)) := by
  have none : (w.emptyIn e d.vHard ||| if d.wHard.all w.fullW then 0 else e) = 0 := by simp [hw, hard]
  rw [Welt.readiness, none, if_neg (by simp), if_pos soft]

/-- A welt to which no halt has come waits where it is (R54, R425). -/
theorem stall_of_running {s : State} (h : s.cw.halt = .none) (r : Wait) :
    s.stall r = s.setCw { s.cw with wait := r, readyAt := none } := by
  rw [State.stall, Welt.stop_of_running]
  exact h

/-- Which registers of two one-register sources and a destination trap, and which are awaited (R83). -/
theorem deps2_b32 (d a b : VReg) (ta tb : Bool) :
    (deps2 .b32 d a b ta tb).wHard = [] ∧
    (deps2 .b32 d a b ta tb).vHard = (if tb then [b.toNat] else []) ++ (if ta then [a.toNat] else []) ∧
    (deps2 .b32 d a b ta tb).vSoft = (if tb then [] else [b.toNat]) ++ (if ta then [] else [a.toNat]) ∧
    (deps2 .b32 d a b ta tb).vDst = [d.toNat] := by
  cases ta <;> cases tb <;> exact ⟨rfl, rfl, rfl, rfl⟩

/-- Settles O5: the lanes with an empty register of t = 1 trap; else the first empty register is awaited. -/
theorem readinessGate : Obligations.ReadinessGate := by
  unfold Obligations.ReadinessGate
  intro s d a b ta tb p _ running hard soft empty
  obtain ⟨w0, vHard, vSoft, vDst⟩ := deps2_b32 d a b ta tb
  have lane (rs qs : List Nat) (same : ∀ r, r ∈ rs ↔ r ∈ qs) {l : Nat} (hl : l < 32) :
      (s.cw.emptyIn (s.E p) rs).getLsbD l = empty qs l := by
    rw [emptyIn_getLsbD _ _ _ hl]
    refine congrArg _ (Bool.eq_iff_iff.2 ?_)
    simp only [List.any_eq_true, same]
  have hardLane {l : Nat} (hl : l < 32) : (s.cw.emptyIn (s.E p) (deps2 .b32 d a b ta tb).vHard).getLsbD l = empty hard l :=
    lane _ _ (by simp [vHard, hard, or_comm]) hl
  have softMem : ∀ r, r ∈ (deps2 .b32 d a b ta tb).vSoft ++ (deps2 .b32 d a b ta tb).vDst ↔ r ∈ soft := by
    simp [vSoft, vDst, soft, or_left_comm, or_comm, or_assoc]
  refine ⟨fun ⟨l, hl, he⟩ => ⟨_, fun l hl => hardLane hl, ?_⟩, fun none ⟨l, hl, he⟩ => ?_⟩
  · rw [exec_add, execAdd, State.vec2, State.vecOp, State.issue,
      readiness_of_emptyIn w0 ((lanes_ne_zero_iff _).2 ⟨l, hl, (hardLane hl).trans he⟩)]
  · have some_soft := (lanes_ne_zero_iff _).2 ⟨l, hl, (lane _ _ softMem hl).trans he⟩
    refine ⟨_, (softMem _).1 (firstEmpty_mem some_soft), ?_⟩
    rw [← stall_of_running running, exec_add, execAdd, State.vec2, State.vecOp, State.issue,
      readiness_of_full_hard w0 ((lanes_eq_zero_iff _).2 fun l hl => (hardLane hl).trans (none l hl)) some_soft]

end Sys2Proof.Machine

/-!
Retiring without moving lanes, and holding the lanes that arrive at a collective (R30, R137); O10.
-/

namespace Sys2Proof.Machine

open Safety Claims

/-! ### Retiring a welt whose lanes the instruction has placed itself -/

theorem lane_retireWith (s : State) (w : Welt) (h : issuing s) (i : Nat) : (s.retireWith w).cw.lane i = w.lane i := by
  rw [cw_retireWith _ _ h]
  exact lane_congr (by simp) i

/-- The registers of a welt and its instances of collectives after it has retired. -/
theorem registers_retireWith (s : State) (w : Welt) (h : issuing s) :
    (s.retireWith w).cw.w = w.w ∧ (s.retireWith w).cw.wfull = w.wfull ∧ (s.retireWith w).cw.wbad = w.wbad ∧
      (s.retireWith w).cw.m = w.m ∧ (s.retireWith w).cw.fpctl = w.fpctl ∧ (s.retireWith w).cw.colls = w.colls := by
  rw [cw_retireWith _ _ h]
  exact ⟨by simp, by simp, by simp, by simp, by simp, (congrArg Welt.colls ((w.issued ..).settleHalt_rest _) :)⟩

/-- The issuing welt after it has retired, apart from its instances of collectives, is `Inside` where the effect has
changed only the registers besides them. -/
theorem inside_retireWith_colls {s : State} {w : Welt} (h : issuing s)
    (ho : s.cw.Only { w with colls := s.cw.colls }) : Inside s.cw { (s.retireWith w).cw with colls := s.cw.colls } := by
  let norm (x : Welt) : Welt := { x with
    lanes := s.cw.lanes, w := s.cw.w, wfull := s.cw.wfull, wbad := s.cw.wbad, m := s.cw.m, fpctl := s.cw.fpctl
    traps := s.cw.traps, halt := s.cw.halt, readyAt := s.cw.readyAt, wait := s.cw.wait, spent := s.cw.spent
    wantSince := s.cw.wantSince, wantPrice := s.cw.wantPrice, order := s.cw.order, yielded := s.cw.yielded
    atStart := s.cw.atStart, started := s.cw.started, replay := s.cw.replay, stepDone := s.cw.stepDone
    stepPc := s.cw.stepPc, stepDepth := s.cw.stepDepth, stepLanes := s.cw.stepLanes, colls := s.cw.colls }
  have only : ({ w with lanes := s.cw.lanes, w := s.cw.w, wfull := s.cw.wfull, wbad := s.cw.wbad, m := s.cw.m
                        fpctl := s.cw.fpctl, colls := s.cw.colls } : Welt) = s.cw := ho
  have halt : w.halt = s.cw.halt := (congrArg Welt.halt only :)
  have replay : w.replay = s.cw.replay := (congrArg Welt.replay only :)
  have traps : w.traps = s.cw.traps := (congrArg Welt.traps only :)
  have running (h0 : s.cw.halt = .none) : (w.issued s.cw.A s.cw.pc s.cw.lead.depth).halt = .none := by
    simp [Welt.issued, halt, h0, Halt.retired]
  rw [cw_retireWith _ _ h]
  refine ⟨?_, fun h0 h1 => ?_, fun h0 => ?_⟩
  · have marks : norm ((w.issued s.cw.A s.cw.pc s.cw.lead.depth).settleHalt s.cw.A) =
        norm (w.issued s.cw.A s.cw.pc s.cw.lead.depth) :=
      (congrArg norm ((w.issued s.cw.A s.cw.pc s.cw.lead.depth).settleHalt_rest s.cw.A) :)
    have effect : norm (w.issued s.cw.A s.cw.pc s.cw.lead.depth) = norm w := rfl
    exact marks.trans (effect.trans (congrArg norm only :))
  · rw [Welt.settleHalt_of_running _ _ (running h0)]
    simp [Welt.issued, Welt.endReplay, replay, h1, traps]
  · rw [Welt.settleHalt_of_running _ _ (running h0)]
    exact running h0

/-! ### Lanes that may issue -/

theorem live_getLsbD (w : Welt) {l : Nat} (h : l < 32) :
    w.live.getLsbD l = (!(w.lane l).x && !(w.lane l).h && w.serial.all fun z => l == z.running) := by
  rw [Welt.live, ofPred_getLsbD _ _ h, ← lane_getElem w ⟨l, h⟩]
  cases w.serial <;> rfl

theorem exited_getLsbD (w : Welt) {l : Nat} (h : l < 32) : w.exited.getLsbD l = (w.lane l).x := by
  rw [Welt.exited, ofPred_getLsbD _ _ h, ← lane_getElem w ⟨l, h⟩]

/-- While a lane is live, no collective has missed its members (R31). -/
theorem mismatched_of_live {w : Welt} {l : Nat} (hl : w.live.getLsbD l = true) : w.mismatched = none :=
  if_pos fun z => by simp [z] at hl

/-! ### Arriving at a collective -/

/-- The welt whose lanes `e` have been held at a collective `c`, while the other lanes `a` have passed `len` words. -/
def Welt.arrive (w : Welt) (e a : Lanes) (len : Nat) (c : Coll) : Welt :=
  ({ w with colls := c :: w.otherColls }.hold e true).advance (a &&& ~~~e) len

theorem lane_hold (w : Welt) (e : Lanes) (b : Bool) {l : Nat} (h : l < 32) :
    (w.hold e b).lane l = if e.getLsbD l then { w.lane l with h := b } else w.lane l := by
  rw [Welt.hold, lane_mapLanes _ _ _ _ h]

theorem lane_advance (w : Welt) (a : Lanes) (len : Nat) {l : Nat} (h : l < 32) :
    (w.advance a len).lane l = if a.getLsbD l then
      { w.lane l with pc := (w.lane l).pc + BitVec.ofNat 48 (4 * len), pos := (w.lane l).pos.next } else w.lane l := by
  rw [Welt.advance, lane_mapLanes _ _ _ _ h]

theorem lane_arrive (w : Welt) (e a : Lanes) (len : Nat) (c : Coll) {l : Nat} (h : l < 32) :
    (w.arrive e a len c).lane l =
      if e.getLsbD l then { w.lane l with h := true }
      else if a.getLsbD l then
        { w.lane l with pc := (w.lane l).pc + BitVec.ofNat 48 (4 * len), pos := (w.lane l).pos.next }
      else w.lane l := by
  rw [Welt.arrive, lane_advance _ _ _ h, lane_hold _ _ _ h,
    lane_congr (u := { w with colls := c :: w.otherColls }) (w := w) rfl l, BitVec.getLsbD_and, BitVec.getLsbD_not]
  cases a.getLsbD l <;> cases e.getLsbD l <;> simp [h]

/-- The lanes of `e` arrive while members are still missing, none of which has exited, and some other lane is live: they
are held (R30, R137). -/
theorem collective_holds {s : State} {p : BitVec 2} {mem : MReg} (len : Nat)
    (fin : Lanes → Welt → Except Cause Welt) (he : s.E p ≠ 0) (hz : s.cw.serial = none)
    (hx : ∀ l < 32, (members s (s.E p) mem).getLsbD l → (s.cw.lane l).x = false)
    (hm : ∃ l < 32, (members s (s.E p) mem).getLsbD l ∧ (arrived s (s.E p)).getLsbD l = false)
    (hl : ∃ l < 32, (s.E p).getLsbD l = false ∧ (s.cw.lane l).x = false ∧ (s.cw.lane l).h = false) :
    s.collective (s.E p) (maskRead s.legacy s.cw mem.toNat) len fin = s.retireWith (s.cw.arrive (s.E p) s.cw.A len
      ⟨s.cw.lead.depth, s.cw.pc, members s (s.E p) mem, arrived s (s.E p), .none⟩) := by
  have present : members s (s.E p) mem &&& s.cw.exited = 0 := (BitVec.eq_of_getLsbD_eq fun l hl => by
    rw [BitVec.getLsbD_and, exited_getLsbD _ hl]
    cases g : (members s (s.E p) mem).getLsbD l
    · simp
    · simp [hx l hl g])
  have missing : members s (s.E p) mem &&& ~~~arrived s (s.E p) ≠ 0 := fun z => by
    obtain ⟨l, hl, hp, ha⟩ := hm
    have := congrArg (·.getLsbD l) z
    rw [BitVec.getLsbD_and, BitVec.getLsbD_not, hp, ha] at this
    simp [hl] at this
  obtain ⟨l, hl, hne, hlx, hlh⟩ := hl
  have live : (s.cw.arrive (s.E p) s.cw.A len
      ⟨s.cw.lead.depth, s.cw.pc, members s (s.E p) mem, arrived s (s.E p), .none⟩).live.getLsbD l = true := by
    have serial (c : Coll) : (s.cw.arrive (s.E p) s.cw.A len c).serial = none := by
      simp [Welt.arrive, Welt.hold, hz]
    rw [live_getLsbD _ hl, serial, lane_arrive _ _ _ _ _ hl]
    rw [if_neg (by simp [hne])]
    split <;> simp [hlx, hlh]
  have none := mismatched_of_live live
  have held : s.collective (s.E p) (maskRead s.legacy s.cw mem.toNat) len fin = s.retireHeld (s.cw.arrive (s.E p) s.cw.A len
      ⟨s.cw.lead.depth, s.cw.pc, members s (s.E p) mem, arrived s (s.E p), .none⟩) :=
    (if_neg he).trans ((if_neg (not_not.2 present)).trans (if_neg missing))
  rw [held, State.retireHeld, none]

/-- The state after an arrival that is not the last: the collective stands, its lanes are held, the other lanes of A have
passed, and nothing else has changed. -/
structure Held (s u : State) (e P arr : Lanes) : Prop where
  outside : Outside s u
  inside : Inside s.cw { u.cw with colls := s.cw.colls }
  registers : u.cw.w = s.cw.w ∧ u.cw.wfull = s.cw.wfull ∧ u.cw.wbad = s.cw.wbad ∧ u.cw.m = s.cw.m ∧
    u.cw.fpctl = s.cw.fpctl
  colls : u.cw.colls = ⟨s.cw.lead.depth, s.cw.pc, P, arr, .none⟩ :: s.cw.otherColls
  lanes : ∀ l < 32, (u.cw.lane l).v = (s.cw.lane l).v ∧ (u.cw.lane l).full = (s.cw.lane l).full ∧
    (u.cw.lane l).bad = (s.cw.lane l).bad ∧ (u.cw.lane l).h = (e.getLsbD l || (s.cw.lane l).h) ∧
    (u.cw.lane l).pc = if s.cw.A.getLsbD l && !(e.getLsbD l) then (s.cw.lane l).pc + 8 else (s.cw.lane l).pc

theorem held_retireWith_arrive {s : State} (h : issuing s) (e P arr : Lanes) :
    Held s (s.retireWith (s.cw.arrive e s.cw.A 2 ⟨s.cw.lead.depth, s.cw.pc, P, arr, .none⟩)) e P arr := by
  obtain ⟨w, wfull, wbad, m, fpctl, colls⟩ :=
    registers_retireWith s (s.cw.arrive e s.cw.A 2 ⟨s.cw.lead.depth, s.cw.pc, P, arr, .none⟩) h
  have only (c : Coll) : s.cw.Only { s.cw.arrive e s.cw.A 2 c with colls := s.cw.colls } := by
    simp only [Welt.Only, Welt.arrive, Welt.advance, Welt.hold, Welt.mapLanes]
  refine ⟨outside_retireWith .., inside_retireWith_colls h (only _), ⟨w.trans ?_, wfull.trans ?_, wbad.trans ?_,
    m.trans ?_, fpctl.trans ?_⟩, colls.trans ?_, fun l hl => ?_⟩
  case refine_7 =>
    rw [lane_retireWith _ _ h, lane_arrive _ _ _ _ _ hl]
    cases s.cw.A.getLsbD l <;> cases e.getLsbD l <;> simp
  all_goals simp [Welt.arrive, Welt.hold]

/-- A ready collective whose arrival is not the last. -/
theorem exec_held {s : State} {i : Instr} {dep : Deps} {p : BitVec 2} {mem : MReg}
    {fin : Lanes → Welt → Except Cause Welt} (h : issuing s) (hi : s.issues (s.E p) dep 0 = true)
    (held : s.collective (s.E p) (maskRead s.legacy s.cw mem.toNat) 2 fin = s.retireWith (s.cw.arrive (s.E p) s.cw.A 2
      ⟨s.cw.lead.depth, s.cw.pc, members s (s.E p) mem, arrived s (s.E p), .none⟩))
    (run : exec i s = s.issue (s.E p) dep 0
      (.next (s.collective (s.E p) (maskRead s.legacy s.cw mem.toNat) 2 fin))) :
    ∃ u, exec i s = .next u ∧ Held s u (s.E p) (members s (s.E p) mem) (arrived s (s.E p)) := by
  rw [issue_go _ _ _ _ _ hi, held] at run
  exact ⟨_, run, held_retireWith_arrive h ..⟩

/-- Settles O10: each of these forms is a collective behind its issue, and the arrival holds its lanes. -/
theorem collectiveHolds : Obligations.CollectiveHolds := by
  unfold Obligations.CollectiveHolds
  intro s d a b md mem ta tb z im p ty imm dep h he hz hi P hx hm hl q hq hd
  subst hd
  have run : ∃ fin, exec q.1 s = s.issue (s.E p) q.2 0
      (.next (s.collective (s.E p) (maskRead s.legacy s.cw mem.toNat) 2 fin)) := by
    simp only [List.mem_cons, List.not_mem_nil, or_false] at hq
    rcases hq with rfl | rfl | rfl | rfl | rfl
    · exact ⟨_, (exec_pollMask ..).trans rfl⟩
    · exact ⟨_, (exec_pollLead ..).trans rfl⟩
    · exact ⟨_, (exec_foldAdd ..).trans rfl⟩
    · exact ⟨_, (exec_scanInc ..).trans rfl⟩
    · exact ⟨_, (exec_passFrom ..).trans rfl⟩
  obtain ⟨fin, run⟩ := run
  obtain ⟨u, next, outside, inside, ⟨w, wfull, wbad, m, fpctl⟩, colls, lanes⟩ :=
    exec_held h hi (collective_holds 2 fin he hz hx hm hl) run
  exact ⟨u, next, outside, inside, w, wfull, wbad, m, fpctl, colls, lanes⟩

end Sys2Proof.Machine

/-!
Identity and random numbers (R53, R143, R146): IDENT, RNG and RNG_LAND, and O48.
-/

namespace Sys2Proof.Machine

open Safety Claims

/-! ### IDENT (R143) -/

/-- The lanes that issue are live. -/
theorem live_of_A (w : Welt) {l : Nat} (h : w.A.getLsbD l = true) : w.live.getLsbD l = true := by
  unfold Welt.A at h
  split at h
  · simp at h
  · exact (Bool.and_eq_true_iff.1 (BitVec.getLsbD_and ▸ h)).1

/-- A lane that executes has not exited. -/
theorem x_of_E (s : State) (p : BitVec 2) {l : Nat} (hl : l < 32) (h : (s.E p).getLsbD l = true) :
    (s.cw.lane l).x = false := by
  have live := live_of_A s.cw (Bool.and_eq_true_iff.1 (BitVec.getLsbD_and ▸ h)).1
  rw [live_getLsbD _ hl] at live
  simp only [Bool.and_eq_true, Bool.not_eq_true'] at live
  exact live.1.1

/-- The key of a lane that has not exited, as IDENT gives it: the hold bit reads as 0 (R25, R143). -/
theorem kv_unheld {l : Lane} (h : l.x = false) :
    ({ l with h := false } : Lane).kv = BitVec.ofNat 64 (l.depth.toNat * 2 ^ 56 + l.pc.toNat) := by
  simp [Lane.kv, h]

theorem identGivesPlace_holds : identGivesPlace := by
  intro s d sl p h wf ty hi
  rcases Decidable.em (sl = 16) with rfl | narrow
  · have even : d.toNat % 2 = 0 := by simpa [Instr.wellFormed] using wf
    obtain ⟨u, run, confined, value⟩ := vecW_next s p _ 0 1 .b64 d
      (fun _ l => ({ l with h := false } : Lane).kv) h hi fun _ => even
    refine ⟨u, (exec_ident ..).trans run, confined, fun l hl he => ⟨by simp, fun _ => ?_, fun n hn g => ?_⟩⟩
    · exact (value l hl he).trans (kv_unheld (x_of_E s p hl he))
    · simp at g; omega
  · have b32 : ty = .b32 := if_neg narrow
    rw [b32] at hi ⊢
    obtain ⟨u, run, confined, value⟩ := vecW_next s p _ 0 1 .b32 d (fun i _ =>
      (if sl = 0 then BitVec.ofNat 32 i
        else BitVec.ofNat 32 (s.cl.unitIndex s.cg.logical s.cw.index i (sl.toNat - 1))).setWidth 64) h hi (by simp [Ty.is64])
    refine ⟨u, ?_, confined, fun l hl he => ⟨fun z => ?_, fun g => absurd g narrow, fun n hn g => ?_⟩⟩
    · rw [exec_ident, execIdent, if_neg narrow]
      simp only [wr_eq_wrTy]
      exact run
    · rw [value l hl he, if_pos z]
      apply BitVec.eq_of_toNat_eq
      simp [Ty.is64]
      omega
    · have nonzero : sl ≠ 0 := by rintro rfl; simp at g
      rw [value l hl he, if_neg nonzero, g]
      simp [Ty.is64]

/-! ### RNG (R53, R146) -/

/-- A register number that a lane does not have is never made empty. -/
theorem full_empty (l : Lane) (r : Nat) {q : Nat} (h : q < 128) :
    (l.empty r).full.getLsbD q = (l.full.getLsbD q && decide (q ≠ r)) := by
  simp only [Lane.empty, BitVec.getLsbD_and, BitVec.getLsbD_not, BitVec.getLsbD_twoPow, h, decide_true, Bool.true_and]
  by_cases g : r = q
  · subst g; simp [h]
  · simp [g, Ne.symm g]

/-- The four destinations of RNG made empty in a lane. -/
def Lane.empty4 (l : Lane) (d : Nat) : Lane := (((l.empty d).empty (d + 1)).empty (d + 2)).empty (d + 3)

theorem full_empty4 (l : Lane) (d : Nat) {q : Nat} (h : q < 128) :
    (l.empty4 d).full.getLsbD q = (l.full.getLsbD q && !decide (d ≤ q ∧ q < d + 4)) := by
  have range : decide (d ≤ q ∧ q < d + 4) = decide (q = d ∨ q = d + 1 ∨ q = d + 2 ∨ q = d + 3) :=
    decide_eq_decide.2 (by omega)
  simp only [Lane.empty4, full_empty _ _ h, range]
  cases l.full.getLsbD q <;> simp [Bool.and_assoc]

/-- The counters that a lane gives to RNG. -/
def rngElem (w : Welt) (d a : VReg) (i : Nat) : Nat × Nat × W32 × W32 × W32 × W32 :=
  (i, d.toNat, (w.lane i).rd a.toNat, (w.lane i).rd (a.toNat + 1), (w.lane i).rd (a.toNat + 2), (w.lane i).rd (a.toNat + 3))

theorem mem_nats {m : Lanes} {i : Nat} : i ∈ Lanes.nats m ↔ i < 32 ∧ m.getLsbD i = true := by
  simp [Lanes.nats]

theorem lane_launchFlight (w : Welt) (k : FlightKind) (l : Nat) : (w.launchFlight k).lane l = w.lane l := rfl

/-- The welt once the lanes of `e` have sent their counters: their destinations are empty (R53). -/
def Welt.sendRng (w : Welt) (e : Lanes) (d a : VReg) : Welt :=
  (w.mapLanes e fun _ l => l.empty4 d.toNat).launchFlight (.rng ((Lanes.nats e).map (rngElem w d a)))

theorem lane_sendRng (w : Welt) (e : Lanes) (d a : VReg) {l : Nat} (hl : l < 32) :
    (w.sendRng e d a).lane l = if e.getLsbD l then (w.lane l).empty4 d.toNat else w.lane l := by
  rw [Welt.sendRng, lane_launchFlight, lane_mapLanes _ _ _ _ hl]

/-- RNG as it issues in some lane: its landing is due. -/
theorem exec_rng_issue {s : State} {d a : VReg} {ta : Bool} {p : BitVec 2} (he : s.E p ≠ 0)
    (hi : s.issues (s.E p) ((({} : Deps).src ta [a.toNat, a.toNat + 1, a.toNat + 2, a.toNat + 3]).dst
      [d.toNat, d.toNat + 1, d.toNat + 2, d.toNat + 3]) 1 = true) :
    exec (.rng d a ta p) s =
      .next ((s.retire (s.cw.sendRng (s.E p) d a) 1).post (.rngLand s.cur s.cw.nextFlight)) := by
  rw [exec_rng, execRng, issue_go _ _ _ _ _ hi]
  exact if_neg he

/-- A welt keeps the flights that its instruction has left it as it retires. -/
theorem flights_retire (s : State) (w : Welt) (len : Nat) (h : issuing s) : (s.retire w len).cw.flights = w.flights := by
  rw [State.retire, cw_retireWith _ _ h]
  refine (congrArg Welt.flights (Welt.settleHalt_rest ..) :).trans ?_
  simp

/-- The state after RNG has issued. -/
theorem rng_next {s : State} {d a : VReg} {ta : Bool} {p : BitVec 2} (h : issuing s) (he : s.E p ≠ 0)
    (hi : s.issues (s.E p) ((({} : Deps).src ta [a.toNat, a.toNat + 1, a.toNat + 2, a.toNat + 3]).dst
      [d.toNat, d.toNat + 1, d.toNat + 2, d.toNat + 3]) 1 = true) :
    ∃ u, exec (.rng d a ta p) s = .next u ∧ u.agenda = s.agenda
          ++ (if s.cw.stepping then [.singleStepComplete s.cur] else []) ++ [.rngLand s.cur s.cw.nextFlight] ∧
      u.cw.flights = s.cw.flights ++ [⟨s.cw.nextFlight, s.cw.order, .rng ((Lanes.nats (s.E p)).map (rngElem s.cw d a))⟩] ∧
      u.cw.w = s.cw.w ∧ u.cw.m = s.cw.m ∧ u.cw.fpctl = s.cw.fpctl ∧ (∀ l, u.getByte l = s.getByte l) ∧
      ∀ l < 32, (u.cw.lane l).v = (s.cw.lane l).v ∧ ∀ r < 128, (u.cw.lane l).full.getLsbD r =
        ((s.cw.lane l).full.getLsbD r && !((s.E p).getLsbD l && decide (d.toNat ≤ r ∧ r < d.toNat + 4))) := by
  have out : Outside s (s.retire (s.cw.sendRng (s.E p) d a) 1) := outside_retireWith ..
  obtain ⟨regs, -, -, m, fpctl, -⟩ := registers_retireWith s ((s.cw.sendRng (s.E p) d a).advance s.cw.A 1) h
  refine ⟨_, exec_rng_issue he hi, congrArg (· ++ _) out.agenda, (flights_retire s _ 1 h).trans ?_, regs.trans ?_,
    m.trans ?_, fpctl.trans ?_, out.bytes, fun l hl => ?_⟩
  case refine_5 =>
    rw [cw_post, lane_retire s _ 1 h l hl, lane_sendRng _ _ _ _ hl]
    cases s.cw.A.getLsbD l <;> cases (s.E p).getLsbD l <;> refine ⟨rfl, fun r hr => ?_⟩ <;> simp [full_empty4 _ _ hr]
  all_goals simp [Welt.sendRng, Welt.launchFlight]

theorem mem_rngElems (w : Welt) (e : Lanes) (d a : VReg) {l : Nat} (hl : l < 32) :
    rngElem w d a l ∈ (Lanes.nats e).map (rngElem w d a) ↔ e.getLsbD l = true := by
  rw [List.mem_map]
  refine ⟨fun ⟨i, hi, g⟩ => ?_, fun h => ⟨l, mem_nats.2 ⟨hl, h⟩, rfl⟩⟩
  obtain rfl : i = l := congrArg Prod.fst g
  exact (mem_nats.1 hi).2

/-! ### RNG_LAND (R145, R146) -/

/-- The words of a Philox result in the four destinations of a lane. -/
def Lane.wr4 (l : Lane) (d : Nat) (y : W32 × W32 × W32 × W32) : Lane :=
  (((l.wr d y.1).wr (d + 1) y.2.1).wr (d + 2) y.2.2.1).wr (d + 3) y.2.2.2

theorem rd_wr4 (l : Lane) {d : Nat} (y : W32 × W32 × W32 × W32) (h : d + 3 < 128) {j : Nat} (hj : j < 4) :
    (l.wr4 d y).rd (d + j) = philoxWord y j ∧ (l.wr4 d y).full.getLsbD (d + j) = true := by
  have hq : d + j < 128 := by omega
  simp only [Lane.wr4, rd_wr _ _ _ _ hq, full_wr _ _ _ _ hq]
  match j with
  | 0 | 1 | 2 | 3 => simp [philoxWord]
  | _ + 4 => omega

theorem wr4_other (l : Lane) {d : Nat} (y : W32 × W32 × W32 × W32) {r : Nat} (hr : r < 128) (h : r < d ∨ d + 3 < r) :
    (l.wr4 d y).rd r = l.rd r ∧ (l.wr4 d y).full.getLsbD r = l.full.getLsbD r := by
  have h0 : d ≠ r := by omega
  have h1 : d + 1 ≠ r := by omega
  have h2 : d + 2 ≠ r := by omega
  have h3 : d + 3 ≠ r := by omega
  simp [Lane.wr4, rd_wr _ _ _ _ hr, full_wr _ _ _ _ hr, h0, h1, h2, h3]

/-- The welt in one lane of which the words have landed. -/
def Welt.landRng (w : Welt) (lane d : Nat) (y : W32 × W32 × W32 × W32) (n : Nat) : Welt :=
  { w.mapLanes (BitVec.twoPow 32 lane) fun _ l => l.wr4 d y with flights := w.flights.filter fun f => f.num != n }

theorem lane_landRng (w : Welt) {lane : Nat} (d : Nat) (y : W32 × W32 × W32 × W32) (n : Nat) {l : Nat}
    (hl : l < 32) : (w.landRng lane d y n).lane l = if l = lane then (w.lane l).wr4 d y else w.lane l := by
  have flights : (w.landRng lane d y n).lane l = (w.mapLanes (BitVec.twoPow 32 lane) fun _ l => l.wr4 d y).lane l := by
    simp only [Welt.lane, Welt.landRng]
  rw [flights, lane_mapLanes _ _ _ _ hl, BitVec.getLsbD_twoPow]
  by_cases g : lane = l
  · simp [g, hl]
  · simp [g, Ne.symm g]

theorem exec_rngLand_lane {s : State} {w n o lane d : Nat} {c0 c1 c2 c3 : W32}
    (hf : (s.weltAt w).flights.find? (fun f => f.num == n) = some ⟨n, o, .rng [(lane, d, c0, c1, c2, c3)]⟩) :
    exec (.rngLand w n) s = .next (s.setWeltAt w ((s.weltAt w).landRng lane d
      (philox c0 c1 c2 c3 ((s.launchOf (s.wgAt (s.weltAt w).wg)).seed.getLastD 0)) n)) := by
  rw [exec_rngLand, execRngLand]
  simp only [hf]
  rfl

theorem rngDrawsPhilox_holds : rngDrawsPhilox := by
  refine ⟨fun s d a ta p h he hi => ?_, fun s w n o lane d c0 c1 c2 c3 hw hlane hd hf => ?_⟩
  · obtain ⟨u, run, agenda, flights, rest⟩ := rng_next h he hi
    refine ⟨u, _, run, agenda, flights, fun l hl => (mem_rngElems s.cw _ d a hl).symm, fun e he => ?_, rest⟩
    obtain ⟨i, hi, rfl⟩ := List.mem_map.1 he
    exact mem_nats.1 hi
  · intro y
    have landed : (s.setWeltAt w ((s.weltAt w).landRng lane d y n)).weltAt w = (s.weltAt w).landRng lane d y n :=
      (weltAt_setWeltAt ..).trans (if_pos ⟨rfl, hw⟩)
    refine ⟨_, exec_rngLand_lane hf, ?_, getByte_setWeltAt s w _, fun i hi => ?_, fun j hj => ?_, fun l hl r hr g => ?_⟩
    · rw [landed]; rfl
    · exact (weltAt_setWeltAt ..).trans (if_neg fun e => hi e.1.symm)
    · rw [landed, lane_landRng _ _ _ _ hlane, if_pos rfl]
      exact rd_wr4 _ y hd hj
    · rw [landed, lane_landRng _ _ _ _ hl]
      split
      · exact wr4_other _ y hr (g ‹_›)
      · exact ⟨rfl, rfl⟩

/-- Settles O48: IDENT by its three kinds of selector, RNG as it issues and as it lands. -/
theorem identityAndRandomNumbers : Obligations.IdentityAndRandomNumbers :=
  ⟨identGivesPlace_holds, rngDrawsPhilox_holds⟩

end Sys2Proof.Machine

/-!
Loads in flight (R53, R267, R269, R273, R274, R277): what entries of the TLBs leave alone, the accesses of a per-lane
instruction, registers made empty, and O18.
-/

namespace Sys2Proof.Machine

open Safety Claims

/-! ### Entries of the TLBs (R405) -/

/-- A state apart from what the TLBs have learnt of translations. -/
def State.untranslated (s : State) : State := { s with tlb := [], tlb2 := [], uses := [] }

theorem untranslated_noteUse (s : State) (u : PageUse) : (s.noteUse u).untranslated = s.untranslated := by
  unfold State.noteUse
  split <;> rfl

theorem untranslated_fillTlb (s : State) (core ctx : Nat) (va : W64) :
    (s.fillTlb core ctx va).untranslated = s.untranslated := by
  unfold State.fillTlb
  split
  · rfl
  · split
    · rfl
    · dsimp only
      split
      · rfl
      · exact untranslated_noteUse ..

/-- Translations entered change nothing but what the TLBs have learnt. -/
theorem fillTlbs_eq (s : State) (as : List Access) : ∃ tlb tlb2 uses,
    s.fillTlbs as = { s with tlb := tlb, tlb2 := tlb2, uses := uses } := by
  have e : (s.fillTlbs as).untranslated = s.untranslated :=
    foldl_keeps State.untranslated (fun t a => by split <;> first | exact untranslated_fillTlb .. | rfl) as s
  refine ⟨(s.fillTlbs as).tlb, (s.fillTlbs as).tlb2, (s.fillTlbs as).uses, ?_⟩
  exact (congrArg (fun x : State => ({ x with
    tlb := (s.fillTlbs as).tlb, tlb2 := (s.fillTlbs as).tlb2, uses := (s.fillTlbs as).uses } : State)) e :)

/-! ### The accesses of a per-lane instruction -/

/-- The access that element `j` of lane `l` makes. -/
def State.accessAt (s : State) (stash : Bool) (A : Nat → Nat → W64) (xl : W64 → Except XFault (List Loc)) (l j : Nat) :
    Access := ⟨l, j, A l j, watchVA s stash (A l j), xl (A l j)⟩

theorem mem_accessesOf {e : Lanes} {n : Nat} {A : Nat → Nat → W64} {xl : W64 → Except XFault (List Loc)} {a : Access} :
    a ∈ accessesOf e n A xl ↔ ∃ l < 32, e.getLsbD l ∧ ∃ j < n, ⟨l, j, A l j, some (A l j), xl (A l j)⟩ = a := by
  simp only [accessesOf, List.mem_flatMap, mem_nats, List.mem_map, List.mem_range, and_assoc]

/-- The accesses from element `j0` on: of each lane of `e` one for each element. -/
theorem mem_accesses {s : State} {stash : Bool} {e : Lanes} {n j0 : Nat} {A : Nat → Nat → W64}
    {xl : W64 → Except XFault (List Loc)} {a : Access} :
    a ∈ (s.accesses stash (accessesOf e n A xl)).filter (fun a => decide (j0 ≤ a.elem)) ↔
      ∃ l < 32, e.getLsbD l ∧ ∃ j, j0 ≤ j ∧ j < n ∧ s.accessAt stash A xl l j = a := by
  rw [List.mem_filter]
  cases stash
  · simp only [State.accesses, Bool.false_eq_true, if_false, mem_accessesOf]
    constructor
    · rintro ⟨⟨l, hl, he, j, hj, rfl⟩, hj0⟩
      exact ⟨l, hl, he, j, of_decide_eq_true hj0, hj, rfl⟩
    · rintro ⟨l, hl, he, j, hj0, hj, rfl⟩
      exact ⟨⟨l, hl, he, j, hj, rfl⟩, decide_eq_true hj0⟩
  · simp only [State.accesses, if_true, State.stashAccesses, List.mem_map, mem_accessesOf]
    constructor
    · rintro ⟨⟨a, ⟨l, hl, he, j, hj, rfl⟩, rfl⟩, hj0⟩
      exact ⟨l, hl, he, j, of_decide_eq_true hj0, hj, rfl⟩
    · rintro ⟨l, hl, he, j, hj0, hj, rfl⟩
      exact ⟨⟨_, ⟨l, hl, he, j, hj, rfl⟩, rfl⟩, decide_eq_true hj0⟩

theorem accessLocs_mem {as : List Access} {l : Loc} : l ∈ accessLocs as ↔ ∃ a ∈ as, ∃ ls, a.locs = .ok ls ∧ l ∈ ls := by
  simp only [accessLocs, List.mem_flatMap]
  refine exists_congr fun a => and_congr_right fun _ => ?_
  cases a.locs <;> simp

/-! ### Registers made empty (R53) -/

/-- Some registers of a lane made empty. -/
def Lane.emptyAll (l : Lane) (rs : List Nat) : Lane := rs.foldl Lane.empty l

/-- Emptying registers changes the full bits alone. -/
theorem emptyAll_rest (l : Lane) (rs : List Nat) : { l.emptyAll rs with full := l.full } = l :=
  foldl_keeps (f := Lane.empty) (fun x : Lane => ({ x with full := l.full } : Lane)) (fun _ _ => rfl) rs l

theorem full_emptyAll (l : Lane) (rs : List Nat) {q : Nat} (h : q < 128) :
    (l.emptyAll rs).full.getLsbD q = (l.full.getLsbD q && decide (q ∉ rs)) := by
  induction rs generalizing l with
  | nil => simp [Lane.emptyAll]
  | cons r rs ih =>
    refine (ih (l.empty r)).trans ?_
    rw [full_empty _ _ h, Bool.and_assoc, ← Bool.decide_and]
    simp only [List.mem_cons, not_or]

/-- The destinations of some accesses made empty. -/
def Welt.emptyDsts (w : Welt) (ty : Ty) (dst : Nat → Nat) (as : List Access) : Welt :=
  as.foldl (fun w a => w.markDst a.lane (dst a.elem) ty false) w

/-- Emptying destinations changes the lanes alone. -/
theorem emptyDsts_rest (w : Welt) (ty : Ty) (dst : Nat → Nat) (as : List Access) :
    { w.emptyDsts ty dst as with lanes := w.lanes } = w :=
  foldl_keeps (f := fun (w : Welt) (a : Access) => w.markDst a.lane (dst a.elem) ty false)
    (fun x : Welt => ({ x with lanes := w.lanes } : Welt)) (fun _ _ => by simp only [Welt.markDst, Welt.mapLanes]) as w

/-- The destinations of the accesses of one lane. -/
def laneDsts (ty : Ty) (dst : Nat → Nat) (as : List Access) (l : Nat) : List Nat :=
  (as.filter fun a => a.lane == l).flatMap fun a => regsOf ty (dst a.elem)

theorem mem_laneDsts {ty : Ty} {dst : Nat → Nat} {as : List Access} {l q : Nat} :
    q ∈ laneDsts ty dst as l ↔ ∃ a ∈ as, a.lane = l ∧ q ∈ regsOf ty (dst a.elem) := by
  simp only [laneDsts, List.mem_flatMap, List.mem_filter, beq_iff_eq, and_assoc]

theorem lane_emptyDsts (w : Welt) (ty : Ty) (dst : Nat → Nat) (as : List Access) {l : Nat} (h : l < 32) :
    (w.emptyDsts ty dst as).lane l = (w.lane l).emptyAll (laneDsts ty dst as l) := by
  induction as generalizing w with
  | nil => rfl
  | cons a as ih =>
    have step : w.emptyDsts ty dst (a :: as) = (w.markDst a.lane (dst a.elem) ty false).emptyDsts ty dst as :=
      List.foldl_cons ..
    have marked : (w.markDst a.lane (dst a.elem) ty false).lane l =
        if a.lane = l then (w.lane l).emptyAll (regsOf ty (dst a.elem)) else w.lane l := by
      rw [Welt.markDst, lane_mapLanes _ _ _ _ h, BitVec.getLsbD_twoPow]
      by_cases g : a.lane = l <;> simp [g, h, Lane.emptyAll]
    rw [step, ih, marked]
    by_cases g : a.lane = l <;> simp [g, laneDsts, Lane.emptyAll]

/-! ### Retiring a welt that has sent a flight -/

/-- Of the registers of the device only those named have changed as a welt retires that has kept its own special
registers. -/
theorem reaching_retire {s : State} {w : Welt} (len : Nat) {e : Lanes} {rs ms : List Nat} (h : issuing s)
    (lanes : ∀ i < 32, { w.lane i with v := (s.cw.lane i).v, full := (s.cw.lane i).full, bad := (s.cw.lane i).bad } =
      s.cw.lane i)
    (kept : ∀ i < 32, ∀ r < 128, (e.getLsbD i → r ∉ rs) → sameReg (w.lane i) (s.cw.lane i) r)
    (uniform : w.w = s.cw.w ∧ w.wfull = s.cw.wfull ∧ w.wbad = s.cw.wbad)
    (masks : ∀ r < 16, r ∉ ms → maskRead s.legacy w r = maskRead s.legacy s.cw r) (flags : w.fpctl = s.cw.fpctl)
    (special : w.handles = s.cw.handles ∧ w.nanrec = s.cw.nanrec ∧ w.skivestat = s.cw.skivestat ∧ w.level = s.cw.level)
    (traps : w.traps = s.cw.traps ∧ w.halt = s.cw.halt ∧ w.replay = s.cw.replay) :
    Reaching s (s.retire w len) len e rs [] ms 0 := by
  have lane := lane_retire s w len h
  have key (i : Nat) (hi : i < 32) : (w.lane i).pc = (s.cw.lane i).pc ∧ (w.lane i).depth = (s.cw.lane i).depth ∧
      (w.lane i).x = (s.cw.lane i).x ∧ (w.lane i).h = (s.cw.lane i).h ∧ (w.lane i).seg = (s.cw.lane i).seg :=
    ⟨(congrArg Lane.pc (lanes i hi) :), (congrArg Lane.depth (lanes i hi) :), (congrArg Lane.x (lanes i hi) :),
      (congrArg Lane.h (lanes i hi) :), (congrArg Lane.seg (lanes i hi) :)⟩
  have out : Outside s (s.retire w len) := outside_retireWith ..
  obtain ⟨cw, cwfull, cwbad, -, cfpctl, -⟩ := registers_retireWith s (w.advance s.cw.A len) h
  have rest := (w.advance s.cw.A len |>.issued s.cw.A s.cw.pc s.cw.lead.depth).settleHalt_rest s.cw.A
  refine ⟨⟨fun i hi => ?_, fun i hi => ?_, fun i hi r hr g => ?_⟩, fun r _ _ => ⟨?_, ?_, ?_⟩, fun r hr g => ?_, ?_, ?_,
    fun h0 h1 => ?_, fun i hi => ?_⟩
  · obtain ⟨pc, -⟩ := key i hi
    rw [lane i hi, ← pc]; split <;> rfl
  · obtain ⟨-, depth, x, hold, seg⟩ := key i hi
    rw [lane i hi, ← depth, ← x, ← hold, ← seg]
    split <;> exact ⟨rfl, rfl, rfl, rfl⟩
  · rw [lane i hi]; split <;> exact kept i hi r hr g
  · rw [rdW_retire _ _ _ h, Welt.rdW, uniform.1]; rfl
  · rw [fullW_retire _ _ _ h, Welt.fullW, uniform.2.1]; rfl
  · rw [State.retire, cwbad, Welt.advance_wbad, uniform.2.2]
  · rw [maskRead_retire _ _ _ h]
    exact masks r hr g
  · rw [State.retire, cfpctl, Welt.advance_fpctl, flags]; simp
  · obtain ⟨handles, nanrec, skivestat, level⟩ := special
    rw [State.retire, cw_retireWith _ _ h, ← handles, ← nanrec, ← skivestat, ← level]
    exact ⟨(congrArg Welt.handles rest :).trans (by simp), (congrArg Welt.nanrec rest :).trans (by simp),
      (congrArg Welt.skivestat rest :).trans (by simp), (congrArg Welt.level rest :).trans (by simp)⟩
  · obtain ⟨traps, halt, replay⟩ := traps
    have running : ((w.advance s.cw.A len).issued s.cw.A s.cw.pc s.cw.lead.depth).halt = .none := by
      simp [Welt.issued, halt, h0, Halt.retired]
    rw [State.retire, cw_retireWith _ _ h, Welt.settleHalt_of_running _ _ running]
    simp [Welt.issued, Welt.endReplay, replay, h1, traps]
  · rw [out.welts i hi]
    exact ⟨rfl, rfl, rfl, rfl, rfl, rfl, rfl, rfl, rfl, rfl, rfl, rfl⟩

/-! ### The order of accesses (R246, R392) -/

theorem welt_inFlight_iff (w : Welt) (ls : List Loc) : w.inFlight ls = true ↔ ∃ m ∈ ls, w.inFlight [m] = true := by
  simp only [Welt.inFlight, List.any_eq_true, List.mem_singleton, exists_eq_left]
  constructor
  · rintro ⟨f, hf, l, hl, m, hm, same⟩
    exact ⟨m, hm, f, hf, l, hl, same⟩
  · rintro ⟨m, hm, f, hf, l, hl, same⟩
    exact ⟨f, hf, l, hl, m, hm, same⟩

theorem inFlight_iff (s : State) (ls : List Loc) : s.inFlight ls = true ↔ ∃ m ∈ ls, s.inFlight [m] = true := by
  simp only [State.inFlight, Bool.or_eq_true, Bool.and_eq_true, List.any_eq_true, welt_inFlight_iff _ ls]
  constructor
  · rintro (⟨m, hm, f⟩ | ⟨det, k, hk, m, hm, f⟩)
    · exact ⟨m, hm, .inl f⟩
    · exact ⟨m, hm, .inr ⟨det, k, hk, f⟩⟩
  · rintro ⟨m, hm, f | ⟨det, k, hk, f⟩⟩
    · exact .inl ⟨m, hm, f⟩
    · exact .inr ⟨det, k, hk, m, hm, f⟩

theorem ratioHolds_iff (s : State) (ls : List Loc) : s.ratioHolds ls = true ↔ ∃ m ∈ ls, s.ratioHolds [m] = true := by
  simp only [State.ratioHolds, Bool.and_eq_true, List.any_eq_true, List.mem_singleton, exists_eq_left]
  constructor
  · rintro ⟨pending, m, hm, host⟩
    exact ⟨m, hm, pending, host⟩
  · rintro ⟨m, hm, pending, host⟩
    exact ⟨pending, m, hm, host⟩

/-- What no access finds among its own locations, none finds among the locations of all. -/
theorem accessLocs_free {as : List Access} {p : List Loc → Bool} (hp : ∀ ls, p ls = true ↔ ∃ m ∈ ls, p [m] = true)
    (h : ∀ a ∈ as, ∀ ls, a.locs = .ok ls → p ls = false) : p (accessLocs as) = false := by
  rw [Bool.eq_false_iff]
  intro found
  obtain ⟨m, hm, hpm⟩ := (hp _).1 found
  obtain ⟨a, ha, ls, hls, hml⟩ := accessLocs_mem.1 hm
  exact absurd ((hp ls).2 ⟨m, hml, hpm⟩) (by simp [h a ha ls hls])

/-! ### A load with no fault (R269, R273) -/

/-- Every access of a list translates, matches no watch and waits for nothing: the condition on which it is performed. -/
structure State.Performs (s : State) (load store : Bool) (size : Nat) (as : List Access) : Prop where
  watch : ∀ a ∈ as, ∀ v, a.va = some v → s.watched load store v size = false
  locs : ∀ a ∈ as, ∃ ls, a.locs = .ok ls
  flying : ∀ a ∈ as, ∀ ls, a.locs = .ok ls → s.inFlight ls = false
  ratio : ∀ a ∈ as, ∀ ls, a.locs = .ok ls → s.ratioHolds ls = false

theorem performs_of_accessible {s : State} {stash load store : Bool} {size : Nat} {e : Lanes} {j0 n : Nat}
    {A : Nat → Nat → W64} {xl : W64 → Except XFault (List Loc)}
    (h : accessible s stash load store size e j0 n A xl) : s.Performs load store size
      ((s.accesses stash (accessesOf e n A xl)).filter fun a => decide (j0 ≤ a.elem)) := by
  refine ⟨fun a ha v hv => ?_, fun a ha => ?_, fun a ha ls hls => ?_, fun a ha ls hls => ?_⟩ <;>
    obtain ⟨l, hl, he, j, hj0, hj, rfl⟩ := mem_accesses.1 ha <;>
    obtain ⟨unwatched, ls', ok, -, flying, ratio⟩ := h l hl he j hj0 hj
  · exact unwatched v hv
  · exact ⟨ls', ok⟩
  · rwa [Except.ok.inj (hls.symm.trans ok)]
  · rwa [Except.ok.inj (hls.symm.trans ok)]

theorem State.Performs.watchLanes {s : State} {load store : Bool} {size : Nat} {as : List Access}
    (h : s.Performs load store size as) : s.watchLanes load store size as = 0 := by
  refine (lanes_eq_zero_iff _).2 fun l hl => ?_
  rw [State.watchLanes, ofPred_getLsbD _ _ hl, Bool.eq_false_iff]
  intro found
  obtain ⟨a, ha, hit⟩ := List.any_eq_true.1 found
  obtain ⟨v, hv, w⟩ := (Option.any_eq_true _ _).1 (Bool.and_eq_true_iff.1 hit).2
  exact absurd w (by simp [h.watch a ha v hv])

theorem State.Performs.inOrder {s : State} {load store : Bool} {size : Nat} {as : List Access}
    (h : s.Performs load store size as) (k : Result) : s.inOrder (accessLocs as) k = k := by
  rw [State.inOrder, accessLocs_free (inFlight_iff s) h.flying, accessLocs_free (ratioHolds_iff s) h.ratio]
  rfl

theorem State.Performs.firstFault {s : State} {load store : Bool} {size : Nat} {as : List Access}
    (h : s.Performs load store size as) : firstFault as = none := by
  refine List.findSome?_eq_none_iff.2 fun a ha => ?_
  obtain ⟨ls, hls⟩ := h.locs a ha
  rw [hls]

/-- The elements that a load sends. -/
def elemsOf (ty : Ty) (dst : Nat → Nat) (as : List Access) : List Elem :=
  as.filterMap fun a => match a.locs with
    | .ok ls => some { lane := a.lane, dst := dst a.elem, ty := ty, locs := ls }
    | .error _ => none

theorem mem_elemsOf {ty : Ty} {dst : Nat → Nat} {as : List Access} {x : Elem} :
    x ∈ elemsOf ty dst as ↔ ∃ a ∈ as, ∃ ls, a.locs = .ok ls ∧ ⟨a.lane, dst a.elem, ty, ls⟩ = x := by
  simp only [elemsOf, List.mem_filterMap]
  refine exists_congr fun a => and_congr_right fun _ => ?_
  cases a.locs <;> simp

/-- A load that is performed: its destinations are empty, its elements fly, and its landing is due (R53, R273). -/
theorem loadLanes_performed {s : State} {ty : Ty} {dst : Nat → Nat} {as : List Access} (len : Nat) (extra : Welt → Welt)
    (h : s.Performs true false ty.bytes as) (hn : as ≠ []) : ∃ tlb tlb2 uses,
    s.loadLanes len ty dst as extra = .next ((({ s with tlb := tlb, tlb2 := tlb2, uses := uses } : State).retire
      (((extra s.cw).emptyDsts ty dst as).launchFlight (.load (elemsOf ty dst as))) len).post
        (.loadLand s.cur s.cw.nextFlight)) := by
  obtain ⟨tlb, tlb2, uses, e⟩ := fillTlbs_eq s as
  refine ⟨tlb, tlb2, uses, ?_⟩
  have performs : ({ s with tlb := tlb, tlb2 := tlb2, uses := uses } : State).Performs true false ty.bytes as :=
    ⟨h.watch, h.locs, h.flying, h.ratio⟩
  unfold State.loadLanes
  simp only [e, performs.inOrder, performs.firstFault]
  rw [if_neg (not_not.2 performs.watchLanes), if_neg (by simpa using hn)]
  rfl

/-! ### What a load leaves (R53) -/

/-- What the TLBs have learnt and what is due bear not on `Reaching`. -/
theorem reaching_of_translated {s u : State} {tlb tlb2 : List Tlb} {uses : List PageUse} {len : Nat} {e : Lanes}
    {rs ms : List Nat} (i : Instr) (h : Reaching { s with tlb := tlb, tlb2 := tlb2, uses := uses } u len e rs [] ms 0) :
    Reaching s (u.post i) len e rs [] ms 0 :=
  ⟨h.lanes, h.uniform, h.masks, h.flags, h.special, h.traps, h.others⟩

theorem elemReg_mem_elemRegs {ty : Ty} {d : VReg} {n j r : Nat} (hj : j < n) (hr : r ∈ regsOf ty (elemReg ty d j)) :
    r ∈ elemRegs ty d n :=
  List.mem_flatMap.2 ⟨j, List.mem_range.2 hj, hr⟩

section
variable {s : State} {stash : Bool} {ty : Ty} {d : VReg} {dst : Nat → Nat} {e : Lanes} {j0 n : Nat} {A : Nat → Nat → W64}
  {xl : W64 → Except XFault (List Loc)}

/-- The accesses of a load of elements `j0` to `n` of the lanes of `e`. -/
def State.loadAccesses (s : State) (stash : Bool) (e : Lanes) (j0 n : Nat) (A : Nat → Nat → W64)
    (xl : W64 → Except XFault (List Loc)) : List Access :=
  (s.accesses stash (accessesOf e n A xl)).filter fun a => decide (j0 ≤ a.elem)

/-- The destinations that a lane of `e` empties are those of its elements. -/
theorem mem_loadDsts (hd : ∀ j, j0 ≤ j → j < n → dst j = elemReg ty d j) {l r : Nat} :
    r ∈ laneDsts ty dst (s.loadAccesses stash e j0 n A xl) l ↔
      l < 32 ∧ e.getLsbD l = true ∧ ∃ j, j0 ≤ j ∧ j < n ∧ r ∈ regsOf ty (elemReg ty d j) := by
  simp only [mem_laneDsts, State.loadAccesses, mem_accesses]
  constructor
  · rintro ⟨_, ⟨k, hk, he, j, hj0, hj, rfl⟩, rfl, hr⟩
    exact ⟨hk, he, j, hj0, hj, hd j hj0 hj ▸ hr⟩
  · rintro ⟨hl, he, j, hj0, hj, hr⟩
    exact ⟨_, ⟨l, hl, he, j, hj0, hj, rfl⟩, rfl, (hd j hj0 hj).symm ▸ hr⟩

/-- The elements that a load sends are those of the lanes of `e`, each with the locations of its address. -/
theorem mem_loadElems (hd : ∀ j, j0 ≤ j → j < n → dst j = elemReg ty d j) {x : Elem} :
    x ∈ elemsOf ty dst (s.loadAccesses stash e j0 n A xl) ↔ x.lane < 32 ∧ e.getLsbD x.lane = true ∧
      ∃ j, j0 ≤ j ∧ j < n ∧ x.dst = elemReg ty d j ∧ x.ty = ty ∧ xl (A x.lane j) = .ok x.locs := by
  simp only [mem_elemsOf, State.loadAccesses, mem_accesses]
  constructor
  · rintro ⟨_, ⟨l, hl, he, j, hj0, hj, rfl⟩, ls, hls, rfl⟩
    exact ⟨hl, he, j, hj0, hj, hd j hj0 hj, rfl, hls⟩
  · rintro ⟨hl, he, j, hj0, hj, hr, ht, hls⟩
    refine ⟨_, ⟨x.lane, hl, he, j, hj0, hj, rfl⟩, x.locs, hls, ?_⟩
    rw [← ht, State.accessAt, hd j hj0 hj, ← hr]

/-- The welt that has sent a load: it has changed in mask registers, lanes and flights alone. -/
def Welt.sendLoad (w : Welt) (ty : Ty) (dst : Nat → Nat) (as : List Access) : Welt :=
  (w.emptyDsts ty dst as).launchFlight (.load (elemsOf ty dst as))

theorem lane_sendLoad (w : Welt) (ty : Ty) (dst : Nat → Nat) (as : List Access) {l : Nat} (h : l < 32) :
    (w.sendLoad ty dst as).lane l = (w.lane l).emptyAll (laneDsts ty dst as l) :=
  (lane_launchFlight ..).trans (lane_emptyDsts w ty dst as h)

/-- Registers made empty keep their values and their marks; every other register is the same. -/
theorem sameReg_emptyAll (l : Lane) (rs : List Nat) {r : Nat} (h : r < 128) (hr : r ∉ rs) :
    sameReg (l.emptyAll rs) l r := by
  have rest := emptyAll_rest l rs
  refine ⟨?_, by simp [full_emptyAll _ _ h, hr], (congrArg (fun x : Lane => x.bad.getLsbD r) rest :)⟩
  exact (congrArg (fun x : Lane => x.rd r) rest :)

theorem mask_of_m {w u : Welt} (b : Bool) (r : Nat) (h : w.m = u.m) : maskRead b w r = maskRead b u r := by
  simp only [maskRead, h]

/-- A welt that has sent a load, and beside it has written mask registers, retires with nothing changed but those and
the destinations. -/
theorem reaching_sendLoad {w : Welt} {as : List Access} {rs ms : List Nat} (len : Nat) (h : issuing s)
    (only : { w with m := s.cw.m } = s.cw)
    (masks : ∀ r < 16, r ∉ ms → maskRead s.legacy w r = maskRead s.legacy s.cw r)
    (dsts : ∀ l < 32, ∀ r ∈ laneDsts ty dst as l, e.getLsbD l = true ∧ r ∈ rs) :
    Reaching s (s.retire (w.sendLoad ty dst as) len) len e rs [] ms 0 := by
  have rest : { w.sendLoad ty dst as with
      lanes := s.cw.lanes, m := s.cw.m, flights := s.cw.flights, nextFlight := s.cw.nextFlight } = s.cw :=
    let back (x : Welt) : Welt := { x with
      lanes := s.cw.lanes, m := s.cw.m, flights := s.cw.flights, nextFlight := s.cw.nextFlight }
    (congrArg back (emptyDsts_rest w ty dst as) :).trans (congrArg back only :)
  have lanes : w.lanes = s.cw.lanes := (congrArg Welt.lanes only :)
  have lane (i : Nat) (hi : i < 32) : (w.sendLoad ty dst as).lane i = (s.cw.lane i).emptyAll (laneDsts ty dst as i) := by
    rw [lane_sendLoad _ _ _ _ hi, lane_congr lanes]
  have m : (w.sendLoad ty dst as).m = w.m := (congrArg Welt.m (emptyDsts_rest w ty dst as) :)
  refine reaching_retire len h (fun i hi => ?_) (fun i hi r hr g => ?_)
    ⟨(congrArg Welt.w rest :), (congrArg Welt.wfull rest :), (congrArg Welt.wbad rest :)⟩
    (fun r hr g => (mask_of_m _ r m).trans (masks r hr g)) (congrArg Welt.fpctl rest :)
    ⟨(congrArg Welt.handles rest :), (congrArg Welt.nanrec rest :), (congrArg Welt.skivestat rest :),
      (congrArg Welt.level rest :)⟩
    ⟨(congrArg Welt.traps rest :), (congrArg Welt.halt rest :), (congrArg Welt.replay rest :)⟩
  · let back (x : Lane) : Lane := { x with
      v := (s.cw.lane i).v, full := (s.cw.lane i).full, bad := (s.cw.lane i).bad }
    exact (congrArg back (lane i hi)).trans (congrArg back (emptyAll_rest (s.cw.lane i) _) :)
  · rw [lane i hi]
    exact sameReg_emptyAll _ _ hr fun hm => g (dsts i hi r hm).1 (dsts i hi r hm).2

/-- A load of elements `j0` to `n` of the lanes of `e`, beside which `extra` has written mask registers, flies to
LOAD_LAND. -/
theorem loadLanes_flies (len : Nat) {extra : Welt → Welt} {ms : List Nat} (h : issuing s) (he : e ≠ 0) (hj : j0 < n)
    (acc : accessible s stash true false ty.bytes e j0 n A xl) (hd : ∀ j, j0 ≤ j → j < n → dst j = elemReg ty d j)
    (only : { extra s.cw with m := s.cw.m } = s.cw)
    (masks : ∀ r < 16, r ∉ ms → maskRead s.legacy (extra s.cw) r = maskRead s.legacy s.cw r) :
    ∃ u, s.loadLanes len ty dst (s.loadAccesses stash e j0 n A xl) extra = .next u ∧
      LoadFlies s u len e ty d j0 n A xl ms ∧ ∀ b r, maskRead b u.cw r = maskRead b (extra s.cw) r := by
  have some_access : s.loadAccesses stash e j0 n A xl ≠ [] := by
    obtain ⟨l, hl, hel⟩ := (lanes_ne_zero_iff e).1 he
    exact List.ne_nil_of_mem (mem_accesses.2 ⟨l, hl, hel, j0, Nat.le_refl _, hj, rfl⟩)
  obtain ⟨tlb, tlb2, uses, run⟩ := loadLanes_performed (dst := dst) len extra (performs_of_accessible acc) some_access
  let as := s.loadAccesses stash e j0 n A xl
  let t : State := { s with tlb := tlb, tlb2 := tlb2, uses := uses }
  let w := (extra s.cw).sendLoad ty dst as
  have out : Outside t (t.retire w len) := outside_retireWith ..
  have m : w.m = (extra s.cw).m := (congrArg Welt.m (emptyDsts_rest (extra s.cw) ty dst as) :)
  have flights : w.flights = s.cw.flights ++ [⟨s.cw.nextFlight, s.cw.order, .load (elemsOf ty dst as)⟩] := by
    let sent (x : Welt) := x.flights ++ [⟨x.nextFlight, x.order, .load (elemsOf ty dst as)⟩]
    exact (congrArg sent (emptyDsts_rest (extra s.cw) ty dst as) :).trans (congrArg sent only :)
  have dsts (l : Nat) (r : Nat) : r ∈ laneDsts ty dst as l ↔ _ := mem_loadDsts (s := s) (A := A) (xl := xl) hd
  have sends : Reaching t (t.retire w len) len e (elemRegs ty d n) [] ms 0 := by
    refine reaching_sendLoad len h only masks fun l hl r hr => ?_
    obtain ⟨-, hel, j, -, hj, hr⟩ := (dsts l r).1 hr
    exact ⟨hel, elemReg_mem_elemRegs hj hr⟩
  refine ⟨_, run, ⟨out.bytes, reaching_of_translated _ sends,
    (congrArg (· ++ _) out.agenda :), ⟨_, (flights_retire t w len h).trans flights, fun l hl hel j hj0 hj ls hls => ?_,
    fun x hx => ?_⟩, fun l hl hel j hj0 hj r hr hq => ?_⟩, fun b r => (maskRead_retire t w len h b r).trans (mask_of_m b r m)⟩
  · exact (mem_loadElems hd).2 ⟨hl, hel, j, hj0, hj, rfl, rfl, hls⟩
  · obtain ⟨-, hel, j, hj0, hj, rest⟩ := (mem_loadElems hd).1 hx
    exact ⟨j, hj0, hj, hel, rest⟩
  · have lanes : (extra s.cw).lanes = s.cw.lanes := (congrArg Welt.lanes only :)
    have lane : w.lane l = (s.cw.lane l).emptyAll (laneDsts ty dst as l) := by
      rw [lane_sendLoad _ _ _ _ hl, lane_congr lanes]
    have mem : r ∈ laneDsts ty dst as l := (dsts l r).2 ⟨hl, hel, j, hj0, hj, hr⟩
    have retired := lane_retire t w len h l hl
    have full : ((t.retire w len).cw.lane l).full = (w.lane l).full := by rw [retired]; split <;> rfl
    refine (congrArg (fun x => x.getLsbD r) full :).trans ?_
    rw [lane, full_emptyAll _ _ hq]
    simp [mem]

end

/-! ### LD, LDX, LDS and LD.probe (R267, R273, R274, R277) -/

/-- A load through `loadOp` flies. -/
theorem loadOp_flies {s : State} {d i : VReg} {w : WReg} {f p : BitVec 2} {t stash : Bool} {ty : Ty} {n len j0 : Nat}
    {disp : BitVec 13} {xl : W64 → Except XFault (List Loc)} (h : issuing s) (he : s.todo p ≠ 0) (hj : j0 < n)
    (hi : s.issues (s.todo p) ((memDeps {} t w i.toNat f n).dst (elemRegs ty d n)) 0 = true)
    (acc : accessible s stash true false ty.bytes (s.todo p) j0 n (s.elemAddr w i f ty.bytes disp) xl) :
    ∃ u, s.loadOp d w i f t p ty n len j0 disp stash xl = .next u ∧
      LoadFlies s u len (s.todo p) ty d j0 n (s.elemAddr w i f ty.bytes disp) xl [] := by
  obtain ⟨u, run, flies, -⟩ := loadLanes_flies (dst := elemReg ty d) (extra := id) (ms := []) len h he hj acc
    (fun _ _ _ => rfl) rfl (fun _ _ _ => rfl)
  exact ⟨u, (issue_go _ _ _ _ _ hi).trans run, flies⟩

/-- No lane faults where every access of it is performed. -/
theorem State.Performs.faultLanes {s : State} {load store : Bool} {size : Nat} {as : List Access}
    (h : s.Performs load store size as) : faultLanes as = 0 := by
  refine (lanes_eq_zero_iff _).2 fun l hl => ?_
  rw [Machine.faultLanes, ofPred_getLsbD _ _ hl, Bool.eq_false_iff]
  intro found
  obtain ⟨a, ha, hit⟩ := List.any_eq_true.1 found
  obtain ⟨ls, hls⟩ := h.locs a ha
  simp [hls] at hit

/-- A mask register written changes the mask registers alone. -/
theorem maskWrite_rest (b : Bool) (w : Welt) (r : Nat) (x : Lanes) : { maskWrite b w r x with m := w.m } = w := by
  unfold maskWrite
  split <;> rfl

theorem accessesOf_eq_loadAccesses (s : State) (e : Lanes) (n : Nat) (A : Nat → Nat → W64)
    (xl : W64 → Except XFault (List Loc)) : accessesOf e n A xl = s.loadAccesses false e 0 n A xl :=
  (List.filter_eq_self.2 fun _ _ => rfl).symm

/-- The mask that LD.probe writes where no lane faults (R203). -/
def State.probeMask (s : State) (e old : Lanes) (size : Nat) (A : Nat → Nat → W64) : Lanes :=
  Lanes.ofPred fun l => if e.getLsbD l then s.probeBit size (A l 0) else old.getLsbD l

/-- LD.probe without a fault is a load beside which the mask of the probe is written. -/
theorem exec_ldProbe_load {s : State} {d i : VReg} {w : WReg} {md : MReg} {f p cp : BitVec 2} {t : Bool} {ty : Ty}
    {disp : BitVec 13} (hi : s.issues (s.todo p) ((memDeps {} t w i.toNat f 1).dst (regsOf ty d.toNat)) 0 = true)
    (acc : accessible s false true false ty.bytes (s.todo p) 0 1 (s.elemAddr w i f ty.bytes disp)
      (s.probeXlate ty.bytes)) :
    exec (.ldProbe d w i f t p ty md cp disp) s = s.loadLanes 2 ty (fun _ => d.toNat)
      (s.loadAccesses false (s.todo p) 0 1 (s.elemAddr w i f ty.bytes disp) (s.probeXlate ty.bytes))
      fun x => maskWrite s.legacy x md.toNat (s.probeMask (s.todo p) (maskRead s.legacy s.cw md.toNat) ty.bytes
        (s.elemAddr w i f ty.bytes disp)) := by
  rw [exec_ldProbe, execLdProbe, issue_go _ _ _ _ _ hi]
  simp only [accessesOf_eq_loadAccesses s]
  have good : s.todo p &&& ~~~(faultLanes (s.loadAccesses false (s.todo p) 0 1 (s.elemAddr w i f ty.bytes disp)
      (s.probeXlate ty.bytes))) = s.todo p := by
    rw [State.loadAccesses, (performs_of_accessible acc).faultLanes]
    exact BitVec.and_allOnes
  rw [good]
  rfl

/-- The mask that legacy-width mode leaves of what is written to a mask register (R56). -/
theorem legacyMask_getLsbD (b : Bool) (x : Lanes) {l : Nat} (h : l < 32) :
    (if b then x &&& 0xFFFF#32 else x).getLsbD l = if b && decide (16 ≤ l) then false else x.getLsbD l := by
  have low : (0xFFFF#32).getLsbD l = decide (l < 16) :=
    (by decide : ∀ j : Fin 32, (0xFFFF#32).getLsbD j = decide (j.val < 16)) ⟨l, h⟩
  cases b
  · rfl
  · by_cases g : l < 16 <;> simp only [if_true, BitVec.getLsbD_and, low, Bool.true_and] <;> simp [g]

/-- Settles O18: the four plain forms through `loadOp`, the probe with the mask register that it writes beside its load. -/
theorem loadsFly : Obligations.LoadsFly := by
  intro s d i w md f p n cp t ty disp h he A deps
  refine ⟨fun q hq => ?_, fun _ hi acc => ?_⟩
  · simp only [List.mem_cons, List.not_mem_nil, or_false] at hq
    obtain rfl | rfl | rfl | rfl := hq <;> exact fun _ hj hi acc => loadOp_flies h he hj hi acc
  · obtain ⟨u, run, flies, mask⟩ := loadLanes_flies (d := d) (dst := fun _ => d.toNat) (ms := [md.toNat])
      (extra := fun x => maskWrite s.legacy x md.toNat (s.probeMask (s.todo p) (maskRead s.legacy s.cw md.toNat) ty.bytes
        (A ty.bytes disp))) 2 h he Nat.one_pos acc
      (fun j _ hj => by simp [elemReg, Nat.lt_one_iff.1 hj]) (maskWrite_rest ..)
      (fun r hr g => maskRead_maskWrite_other _ _ _ _ _ hr (by simpa using g))
    refine ⟨u, (exec_ldProbe_load hi acc).trans run, flies, fun l hl hmd => ?_⟩
    have written : md.toNat ≠ 0 := fun g => hmd (BitVec.eq_of_toNat_eq g)
    rw [mask, maskRead_maskWrite _ _ _ _ _ md.isLt written, if_pos rfl, legacyMask_getLsbD _ _ hl, State.probeMask,
      ofPred_getLsbD _ _ hl]

end Sys2Proof.Machine

/-!
Loads that land (R53, R267, R276): what a read of bytes records leaves alone, what a welt notes of a load, the values of
a flight in its registers, and O19.
-/

namespace Sys2Proof.Machine

open Safety Claims

/-! ### What a read records (R201, R226, R235, R236) -/

/-- A state apart from what its TLBs, its caches, its directories and the homes of its regions hold. -/
def State.uncached (s : State) : State :=
  { s with
    tlb := [], tlb2 := [], uses := [], pages := [], cached := [], l2 := [], dir := []
    regions := s.regions.map fun r => { r with cached := [] } }

theorem uncached_of_untranslated {s t : State} (h : t.untranslated = s.untranslated) : t.uncached = s.uncached :=
  (congrArg State.uncached h :)

theorem uncached_fillBlocks (s : State) (ls : List Loc) : (s.fillBlocks ls).uncached = s.uncached :=
  foldl_keeps State.uncached (fun _ _ => uncached_of_untranslated (untranslated_fillTlb ..)) _ s

theorem uncached_giveBack (s : State) (mine : CLine → Bool) : (s.giveBack mine).uncached = s.uncached := by
  unfold State.giveBack
  dsimp only
  split
  · rfl
  · refine (foldl_keeps State.uncached (fun t c => ?_) (s.cached.filter mine) _ :)
    split <;> rfl

theorem uncached_trimCaches (s : State) (core : Nat) : (s.trimCaches core).uncached = s.uncached := by
  have near : (State.uncached (if (s.cached.filter fun c => c.core == core && c.block.isNone).length ≤ 2048 then s
      else match (s.cached.filter fun c => c.core == core && c.block.isNone).getLast? with
        | some c => s.giveBack fun x => x == c
        | none => s)) = s.uncached := by
    split
    · rfl
    · split
      · exact uncached_giveBack ..
      · rfl
  have far (t : State) : (State.uncached (if (t.l2.filter fun x => x.1 == quarterOf core).length ≤ 786432 then t
      else match (t.l2.filter fun x => x.1 == quarterOf core).getLast? with
        | some x => { t with l2 := t.l2.erase x }
        | none => t)) = t.uncached := by
    split
    · rfl
    · split <;> rfl
  exact (far _).trans near

theorem uncached_hold (s : State) (core : Nat) (k : LineKey) (excl dirty : Bool) :
    (s.hold core k excl dirty).uncached = s.uncached :=
  uncached_trimCaches ..

theorem uncached_readGrant (s : State) (core : Nat) (k : LineKey) : (s.readGrant core k).uncached = s.uncached := rfl

theorem uncached_ownGrant (s : State) (core : Nat) (k : LineKey) : (s.ownGrant core k).uncached = s.uncached := rfl

theorem uncached_recallLine (s : State) (k : LineKey) : (s.recallLine k).uncached = s.uncached := by
  unfold State.recallLine
  split <;> rfl

theorem uncached_classify (s : State) (core a : Nat) : (s.classify core a).uncached = s.uncached := by
  unfold State.classify
  split
  · split
    · rfl
    · dsimp only
      split <;> rfl
  · split
    · split <;> rfl
    · rfl

theorem uncached_missLine (s : State) (core a : Nat) (write : Bool) : (s.missLine core a write).uncached = s.uncached := by
  unfold State.missLine
  dsimp only
  split
  · rw [uncached_hold, uncached_classify]
  · split <;> simp only [uncached_hold, uncached_ownGrant, uncached_readGrant, uncached_classify]

theorem uncached_touchDev (s : State) (core a : Nat) (write : Bool) : (s.touchDev core a write).uncached = s.uncached := by
  unfold State.touchDev
  split
  · split
    · rfl
    · split
      · rfl
      · exact uncached_missLine ..
  · exact uncached_missLine ..

theorem uncached_touchHost (s : State) (core : Nat) (k : LineKey) (write : Bool) :
    (s.touchHost core k write).uncached = s.uncached := by
  unfold State.touchHost
  split
  · split <;> simp only [uncached_hold, uncached_ownGrant, uncached_readGrant]
  · exact uncached_recallLine ..

theorem uncached_touchRegion (s : State) (core : Nat) (k : LineKey) (write : Bool) :
    (s.touchRegion core k write).uncached = s.uncached := by
  unfold State.touchRegion
  split
  · exact uncached_recallLine ..
  · rw [uncached_hold, uncached_readGrant]

theorem uncached_touchLocs (s : State) (core : Nat) (write : Bool) (ls : List Loc) :
    (s.touchLocs core write ls).uncached = s.uncached := by
  refine (foldl_keeps State.uncached (fun t k => ?_) _ _).trans (uncached_fillBlocks ..)
  split
  · exact uncached_touchDev ..
  · exact uncached_touchHost ..
  · exact uncached_touchRegion ..
  · rfl

theorem uncached_evalLine (s : State) (i line : Nat) : (s.evalLine i line).uncached = s.uncached := by
  unfold State.evalLine
  split
  case h_1 r hr =>
    split
    · have e := map_set_of_eq (fun r : Region => ({ r with cached := [] } : Region)) s.regions i r
        { r with cached := line :: r.cached } (by simp [List.getD, hr])
      exact congrArg (fun rs => ({ s with
        tlb := [], tlb2 := [], uses := [], pages := [], cached := [], l2 := [], dir := [], regions := rs } : State)) e
    · rfl
  case h_2 => rfl

/-- A read of locations records what it reads in the caches, and leaves all else alone. -/
theorem uncached_readLines (s : State) (core : Nat) (ls : List Loc) : (s.readLines core ls).uncached = s.uncached := by
  refine (foldl_keeps State.uncached (fun t k => ?_) _ _).trans (uncached_touchLocs ..)
  split
  · exact uncached_evalLine ..
  · rfl

theorem settle_of_noPartials {s : State} (h : noPartials s) (ls : List Loc) : s.settle ls = s := by
  obtain ⟨pooled, wgs⟩ := h
  have none : s.anyPartial = false := by
    simp only [State.anyPartial, pooled, List.isEmpty_nil, Bool.not_true, Bool.false_or, List.any_eq_false]
    intro g hg
    simp [wgs g hg]
  simp [State.settle, none]

theorem noPartials_of_uncached {s t : State} (h : t.uncached = s.uncached) (p : noPartials s) : noPartials t := by
  have pooled : t.pooledPartials = s.pooledPartials := (congrArg State.pooledPartials h :)
  have wgs : t.wgs = s.wgs := (congrArg State.wgs h :)
  exact ⟨pooled.trans p.1, wgs ▸ p.2⟩

/-- Where no partial is outstanding a read records what it reads in the caches alone. -/
theorem uncached_reads {s : State} (h : noPartials s) (core : Nat) (ls : List Loc) :
    (s.reads core ls).uncached = s.uncached := by
  rw [State.reads, settle_of_noPartials h, uncached_readLines]

theorem uncached_foldl_reads {α : Type} {s : State} (h : noPartials s) (core : Nat) (locs : α → List Loc) (as : List α) :
    (as.foldl (fun s a => s.reads core (locs a)) s).uncached = s.uncached := by
  induction as generalizing s with
  | nil => rfl
  | cons a as ih =>
    have e := uncached_reads h core (locs a)
    exact (ih (noPartials_of_uncached e h)).trans e

theorem getByte_of_uncached {s t : State} (h : t.uncached = s.uncached) (l : Loc) : t.getByte l = s.getByte l := by
  have key (u : State) : u.getByte l = u.uncached.getByte l := by
    cases l with
    | region i off =>
      have e : (u.regions.map fun r => { r with cached := [] })[i]? = (u.regions[i]?).map fun r => { r with cached := [] } :=
        List.getElem?_map ..
      simp only [State.getByte, State.rawByte, State.uncached, e]
      cases u.regions[i]? <;> rfl
    | _ => rfl
  rw [key t, h, ← key s]

/-- What a party sees does not depend on what the caches hold. -/
theorem seenLocs_of_uncached {s t : State} (h : t.uncached = s.uncached) (r : Reader) (ls : List Loc) :
    t.seenLocs r ls = s.seenLocs r ls := by
  have key (u : State) (l : Loc) : u.seenByte r l = u.uncached.seenByte r l := by
    have twice : u.uncached.uncached = u.uncached := by
      simp only [State.uncached, List.map_map, Function.comp_def]
    simp only [State.seenByte, State.viewBy, getByte_of_uncached twice]
    rfl
  have e : t.seenByte r = s.seenByte r := funext fun l => by rw [key t, h, ← key s]
  simp only [State.seenLocs, e]

/-! ### What a welt notes of a load (R181, R248) -/

/-- A welt with other notes of what it has observed and of the writes that its steps may read. -/
def Welt.noting (x : Welt) (observed : List Nat) (unfenced : List Taint) : Welt :=
  { x with observed := observed, unfenced := unfenced }

/-- A state that differs in the notes of a welt alone. -/
def State.Noted (s : State) (w : Nat) (t : State) : Prop :=
  ∃ observed unfenced, t = s.setWeltAt w ((s.weltAt w).noting observed unfenced)

theorem State.Noted.refl (s : State) (w : Nat) : s.Noted w s :=
  ⟨(s.weltAt w).observed, (s.weltAt w).unfenced, (setWeltAt_self s w).symm⟩

theorem setWeltAt_setWeltAt (s : State) (w : Nat) (x y : Welt) : (s.setWeltAt w x).setWeltAt w y = s.setWeltAt w y := by
  simp only [State.setWeltAt, List.set_set]

theorem State.Noted.trans {s t u : State} {w : Nat} (h : s.Noted w t) (g : t.Noted w u) : s.Noted w u := by
  obtain ⟨o, f, rfl⟩ := h
  obtain ⟨o', f', rfl⟩ := g
  refine ⟨o', f', ?_⟩
  rw [setWeltAt_setWeltAt, weltAt_setWeltAt]
  by_cases hw : w < s.welts.length
  · rw [if_pos ⟨rfl, hw⟩]; rfl
  · rw [if_neg fun h => hw h.2]

theorem noted_noteNums (s : State) (w : Nat) (ns : List Nat) : s.Noted w (s.noteNums w ns) := by
  unfold State.noteNums
  split
  · exact .refl s w
  · exact ⟨_, _, rfl⟩

theorem noted_learn (s : State) (w : Nat) (f : Taint → List Known) : s.Noted w (s.learn w f) := by
  unfold State.learn
  dsimp only
  split
  · exact .refl s w
  · exact ⟨_, _, rfl⟩

theorem noted_hearLoad (s : State) (r : Reader) (ls : List Loc) : s.Noted r.welt (s.hearLoad r ls) := by
  unfold State.hearLoad
  split
  · exact .refl s _
  · exact (noted_learn ..).trans (noted_learn ..)

/-- A load that has taken its value changes the notes of its welt alone. -/
theorem noted_noteSeen (s : State) (r : Reader) (ls : List Loc) : s.Noted r.welt (s.noteSeen r ls) :=
  (noted_noteNums ..).trans (noted_hearLoad ..)

theorem noted_foldl_noteSeen (s : State) (w : Nat) (es : List Elem) :
    s.Noted w (es.foldl (fun s e => s.noteSeen ⟨w, BitVec.twoPow 32 e.lane⟩ e.locs) s) :=
  List.foldlRecOn es _ (motive := fun t => s.Noted w t) (.refl s w) fun _ h _ _ => h.trans (noted_noteSeen ..)

/-! ### The values of a flight (R53, R267, R276) -/

/-- The values of the elements of a load in their registers. -/
def Welt.landAll (w : Welt) (val : Elem → W64) (es : List Elem) : Welt :=
  es.foldl (fun x e => x.land e.lane e.dst e.ty (val e)) w

theorem landAll_cons (w : Welt) (val : Elem → W64) (e : Elem) (es : List Elem) :
    w.landAll val (e :: es) = (w.land e.lane e.dst e.ty (val e)).landAll val es :=
  List.foldl_cons ..

/-- Values that land change the lanes alone. -/
theorem landAll_rest (w : Welt) (val : Elem → W64) (es : List Elem) :
    { w.landAll val es with lanes := w.lanes } = w :=
  foldl_keeps (f := fun (x : Welt) (e : Elem) => x.land e.lane e.dst e.ty (val e))
    (fun x : Welt => ({ x with lanes := w.lanes } : Welt)) (fun _ _ => by simp only [Welt.land, Welt.mapLanes]) es w

theorem lane_land (w : Welt) (lane dst : Nat) (t : Ty) (x : W64) {l : Nat} (h : l < 32) :
    (w.land lane dst t x).lane l = if l = lane then (w.lane l).wrTy t dst (loadImage t x) else w.lane l := by
  rw [Welt.land, lane_mapLanes _ _ _ _ h, BitVec.getLsbD_twoPow]
  by_cases g : lane = l
  · simp [g, h]
  · simp [g, Ne.symm g]

/-- A register that no element of a lane names stays the same there. -/
theorem sameReg_landAll (w : Welt) (val : Elem → W64) {es : List Elem} {l r : Nat} (hl : l < 32) (hr : r < 128)
    (h : ∀ e ∈ es, e.lane = l → r ∉ regsOf e.ty e.dst) : sameReg ((w.landAll val es).lane l) (w.lane l) r := by
  induction es generalizing w with
  | nil => exact ⟨rfl, rfl, rfl⟩
  | cons e es ih =>
    rw [landAll_cons]
    refine sameReg_trans (ih (w.land e.lane e.dst e.ty (val e)) fun e' he' => h e' (.tail _ he')) ?_
    rw [lane_land _ _ _ _ _ hl]
    split
    · exact wrTy_other _ _ _ _ _ hr (h e (.head _) (Eq.symm ‹_›))
    · exact ⟨rfl, rfl, rfl⟩

theorem rdTy_congr {l k : Lane} {t : Ty} {d : Nat} (h : ∀ r ∈ regsOf t d, l.rd r = k.rd r) : l.rdTy t d = k.rdTy t d := by
  unfold Lane.rdTy
  unfold regsOf at h
  split <;> simp_all

/-- A typed write of registers that a lane has reads back. -/
theorem rdTy_wrTy_of_regs (l : Lane) (t : Ty) (d : Nat) (x : W64) (h : ∀ r ∈ regsOf t d, r < 128) :
    (l.wrTy t d x).rdTy t d = if t.is64 then x else (x.setWidth 32).setWidth 64 := by
  unfold regsOf at h
  split at h
  case isTrue c => exact rdTy_wrTy l t d x (h (d + 1) (by simp))
  case isFalse c =>
    have hd : d < 128 := h d (by simp)
    simp only [Lane.wrTy, Lane.rdTy, c, if_false, Bool.false_eq_true, rd_wr _ _ _ _ hd, if_true]

/-- Where no two elements of a lane name one register, each reads its own value, full. -/
theorem landAll_mem (w : Welt) (val : Elem → W64) {es : List Elem}
    (regs : ∀ e ∈ es, e.lane < 32 ∧ ∀ r ∈ regsOf e.ty e.dst, r < 128)
    (apart : es.Pairwise fun e e' => e.lane ≠ e'.lane ∨ ∀ r ∈ regsOf e.ty e.dst, r ∉ regsOf e'.ty e'.dst) {e : Elem}
    (he : e ∈ es) :
    ((w.landAll val es).lane e.lane).rdTy e.ty e.dst = (if e.ty.is64 then loadImage e.ty (val e)
        else ((loadImage e.ty (val e)).setWidth 32).setWidth 64) ∧
      ∀ r ∈ regsOf e.ty e.dst, ((w.landAll val es).lane e.lane).full.getLsbD r = true := by
  induction es generalizing w with
  | nil => cases he
  | cons a es ih =>
    obtain ⟨first, others⟩ := List.pairwise_cons.1 apart
    obtain rfl | he := List.mem_cons.1 he
    · obtain ⟨hl, hr⟩ := regs e (.head _)
      have later (r : Nat) (h : r ∈ regsOf e.ty e.dst) : sameReg ((w.landAll val (e :: es)).lane e.lane)
          ((w.lane e.lane).wrTy e.ty e.dst (loadImage e.ty (val e))) r := by
        have own := lane_land w e.lane e.dst e.ty (val e) hl
        rw [if_pos rfl] at own
        rw [← own, landAll_cons]
        refine sameReg_landAll _ val hl (hr r h) fun e' he' same => ?_
        exact (first e' he').resolve_left (fun g => g same.symm) r h
      refine ⟨(rdTy_congr fun r h => (later r h).1).trans (rdTy_wrTy_of_regs _ _ _ _ hr), fun r h => ?_⟩
      exact (later r h).2.1.trans (wrTy_full _ _ _ _ _ (hr r h) h).1
    · rw [landAll_cons]
      exact ih (w.land a.lane a.dst a.ty (val a)) (fun e' he' => regs e' (.tail _ he')) others he

/-! ### Images (R100, R276) -/

theorem ofInt_num (t : Ty) (x : W64) : BitVec.ofInt t.width (num t x) = x.setWidth t.width := by
  refine BitVec.eq_of_toNat_eq ?_
  rw [BitVec.toNat_ofInt, BitVec.toNat_setWidth]
  have whole : ((x.toNat % 2 ^ t.width : Nat) : Int) % (2 ^ t.width : Nat) = (x.toNat % 2 ^ t.width : Nat) := by
    norm_cast
    exact Nat.mod_mod ..
  unfold num
  dsimp only
  split
  · have e : (2 : Int) ^ t.width = ((2 ^ t.width : Nat) : Int) := by norm_cast
    rw [e, Int.sub_emod_right, whole]; rfl
  · rw [whole]; rfl

/-- The low 32 bits of a sign extension to 64 bits are the extension to 32. -/
theorem setWidth_signExtend {n : Nat} (y : BitVec n) : (y.signExtend 64).setWidth 32 = y.signExtend 32 := by
  refine BitVec.eq_of_getLsbD_eq fun i hi => ?_
  have : i < 64 := by omega
  simp only [BitVec.getLsbD_setWidth, BitVec.getLsbD_signExtend, hi, this, decide_true, Bool.true_and]

theorem setWidth_32_64 {n : Nat} (y : BitVec n) (h : n ≤ 32) : (y.setWidth 32).setWidth 64 = BitVec.ofNat 64 y.toNat := by
  rw [BitVec.ofNat_toNat]
  refine BitVec.eq_of_getLsbD_eq fun i hi => ?_
  by_cases g : i < 32
  · simp [hi, g]
  · simp [BitVec.getLsbD_setWidth, g, BitVec.getLsbD_of_ge y i (by omega)]

/-- What a typed register reads after a value has landed there (R267, R276). -/
theorem loadImage_read (t : Ty) (x : W64) :
    (if t.is64 then loadImage t x else ((loadImage t x).setWidth 32).setWidth 64) = image t (num t x) := by
  have e := ofInt_num t x
  have narrow : t.is64 = false → t.width ≤ 32 := by cases t <;> decide
  have wide : t.is64 = true → t.width = 64 := by cases t <;> decide
  unfold image loadImage imageOf
  by_cases c : t.is64 = true
  · rw [if_pos c, if_pos c]
    rw [wide c] at e ⊢
    rw [e]
    split
    · exact BitVec.signExtend_eq ..
    · rfl
  · have le := narrow (by simpa using c)
    rw [if_neg c, if_neg c, e]
    dsimp only
    split
    · rw [setWidth_signExtend]
    · rw [BitVec.setWidth_setWidth_of_le _ (by decide : 32 ≤ 64), setWidth_32_64 _ le]

theorem num_of_signed {t : Ty} (x : W64) (h : t.isSigned = true) : num t x = (x.setWidth t.width).toInt := by
  have half : 2 * 2 ^ (t.width - 1) = 2 ^ t.width := by cases t <;> decide
  rw [BitVec.toInt_eq_toNat_cond, BitVec.toNat_setWidth, num]
  simp only [h, true_and]
  have e : (2 : Int) ^ t.width = ((2 ^ t.width : Nat) : Int) := by norm_cast
  have e' : (2 : Int) ^ (t.width - 1) = ((2 ^ (t.width - 1) : Nat) : Int) := by norm_cast
  rw [e, e']
  generalize 2 ^ (t.width - 1) = a at half ⊢
  generalize 2 ^ t.width = b at half ⊢
  split <;> split <;> omega

/-- A load into a uniform register extends what it reads to the number that its type says (R276). -/
theorem extendW_eq (t : Ty) (x : W64) : extendW t x = BitVec.ofInt 64 (num t x) := by
  unfold extendW
  split
  case isTrue h => rw [num_of_signed x h, intOf, if_pos h]
  case isFalse h => rw [num, if_neg fun g => h g.1, BitVec.ofInt_natCast]

/-! ### LOAD_LAND (R53, R267, R276) -/

/-- A flight taken off. -/
def Welt.unflown (x : Welt) (n : Nat) : Welt := { x with flights := x.flights.filter fun f => f.num != n }

theorem settleTxn_of_running {s : State} {w : Nat} (h : (s.weltAt w).ended = false) : s.settleTxn w = s := by
  simp [State.settleTxn, h]

/-- A flight that has landed in its welt is taken off it, and nothing else follows while the welt runs. -/
theorem drop_landed {s t : State} {w : Nat} {x : Welt} {k : FlightKind} (n : Nat) (hw : w < t.welts.length)
    (lands : s.landFlight w k = t.setWeltAt w x) (going : x.ended = false) :
    ((s.landFlight w k).dropFlight w n).settleTxn w = t.setWeltAt w (x.unflown n) := by
  have own (y : Welt) : (t.setWeltAt w y).weltAt w = y := (weltAt_setWeltAt ..).trans (if_pos ⟨rfl, hw⟩)
  have drop : (s.landFlight w k).dropFlight w n = t.setWeltAt w (x.unflown n) := by
    rw [lands, State.dropFlight, own, setWeltAt_setWeltAt]
    rfl
  rw [drop, settleTxn_of_running]
  rw [own]
  exact going

theorem weltAt_of_uncached {s t : State} (h : t.uncached = s.uncached) (i : Nat) : t.weltAt i = s.weltAt i :=
  (congrArg (fun x : State => x.weltAt i) h :)

theorem count_of_uncached {s t : State} (h : t.uncached = s.uncached) : t.welts.length = s.welts.length :=
  (congrArg (fun x : State => x.welts.length) h :)

/-- The elements of a load land: what was read is recorded in the caches, and the welt has its values and its notes. -/
theorem landFlight_load {s : State} {w : Nat} (hw : w < s.welts.length) (h : noPartials s) (es : List Elem) :
    ∃ (t : State) (observed : List Nat) (unfenced : List Taint), t.uncached = s.uncached ∧ s.landFlight w (.load es) = t.setWeltAt w
      (((s.weltAt w).noting observed unfenced).landAll (fun e => s.seenLocs ⟨w, BitVec.twoPow 32 e.lane⟩ e.locs) es) := by
  let t := es.foldl (fun s' e => s'.reads (s.coreOfWelt w) e.locs) s
  have same : t.uncached = s.uncached := uncached_foldl_reads h _ _ es
  obtain ⟨observed, unfenced, notes⟩ := noted_foldl_noteSeen t w es
  refine ⟨t, observed, unfenced, same, ?_⟩
  have seen : (fun e : Elem => t.seenLocs ⟨w, BitVec.twoPow 32 e.lane⟩ e.locs) =
      fun e => s.seenLocs ⟨w, BitVec.twoPow 32 e.lane⟩ e.locs := funext fun _ => seenLocs_of_uncached same ..
  have own : (t.setWeltAt w ((t.weltAt w).noting observed unfenced)).weltAt w =
      (s.weltAt w).noting observed unfenced := by
    rw [weltAt_setWeltAt, if_pos ⟨rfl, (count_of_uncached same).symm ▸ hw⟩, weltAt_of_uncached same]
  rw [← seen, ← own]
  refine Eq.trans ?_ (setWeltAt_setWeltAt t w ((t.weltAt w).noting observed unfenced) _)
  rw [← notes]
  rfl

theorem expose_eq (s : State) (scope : Nat) (r : Reader) (nums : List Nat) :
    ∃ vs, s.expose scope r nums = { s with veils := vs } := by
  unfold State.expose State.exposeIn
  split
  · exact ⟨_, rfl⟩
  · exact ⟨_, rfl⟩

/-- A uniform load lands. -/
theorem landFlight_loadW {s : State} {w : Nat} (hw : w < s.welts.length) (h : noPartials s) (d : WReg) (ty : Ty)
    (lanes : Lanes) (ls : List Loc) :
    ∃ (t : State) (vs : List Veil) (observed : List Nat) (unfenced : List Taint), t.uncached = s.uncached ∧ s.landFlight w (.loadW d ty lanes ls) =
      ({ t with veils := vs } : State).setWeltAt w (((s.weltAt w).noting observed unfenced).wrW d.toNat
        (extendW ty (s.seenLocs ⟨w, lanes⟩ ls))) := by
  let t := s.reads (s.coreOfWelt w) ls
  have same : t.uncached = s.uncached := uncached_reads h _ ls
  obtain ⟨vs, shown⟩ := expose_eq t 0 ⟨w, lanes⟩ (t.sources ⟨w, lanes⟩ ls)
  obtain ⟨observed, unfenced, notes⟩ := noted_noteSeen { t with veils := vs } ⟨w, lanes⟩ ls
  refine ⟨t, vs, observed, unfenced, same, ?_⟩
  have own : (({ t with veils := vs } : State).setWeltAt w ((t.weltAt w).noting observed unfenced)).weltAt w =
      (s.weltAt w).noting observed unfenced := by
    rw [weltAt_setWeltAt, if_pos ⟨rfl, (count_of_uncached same).symm ▸ hw⟩, weltAt_of_uncached same]
  rw [← seenLocs_of_uncached same, ← own]
  refine Eq.trans ?_ (setWeltAt_setWeltAt { t with veils := vs } w ((t.weltAt w).noting observed unfenced) _)
  have e : t.noteSeenAll ⟨w, lanes⟩ ls =
      ({ t with veils := vs } : State).setWeltAt w ((t.weltAt w).noting observed unfenced) :=
    (congrArg (fun u : State => u.noteSeen ⟨w, lanes⟩ ls) shown).trans notes
  rw [← e]
  rfl

/-- Settles O19: the flight of a per-lane load, with the values that its registers have after it, and that of a uniform
one. -/
theorem loadsLand : Obligations.LoadsLand := by
  intro s w n o hw going partials
  refine ⟨fun es hf regs apart => ?_, fun d ty lanes ls hd hf => ?_⟩
  · obtain ⟨t, observed, unfenced, same, lands⟩ := landFlight_load hw partials es
    let val (e : Elem) := s.seenLocs ⟨w, BitVec.twoPow 32 e.lane⟩ e.locs
    let x := ((s.weltAt w).noting observed unfenced).landAll val es
    have rest : { x with lanes := (s.weltAt w).lanes } = (s.weltAt w).noting observed unfenced := landAll_rest ..
    have ht : w < t.welts.length := (count_of_uncached same).symm ▸ hw
    have run : exec (.loadLand w n) s = .next (t.setWeltAt w (x.unflown n)) := by
      rw [exec_loadLand, execLoadLand, hf]
      exact congrArg Host.Outcome.next (drop_landed n ht lands ((congrArg Welt.ended rest :).trans going))
    have own : (t.setWeltAt w (x.unflown n)).weltAt w = x.unflown n := (weltAt_setWeltAt ..).trans (if_pos ⟨rfl, ht⟩)
    have lane (l : Nat) : ((s.weltAt w).noting observed unfenced).lane l = (s.weltAt w).lane l := rfl
    have landed (l : Nat) : (x.unflown n).lane l = x.lane l := rfl
    refine ⟨_, run, fun l => ?_, ?_, fun i hi => ?_, fun e he => ?_, fun l hl r hr g => ?_⟩
    · rw [getByte_setWeltAt, getByte_of_uncached same]
    · rw [own]
      exact congrArg (List.filter fun f => f.num != n) (congrArg Welt.flights rest :)
    · rw [weltAt_setWeltAt, if_neg fun h => hi h.1.symm, weltAt_of_uncached same]
    · obtain ⟨value, full⟩ := landAll_mem ((s.weltAt w).noting observed unfenced) val regs apart he
      rw [own, landed]
      exact ⟨value.trans (loadImage_read ..), full⟩
    · rw [own, landed, ← lane l]
      exact sameReg_landAll _ val hl hr g
  · obtain ⟨t, vs, observed, unfenced, same, lands⟩ := landFlight_loadW hw partials d ty lanes ls
    let x := ((s.weltAt w).noting observed unfenced).wrW d.toNat (extendW ty (s.seenLocs ⟨w, lanes⟩ ls))
    have ht : w < t.welts.length := (count_of_uncached same).symm ▸ hw
    have run : exec (.loadLand w n) s = .next (({ t with veils := vs } : State).setWeltAt w (x.unflown n)) := by
      rw [exec_loadLand, execLoadLand, hf]
      exact congrArg Host.Outcome.next (drop_landed n ht lands (by simpa [x, Welt.noting] using going))
    have own : (({ t with veils := vs } : State).setWeltAt w (x.unflown n)).weltAt w = x.unflown n :=
      (weltAt_setWeltAt ..).trans (if_pos ⟨rfl, ht⟩)
    refine ⟨_, run, fun l => ?_, ?_, ?_, ?_⟩
    · rw [getByte_setWeltAt]
      exact (by cases l <;> rfl : ({ t with veils := vs } : State).getByte l = t.getByte l).trans
        (getByte_of_uncached same l)
    · rw [own]
      exact (fullW_wrW _ _ _ _ d.isLt).trans (by simp)
    · rw [own]
      simp [x, Welt.unflown, Welt.noting]
    · rw [own]
      refine ((rdW_wrW _ _ _ _ d.isLt fun g => hd (BitVec.eq_of_toNat_eq g)).trans (if_pos rfl)).trans ?_
      exact extendW_eq ..

end Sys2Proof.Machine

/-!
Which welts have ended and which workgroups stand where: what homes, engines and the end of one welt leave of that
(R29, R238, R242, R310, R327, R349, R359).
-/

namespace Sys2Proof.Machine

open Safety Claims

/-- What a workgroup belongs to and how it stands. -/
def Wg.standing (g : Wg) : Nat × WgState := (g.launch, g.st)

/-- How many launches there are, what each context has been charged, and what the management plane has been told. -/
def State.books (s : State) : Nat × List (List (Nat × Nat)) × List (List W64) :=
  (s.launches.length, s.ctxs.map Ctx.charge, s.mgmtOut)

/-- Which welts have ended, how each workgroup stands, and the books. -/
def State.lives (s : State) : List Bool × List (Nat × WgState) × (Nat × List (List (Nat × Nat)) × List (List W64)) :=
  (s.welts.map Welt.ended, s.wgs.map Wg.standing, s.books)

theorem ended_of_fst {s t : State} (h : t.lives.1 = s.lives.1) (i : Nat) : (t.weltAt i).ended = (s.weltAt i).ended := by
  have e := congrArg (fun x => x.getD i Welt.init.ended) h
  simpa only [State.lives, List.getD_map, State.weltAt] using e

theorem standing_of_lives {s t : State} (h : t.lives = s.lives) (g : Nat) :
    (t.wgAt g).standing = (s.wgAt g).standing := by
  have e := congrArg (fun x => x.2.1.getD g Wg.init.standing) h
  simpa only [State.lives, List.getD_map, State.wgAt] using e

theorem books_of_lives {s t : State} (h : t.lives = s.lives) : t.books = s.books := congrArg (fun x => x.2.2) h

theorem lives_of_same {s t : State} (hw : t.welts = s.welts) (hg : t.wgs = s.wgs) (hb : t.books = s.books) :
    t.lives = s.lives := by
  rw [State.lives, hw, hg, hb]; rfl

theorem lives_of_uncached {s t : State} (h : t.uncached = s.uncached) : t.lives = s.lives :=
  lives_of_same (congrArg State.welts h :) (congrArg State.wgs h :) (congrArg State.books h :)

theorem lives_setWeltAt (s : State) (i : Nat) (w : Welt) (h : w.ended = (s.weltAt i).ended) :
    (s.setWeltAt i w).lives = s.lives :=
  congrArg (fun x => (x, s.wgs.map Wg.standing, s.books)) (map_set_of_eq Welt.ended s.welts i Welt.init w h)

theorem lives_setWgAt (s : State) (i : Nat) (g : Wg) (h : g.standing = (s.wgAt i).standing) :
    (s.setWgAt i g).lives = s.lives :=
  congrArg (fun x => (s.welts.map Welt.ended, x, s.books)) (map_set_of_eq Wg.standing s.wgs i Wg.init g h)

theorem lives_mapWgs {s t : State} {f : Wg → Wg} (hw : t.welts = s.welts) (hg : t.wgs = s.wgs.map f)
    (hb : t.books = s.books) (hf : ∀ g, (f g).standing = g.standing) : t.lives = s.lives := by
  rw [State.lives, hw, hg, hb, List.map_map, funext (f := Wg.standing ∘ f) hf]
  rfl

theorem lives_mapWelts {s t : State} {f : Welt → Welt} (hw : t.welts = s.welts.map f) (hg : t.wgs = s.wgs)
    (hb : t.books = s.books) (hf : ∀ w, (f w).ended = w.ended) : t.lives = s.lives := by
  rw [State.lives, hw, hg, hb, List.map_map, funext (f := Welt.ended ∘ f) hf]
  rfl

theorem lives_mapZip {s t : State} {f : Welt × Nat → Welt} (hw : t.welts = s.welts.zipIdx.map f) (hg : t.wgs = s.wgs)
    (hb : t.books = s.books) (hf : ∀ e, (f e).ended = e.1.ended) : t.lives = s.lives := by
  have e : Welt.ended ∘ f = Welt.ended ∘ Prod.fst := funext hf
  rw [State.lives, hw, hg, hb, List.map_map, e, ← List.map_map, List.zipIdx_map_fst]
  rfl

theorem lives_of_noted {s t : State} {w : Nat} (h : s.Noted w t) : t.lives = s.lives := by
  obtain ⟨o, f, rfl⟩ := h
  exact lives_setWeltAt _ _ _ rfl

/-! ### Homes (R236, R238, R240) -/

theorem uncached_cleanLine (s : State) (k : LineKey) : (s.cleanLine k).uncached = s.uncached := by
  unfold State.cleanLine
  dsimp only
  split <;> rfl

theorem uncached_unprivate (s : State) (a : Nat) : (s.unprivate a).uncached = s.uncached := by
  unfold State.unprivate
  split
  · split <;> rfl
  · rfl

theorem uncached_homeTouch (s : State) (write : Bool) (ls : List Loc) :
    (s.homeTouch write ls).uncached = s.uncached := by
  refine foldl_keeps State.uncached (fun t k => ?_) _ s
  split
  · dsimp only
    split
    · rw [uncached_recallLine, uncached_unprivate]
    · rw [uncached_cleanLine, uncached_unprivate]
  · split
    · exact uncached_recallLine ..
    · rfl
  · split
    · exact uncached_recallLine ..
    · rfl
  · rfl

theorem lives_homeTouch (s : State) (write : Bool) (ls : List Loc) : (s.homeTouch write ls).lives = s.lives :=
  lives_of_uncached (uncached_homeTouch ..)

theorem lives_unveil (s : State) (ls : List Loc) : (s.unveil ls).lives = s.lives := by
  unfold State.unveil
  split <;> rfl

theorem lives_putByte (s : State) (l : Loc) (b : Byte) : (s.putByte l b).lives = s.lives := by
  cases l with
  | stash | opbuf => exact lives_setWgAt _ _ _ rfl
  | _ => rfl

theorem lives_putLocs (s : State) (ls : List Loc) (bs : List Byte) : (s.putLocs ls bs).lives = s.lives := by
  induction ls generalizing s bs with
  | nil => cases bs <;> rfl
  | cons l ls ih => cases bs with
    | nil => rfl
    | cons b bs => exact (ih (s.putByte l b) bs).trans (lives_putByte ..)

theorem lives_spoil (s : State) (g tile : Nat) (t : Ty) (rows cols : List Nat) :
    (s.spoil g tile t rows cols).lives = s.lives := by
  have key (acc : List Host.Cell) : (s.setWgAt g { s.wgAt g with acc := acc }).lives = s.lives :=
    lives_setWgAt _ _ _ rfl
  exact key _

theorem lives_noteWrites (s : State) (by_ copy : Option Nat) (spans : List Span) :
    (s.noteWrites by_ copy spans).lives = s.lives := by
  unfold State.noteWrites
  split
  · rfl
  · dsimp only
    refine (foldl_keeps State.lives (fun t i => ?_) _ _).trans (lives_mapZip rfl rfl rfl fun e => ?_)
    · split
      · rfl
      · refine foldl_keeps State.lives (fun t st => foldl_keeps State.lives (fun t o => ?_) _ t) _ t
        split
        · exact lives_spoil ..
        · rfl
    · split <;> rfl

theorem lives_clearBad (s : State) (ls : List Loc) : (s.clearBad ls).lives = s.lives := lives_of_same rfl rfl rfl

theorem lives_withMem (s : State) (m : List Host.Cell) : ({ s with mem := m } : State).lives = s.lives := rfl

theorem lives_applyPartial (s : State) (op : Nat) (p : Partial_) : (s.applyPartial op p).lives = s.lives := by
  unfold State.applyPartial
  split
  · rfl
  · dsimp only
    rw [lives_noteWrites, lives_clearBad, lives_unveil, lives_homeTouch]
    exact lives_withMem s _

theorem lives_combine (s : State) (sel : Partial_ → Bool) : (s.combine sel).lives = s.lives := by
  unfold State.combine
  dsimp only
  split
  · rfl
  · rw [← foldl_keeps State.lives (f := fun s p => s.applyPartial (s.rangeOp p.range) p)
      (fun t p => lives_applyPartial ..) (sortKey (fun a b => decide (a.wg ≤ b.wg)) _) s]
    exact lives_mapWgs rfl rfl rfl fun _ => rfl

theorem lives_settle (s : State) (ls : List Loc) : (s.settle ls).lives = s.lives := by
  unfold State.settle
  split
  · exact lives_combine ..
  · rfl

theorem lives_applyAtom (s : State) (o : AtomOp) : (s.applyAtom o).1.lives = s.lives :=
  (lives_putLocs ..).trans (lives_unveil ..)

theorem lives_report (s : State) (p : Part) (entries : List (List W64)) : (s.report p entries).lives = s.lives := by
  unfold State.report
  dsimp only
  split <;> rfl

theorem lives_orWelt (s : State) (launch wg welt : Nat) (f : FlagBits) :
    (s.orWelt launch wg welt f).lives = s.lives := by
  refine lives_mapWelts rfl rfl rfl fun w => ?_
  dsimp only
  split <;> rfl

theorem lives_applyEntry (s : State) (e : DetEntry) : (s.applyEntry e).lives = s.lives := by
  unfold State.applyEntry
  dsimp only
  split
  · exact lives_report ..
  · split
    · exact lives_report ..
    · rw [lives_orWelt, lives_noteWrites, lives_applyAtom, lives_homeTouch, lives_settle]

theorem lives_dropEntries (s : State) (pool : List DetEntry) {f : Wg → Wg} {g : Ctx → Ctx}
    (hf : ∀ x, (f x).standing = x.standing) (hg : ∀ x, (g x).charge = x.charge) :
    ({ s with pooled := pool, wgs := s.wgs.map f, ctxs := s.ctxs.map g } : State).lives = s.lives := by
  refine lives_mapWgs rfl rfl ?_ hf
  rw [State.books, List.map_map, funext (f := Ctx.charge ∘ g) hg]
  rfl

theorem lives_applyLaunch (s : State) (l : Nat) : (s.applyLaunch l).lives = s.lives := by
  unfold State.applyLaunch
  dsimp only
  rw [lives_combine, ← foldl_keeps State.lives (f := State.applyEntry) lives_applyEntry (sortKey DetEntry.le _) s]
  exact lives_dropEntries _ _ (fun _ => rfl) fun _ => rfl

/-! ### Loads fixed as a phaser advances (R263) -/

theorem lives_readLines (s : State) (core : Nat) (ls : List Loc) : (s.readLines core ls).lives = s.lives :=
  lives_of_uncached (uncached_readLines ..)

theorem lives_expose (s : State) (scope : Nat) (r : Reader) (nums : List Nat) :
    (s.expose scope r nums).lives = s.lives := by
  obtain ⟨vs, e⟩ := expose_eq s scope r nums
  rw [e]; rfl

theorem lives_noteSeen (s : State) (r : Reader) (ls : List Loc) : (s.noteSeen r ls).lives = s.lives :=
  lives_of_noted (noted_noteSeen ..)

theorem lives_fixLoad (s : State) (w : Nat) (f : Flight) : (s.fixLoad w f).lives = s.lives := by
  unfold State.fixLoad
  dsimp only
  split
  · refine (lives_setWeltAt _ _ _ ?_).trans (foldl_keeps State.lives (fun t e => ?_) _ s)
    · rfl
    · rw [lives_noteSeen, lives_readLines, lives_settle]
  · refine (lives_setWeltAt _ _ _ ?_).trans ?_
    · rfl
    · rw [State.noteSeenAll, lives_noteSeen, lives_expose, lives_readLines, lives_settle]
  · rfl

theorem lives_fixLoads (s : State) (p : Phaser) : (s.fixLoads p).lives = s.lives :=
  foldl_keeps State.lives (f := fun (s : State) (m : Nat × Nat × Bool × W32) =>
      (s.weltAt m.1).flights.foldl (fun s f => s.fixLoad m.1 f) s)
    (fun t m => foldl_keeps State.lives (f := fun s f => s.fixLoad m.1 f) (fun t f => lives_fixLoad t m.1 f) _ t) _ s

/-! ### Phasers, barriers, locks and leases (R243, R327, R328, R333, R349) -/

theorem lives_testPhaser (s : State) (i : Nat) : (s.testPhaser i).lives = s.lives := by
  unfold State.testPhaser
  split
  · rfl
  · split
    · dsimp only
      split
      · exact (foldl_keeps State.lives lives_applyLaunch _ _).trans (lives_fixLoads ..)
      · rfl
    · rfl

theorem lives_putPhaser (s : State) (i : Nat) (p : Phaser) : (s.putPhaser i p).lives = s.lives :=
  lives_testPhaser ..

theorem lives_testBarrier (s : State) (g : Nat) : (s.testBarrier g).lives = s.lives := by
  unfold State.testBarrier
  dsimp only
  split
  · rfl
  · exact lives_setWgAt s g _ rfl

theorem lives_dropWelt (s : State) (w : Nat) : (s.dropWelt w).lives = s.lives := by
  refine (lives_testBarrier ..).trans ((lives_setWgAt _ _ _ ?_).trans ?_)
  · rfl
  refine foldl_keeps State.lives (fun t i => ?_) _ s
  split
  · split
    · exact lives_putPhaser ..
    · rfl
  · rfl

theorem lives_endLease (s : State) (w : Nat) : (s.endLease w).lives = s.lives := by
  unfold State.endLease
  split
  · exact (foldl_keeps State.lives (fun t k => lives_of_uncached (uncached_recallLine t k)) _ _).trans
      (lives_setWeltAt _ _ _ rfl)
  · rfl

theorem lives_putLock (s : State) (i : Nat) (l : Lock) : (s.putLock i l).lives = s.lives := by
  unfold State.putLock
  dsimp only
  split <;> rfl

theorem lives_releaseName (s : State) (ctx : Nat) (name : W64) (age : Age) :
    (s.releaseName ctx name age).lives = s.lives := by
  unfold State.releaseName
  split
  · rfl
  · split
    · rfl
    · dsimp only
      refine (lives_putLock ..).trans ?_
      split <;> rfl

theorem lives_releaseAll (s : State) (w : Nat) : (s.releaseAll w).lives = s.lives := by
  unfold State.releaseAll
  dsimp only
  split
  · rfl
  · refine (lives_setWeltAt _ _ _ ?_).trans (foldl_keeps State.lives (fun t n => lives_releaseName ..) _ s)
    rfl

theorem lives_settleTxn (s : State) (w : Nat) : (s.settleTxn w).lives = s.lives := by
  unfold State.settleTxn
  split
  · exact lives_releaseAll ..
  · rfl

/-! ### The end of a welt (R29, R310, R359) -/

theorem uncached_flushBlock (s : State) (g b : Nat) : (s.flushBlock g b).uncached = s.uncached := rfl

theorem lives_dropBlock (s : State) (g b : Nat) : (s.dropBlock g b).lives = s.lives :=
  lives_of_uncached ((uncached_giveBack ..).trans (uncached_flushBlock ..))

theorem lives_showWg (s : State) (g : Nat) : (s.showWg g).lives = s.lives := rfl

theorem lives_clearArea (s : State) (g : Wg) : (s.clearArea g).lives = s.lives :=
  congrArg (fun x => (s.welts.map Welt.ended, s.wgs.map Wg.standing, s.launches.length, x, s.mgmtOut))
    (map_set_of_eq Ctx.charge s.ctxs _ Ctx.init _ rfl)

theorem lives_setLaunchAt (s : State) (i : Nat) (l : Launch) : (s.setLaunchAt i l).lives = s.lives :=
  congrArg (fun n => (s.welts.map Welt.ended, s.wgs.map Wg.standing, n, s.ctxs.map Ctx.charge, s.mgmtOut))
    List.length_set

theorem lives_setWgAt_any (s : State) (i : Nat) (g : Wg) :
    (s.setWgAt i g).lives = (s.lives.1, s.lives.2.1.set i g.standing, s.lives.2.2) :=
  congrArg (fun x => (s.welts.map Welt.ended, x, s.books)) List.map_set

/-- A workgroup that ends is the only one that then stands otherwise, and no welt ends by it. -/
theorem lives_endWg (s : State) (g : Nat) (ok : Bool) :
    (s.endWg g ok).lives = (s.lives.1, s.lives.2.1.set g ((s.wgAt g).launch, .ended), s.lives.2.2) := by
  unfold State.endWg
  dsimp only
  split
  · rename_i gone
    have same : (s.setWgAt g { s.wgAt g with st := .ended }).lives = s.lives :=
      lives_setWgAt _ _ _ (congrArg (Prod.mk _) gone.symm)
    exact same.symm.trans (lives_setWgAt_any ..)
  · have dropped : ((List.range 32).foldl (fun s b => s.dropBlock g b) (s.showWg g)).lives = s.lives :=
      (foldl_keeps State.lives (f := fun s b => s.dropBlock g b) (fun t b => lives_dropBlock t g b) _ _).trans
        (lives_showWg ..)
    have pool (t : State) (a : List DetEntry) (b : List Partial_) :
      ({ t with pooled := a, pooledPartials := b } : State).lives = t.lives := rfl
    have post (t : State) (i : Instr) : (t.post i).lives = t.lives := rfl
    rw [post, lives_setLaunchAt, lives_combine, lives_setWgAt_any, lives_clearArea, pool, dropped, Wg.standing]

/-- A welt that has ended: its handles, its instances of collectives and what it awaits are gone. -/
def Welt.closed (x : Welt) : Welt :=
  { x with ended := true, handles := Vector.replicate 16 none, colls := [], wait := .none, service := false }

/-- A welt marked as ended: its registrations and its leases are gone. -/
def State.markEnded (s : State) (w : Nat) : State :=
  let t := (s.dropWelt w).endLease w
  t.setWeltAt w (t.weltAt w).closed

/-- A welt closed, before its workgroup ends with it: what it has stored is visible to the device, and its transaction
is gone. -/
def State.closeWelt (s : State) (w : Nat) : State :=
  ((s.markEnded w).expose 6 ⟨w, BitVec.allOnes 32⟩ ((s.markEnded w).veilsBefore w)).settleTxn w

theorem endWelt_of_running {s : State} {w : Nat} (ok : Bool) (h : (s.weltAt w).ended = false) :
    s.endWelt w ok = if ((s.closeWelt w).weltsOf (s.weltAt w).wg).all fun i => ((s.closeWelt w).weltAt i).ended
      then (s.closeWelt w).endWg (s.weltAt w).wg ok else s.closeWelt w := by
  unfold State.endWelt
  dsimp only
  rw [if_neg (by simp [h])]
  rw [State.closeWelt, State.markEnded, Welt.closed]

/-- Closing a welt ends it and no other, and every workgroup stands as before. -/
theorem lives_closeWelt (s : State) (w : Nat) : (s.closeWelt w).lives = (s.lives.1.set w true, s.lives.2) := by
  have drop : ((s.dropWelt w).endLease w).lives = s.lives := (lives_endLease ..).trans (lives_dropWelt ..)
  have close (t : State) : (t.setWeltAt w (t.weltAt w).closed).lives = (t.lives.1.set w true, t.lives.2) :=
    congrArg (fun x => (x, t.lives.2)) List.map_set
  rw [State.closeWelt, lives_settleTxn, lives_expose, State.markEnded, close, drop]

theorem ended_of_ends {s t : State} {w : Nat} (e : t.lives.1 = s.lives.1.set w true) (i : Nat) :
    (t.weltAt i).ended = if w = i ∧ i < s.welts.length then true else (s.weltAt i).ended := by
  have h := congrArg (fun x => x.getD i Welt.init.ended) e
  simp only [State.lives, List.getD_map, getD_set, List.length_map] at h
  exact h

/-- A welt that is told to end has ended. -/
theorem ended_endWelt {s : State} {w : Nat} (ok : Bool) (h : w < s.welts.length) :
    ((s.endWelt w ok).weltAt w).ended = true := by
  cases g : (s.weltAt w).ended
  · have closed : ((s.closeWelt w).weltAt w).ended = true :=
      (ended_of_ends (congrArg Prod.fst (lives_closeWelt s w)) w).trans (if_pos ⟨rfl, h⟩)
    rw [endWelt_of_running ok g]
    split
    · exact (ended_of_fst (congrArg Prod.fst (lives_endWg (s.closeWelt w) _ ok) :) w).trans closed
    · exact closed
  · rw [State.endWelt, if_pos g, g]

end Sys2Proof.Machine

/-!
Successors (R32, R33, R354-R361): the lanes that issue, the targets of a successor, lanes that have gone to them; EXIT
and the end of a welt; O40.
-/

namespace Sys2Proof.Machine

open Safety Claims

/-! ### The lanes that issue (R27) -/

/-- The lanes of A have the key of the lane that stands for the issue. -/
theorem key_of_A {w : Welt} {l : Nat} (hl : l < 32) (h : w.A.getLsbD l = true) : (w.lane l).key = w.lead.key := by
  unfold Welt.A at h
  unfold Welt.lead
  cases b : w.leader with
  | none => simp [b] at h
  | some b =>
    rw [b] at h
    simp only [BitVec.getLsbD_and, Bool.and_eq_true, ofPred_getLsbD _ _ hl, beq_iff_eq] at h
    rw [← h.2, lane_getElem w ⟨l, hl⟩]

theorem pc_depth_of_key {l k : Lane} (h : l.key = k.key) : l.pc = k.pc ∧ l.depth = k.depth := by
  have lp := l.pc.isLt
  have kp := k.pc.isLt
  have ld := l.depth.isLt
  have kd := k.depth.isLt
  unfold Lane.key at h
  constructor <;> refine BitVec.eq_of_toNat_eq ?_ <;> omega

/-- The lanes of A stand at the instruction that issues, at its depth. -/
theorem place_of_A {w : Welt} {l : Nat} (hl : l < 32) (h : w.A.getLsbD l = true) :
    (w.lane l).pc = w.pc ∧ (w.lane l).depth = w.lead.depth :=
  pc_depth_of_key (key_of_A hl h)

/-! ### Targets (R33, R355, R361) -/

theorem targetLanes_getLsbD (s : State) (tgt : Nat → W64) (p : W64 → Bool) {l : Nat} (h : l < 32) :
    (s.targetLanes tgt p).getLsbD l = (s.cw.A.getLsbD l && p (tgt l)) := by
  rw [State.targetLanes, BitVec.getLsbD_and, ofPred_getLsbD _ _ h]

/-- Where no target of a lane of A satisfies a test, the lanes whose target does are none. -/
theorem targetLanes_eq_zero {s : State} {tgt : Nat → W64} {p : W64 → Bool}
    (h : ∀ l < 32, s.cw.A.getLsbD l → p (tgt l) = false) : s.targetLanes tgt p = 0 := by
  refine (lanes_eq_zero_iff _).2 fun l hl => ?_
  rw [targetLanes_getLsbD _ _ _ hl]
  cases g : s.cw.A.getLsbD l
  · rfl
  · exact h l hl g

theorem targetTrap_of_reachable {s : State} {form : State → Nat → W64} {call : Bool} (h : reachable s (form s))
    (window : call = true → ∀ l < 32, s.cw.A.getLsbD l → s.inWindow (form s l) = true) :
    s.targetTrap form call = none := by
  have legal : s.illTargets (form s) call = 0 := targetLanes_eq_zero fun l hl hA => by
    rw [h l hl hA]
    cases call
    · rfl
    · rw [window rfl l hl hA]; rfl
  unfold State.targetTrap
  dsimp only
  rw [if_neg (not_not.2 legal)]
  split
  case h_1 f t found =>
    obtain ⟨i, hi, fault⟩ := List.exists_of_findSome?_eq_some found
    obtain ⟨hl, failing⟩ := mem_nats.1 hi
    rw [targetLanes_getLsbD _ _ _ hl, Bool.and_eq_true] at failing
    rw [h i hl failing.1] at fault
    cases fault
  case h_2 => rfl

/-- A successor that is ready, whose targets R33 and R355 allow, has its effect. -/
theorem successor_go {s : State} {d : Deps} {tgt : State → Nat → W64} {call : Bool} {k : Result}
    (hi : s.issues s.cw.A d 0 = true) (h : reachable s (tgt s))
    (window : call = true → ∀ l < 32, s.cw.A.getLsbD l → s.inWindow (tgt s l) = true) :
    s.successor d tgt call k = k := by
  rw [State.successor, issue_go _ _ _ _ _ hi, targetTrap_of_reachable h window]

/-- The target of a SUCC word as R356 states it. -/
theorem offTarget_eq (s : State) (off : BitVec 22) : s.offTarget off = BitVec.ofInt 64 (s.cw.pc.toNat + 4 * off.toInt) := by
  have pc : s.cw.pc.setWidth 64 = BitVec.ofInt 64 s.cw.pc.toNat := by simp
  have step : off.signExtend 64 = BitVec.ofInt 64 off.toInt := rfl
  have four : (4#64 : W64) = BitVec.ofInt 64 4 := rfl
  calc s.offTarget off = s.cw.pc.setWidth 64 + off.signExtend 64 * 4#64 := rfl
    _ = _ := by rw [pc, step, four, ← BitVec.ofInt_mul, ← BitVec.ofInt_add, Int.mul_comm]

/-- The link of RET as R358 states it: the register within the 4 GiB of the pc. -/
theorem link_eq (p : Pc) (x : W32) : (p.extractLsb' 32 16).setWidth 64 <<< 32 ||| x.setWidth 64 =
    BitVec.ofNat 64 (p.toNat / 2 ^ 32 * 2 ^ 32 + x.toNat) := by
  have hx := x.isLt
  have hp := p.isLt
  have high : p.toNat / 2 ^ 32 % 2 ^ 16 % 2 ^ 64 * 2 ^ 32 % 2 ^ 64 = 2 ^ 32 * (p.toNat / 2 ^ 32) := by omega
  refine BitVec.eq_of_toNat_eq ?_
  rw [BitVec.toNat_or, BitVec.toNat_shiftLeft, BitVec.toNat_setWidth, BitVec.toNat_setWidth, BitVec.extractLsb'_toNat,
    BitVec.toNat_ofNat, Nat.shiftLeft_eq, Nat.shiftRight_eq_div_pow, high, Nat.mod_eq_of_lt (by omega : x.toNat < 2 ^ 64),
    ← Nat.two_pow_add_eq_or_of_lt x.isLt]
  omega

/-- A target in the 4 GiB of the pc, where the return address lies too, is in the window of a call (R355). -/
theorem inWindow_of_near {s : State} {t : W64} (back : (s.cw.pc.toNat + 4) / 2 ^ 32 = s.cw.pc.toNat / 2 ^ 32)
    (near : t.toNat / 2 ^ 32 = s.cw.pc.toNat / 2 ^ 32) : s.inWindow t = true := by
  have hp := s.cw.pc.isLt
  have ht := t.isLt
  rw [State.inWindow, Bool.and_eq_true, beq_iff_eq, beq_iff_eq]
  constructor
  · rw [field, BitVec.extractLsb'_toNat, Nat.shiftRight_eq_div_pow]
    omega
  · refine BitVec.eq_of_toNat_eq ?_
    rw [BitVec.extractLsb'_toNat, BitVec.extractLsb'_toNat, Nat.shiftRight_eq_div_pow, Nat.shiftRight_eq_div_pow,
      BitVec.toNat_add]
    have four : (4 : Pc).toNat = 4 := rfl
    rw [four]
    omega

/-! ### Lanes sent to their targets (R32) -/

/-- Lanes sent to their targets change the lanes alone. -/
theorem jump_rest (w : Welt) (a : Lanes) (tgt : Nat → W64) (f : Lane → Lane) :
    { w.jump a tgt f with lanes := w.lanes } = w := by
  simp only [Welt.jump, Welt.mapLanes]

theorem lane_jump (w : Welt) (a : Lanes) (tgt : Nat → W64) (f : Lane → Lane) {l : Nat} (h : l < 32) :
    (w.jump a tgt f).lane l =
      if a.getLsbD l then { f (w.lane l) with pc := (tgt l).setWidth 48, pos := .start } else w.lane l := by
  rw [Welt.jump, lane_mapLanes _ _ _ _ h]

/-- A welt that has changed in its lanes alone retires `Jumped`, where each lane of A stands at its target with the
depth `dep` gives and has kept its registers but `rs`. -/
theorem jumped_retireWith {s : State} {w : Welt} {tgt : Nat → W64} {dep : BitVec 6 → BitVec 6} {rs : List Nat}
    (h : issuing s) (rest : { w with lanes := s.cw.lanes } = s.cw)
    (out : ∀ l < 32, s.cw.A.getLsbD l = false → w.lane l = s.cw.lane l)
    (gone : ∀ l < 32, s.cw.A.getLsbD l = true → (w.lane l).x = (s.cw.lane l).x ∧ (w.lane l).h = (s.cw.lane l).h ∧
      (w.lane l).pc = (tgt l).setWidth 48 ∧ (w.lane l).depth = dep (s.cw.lane l).depth)
    (kept : ∀ l < 32, s.cw.A.getLsbD l = true → ∀ r < 128, r ∉ rs → sameReg (w.lane l) (s.cw.lane l) r) :
    Jumped s (s.retireWith w) tgt dep rs := by
  have lane := lane_retireWith s w h
  have only : s.cw.Only w := (congrArg (fun x : Welt => ({ x with
    w := s.cw.w, wfull := s.cw.wfull, wbad := s.cw.wbad, m := s.cw.m, fpctl := s.cw.fpctl } : Welt)) rest :)
  obtain ⟨regs, wfull, wbad, m, fpctl, -⟩ := registers_retireWith s w h
  refine ⟨outside_retireWith .., ?_, fun l hl => ?_, fun l hl r hr g => ?_, regs.trans (congrArg Welt.w rest :),
    wfull.trans (congrArg Welt.wfull rest :), wbad.trans (congrArg Welt.wbad rest :), m.trans (congrArg Welt.m rest :),
    fpctl.trans (congrArg Welt.fpctl rest :)⟩
  · rw [cw_retireWith _ _ h]
    exact inside_issued only ..
  · rw [lane]
    cases hA : s.cw.A.getLsbD l
    · rw [out l hl hA]
      exact ⟨rfl, rfl, rfl, rfl⟩
    · exact gone l hl hA
  · rw [lane]
    cases hA : s.cw.A.getLsbD l
    · rw [out l hl hA]
      exact ⟨rfl, rfl, rfl⟩
    · exact kept l hl hA r hr (g hA)

/-- Lanes sent to their targets by `f`, which moves their depth alone. -/
theorem jumped_jump {s : State} {tgt : Nat → W64} {dep : BitVec 6 → BitVec 6} (h : issuing s) (f : Lane → Lane)
    (hf : ∀ l, f l = { l with depth := dep l.depth }) :
    Jumped s (s.retireWith (s.cw.jump s.cw.A tgt f)) tgt dep [] := by
  refine jumped_retireWith h (jump_rest ..) (fun l hl hA => ?_) (fun l hl hA => ?_) fun l hl hA r _ _ => ?_ <;>
    rw [lane_jump _ _ _ _ hl, hA, hf]
  · rfl
  · exact ⟨rfl, rfl, rfl, rfl⟩
  · exact ⟨rfl, rfl, rfl⟩

/-- GO, BR and BRX send the lanes of A to their targets. -/
theorem goTo_jumps {s : State} {d : Deps} {tgt : State → Nat → W64} (h : issuing s) (hi : s.issues s.cw.A d 0 = true)
    (hr : reachable s (tgt s)) : ∃ u, s.goTo d tgt = .next u ∧ Jumped s u (tgt s) id [] :=
  ⟨_, successor_go hi hr nofun, jumped_jump h id fun _ => rfl⟩

/-! ### Calls and returns (R357, R358) -/

/-- The lanes of A sent to a call's target, with the link in V127. -/
def Welt.callTo (w : Welt) (tgt : Nat → W64) (link : W32) : Welt := w.jump w.A tgt fun l => l.wr 127 link

theorem lane_callTo (w : Welt) (tgt : Nat → W64) (link : W32) {l : Nat} (hl : l < 32) (hA : w.A.getLsbD l = true) :
    (w.callTo tgt link).lane l = { (w.lane l).wr 127 link with pc := (tgt l).setWidth 48, pos := .start } := by
  rw [Welt.callTo, lane_jump _ _ _ _ hl, if_pos hA]

/-- CALL and CALLX outside serial mode, below depth 63. -/
theorem call_jumps {s : State} {d : Deps} {tgt : State → Nat → W64} (h : issuing s) (ser : s.cw.serial = none)
    (deep : s.cw.lead.depth.toNat < 63) (hi : s.issues s.cw.A (d.dst [127]) 0 = true) (hr : reachable s (tgt s))
    (window : ∀ l < 32, s.cw.A.getLsbD l → s.inWindow (tgt s l) = true) :
    ∃ u, s.call d tgt = .next u ∧ Jumped s u (tgt s) (· + 1) [127] ∧ ∀ l < 32, s.cw.A.getLsbD l →
      (u.cw.lane l).rd 127 = (s.cw.pc + 4).setWidth 32 ∧ (u.cw.lane l).full.getLsbD 127 = true := by
  let link : W32 := (s.cw.pc + 4).setWidth 32
  let w := (s.cw.callTo (tgt s) link).mapLanes s.cw.A fun _ l => { l with depth := l.depth + 1 }
  have run : s.call d tgt = .next (s.retireWith w) := by
    rw [State.call, successor_go hi hr fun _ => window]
    simp only [ser]
    exact if_pos deep
  have rest : { w with lanes := s.cw.lanes } = s.cw := by
    simp only [w, Welt.callTo, Welt.jump, Welt.mapLanes]
  have lane (l : Nat) (hl : l < 32) (hA : s.cw.A.getLsbD l = true) : w.lane l =
      { (s.cw.lane l).wr 127 link with pc := (tgt s l).setWidth 48, pos := .start, depth := (s.cw.lane l).depth + 1 } := by
    rw [lane_mapLanes _ _ _ _ hl, if_pos hA, lane_callTo _ _ _ hl hA]
    rfl
  refine ⟨_, run, jumped_retireWith h rest (fun l hl hA => ?_) (fun l hl hA => ?_) (fun l hl hA r hr g => ?_),
    fun l hl hA => ?_⟩
  · rw [lane_mapLanes _ _ _ _ hl, if_neg (by simp [hA]), Welt.callTo, lane_jump _ _ _ _ hl, if_neg (by simp [hA])]
  · rw [lane l hl hA]
    exact ⟨rfl, rfl, rfl, rfl⟩
  · rw [lane l hl hA]
    exact sameReg_wr _ _ _ _ hr (by simpa using g)
  · rw [lane_retireWith _ _ h, lane l hl hA]
    exact ⟨(rd_wr _ _ _ _ (by decide)).trans (if_pos rfl), (full_wr (s.cw.lane l) 127 127 link (by decide)).trans (by simp)⟩

theorem serial_retireWith (s : State) (w : Welt) (h : issuing s) : (s.retireWith w).cw.serial = w.serial := by
  rw [cw_retireWith _ _ h]
  exact (congrArg Welt.serial ((w.issued ..).settleHalt_rest _) :)

theorem lowest_mem {m : Lanes} (h : m ≠ 0) : m.getLsbD (Lanes.lowest m) = true := by
  obtain ⟨l, hl, hm⟩ := (lanes_ne_zero_iff m).1 h
  have mem : Lanes.lowest m ∈ Lanes.nats m := by
    rw [Lanes.lowest]
    cases e : Lanes.nats m with
    | nil => exact absurd (mem_nats.2 ⟨hl, hm⟩) (by simp [e])
    | cons a as => exact .head _
  exact (mem_nats.1 mem).2

/-- A call at depth 63: serial mode begins, with the lanes of A in its queue (R40). -/
theorem call_overflows {s : State} {d : Deps} {tgt : State → Nat → W64} (h : issuing s) (hA : s.cw.A ≠ 0)
    (ser : s.cw.serial = none) (deep : s.cw.lead.depth = 63) (hi : s.issues s.cw.A (d.dst [127]) 0 = true)
    (hr : reachable s (tgt s)) (window : ∀ l < 32, s.cw.A.getLsbD l → s.inWindow (tgt s l) = true) :
    ∃ u z, s.call d tgt = .next u ∧ u.cw.serial = some z ∧ z.queue = s.cw.A ∧ z.overflow = s.cw.pc + 4 ∧
      s.cw.A.getLsbD z.running = true ∧
      ∀ l < 32, s.cw.A.getLsbD l → (u.cw.lane l).depth = 63 ∧ (u.cw.lane l).pc = (tgt s l).setWidth 48 := by
  let z : Serial := ⟨s.cw.A, Lanes.lowest s.cw.A, 1, s.cw.pc + 4⟩
  let w := s.cw.callTo (tgt s) ((s.cw.pc + 4).setWidth 32)
  have run : s.call d tgt = .next (s.retireWith { w with serial := some z }) := by
    rw [State.call, successor_go hi hr fun _ => window]
    simp only [ser]
    exact if_neg (by simp [deep])
  refine ⟨_, z, run, serial_retireWith _ _ h, rfl, rfl, lowest_mem hA, fun l hl hAl => ?_⟩
  have lane : ({ w with serial := some z } : Welt).lane l = w.lane l := by simp only [Welt.lane]
  rw [lane_retireWith _ _ h, lane, lane_callTo _ _ _ hl hAl]
  exact ⟨(place_of_A hl hAl).2.trans deep, rfl⟩

/-! ### Switch points (R323) -/

theorem cw_atSwitchPoint (s : State) : s.atSwitchPoint.cw = s.cw := rfl

theorem core_atSwitchPoint (s : State) : s.atSwitchPoint.cg.core = s.cg.core := by
  have e : s.atSwitchPoint.cg = _ := wgAt_setWgAt ..
  rw [e]
  split <;> rfl

theorem tangible_atSwitchPoint (s : State) : s.atSwitchPoint.tangible = s.tangible :=
  tangible_setWgAt _ _ _ rfl

/-- At a switch point the marks of the welts that run on change, besides what an issue marks. -/
theorem outside_atSwitchPoint (s : State) (w : Welt) :
    Outside s { s.atSwitchPoint.retireWith w with wgs := s.wgs } := by
  obtain ⟨bytes, rest, stitches, count, welts, otherCores, itsCore, slices, agenda⟩ :=
    outside_retireWith s.atSwitchPoint w
  have rest' := (congrArg (fun x : State => ({ x with wgs := s.wgs } : State)) rest :)
  rw [core_atSwitchPoint] at otherCores itsCore slices
  exact ⟨getByte_congr rest', rest', stitches, count, welts, otherCores, itsCore, slices, agenda⟩

/-! ### YIELD (R360, R323) -/

/-- The welt that has yielded: it is ready again in cycle `k`, after the instructions that are ready then. -/
def Welt.yield (w : Welt) (k : Nat) : Welt := { w with yielded := true, readyAt := some k }

theorem fallThrough_pc (s : State) : s.fallThrough.setWidth 48 = s.cw.pc + 4 := by
  rw [State.fallThrough, BitVec.setWidth_add _ _ (by decide), BitVec.setWidth_setWidth_of_le _ (by decide), BitVec.setWidth_eq]
  rfl

theorem yield_next {s : State} (h : issuing s) (hi : s.issues s.cw.A {} 0 = true)
    (hr : reachable s fun _ => s.fallThrough) :
    ∃ u, exec .yield s = .next u ∧ Reaching s u 1 0 [] [] [] 0 ∧ (∀ l, u.getByte l = s.getByte l) ∧
      u.cw.yielded = true ∧ u.cw.readyAt =
        some (nextSliceCycle ((s.coreAt s.cg.core).slices.toList.getD s.cw.slice Slice.init).ratio s.now) := by
  let k := nextSliceCycle ((s.coreAt s.cg.core).slices.toList.getD s.cw.slice Slice.init).ratio s.now
  let w := s.cw.jump s.cw.A (fun _ => s.fallThrough) id
  let t := s.atSwitchPoint.retireWith w
  have run : exec .yield s = .next (t.setCw (t.cw.yield k)) := by
    rw [exec_yield, execYield, successor_go (tgt := fun s _ => s.fallThrough) (call := false) hi hr nofun]
    rfl
  obtain ⟨out, inside, -, -, w', wfull, wbad, m, fpctl⟩ : Jumped s.atSwitchPoint t (fun _ => s.fallThrough) id [] :=
    jumped_jump (s := s.atSwitchPoint) h id fun _ => rfl
  have cur : t.cur = s.cur := (congrArg State.cur out.rest :)
  have ht : issuing t := by
    rw [issuing, out.count, cur]
    exact h
  have cw : (t.setCw (t.cw.yield k)).cw = t.cw.yield k := cw_setCw _ _ ht
  have lane (i : Nat) (hi : i < 32) : (t.cw.yield k).lane i = if s.cw.A.getLsbD i
      then { s.cw.lane i with pc := s.fallThrough.setWidth 48, pos := .start } else s.cw.lane i :=
    (lane_retireWith s.atSwitchPoint w h i).trans (lane_jump _ _ _ _ hi)
  refine ⟨_, run, ?_, fun l => ?_, by rw [cw]; rfl, by rw [cw]; rfl⟩
  · refine ⟨⟨fun i hi => ?_, fun i hi => ?_, fun i hi r _ _ => ?_⟩, fun r _ _ => ?_, fun r _ _ => ?_, ?_, ?_,
      fun h0 h1 => ?_, fun i hi => ?_⟩
    · rw [cw, lane i hi, fallThrough_pc]
      cases hA : s.cw.A.getLsbD i
      · rfl
      · simp only [if_true, (place_of_A hi hA).1]
        rfl
    · rw [cw, lane i hi]
      split <;> exact ⟨rfl, rfl, rfl, rfl⟩
    · rw [cw, lane i hi]
      split <;> exact ⟨rfl, rfl, rfl⟩
    · rw [cw]
      exact ⟨by rw [Welt.rdW, Welt.rdW, ← cw_atSwitchPoint s, ← w']; rfl,
        by rw [Welt.fullW, Welt.fullW, ← cw_atSwitchPoint s, ← wfull]; rfl, congrArg (fun x => x.getLsbD r) wbad⟩
    · rw [cw]
      exact mask_of_m _ r m
    · rw [cw]
      exact fpctl.trans (by simp [cw_atSwitchPoint])
    · rw [cw]
      exact ⟨(congrArg Welt.handles inside.rest :), (congrArg Welt.nanrec inside.rest :),
        (congrArg Welt.skivestat inside.rest :), (congrArg Welt.level inside.rest :)⟩
    · rw [cw]
      exact inside.traps h0 h1
    · have other : (t.setCw (t.cw.yield k)).weltAt i = s.weltAt i :=
        (weltAt_setCw_ne _ _ _ (cur ▸ hi)).trans (out.welts i hi)
      rw [other]
      exact ⟨rfl, rfl, rfl, rfl, rfl, rfl, rfl, rfl, rfl, rfl, rfl, rfl⟩
  · exact (getByte_setWeltAt t t.cur _ l).trans ((out.bytes l).trans (getByte_of_tangible (tangible_atSwitchPoint s) l))

/-! ### EXIT (R359) -/

/-- While no collective is open, none has missed its members. -/
theorem mismatched_of_no_colls {w : Welt} (h : w.colls = []) : w.mismatched = none := by
  unfold Welt.mismatched
  rw [h]
  split <;> rfl

theorem lane_exitLanes (w : Welt) (a : Lanes) {l : Nat} (h : l < 32) : (w.exitLanes a).lane l =
    if a.getLsbD l then { w.lane l with x := true, h := false, depth := 0, pc := 0 } else w.lane l := by
  have same : (w.exitLanes a).lane l =
      (w.mapLanes a fun _ l => { l with x := true, h := false, depth := 0, pc := 0 }).lane l := by
    simp only [Welt.lane, Welt.exitLanes]
  rw [same, lane_mapLanes _ _ _ _ h]

theorem exitLanes_colls (w : Welt) (a : Lanes) : (w.exitLanes a).colls = w.colls := by
  simp only [Welt.exitLanes, Welt.mapLanes]

/-- EXIT of some of the lanes: they have exited, at a switch point. -/
theorem exec_exit_some {s : State} (hi : s.issues s.cw.A {} 0 = true) (colls : s.cw.colls = [])
    (more : s.cw.A ≠ s.cw.living) :
    exec .exit s = .next (s.atSwitchPoint.retireWith (s.cw.exitLanes s.cw.A)) := by
  have none_missed : (s.cw.exitLanes s.cw.A).mismatched = none := mismatched_of_no_colls ((exitLanes_colls ..).trans colls)
  rw [exec_exit, execExit, issue_go _ _ _ _ _ hi]
  simp only [colls, List.find?_nil, if_neg more, State.retireHeld, none_missed]

/-- Streams with nothing queued and nothing pending (R179, R183). -/
def Welt.idle (w : Welt) : Prop := ∀ n < 8, (w.stream n).queue = [] ∧ (w.stream n).pendNan = false ∧
  (w.stream n).pendDrift = false ∧ (w.stream n).pendMem = false

theorem waitStreams_of_idle {s : State} (h : s.cw.idle) (mask : BitVec 8) (k : Result) : s.waitStreams mask k = k := by
  have drained : s.cw.drained mask = true := List.all_eq_true.2 fun n hn => by
    rw [(h n (List.mem_range.1 hn)).1]
    simp
  have pending : s.cw.pendingTrap mask = none := by
    have find (f : Stream → Bool) (hf : ∀ n < 8, f (s.cw.stream n) = false) :
        ((List.range 8).find? fun n => mask.getLsbD n && f (s.cw.stream n)) = none :=
      List.find?_eq_none.2 fun n hn => by simp [hf n (List.mem_range.1 hn)]
    simp only [Welt.pendingTrap, find (·.pendNan) fun n hn => (h n hn).2.1, find (·.pendDrift) fun n hn => (h n hn).2.2.1,
      find (·.pendMem) fun n hn => (h n hn).2.2.2]
    rfl
  simp only [State.waitStreams, drained, pending]
  rfl

/-- Streams that have settled change nothing that welts do not hold. -/
theorem settleStreams_keeps {γ : Type} (g : State → γ) (hg : ∀ t i x, g (State.setWeltAt t i x) = g t) (s : State) (w : Nat)
    (mask : BitVec 8) : g (s.settleStreams w mask) = g s := by
  unfold State.settleStreams
  dsimp only
  rw [hg]
  split
  · rfl
  · exact foldl_keeps g (fun t i => hg ..) _ s

/-- EXIT of the last lanes ends the welt. -/
theorem exec_exit_last {s : State} (h : issuing s) (hi : s.issues s.cw.A {} 0 = true) (colls : s.cw.colls = [])
    (last : s.cw.A = s.cw.living) (idle : s.cw.idle) :
    ∃ u, exec .exit s = .next u ∧ (u.weltAt s.cur).ended = true := by
  let s1 := s.settleStreams s.cur (BitVec.allOnes 8)
  let s2 := s1.retireWith (s1.cw.exitLanes s1.cw.A)
  have run : exec .exit s = .next (s2.endWelt s2.cur true) := by
    rw [exec_exit, execExit, issue_go _ _ _ _ _ hi]
    simp only [colls, List.find?_nil, if_pos last]
    rw [waitStreams_of_idle idle]
  have out : Outside s1 s2 := outside_retireWith ..
  have cur : s2.cur = s.cur :=
    (congrArg State.cur out.rest :).trans (settleStreams_keeps State.cur (fun _ _ _ => rfl) ..)
  have count : s.cur < s2.welts.length := by
    rw [out.count, settleStreams_keeps (fun t => t.welts.length) (fun _ _ _ => by simp [State.setWeltAt])]
    exact h
  refine ⟨_, run, ?_⟩
  rw [cur]
  exact ended_endWelt true count

/-- EXIT of some of the lanes, in full. -/
theorem exit_some_next {s : State} (h : issuing s) (hi : s.issues s.cw.A {} 0 = true) (colls : s.cw.colls = [])
    (more : s.cw.A ≠ s.cw.living) :
    let left (r : Option Nat) : Option Nat := if r = some s.cur then none else r
    ∃ u, exec .exit s = .next u ∧ Outside s { u with wgs := s.wgs } ∧
      (∀ k, u.wgAt k = if k = s.cw.wg then
        { s.cg with runner := left s.cg.runner, handlerRunner := left s.cg.handlerRunner } else s.wgAt k) ∧
      ∀ l < 32, (s.cw.A.getLsbD l → (u.cw.lane l).x = true ∧ (u.cw.lane l).h = false ∧ (u.cw.lane l).depth = 0 ∧
        (u.cw.lane l).pc = 0) ∧ (¬s.cw.A.getLsbD l → u.cw.lane l = s.cw.lane l) := by
  intro left
  let u := s.atSwitchPoint.retireWith (s.cw.exitLanes s.cw.A)
  have lane (l : Nat) (hl : l < 32) := (lane_retireWith s.atSwitchPoint (s.cw.exitLanes s.cw.A) h l).trans
    (lane_exitLanes _ _ hl)
  have wgs : u.wgs = s.atSwitchPoint.wgs :=
    (congrArg State.wgs (outside_retireWith s.atSwitchPoint (s.cw.exitLanes s.cw.A)).rest :)
  refine ⟨u, exec_exit_some hi colls more, outside_atSwitchPoint .., fun k => ?_, fun l hl => ⟨fun hA => ?_, fun hA => ?_⟩⟩
  · have left_eq (r : Option Nat) : (if r == some s.cur then none else r) = left r := by simp only [left, beq_iff_eq]
    have e : u.wgAt k = s.atSwitchPoint.wgAt k := congrArg (fun gs => gs.getD k Wg.init) wgs
    rw [e, State.atSwitchPoint, State.setCg, wgAt_setWgAt]
    simp only [left_eq]
    by_cases g : k = s.cw.wg
    · subst g
      by_cases r : s.cw.wg < s.wgs.length
      · rw [if_pos ⟨rfl, r⟩, if_pos rfl]
      · have none : s.cg = Wg.init := List.getD_eq_default _ _ (Nat.not_lt.1 r)
        rw [if_neg fun h => r h.2, if_pos rfl, none]
        exact none
    · rw [if_neg fun h => g h.1.symm, if_neg g]
  · rw [lane l hl, if_pos hA]
    exact ⟨rfl, rfl, rfl, rfl⟩
  · rw [lane l hl, if_neg hA]

/-- A successor whose every target R33 refuses is ILLEGAL, in the lanes that refuse it. -/
theorem go_illegal {s : State} {off : BitVec 22} (hA : s.cw.A ≠ 0) (hi : s.issues s.cw.A {} 0 = true)
    (ill : s.target (s.offTarget off) = .illegal) : ∃ lanes : State → Lanes,
    exec (.go off) s = .next (s.illegalAt lanes false) ∧
      ∀ v : State, v.cw.pc = s.cw.pc → v.target (s.offTarget off) = .illegal → lanes v = v.cw.A := by
  have all (v : State) (pc : v.cw.pc = s.cw.pc) (hv : v.target (s.offTarget off) = .illegal) :
      v.illTargets (fun _ => v.offTarget off) false = v.cw.A := by
    have same : v.offTarget off = s.offTarget off := by rw [State.offTarget, pc]; rfl
    refine BitVec.eq_of_getLsbD_eq fun l hl => ?_
    rw [State.illTargets, targetLanes_getLsbD _ _ _ hl, same, hv]
    simp
  refine ⟨fun v => v.illTargets (fun _ => v.offTarget off) false, ?_, all⟩
  rw [exec_go, execGo, State.goTo, State.successor, issue_go _ _ _ _ _ hi, State.targetTrap,
    if_pos (by rw [all s rfl ill]; exact hA)]

/-- Settles O40: each successor by the lemma that says where its lanes go, NOP as an instruction without effect. -/
theorem controlFlow : Obligations.ControlFlow := by
  intro s off m a ta h hA pc t reg br link pair near left ratio goes called
  have offTarget : s.offTarget off = t := offTarget_eq s off
  have links : (fun i => (s.cw.pc.extractLsb' 32 16).setWidth 64 <<< 32 ||| ((s.cw.lane i).rd a.toNat).setWidth 64) = link :=
    funext fun i => link_eq _ _
  have window {tgt : Nat → W64} (hn : near tgt) : ∀ l < 32, s.cw.A.getLsbD l → s.inWindow (tgt l) = true :=
    fun l hl hAl => inWindow_of_near hn.1 (hn.2 l hl hAl)
  have go (i : Instr) (d : Deps) (f : State → Nat → W64) (run : exec i s = s.goTo d f) (hi : s.issues s.cw.A d 0 = true)
      (hr : reachable s (f s)) : goes i (f s) := by
    obtain ⟨u, e, jumped⟩ := goTo_jumps h hi hr
    exact ⟨u, run.trans e, jumped⟩
  refine ⟨fun hi => ⟨fun hr => ?_, fun hr => ?_, fun ill => ?_, fun hr => yield_next h hi hr, ?_,
    fun colls more => exit_some_next h hi colls more,
    fun colls last idle => exec_exit_last h hi colls last idle⟩, fun hi hr => ?_, fun ser deep => ⟨fun hi hr hn => ?_,
    fun hi hr hn => ?_⟩, fun ser deep hi hr hn => ?_, fun ser hi => ⟨fun deep hr => ?_, fun deep => ?_⟩⟩
  · rw [← offTarget] at hr ⊢
    exact go _ {} (fun s _ => s.offTarget off) (exec_go ..) hi hr
  · simp only [br, ← offTarget] at hr ⊢
    exact go _ {} (fun s i => if (maskRead s.legacy s.cw m.toNat).getLsbD i then s.offTarget off else s.fallThrough)
      (exec_br ..) hi hr
  · rw [← offTarget] at ill ⊢
    exact go_illegal hA hi ill
  · obtain ⟨u, run, confined, -⟩ := uniOp_next s {} 1 s.cw [] [] h hi s.cw.only_refl rfl
      (fun _ _ _ => ⟨rfl, rfl, rfl⟩) (fun _ _ _ => rfl) rfl
    exact ⟨u, run, confined⟩
  · exact go _ pair (fun s i => (s.cw.lane i).rdTy .b64 a.toNat) (exec_brx ..) hi hr
  · rw [← offTarget] at hr hn ⊢
    exact call_jumps (d := {}) (tgt := fun s _ => s.offTarget off) h ser deep hi hr (window hn)
  · exact call_jumps (d := pair) (tgt := fun s i => (s.cw.lane i).rdTy .b64 a.toNat) h ser deep hi hr (window hn)
  · rw [← offTarget] at hr hn ⊢
    exact call_overflows (d := {}) (tgt := fun s _ => s.offTarget off) h hA ser deep hi hr (window hn)
  · rw [← links] at hr ⊢
    refine ⟨_, ?_, jumped_jump h (fun l => { l with depth := l.depth - 1 }) fun _ => rfl⟩
    have below : (s.issues s.cw.A (({} : Deps).src ta [a.toNat]) 0 && s.cw.lead.depth == 0) = false := by
      rw [beq_false_of_ne deep, Bool.and_false]
    rw [exec_ret, execRet]
    simp only [ser, below, Bool.false_eq_true, if_false]
    exact successor_go hi hr nofun
  · have top : (s.issues s.cw.A (({} : Deps).src ta [a.toNat]) 0 && s.cw.lead.depth == 0) = true := by simp [hi, deep]
    rw [exec_ret, execRet]
    simp only [ser, top, if_true]

end Sys2Proof.Machine

/-!
The return from a trap (R29, R31, R272, R424, R429): the welt that TRET leaves, what its halt makes of it, and O46.
-/

namespace Sys2Proof.Machine

open Safety Claims

/-- The place past which a lane goes on with SK: that of the trapping instruction of `len` words (R429). -/
def TrapRegs.skip (t : TrapRegs) (len : Nat) : Option (BitVec 6 × Pc × Nat) :=
  if t.tsw.getLsbD 10 && !t.tsw.getLsbD 8 && t.tcause.extractLsb' 0 8 != Cause.step.code && !t.tsw.getLsbD 9
  then some (t.tsw.extractLsb' 20 6, t.tpcv.setWidth 48, len) else none

/-- A welt come back from its handler at level `n` to what was saved there (R429), apart from its halt. -/
def Welt.comeBack (w : Welt) (n : Nat) (rest : List Nat) (sv : Saved) (len : Nat) : Welt :=
  let x := w.endReplay
  { x with
    lanes := w.restoreLanes sv ((w.trap n).skip len)
    serial := sv.serial.bind (·.without sv.x)
    colls := sv.colls
    level := ((w.trap n).tsw.extractLsb' 12 2).toNat
    inHandler := rest
    service := w.service && rest.any fun k => decide (1 ≤ k)
    saved := w.saved.setIfInBounds n none
    stepping := (w.trap n).tsw.getLsbD 11
    stepDone := false
    replay := if (x.trap n).restart.getLsbD 63 then some n else sv.replay
    wait := .none
    spent := 0
    wantSince := none
    atStart := false
    order := w.order + 1 }

/-- A welt come back, with the halt that it had: it stops where one is coming, or where it is held back (R425, R427). -/
def Welt.backWith (w : Welt) (halt : Halt) (held : Bool) : Welt :=
  match halt with
  | .coming _ => { w with halt := halt.retired }.stop
  | _ => { w with halt := if held then .stopped else .none }

/-- The halt of a welt that comes back touches what a stop touches. -/
theorem backWith_rest (w : Welt) (halt : Halt) (held : Bool) : { w.backWith halt held with
    traps := w.traps, halt := w.halt, wait := w.wait, wantSince := w.wantSince, wantPrice := w.wantPrice } = w := by
  unfold Welt.backWith
  split
  case h_1 hs =>
    exact (congrArg (fun x : Welt => ({ x with halt := w.halt } : Welt))
      ({ w with halt := (Halt.coming hs).retired } : Welt).stop_rest :)
  case h_2 => rfl

/-- The state in which a welt has come back from its handler, before its end or its collectives are judged. -/
def State.cameBack (s : State) (n : Nat) (rest : List Nat) (sv : Saved) (len : Nat) : State :=
  let w' := s.cw.comeBack n rest sv len
  let held := rest.isEmpty && (s.cg.leaving || (s.setCw w').heldBack s.cur)
  let s0 := (s.setCw { w'.backWith s.cw.halt held with readyAt := some s.now }).noteIssue s.cg.core s.cw.slice
  if sv.colls.any fun c => c.wait != .none then s0.post (.phaserWaitRelease s.cur) else s0

/-- The reserved bits of `sr.tsw` as R424 numbers them. -/
theorem tswReserved_iff (t : W64) : tswReserved t = true ↔ field t 26 38 ≠ 0 ∨ field t 0 7 ≠ 0 := by
  have zero {n : Nat} (x : BitVec n) : (x != 0) = true ↔ x.toNat ≠ 0 := by
    rw [bne_iff_ne]
    exact ⟨fun h e => h (BitVec.eq_of_toNat_eq e), fun h e => h (by rw [e]; rfl)⟩
  rw [tswReserved, Bool.or_eq_true, zero, zero, field, field]

/-- TRET as it issues in a handler at level `n`. -/
theorem exec_tret_issue {s : State} {n : Nat} {rest : List Nat} (hi : s.issues s.cw.A {} 0 = true)
    (hn : s.cw.inHandler = n :: rest) : exec .tret s =
      .next (s.trapReturn (s.lengthAt (field (s.cw.trap n).tsw 12 2) ((s.cw.trap n).tpcv.setWidth 48))) := by
  rw [exec_tret, execTret, issue_go _ _ _ _ _ hi, hn]
  rfl

theorem trapReturn_outside {s : State} (len : Nat) (hn : s.cw.inHandler = []) : s.trapReturn len = s.illegal := by
  unfold State.trapReturn
  dsimp only
  split
  case h_1 => rfl
  case h_2 h => cases h.symm.trans hn

theorem trapReturn_reserved {s : State} {n : Nat} {rest : List Nat} (len : Nat) (hn : s.cw.inHandler = n :: rest)
    (bits : tswReserved (s.cw.trap n).tsw = true) : s.trapReturn len = s.trapAt .tretState s.cw.A := by
  unfold State.trapReturn
  dsimp only
  split
  case h_1 h => cases h.symm.trans hn
  case h_2 k ks h =>
    obtain ⟨rfl, rfl⟩ := List.cons.inj (h.symm.trans hn)
    exact if_pos bits

theorem trapReturn_back {s : State} {n : Nat} {rest : List Nat} {sv : Saved} (len : Nat)
    (hn : s.cw.inHandler = n :: rest) (ok : tswReserved (s.cw.trap n).tsw = false)
    (hs : s.cw.saved.toList.getD n none = some sv) :
    s.trapReturn len = if (s.cw.comeBack n rest sv len).living = 0 then (s.cameBack n rest sv len).endWelt s.cur true
      else (s.cameBack n rest sv len).checkHeld s.cur := by
  unfold State.trapReturn
  dsimp only
  split
  case h_1 h => cases h.symm.trans hn
  case h_2 k ks h =>
    obtain ⟨rfl, rfl⟩ := List.cons.inj (h.symm.trans hn)
    rw [if_neg (by simp [ok]), hs]
    dsimp only
    rw [State.cameBack]
    unfold Welt.comeBack TrapRegs.skip Welt.backWith
    cases s.cw.halt <;> dsimp only

/-! ### The lanes that come back (R429) -/

/-- Lane `i` as it comes back: its saved key and place, past the skipped instruction if it stands there. -/
def Lane.comeBack (l : Lane) (sv : Saved) (skip : Option (BitVec 6 × Pc × Nat)) (i : Fin 32) : Lane :=
  let k : Lane := { l with x := sv.x.getLsbD i, h := sv.h.getLsbD i, depth := sv.depth[i], pc := sv.pc[i],
                           pos := sv.pos[i], seg := sv.seg[i] }
  match skip with
  | some (d, pc, len) =>
    if !k.x && k.depth == d && k.pc == pc then
      { k with pc := k.pc + BitVec.ofNat 48 (4 * len), pos := k.pos.skipped } else k
  | none => k

theorem lane_comeBack (w : Welt) (n : Nat) (rest : List Nat) (sv : Saved) (len : Nat) (i : Fin 32) :
    (w.comeBack n rest sv len).lane i = (w.lane i).comeBack sv ((w.trap n).skip len) i := by
  have lanes : (w.comeBack n rest sv len).lanes = w.restoreLanes sv ((w.trap n).skip len) := by simp only [Welt.comeBack]
  rw [lane_getElem, lanes, lane_getElem, Welt.restoreLanes, Fin.getElem_fin, Vector.getElem_ofFn]
  rfl

theorem comeBack_key (l : Lane) (sv : Saved) (t : TrapRegs) (len : Nat) (i : Fin 32) :
    let r := l.comeBack sv (t.skip len) i
    let skips : Bool := t.tsw.getLsbD 10 && !(t.tsw.getLsbD 8) && !(t.tsw.getLsbD 9) && field t.tcause 0 8 != 0x41
    r.v = l.v ∧ r.full = l.full ∧ r.x = sv.x.getLsbD i ∧ r.h = sv.h.getLsbD i ∧ r.depth = sv.depth[i] ∧
      r.pc = if skips ∧ sv.x.getLsbD i = false ∧ sv.depth[i].toNat = field t.tsw 20 6 ∧ sv.pc[i] = t.tpcv.setWidth 48
        then sv.pc[i] + BitVec.ofNat 48 (4 * len) else sv.pc[i] := by
  intro r skips
  have same {n : Nat} (x y : BitVec n) : (x == y) = decide (x.toNat = y.toNat) :=
    Bool.eq_iff_iff.2 (by rw [beq_iff_eq, decide_eq_true_eq]; exact ⟨congrArg _, BitVec.eq_of_toNat_eq⟩)
  have stepped : (t.tcause.extractLsb' 0 8 != Cause.step.code) = (field t.tcause 0 8 != 0x41) := by
    rw [bne, same]
    rfl
  have skip : t.skip len = if skips then some (t.tsw.extractLsb' 20 6, t.tpcv.setWidth 48, len) else none := by
    rw [TrapRegs.skip, stepped, Bool.and_right_comm]
  cases hs : skips
  · rw [hs] at skip
    simp only [r, skip, Lane.comeBack]
    simp
  · rw [hs] at skip
    simp only [r, skip, if_true, Lane.comeBack, true_and]
    have here : (!sv.x.getLsbD i && sv.depth[i] == t.tsw.extractLsb' 20 6 && sv.pc[i] == t.tpcv.setWidth 48) =
        decide (sv.x.getLsbD i = false ∧ sv.depth[i].toNat = field t.tsw 20 6 ∧ sv.pc[i] = t.tpcv.setWidth 48) := by
      rw [same sv.depth[i], Bool.eq_iff_iff]
      simp only [Bool.and_eq_true, Bool.not_eq_true', beq_iff_eq, decide_eq_true_eq, and_assoc, field]
      exact ⟨decide_eq_true, of_decide_eq_true⟩
    rw [here]
    by_cases g : sv.x.getLsbD i = false ∧ sv.depth[i].toNat = field t.tsw 20 6 ∧ sv.pc[i] = t.tpcv.setWidth 48
    · simp only [decide_eq_true_eq, if_pos g, and_self]
    · simp only [decide_eq_true_eq, if_neg g, and_self]

theorem living_getLsbD (w : Welt) {l : Nat} (h : l < 32) : w.living.getLsbD l = !(w.lane l).x := by
  rw [Welt.living, ofPred_getLsbD _ _ h, ← lane_getElem w ⟨l, h⟩]

section
variable {s : State} {n : Nat} {rest : List Nat} {sv : Saved} {len : Nat}

theorem x_comeBack (w : Welt) (n : Nat) (rest : List Nat) (sv : Saved) (len : Nat) {l : Nat} (h : l < 32) :
    ((w.comeBack n rest sv len).lane l).x = sv.x.getLsbD l := by
  obtain ⟨-, -, x, -⟩ := comeBack_key (w.lane l) sv (w.trap n) len ⟨l, h⟩
  rw [lane_comeBack w n rest sv len ⟨l, h⟩]
  exact x

theorem h_comeBack (w : Welt) (n : Nat) (rest : List Nat) (sv : Saved) (len : Nat) {l : Nat} (hl : l < 32) :
    ((w.comeBack n rest sv len).lane l).h = sv.h.getLsbD l := by
  obtain ⟨-, -, -, hold, -⟩ := comeBack_key (w.lane l) sv (w.trap n) len ⟨l, hl⟩
  rw [lane_comeBack w n rest sv len ⟨l, hl⟩]
  exact hold

/-- What a welt that has come back holds of what was saved (R424, R429). -/
theorem comeBack_fields (w : Welt) (n : Nat) (rest : List Nat) (sv : Saved) (len : Nat) :
    let r := w.comeBack n rest sv len
    r.serial = sv.serial.bind (·.without sv.x) ∧ r.colls = sv.colls ∧ r.level = field (w.trap n).tsw 12 2 ∧
      r.inHandler = rest ∧ r.stepping = (w.trap n).tsw.getLsbD 11 := by
  simp only [Welt.comeBack, field, and_self]

theorem endReplay_rest (w : Welt) : { w.endReplay with replay := w.replay, traps := w.traps } = w := by
  unfold Welt.endReplay
  split <;> rfl

/-- The registers that coming back leaves alone. -/
theorem comeBack_registers (w : Welt) (n : Nat) (rest : List Nat) (sv : Saved) (len : Nat) :
    let r := w.comeBack n rest sv len
    r.w = w.w ∧ r.wfull = w.wfull ∧ r.wbad = w.wbad ∧ r.m = w.m ∧ r.handles = w.handles ∧ r.fpctl = w.fpctl ∧
      r.nanrec = w.nanrec ∧ r.skivestat = w.skivestat ∧ r.traps = w.endReplay.traps := by
  have rest := endReplay_rest w
  simp only [Welt.comeBack]
  exact ⟨(congrArg Welt.w rest :), (congrArg Welt.wfull rest :), (congrArg Welt.wbad rest :), (congrArg Welt.m rest :),
    (congrArg Welt.handles rest :), (congrArg Welt.fpctl rest :), (congrArg Welt.nanrec rest :),
    (congrArg Welt.skivestat rest :), trivial⟩

/-- The device around a welt that has come back: only its own record, its core and what is due have changed. -/
theorem cameBack_eq (s : State) (n : Nat) (rest : List Nat) (sv : Saved) (len : Nat) : ∃ held agenda,
    s.cameBack n rest sv len = { (s.setCw { (s.cw.comeBack n rest sv len).backWith s.cw.halt held with
      readyAt := some s.now }).noteIssue s.cg.core s.cw.slice with agenda := agenda } := by
  unfold State.cameBack
  dsimp only
  split
  · exact ⟨_, _, rfl⟩
  · exact ⟨_, _, rfl⟩

end

/-! ### Collectives that can complete (R31) -/

theorem checkHeld_of_whole {s : State} {i : Nat} (named : ∀ c ∈ (s.weltAt i).colls, c.wait = .none → c.arrived ≠ 0 →
      c.members &&& (s.weltAt i).exited = 0) (met : (s.weltAt i).mismatched = none) : s.checkHeld i = s := by
  have found : ((s.weltAt i).colls.find? fun c =>
      c.wait == .none && c.arrived != 0 && c.members &&& (s.weltAt i).exited != 0) = none := by
    refine List.find?_eq_none.2 fun c hc hit => ?_
    simp only [Bool.and_eq_true, beq_iff_eq, bne_iff_ne] at hit
    exact hit.2 (named c hc hit.1.1 hit.1.2)
  unfold State.checkHeld
  simp only [found, met]

theorem mismatched_of_none_held {w : Welt} (h : ∀ c ∈ w.colls, c.wait ≠ .none ∨ c.arrived = 0) : w.mismatched = none := by
  have held : (w.colls.filter fun c => c.wait == .none && c.arrived != 0) = [] := by
    refine List.filter_eq_nil_iff.2 fun c hc hit => ?_
    simp only [Bool.and_eq_true, beq_iff_eq, bne_iff_ne] at hit
    exact (h c hc).elim (fun g => g hit.1) hit.2
  unfold Welt.mismatched
  rw [held]
  split <;> rfl

/-! ### TRET (R429) -/

/-- The welt that has come back, in full. -/
theorem cw_cameBack {s : State} (h : issuing s) (n : Nat) (rest : List Nat) (sv : Saved) (len : Nat) : ∃ held,
    (s.cameBack n rest sv len).cw =
      { (s.cw.comeBack n rest sv len).backWith s.cw.halt held with readyAt := some s.now } := by
  obtain ⟨held, agenda, e⟩ := cameBack_eq s n rest sv len
  rw [e]
  exact ⟨held, cw_setCw s _ h⟩

/-- A field of the welt that has come back which no halt touches. -/
theorem cameBack_field {γ : Type} (g : Welt → γ) {s : State} (h : issuing s) (n : Nat) (rest : List Nat) (sv : Saved)
    (len : Nat) (hg : ∀ w traps halt wait wantSince wantPrice readyAt, g { w with
      traps := traps, halt := halt, wait := wait, wantSince := wantSince, wantPrice := wantPrice
      readyAt := readyAt } = g w := by intros; rfl) :
    g (s.cameBack n rest sv len).cw = g (s.cw.comeBack n rest sv len) := by
  obtain ⟨held, e⟩ := cw_cameBack h n rest sv len
  let w := s.cw.comeBack n rest sv len
  let u := w.backWith s.cw.halt held
  rw [e]
  calc g { u with readyAt := some s.now } = g u := hg u u.traps u.halt u.wait u.wantSince u.wantPrice (some s.now)
    _ = g { u with traps := w.traps, halt := w.halt, wait := w.wait, wantSince := w.wantSince, wantPrice := w.wantPrice } :=
      (hg u w.traps w.halt w.wait w.wantSince w.wantPrice u.readyAt).symm
    _ = g w := by rw [backWith_rest]

theorem endReplay_of_none {w : Welt} (h : w.replay = none) : w.endReplay = w := by
  rw [Welt.endReplay, h]

theorem traps_backWith_none (w : Welt) (held : Bool) : (w.backWith .none held).traps = w.traps := rfl

/-- The trap registers of a welt that has come back with no halt and no replay over are those that it had. -/
theorem traps_cameBack {s : State} (h : issuing s) (n : Nat) (rest : List Nat) (sv : Saved) (len : Nat)
    (replay : s.cw.replay = none) (halt : s.cw.halt = .none) : (s.cameBack n rest sv len).cw.traps = s.cw.traps := by
  obtain ⟨held, e⟩ := cw_cameBack h n rest sv len
  obtain ⟨-, -, -, -, -, -, -, -, traps⟩ := comeBack_registers s.cw n rest sv len
  have running : ((s.cw.comeBack n rest sv len).backWith s.cw.halt held).traps = (s.cw.comeBack n rest sv len).traps := by
    rw [halt, traps_backWith_none]
  rw [e]
  exact running.trans (traps.trans (congrArg Welt.traps (endReplay_of_none replay)))

theorem replay_comeBack {w : Welt} (n : Nat) (rest : List Nat) (sv : Saved) (len : Nat) (h : w.replay = none) :
    (w.comeBack n rest sv len).replay = if (w.trap n).restart.getLsbD 63 then some n else sv.replay := by
  have e : (w.comeBack n rest sv len).replay = if (w.endReplay.trap n).restart.getLsbD 63 then some n else sv.replay := by
    simp only [Welt.comeBack]
  rw [e, endReplay_of_none h]

theorem cur_cameBack (s : State) (n : Nat) (rest : List Nat) (sv : Saved) (len : Nat) :
    (s.cameBack n rest sv len).cur = s.cur ∧ (s.cameBack n rest sv len).welts.length = s.welts.length ∧
      (∀ i, i ≠ s.cur → (s.cameBack n rest sv len).weltAt i = s.weltAt i) ∧
      ∀ l, (s.cameBack n rest sv len).getByte l = s.getByte l := by
  obtain ⟨held, agenda, e⟩ := cameBack_eq s n rest sv len
  rw [e]
  exact ⟨rfl, by simp [State.noteIssue], fun i hi => weltAt_setCw_ne _ _ _ hi, getByte_congr rfl⟩

/-- A lane that the restored serial mode lets run is live (R27, R40). -/
theorem live_comeBack {w : Welt} {n : Nat} {rest : List Nat} {sv : Saved} {len l : Nat} (hl : l < 32)
    (hx : sv.x.getLsbD l = false) (hh : sv.h.getLsbD l = false)
    (runs : ∀ z, sv.serial.bind (·.without sv.x) = some z → z.running = l) :
    (w.comeBack n rest sv len).live.getLsbD l = true := by
  obtain ⟨serial, -⟩ := comeBack_fields w n rest sv len
  rw [live_getLsbD _ hl, x_comeBack _ _ _ _ _ hl, h_comeBack _ _ _ _ _ hl, hx, hh, serial]
  cases e : sv.serial.bind (·.without sv.x) with
  | none => rfl
  | some z => simp [runs z e]

/-- The collectives that have come back can complete: none of them names an exited lane, and one waits only beside a live
lane (R31). -/
theorem checkHeld_cameBack {s : State} (h : issuing s) (n : Nat) (rest : List Nat) (sv : Saved) (len : Nat)
    (named : ∀ c ∈ sv.colls, c.wait = .none → c.arrived ≠ 0 → c.members &&& sv.x = 0)
    (met : (∃ l < 32, sv.x.getLsbD l = false ∧ sv.h.getLsbD l = false ∧
      ∀ z, sv.serial.bind (·.without sv.x) = some z → z.running = l) ∨ ∀ c ∈ sv.colls, c.wait ≠ .none ∨ c.arrived = 0) :
    (s.cameBack n rest sv len).checkHeld s.cur = s.cameBack n rest sv len := by
  obtain ⟨-, colls, -⟩ := comeBack_fields s.cw n rest sv len
  have cw : (s.cameBack n rest sv len).weltAt s.cur = (s.cameBack n rest sv len).cw := by
    rw [State.cw, (cur_cameBack ..).1]
  have exited : (s.cw.comeBack n rest sv len).exited = sv.x := BitVec.eq_of_getLsbD_eq fun l hl => by
    rw [exited_getLsbD _ hl, x_comeBack _ _ _ _ _ hl]
  refine checkHeld_of_whole ?_ ?_
  · rw [cw, cameBack_field Welt.colls h, cameBack_field Welt.exited h,
      colls, exited]
    exact named
  · rw [cw, cameBack_field Welt.mismatched h]
    obtain ⟨l, hl, hx, hh, runs⟩ | free := met
    · exact mismatched_of_live (live_comeBack hl hx hh runs)
    · exact mismatched_of_none_held (by rw [colls]; exact free)

/-- What a welt that has come back differs in from the welt that it was: lanes, saved records, level and traps alone among
its registers. -/
theorem sameRegisters_cameBack {s : State} (h : issuing s) (n : Nat) (rest : List Nat) (sv : Saved) (len i : Nat) :
    let u := s.cameBack n rest sv len
    sameRegisters { s.weltAt i with lanes := (u.weltAt i).lanes, saved := (u.weltAt i).saved, level := (u.weltAt i).level
                                    traps := (u.weltAt i).traps } (u.weltAt i) := by
  intro u
  by_cases hi : i = s.cur
  · have cw : u.weltAt i = u.cw := by rw [hi, State.cw, (cur_cameBack ..).1]
    obtain ⟨w, wfull, wbad, m, handles, fpctl, nanrec, skivestat, -⟩ := comeBack_registers s.cw n rest sv len
    have own : s.weltAt i = s.cw := by rw [hi]; rfl
    rw [cw, own]
    exact ⟨rfl, (cameBack_field Welt.w h ..).trans w, (cameBack_field Welt.wfull h ..).trans wfull,
      (cameBack_field Welt.wbad h ..).trans wbad, (cameBack_field Welt.m h ..).trans m,
      (cameBack_field Welt.handles h ..).trans handles,
      (cameBack_field Welt.fpctl h ..).trans fpctl,
      (cameBack_field Welt.nanrec h ..).trans nanrec,
      (cameBack_field Welt.skivestat h ..).trans skivestat, rfl, rfl, rfl⟩
  · rw [(cur_cameBack ..).2.2.1 i hi]
    exact ⟨rfl, rfl, rfl, rfl, rfl, rfl, rfl, rfl, rfl, rfl, rfl, rfl⟩

/-- Settles O46: outside a handler and with a reserved bit set by the first branches of the return, the end by that of a
welt, and the rest by what the welt that has come back holds. -/
theorem trapReturns : Obligations.TrapReturns := by
  intro s h hi
  refine ⟨fun hn => ?_, ?_⟩
  · rw [exec_tret, execTret, issue_go _ _ _ _ _ hi]
    exact congrArg Host.Outcome.next (trapReturn_outside _ hn)
  intro n rest hn t
  refine ⟨fun reserved => ?_, ?_⟩
  · rw [exec_tret_issue hi hn, trapReturn_reserved _ hn ((tswReserved_iff _).2 reserved)]
  intro sv r1 r2 hs skips len serial
  have ok : tswReserved t.tsw = false := by
    rw [Bool.eq_false_iff, Ne, tswReserved_iff]
    simp [r1, r2]
  have run := (exec_tret_issue hi hn).trans (congrArg Host.Outcome.next (trapReturn_back len hn ok hs))
  obtain ⟨cur, count, welts, bytes⟩ := cur_cameBack s n rest sv len
  refine ⟨fun gone => ?_, fun ⟨l, hl, going⟩ named met => ?_⟩
  · have none_left : (s.cw.comeBack n rest sv len).living = 0 := (lanes_eq_zero_iff _).2 fun l hl => by
      rw [living_getLsbD _ hl, x_comeBack _ _ _ _ _ hl, gone l hl]
      rfl
    rw [if_pos none_left] at run
    exact ⟨_, run, ended_endWelt true (count.symm ▸ h)⟩
  · have some_left : (s.cw.comeBack n rest sv len).living ≠ 0 := (lanes_ne_zero_iff _).2 ⟨l, hl, by
      rw [living_getLsbD _ hl, x_comeBack _ _ _ _ _ hl, going]
      rfl⟩
    rw [if_neg some_left, checkHeld_cameBack h n rest sv len named met] at run
    obtain ⟨serial', colls, level, inHandler, stepping⟩ := comeBack_fields s.cw n rest sv len
    obtain ⟨w, -, -, m, handles, fpctl, -⟩ := comeBack_registers s.cw n rest sv len
    refine ⟨_, run, bytes, (cameBack_field Welt.level h ..).trans level,
      (cameBack_field Welt.inHandler h ..).trans inHandler,
      (cameBack_field Welt.serial h ..).trans serial',
      (cameBack_field Welt.colls h ..).trans colls,
      (cameBack_field Welt.stepping h ..).trans stepping,
      (cameBack_field Welt.w h ..).trans w, (cameBack_field Welt.m h ..).trans m,
      (cameBack_field Welt.fpctl h ..).trans fpctl,
      (cameBack_field Welt.handles h ..).trans handles, sameRegisters_cameBack h n rest sv len,
      fun replay => ⟨traps_cameBack h n rest sv len replay,
        (cameBack_field Welt.replay h ..).trans (replay_comeBack n rest sv len replay)⟩,
      fun i hi => ?_, fun l => ?_⟩
    · rw [welts i hi]
      exact ⟨rfl, rfl, rfl, rfl⟩
    · have lane : (s.cameBack n rest sv len).cw.lane l = (s.cw.lane l).comeBack sv (t.skip len) l :=
        (cameBack_field (fun w : Welt => w.lane l) h ..).trans (lane_comeBack ..)
      rw [lane]
      exact comeBack_key ..

end Sys2Proof.Machine

/-!
Traps that are taken (R37, R96, R417-R421, R424, R429, R437): halts sent to siblings, the entry into a handler, the
level of a trap, ILLEGAL in a stitch, and O45.
-/

namespace Sys2Proof.Machine

open Safety Claims

/-! ### Halts sent to siblings (R425) -/

theorem weltAt_haltWelt_ne (s : State) (k : HaltKind) {i j : Nat} (h : i ≠ j) :
    (s.haltWelt k i).weltAt j = s.weltAt j := by
  rcases haltWelt_cases s k i with ⟨-, e⟩ | ⟨y, -, e⟩ <;> rw [e]
  exact (weltAt_setWeltAt s i j _).trans (if_neg fun c => h c.1)

/-- A welt that has left its stitch, whatever stitches remain. -/
theorem stitchOf_splitStitch (s : State) (i : Nat) : (s.splitStitch i).stitchOf i = none :=
  List.find?_eq_none.2 fun x hx hit => by
    have kept := (List.mem_filter.1 hx).2
    rw [hit] at kept
    exact nomatch kept

/-- Splitting a stitch puts no welt into one. -/
theorem stitchOf_splitStitch_none {s : State} {i j : Nat} (h : s.stitchOf j = none) :
    (s.splitStitch i).stitchOf j = none :=
  List.find?_eq_none.2 fun x hx => List.find?_eq_none.1 h x (List.mem_filter.1 hx).1

/-- A welt that is told to stop for a trap of a sibling, and runs no handler, is halted; if it had no halt yet its
stitch is split. -/
theorem haltWelt_sibling {s : State} {n i : Nat} (hi : i < s.welts.length) (he : (s.weltAt i).ended = false)
    (hh : (s.weltAt i).inHandler = []) : ((s.haltWelt (.sibling n) i).weltAt i).halt ≠ .none ∧
      ((s.weltAt i).halt = .none → (s.haltWelt (.sibling n) i).stitchOf i = none) := by
  rcases haltWelt_cases s (.sibling n) i with ⟨ig, e⟩ | ⟨h, hn, e⟩
  · have stopped : (s.weltAt i).halt = .stopped := by simpa [Welt.ignores, he, hh] using ig
    rw [e, stopped]
    exact ⟨nofun, nofun⟩
  · have at_ : (s.haltWelt (.sibling n) i).weltAt i = _ :=
      (congrArg (State.weltAt · i) e).trans ((weltAt_setWeltAt s i i _).trans (if_pos ⟨rfl, hi⟩))
    refine ⟨by rw [at_]; exact hn, fun _ => ?_⟩
    rw [e]
    exact stitchOf_splitStitch (s.setWeltAt i { s.weltAt i with halt := h }) i

/-- A welt that stands in no stitch is not put into one by a halt. -/
theorem stitchOf_haltWelt {s : State} {k : HaltKind} {i j : Nat} (h : s.stitchOf j = none) :
    (s.haltWelt k i).stitchOf j = none := by
  rcases haltWelt_cases s k i with ⟨-, e⟩ | ⟨y, -, e⟩ <;> rw [e]
  · exact h
  · exact stitchOf_splitStitch_none (s := s.setWeltAt i _) h

theorem cur_haltWelt (s : State) (k : HaltKind) (i : Nat) : (s.haltWelt k i).cur = s.cur := by
  rcases haltWelt_cases s k i with ⟨-, e⟩ | ⟨y, -, e⟩ <;> rw [e]
  rfl

theorem getByte_haltWelt (s : State) (k : HaltKind) (i : Nat) (l : Loc) : (s.haltWelt k i).getByte l = s.getByte l := by
  rcases haltWelt_cases s k i with ⟨-, e⟩ | ⟨y, -, e⟩ <;> rw [e]
  exact getByte_setWeltAt s i { s.weltAt i with halt := y } l

/-- The siblings of a welt told to stop for its trap at level `n`. -/
def State.haltSiblings (s : State) (n : Nat) (is : List Nat) : State :=
  is.foldl (fun s k => s.haltWelt (.sibling n) k) s

/-- The halts of siblings change of every welt the halt alone, and of a welt that is no such sibling nothing. -/
theorem weltAt_haltSiblings (s : State) (n : Nat) (is : List Nat) (j : Nat) :
    (∃ h, (s.haltSiblings n is).weltAt j = { s.weltAt j with halt := h }) ∧
      (j ∉ is → (s.haltSiblings n is).weltAt j = s.weltAt j) := by
  induction is generalizing s with
  | nil => exact ⟨⟨_, rfl⟩, fun _ => rfl⟩
  | cons i is ih =>
    obtain ⟨⟨h, e⟩, same⟩ := ih (s.haltWelt (.sibling n) i)
    obtain ⟨g, -, f⟩ := weltAt_haltWelt s (.sibling n) i j
    refine ⟨⟨h, e.trans (by rw [f])⟩, fun hj => ?_⟩
    simp only [List.mem_cons, not_or] at hj
    exact (same hj.2).trans (weltAt_haltWelt_ne s _ (Ne.symm hj.1))

/-- Halts of siblings put no welt into a stitch, and change no byte and not whose turn it is. -/
theorem haltSiblings_rest (s : State) (n : Nat) (is : List Nat) :
    (∀ j, s.stitchOf j = none → (s.haltSiblings n is).stitchOf j = none) ∧
      (s.haltSiblings n is).cur = s.cur ∧ ∀ l, (s.haltSiblings n is).getByte l = s.getByte l := by
  induction is generalizing s with
  | nil => exact ⟨fun _ h => h, rfl, fun _ => rfl⟩
  | cons i is ih =>
    obtain ⟨stitch, turn, bytes⟩ := ih (s.haltWelt (.sibling n) i)
    exact ⟨fun j h => stitch j (stitchOf_haltWelt h), turn.trans (cur_haltWelt ..),
      fun l => (bytes l).trans (getByte_haltWelt ..)⟩

/-- A welt among the siblings that runs no handler is halted, and if it had no halt yet it is in no stitch any more. -/
theorem halted_haltSiblings {s : State} {n j : Nat} {is : List Nat} (hj : j < s.welts.length)
    (he : (s.weltAt j).ended = false) (hh : (s.weltAt j).inHandler = []) :
    (j ∈ is ∨ (s.weltAt j).halt ≠ .none → ((s.haltSiblings n is).weltAt j).halt ≠ .none) ∧
      (j ∈ is → (s.weltAt j).halt = .none → (s.haltSiblings n is).stitchOf j = none) := by
  induction is generalizing s with
  | nil => exact ⟨fun h => h.resolve_left (by simp), fun h => by simp at h⟩
  | cons i is ih =>
    obtain ⟨g, kept, f⟩ := weltAt_haltWelt s (.sibling n) i j
    obtain ⟨halted, split⟩ := ih (s := s.haltWelt (.sibling n) i) (by rwa [length_haltWelt]) (by rw [f]; exact he)
      (by rw [f]; exact hh)
    by_cases eq : j = i
    · subst eq
      obtain ⟨now, out⟩ := haltWelt_sibling (n := n) hj he hh
      exact ⟨fun _ => halted (.inr now), fun _ hn => (haltSiblings_rest _ n is).1 j (out hn)⟩
    · have same := weltAt_haltWelt_ne s (.sibling n) (Ne.symm eq)
      rw [same] at halted split
      refine ⟨fun h => halted (h.imp_left fun m => (List.mem_cons.1 m).resolve_left eq),
        fun m => split ((List.mem_cons.1 m).resolve_left eq)⟩

/-! ### The entry into a handler (R421) -/

/-- The halts that a handler of level `n` does not ignore write no record at its level. -/
theorem trap_stop_entered {w : Welt} {h : Halt} {n : Nat} (e : w.halt = h.inHandler n) : w.stop.trap n = w.trap n := by
  unfold Welt.stop
  split
  · rename_i hs hc
    have above : ∀ r ∈ hs, r.kind ≠ .sibling n := by
      intro r hr hk
      rw [e] at hc
      unfold Halt.inHandler at hc
      split at hc
      · dsimp only at hc
        split at hc
        · cases hc
        · obtain rfl := Halt.coming.inj hc
          have := (List.mem_filter.1 hr).2
          simp [hk] at this
      · rename_i no
        exact no hs hc
    exact List.foldlRecOn hs Welt.record (motive := fun x : Welt => x.trap n = w.trap n) rfl fun x hx r hr =>
      (trap_record_other x (above r hr)).trans hx
  · rfl

/-- A bit of a word laid out as a number. -/
theorem getLsbD_ofNat_div {n k : Nat} (h : k < 64) : (BitVec.ofNat 64 n).getLsbD k = decide (n / 2 ^ k % 2 = 1) := by
  rw [BitVec.getLsbD_ofNat, Nat.testBit_eq_decide_div_mod_eq, decide_eq_true h, Bool.true_and]

/-- A field of a word laid out as a number. -/
theorem field_ofNat {n lo k : Nat} (h : lo + k ≤ 64) : field (BitVec.ofNat 64 n) lo k = n / 2 ^ lo % 2 ^ k := by
  rw [field, BitVec.extractLsb'_toNat, BitVec.toNat_ofNat, Nat.shiftRight_eq_div_pow]
  obtain ⟨m, hm⟩ := Nat.exists_eq_add_of_le h
  rw [hm, Nat.pow_add, Nat.pow_add, Nat.mul_assoc, Nat.mod_mul_right_div_self, Nat.mod_mul_right_mod]

/-- A status word laid out from its fields (R424). -/
theorem tsw_layout {d r z p a b c e : Nat} (hd : d < 64) (hr : r < 32) (hz : z < 2) (hp : p < 4) (ha : a < 2)
    (hb : b < 2) (hc : c < 2) (he : e < 2) :
    let t := BitVec.ofNat 64
      (d * 2 ^ 20 + r * 2 ^ 15 + z * 2 ^ 14 + p * 2 ^ 12 + a * 2 ^ 10 + b * 2 ^ 9 + c * 2 ^ 8 + e * 2 ^ 7)
    field t 20 6 = d ∧ field t 12 2 = p ∧ t.getLsbD 14 = decide (z = 1) ∧ t.getLsbD 10 = decide (a = 1) ∧
      t.getLsbD 9 = decide (b = 1) ∧ t.getLsbD 8 = decide (c = 1) ∧ t.getLsbD 7 = decide (e = 1) := by
  intro t
  refine ⟨(field_ofNat (by decide)).trans ?_, (field_ofNat (by decide)).trans ?_,
    (getLsbD_ofNat_div (by decide)).trans ?_, (getLsbD_ofNat_div (by decide)).trans ?_,
    (getLsbD_ofNat_div (by decide)).trans ?_, (getLsbD_ofNat_div (by decide)).trans ?_,
    (getLsbD_ofNat_div (by decide)).trans ?_⟩ <;>
    norm_num only [decide_eq_decide] <;> clear t <;> omega

theorem tswOf_layout (d : BitVec 6) (z : Option Serial) (level : Nat) (sk hdr st : Bool) :
    tswOf d z level sk false hdr st = BitVec.ofNat 64 (d.toNat * 2 ^ 20 + (z.elim 0 (·.running)) * 2 ^ 15 +
      z.isSome.toNat * 2 ^ 14 + level * 2 ^ 12 + sk.toNat * 2 ^ 10 + 0 * 2 ^ 9 + hdr.toNat * 2 ^ 8 +
      st.toNat * 2 ^ 7) := by
  have flag (b : Bool) (k : Nat) : (if b then k else 0) = b.toNat * k := by cases b <;> simp
  cases z <;> simp [tswOf, flag, Nat.add_assoc]

/-- What the status word of a trap holds (R424). -/
theorem tswOf_fields (d : BitVec 6) {z : Option Serial} {level : Nat} (sk hdr st : Bool) (hl : level ≤ 2)
    (hz : ∀ q, z = some q → q.running < 32) :
    let t := tswOf d z level sk false hdr st
    field t 20 6 = d.toNat ∧ field t 12 2 = level ∧ t.getLsbD 14 = z.isSome ∧ t.getLsbD 10 = sk ∧
      t.getLsbD 9 = false ∧ t.getLsbD 8 = hdr ∧ t.getLsbD 7 = st := by
  have running : z.elim 0 (·.running) < 32 := by
    cases z with
    | none => decide
    | some q => exact hz q rfl
  have bit (b : Bool) : b.toNat < 2 ∧ decide (b.toNat = 1) = b := by cases b <;> decide
  have := tsw_layout d.isLt running (bit z.isSome).1 (by omega : level < 4) (bit sk).1 (by decide : 0 < 2) (bit hdr).1
    (bit st).1
  rwa [← tswOf_layout, (bit _).2, (bit _).2, (bit _).2, (bit _).2] at this

/-- ST stands below every number of the status word (R424). -/
theorem tswOf_stitched (d : BitVec 6) (z : Option Serial) (level : Nat) (sk hdr : Bool) :
    (tswOf d z level sk false hdr true).getLsbD 7 = true := by
  rw [tswOf_layout, getLsbD_ofNat_div (by decide), decide_eq_true_iff]
  norm_num only [Bool.toNat_true]
  omega

theorem tvecAddr_toNat (t : W64) : (tvecAddr t).toNat = t.toNat % 2 ^ 48 / 4 * 4 := by
  have e : (tvecAddr t).toNat = t.toNat / 4 % 2 ^ 46 * 4 := by
    rw [tvecAddr, BitVec.toNat_append, BitVec.extractLsb'_toNat, Nat.shiftRight_eq_div_pow]
    simp [Nat.shiftLeft_eq]
  omega

theorem lane_toList {w : Welt} {l : Nat} (h : l < 32) : w.lane l = w.lanes[l] := lane_getElem w ⟨l, h⟩

/-- A welt that has entered its handler, once the halts that it does not ignore have stopped it (R421, R425). -/
def Welt.entered (w : Welt) (n : Nat) (t : TrapInfo) (cycles : W64) (st : Bool) : Welt := (w.enter n t cycles st).stop

/-- The record of a trap in its handler (R421 to R424). -/
theorem trap_entered (w : Welt) {n : Nat} (t : TrapInfo) (cycles : W64) (st : Bool) (hn : n ≤ 2) :
    (w.entered n t cycles st).trap n = { w.trap n with
      tcause := BitVec.ofNat 64 (t.addr.toNat * 2 ^ 12 + t.kind * 2 ^ 8 + t.cause.code.toNat)
      tlanes := t.lanes.setWidth 64
      tpcv := t.pc.setWidth 64
      tsw := tswOf (t.depth.getD w.nextLane.depth) w.serial w.level t.sk false t.hdr st
      skid := cycles &&& 0x00FFFFFFFFFFFFFF#64
      restart := t.restart.getD (w.trap n).restart } :=
  (trap_stop_entered (h := w.halt) (n := n) rfl).trans ((getD_setIfInBounds ..).trans (if_pos ⟨rfl, by omega⟩))

/-- What else a handler finds: its level, the saved state, nothing awaited, and every register. -/
theorem entered_rest (w : Welt) {n : Nat} (t : TrapInfo) (cycles : W64) (st : Bool) (hn : n ≤ 2) :
    let u := w.entered n t cycles st
    (u.level = n ∧ u.inHandler = n :: w.inHandler) ∧ u.saved.toList.getD n none = some w.save ∧
      (u.w = w.w ∧ u.wfull = w.wfull ∧ u.wbad = w.wbad ∧ u.m = w.m ∧ u.fpctl = w.fpctl ∧ u.handles = w.handles ∧
        u.serial = none ∧ u.colls = []) ∧
      ∀ l < 32, u.lane l = if (w.lane l).x then w.lane l else { w.lane l with
        h := false, depth := 0, pc := tvecAddr (w.trap n).tvec, pos := .start, seg := tvecAddr (w.trap n).tvec } := by
  intro u
  have rest := (w.enter n t cycles st).stop_rest
  have lanes : u.lanes = _ := (congrArg Welt.lanes rest :)
  have saved : u.saved = _ := (congrArg Welt.saved rest :)
  refine ⟨⟨(congrArg Welt.level rest :), (congrArg Welt.inHandler rest :)⟩, ?_,
    ⟨(congrArg Welt.w rest :), (congrArg Welt.wfull rest :), (congrArg Welt.wbad rest :), (congrArg Welt.m rest :),
      (congrArg Welt.fpctl rest :), (congrArg Welt.handles rest :), (congrArg Welt.serial rest :),
      (congrArg Welt.colls rest :)⟩, fun l hl => ?_⟩
  · rw [saved]
    exact (getD_setIfInBounds ..).trans (if_pos ⟨rfl, by omega⟩)
  · rw [lane_toList hl, lane_toList hl]
    simp only [lanes, Welt.enter, Vector.getElem_map]

/-! ### The level of a trap (R419) -/

/-- A trap is taken at the first level that it is sent to, where that level's handler can be entered. -/
theorem takeLevel_of_enabled {s : State} {w : Welt} {n fuel : Nat} (hn : n ≤ 2) (en : tvecEn (w.trap n).tvec = true)
    (seg : s.segmentAt w n (tvecAddr (w.trap n).tvec) = true) : s.takeLevel w (fuel + 1) n = some n := by
  rw [State.takeLevel, if_neg (by omega), if_pos (by rw [en, seg]; rfl)]

/-- In a handler a trap goes one level up. -/
theorem firstLevel_in_handler {w : Welt} {k : Nat} {rest : List Nat} (t : TrapInfo) (h : w.inHandler = k :: rest) :
    firstLevel w t = k + 1 := by
  simp [firstLevel, h]

/-- The causes that a user handler may take where it is enabled (R419). -/
def goesToUser (c : Cause) : Prop :=
  c ∉ [Cause.page, .stackGrow, .memoryError, .hang, .tretState, .brk, .step]

theorem firstLevel_ordinary {w : Welt} {t : TrapInfo} (h : w.inHandler = []) (hl : w.level = 0) (hs : t.sup = false)
    (hc : goesToUser t.cause) : firstLevel w t = if (w.trap 0).tvec.getLsbD 0 then 0 else 1 := by
  unfold firstLevel
  simp only [h, hl, hs, ne_eq, not_true, if_false, Bool.false_eq_true]
  split
  case h_8 => rfl
  all_goals
    rename_i e
    simp [goesToUser, e] at hc

theorem firstLevel_supervisor {w : Welt} {t : TrapInfo} (h : w.inHandler = []) (hl : w.level = 0) (hs : t.sup = true) :
    firstLevel w t = 1 := by
  simp [firstLevel, h, hl, hs]

theorem firstLevel_break {w : Welt} {t : TrapInfo} (h : w.inHandler = []) (hl : w.level = 0) (hs : t.sup = false)
    (hc : t.cause = .brk) :
    firstLevel w t = if (w.trap 0).tvec.getLsbD 0 && !((w.trap 0).tvec.getLsbD 1) then 0 else 1 := by
  simp [firstLevel, h, hl, hs, hc, tvecEn]

/-! ### What a trap finds (R27, R96) -/

/-- Welt `i` of `s0` is that of `s` where a trap of it is raised: its V may be clear, and its lanes may have another
place in the clause; it issues, and everything else is as in `s`. -/
structure Poised (s s0 : State) (i : Nat) : Prop where
  rest : { s0 with welts := s.welts, cur := s.cur } = s
  count : s0.welts.length = s.welts.length
  others : ∀ j, j ≠ i → s0.weltAt j = s.weltAt j
  turn : s0.cur = i
  own : { s0.weltAt i with
    lanes := (s.weltAt i).lanes, traps := (s.weltAt i).traps, replay := (s.weltAt i).replay } = s.weltAt i
  tvec : ∀ n, ((s0.weltAt i).trap n).tvec = ((s.weltAt i).trap n).tvec
  lanes : ∀ l < 32, { (s0.weltAt i).lane l with
    pos := ((s.weltAt i).lane l).pos, seg := ((s.weltAt i).lane l).seg } = (s.weltAt i).lane l

/-- The least-key lane depends on the live lanes and their keys. -/
theorem leader_of_keys {w u : Welt} (hl : u.live = w.live) (hk : ∀ l < 32, (u.lane l).key = (w.lane l).key) :
    u.leader = w.leader ∧ u.A = w.A := by
  have key (i : Fin 32) : u.lanes[i].key = w.lanes[i].key := by
    rw [← lane_getElem, ← lane_getElem]
    exact hk i i.isLt
  have leader : u.leader = w.leader := by
    simp only [Welt.leader, hl, key]
  refine ⟨leader, ?_⟩
  simp only [Welt.A, leader, hl, key]

theorem live_of_keys {w u : Welt} (hs : u.serial = w.serial) (hx : ∀ l < 32, (u.lane l).x = (w.lane l).x)
    (hh : ∀ l < 32, (u.lane l).h = (w.lane l).h) : u.live = w.live := by
  refine BitVec.eq_of_getLsbD_eq fun l hl => ?_
  rw [live_getLsbD u hl, live_getLsbD w hl, hs, hx l hl, hh l hl]

section
variable {s s0 : State} {i : Nat} (p : Poised s s0 i)
include p

theorem Poised.lane_fields {l : Nat} (h : l < 32) : ((s0.weltAt i).lane l).x = ((s.weltAt i).lane l).x ∧
    ((s0.weltAt i).lane l).h = ((s.weltAt i).lane l).h ∧ ((s0.weltAt i).lane l).depth = ((s.weltAt i).lane l).depth ∧
    ((s0.weltAt i).lane l).pc = ((s.weltAt i).lane l).pc ∧ ((s0.weltAt i).lane l).v = ((s.weltAt i).lane l).v ∧
    ((s0.weltAt i).lane l).full = ((s.weltAt i).lane l).full ∧
    ((s0.weltAt i).lane l).bad = ((s.weltAt i).lane l).bad := by
  have e := p.lanes l h
  exact ⟨(congrArg Lane.x e :), (congrArg Lane.h e :), (congrArg Lane.depth e :), (congrArg Lane.pc e :),
    (congrArg Lane.v e :), (congrArg Lane.full e :), (congrArg Lane.bad e :)⟩

/-- The same lanes issue, at the same place. -/
theorem Poised.issue : (s0.weltAt i).A = (s.weltAt i).A ∧ (s0.weltAt i).lead.depth = (s.weltAt i).lead.depth ∧
    (s0.weltAt i).pc = (s.weltAt i).pc := by
  have serial : (s0.weltAt i).serial = (s.weltAt i).serial := (congrArg Welt.serial p.own :)
  have live := live_of_keys serial (fun l h => (p.lane_fields h).1) fun l h => (p.lane_fields h).2.1
  obtain ⟨leader, A⟩ := leader_of_keys live fun l h => by
    obtain ⟨-, -, depth, pc, -⟩ := p.lane_fields h
    rw [Lane.key, Lane.key, depth, pc]
  refine ⟨A, ?_⟩
  rw [Welt.pc, Welt.pc, Welt.lead, Welt.lead, leader]
  cases h : (s.weltAt i).leader with
  | none => exact ⟨rfl, rfl⟩
  | some b =>
    obtain ⟨-, -, depth, pc, -⟩ := p.lane_fields b.isLt
    rw [lane_getElem, lane_getElem] at depth pc
    exact ⟨depth, pc⟩

/-- The registers that no trap touches are as they were. -/
theorem Poised.registers : (s0.weltAt i).w = (s.weltAt i).w ∧ (s0.weltAt i).wfull = (s.weltAt i).wfull ∧
    (s0.weltAt i).wbad = (s.weltAt i).wbad ∧ (s0.weltAt i).m = (s.weltAt i).m ∧
    (s0.weltAt i).fpctl = (s.weltAt i).fpctl ∧ (s0.weltAt i).handles = (s.weltAt i).handles :=
  have own := p.own
  ⟨(congrArg Welt.w own :), (congrArg Welt.wfull own :), (congrArg Welt.wbad own :), (congrArg Welt.m own :),
    (congrArg Welt.fpctl own :), (congrArg Welt.handles own :)⟩

theorem Poised.state : (s0.weltAt i).wg = (s.weltAt i).wg ∧ (s0.weltAt i).code = (s.weltAt i).code ∧
    (s0.weltAt i).inHandler = (s.weltAt i).inHandler ∧ (s0.weltAt i).level = (s.weltAt i).level ∧
    (s0.weltAt i).serial = (s.weltAt i).serial ∧ (s0.weltAt i).colls = (s.weltAt i).colls :=
  have own := p.own
  ⟨(congrArg Welt.wg own :), (congrArg Welt.code own :), (congrArg Welt.inHandler own :), (congrArg Welt.level own :),
    (congrArg Welt.serial own :), (congrArg Welt.colls own :)⟩

theorem Poised.wgs : s0.wgs = s.wgs := (congrArg State.wgs p.rest :)

theorem Poised.stitchOf (j : Nat) : s0.stitchOf j = s.stitchOf j := by
  have : s0.stitches = s.stitches := (congrArg State.stitches p.rest :)
  rw [State.stitchOf, State.stitchOf, this]

theorem Poised.getByte (l : Loc) : s0.getByte l = s.getByte l := by
  rw [← p.rest]
  cases l <;> rfl

theorem Poised.segmentAt (n : Nat) (a : Pc) : s0.segmentAt (s0.weltAt i) n a = s.segmentAt (s.weltAt i) n a := by
  obtain ⟨wg, code, -⟩ := p.state
  have fetch (w : Welt) : s0.fetchWord w n a = s.fetchWord w n a := by
    rw [← p.rest]
    rfl
  have own : s.fetchWord (s0.weltAt i) n a = s.fetchWord (s.weltAt i) n a := by
    rw [State.fetchWord, State.fetchWord, wg, code]
  rw [State.segmentAt, State.segmentAt, fetch, own]

end

/-! ### A trap that is taken (R419, R421, R425) -/

/-- From `s` to `u` welt `i` has entered its handler at level `n` for `t`, and its running siblings are being
stopped. -/
structure Took (s u : State) (i n : Nat) (t : TrapInfo) : Prop where
  own : ∃ cycles, u.weltAt i = (s.weltAt i).entered n t cycles (s.stitchOf i).isSome
  stitch : u.stitchOf i = none
  bytes : ∀ l, u.getByte l = s.getByte l
  turn : u.cur = s.cur
  others : ∀ j, j ≠ i → sameRegisters { s.weltAt j with traps := (u.weltAt j).traps } (u.weltAt j) ∧
    ((u.weltAt j).traps = (s.weltAt j).traps ∨ (u.weltAt j).halt = .stopped)
  siblings : ∀ j, j ≠ i → j < s.welts.length → (s.weltAt j).wg = (s.weltAt i).wg → (s.weltAt j).ended = false →
    (s.weltAt j).inHandler = [] →
    (u.weltAt j).halt ≠ .none ∧ ((s.weltAt j).halt = .none → u.stitchOf j = none)

/-- A welt replaced, its lease given up and its stitch left. -/
def State.seatHandler (s : State) (i : Nat) (w : Welt) : State := ((s.endLease i).setWeltAt i w).splitStitch i

theorem uncached_endLease (s : State) (i : Nat) : ∃ w, (s.endLease i).uncached = (s.setWeltAt i w).uncached := by
  unfold State.endLease
  split
  · exact ⟨_, foldl_keeps (f := State.recallLine) State.uncached (fun t k => uncached_recallLine t k) _ _⟩
  · exact ⟨s.weltAt i, by rw [setWeltAt_self]⟩

theorem seatHandler_rest (s : State) (i : Nat) (w : Welt) : (s.seatHandler i w).welts.length = s.welts.length ∧
    (s.seatHandler i w).cur = s.cur ∧ (∀ l, (s.seatHandler i w).getByte l = s.getByte l) ∧
    (s.seatHandler i w).stitchOf i = none ∧
    ∀ j, (s.seatHandler i w).weltAt j = if i = j ∧ j < s.welts.length then w else s.weltAt j := by
  obtain ⟨x, e⟩ := uncached_endLease s i
  have count : (s.endLease i).welts.length = s.welts.length := (count_of_uncached e).trans (length_setWeltAt ..)
  refine ⟨(length_setWeltAt ..).trans count, (congrArg State.cur e :), fun l => ?_, stitchOf_splitStitch ..,
    fun j => ?_⟩
  · exact ((getByte_setWeltAt (s.endLease i) i w l).trans (getByte_of_uncached e l)).trans (getByte_setWeltAt s i x l)
  · refine (weltAt_setWeltAt (s.endLease i) i j w).trans ?_
    rw [count]
    split
    · rfl
    · rename_i no
      exact (weltAt_of_uncached e j).trans ((weltAt_setWeltAt s i j x).trans (if_neg no))

/-- Welt `i` in its handler of level `n`, its siblings told to stop (R421, R425). -/
def State.takeTrap (s : State) (i n : Nat) (t : TrapInfo) : State :=
  let w := s.weltAt i
  let u := s.seatHandler i (w.entered n t (s.cyclesOf (s.wgAt w.wg).core) (s.stitchOf i).isSome)
  u.haltSiblings n ((u.weltsOf w.wg).filter fun k => k != i)

theorem raiseIn_eq {s : State} {i n : Nat} {t : TrapInfo} (alive : (s.wgAt (s.weltAt i).wg).killed = false)
    (level : s.takeLevel (s.weltAt i) 4 (firstLevel (s.weltAt i) t) = some n) :
    s.raiseIn i t = if 1 ≤ n then (s.takeTrap i n t).post (.coreStall (s.wgAt (s.weltAt i).wg).core)
      else s.takeTrap i n t := by
  unfold State.raiseIn
  dsimp only
  rw [if_neg (by rw [alive]; nofun), level]
  rfl

theorem took_takeTrap {s : State} {i n : Nat} {t : TrapInfo} (hi : i < s.welts.length) :
    Took s (s.takeTrap i n t) i n t := by
  obtain ⟨count, turn, bytes, stitch, welts⟩ := seatHandler_rest s i
    ((s.weltAt i).entered n t (s.cyclesOf (s.wgAt (s.weltAt i).wg).core) (s.stitchOf i).isSome)
  rw [State.takeTrap]
  generalize s.seatHandler i _ = u at *
  obtain ⟨stitches, turn', bytes'⟩ := haltSiblings_rest u n ((u.weltsOf (s.weltAt i).wg).filter fun k => k != i)
  have keeps := weltAt_haltSiblings u n ((u.weltsOf (s.weltAt i).wg).filter fun k => k != i)
  have other {j : Nat} (hj : j ≠ i) : u.weltAt j = s.weltAt j := (welts j).trans (if_neg fun c => hj c.1.symm)
  constructor
  case own => exact ⟨_, ((keeps i).2 (by simp)).trans ((welts i).trans (if_pos ⟨rfl, hi⟩))⟩
  case stitch => exact stitches i stitch
  case bytes => exact fun l => (bytes' l).trans (bytes l)
  case turn => exact turn'.trans turn
  case others =>
    intro j hj
    obtain ⟨h, e⟩ := (keeps j).1
    rw [e, other hj]
    exact ⟨⟨rfl, rfl, rfl, rfl, rfl, rfl, rfl, rfl, rfl, rfl, rfl, rfl⟩, .inl rfl⟩
  case siblings =>
    intro j hj hl hg he hh
    have mem : j ∈ (u.weltsOf (s.weltAt i).wg).filter fun k => k != i := by
      simp [State.weltsOf, count, hl, hj, other hj, hg]
    have same := other hj
    obtain ⟨halted, split⟩ := halted_haltSiblings (s := u) (n := n)
      (is := (u.weltsOf (s.weltAt i).wg).filter fun k => k != i) (by rwa [count]) (by rw [same]; exact he)
      (by rw [same]; exact hh)
    exact ⟨halted (.inl mem), fun hn => split mem (by rw [same]; exact hn)⟩

/-- A trap whose level is `n` is taken there. -/
theorem took_raiseIn {s : State} {i n : Nat} {t : TrapInfo} (hi : i < s.welts.length)
    (alive : (s.wgAt (s.weltAt i).wg).killed = false)
    (level : s.takeLevel (s.weltAt i) 4 (firstLevel (s.weltAt i) t) = some n) : Took s (s.raiseIn i t) i n t := by
  rw [raiseIn_eq alive level]
  have took := took_takeTrap (n := n) (t := t) hi
  split
  · obtain ⟨own, stitch, bytes, turn, others, siblings⟩ := took
    have posted (l : Loc) (k : Nat) :
        ((s.takeTrap i n t).post (.coreStall k)).getByte l = (s.takeTrap i n t).getByte l := by
      cases l <;> rfl
    exact ⟨own, stitch, fun l => (posted l _).trans (bytes l), turn, others, siblings⟩
  · exact took

/-- A stop changes nothing, or leaves the welt stopped. -/
theorem stop_cases (w : Welt) : w.stop = w ∨ w.stop.halt = .stopped := by
  unfold Welt.stop
  split
  · exact .inr rfl
  · exact .inl rfl

/-- Of the registers a stop touches the trap registers alone. -/
theorem sameRegisters_stop {w x : Welt} (h : sameRegisters { w with traps := x.traps } x) :
    sameRegisters { w with traps := x.stop.traps } x.stop := by
  obtain ⟨lanes, uni, wfull, wbad, masks, handles, fpctl, nanrec, skivestat, -, saved, level⟩ := h
  have rest := x.stop_rest
  exact ⟨(congrArg Welt.lanes rest :).trans lanes, (congrArg Welt.w rest :).trans uni,
    (congrArg Welt.wfull rest :).trans wfull, (congrArg Welt.wbad rest :).trans wbad,
    (congrArg Welt.m rest :).trans masks,
    (congrArg Welt.handles rest :).trans handles, (congrArg Welt.fpctl rest :).trans fpctl,
    (congrArg Welt.nanrec rest :).trans nanrec, (congrArg Welt.skivestat rest :).trans skivestat, rfl,
    (congrArg Welt.saved rest :).trans saved, (congrArg Welt.level rest :).trans level⟩

/-- A sibling stops where it stands, if it was told to (R425): its records and its halt change, nothing else. -/
theorem took_stop {s u : State} {i n j : Nat} {t : TrapInfo} (took : Took s u i n t) (hj : j ≠ i) :
    Took s (u.setWeltAt j (u.weltAt j).stop) i n t := by
  obtain ⟨own, stitch, bytes, turn, others, siblings⟩ := took
  have at_ (k : Nat) : (u.setWeltAt j (u.weltAt j).stop).weltAt k = u.weltAt k ∨
      (u.setWeltAt j (u.weltAt j).stop).weltAt k = (u.weltAt k).stop ∧ (u.weltAt k).stop.halt = .stopped := by
    rw [weltAt_setWeltAt]
    split
    · rename_i c
      obtain ⟨rfl, -⟩ := c
      exact (stop_cases _).imp_right fun h => ⟨rfl, h⟩
    · exact .inl rfl
  refine ⟨?_, stitch, fun l => (getByte_setWeltAt ..).trans (bytes l), turn, fun k hk => ?_, fun k hk hl hg he hh => ?_⟩
  · rw [weltAt_setWeltAt, if_neg fun c => hj c.1]
    exact own
  · rcases at_ k with e | ⟨e, halted⟩ <;> rw [e]
    · exact others k hk
    · exact ⟨sameRegisters_stop (others k hk).1, .inr halted⟩
  · obtain ⟨halted, split⟩ := siblings k hk hl hg he hh
    refine ⟨?_, split⟩
    rcases at_ k with e | ⟨e, stopped⟩ <;> rw [e]
    · exact halted
    · rw [stopped]; nofun

theorem took_stopStitch {s u : State} {i n : Nat} {t : TrapInfo} (took : Took s u i n t) (x : Stitch) (k : Nat) :
    Took s (u.stopStitch x k i) i n t :=
  List.foldlRecOn _ _ (motive := fun v => Took s v i n t) took fun v hv m hm =>
    took_stop hv (by have := (List.mem_filter.1 hm).2; simp only [Bool.and_eq_true, bne_iff_ne] at this; exact this.1)

/-- While lanes issue, they are the next ones to go on. -/
theorem nextLane_of_A {w : Welt} (h : w.A ≠ 0) : w.nextLane = w.lead := by
  unfold Welt.nextLane Welt.lead
  cases hl : w.leader with
  | none => exact absurd (by rw [Welt.A, hl]) h
  | some b => rfl

/-- What a welt saves as it enters a handler (R421). -/
theorem save_lane (w : Welt) (l : Fin 32) : w.save.x.getLsbD l = (w.lane l).x ∧ w.save.h.getLsbD l = (w.lane l).h ∧
    w.save.depth[l] = (w.lane l).depth ∧ w.save.pc[l] = (w.lane l).pc := by
  rw [lane_getElem]
  refine ⟨?_, ?_, ?_, ?_⟩
  · rw [Welt.save, ofPred_getLsbD _ _ l.isLt]
  · rw [Welt.save, ofPred_getLsbD _ _ l.isLt]
  · simp only [Welt.save, Fin.getElem_fin, Vector.getElem_map]
  · simp only [Welt.save, Fin.getElem_fin, Vector.getElem_map]

/-- The trap that a welt takes, as R417 to R421 describe it. -/
theorem taken_of_took {s s0 u : State} {n : Nat} {t : TrapInfo} (p : Poised s s0 s.cur) (took : Took s0 u s.cur n t)
    (hn : n ≤ 2) (hA : s.cw.A ≠ 0) (hl : s.cw.level ≤ 2) (hz : ∀ z, s.cw.serial = some z → z.running < 32)
    (lanes : t.lanes = s.cw.A) (pc : t.pc = s.cw.pc) (kind : t.kind = 0) (depth : t.depth = none) :
    TrapTaken s u n t.cause t.addr t.sk t.hdr := by
  obtain ⟨⟨cycles, own⟩, stitch, bytes, turn, others, siblings⟩ := took
  have cw : u.cw = (s0.weltAt s.cur).entered n t cycles (s0.stitchOf s.cur).isSome := by
    rw [State.cw, turn.trans p.turn, own]
  have record := trap_entered (s0.weltAt s.cur) t cycles (s0.stitchOf s.cur).isSome hn
  obtain ⟨⟨level, handler⟩, saved, ⟨uni, wfull, wbad, masks, fpctl, handles, serial, colls⟩, after⟩ :=
    entered_rest (s0.weltAt s.cur) t cycles (s0.stitchOf s.cur).isSome hn
  obtain ⟨uni0, wfull0, wbad0, masks0, fpctl0, handles0⟩ := p.registers
  obtain ⟨-, -, handler0, level0, serial0, colls0⟩ := p.state
  obtain ⟨A0, lead0, -⟩ := p.issue
  have next : t.depth.getD (s0.weltAt s.cur).nextLane.depth = s.cw.lead.depth := by
    rw [depth, nextLane_of_A (by rw [A0]; exact hA)]
    exact lead0
  have status : (u.cw.trap n).tsw =
      tswOf s.cw.lead.depth s.cw.serial s.cw.level t.sk false t.hdr (s.stitchOf s.cur).isSome := by
    rw [cw, record, next, serial0, level0, p.stitchOf]
    rfl
  rw [← cw] at record level handler saved uni wfull wbad masks fpctl handles serial colls after
  obtain ⟨tswDepth, tswLevel, tswSerial, tswSk, tswSib, tswHdr, tswSt⟩ :=
    tswOf_fields s.cw.lead.depth t.sk t.hdr (s.stitchOf s.cur).isSome hl hz
  rw [← status] at tswDepth tswLevel tswSerial tswSk tswSib tswHdr tswSt
  constructor
  case bytes => exact fun l => (bytes l).trans (p.getByte l)
  case level => exact ⟨level, handler.trans (by rw [handler0]; rfl)⟩
  case tcause => rw [record, kind]; simp
  case tlanes => rw [record, lanes]
  case tpcv => rw [record, pc]
  case tsw => exact ⟨tswDepth, tswLevel, tswSerial, tswSk, tswSib, tswHdr, tswSt, stitch⟩
  case tvec => rw [record]; exact p.tvec n
  case saved =>
    refine ⟨_, saved, serial0, colls0, fun l => ?_⟩
    obtain ⟨x, h, d, c⟩ := save_lane (s0.weltAt s.cur) l
    obtain ⟨x0, h0, d0, c0, -⟩ := p.lane_fields l.isLt
    exact ⟨x.trans x0, h.trans h0, d.trans d0, c.trans c0⟩
  case lanes =>
    intro l hl
    obtain ⟨x0, h0, d0, c0, v0, full0, bad0⟩ := p.lane_fields hl
    have tvec : ((s0.weltAt s.cur).trap n).tvec = (s.cw.trap n).tvec := p.tvec n
    rw [after l hl, tvec]
    split
    · rename_i hx
      exact ⟨x0, v0, full0, bad0, fun no => by rw [x0] at hx; exact absurd (hx.symm.trans no) nofun⟩
    · exact ⟨x0, v0, full0, bad0, fun _ => ⟨rfl, rfl, tvecAddr_toNat _⟩⟩
  case kept =>
    exact ⟨uni.trans uni0, wfull.trans wfull0, wbad.trans wbad0, masks.trans masks0, fpctl.trans fpctl0,
      handles.trans handles0, serial, colls⟩
  case siblings =>
    intro j hj
    have same := others j hj
    have halts := siblings j hj
    rw [p.others j hj] at same halts
    obtain ⟨wg0, -⟩ := p.state
    exact ⟨same.1, same.2, fun hl hg he hh => (halts (by rwa [p.count]) (hg.trans wg0.symm) he hh).1⟩

/-! ### What raises a trap (R96, R429) -/

theorem tvec_endReplay (w : Welt) (n : Nat) : (w.endReplay.trap n).tvec = (w.trap n).tvec := by
  unfold Welt.endReplay
  split
  · rfl
  · rename_i k _
    have e := trap_setTrap w k n { w.trap k with restart := (w.trap k).restart &&& 0x7FFFFFFFFFFFFFFF#64 }
    refine (congrArg TrapRegs.tvec e).trans ?_
    split
    · rename_i c
      rw [c.1]
    · rfl

/-- A welt as it raises a trap by its instruction: V is clear (R272). -/
theorem poised_endReplay {s : State} (h : issuing s) : Poised s (s.setCw s.cw.endReplay) s.cur := by
  have own : (s.setCw s.cw.endReplay).weltAt s.cur = s.cw.endReplay := cw_setCw s _ h
  have rest := endReplay_rest s.cw
  have lanes : s.cw.endReplay.lanes = s.cw.lanes := (congrArg Welt.lanes rest :)
  constructor
  case rest => rfl
  case count => exact length_setWeltAt ..
  case others => exact fun j hj => weltAt_setCw_ne s _ j hj
  case turn => rfl
  case own => rw [own]; exact (congrArg (fun x : Welt => { x with lanes := s.cw.lanes }) rest :)
  case tvec => rw [own]; exact tvec_endReplay s.cw
  case lanes =>
    intro l _
    rw [own, Welt.lane, lanes]
    rfl

/-- A welt as it raises a trap before its instruction issues. -/
theorem poised_self (s : State) : Poised s s s.cur where
  rest := rfl
  count := rfl
  others _ _ := rfl
  turn := rfl
  own := rfl
  tvec _ := rfl
  lanes _ _ := rfl

/-- The lanes of a welt that issue, at a place. -/
def Welt.placed (w : Welt) (k : Lane) : Welt :=
  w.mapLanes w.A fun _ l => { l with pc := k.pc, pos := k.pos, seg := k.seg }

theorem placed_rest (w : Welt) (k : Lane) :
    { w.placed k with lanes := w.lanes, traps := w.traps, replay := w.replay } = w := by
  simp only [Welt.placed, Welt.mapLanes]

theorem trap_placed (w : Welt) (k : Lane) (n : Nat) : (w.placed k).trap n = w.trap n := by
  rw [Welt.trap, Welt.placed, Welt.mapLanes_traps, ← Welt.trap]

/-- Welt `i` issuing at the place of the welt that issues (R96). -/
def State.atPlace (s : State) (i : Nat) : State :=
  { s.setWeltAt i ((s.weltAt i).placed s.cw.lead) with cur := i }

/-- The lowest welt of a stitch at the place of the one that issues (R96). -/
theorem poised_atPlace {s : State} {i : Nat} (hi : i < s.welts.length) (pc : (s.weltAt i).pc = s.cw.pc) :
    Poised s (s.atPlace i) i := by
  have at_ (j : Nat) : (s.atPlace i).weltAt j = _ := weltAt_setWeltAt s i j ((s.weltAt i).placed s.cw.lead)
  have own := (at_ i).trans (if_pos ⟨rfl, hi⟩)
  constructor
  case rest => rfl
  case count => exact length_setWeltAt ..
  case others => exact fun j hj => (at_ j).trans (if_neg fun c => hj c.1.symm)
  case turn => rfl
  case own => rw [own]; exact placed_rest _ _
  case tvec => rw [own]; exact fun n => congrArg TrapRegs.tvec (trap_placed _ _ n)
  case lanes =>
    intro l hl
    rw [own, Welt.placed, lane_mapLanes _ _ _ _ hl]
    split
    · rename_i hA
      have e : ((s.weltAt i).lane l).pc = s.cw.lead.pc := ((place_of_A hl hA).1).trans pc
      rw [← e]
    · rfl

/-- A trap of a welt that can be taken at the level to which it is first sent. -/
theorem took_poised {s s0 : State} {i n : Nat} {t : TrapInfo} (p : Poised s s0 i) (hi : i < s.welts.length)
    (alive : (s.wgAt (s.weltAt i).wg).killed = false) (first : firstLevel (s.weltAt i) t = n) (hn : n ≤ 2)
    (en : ((s.weltAt i).trap n).tvec.getLsbD 0 = true)
    (seg : s.segmentAt (s.weltAt i) n (tvecAddr ((s.weltAt i).trap n).tvec) = true) :
    Took s0 (s0.raiseIn i t) i n t := by
  obtain ⟨wg, -, handler, level, -⟩ := p.state
  have first0 : firstLevel (s0.weltAt i) t = n := by
    rw [← first, firstLevel, firstLevel, handler, level, p.tvec 0]
  refine took_raiseIn (by rwa [p.count]) ?_ ?_
  · rw [State.wgAt, p.wgs, wg, ← State.wgAt]
    exact alive
  · rw [first0]
    refine takeLevel_of_enabled hn ?_ ?_
    · rw [tvecEn, p.tvec]
      exact en
    · rw [p.segmentAt, p.tvec]
      exact seg

/-- A trap of the issuing welt can be taken at level `n`, which outside a handler is `low`. -/
def State.admits (s : State) (n low : Nat) : Prop :=
  n ≤ 2 ∧ ((s.cw.inHandler = [] ∧ s.cw.level = 0 ∧ n = low) ∨ ∃ k rest, s.cw.inHandler = k :: rest ∧ n = k + 1) ∧
    (s.cw.trap n).tvec.getLsbD 0 = true ∧ s.cg.killed = false ∧
    s.segmentAt s.cw n (tvecAddr (s.cw.trap n).tvec) = true

theorem firstLevel_of_admits {s : State} {n low : Nat} {t : TrapInfo} (a : s.admits n low)
    (first : s.cw.inHandler = [] → s.cw.level = 0 → firstLevel s.cw t = low) : firstLevel s.cw t = n := by
  obtain ⟨-, place, -⟩ := a
  rcases place with ⟨h, l, e⟩ | ⟨k, rest, h, e⟩
  · exact (first h l).trans e.symm
  · exact (firstLevel_in_handler t h).trans e.symm

theorem took_of_admits {s s0 : State} {n low : Nat} {t : TrapInfo} (p : Poised s s0 s.cur) (h : issuing s)
    (a : s.admits n low) (first : s.cw.inHandler = [] → s.cw.level = 0 → firstLevel s.cw t = low) :
    Took s0 (s0.raiseIn s.cur t) s.cur n t := by
  have level := firstLevel_of_admits a first
  obtain ⟨hn, -, en, alive, seg⟩ := a
  exact took_poised p h alive level hn en seg

/-! ### The trap instructions (R422, R429) -/

theorem ofCode_code (c : Cause) : Cause.ofCode c.code = some c := by
  cases c <;> rfl

/-- The cause that TRAP raises for a word of kind 0. -/
theorem trapCause_of_code {x : W64} {c : Cause} (hx : field x 0 12 = c.code.toNat)
    (hc : c ∉ [Cause.hang, .gangUnplaceable, .tretState]) : trapCause x = some c := by
  have small := c.code.isLt
  rw [field, BitVec.extractLsb'_toNat, Nat.shiftRight_eq_div_pow] at hx
  have kind : field x 8 4 = 0 := by
    rw [field, BitVec.extractLsb'_toNat, Nat.shiftRight_eq_div_pow]
    omega
  have code : x.extractLsb' 0 8 = c.code := by
    apply BitVec.eq_of_toNat_eq
    rw [BitVec.extractLsb'_toNat, Nat.shiftRight_eq_div_pow]
    omega
  rw [trapCause, if_neg (not_not.2 kind), code, ofCode_code]
  split
  · simp_all
  · simp_all
  · simp_all
  · rfl

theorem trapCause_of_kind {x : W64} (hx : field x 8 4 ≠ 0) : trapCause x = none := if_pos hx

/-- The trap that TRAP and TRAP.s raise (R422, R424, R429). -/
def State.wordTrap (s : State) (a : WReg) (c : Cause) (sup : Bool) : TrapInfo where
  cause := c
  lanes := s.cw.A
  pc := s.cw.pc
  addr := (s.cw.rdW a.toNat).extractLsb' 12 52
  sk := true
  sup := sup

theorem trapOp_raises {s : State} {a : WReg} {ta : Bool} (sup : Bool) {c : Cause}
    (hi : s.issues s.cw.A (({} : Deps).wsrc ta a.toNat) 0 = true) (hc : trapCause (s.cw.rdW a.toNat) = some c) :
    s.trapOp a ta sup = .next (s.raise (s.wordTrap a c sup)) := by
  rw [State.trapOp, issue_go _ _ _ _ _ hi]
  dsimp only
  rw [hc]
  rfl

theorem trapOp_illegal {s : State} {a : WReg} {ta : Bool} (sup : Bool)
    (hi : s.issues s.cw.A (({} : Deps).wsrc ta a.toNat) 0 = true) (hc : trapCause (s.cw.rdW a.toNat) = none) :
    s.trapOp a ta sup = .next s.illegal := by
  rw [State.trapOp, issue_go _ _ _ _ _ hi]
  dsimp only
  rw [hc]

/-- The trap of BRK. -/
def State.breakTrap (s : State) : TrapInfo where
  cause := .brk
  lanes := s.cw.A
  pc := s.cw.pc
  sk := true

theorem exec_brk_issue {s : State} (hi : s.issues s.cw.A {} 0 = true) :
    exec .brk s = .next ((s.setCw s.cw.endReplay).raiseIn s.cur s.breakTrap) := by
  rw [exec_brk, execBrk, issue_go _ _ _ _ _ hi]
  rfl

/-- Above level 2 a trap ends the workgroup (R419). -/
theorem brk_above {s : State} {rest : List Nat} (h : issuing s) (hi : s.issues s.cw.A {} 0 = true)
    (alive : s.cg.killed = false) (hh : s.cw.inHandler = 2 :: rest) :
    exec .brk s = .next ((s.setCw s.cw.endReplay).faultWg s.cw.wg 0x40 false) := by
  have p := poised_endReplay h
  obtain ⟨wg, -, handler, -⟩ := p.state
  rw [exec_brk_issue hi, State.raiseIn]
  have first : firstLevel ((s.setCw s.cw.endReplay).weltAt s.cur) s.breakTrap = 3 :=
    firstLevel_in_handler _ (handler.trans hh)
  have none_ : (s.setCw s.cw.endReplay).takeLevel ((s.setCw s.cw.endReplay).weltAt s.cur) 4 3 = none := rfl
  have alive0 : ((s.setCw s.cw.endReplay).wgAt ((s.setCw s.cw.endReplay).weltAt s.cur).wg).killed = false := by
    rw [wg]
    exact alive
  rw [if_neg (by rw [alive0]; nofun), first, none_, wg]
  rfl

/-- A workgroup that is being ended runs no handler (R437). -/
theorem brk_killed {s : State} (h : issuing s) (hi : s.issues s.cw.A {} 0 = true) (dead : s.cg.killed = true) :
    ∃ u, exec .brk s = .next u ∧ u.cw.halt = .stopped ∧ u.cw.inHandler = s.cw.inHandler ∧
      (∀ l, u.getByte l = s.getByte l) ∧ ∀ i, i ≠ s.cur → u.weltAt i = s.weltAt i := by
  have p := poised_endReplay h
  obtain ⟨wg, -, handler, -⟩ := p.state
  have dead0 : ((s.setCw s.cw.endReplay).wgAt ((s.setCw s.cw.endReplay).weltAt s.cur).wg).killed = true := by
    rw [wg]
    exact dead
  have at_ (i : Nat) := weltAt_setWeltAt (s.setCw s.cw.endReplay) s.cur i
    { (s.setCw s.cw.endReplay).weltAt s.cur with halt := .stopped, wait := .none }
  have own := (at_ s.cur).trans (if_pos ⟨rfl, by rw [p.count]; exact h⟩)
  refine ⟨_, (exec_brk_issue hi).trans (congrArg _ (if_pos dead0)), ?_, ?_, fun l => ?_, fun i hi => ?_⟩
  · exact congrArg Welt.halt own
  · exact (congrArg Welt.inHandler own).trans handler
  · exact (getByte_setWeltAt ..).trans (p.getByte l)
  · exact ((at_ i).trans (if_neg fun c => hi c.1.symm)).trans (p.others i hi)

/-! ### ILLEGAL by the encoding (R96) -/

/-- ILLEGAL as the issuing welt raises it for a word or a header. -/
def State.illegalTrap (s : State) (hdr : Bool) : TrapInfo where
  cause := .illegal
  lanes := s.cw.A
  pc := s.cw.pc
  hdr := hdr

theorem illegalWord_alone {s : State} (hdr : Bool) (h : s.stitchOf s.cur = none) :
    s.illegalWord hdr = s.raiseIn s.cur (s.illegalTrap hdr) := by
  rw [State.illegalWord, State.illegalBy, h]
  rfl

theorem illegalWord_stitched {s : State} {x : Stitch} {i : Nat} (hdr : Bool) (h : s.stitchOf s.cur = some x)
    (hx : x.lowest.getD s.cur = i) : ∃ k, s.illegalWord hdr =
      ((s.atPlace i).raiseIn i ((s.atPlace i).illegalTrap hdr)).stopStitch x k i := by
  subst hx
  refine ⟨((x.members.find? fun m => m.1 == s.cur).map (·.2)).getD 0, ?_⟩
  rw [State.illegalWord, State.illegalBy, h]
  rfl

/-- ILLEGAL of a welt that issues alone, or is the lowest of its stitch (R96). -/
theorem illegalWord_taken {s : State} {n : Nat} {hdr : Bool} (h : issuing s) (hA : s.cw.A ≠ 0) (hl : s.cw.level ≤ 2)
    (hz : ∀ z, s.cw.serial = some z → z.running < 32)
    (a : s.admits n (if (s.cw.trap 0).tvec.getLsbD 0 then 0 else 1))
    (last : ∀ i, (s.stitchOf s.cur).bind Stitch.lowest = some i → i = s.cur) :
    TrapTaken s (s.illegalWord hdr) n .illegal 0 false hdr := by
  have first (t : TrapInfo) (ht : t.cause = .illegal) (hs : t.sup = false) (hh : s.cw.inHandler = [])
      (hl : s.cw.level = 0) : firstLevel s.cw t = if (s.cw.trap 0).tvec.getLsbD 0 then 0 else 1 :=
    firstLevel_ordinary hh hl hs (by rw [ht]; simp [goesToUser])
  cases hst : s.stitchOf s.cur with
  | none =>
    rw [illegalWord_alone hdr hst]
    have took := took_of_admits (poised_self s) h a (first (s.illegalTrap hdr) rfl rfl)
    exact taken_of_took (poised_self s) took a.1 hA hl hz rfl rfl rfl rfl
  | some x =>
    have self : x.lowest.getD s.cur = s.cur := by
      cases hx : x.lowest with
      | none => rfl
      | some i => exact last i (by rw [hst]; exact hx)
    obtain ⟨k, e⟩ := illegalWord_stitched hdr hst self
    have p := poised_atPlace h rfl
    obtain ⟨A, -, pc⟩ := p.issue
    have took := took_of_admits p h a (first ((s.atPlace s.cur).illegalTrap hdr) rfl rfl)
    rw [e]
    exact taken_of_took p (took_stopStitch took x k) a.1 hA hl hz A pc rfl rfl

/-- ILLEGAL of a stitched issue is taken by the lowest welt of the stitch, at the same place (R96). -/
theorem illegalWord_by_lowest {s : State} {i n : Nat} {hdr : Bool} (h : issuing s)
    (last : (s.stitchOf s.cur).bind Stitch.lowest = some i) (hi : i ≠ s.cur) (hlen : i < s.welts.length)
    (wg : (s.weltAt i).wg = s.cw.wg) (pc : (s.weltAt i).pc = s.cw.pc) (alive : s.cg.killed = false)
    (hh : (s.weltAt i).inHandler = []) (hl : (s.weltAt i).level = 0)
    (level : n = if ((s.weltAt i).trap 0).tvec.getLsbD 0 then 0 else 1)
    (en : ((s.weltAt i).trap n).tvec.getLsbD 0 = true)
    (seg : s.segmentAt (s.weltAt i) n (tvecAddr ((s.weltAt i).trap n).tvec) = true) :
    let u := s.illegalWord hdr
    (u.weltAt i).level = n ∧ ((u.weltAt i).trap n).tcause = BitVec.ofNat 64 Cause.illegal.code.toNat ∧
      ((u.weltAt i).trap n).tlanes = (s.weltAt i).A.setWidth 64 ∧
      ((u.weltAt i).trap n).tpcv = s.cw.pc.setWidth 64 ∧ ((u.weltAt i).trap n).tsw.getLsbD 7 = true ∧
      u.stitchOf i = none ∧ (∀ l, u.getByte l = s.getByte l) ∧
      (s.cw.ended = false → s.cw.halt = .none → s.cw.inHandler = [] →
        (u.weltAt s.cur).halt ≠ .none ∧ u.stitchOf s.cur = none) := by
  obtain ⟨x, hst, hx⟩ := Option.bind_eq_some_iff.1 last
  obtain ⟨k, e⟩ := illegalWord_stitched (i := i) hdr hst (by rw [hx]; rfl)
  have p := poised_atPlace hlen pc
  obtain ⟨A, -, pc0⟩ := p.issue
  have hn : n ≤ 2 := by split at level <;> omega
  have took := took_stopStitch (took_poised (t := (s.atPlace i).illegalTrap hdr) p hlen (by rw [wg]; exact alive)
    ((firstLevel_ordinary hh hl rfl (by simp [goesToUser, State.illegalTrap])).trans level.symm) hn en seg) x k
  rw [← e] at took
  obtain ⟨⟨cycles, own⟩, stitch, bytes, -, -, siblings⟩ := took
  have record := trap_entered ((s.atPlace i).weltAt i) ((s.atPlace i).illegalTrap hdr) cycles
    ((s.atPlace i).stitchOf i).isSome hn
  have member : (s.stitchOf i).isSome = true := by
    obtain ⟨m, hm, rfl⟩ := Option.map_eq_some_iff.1 hx
    exact List.find?_isSome.2 ⟨x, List.mem_of_find?_eq_some hst,
      List.any_eq_true.2 ⟨m, List.mem_of_getLast? hm, by simp⟩⟩
  rw [p.stitchOf, member] at own record
  rw [← own] at record
  intro u
  refine ⟨?_, ?_, ?_, ?_, ?_, stitch, fun l => (bytes l).trans (p.getByte l), fun he hn hh' => ?_⟩
  · rw [own]
    exact (entered_rest _ _ _ _ hn).1.1
  · rw [record]
    simp [State.illegalTrap]
  · rw [record]
    exact congrArg (BitVec.setWidth 64) A
  · rw [record]
    exact congrArg (BitVec.setWidth 64) (pc0.trans pc)
  · rw [record]
    exact tswOf_stitched ..
  · have same := p.others s.cur (Ne.symm hi)
    have halts := siblings s.cur (Ne.symm hi)
    rw [same] at halts
    obtain ⟨halted, split⟩ := halts (by rwa [p.count]) (wg.symm.trans p.state.1.symm) he hh'
    exact ⟨halted, split hn⟩

theorem raisable_goesToUser : ∀ c ∈ [Cause.illegal, .maskPartial, .collectiveMismatch, .exitedMember, .emptyRead,
    .fpNan, .fpInvalid, .fpDivzero, .fpOverflow, .skiveDrift, .regionDomain, .regionFull, .hostAtomic, .wound,
    .lockHierarchy, .barrierTimeout, .orderInsensitive], goesToUser c ∧ c ∉ [Cause.hang, .gangUnplaceable, .tretState] := by
  unfold goesToUser
  decide

/-- Settles O45: TRAP and TRAP.s by the cause of their word, BRK by its level, ILLEGAL by the place of the issue in its
stitch. -/
theorem trapsAreTaken : Obligations.TrapsAreTaken := by
  intro s a ta hdr n h hA hl hz x user at_ takes
  have p := poised_endReplay h
  have by_ {low : Nat} (t : TrapInfo) (adm : s.admits n low) (lanes : t.lanes = s.cw.A) (pc : t.pc = s.cw.pc)
      (kind : t.kind = 0) (depth : t.depth = none)
      (first : s.cw.inHandler = [] → s.cw.level = 0 → firstLevel s.cw t = low) :
      TrapTaken s (s.raise t) n t.cause t.addr t.sk t.hdr :=
    taken_of_took p (took_of_admits p h adm first) adm.1 hA hl hz lanes pc kind depth
  refine ⟨fun hi => ⟨fun c hc hx => ?_, fun hx => ?_⟩,
    fun hi => ⟨fun adm => ?_, fun rest alive hh => ?_, fun dead => ?_⟩, fun adm last => ?_, ?_⟩
  · obtain ⟨toUser, legal⟩ := raisable_goesToUser c hc
    have cause := trapCause_of_code hx legal
    refine ⟨fun adm => ?_, fun adm => ?_⟩
    · exact ⟨_, (exec_trap ..).trans (trapOp_raises false hi cause), by_ (s.wordTrap a c false) adm rfl rfl rfl rfl
        fun hh hl => firstLevel_ordinary hh hl rfl toUser⟩
    · exact ⟨_, (exec_trapS ..).trans (trapOp_raises true hi cause), by_ (s.wordTrap a c true) adm rfl rfl rfl rfl
        fun hh hl => firstLevel_supervisor hh hl rfl⟩
  · have none_ := trapCause_of_kind hx
    exact ⟨(exec_trap ..).trans (trapOp_illegal false hi none_), (exec_trapS ..).trans (trapOp_illegal true hi none_)⟩
  · exact ⟨_, exec_brk_issue hi, by_ s.breakTrap adm rfl rfl rfl rfl fun hh hl => firstLevel_break hh hl rfl rfl⟩
  · exact brk_above h hi alive hh
  · exact brk_killed h hi dead
  · exact ⟨_, exec_unassignedOpcode hdr s, illegalWord_taken h hA hl hz adm last⟩
  · intro i last hne hlen w wg pc alive hh hlev level en seg
    exact ⟨_, exec_unassignedOpcode hdr s, illegalWord_by_lowest h last hne hlen wg pc alive hh hlev level en seg⟩

end Sys2Proof.Machine

/-!
The scheduler (R26, R310, R314-R316, R320, R336, R337, R441): dispatch, gangs that wait, moves, time slices, the end
of a launch, gating, hangs, and O47.
-/

namespace Sys2Proof.Machine

open Safety Claims

/-! ### Dispatch (R26, R310) -/

theorem arriveOn_rest (s : State) (core : Nat) :
    { s.arriveOn core with cores := s.cores, agenda := s.agenda } = s := by
  unfold State.arriveOn
  dsimp only
  split <;> split <;> rfl

/-- A workgroup as it starts (R26). -/
def State.freshWg (s : State) (l logical core : Nat) : Wg :=
  { Wg.init with
    launch := l
    logical := logical
    gang := logical / (s.launchAt l).gangSize
    core := core
    blocks := blockTable (s.launchAt l).stashBlocks ((s.launchAt l).stashBlocks - s.freeBlocks core)
      (Vector.replicate 32 0)
    members := (List.range (s.launchAt l).weltCount).map fun i => (s.welts.length + i, false, 0) }

/-- Welt `i` of a workgroup as it starts (R26). -/
def State.freshWelt (s : State) (l core i : Nat) : Welt :=
  newWelt (s.launchAt l) (s.partNum (s.ctxAt (s.launchAt l).ctx).part).tvec s.mgmtTvec s.wgs.length i
    ((s.freeSlots core).getD i (0, 0)) (s.inService core)

theorem startWg_eq (s : State) (l logical core : Nat) : s.startWg l logical core = { s.arriveOn core with
    wgs := (s.arriveOn core).wgs ++ [s.freshWg l logical core]
    welts := (s.arriveOn core).welts ++ (List.range (s.launchAt l).weltCount).map (s.freshWelt l core) } := rfl

/-- A workgroup that starts is added to the others, its welts behind theirs; no memory changes. -/
theorem startWg_rest (s : State) (l logical core : Nat) : let u := s.startWg l logical core
    u.wgs = s.wgs ++ [s.freshWg l logical core] ∧
      u.welts = s.welts ++ (List.range (s.launchAt l).weltCount).map (s.freshWelt l core) ∧
      u.mem = s.mem ∧ u.host = s.host ∧ u.launches = s.launches := by
  have rest := arriveOn_rest s core
  have wgs : (s.arriveOn core).wgs = s.wgs := (congrArg State.wgs rest :)
  have welts : (s.arriveOn core).welts = s.welts := (congrArg State.welts rest :)
  rw [startWg_eq]
  refine ⟨?_, ?_, (congrArg State.mem rest :), (congrArg State.host rest :), (congrArg State.launches rest :)⟩
  · rw [← wgs]
  · rw [← welts]

/-- The lanes that a launch populates: 16 of a legacy one, else all. -/
theorem populated_start (x : Launch) {n : Nat} (h : n < 32) :
    (if x.legacy then 0x0000FFFF#32 else 0xFFFFFFFF#32).getLsbD n = decide (n < if x.legacy then 16 else 32) := by
  have half : ∀ n : Fin 32, (0x0000FFFF#32).getLsbD n = decide (n.val < 16) := by decide
  have whole : ∀ n : Fin 32, (0xFFFFFFFF#32).getLsbD n = decide (n.val < 32) := by decide
  split
  · exact half ⟨n, h⟩
  · exact whole ⟨n, h⟩

/-- What a welt holds as it starts (R26). -/
theorem newWelt_spec (x : Launch) (t1 t2 : W64) (g i : Nat) (place : Nat × Nat) (held : Bool) :
    let w := newWelt x t1 t2 g i place held
    w.wg = g ∧ w.index = i ∧ w.level = 0 ∧ w.fpctl = 0 ∧ (∀ r, w.rdW r = 0) ∧
      (∀ m < 16, w.m.toList.getD m 0 = 0) ∧ ∀ n < 32, let e := w.lane n
        (∀ r < 128, e.rd r = 0 ∧ e.full.getLsbD r = true) ∧ e.h = false ∧ e.depth = 0 ∧
        (if n < (if x.legacy then 16 else 32) then e.x = false ∧ e.pc = x.entry else e.x = true) := by
  intro w
  have zero {n : Nat} {α : Type} (d : α) (k : Nat) : (Vector.replicate n d).toList.getD k d = d := by
    rw [Vector.toList_replicate, List.getD_eq_getElem?_getD, List.getElem?_replicate]
    split <;> rfl
  refine ⟨rfl, rfl, rfl, rfl, fun r => ?_, fun m _ => zero 0 m, fun n hn => ?_⟩
  · rw [Welt.rdW]
    split
    · rfl
    · exact zero 0 r
  · have lane : w.lane n = if n < (if x.legacy then 16 else 32)
        then { Lane.init with x := false, pc := x.entry, seg := x.entry } else Lane.init := by
      rw [lane_toList hn]
      dsimp only [w, newWelt]
      rw [Vector.getElem_ofFn]
      dsimp only
      rw [populated_start x hn]
      simp only [decide_eq_true_eq]
    have value (r : Nat) : Lane.init.rd r = 0 := zero 0 r
    have full {r : Nat} (hr : r < 128) : Lane.init.full.getLsbD r = true := by
      rw [Lane.init, BitVec.getLsbD_allOnes, decide_eq_true hr]
    dsimp only
    rw [lane]
    by_cases hp : n < if x.legacy then 16 else 32
    · rw [if_pos hp, if_pos hp]
      exact ⟨fun r hr => ⟨value r, full hr⟩, rfl, rfl, rfl, rfl⟩
    · rw [if_neg hp, if_neg hp]
      exact ⟨fun r hr => ⟨value r, full hr⟩, rfl, rfl, rfl⟩

theorem placing_one {s : State} {l k : Nat} (one : (s.launchAt l).gangSize = 1) (new : s.wgOf l k = none) :
    s.placing l k = [k] := by
  have members : (s.launchAt l).members k = [k] := by
    rw [Launch.members, one]
    simp
  rw [State.placing, members, List.filter_singleton, new]
  rfl

/-- A role is bound anew for workgroups that have ended alone. -/
theorem bindRole_of_none {s : State} {l k : Nat} (core : Nat → Nat)
    (h : ∀ g ∈ s.wgs, g.launch = l → g.gang = k → g.st ≠ .ended) : s.bindRole l k core = s := by
  have same : s.wgs.map (fun g =>
      if g.launch == l && g.gang == k && g.st == .ended then { g with core := core g.logical } else g) = s.wgs := by
    refine List.map_congr_left (g := id) (fun g hg => ?_) |>.trans s.wgs.map_id
    split
    · rename_i c
      simp only [Bool.and_eq_true, beq_iff_eq] at c
      exact absurd c.2 (h g hg c.1.1 c.1.2)
    · rfl
  rw [State.bindRole, same]

/-- A workgroup of a launch without a binding table, alone in its gang, that has not been dispatched is placed by its
start. -/
theorem placeGang_one {s : State} {l k core : Nat} (one : (s.launchAt l).gangSize = 1) (new : s.wgOf l k = none)
    (free : (s.launchAt l).binding = 0) (alone : ∀ g ∈ s.wgs, g.launch = l → g.gang ≠ k) :
    s.placeGang l k [core] = s.startWg l k core := by
  obtain ⟨wgs, -, -, -, launches⟩ := startWg_rest s l k core
  have roles : [core].getD (k % (s.launchAt l).gangSize % (s.launchAt l).roles) 0 = core := by
    rw [one, Nat.mod_one, Nat.zero_mod]
    rfl
  have unbound : (s.startWg l k core).bindRole l k
      (fun c => [core].getD (c % (s.launchAt l).gangSize % (s.launchAt l).roles) 0) = s.startWg l k core := by
    refine bindRole_of_none _ fun g hg hl hk => ?_
    rw [wgs] at hg
    rcases List.mem_append.1 hg with old | fresh
    · exact absurd hk (alone g old hl)
    · obtain rfl := List.mem_singleton.1 fresh
      nofun
  rw [State.placeGang, placing_one one new]
  dsimp only [List.foldl_cons, List.foldl_nil]
  rw [new]
  dsimp only
  rw [roles, unbound, State.writeBinding, State.launchAt, launches, ← State.launchAt, free]
  rfl

/-- A dispatch places the unit; of the rest, launches and partitions alone may change. -/
theorem dispatch_eq {s : State} {l core k : Nat} {cores : List Nat} (h : s.placeAt l core = some (k, cores)) :
    ∃ launches parts, s.dispatch l core = { s.placeGang l k cores with launches := launches, parts := parts } := by
  have noted (t : State) (x : Launch) (c : Nat) : ∃ launches parts,
      (match (t.setLaunchAt l x).partOf core with
        | some p => (t.setLaunchAt l x).setPart { p with lastCtx := c }
        | none => t.setLaunchAt l x) = { t with launches := launches, parts := parts } := by
    split
    · exact ⟨_, _, rfl⟩
    · exact ⟨_, _, rfl⟩
  rw [State.dispatch, h]
  exact noted _ _ _

/-- The dispatch of a workgroup that is alone in its gang: it stands on its core with its welts, and nothing of what was
there has changed (R26, R310). -/
theorem dispatch_one {s : State} {l core k : Nat} (first : s.comesFirst l core = true)
    (place : s.placeAt l core = some (k, [core])) (one : (s.launchAt l).gangSize = 1) (new : s.wgOf l k = none)
    (free : (s.launchAt l).binding = 0) (alone : ∀ g ∈ s.wgs, g.launch = l → g.gang ≠ k) :
    ∃ u, exec (.workgroupDispatch l core) s = .next u ∧ u.wgs = s.wgs ++ [s.freshWg l k core] ∧ u.mem = s.mem ∧
      u.host = s.host ∧ u.welts = s.welts ++ (List.range (s.launchAt l).weltCount).map (s.freshWelt l core) := by
  obtain ⟨launches, parts, e⟩ := dispatch_eq place
  obtain ⟨wgs, welts, mem, host, -⟩ := startWg_rest s l k core
  refine ⟨s.dispatch l core, (exec_workgroupDispatch l core s).trans (congrArg _ (if_pos first)), ?_⟩
  rw [e, placeGang_one one new free alone]
  exact ⟨wgs, mem, host, welts⟩

/-- Welts added behind others. -/
theorem weltAt_append {s u : State} {ws : List Welt} (h : u.welts = s.welts ++ ws) :
    (∀ i < s.welts.length, u.weltAt i = s.weltAt i) ∧
      ∀ i < ws.length, u.weltAt (s.welts.length + i) = ws.getD i Welt.init := by
  refine ⟨fun i hi => ?_, fun i _ => ?_⟩
  · rw [State.weltAt, h, List.getD_append _ _ _ _ hi, State.weltAt]
  · rw [State.weltAt, h, List.getD_append_right _ _ _ _ (Nat.le_add_right ..), Nat.add_sub_cancel_left]

/-! ### Gangs that wait (R314) -/

theorem launchAt_setLaunchAt {s : State} {l : Nat} (x : Launch) (h : l < s.launches.length) :
    (s.setLaunchAt l x).launchAt l = x := by
  rw [State.launchAt, State.setLaunchAt]
  exact (getD_set ..).trans (if_pos ⟨rfl, h⟩)

theorem gangCandidateReserve_next {s : State} {l : Nat} (h : l < s.launches.length) :
    if s.patienceOver l false && (s.launchAt l).candidate.isNone && s.stuck l
      then eventGives s (.gangCandidateReserve l) fun u => u.launchAt l = { s.launchAt l with
        candidate := (s.bestCluster l).bind fun c => (s.nextUnit l).map fun k => (c, k) }
      else exec (.gangCandidateReserve l) s = .next s := by
  split
  · rename_i due
    exact eventGives_of_tangible ((exec_gangCandidateReserve l s).trans (if_pos due)) rfl (launchAt_setLaunchAt _ h)
  · rename_i due
    exact (exec_gangCandidateReserve l s).trans (if_neg due)

theorem gangPatienceExpiry_none {s : State} {l : Nat} (h : (s.launchAt l).candidate = none) :
    exec (.gangPatienceExpiry l) s = .next s := by
  rw [exec_gangPatienceExpiry, execGangPatienceExpiry]
  dsimp only
  rw [h]

theorem gangPatienceExpiry_early {s : State} {l : Nat} {c : Nat × Nat} (h : (s.launchAt l).candidate = some c)
    (early : s.patienceOver l true = false) : exec (.gangPatienceExpiry l) s = .next s := by
  rw [exec_gangPatienceExpiry, execGangPatienceExpiry]
  dsimp only
  rw [h]
  exact if_pos (by rw [early]; rfl)

/-- A launch that takes a status has it, and its end is due (R320). -/
theorem flagLaunch_spec {s : State} {l : Nat} (f : Flags → Flags) (h : l < s.launches.length) :
    (s.flagLaunch l f).launchAt l = { s.launchAt l with flags := f (s.launchAt l).flags } ∧
      .launchEnd l ∈ (s.flagLaunch l f).agenda ∧ (s.flagLaunch l f).tangible = s.tangible := by
  refine ⟨launchAt_setLaunchAt _ h, ?_, rfl⟩
  exact List.mem_append_right _ (List.mem_singleton.2 rfl)

/-- A launch whose gang has no place among its own context fails (R314). -/
theorem gangPatienceExpiry_fails {s : State} {l : Nat} {c : Nat × Nat} (hl : l < s.launches.length)
    (h : (s.launchAt l).candidate = some c) (late : s.patienceOver l true = true) (stuck : s.stuck l = true)
    (own : ∀ g ∈ s.occupants c.1, (s.launchOf (s.wgAt g)).ctx = (s.launchAt l).ctx) :
    eventGives s (.gangPatienceExpiry l) fun u =>
      (u.launchAt l).flags.unplaced = true ∧ (u.launchAt l).candidate = none ∧ .launchEnd l ∈ u.agenda := by
  have others : (s.occupants c.1).filter (fun g => (s.launchOf (s.wgAt g)).ctx != (s.launchAt l).ctx) = [] :=
    List.filter_eq_nil_iff.2 fun g hg => by simp [own g hg]
  have run : exec (.gangPatienceExpiry l) s = .next
      ((s.setLaunchAt l { s.launchAt l with candidate := none, waiting := none }).flagLaunch l
        fun f => { f with unplaced := true }) := by
    rw [exec_gangPatienceExpiry, execGangPatienceExpiry]
    dsimp only
    rw [h]
    dsimp only
    rw [if_neg (by simp [late, stuck]), others]
    rfl
  have there := launchAt_setLaunchAt (s := s) { s.launchAt l with candidate := none, waiting := none } hl
  obtain ⟨flagged, due, still⟩ := flagLaunch_spec (fun f => { f with unplaced := true })
    (s := s.setLaunchAt l { s.launchAt l with candidate := none, waiting := none }) (hl.trans_eq List.length_set.symm)
  refine eventGives_of_tangible run still ⟨?_, ?_, due⟩
  · rw [flagged]
  · rw [flagged, there]

/-! ### Moves (R315) -/

/-- Telling the welts of a workgroup to stop changes no workgroup. -/
theorem wgs_haltWg (s : State) (g : Nat) : (s.haltWg g).wgs = s.wgs :=
  foldl_keeps State.wgs (f := fun t i => State.haltWelt t .leave i) (fun t i => by
    rcases haltWelt_cases t .leave i with ⟨-, e⟩ | ⟨y, -, e⟩ <;> rw [e]
    rfl) _ _

theorem tangible_haltWg (s : State) (g : Nat) : (s.haltWg g).tangible = s.tangible :=
  foldl_keeps State.tangible (f := fun t i => State.haltWelt t .leave i) (fun t i => tangible_haltWelt t .leave i) _ _

/-- A workgroup is marked and its welts are told to stop. -/
def State.markHalt (f : Wg → Wg) (s : State) (g : Nat) : State := (s.setWgAt g (f (s.wgAt g))).haltWg g

theorem wgAt_markHalt (f : Wg → Wg) {s : State} {g : Nat} (k : Nat) : (s.markHalt f g).wgAt k =
    if g = k ∧ k < s.wgs.length then f (s.wgAt g) else s.wgAt k := by
  rw [State.markHalt, State.wgAt, wgs_haltWg, ← State.wgAt, wgAt_setWgAt]

theorem tangible_markHalt {f : Wg → Wg} (hf : ∀ x, (f x).bytes = x.bytes) (s : State) (g : Nat) :
    (s.markHalt f g).tangible = s.tangible :=
  (tangible_haltWg ..).trans (tangible_setWgAt _ _ _ (hf _))

/-- What every marking of a workgroup makes true and no marking undoes holds after all markings of those named. -/
theorem marked_foldl {step : State → Nat → State} {P Q : Wg → Prop}
    (count : ∀ t g, (step t g).wgs.length = t.wgs.length)
    (other : ∀ t g k, P (t.wgAt k) → P ((step t g).wgAt k))
    (kept : ∀ t g k, P (t.wgAt k) → Q (t.wgAt k) → Q ((step t g).wgAt k))
    (own : ∀ t g, g < t.wgs.length → P (t.wgAt g) → Q ((step t g).wgAt g)) (gs : List Nat) (s : State) (k : Nat)
    (hk : k < s.wgs.length) (p : P (s.wgAt k)) (h : k ∈ gs ∨ Q (s.wgAt k)) :
    P ((gs.foldl step s).wgAt k) ∧ Q ((gs.foldl step s).wgAt k) := by
  induction gs generalizing s with
  | nil => exact ⟨p, h.resolve_left (by simp)⟩
  | cons g gs ih =>
    refine ih (step s g) (by rwa [count]) (other s g k p) ?_
    by_cases e : k = g
    · subst e
      exact .inr (own s k hk p)
    · exact h.imp (fun m => (List.mem_cons.1 m).resolve_left e) (kept s g k p)

theorem count_markHalt (f : Wg → Wg) (s : State) (g : Nat) : (s.markHalt f g).wgs.length = s.wgs.length := by
  rw [State.markHalt, wgs_haltWg]
  exact List.length_set

/-- A workgroup that is to move to a core (R315). -/
def Wg.bound (core : Nat) (x : Wg) : Wg := { x with moving := some core }

theorem workgroupMove_idle {s : State} {g core : Nat} (still : (s.wgAt g).moving = none)
    (h : (s.wgAt g).leaving = true ∨ s.mayMove g core = false) : exec (.workgroupMove g core) s = .next s := by
  rw [exec_workgroupMove, execWorkgroupMove]
  dsimp only
  rw [still]
  exact if_pos (by rcases h with h | h <;> simp [h])

/-- A move begins: all that move are bound for the core, on the one where they stand, and are told to stop (R315). -/
theorem workgroupMove_begins {s : State} {g core : Nat} (still : (s.wgAt g).moving = none)
    (stays : (s.wgAt g).leaving = false) (may : s.mayMove g core = true)
    (copies : ∀ c ∈ s.copies, c.wg ∈ s.movers g → c.done = true) : eventGives s (.workgroupMove g core) fun u =>
      (∀ k ∈ s.movers g, (u.wgAt k).moving = some core ∧ (u.wgAt k).core = (s.wgAt k).core) ∧
        .workgroupMove g core ∈ u.agenda := by
  have done : (s.copies.any fun c => (s.movers g).contains c.wg && !c.done) = false := by
    refine List.any_eq_false.2 fun c hc => ?_
    by_cases h : c.wg ∈ s.movers g
    · simp [copies c hc h]
    · simp [h]
  have run : exec (.workgroupMove g core) s =
      .next (((s.movers g).foldl (State.markHalt (Wg.bound core)) s).post (.workgroupMove g core)) := by
    rw [exec_workgroupMove, execWorkgroupMove]
    dsimp only
    rw [still]
    dsimp only
    rw [if_neg (by simp [stays, may]), done]
    rfl
  have calm := foldl_keeps State.tangible (f := State.markHalt (Wg.bound core))
    (tangible_markHalt fun _ => rfl) (s.movers g) s
  refine eventGives_of_tangible run calm ⟨fun k hk => ?_, List.mem_append_right _ (List.mem_singleton.2 rfl)⟩
  have there : k < s.wgs.length := by
    obtain ⟨inGang, -⟩ := List.mem_filter.1 hk
    exact List.mem_range.1 (List.mem_filter.1 inGang).1
  obtain ⟨onCore, moves⟩ := marked_foldl (step := State.markHalt (Wg.bound core))
    (P := fun x => x.core = (s.wgAt k).core) (Q := fun x => x.moving = some core) (count_markHalt _)
    (fun t g j h => by rw [wgAt_markHalt]; split <;> simp_all [Wg.bound])
    (fun t g j _ h => by rw [wgAt_markHalt]; split <;> simp_all [Wg.bound])
    (fun t g hg _ => by rw [wgAt_markHalt, if_pos ⟨rfl, hg⟩]; rfl) (s.movers g) s k there rfl (.inl hk)
  exact ⟨moves, onCore⟩

/-! ### Time slices (R441) -/

/-- A workgroup that is to be vacated (R317). -/
def Wg.asked (x : Wg) : Wg := { x with vacating := true }

/-- One workgroup begins to be vacated, if it can be (R317). -/
def State.askVacate (s : State) (g : Nat) : State :=
  if (s.wgAt g).st == .resident && !(s.wgAt g).vacating && !(s.wgAt g).killed then s.markHalt Wg.asked g else s

theorem askVacate_keeps {γ : Type} (f : State → γ) (h : ∀ s g, f (s.markHalt Wg.asked g) = f s) (s : State) (g : Nat) :
    f (s.askVacate g) = f s := by
  unfold State.askVacate
  split
  · exact h s g
  · rfl

theorem tangible_startVacate (s : State) (gs : List Nat) : (s.startVacate gs).tangible = s.tangible :=
  foldl_keeps State.tangible (f := State.askVacate)
    (askVacate_keeps State.tangible (tangible_markHalt fun _ => rfl)) gs s

/-- Of a workgroup that asking concerns, the mark alone changes. -/
theorem wgAt_askVacate (s : State) (g k : Nat) :
    (s.askVacate g).wgAt k = s.wgAt k ∨ (s.askVacate g).wgAt k = (s.wgAt k).asked := by
  unfold State.askVacate
  split
  · rw [wgAt_markHalt]
    split
    · rename_i h
      exact .inr (by rw [h.1])
    · exact .inl rfl
  · exact .inl rfl

/-- Every resident workgroup that is asked to be vacated is leaving. -/
theorem leaving_startVacate {s : State} {gs : List Nat} {k : Nat} (hk : k < s.wgs.length)
    (resident : (s.wgAt k).st = .resident) (h : k ∈ gs) : ((s.startVacate gs).wgAt k).leaving = true := by
  refine (marked_foldl (step := State.askVacate) (P := fun x => x.st = .resident) (Q := fun x => x.leaving = true)
    (askVacate_keeps (fun s => s.wgs.length) (count_markHalt _)) (fun t g j p => ?_) (fun t g j _ q => ?_)
    (fun t g hg p => ?_) gs s k hk resident (.inl h)).2
  · rcases wgAt_askVacate t g j with e | e <;> rw [e]
    · exact p
    · exact p
  · rcases wgAt_askVacate t g j with e | e <;> rw [e]
    · exact q
    · rfl
  · unfold State.askVacate
    split
    · rw [wgAt_markHalt, if_pos ⟨rfl, hg⟩]
      rfl
    · rename_i no
      cases hv : (t.wgAt g).vacating
      · have dead : (t.wgAt g).killed = true := by simpa [p, hv] using no
        simp [Wg.leaving, dead]
      · simp [Wg.leaving, hv]

theorem mem_sliceWgs {s : State} {ctx core g : Nat} (h : g ∈ s.sliceWgs ctx core) :
    g < s.wgs.length ∧ (s.wgAt g).st = .resident := by
  obtain ⟨c, -, hg⟩ := List.mem_flatMap.1 h
  have on := (List.mem_filter.1 hg).1
  obtain ⟨range, there⟩ := List.mem_filter.1 on
  simp only [Bool.and_eq_true, beq_iff_eq] at there
  exact ⟨List.mem_range.1 range, there.2⟩

/-- Nothing is saved while nothing is being vacated. -/
theorem finishSaves_of_none {s : State} (h : ∀ g ∈ s.wgs, g.vacating = false) : s.finishSaves = s := by
  have none_ : ((List.range s.wgs.length).filter fun g => (s.wgAt g).st == .resident && (s.wgAt g).vacating
      && (s.wgAt g).moving.isNone) = [] := by
    refine List.filter_eq_nil_iff.2 fun g hg => ?_
    have there := List.mem_range.1 hg
    have calm : (s.wgAt g).vacating = false := by
      rw [State.wgAt, List.getD_eq_getElem _ _ there]
      exact h _ (List.getElem_mem there)
    simp [calm]
  rw [State.finishSaves, none_]
  rfl

theorem ctxAt_setCtxAt {s : State} {c : Nat} (x : Ctx) (h : c < s.ctxs.length) : (s.setCtxAt c x).ctxAt c = x := by
  rw [State.ctxAt, State.setCtxAt]
  exact (getD_set ..).trans (if_pos ⟨rfl, h⟩)

/-- A charge that restarts is zero (R441). -/
theorem charged_restartCharge {s : State} {c : Nat} (core : Nat) (h : c < s.ctxs.length) :
    ((s.restartCharge c core).ctxAt c).charged core = 0 := by
  rw [State.restartCharge, ctxAt_setCtxAt _ h, Ctx.charged, countOf]
  have none_ : ((s.ctxAt c).charge.filter fun e => e.1 != core).find? (fun e => e.1 == core) = none :=
    List.find?_eq_none.2 fun e he => by simpa using (List.mem_filter.1 he).2
  rw [none_]
  rfl

theorem charge_of_books {s t : State} (h : t.books = s.books) (c : Nat) : (t.ctxAt c).charge = (s.ctxAt c).charge := by
  have e := congrArg (fun x => x.2.1.getD c Ctx.init.charge) h
  simpa only [State.books, List.getD_map, State.ctxAt] using e

theorem books_of_uncached {s t : State} (h : t.uncached = s.uncached) : t.books = s.books :=
  (congrArg State.books h :)

theorem books_arriveOn (s : State) (core : Nat) : (s.arriveOn core).books = s.books :=
  (congrArg State.books (arriveOn_rest s core) :)

theorem books_setLaunchAt (s : State) (l : Nat) (x : Launch) : (s.setLaunchAt l x).books = s.books :=
  books_of_lives (lives_setLaunchAt s l x)

theorem books_leaveL1 (s : State) (g b : Nat) : (s.leaveL1 g b).books = s.books := by
  unfold State.leaveL1
  split
  · exact books_of_uncached (uncached_giveBack ..)
  · rfl

theorem books_startWg (s : State) (l logical core : Nat) : (s.startWg l logical core).books = s.books :=
  books_arriveOn s core

theorem books_restoreWg (s : State) (g core : Nat) : (s.restoreWg g core).books = s.books := by
  have resume (t : State) (i : Nat) : (if (t.weltAt i).colls.any (fun c => c.wait != .none)
      then t.post (.phaserWaitRelease i) else t).books = t.books := by split <;> rfl
  have stall (t : State) (b : Bool) : (if b = true then t.post (.coreStall core) else t).books = t.books := by
    split <;> rfl
  rw [State.restoreWg]
  refine (stall _ _).trans ?_
  refine (foldl_keeps State.books resume _ _).trans ?_
  refine (foldl_keeps State.books (f := fun (t : State) (x : Nat × Nat) =>
    t.setWeltAt x.1 (t.restoredWelt (s.launchOf (s.wgAt g)) x.1 ((s.freeSlots core).getD x.2 (0, 0))))
    (fun _ _ => rfl) _ _).trans ?_
  refine (foldl_keeps State.books (f := fun t b => State.leaveL1 t g b) (fun t b => books_leaveL1 t g b) _ _).trans ?_
  exact books_arriveOn s core

/-- Bytes written for the host or the scheduler leave the books alone. -/
theorem lives_writeVA {s t : State} {ctx level va : Nat} {bs : List Byte} (h : s.writeVA ctx level va bs = some t) :
    t.lives = s.lives := by
  unfold State.writeVA at h
  split at h
  · cases h
  · split at h
    · obtain rfl := Option.some.inj h
      rw [lives_clearBad, lives_putLocs, lives_unveil, lives_homeTouch, lives_settle]
    · cases h

theorem lives_writeVA_getD (s : State) (ctx level va : Nat) (bs : List Byte) :
    ((s.writeVA ctx level va bs).getD s).lives = s.lives := by
  cases h : s.writeVA ctx level va bs with
  | none => rfl
  | some t => exact lives_writeVA h

theorem books_writeBinding (s : State) (l k : Nat) : (s.writeBinding l k).books = s.books := by
  have if_written (b : Bool) (ctx a : Nat) (bs : List Byte) :
      (if b = true then (s.writeVA ctx 0 a bs).getD s else s).books = s.books := by
    split
    · exact books_of_lives (lives_writeVA_getD ..)
    · rfl
  exact if_written _ _ _ _

theorem books_placeGang (s : State) (l k : Nat) (cores : List Nat) : (s.placeGang l k cores).books = s.books := by
  rw [State.placeGang]
  refine (books_writeBinding _ l k).trans ?_
  refine foldl_keeps State.books (fun t c => ?_) (s.placing l k) s
  split
  · exact books_startWg ..
  · exact books_restoreWg ..

theorem books_dispatch (s : State) (l core : Nat) : (s.dispatch l core).books = s.books := by
  have part (t : State) (c : Nat) : (match t.partOf core with
      | some p => t.setPart { p with lastCtx := c }
      | none => t).books = t.books := by split <;> rfl
  unfold State.dispatch
  split
  · rfl
  · exact (part _ _).trans ((books_setLaunchAt _ _ _).trans (books_placeGang ..))

theorem books_dispatchOthers (ctx core n : Nat) (s : State) : (State.dispatchOthers ctx core n s).books = s.books := by
  induction n generalizing s with
  | zero => rfl
  | succ n ih =>
    rw [State.dispatchOthers]
    split
    · exact (ih _).trans (books_dispatch ..)
    · rfl

/-- A core that has switched a context out gives the core to other work, and the charge restarts (R441). -/
theorem timeSliceExpiry_done {s : State} {c core : Nat} (hc : c < s.ctxs.length) (hcore : core < 192)
    (calm : ∀ g ∈ s.wgs, g.vacating = false) (out : (s.coreAt core).slicedOut = some c) :
    ∃ u, exec (.timeSliceExpiry c core) s = .next u ∧ (u.ctxAt c).charged core = 0 ∧
      (u.coreAt core).slicedOut = none := by
  have none_ : ((s.sliceWgs c core).any fun g => (s.wgAt g).vacating) = false := by
    refine List.any_eq_false.2 fun g hg => ?_
    have there := (mem_sliceWgs hg).1
    rw [State.wgAt, List.getD_eq_getElem _ _ there, calm _ (List.getElem_mem there)]
    nofun
  have run : exec (.timeSliceExpiry c core) s =
      .next ((State.dispatchOthers c core 96 (s.restartCharge c core)).setSlicedOut core none) := by
    rw [exec_timeSliceExpiry, execTimeSliceExpiry]
    dsimp only
    rw [if_pos (by rw [out]; exact beq_self_eq_true _), finishSaves_of_none calm, none_]
    rfl
  refine ⟨_, run, ?_, ?_⟩
  · have charge := charge_of_books (books_dispatchOthers c core 96 (s.restartCharge c core)) c
    have zero := charged_restartCharge core hc
    rw [Ctx.charged] at zero ⊢
    rw [← charge] at zero
    exact zero
  · rw [State.setSlicedOut, coreAt_setCoreAt_same _ _ hcore]

section
variable {s : State} {c core : Nat} (stays : (s.coreAt core).slicedOut ≠ some c)
include stays

theorem timeSliceExpiry_early (early : (s.ctxAt c).charged core < (s.ctxAt c).slice) :
    exec (.timeSliceExpiry c core) s = .next s := by
  rw [exec_timeSliceExpiry, execTimeSliceExpiry]
  dsimp only
  rw [if_neg (by simpa using stays), if_pos early]

theorem timeSliceExpiry_over (over_ : (s.ctxAt c).slice ≤ (s.ctxAt c).charged core) : exec (.timeSliceExpiry c core) s =
    if s.othersWait c core then
      .next (((s.startVacate (s.sliceWgs c core)).setSlicedOut core (some c)).post (.timeSliceExpiry c core))
    else if s.othersReady c core then .next s
    else .next (s.restartCharge c core) := by
  rw [exec_timeSliceExpiry, execTimeSliceExpiry]
  dsimp only
  rw [if_neg (by simpa using stays), if_neg (Nat.not_lt.2 over_)]

/-- The work of others waits for the core: the context's workgroups there begin to be switched out (R441). -/
theorem timeSliceExpiry_begins (hcore : core < 192) (over_ : (s.ctxAt c).slice ≤ (s.ctxAt c).charged core)
    (waits : s.othersWait c core = true) : eventGives s (.timeSliceExpiry c core) fun u =>
      .timeSliceExpiry c core ∈ u.agenda ∧ (u.coreAt core).slicedOut = some c ∧
        ∀ g ∈ s.sliceWgs c core, (u.wgAt g).leaving = true := by
  have run := (timeSliceExpiry_over stays over_).trans (if_pos waits)
  have calm := tangible_startVacate s (s.sliceWgs c core)
  have leaves (g : Nat) (hg : g ∈ s.sliceWgs c core) : ((s.startVacate (s.sliceWgs c core)).wgAt g).leaving = true :=
    leaving_startVacate (mem_sliceWgs hg).1 (mem_sliceWgs hg).2 hg
  generalize s.startVacate (s.sliceWgs c core) = t at run calm leaves
  exact eventGives_of_tangible run calm ⟨List.mem_append_right _ (List.mem_singleton.2 rfl),
    congrArg Core.slicedOut (coreAt_setCoreAt_same _ _ hcore), leaves⟩

end

theorem tangible_restartCharge (s : State) (c core : Nat) : (s.restartCharge c core).tangible = s.tangible := rfl

/-! ### What ends leaves the books (R320) -/

theorem books_endWg (s : State) (g : Nat) (ok : Bool) : (s.endWg g ok).books = s.books :=
  (congrArg (fun x => x.2.2) (lives_endWg s g ok) :)

theorem books_endWelt (s : State) (w : Nat) (ok : Bool) : (s.endWelt w ok).books = s.books := by
  have closed : (s.closeWelt w).books = s.books := (congrArg (fun x => x.2.2) (lives_closeWelt s w) :)
  cases h : (s.weltAt w).ended
  · rw [endWelt_of_running ok h]
    split
    · exact (books_endWg ..).trans closed
    · exact closed
  · rw [State.endWelt, if_pos h]

/-- A welt of a workgroup that is stopped: its lanes have exited, and nothing holds or serves it (R437). -/
def Welt.halted (w : Welt) : Welt :=
  { w with
    lanes := w.lanes.map fun l => { l with x := true, h := false, depth := 0, pc := 0 }
    serial := none, halt := .none, service := false
    streams := w.streams.map fun st => { st with queue := [] } }

/-- A welt stopped and ended as by EXIT (R437). -/
def State.stopWelt (s : State) (w : Nat) : State := (s.setWeltAt w (s.weltAt w).halted).endWelt w false

/-- The entries and partials of a workgroup discarded (R239, R242). -/
def State.discardWg (s : State) (g : Nat) : State :=
  (s.setWgAt g { s.wgAt g with detBuf := [], partials := [] }).clearArea (s.wgAt g)

theorem stopWg_eq (s : State) (g : Nat) (discard : Bool) : s.stopWg g discard =
    if (s.wgAt g).st = .ended then s
    else (((if discard then s.discardWg g else s).weltsOf g).foldl State.stopWelt
      (if discard then s.discardWg g else s)).endWg g false := rfl

theorem books_stopWelt (s : State) (w : Nat) : (s.stopWelt w).books = s.books := books_endWelt _ w false

theorem books_discardWg (s : State) (g : Nat) : (s.discardWg g).books = s.books :=
  (books_of_lives (lives_clearArea ..)).trans rfl

theorem books_stopWg (s : State) (g : Nat) (discard : Bool) : (s.stopWg g discard).books = s.books := by
  rw [stopWg_eq]
  split
  · rfl
  · refine (books_endWg ..).trans ((foldl_keeps State.books books_stopWelt _ _).trans ?_)
    split
    · exact books_discardWg ..
    · rfl

theorem books_faultWg (s : State) (g : Nat) (cause : BitVec 8) (discard : Bool) :
    (s.faultWg g cause discard).books = s.books :=
  (books_stopWg _ g discard).trans (books_setLaunchAt ..)

theorem books_haltWelt (s : State) (k : HaltKind) (i : Nat) : (s.haltWelt k i).books = s.books := by
  rcases haltWelt_cases s k i with ⟨-, e⟩ | ⟨y, -, e⟩ <;> rw [e]
  rfl

theorem books_takeTrap (s : State) (i n : Nat) (t : TrapInfo) : (s.takeTrap i n t).books = s.books :=
  (foldl_keeps State.books (f := fun s k => State.haltWelt s (.sibling n) k)
    (fun t k => books_haltWelt t _ k) _ _).trans ((rfl : _ = (s.endLease i).books).trans (books_of_lives (lives_endLease s i)))

/-- A trap, wherever it is taken, tells the management plane nothing. -/
theorem books_raiseIn (s : State) (i : Nat) (t : TrapInfo) : (s.raiseIn i t).books = s.books := by
  cases alive : (s.wgAt (s.weltAt i).wg).killed
  · cases level : s.takeLevel (s.weltAt i) 4 (firstLevel (s.weltAt i) t) with
    | none =>
      rw [State.raiseIn]
      dsimp only
      rw [if_neg (by rw [alive]; nofun), level]
      exact books_faultWg ..
    | some n =>
      rw [raiseIn_eq alive level]
      split
      · exact books_takeTrap ..
      · exact books_takeTrap ..
  · rw [State.raiseIn]
    dsimp only
    rw [if_pos alive]
    rfl

/-! ### Hangs (R337, R451) -/

theorem length_insertKey {α : Type} (le : α → α → Bool) (x : α) (l : List α) :
    (insertKey le x l).length = l.length + 1 := by
  induction l with
  | nil => rfl
  | cons y l ih =>
    rw [insertKey]
    split
    · rfl
    · exact congrArg (· + 1) ih

theorem length_sortKey {α : Type} (le : α → α → Bool) (l : List α) : (sortKey le l).length = l.length := by
  induction l with
  | nil => rfl
  | cons x l ih => rw [sortKey, length_insertKey, ih, List.length_cons]

theorem length_flit (ws : List W64) : (flit ws).length = 8 := by
  rw [flit, List.length_map, List.length_range]

/-- Words fill one flit for each eight of them, and one for what is left. -/
theorem length_flits (n : Nat) (ws : List W64) : (flits n ws).length = min n ((ws.length + 7) / 8) := by
  induction n generalizing ws with
  | zero => simp [flits]
  | succ n ih =>
    rw [flits]
    split
    · rename_i h
      simp [List.isEmpty_iff.1 h]
    · rename_i h
      have some_ : 0 < ws.length := List.length_pos_iff.2 fun e => h (by rw [e]; rfl)
      rw [List.length_cons, ih, List.length_drop]
      omega

theorem flits_of_eight (n : Nat) (ws : List W64) : ∀ m ∈ flits n ws, m.length = 8 := by
  induction n generalizing ws with
  | zero => simp [flits]
  | succ n ih =>
    rw [flits]
    split
    · simp
    · intro m hm
      rcases List.mem_cons.1 hm with rfl | hm
      · exact length_flit ws
      · exact ih _ m hm

/-- The welts of a workgroup in the order of their numbers (R337). -/
def State.hangWelts (s : State) (g : Nat) : List Nat :=
  sortKey (fun a b => decide ((s.weltAt a).index ≤ (s.weltAt b).index)) (s.liveWelts g)

/-- The wait records of a workgroup, in flits (R337). -/
def State.hangRecords (s : State) (g : Nat) : List (List W64) :=
  flits (s.hangWelts g).length ((s.hangWelts g).flatMap fun i => waitRecord (s.weltAt i) (s.wgAt g))

theorem length_hangRecords {s : State} {g : Nat} (h : s.liveWelts g ≠ []) :
    (s.hangRecords g).length = (2 * (s.liveWelts g).length + 7) / 8 := by
  have some_ := List.length_pos_iff.2 h
  have words (is : List Nat) :
      (is.flatMap fun i => waitRecord (s.weltAt i) (s.wgAt g)).length = 2 * is.length := by
    induction is with
    | nil => rfl
    | cons i is ih =>
      rw [List.flatMap_cons, List.length_append, ih, List.length_cons]
      exact Nat.add_comm 2 _
  rw [State.hangRecords, length_flits, words, State.hangWelts, length_sortKey]
  omega

/-- A hang is told to the management plane in one message and its records (R337, R451). -/
theorem mgmtOut_hangWg (s : State) (g : Nat) : (s.hangWg g).mgmtOut = s.mgmtOut ++
    [BitVec.ofNat 64 (2 ^ 56), BitVec.ofNat 64 (s.ctxAt (s.launchOf (s.wgAt g)).ctx).part,
      BitVec.ofNat 64 (s.ctxAt (s.launchOf (s.wgAt g)).ctx).num.toNat, BitVec.ofNat 64 (s.launchOf (s.wgAt g)).seq,
      BitVec.ofNat 64 (s.wgAt g).logical, 0, 0, 0] :: s.hangRecords g := by
  have told (t : State) (p : Part) (entries recs : List (List W64)) (words : List W64) :
      ({ (t.report p entries).tellMgmt 1 words with
        mgmtOut := ((t.report p entries).tellMgmt 1 words).mgmtOut ++ recs } : State).mgmtOut =
        t.mgmtOut ++ flit (BitVec.ofNat 64 (1 * 2 ^ 56) :: words) :: recs := by
    have same : (t.report p entries).mgmtOut = t.mgmtOut :=
      congrArg (fun x => x.2.2) (books_of_lives (lives_report t p entries))
    rw [State.tellMgmt, same]
    exact List.append_assoc ..
  have raised (t : State) (o : Option Nat) (trap : Nat → TrapInfo) :
      (match o with
        | some i => t.raiseIn i (trap i)
        | none => t).mgmtOut = t.mgmtOut := by
    split
    · exact congrArg (fun x => x.2.2) (books_raiseIn ..)
    · rfl
  unfold State.hangWg
  exact (raised _ _ _).trans (told ..)

/-- A hang of the one workgroup of a core (R337). -/
theorem hang_one {s : State} {core g : Nat} (hcore : core < 192) (hung : s.hungWgs core = [g]) :
    ∃ u more, exec (.hang core) s = .next u ∧ (u.coreAt core).timerStart = s.now ∧
      u.mgmtOut = s.mgmtOut ++ [BitVec.ofNat 64 (2 ^ 56), BitVec.ofNat 64 (s.ctxAt (s.launchOf (s.wgAt g)).ctx).part,
        BitVec.ofNat 64 (s.ctxAt (s.launchOf (s.wgAt g)).ctx).num.toNat, BitVec.ofNat 64 (s.launchOf (s.wgAt g)).seq,
        BitVec.ofNat 64 (s.wgAt g).logical, 0, 0, 0] :: more ∧
      more.length = (2 * (s.liveWelts g).length + 7) / 8 ∧ ∀ m ∈ more, m.length = 8 := by
  have alive : s.liveWelts g ≠ [] := by
    have mem : g ∈ s.hungWgs core := hung ▸ List.mem_singleton.2 rfl
    unfold State.hungWgs at mem
    dsimp only at mem
    split at mem
    · cases mem
    · split at mem
      · simpa using (List.mem_filter.1 mem).2
      · cases mem
  have run : exec (.hang core) s =
      .next ((s.hangWg g).setCoreAt core { (s.hangWg g).coreAt core with timerStart := s.now }) := by
    rw [exec_hang, execHang]
    dsimp only
    rw [hung]
    rfl
  exact ⟨_, s.hangRecords g, run, congrArg Core.timerStart (coreAt_setCoreAt_same _ _ hcore), mgmtOut_hangWg s g,
    length_hangRecords alive, flits_of_eight _ _⟩

theorem hang_none {s : State} {core : Nat} (hung : s.hungWgs core = []) : exec (.hang core) s = .next s := by
  rw [exec_hang, execHang]
  dsimp only
  rw [hung]
  rfl

/-! ### Gating (R336) -/

theorem coreClockGate_next (s : State) {core : Nat} (h : core < 192) :
    if s.gateDue core then eventGives s (.coreClockGate core) fun u => (u.coreAt core).gate = .clock s.now
    else exec (.coreClockGate core) s = .next s := by
  split
  · rename_i due
    exact eventGives_of_tangible ((exec_coreClockGate core s).trans (if_pos due)) (tangible_setCoreAt ..)
      (congrArg Core.gate (coreAt_setCoreAt_same _ _ h))
  · rename_i due
    exact (exec_coreClockGate core s).trans (if_neg due)

theorem corePowerGate_clocked {s : State} {core t : Nat} (gate : (s.coreAt core).gate = .clock t)
    (late : t + 65536 ≤ s.now) : exec (.corePowerGate core) s =
      if s.coreWaits core then .next (s.setCoreAt core { s.coreAt core with gate := .power }) else .next s := by
  rw [exec_corePowerGate, execCorePowerGate, gate]
  dsimp only
  simp only [late, decide_true, Bool.true_and]

theorem corePowerGate_on {s : State} {core : Nat} (gate : (s.coreAt core).gate = .on) :
    exec (.corePowerGate core) s = .next s := by
  rw [exec_corePowerGate, execCorePowerGate, gate]

theorem coreWake_next (s : State) {core : Nat} (h : core < 192) : eventGives s (.coreWake core) fun u =>
    (u.coreAt core).gate = .on ∧ ∀ k, k ≠ core → u.coreAt k = s.coreAt k :=
  eventGives_of_tangible (exec_coreWake core s) (tangible_setCoreAt ..)
    ⟨congrArg Core.gate (coreAt_setCoreAt_same _ _ h), fun _ hk => coreAt_setCoreAt_ne _ _ hk⟩

/-! ### The end of a launch (R312, R320) -/

/-- From `s` to `t` no workgroup has come to stand otherwise but one that has ended. -/
structure OnlyEnds (s t : State) : Prop where
  count : t.wgs.length = s.wgs.length
  welts : t.welts.length = s.welts.length
  stands : ∀ g, (t.wgAt g).st = (s.wgAt g).st ∨ (t.wgAt g).st = .ended

theorem OnlyEnds.refl (s : State) : OnlyEnds s s := ⟨rfl, rfl, fun _ => .inl rfl⟩

theorem OnlyEnds.trans {s t u : State} (a : OnlyEnds s t) (b : OnlyEnds t u) : OnlyEnds s u where
  count := b.count.trans a.count
  welts := b.welts.trans a.welts
  stands g := by
    rcases b.stands g with e | e
    · rw [e]
      exact a.stands g
    · exact .inr e

theorem onlyEnds_of_lives {s t : State} (h : t.lives.2 = s.lives.2) (n : t.welts.length = s.welts.length) :
    OnlyEnds s t where
  count := by simpa only [State.lives, List.length_map] using congrArg (fun x => x.1.length) h
  welts := n
  stands g := by
    have e := congrArg (fun x => (x.1.getD g Wg.init.standing).2) h
    simp only [State.lives, List.getD_map] at e
    exact .inl e

/-- A workgroup that ends is the only one that stands otherwise. -/
theorem st_endWg (s : State) (g k : Nat) (ok : Bool) : ((s.endWg g ok).wgAt k).st =
    if g = k ∧ k < s.wgs.length then .ended else (s.wgAt k).st := by
  have e := congrArg (fun x => (x.2.1.getD k Wg.init.standing).2) (lives_endWg s g ok)
  simp only [State.lives, List.getD_map, getD_set, List.length_map] at e
  refine e.trans ?_
  split <;> rfl

theorem onlyEnds_endWg (s : State) (g : Nat) (ok : Bool) : OnlyEnds s (s.endWg g ok) where
  count := by simpa only [State.lives, List.length_set, List.length_map]
    using congrArg (fun x => x.2.1.length) (lives_endWg s g ok)
  welts := by simpa only [State.lives, List.length_map] using congrArg (fun x => x.1.length) (lives_endWg s g ok)
  stands k := by
    rw [st_endWg]
    split
    · exact .inr rfl
    · exact .inl rfl

theorem onlyEnds_endWelt (s : State) (w : Nat) (ok : Bool) : OnlyEnds s (s.endWelt w ok) := by
  have closed : OnlyEnds s (s.closeWelt w) := by
    have e := lives_closeWelt s w
    refine onlyEnds_of_lives (congrArg Prod.snd e :) ?_
    simpa only [State.lives, List.length_set, List.length_map] using congrArg (fun x => x.1.length) e
  cases h : (s.weltAt w).ended
  · rw [endWelt_of_running ok h]
    split
    · exact closed.trans (onlyEnds_endWg ..)
    · exact closed
  · rw [State.endWelt, if_pos h]
    exact .refl s

theorem onlyEnds_stopWelt (s : State) (w : Nat) : OnlyEnds s (s.stopWelt w) :=
  OnlyEnds.trans (t := s.setWeltAt w (s.weltAt w).halted) (onlyEnds_of_lives rfl (length_setWeltAt ..))
    (onlyEnds_endWelt ..)

theorem onlyEnds_foldl {α : Type} {f : State → α → State} (h : ∀ s a, OnlyEnds s (f s a)) (as : List α) (s : State) :
    OnlyEnds s (as.foldl f s) :=
  List.foldlRecOn as f (motive := OnlyEnds s) (.refl s) fun t ht a _ => ht.trans (h t a)

/-- A workgroup that is stopped has ended, and no other stands otherwise unless it has ended too. -/
theorem stopWg_ends (s : State) (g : Nat) : OnlyEnds s (s.stopWg g false) ∧
    (g < s.wgs.length → ((s.stopWg g false).wgAt g).st = .ended) := by
  have welts := onlyEnds_foldl onlyEnds_stopWelt (s.weltsOf g) s
  rw [stopWg_eq]
  split
  · rename_i gone
    exact ⟨.refl s, fun _ => gone⟩
  · refine ⟨welts.trans (onlyEnds_endWg ..), fun h => ?_⟩
    refine (st_endWg ..).trans (if_pos ⟨rfl, ?_⟩)
    exact welts.count.symm ▸ h

/-- Every workgroup of some that are stopped has ended. -/
theorem ended_foldl_stopWg (gs : List Nat) {s : State} {g : Nat} (hg : g < s.wgs.length)
    (h : g ∈ gs ∨ (s.wgAt g).st = .ended) : ((gs.foldl (fun s g => s.stopWg g false) s).wgAt g).st = .ended := by
  induction gs generalizing s with
  | nil => exact h.resolve_left (by simp)
  | cons k gs ih =>
    obtain ⟨only, own⟩ := stopWg_ends s k
    refine ih (only.count.symm ▸ hg) ?_
    by_cases e : g = k
    · subst e
      exact .inr (own hg)
    · refine h.imp (fun m => (List.mem_cons.1 m).resolve_left e) fun gone => ?_
      rcases only.stands g with st | st
      · exact st.trans gone
      · exact st

/-- Of a launch that dispatches nothing any more no saved workgroup remains (R320). -/
theorem endSaved_spec {s : State} {l g : Nat} (broken : (s.launchAt l).broken = true) (hg : g < s.wgs.length)
    (hl : (s.wgAt g).launch = l) : ((s.endSaved l).wgAt g).st ≠ .saved := by
  rw [State.endSaved, if_pos broken]
  by_cases saved : (s.wgAt g).st = .saved
  · rw [ended_foldl_stopWg _ hg (.inl ?_)]
    · nofun
    · exact List.mem_filter.2 ⟨List.mem_range.2 hg, by simp [hl, saved]⟩
  · rcases (onlyEnds_foldl (f := fun s g => State.stopWg s g false)
      (fun t k => (stopWg_ends t k).1) _ s).stands g with e | e
    · rw [e]
      exact saved
    · rw [e]
      nofun

/-- Where a launch still dispatches, or has nothing saved, its end takes no saved workgroup (R320). -/
theorem endSaved_of_rest {s : State} {l : Nat} (h : (s.launchAt l).broken = false ∨
    ∀ g < s.wgs.length, (s.wgAt g).launch = l → (s.wgAt g).st ≠ .saved) : s.endSaved l = s := by
  rw [State.endSaved]
  split
  · rename_i broken
    have kept := h.resolve_left (by rw [broken]; nofun)
    have none_ : ((List.range s.wgs.length).filter fun g =>
        (s.wgAt g).launch == l && (s.wgAt g).st == .saved) = [] := by
      refine List.filter_eq_nil_iff.2 fun g hg => ?_
      simpa using kept g (List.mem_range.1 hg)
    rw [none_]
    rfl
  · rfl

theorem lives_endRanges (s : State) (l : Nat) : (s.endRanges l).lives = s.lives := lives_combine ..

/-- A launch that has ended has its JOIN word, and waits for no place any more (R320). -/
def State.joined (s : State) (l : Nat) (j : W64) : State :=
  let t := (s.applyLaunch l).endRanges l
  t.setLaunchAt l { t.launchAt l with join := some j, candidate := none, waiting := none }

theorem lives_joined (s : State) (l : Nat) (j : W64) : (s.joined l j).lives = s.lives :=
  (lives_setLaunchAt ..).trans ((lives_endRanges ..).trans (lives_applyLaunch ..))

theorem join_joined {s : State} {l : Nat} (j : W64) (h : l < s.launches.length) :
    ((s.joined l j).launchAt l).join = some j := by
  have count : ((s.applyLaunch l).endRanges l).launches.length = s.launches.length :=
    congrArg Prod.fst (books_of_lives ((lives_endRanges ..).trans (lives_applyLaunch s l)))
  exact congrArg Launch.join (launchAt_setLaunchAt _ (h.trans_eq count.symm))

theorem launches_get {s : State} {l : Nat} (h : l < s.launches.length) : s.launches[l]? = some (s.launchAt l) := by
  rw [State.launchAt, List.getD_eq_getElem _ _ h, List.getElem?_eq_getElem h]

/-- The JOIN word of a launch that ends now. -/
def State.joinOf (s : State) (l : Nat) : W64 := joinWord (s.launchAt l).flags (s.boxLost l)

theorem launchEnd_gone {s : State} {l : Nat} (h : (s.endSaved l).launches[l]? = none) :
    exec (.launchEnd l) s = .next (s.endSaved l) := by
  rw [exec_launchEnd, execLaunchEnd, h]

theorem launchEnd_listed {s : State} {l : Nat} (h : l < (s.endSaved l).launches.length) :
    let t := s.endSaved l
    exec (.launchEnd l) s = .next (if (t.launchAt l).join.isSome || !(t.launchOver l) then t
      else if (t.launchAt l).host then (t.joined l (t.joinOf l)).hostEnd l (t.joinOf l)
      else t.joined l (t.joinOf l)) := by
  rw [exec_launchEnd, execLaunchEnd, launches_get h]
  dsimp only
  split
  · rfl
  · rfl

theorem wgs_complete (s : State) (c kind status cseq : Nat) (val join : W64) :
    (s.complete c kind status cseq val join).wgs = s.wgs := by
  unfold State.complete
  dsimp only
  split <;> rfl

/-- The completion of a host launch changes no workgroup's standing. -/
theorem st_hostEnd (s : State) (l : Nat) (j : W64) (g : Nat) : ((s.hostEnd l j).wgAt g).st = (s.wgAt g).st := by
  have completed (t : Option State) (h : ∀ u, t = some u → u.lives = s.lives) (c kind status cseq : Nat) (val : W64) :
      (((t.getD s).complete c kind status cseq val j).wgAt g).st = (s.wgAt g).st := by
    rw [State.wgAt, wgs_complete, ← State.wgAt]
    refine congrArg Prod.snd (standing_of_lives (t := t.getD s) ?_ g)
    cases t with
    | none => rfl
    | some u => exact h u rfl
  refine completed _ (fun u hu => ?_) ..
  split at hu
  · rw [Option.some.inj hu]
  · split at hu
    · cases hu
    · exact lives_writeVA hu

/-- When a broken launch comes to its end none of its workgroups stays saved (R320). -/
theorem launchEnd_broken {s : State} {l : Nat} (broken : (s.launchAt l).broken = true) :
    ∃ u, exec (.launchEnd l) s = .next u ∧ ∀ g < s.wgs.length, (s.wgAt g).launch = l → (u.wgAt g).st ≠ .saved := by
  have none_ {g : Nat} := endSaved_spec (g := g) broken
  have joined (j : W64) (g : Nat) : (((s.endSaved l).joined l j).wgAt g).st = ((s.endSaved l).wgAt g).st :=
    congrArg Prod.snd (standing_of_lives (lives_joined ..) g)
  by_cases h : l < (s.endSaved l).launches.length
  · refine ⟨_, launchEnd_listed h, fun g hg hl => ?_⟩
    split
    · exact none_ hg hl
    · split
      · rw [st_hostEnd, joined]
        exact none_ hg hl
      · rw [joined]
        exact none_ hg hl
  · exact ⟨_, launchEnd_gone (List.getElem?_eq_none (Nat.not_lt.1 h)), fun g => none_⟩

section
variable {s : State} {l : Nat} (there : l < s.launches.length) (rest : (s.launchAt l).broken = false ∨
    ∀ g < s.wgs.length, (s.wgAt g).launch = l → (s.wgAt g).st ≠ .saved) (open_ : (s.launchAt l).join = none)
include there rest open_

theorem launchEnd_waits (early : s.launchOver l = false) : exec (.launchEnd l) s = .next s := by
  have same := endSaved_of_rest rest
  rw [launchEnd_listed (by rwa [same]), same, if_pos (by rw [early, open_]; rfl)]

theorem launchEnd_joins (over_ : s.launchOver l = true) (device : (s.launchAt l).host = false) :
    exec (.launchEnd l) s = .next (s.joined l (s.joinOf l)) := by
  have same := endSaved_of_rest rest
  rw [launchEnd_listed (by rwa [same]), same, if_neg (by rw [over_, open_]; nofun), if_neg (by rw [device]; nofun)]

end

/-- The JOIN word by the statuses that R320 ranks. -/
theorem joinWord_spec (f : Flags) (lost : Bool) : (f.unplaced = true → joinWord f lost = 0x3B04) ∧
    (f.unplaced = false → f.cancelled = true ∨ lost = true → joinWord f lost = 3) ∧
    (f.unplaced = false → f.cancelled = false → lost = false →
      (∀ c, f.killed = some c → joinWord f lost = BitVec.ofNat 64 (2 + 2 ^ 8 * c.toNat)) ∧
      (∀ c, f.killed = none → f.faulted = some c → joinWord f lost = BitVec.ofNat 64 (1 + 2 ^ 8 * c.toNat)) ∧
      (f.killed = none → f.faulted = none → joinWord f lost = 0)) := by
  refine ⟨fun h => ?_, fun h g => ?_, fun h c g => ⟨fun k hk => ?_, fun k hk hf => ?_, fun hk hf => ?_⟩⟩
  · rw [joinWord, if_pos h]
    rfl
  · rw [joinWord, if_neg (by rw [h]; nofun), if_pos (by rcases g with g | g <;> simp [g])]
  all_goals
    rw [joinWord, if_neg (by rw [h]; nofun), if_neg (by rw [c, g]; nofun), hk]
  · rw [hf]
  · rw [hf]

/-- Settles O47: dispatch, gangs, the end of a launch, moves, slices, gating and hangs, each by the lemmas for its
event. -/
theorem schedulerEvents : Obligations.SchedulerEvents := by
  intro s l core hcore x
  refine ⟨fun later => (exec_workgroupDispatch l core s).trans (congrArg _ (if_neg (by rw [later]; nofun))),
    fun k first place one new free alone => ?_, fun hl => ⟨gangCandidateReserve_next hl, gangPatienceExpiry_none,
      fun c => gangPatienceExpiry_early, fun c => gangPatienceExpiry_fails hl, launchEnd_broken,
      fun rest open_ => launchEnd_waits hl rest open_, fun rest open_ over_ device => ?_⟩,
    fun g _ still => ⟨workgroupMove_idle still, workgroupMove_begins still⟩,
    fun c hc calm out => timeSliceExpiry_done hc hcore calm out,
    fun c hc _ stays => ⟨timeSliceExpiry_early stays, fun over_ idle => ⟨fun ready => ?_, fun none_ => ?_⟩,
      timeSliceExpiry_begins stays hcore⟩,
    coreClockGate_next s hcore, fun t gate late => ⟨fun waits => ?_, fun busy => ?_⟩, corePowerGate_on,
    coreWake_next s hcore, hang_none, fun g => hang_one hcore⟩
  · obtain ⟨u, run, wgs, mem, host, welts⟩ := dispatch_one first place one new free alone
    obtain ⟨old, fresh⟩ := weltAt_append welts
    refine ⟨u, s.freshWg l k core, run, wgs, rfl, rfl, rfl, rfl, mem, host, old, ?_, fun i hi => ?_⟩
    · rw [welts, List.length_append, List.length_map, List.length_range]
    · have at_ : u.weltAt (s.welts.length + i) = s.freshWelt l core i := by
        rw [fresh i (by rwa [List.length_map, List.length_range]), List.getD_eq_getElem _ _ (by simpa using hi)]
        simp
      rw [at_]
      exact newWelt_spec ..
  · have word := joinWord_spec x.flags (s.boxLost l)
    exact ⟨_, _, launchEnd_joins hl rest open_ over_ device, join_joined _ hl, word⟩
  · rw [timeSliceExpiry_over stays over_, idle, ready]
    rfl
  · refine eventGives_of_tangible ?_ (tangible_restartCharge s c core) (charged_restartCharge core hc)
    rw [timeSliceExpiry_over stays over_, idle, none_]
    rfl
  · exact eventGives_of_tangible ((corePowerGate_clocked gate late).trans (if_pos waits)) (tangible_setCoreAt ..)
      (congrArg Core.gate (coreAt_setCoreAt_same _ _ hcore))
  · rw [corePowerGate_clocked gate late, busy]
    rfl

end Sys2Proof.Machine

/-!
Decoding what has been encoded (R79-R93), constructor by constructor, then O56 and O60. The decoder reads a word field by
field, and the fields of an encoded word are laid side by side: each read finds one field whole.
-/

namespace Sys2Proof.Laws.ReadBack

/-! ### Fields of a word -/

/-- The last field, read whole. The index of `simp` cannot match the width of a joined word, so it is left out. -/
@[simp] theorem extractLsb'_last {n m : Nat} (x : BitVec n) (y : BitVec m) :
    (no_index (x ++ y)).extractLsb' 0 m = y := by
  rw [BitVec.extractLsb'_append_eq_of_add_le (by omega), BitVec.extractLsb'_eq_self]

/-- A field above the last, of `m` bits, is a field of the rest. -/
theorem extractLsb'_above (m : Nat) {n s l : Nat} (x : BitVec n) (y : BitVec m) :
    (no_index (x ++ y)).extractLsb' (s + m) l = x.extractLsb' s l := by
  rw [BitVec.extractLsb'_append_eq_of_le (by omega), Nat.add_sub_cancel]

/-! The same for each width of a field in R82-R92: matched against a literal place, `s + m` needs a literal `m`. -/

@[simp] theorem extractLsb'_above_1 {n s l : Nat} (x : BitVec n) (y : BitVec 1) :
    (no_index (x ++ y)).extractLsb' (s + 1) l = x.extractLsb' s l := extractLsb'_above 1 x y
@[simp] theorem extractLsb'_above_2 {n s l : Nat} (x : BitVec n) (y : BitVec 2) :
    (no_index (x ++ y)).extractLsb' (s + 2) l = x.extractLsb' s l := extractLsb'_above 2 x y
@[simp] theorem extractLsb'_above_3 {n s l : Nat} (x : BitVec n) (y : BitVec 3) :
    (no_index (x ++ y)).extractLsb' (s + 3) l = x.extractLsb' s l := extractLsb'_above 3 x y
@[simp] theorem extractLsb'_above_4 {n s l : Nat} (x : BitVec n) (y : BitVec 4) :
    (no_index (x ++ y)).extractLsb' (s + 4) l = x.extractLsb' s l := extractLsb'_above 4 x y
@[simp] theorem extractLsb'_above_5 {n s l : Nat} (x : BitVec n) (y : BitVec 5) :
    (no_index (x ++ y)).extractLsb' (s + 5) l = x.extractLsb' s l := extractLsb'_above 5 x y
@[simp] theorem extractLsb'_above_6 {n s l : Nat} (x : BitVec n) (y : BitVec 6) :
    (no_index (x ++ y)).extractLsb' (s + 6) l = x.extractLsb' s l := extractLsb'_above 6 x y
@[simp] theorem extractLsb'_above_7 {n s l : Nat} (x : BitVec n) (y : BitVec 7) :
    (no_index (x ++ y)).extractLsb' (s + 7) l = x.extractLsb' s l := extractLsb'_above 7 x y
@[simp] theorem extractLsb'_above_8 {n s l : Nat} (x : BitVec n) (y : BitVec 8) :
    (no_index (x ++ y)).extractLsb' (s + 8) l = x.extractLsb' s l := extractLsb'_above 8 x y
@[simp] theorem extractLsb'_above_9 {n s l : Nat} (x : BitVec n) (y : BitVec 9) :
    (no_index (x ++ y)).extractLsb' (s + 9) l = x.extractLsb' s l := extractLsb'_above 9 x y
@[simp] theorem extractLsb'_above_10 {n s l : Nat} (x : BitVec n) (y : BitVec 10) :
    (no_index (x ++ y)).extractLsb' (s + 10) l = x.extractLsb' s l := extractLsb'_above 10 x y
@[simp] theorem extractLsb'_above_11 {n s l : Nat} (x : BitVec n) (y : BitVec 11) :
    (no_index (x ++ y)).extractLsb' (s + 11) l = x.extractLsb' s l := extractLsb'_above 11 x y
@[simp] theorem extractLsb'_above_12 {n s l : Nat} (x : BitVec n) (y : BitVec 12) :
    (no_index (x ++ y)).extractLsb' (s + 12) l = x.extractLsb' s l := extractLsb'_above 12 x y
@[simp] theorem extractLsb'_above_13 {n s l : Nat} (x : BitVec n) (y : BitVec 13) :
    (no_index (x ++ y)).extractLsb' (s + 13) l = x.extractLsb' s l := extractLsb'_above 13 x y
@[simp] theorem extractLsb'_above_15 {n s l : Nat} (x : BitVec n) (y : BitVec 15) :
    (no_index (x ++ y)).extractLsb' (s + 15) l = x.extractLsb' s l := extractLsb'_above 15 x y
@[simp] theorem extractLsb'_above_16 {n s l : Nat} (x : BitVec n) (y : BitVec 16) :
    (no_index (x ++ y)).extractLsb' (s + 16) l = x.extractLsb' s l := extractLsb'_above 16 x y
@[simp] theorem extractLsb'_above_17 {n s l : Nat} (x : BitVec n) (y : BitVec 17) :
    (no_index (x ++ y)).extractLsb' (s + 17) l = x.extractLsb' s l := extractLsb'_above 17 x y
@[simp] theorem extractLsb'_above_20 {n s l : Nat} (x : BitVec n) (y : BitVec 20) :
    (no_index (x ++ y)).extractLsb' (s + 20) l = x.extractLsb' s l := extractLsb'_above 20 x y

theorem extractLsb'_one (w : W32) (i : Nat) : w.extractLsb' i 1 = BitVec.ofBool (w.getLsbD i) := by
  ext j hj
  obtain rfl : j = 0 := by omega
  simp

@[simp] theorem ofBool_beq_one (b : Bool) : (BitVec.ofBool b == 1#1) = b := by cases b <;> rfl

/-- A bit is a field of width 1. -/
theorem getLsbD_eq_field (w : W32) (i : Nat) : w.getLsbD i = (w.extractLsb' i 1 == 1#1) := by
  rw [extractLsb'_one, ofBool_beq_one]

/-- A field is not zero when a field of it is not. -/
theorem extractLsb'_ne_zero {n s l k m : Nat} {w : BitVec n} (h : k + m ≤ l) (g : w.extractLsb' (s + k) m ≠ 0#m) :
    w.extractLsb' s l ≠ 0#l := by
  intro e
  apply g
  ext j hj
  have := congrArg (fun v : BitVec l => v.getLsbD (k + j)) e
  simpa [show k + j < l by omega, Nat.add_assoc] using this

@[simp] theorem withTy_code (t : Ty) (k : Ty → Except DecodeError Instr) : withTy t.code k = k t := by cases t <;> rfl

theorem checked_of_wellFormed {i : Instr} (h : i.wellFormed = true) : checked i = .ok i := if_pos h

/-! ### Bytes of a word -/

theorem wordOfBytes_bytesOfWord (w : W32) :
    wordOfBytes (w.extractLsb' 0 8) (w.extractLsb' 8 8) (w.extractLsb' 16 8) (w.extractLsb' 24 8) = w := by
  unfold wordOfBytes
  rw [BitVec.extractLsb'_append_extractLsb'_eq_extractLsb' (show 24 = 16 + 8 from rfl),
    BitVec.extractLsb'_append_extractLsb'_eq_extractLsb' (show 16 = 8 + 8 from rfl),
    BitVec.extractLsb'_append_extractLsb'_eq_extractLsb' (show 8 = 0 + 8 from rfl)]
  exact BitVec.extractLsb'_eq_self

theorem decodeBytes_one {w : W32} (h : hasSecondWord w = false) :
    decodeBytes ([w].flatMap bytesOfWord) = decode w 0 := by
  simp [bytesOfWord, decodeBytes, wordOfBytes_bytesOfWord, h]

theorem decodeBytes_two (w x : W32) : decodeBytes ([w, x].flatMap bytesOfWord) = decode w x := by
  simp [bytesOfWord, decodeBytes, wordOfBytes_bytesOfWord]

/-! ### The statement -/

/-- Where the instruction is well-formed, the decoder reads it back from its bytes. -/
def Returns (i : Instr) : Prop :=
  i.wellFormed = true → decodeBytes ((encode i).flatMap bytesOfWord) = .ok i

theorem of_one {i : Instr} {w : W32} {f : Except DecodeError Instr} (st : Encoding.Statement i) (e : encode i = [w])
    (o : decode w 0 = f) (d : f = checked i) : Returns i := fun h => by
  rw [e, decodeBytes_one (by simpa using (st w [] e).1), o, d, checked_of_wellFormed h]

theorem of_two {i : Instr} {w x : W32} {f : Except DecodeError Instr} (e : encode i = [w, x])
    (o : decode w x = f) (d : f = checked i) : Returns i := fun h => by
  rw [e, decodeBytes_two, o, d, checked_of_wellFormed h]

/-! ### The decoder of each opcode (R92) -/

theorem decode_00 {w x : W32} (h : (w.extractLsb' 25 7).toNat = 0x00) : decode w x = decode00 w := by
  rw [decode, h]; rfl
theorem decode_01 {w x : W32} (h : (w.extractLsb' 25 7).toNat = 0x01) : decode w x = decode01 w := by
  rw [decode, h]; rfl
theorem decode_02 {w x : W32} (h : (w.extractLsb' 25 7).toNat = 0x02) : decode w x = decode02 w := by
  rw [decode, h]; rfl
theorem decode_03 {w x : W32} (h : (w.extractLsb' 25 7).toNat = 0x03) : decode w x = decode03 w := by
  rw [decode, h]; rfl
theorem decode_04 {w x : W32} (h : (w.extractLsb' 25 7).toNat = 0x04) : decode w x = decode04 w := by
  rw [decode, h]; rfl
theorem decode_05 {w x : W32} (h : (w.extractLsb' 25 7).toNat = 0x05) : decode w x = decode05 w := by
  rw [decode, h]; rfl
theorem decode_06 {w x : W32} (h : (w.extractLsb' 25 7).toNat = 0x06) : decode w x = decode06 w := by
  rw [decode, h]; rfl
theorem decode_07 {w x : W32} (h : (w.extractLsb' 25 7).toNat = 0x07) : decode w x = decode07 w := by
  rw [decode, h]; rfl
theorem decode_08 {w x : W32} (h : (w.extractLsb' 25 7).toNat = 0x08) : decode w x = decode08 w := by
  rw [decode, h]; rfl
theorem decode_09 {w x : W32} (h : (w.extractLsb' 25 7).toNat = 0x09) : decode w x = decode09 w := by
  rw [decode, h]; rfl
theorem decode_0A {w x : W32} (h : (w.extractLsb' 25 7).toNat = 0x0A) : decode w x = decode0A w := by
  rw [decode, h]; rfl
theorem decode_0B {w x : W32} (h : (w.extractLsb' 25 7).toNat = 0x0B) : decode w x = decode0B w := by
  rw [decode, h]; rfl
theorem decode_0C {w x : W32} (h : (w.extractLsb' 25 7).toNat = 0x0C) : decode w x = decode0C w := by
  rw [decode, h]; rfl
theorem decode_0D {w x : W32} (h : (w.extractLsb' 25 7).toNat = 0x0D) : decode w x = decode0D w := by
  rw [decode, h]; rfl
theorem decode_0E {w x : W32} (h : (w.extractLsb' 25 7).toNat = 0x0E) : decode w x = decode0E w := by
  rw [decode, h]; rfl
theorem decode_0F {w x : W32} (h : (w.extractLsb' 25 7).toNat = 0x0F) : decode w x = decode0F w := by
  rw [decode, h]; rfl
theorem decode_10 {w x : W32} (h : (w.extractLsb' 25 7).toNat = 0x10) : decode w x = decode10 w := by
  rw [decode, h]; rfl
theorem decode_11 {w x : W32} (h : (w.extractLsb' 25 7).toNat = 0x11) : decode w x = decode11 w x := by
  rw [decode, h]; rfl
theorem decode_12 {w x : W32} (h : (w.extractLsb' 25 7).toNat = 0x12) : decode w x = decode12 w := by
  rw [decode, h]; rfl
theorem decode_13 {w x : W32} (h : (w.extractLsb' 25 7).toNat = 0x13) : decode w x = decode13 w x := by
  rw [decode, h]; rfl
theorem decode_18 {w x : W32} (h : (w.extractLsb' 25 7).toNat = 0x18) : decode w x = decode18 w := by
  rw [decode, h]; rfl
theorem decode_19 {w x : W32} (h : (w.extractLsb' 25 7).toNat = 0x19) : decode w x = decode19 w := by
  rw [decode, h]; rfl
theorem decode_1A {w x : W32} (h : (w.extractLsb' 25 7).toNat = 0x1A) : decode w x = decode1A w x := by
  rw [decode, h]; rfl
theorem decode_1B {w x : W32} (h : (w.extractLsb' 25 7).toNat = 0x1B) : decode w x = decode1B w x := by
  rw [decode, h]; rfl
theorem decode_1C {w x : W32} (h : (w.extractLsb' 25 7).toNat = 0x1C) : decode w x = decode1C w x := by
  rw [decode, h]; rfl
theorem decode_1D {w x : W32} (h : (w.extractLsb' 25 7).toNat = 0x1D) : decode w x = decode1D w := by
  rw [decode, h]; rfl
theorem decode_20 {w x : W32} (h : (w.extractLsb' 25 7).toNat = 0x20) : decode w x = decode20 w x := by
  rw [decode, h]; rfl
theorem decode_21 {w x : W32} (h : (w.extractLsb' 25 7).toNat = 0x21) : decode w x = decode21 w x := by
  rw [decode, h]; rfl
theorem decode_22 {w x : W32} (h : (w.extractLsb' 25 7).toNat = 0x22) : decode w x = decode22 w x := by
  rw [decode, h]; rfl
theorem decode_23 {w x : W32} (h : (w.extractLsb' 25 7).toNat = 0x23) : decode w x = decode23 w x := by
  rw [decode, h]; rfl
theorem decode_24 {w x : W32} (h : (w.extractLsb' 25 7).toNat = 0x24) : decode w x = decode24 w := by
  rw [decode, h]; rfl
theorem decode_25 {w x : W32} (h : (w.extractLsb' 25 7).toNat = 0x25) : decode w x = decode25 w := by
  rw [decode, h]; rfl
theorem decode_26 {w x : W32} (h : (w.extractLsb' 25 7).toNat = 0x26) : decode w x = decode26 w := by
  rw [decode, h]; rfl
theorem decode_27 {w x : W32} (h : (w.extractLsb' 25 7).toNat = 0x27) : decode w x = decode27 w := by
  rw [decode, h]; rfl
theorem decode_28 {w x : W32} (h : (w.extractLsb' 25 7).toNat = 0x28) : decode w x = decode28 w := by
  rw [decode, h]; rfl
theorem decode_29 {w x : W32} (h : (w.extractLsb' 25 7).toNat = 0x29) : decode w x = decode29 w := by
  rw [decode, h]; rfl
theorem decode_2A {w x : W32} (h : (w.extractLsb' 25 7).toNat = 0x2A) : decode w x = decode2A w := by
  rw [decode, h]; rfl
theorem decode_2B {w x : W32} (h : (w.extractLsb' 25 7).toNat = 0x2B) : decode w x = decode2B w := by
  rw [decode, h]; rfl
theorem decode_2C {w x : W32} (h : (w.extractLsb' 25 7).toNat = 0x2C) : decode w x = decode2C w := by
  rw [decode, h]; rfl
theorem decode_2D {w x : W32} (h : (w.extractLsb' 25 7).toNat = 0x2D) : decode w x = decode2D w := by
  rw [decode, h]; rfl
theorem decode_2E {w x : W32} (h : (w.extractLsb' 25 7).toNat = 0x2E) : decode w x = decode2E w := by
  rw [decode, h]; rfl
theorem decode_30 {w x : W32} (h : (w.extractLsb' 25 7).toNat = 0x30) : decode w x = decode30 w x := by
  rw [decode, h]; rfl
theorem decode_31 {w x : W32} (h : (w.extractLsb' 25 7).toNat = 0x31) : decode w x = decode31 w x := by
  rw [decode, h]; rfl
theorem decode_32 {w x : W32} (h : (w.extractLsb' 25 7).toNat = 0x32) : decode w x = decode32 w x := by
  rw [decode, h]; rfl
theorem decode_33 {w x : W32} (h : (w.extractLsb' 25 7).toNat = 0x33) : decode w x = decode33 w x := by
  rw [decode, h]; rfl
theorem decode_40 {w x : W32} (h : (w.extractLsb' 25 7).toNat = 0x40) : decode w x = decode40 w x := by
  rw [decode, h]; rfl
theorem decode_41 {w x : W32} (h : (w.extractLsb' 25 7).toNat = 0x41) : decode w x = decode41 w x := by
  rw [decode, h]; rfl
theorem decode_42 {w x : W32} (h : (w.extractLsb' 25 7).toNat = 0x42) : decode w x = decode42 w x := by
  rw [decode, h]; rfl
theorem decode_43 {w x : W32} (h : (w.extractLsb' 25 7).toNat = 0x43) : decode w x = decode43 w x := by
  rw [decode, h]; rfl
theorem decode_44 {w x : W32} (h : (w.extractLsb' 25 7).toNat = 0x44) : decode w x = decode44 w x := by
  rw [decode, h]; rfl
theorem decode_48 {w x : W32} (h : (w.extractLsb' 25 7).toNat = 0x48) : decode w x = decode48 w := by
  rw [decode, h]; rfl
theorem decode_49 {w x : W32} (h : (w.extractLsb' 25 7).toNat = 0x49) : decode w x = decode49 w x := by
  rw [decode, h]; rfl
theorem decode_4A {w x : W32} (h : (w.extractLsb' 25 7).toNat = 0x4A) : decode w x = decode4A w := by
  rw [decode, h]; rfl
theorem decode_4B {w x : W32} (h : (w.extractLsb' 25 7).toNat = 0x4B) : decode w x = decode4B w x := by
  rw [decode, h]; rfl
theorem decode_4C {w x : W32} (h : (w.extractLsb' 25 7).toNat = 0x4C) : decode w x = decode4C w x := by
  rw [decode, h]; rfl
theorem decode_4D {w x : W32} (h : (w.extractLsb' 25 7).toNat = 0x4D) : decode w x = decode4D w x := by
  rw [decode, h]; rfl
theorem decode_4E {w x : W32} (h : (w.extractLsb' 25 7).toNat = 0x4E) : decode w x = decode4E w x := by
  rw [decode, h]; rfl
theorem decode_4F {w x : W32} (h : (w.extractLsb' 25 7).toNat = 0x4F) : decode w x = decode4F w x := by
  rw [decode, h]; rfl
theorem decode_50 {w x : W32} (h : (w.extractLsb' 25 7).toNat = 0x50) : decode w x = decode50 w x := by
  rw [decode, h]; rfl
theorem decode_51 {w x : W32} (h : (w.extractLsb' 25 7).toNat = 0x51) : decode w x = decode51 w x := by
  rw [decode, h]; rfl
theorem decode_52 {w x : W32} (h : (w.extractLsb' 25 7).toNat = 0x52) : decode w x = decode52 w x := by
  rw [decode, h]; rfl
theorem decode_53 {w x : W32} (h : (w.extractLsb' 25 7).toNat = 0x53) : decode w x = decode53 w x := by
  rw [decode, h]; rfl
theorem decode_54 {w x : W32} (h : (w.extractLsb' 25 7).toNat = 0x54) : decode w x = decode54 w := by
  rw [decode, h]; rfl
theorem decode_58 {w x : W32} (h : (w.extractLsb' 25 7).toNat = 0x58) : decode w x = decode58 w x := by
  rw [decode, h]; rfl
theorem decode_59 {w x : W32} (h : (w.extractLsb' 25 7).toNat = 0x59) : decode w x = decode59 w x := by
  rw [decode, h]; rfl
theorem decode_5A {w x : W32} (h : (w.extractLsb' 25 7).toNat = 0x5A) : decode w x = decode5A w x := by
  rw [decode, h]; rfl
theorem decode_5B {w x : W32} (h : (w.extractLsb' 25 7).toNat = 0x5B) : decode w x = decode5B w x := by
  rw [decode, h]; rfl
theorem decode_5C {w x : W32} (h : (w.extractLsb' 25 7).toNat = 0x5C) : decode w x = decode5C w := by
  rw [decode, h]; rfl
theorem decode_5D {w x : W32} (h : (w.extractLsb' 25 7).toNat = 0x5D) : decode w x = decode5D w := by
  rw [decode, h]; rfl
theorem decode_60 {w x : W32} (h : (w.extractLsb' 25 7).toNat = 0x60) : decode w x = decode60 w x := by
  rw [decode, h]; rfl
theorem decode_61 {w x : W32} (h : (w.extractLsb' 25 7).toNat = 0x61) : decode w x = decode61 w x := by
  rw [decode, h]; rfl
theorem decode_62 {w x : W32} (h : (w.extractLsb' 25 7).toNat = 0x62) : decode w x = decode62 w x := by
  rw [decode, h]; rfl
theorem decode_63 {w x : W32} (h : (w.extractLsb' 25 7).toNat = 0x63) : decode w x = decode63 w x := by
  rw [decode, h]; rfl
theorem decode_64 {w x : W32} (h : (w.extractLsb' 25 7).toNat = 0x64) : decode w x = decode64 w x := by
  rw [decode, h]; rfl
theorem decode_65 {w x : W32} (h : (w.extractLsb' 25 7).toNat = 0x65) : decode w x = decode65 w := by
  rw [decode, h]; rfl
theorem decode_66 {w x : W32} (h : (w.extractLsb' 25 7).toNat = 0x66) : decode w x = decode66 w x := by
  rw [decode, h]; rfl
theorem decode_67 {w x : W32} (h : (w.extractLsb' 25 7).toNat = 0x67) : decode w x = decode67 w := by
  rw [decode, h]; rfl
theorem decode_68 {w x : W32} (h : (w.extractLsb' 25 7).toNat = 0x68) : decode w x = decode68 w x := by
  rw [decode, h]; rfl
theorem decode_69 {w x : W32} (h : (w.extractLsb' 25 7).toNat = 0x69) : decode w x = decode69 w x := by
  rw [decode, h]; rfl
theorem decode_6A {w x : W32} (h : (w.extractLsb' 25 7).toNat = 0x6A) : decode w x = decode6A w x := by
  rw [decode, h]; rfl
theorem decode_6B {w x : W32} (h : (w.extractLsb' 25 7).toNat = 0x6B) : decode w x = decode6B w x := by
  rw [decode, h]; rfl
theorem decode_6C {w x : W32} (h : (w.extractLsb' 25 7).toNat = 0x6C) : decode w x = decode6C w := by
  rw [decode, h]; rfl
theorem decode_6D {w x : W32} (h : (w.extractLsb' 25 7).toNat = 0x6D) : decode w x = decode6D w := by
  rw [decode, h]; rfl
theorem decode_6E {w x : W32} (h : (w.extractLsb' 25 7).toNat = 0x6E) : decode w x = decode6E w := by
  rw [decode, h]; rfl
theorem decode_6F {w x : W32} (h : (w.extractLsb' 25 7).toNat = 0x6F) : decode w x = decode6F w := by
  rw [decode, h]; rfl
theorem decode_70 {w x : W32} (h : (w.extractLsb' 25 7).toNat = 0x70) : decode w x = decode70 w := by
  rw [decode, h]; rfl
theorem decode_71 {w x : W32} (h : (w.extractLsb' 25 7).toNat = 0x71) : decode w x = decode71 w := by
  rw [decode, h]; rfl
theorem decode_72 {w x : W32} (h : (w.extractLsb' 25 7).toNat = 0x72) : decode w x = decode72 w := by
  rw [decode, h]; rfl
theorem decode_73 {w x : W32} (h : (w.extractLsb' 25 7).toNat = 0x73) : decode w x = decode73 w := by
  rw [decode, h]; rfl
theorem decode_74 {w x : W32} (h : (w.extractLsb' 25 7).toNat = 0x74) : decode w x = decode74 w := by
  rw [decode, h]; rfl
theorem decode_75 {w x : W32} (h : (w.extractLsb' 25 7).toNat = 0x75) : decode w x = decode75 w := by
  rw [decode, h]; rfl
theorem decode_76 {w x : W32} (h : (w.extractLsb' 25 7).toNat = 0x76) : decode w x = decode76 w := by
  rw [decode, h]; rfl
theorem decode_77 {w x : W32} (h : (w.extractLsb' 25 7).toNat = 0x77) : decode w x = decode77 w := by
  rw [decode, h]; rfl
theorem decode_78 {w x : W32} (h : (w.extractLsb' 25 7).toNat = 0x78) : decode w x = decode78 w := by
  rw [decode, h]; rfl
theorem decode_79 {w x : W32} (h : (w.extractLsb' 25 7).toNat = 0x79) : decode w x = decode79 w := by
  rw [decode, h]; rfl
theorem decode_7A {w x : W32} (h : (w.extractLsb' 25 7).toNat = 0x7A) : decode w x = decode7A w := by
  rw [decode, h]; rfl
theorem decode_7B {w x : W32} (h : (w.extractLsb' 25 7).toNat = 0x7B) : decode w x = decode7B w := by
  rw [decode, h]; rfl
theorem decode_7C {w x : W32} (h : (w.extractLsb' 25 7).toNat = 0x7C) : decode w x = decode7C w := by
  rw [decode, h]; rfl
theorem decode_7D {w x : W32} (h : (w.extractLsb' 25 7).toNat = 0x7D) : decode w x = decode7D w x := by
  rw [decode, h]; rfl
theorem decode_7E {w x : W32} (h : (w.extractLsb' 25 7).toNat = 0x7E) : decode w x = decode7E w := by
  rw [decode, h]; rfl

/-! ### Vector integer instructions and literals -/

@[simp] theorem add (d a b ta tb p) : Returns (.add d a b ta tb p) :=
  of_one (Encoding.add _ _ _ _ _ _) rfl (decode_00 (by simp)) (by simp [decode00, ↓getLsbD_eq_field])
@[simp] theorem sub (d a b ta tb p) : Returns (.sub d a b ta tb p) :=
  of_one (Encoding.sub _ _ _ _ _ _) rfl (decode_01 (by simp)) (by simp [decode01, ↓getLsbD_eq_field])
@[simp] theorem mulLo (d a b ta tb p) : Returns (.mulLo d a b ta tb p) :=
  of_one (Encoding.mulLo _ _ _ _ _ _) rfl (decode_03 (by simp)) (by simp [decode03, ↓getLsbD_eq_field])
@[simp] theorem mulHi (d a b ta tb p) : Returns (.mulHi d a b ta tb p) :=
  of_one (Encoding.mulHi _ _ _ _ _ _) rfl (decode_04 (by simp)) (by simp [decode04, ↓getLsbD_eq_field])
@[simp] theorem min (d a b ta tb p) : Returns (.min d a b ta tb p) :=
  of_one (Encoding.min _ _ _ _ _ _) rfl (decode_05 (by simp)) (by simp [decode05, ↓getLsbD_eq_field])
@[simp] theorem max (d a b ta tb p) : Returns (.max d a b ta tb p) :=
  of_one (Encoding.max _ _ _ _ _ _) rfl (decode_06 (by simp)) (by simp [decode06, ↓getLsbD_eq_field])
@[simp] theorem and (d a b ta tb p) : Returns (.and d a b ta tb p) :=
  of_one (Encoding.and _ _ _ _ _ _) rfl (decode_07 (by simp)) (by simp [decode07, ↓getLsbD_eq_field])
@[simp] theorem or (d a b ta tb p) : Returns (.or d a b ta tb p) :=
  of_one (Encoding.or _ _ _ _ _ _) rfl (decode_08 (by simp)) (by simp [decode08, ↓getLsbD_eq_field])
@[simp] theorem xor (d a b ta tb p) : Returns (.xor d a b ta tb p) :=
  of_one (Encoding.xor _ _ _ _ _ _) rfl (decode_09 (by simp)) (by simp [decode09, ↓getLsbD_eq_field])
@[simp] theorem andn (d a b ta tb p) : Returns (.andn d a b ta tb p) :=
  of_one (Encoding.andn _ _ _ _ _ _) rfl (decode_0A (by simp)) (by simp [decode0A, ↓getLsbD_eq_field])
@[simp] theorem shl (d a b ta tb p) : Returns (.shl d a b ta tb p) :=
  of_one (Encoding.shl _ _ _ _ _ _) rfl (decode_0B (by simp)) (by simp [decode0B, ↓getLsbD_eq_field])
@[simp] theorem shr (d a b ta tb p) : Returns (.shr d a b ta tb p) :=
  of_one (Encoding.shr _ _ _ _ _ _) rfl (decode_0C (by simp)) (by simp [decode0C, ↓getLsbD_eq_field])
@[simp] theorem sar (d a b ta tb p) : Returns (.sar d a b ta tb p) :=
  of_one (Encoding.sar _ _ _ _ _ _) rfl (decode_0D (by simp)) (by simp [decode0D, ↓getLsbD_eq_field])
@[simp] theorem rot (d a b ta tb p) : Returns (.rot d a b ta tb p) :=
  of_one (Encoding.rot _ _ _ _ _ _) rfl (decode_0E (by simp)) (by simp [decode0E, ↓getLsbD_eq_field])
@[simp] theorem addImm (d a imm ta p) : Returns (.addImm d a imm ta p) :=
  of_one (Encoding.addImm _ _ _ _ _) rfl (decode_02 (by simp)) (by simp [decode02, ↓getLsbD_eq_field])
@[simp] theorem shlImm (d a cnt ta p) : Returns (.shlImm d a cnt ta p) :=
  of_one (Encoding.shlImm _ _ _ _ _) rfl (decode_0F (by simp)) (by simp [decode0F, ↓getLsbD_eq_field])
@[simp] theorem shrImm (d a cnt ta p) : Returns (.shrImm d a cnt ta p) :=
  of_one (Encoding.shrImm _ _ _ _ _) rfl (decode_0F (by simp)) (by simp [decode0F, ↓getLsbD_eq_field])
@[simp] theorem sarImm (d a cnt ta p) : Returns (.sarImm d a cnt ta p) :=
  of_one (Encoding.sarImm _ _ _ _ _) rfl (decode_0F (by simp)) (by simp [decode0F, ↓getLsbD_eq_field])
@[simp] theorem rotImm (d a cnt ta p) : Returns (.rotImm d a cnt ta p) :=
  of_one (Encoding.rotImm _ _ _ _ _) rfl (decode_0F (by simp)) (by simp [decode0F, ↓getLsbD_eq_field])
@[simp] theorem abs (d a ta p) : Returns (.abs d a ta p) :=
  of_one (Encoding.abs _ _ _ _) rfl (decode_10 (by simp)) (by simp [decode10, ↓getLsbD_eq_field])
@[simp] theorem neg (d a ta p) : Returns (.neg d a ta p) :=
  of_one (Encoding.neg _ _ _ _) rfl (decode_10 (by simp)) (by simp [decode10, ↓getLsbD_eq_field])
@[simp] theorem not (d a ta p) : Returns (.not d a ta p) :=
  of_one (Encoding.not _ _ _ _) rfl (decode_10 (by simp)) (by simp [decode10, ↓getLsbD_eq_field])
@[simp] theorem clz (d a ta p) : Returns (.clz d a ta p) :=
  of_one (Encoding.clz _ _ _ _) rfl (decode_10 (by simp)) (by simp [decode10, ↓getLsbD_eq_field])
@[simp] theorem popc (d a ta p) : Returns (.popc d a ta p) :=
  of_one (Encoding.popc _ _ _ _) rfl (decode_10 (by simp)) (by simp [decode10, ↓getLsbD_eq_field])
@[simp] theorem brev (d a ta p) : Returns (.brev d a ta p) :=
  of_one (Encoding.brev _ _ _ _) rfl (decode_10 (by simp)) (by simp [decode10, ↓getLsbD_eq_field])
@[simp] theorem mov (d a ta p) : Returns (.mov d a ta p) :=
  of_one (Encoding.mov _ _ _ _) rfl (decode_10 (by simp)) (by simp [decode10, ↓getLsbD_eq_field])
@[simp] theorem addX (d a b ta tb p ty) : Returns (.addX d a b ta tb p ty) :=
  of_two rfl (decode_11 (by simp)) (by simp [decode11, ↓getLsbD_eq_field])
@[simp] theorem subX (d a b ta tb p ty) : Returns (.subX d a b ta tb p ty) :=
  of_two rfl (decode_11 (by simp)) (by simp [decode11, ↓getLsbD_eq_field])
@[simp] theorem mulLoX (d a b ta tb p ty) : Returns (.mulLoX d a b ta tb p ty) :=
  of_two rfl (decode_11 (by simp)) (by simp [decode11, ↓getLsbD_eq_field])
@[simp] theorem mulHiX (d a b ta tb p ty) : Returns (.mulHiX d a b ta tb p ty) :=
  of_two rfl (decode_11 (by simp)) (by simp [decode11, ↓getLsbD_eq_field])
@[simp] theorem mad (d a b ta tb p c tc ty) : Returns (.mad d a b ta tb p c tc ty) :=
  of_two rfl (decode_11 (by simp)) (by simp [decode11, ↓getLsbD_eq_field])
@[simp] theorem minX (d a b ta tb p ty) : Returns (.minX d a b ta tb p ty) :=
  of_two rfl (decode_11 (by simp)) (by simp [decode11, ↓getLsbD_eq_field])
@[simp] theorem maxX (d a b ta tb p ty) : Returns (.maxX d a b ta tb p ty) :=
  of_two rfl (decode_11 (by simp)) (by simp [decode11, ↓getLsbD_eq_field])
@[simp] theorem absX (d a ta p ty) : Returns (.absX d a ta p ty) :=
  of_two rfl (decode_11 (by simp)) (by simp [decode11, ↓getLsbD_eq_field])
@[simp] theorem negX (d a ta p ty) : Returns (.negX d a ta p ty) :=
  of_two rfl (decode_11 (by simp)) (by simp [decode11, ↓getLsbD_eq_field])
@[simp] theorem andX (d a b ta tb p ty) : Returns (.andX d a b ta tb p ty) :=
  of_two rfl (decode_11 (by simp)) (by simp [decode11, ↓getLsbD_eq_field])
@[simp] theorem orX (d a b ta tb p ty) : Returns (.orX d a b ta tb p ty) :=
  of_two rfl (decode_11 (by simp)) (by simp [decode11, ↓getLsbD_eq_field])
@[simp] theorem xorX (d a b ta tb p ty) : Returns (.xorX d a b ta tb p ty) :=
  of_two rfl (decode_11 (by simp)) (by simp [decode11, ↓getLsbD_eq_field])
@[simp] theorem andnX (d a b ta tb p ty) : Returns (.andnX d a b ta tb p ty) :=
  of_two rfl (decode_11 (by simp)) (by simp [decode11, ↓getLsbD_eq_field])
@[simp] theorem notX (d a ta p ty) : Returns (.notX d a ta p ty) :=
  of_two rfl (decode_11 (by simp)) (by simp [decode11, ↓getLsbD_eq_field])
@[simp] theorem shlX (d a b ta tb p ty im cnt) : Returns (.shlX d a b ta tb p ty im cnt) :=
  of_two rfl (decode_11 (by simp)) (by simp [decode11, ↓getLsbD_eq_field])
@[simp] theorem shrX (d a b ta tb p ty im cnt) : Returns (.shrX d a b ta tb p ty im cnt) :=
  of_two rfl (decode_11 (by simp)) (by simp [decode11, ↓getLsbD_eq_field])
@[simp] theorem sarX (d a b ta tb p ty im cnt) : Returns (.sarX d a b ta tb p ty im cnt) :=
  of_two rfl (decode_11 (by simp)) (by simp [decode11, ↓getLsbD_eq_field])
@[simp] theorem rotX (d a b ta tb p ty im cnt) : Returns (.rotX d a b ta tb p ty im cnt) :=
  of_two rfl (decode_11 (by simp)) (by simp [decode11, ↓getLsbD_eq_field])
@[simp] theorem clzX (d a ta p ty) : Returns (.clzX d a ta p ty) :=
  of_two rfl (decode_11 (by simp)) (by simp [decode11, ↓getLsbD_eq_field])
@[simp] theorem popcX (d a ta p ty) : Returns (.popcX d a ta p ty) :=
  of_two rfl (decode_11 (by simp)) (by simp [decode11, ↓getLsbD_eq_field])
@[simp] theorem brevX (d a ta p ty) : Returns (.brevX d a ta p ty) :=
  of_two rfl (decode_11 (by simp)) (by simp [decode11, ↓getLsbD_eq_field])
@[simp] theorem bfe (d a ta p ty pos len) : Returns (.bfe d a ta p ty pos len) :=
  of_two rfl (decode_11 (by simp)) (by simp [decode11, ↓getLsbD_eq_field])
@[simp] theorem bfi (d a b ta tb p ty pos len) : Returns (.bfi d a b ta tb p ty pos len) :=
  of_two rfl (decode_11 (by simp)) (by simp [decode11, ↓getLsbD_eq_field])
@[simp] theorem sel (d a b ta tb p ty sl) : Returns (.sel d a b ta tb p ty sl) :=
  of_two rfl (decode_11 (by simp)) (by simp [decode11, ↓getLsbD_eq_field])
@[simp] theorem cmp (md a b ta tb p ty cond) : Returns (.cmp md a b ta tb p ty cond) :=
  of_two rfl (decode_11 (by simp)) (by simp [decode11, ↓getLsbD_eq_field])
@[simp] theorem movX (d a ta p ty) : Returns (.movX d a ta p ty) :=
  of_two rfl (decode_11 (by simp)) (by simp [decode11, ↓getLsbD_eq_field])
@[simp] theorem addSat (d a b ta tb p ty) : Returns (.addSat d a b ta tb p ty) :=
  of_two rfl (decode_11 (by simp)) (by simp [decode11, ↓getLsbD_eq_field])
@[simp] theorem subSat (d a b ta tb p ty) : Returns (.subSat d a b ta tb p ty) :=
  of_two rfl (decode_11 (by simp)) (by simp [decode11, ↓getLsbD_eq_field])
@[simp] theorem movi (d imm p) : Returns (.movi d imm p) :=
  of_one (Encoding.movi _ _ _) rfl (decode_12 (by simp)) (by simp [decode12])
@[simp] theorem litVector (d pr hi lit) : Returns (.litVector d pr hi lit) :=
  of_two rfl (decode_13 (by simp)) (by simp [decode13, ↓getLsbD_eq_field])

/-! ### Uniform instructions -/

@[simp] theorem uniformAdd (d a b ta tb) : Returns (.uniformAdd d a b ta tb) :=
  of_one (Encoding.uniformAdd _ _ _ _ _) rfl (decode_18 (by simp)) (by simp [decode18, ↓getLsbD_eq_field])
@[simp] theorem uniformSub (d a b ta tb) : Returns (.uniformSub d a b ta tb) :=
  of_one (Encoding.uniformSub _ _ _ _ _) rfl (decode_18 (by simp)) (by simp [decode18, ↓getLsbD_eq_field])
@[simp] theorem uniformMulLo (d a b ta tb) : Returns (.uniformMulLo d a b ta tb) :=
  of_one (Encoding.uniformMulLo _ _ _ _ _) rfl (decode_18 (by simp)) (by simp [decode18, ↓getLsbD_eq_field])
@[simp] theorem uniformMulHiS (d a b ta tb) : Returns (.uniformMulHiS d a b ta tb) :=
  of_one (Encoding.uniformMulHiS _ _ _ _ _) rfl (decode_18 (by simp)) (by simp [decode18, ↓getLsbD_eq_field])
@[simp] theorem uniformMulHiN (d a b ta tb) : Returns (.uniformMulHiN d a b ta tb) :=
  of_one (Encoding.uniformMulHiN _ _ _ _ _) rfl (decode_18 (by simp)) (by simp [decode18, ↓getLsbD_eq_field])
@[simp] theorem uniformMinS (d a b ta tb) : Returns (.uniformMinS d a b ta tb) :=
  of_one (Encoding.uniformMinS _ _ _ _ _) rfl (decode_18 (by simp)) (by simp [decode18, ↓getLsbD_eq_field])
@[simp] theorem uniformMinN (d a b ta tb) : Returns (.uniformMinN d a b ta tb) :=
  of_one (Encoding.uniformMinN _ _ _ _ _) rfl (decode_18 (by simp)) (by simp [decode18, ↓getLsbD_eq_field])
@[simp] theorem uniformMaxS (d a b ta tb) : Returns (.uniformMaxS d a b ta tb) :=
  of_one (Encoding.uniformMaxS _ _ _ _ _) rfl (decode_18 (by simp)) (by simp [decode18, ↓getLsbD_eq_field])
@[simp] theorem uniformMaxN (d a b ta tb) : Returns (.uniformMaxN d a b ta tb) :=
  of_one (Encoding.uniformMaxN _ _ _ _ _) rfl (decode_18 (by simp)) (by simp [decode18, ↓getLsbD_eq_field])
@[simp] theorem uniformAddSatS (d a b ta tb) : Returns (.uniformAddSatS d a b ta tb) :=
  of_one (Encoding.uniformAddSatS _ _ _ _ _) rfl (decode_18 (by simp)) (by simp [decode18, ↓getLsbD_eq_field])
@[simp] theorem uniformAddSatN (d a b ta tb) : Returns (.uniformAddSatN d a b ta tb) :=
  of_one (Encoding.uniformAddSatN _ _ _ _ _) rfl (decode_18 (by simp)) (by simp [decode18, ↓getLsbD_eq_field])
@[simp] theorem uniformSubSatS (d a b ta tb) : Returns (.uniformSubSatS d a b ta tb) :=
  of_one (Encoding.uniformSubSatS _ _ _ _ _) rfl (decode_18 (by simp)) (by simp [decode18, ↓getLsbD_eq_field])
@[simp] theorem uniformSubSatN (d a b ta tb) : Returns (.uniformSubSatN d a b ta tb) :=
  of_one (Encoding.uniformSubSatN _ _ _ _ _) rfl (decode_18 (by simp)) (by simp [decode18, ↓getLsbD_eq_field])
@[simp] theorem uniformAbs (d a ta) : Returns (.uniformAbs d a ta) :=
  of_one (Encoding.uniformAbs _ _ _) rfl (decode_18 (by simp)) (by simp [decode18, ↓getLsbD_eq_field])
@[simp] theorem uniformNeg (d a ta) : Returns (.uniformNeg d a ta) :=
  of_one (Encoding.uniformNeg _ _ _) rfl (decode_18 (by simp)) (by simp [decode18, ↓getLsbD_eq_field])
@[simp] theorem uniformAnd (d a b ta tb) : Returns (.uniformAnd d a b ta tb) :=
  of_one (Encoding.uniformAnd _ _ _ _ _) rfl (decode_19 (by simp)) (by simp [decode19, ↓getLsbD_eq_field])
@[simp] theorem uniformOr (d a b ta tb) : Returns (.uniformOr d a b ta tb) :=
  of_one (Encoding.uniformOr _ _ _ _ _) rfl (decode_19 (by simp)) (by simp [decode19, ↓getLsbD_eq_field])
@[simp] theorem uniformXor (d a b ta tb) : Returns (.uniformXor d a b ta tb) :=
  of_one (Encoding.uniformXor _ _ _ _ _) rfl (decode_19 (by simp)) (by simp [decode19, ↓getLsbD_eq_field])
@[simp] theorem uniformAndn (d a b ta tb) : Returns (.uniformAndn d a b ta tb) :=
  of_one (Encoding.uniformAndn _ _ _ _ _) rfl (decode_19 (by simp)) (by simp [decode19, ↓getLsbD_eq_field])
@[simp] theorem uniformNot (d a ta) : Returns (.uniformNot d a ta) :=
  of_one (Encoding.uniformNot _ _ _) rfl (decode_19 (by simp)) (by simp [decode19, ↓getLsbD_eq_field])
@[simp] theorem uniformShl (d a b ta tb) : Returns (.uniformShl d a b ta tb) :=
  of_one (Encoding.uniformShl _ _ _ _ _) rfl (decode_19 (by simp)) (by simp [decode19, ↓getLsbD_eq_field])
@[simp] theorem uniformShr (d a b ta tb) : Returns (.uniformShr d a b ta tb) :=
  of_one (Encoding.uniformShr _ _ _ _ _) rfl (decode_19 (by simp)) (by simp [decode19, ↓getLsbD_eq_field])
@[simp] theorem uniformSar (d a b ta tb) : Returns (.uniformSar d a b ta tb) :=
  of_one (Encoding.uniformSar _ _ _ _ _) rfl (decode_19 (by simp)) (by simp [decode19, ↓getLsbD_eq_field])
@[simp] theorem uniformRot (d a b ta tb) : Returns (.uniformRot d a b ta tb) :=
  of_one (Encoding.uniformRot _ _ _ _ _) rfl (decode_19 (by simp)) (by simp [decode19, ↓getLsbD_eq_field])
@[simp] theorem uniformClz (d a ta) : Returns (.uniformClz d a ta) :=
  of_one (Encoding.uniformClz _ _ _) rfl (decode_19 (by simp)) (by simp [decode19, ↓getLsbD_eq_field])
@[simp] theorem uniformPopc (d a ta) : Returns (.uniformPopc d a ta) :=
  of_one (Encoding.uniformPopc _ _ _) rfl (decode_19 (by simp)) (by simp [decode19, ↓getLsbD_eq_field])
@[simp] theorem uniformBrev (d a ta) : Returns (.uniformBrev d a ta) :=
  of_one (Encoding.uniformBrev _ _ _) rfl (decode_19 (by simp)) (by simp [decode19, ↓getLsbD_eq_field])
@[simp] theorem uniformMov (d a ta) : Returns (.uniformMov d a ta) :=
  of_one (Encoding.uniformMov _ _ _) rfl (decode_19 (by simp)) (by simp [decode19, ↓getLsbD_eq_field])
@[simp] theorem uniformAddImm (d a ta imm) : Returns (.uniformAddImm d a ta imm) :=
  of_two rfl (decode_1A (by simp)) (by simp [decode1A, ↓getLsbD_eq_field])
@[simp] theorem uniformAndImm (d a ta imm) : Returns (.uniformAndImm d a ta imm) :=
  of_two rfl (decode_1A (by simp)) (by simp [decode1A, ↓getLsbD_eq_field])
@[simp] theorem uniformOrImm (d a ta imm) : Returns (.uniformOrImm d a ta imm) :=
  of_two rfl (decode_1A (by simp)) (by simp [decode1A, ↓getLsbD_eq_field])
@[simp] theorem uniformXorImm (d a ta imm) : Returns (.uniformXorImm d a ta imm) :=
  of_two rfl (decode_1A (by simp)) (by simp [decode1A, ↓getLsbD_eq_field])
@[simp] theorem uniformShlImm (d a ta imm) : Returns (.uniformShlImm d a ta imm) :=
  of_two rfl (decode_1A (by simp)) (by simp [decode1A, ↓getLsbD_eq_field])
@[simp] theorem uniformShrImm (d a ta imm) : Returns (.uniformShrImm d a ta imm) :=
  of_two rfl (decode_1A (by simp)) (by simp [decode1A, ↓getLsbD_eq_field])
@[simp] theorem uniformSarImm (d a ta imm) : Returns (.uniformSarImm d a ta imm) :=
  of_two rfl (decode_1A (by simp)) (by simp [decode1A, ↓getLsbD_eq_field])
@[simp] theorem uniformMovi (d imm) : Returns (.uniformMovi d imm) :=
  of_two rfl (decode_1A (by simp)) (by simp [decode1A])
@[simp] theorem uniformMad (d a b ta tb c tc ty) : Returns (.uniformMad d a b ta tb c tc ty) :=
  of_two rfl (decode_1B (by simp)) (by simp [decode1B, ↓getLsbD_eq_field])
@[simp] theorem uniformBfe (d a ta ty pos len) : Returns (.uniformBfe d a ta ty pos len) :=
  of_two rfl (decode_1B (by simp)) (by simp [decode1B, ↓getLsbD_eq_field])
@[simp] theorem uniformBfi (d a b ta tb ty pos len) : Returns (.uniformBfi d a b ta tb ty pos len) :=
  of_two rfl (decode_1B (by simp)) (by simp [decode1B, ↓getLsbD_eq_field])
@[simp] theorem uniformCmp (md a b ta tb ty cond) : Returns (.uniformCmp md a b ta tb ty cond) :=
  of_two rfl (decode_1B (by simp)) (by simp [decode1B, ↓getLsbD_eq_field])
@[simp] theorem uniformSel (d a b ta tb ty sl) : Returns (.uniformSel d a b ta tb ty sl) :=
  of_two rfl (decode_1B (by simp)) (by simp [decode1B, ↓getLsbD_eq_field])
@[simp] theorem litUniform (d hi lit) : Returns (.litUniform d hi lit) :=
  of_two rfl (decode_1C (by simp)) (by simp [decode1C])
@[simp] theorem seedTop (d) : Returns (.seedTop d) :=
  of_one (Encoding.seedTop _) rfl (decode_1D (by simp)) (by simp [decode1D])
@[simp] theorem seedDepth (d) : Returns (.seedDepth d) :=
  of_one (Encoding.seedDepth _) rfl (decode_1D (by simp)) (by simp [decode1D])

/-! ### Collectives, masks, identity and random numbers -/

@[simp] theorem mand (d a b) : Returns (.mand d a b) :=
  of_one (Encoding.mand _ _ _) rfl (decode_24 (by simp)) (by simp [decode24])
@[simp] theorem mor (d a b) : Returns (.mor d a b) :=
  of_one (Encoding.mor _ _ _) rfl (decode_24 (by simp)) (by simp [decode24])
@[simp] theorem mxor (d a b) : Returns (.mxor d a b) :=
  of_one (Encoding.mxor _ _ _) rfl (decode_24 (by simp)) (by simp [decode24])
@[simp] theorem mandn (d a b) : Returns (.mandn d a b) :=
  of_one (Encoding.mandn _ _ _) rfl (decode_24 (by simp)) (by simp [decode24])
@[simp] theorem mnot (d a) : Returns (.mnot d a) :=
  of_one (Encoding.mnot _ _) rfl (decode_24 (by simp)) (by simp [decode24])
@[simp] theorem mmov (d a) : Returns (.mmov d a) :=
  of_one (Encoding.mmov _ _) rfl (decode_24 (by simp)) (by simp [decode24])
@[simp] theorem mget (d ma) : Returns (.mget d ma) :=
  of_one (Encoding.mget _ _) rfl (decode_25 (by simp)) (by simp [decode25])
@[simp] theorem mset (md a ta) : Returns (.mset md a ta) :=
  of_one (Encoding.mset _ _ _) rfl (decode_25 (by simp)) (by simp [decode25, ↓getLsbD_eq_field])
@[simp] theorem pollMask (d a ta p mem) : Returns (.pollMask d a ta p mem) :=
  of_two rfl (decode_20 (by simp)) (by simp [decode20, ↓getLsbD_eq_field])
@[simp] theorem pollSome (md a ta p mem) : Returns (.pollSome md a ta p mem) :=
  of_two rfl (decode_20 (by simp)) (by simp [decode20, ↓getLsbD_eq_field])
@[simp] theorem pollEvery (md a ta p mem) : Returns (.pollEvery md a ta p mem) :=
  of_two rfl (decode_20 (by simp)) (by simp [decode20, ↓getLsbD_eq_field])
@[simp] theorem pollSame (md a ta p ty mem) : Returns (.pollSame md a ta p ty mem) :=
  of_two rfl (decode_20 (by simp)) (by simp [decode20, ↓getLsbD_eq_field])
@[simp] theorem pollPeers (d a ta p ty mem) : Returns (.pollPeers d a ta p ty mem) :=
  of_two rfl (decode_20 (by simp)) (by simp [decode20, ↓getLsbD_eq_field])
@[simp] theorem pollLead (md p mem) : Returns (.pollLead md p mem) :=
  of_two rfl (decode_20 (by simp)) (by simp [decode20])
@[simp] theorem pollLeadWelt (md p mem) : Returns (.pollLeadWelt md p mem) :=
  of_two rfl (decode_20 (by simp)) (by simp [decode20])
@[simp] theorem pollCount (d a ta p mem) : Returns (.pollCount d a ta p mem) :=
  of_two rfl (decode_20 (by simp)) (by simp [decode20, ↓getLsbD_eq_field])
@[simp] theorem passFrom (d a b ta tb p z ty imm im mem) : Returns (.passFrom d a b ta tb p z ty imm im mem) :=
  of_two rfl (decode_21 (by simp)) (by simp [decode21, ↓getLsbD_eq_field])
@[simp] theorem passBack (d a b ta tb p z ty imm im mem) : Returns (.passBack d a b ta tb p z ty imm im mem) :=
  of_two rfl (decode_21 (by simp)) (by simp [decode21, ↓getLsbD_eq_field])
@[simp] theorem passAhead (d a b ta tb p z ty imm im mem) : Returns (.passAhead d a b ta tb p z ty imm im mem) :=
  of_two rfl (decode_21 (by simp)) (by simp [decode21, ↓getLsbD_eq_field])
@[simp] theorem passSwap (d a b ta tb p z ty imm im mem) : Returns (.passSwap d a b ta tb p z ty imm im mem) :=
  of_two rfl (decode_21 (by simp)) (by simp [decode21, ↓getLsbD_eq_field])
@[simp] theorem passTurn (d a b ta tb p z ty imm im mem) : Returns (.passTurn d a b ta tb p z ty imm im mem) :=
  of_two rfl (decode_21 (by simp)) (by simp [decode21, ↓getLsbD_eq_field])
@[simp] theorem foldAdd (d a ta p ty mem) : Returns (.foldAdd d a ta p ty mem) :=
  of_two rfl (decode_22 (by simp)) (by simp [decode22, ↓getLsbD_eq_field])
@[simp] theorem foldMin (d a ta p ty mem) : Returns (.foldMin d a ta p ty mem) :=
  of_two rfl (decode_22 (by simp)) (by simp [decode22, ↓getLsbD_eq_field])
@[simp] theorem foldMax (d a ta p ty mem) : Returns (.foldMax d a ta p ty mem) :=
  of_two rfl (decode_22 (by simp)) (by simp [decode22, ↓getLsbD_eq_field])
@[simp] theorem foldAnd (d a ta p ty mem) : Returns (.foldAnd d a ta p ty mem) :=
  of_two rfl (decode_22 (by simp)) (by simp [decode22, ↓getLsbD_eq_field])
@[simp] theorem foldOr (d a ta p ty mem) : Returns (.foldOr d a ta p ty mem) :=
  of_two rfl (decode_22 (by simp)) (by simp [decode22, ↓getLsbD_eq_field])
@[simp] theorem foldXor (d a ta p ty mem) : Returns (.foldXor d a ta p ty mem) :=
  of_two rfl (decode_22 (by simp)) (by simp [decode22, ↓getLsbD_eq_field])
@[simp] theorem scanInc (d a ta p ty mem) : Returns (.scanInc d a ta p ty mem) :=
  of_two rfl (decode_23 (by simp)) (by simp [decode23, ↓getLsbD_eq_field])
@[simp] theorem scanExc (d a ta p ty mem) : Returns (.scanExc d a ta p ty mem) :=
  of_two rfl (decode_23 (by simp)) (by simp [decode23, ↓getLsbD_eq_field])
@[simp] theorem rng (d a ta p) : Returns (.rng d a ta p) :=
  of_one (Encoding.rng _ _ _ _) rfl (decode_26 (by simp)) (by simp [decode26, ↓getLsbD_eq_field])
@[simp] theorem ident (d sl p) : Returns (.ident d sl p) :=
  of_one (Encoding.ident _ _ _) rfl (decode_27 (by simp)) (by simp [decode27])

/-! ### Floating point and conversions -/

@[simp] theorem fadd (d a b ta tb p) : Returns (.fadd d a b ta tb p) :=
  of_one (Encoding.fadd _ _ _ _ _ _) rfl (decode_28 (by simp)) (by simp [decode28, ↓getLsbD_eq_field])
@[simp] theorem fsub (d a b ta tb p) : Returns (.fsub d a b ta tb p) :=
  of_one (Encoding.fsub _ _ _ _ _ _) rfl (decode_29 (by simp)) (by simp [decode29, ↓getLsbD_eq_field])
@[simp] theorem fmul (d a b ta tb p) : Returns (.fmul d a b ta tb p) :=
  of_one (Encoding.fmul _ _ _ _ _ _) rfl (decode_2A (by simp)) (by simp [decode2A, ↓getLsbD_eq_field])
@[simp] theorem fmin (d a b ta tb p) : Returns (.fmin d a b ta tb p) :=
  of_one (Encoding.fmin _ _ _ _ _ _) rfl (decode_2B (by simp)) (by simp [decode2B, ↓getLsbD_eq_field])
@[simp] theorem fmax (d a b ta tb p) : Returns (.fmax d a b ta tb p) :=
  of_one (Encoding.fmax _ _ _ _ _ _) rfl (decode_2C (by simp)) (by simp [decode2C, ↓getLsbD_eq_field])
@[simp] theorem fdiv (d a b ta tb p) : Returns (.fdiv d a b ta tb p) :=
  of_one (Encoding.fdiv _ _ _ _ _ _) rfl (decode_2D (by simp)) (by simp [decode2D, ↓getLsbD_eq_field])
@[simp] theorem fsqrt (d a ta p) : Returns (.fsqrt d a ta p) :=
  of_one (Encoding.fsqrt _ _ _ _) rfl (decode_2E (by simp)) (by simp [decode2E, ↓getLsbD_eq_field])
@[simp] theorem faddX (d a b ta tb p ty rm na aa nb ab) : Returns (.faddX d a b ta tb p ty rm na aa nb ab) :=
  of_two rfl (decode_30 (by simp)) (by simp [decode30, ↓getLsbD_eq_field])
@[simp] theorem fsubX (d a b ta tb p ty rm na aa nb ab) : Returns (.fsubX d a b ta tb p ty rm na aa nb ab) :=
  of_two rfl (decode_30 (by simp)) (by simp [decode30, ↓getLsbD_eq_field])
@[simp] theorem fmulX (d a b ta tb p ty rm na aa nb ab) : Returns (.fmulX d a b ta tb p ty rm na aa nb ab) :=
  of_two rfl (decode_30 (by simp)) (by simp [decode30, ↓getLsbD_eq_field])
@[simp] theorem fminX (d a b ta tb p ty na aa nb ab) : Returns (.fminX d a b ta tb p ty na aa nb ab) :=
  of_two rfl (decode_30 (by simp)) (by simp [decode30, ↓getLsbD_eq_field])
@[simp] theorem fmaxX (d a b ta tb p ty na aa nb ab) : Returns (.fmaxX d a b ta tb p ty na aa nb ab) :=
  of_two rfl (decode_30 (by simp)) (by simp [decode30, ↓getLsbD_eq_field])
@[simp] theorem fdivX (d a b ta tb p ty rm na aa nb ab) : Returns (.fdivX d a b ta tb p ty rm na aa nb ab) :=
  of_two rfl (decode_30 (by simp)) (by simp [decode30, ↓getLsbD_eq_field])
@[simp] theorem ffma (d a b ta tb p c tc ty rm na aa nb ab nc ac) :
    Returns (.ffma d a b ta tb p c tc ty rm na aa nb ab nc ac) :=
  of_two rfl (decode_30 (by simp)) (by simp [decode30, ↓getLsbD_eq_field])
@[simp] theorem fsqrtX (d a ta p ty rm na aa) : Returns (.fsqrtX d a ta p ty rm na aa) :=
  of_two rfl (decode_31 (by simp)) (by simp [decode31, ↓getLsbD_eq_field])
@[simp] theorem frcpA (d a ta p ty na aa) : Returns (.frcpA d a ta p ty na aa) :=
  of_two rfl (decode_31 (by simp)) (by simp [decode31, ↓getLsbD_eq_field])
@[simp] theorem frsqA (d a ta p ty na aa) : Returns (.frsqA d a ta p ty na aa) :=
  of_two rfl (decode_31 (by simp)) (by simp [decode31, ↓getLsbD_eq_field])
@[simp] theorem fexp2A (d a ta p ty na aa) : Returns (.fexp2A d a ta p ty na aa) :=
  of_two rfl (decode_31 (by simp)) (by simp [decode31, ↓getLsbD_eq_field])
@[simp] theorem flog2A (d a ta p ty na aa) : Returns (.flog2A d a ta p ty na aa) :=
  of_two rfl (decode_31 (by simp)) (by simp [decode31, ↓getLsbD_eq_field])
@[simp] theorem fcmp (md a b ta tb p cond ty na aa nb ab) : Returns (.fcmp md a b ta tb p cond ty na aa nb ab) :=
  of_two rfl (decode_32 (by simp)) (by simp [decode32, ↓getLsbD_eq_field])
@[simp] theorem fclass (d a ta p ty) : Returns (.fclass d a ta p ty) :=
  of_two rfl (decode_33 (by simp)) (by simp [decode33, ↓getLsbD_eq_field])
@[simp] theorem cvt (d a ta p c tc dty rm sty salt) : Returns (.cvt d a ta p c tc dty rm sty salt) :=
  of_two rfl (decode_40 (by simp)) (by simp [decode40, ↓getLsbD_eq_field])
@[simp] theorem cvtn (d a b ta p ty rm salt) : Returns (.cvtn d a b ta p ty rm salt) :=
  of_two rfl (decode_41 (by simp)) (by simp [decode41, ↓getLsbD_eq_field])
@[simp] theorem cvtnFrom (d a b ta p ty rm) : Returns (.cvtnFrom d a b ta p ty rm) :=
  of_two rfl (decode_41 (by simp)) (by simp [decode41, ↓getLsbD_eq_field])
@[simp] theorem bscale (d a b ta p ty) : Returns (.bscale d a b ta p ty) :=
  of_two rfl (decode_42 (by simp)) (by simp [decode42, ↓getLsbD_eq_field])
@[simp] theorem qnt (d a b ta p c tc ty rm salt) : Returns (.qnt d a b ta p c tc ty rm salt) :=
  of_two rfl (decode_43 (by simp)) (by simp [decode43, ↓getLsbD_eq_field])
@[simp] theorem dqnt (d a b ta p c tc ty rm) : Returns (.dqnt d a b ta p c tc ty rm) :=
  of_two rfl (decode_44 (by simp)) (by simp [decode44, ↓getLsbD_eq_field])

/-! ### Memory instructions -/

@[simp] theorem ld (d w i f t p) : Returns (.ld d w i f t p) :=
  of_one (Encoding.ld _ _ _ _ _ _) rfl (decode_48 (by simp)) (by simp [decode48, ↓getLsbD_eq_field])
@[simp] theorem ldX (d w i f t p ty cp disp) : Returns (.ldX d w i f t p ty cp disp) :=
  of_two rfl (decode_49 (by simp)) (by simp [decode49, ↓getLsbD_eq_field])
/-- The check of LD finds the bit that says probe among the five that it wants to be zero. -/
theorem probe_ne_zero (ty : Ty) (md : BitVec 4) : (0#8 ++ ty.code ++ 1#1 ++ md : BitVec 17).extractLsb' 0 5 ≠ 0#5 :=
  extractLsb'_ne_zero (k := 4) (m := 1) (by decide) (by simp)

@[simp] theorem ldProbe (d w i f t p ty md cp disp) : Returns (.ldProbe d w i f t p ty md cp disp) :=
  of_two rfl (decode_49 (by simp)) (by simp [decode49, ↓getLsbD_eq_field, probe_ne_zero])
@[simp] theorem st (d w i f t p) : Returns (.st d w i f t p) :=
  of_one (Encoding.st _ _ _ _ _ _) rfl (decode_4A (by simp)) (by simp [decode4A, ↓getLsbD_eq_field])
@[simp] theorem stX (d w i f t p ty cp disp) : Returns (.stX d w i f t p ty cp disp) :=
  of_two rfl (decode_4B (by simp)) (by simp [decode4B, ↓getLsbD_eq_field])
@[simp] theorem ldx (d w i f t p ty n cp disp) : Returns (.ldx d w i f t p ty n cp disp) :=
  of_two rfl (decode_4C (by simp)) (by simp [decode4C, ↓getLsbD_eq_field])
@[simp] theorem stx (d w i f t p ty n cp disp) : Returns (.stx d w i f t p ty n cp disp) :=
  of_two rfl (decode_4D (by simp)) (by simp [decode4D, ↓getLsbD_eq_field])
@[simp] theorem stc (d w i f t p ty cp disp) : Returns (.stc d w i f t p ty cp disp) :=
  of_two rfl (decode_4E (by simp)) (by simp [decode4E, ↓getLsbD_eq_field])
@[simp] theorem ldw (d a ta ty cp) : Returns (.ldw d a ta ty cp) :=
  of_two rfl (decode_4F (by simp)) (by simp [decode4F, ↓getLsbD_eq_field])
@[simp] theorem stw (a b ta tb ty cp) : Returns (.stw a b ta tb ty cp) :=
  of_two rfl (decode_50 (by simp)) (by simp [decode50, ↓getLsbD_eq_field])
@[simp] theorem lds (d w i f t p ty disp) : Returns (.lds d w i f t p ty disp) :=
  of_two rfl (decode_51 (by simp)) (by simp [decode51, ↓getLsbD_eq_field])
@[simp] theorem sts (d w i f t p ty disp) : Returns (.sts d w i f t p ty disp) :=
  of_two rfl (decode_52 (by simp)) (by simp [decode52, ↓getLsbD_eq_field])
@[simp] theorem pref (w i f t p cp disp) : Returns (.pref w i f t p cp disp) :=
  of_two rfl (decode_53 (by simp)) (by simp [decode53, ↓getLsbD_eq_field])
@[simp] theorem stmap (a b ta) : Returns (.stmap a b ta) :=
  of_one (Encoding.stmap _ _ _) rfl (decode_54 (by simp)) (by simp [decode54, ↓getLsbD_eq_field])
@[simp] theorem stunmap (a ta) : Returns (.stunmap a ta) :=
  of_one (Encoding.stunmap _ _) rfl (decode_54 (by simp)) (by simp [decode54, ↓getLsbD_eq_field])
@[simp] theorem stflush (a ta) : Returns (.stflush a ta) :=
  of_one (Encoding.stflush _ _) rfl (decode_54 (by simp)) (by simp [decode54, ↓getLsbD_eq_field])

/-! ### Atomics, commutative ranges and fences -/

@[simp] theorem atomAdd (d w i f t p c tc ty rt disp) : Returns (.atomAdd d w i f t p c tc ty rt disp) :=
  of_two rfl (decode_58 (by simp)) (by simp [decode58, ↓getLsbD_eq_field])
@[simp] theorem atomMin (d w i f t p c tc ty rt disp) : Returns (.atomMin d w i f t p c tc ty rt disp) :=
  of_two rfl (decode_58 (by simp)) (by simp [decode58, ↓getLsbD_eq_field])
@[simp] theorem atomMax (d w i f t p c tc ty rt disp) : Returns (.atomMax d w i f t p c tc ty rt disp) :=
  of_two rfl (decode_58 (by simp)) (by simp [decode58, ↓getLsbD_eq_field])
@[simp] theorem atomAnd (d w i f t p c tc ty rt disp) : Returns (.atomAnd d w i f t p c tc ty rt disp) :=
  of_two rfl (decode_58 (by simp)) (by simp [decode58, ↓getLsbD_eq_field])
@[simp] theorem atomOr (d w i f t p c tc ty rt disp) : Returns (.atomOr d w i f t p c tc ty rt disp) :=
  of_two rfl (decode_58 (by simp)) (by simp [decode58, ↓getLsbD_eq_field])
@[simp] theorem atomXor (d w i f t p c tc ty rt disp) : Returns (.atomXor d w i f t p c tc ty rt disp) :=
  of_two rfl (decode_58 (by simp)) (by simp [decode58, ↓getLsbD_eq_field])
@[simp] theorem atomExch (d w i f t p c tc ty rt disp) : Returns (.atomExch d w i f t p c tc ty rt disp) :=
  of_two rfl (decode_58 (by simp)) (by simp [decode58, ↓getLsbD_eq_field])
@[simp] theorem atomCas (d w i f t p c tc ty disp) : Returns (.atomCas d w i f t p c tc ty disp) :=
  of_two rfl (decode_58 (by simp)) (by simp [decode58, ↓getLsbD_eq_field])
@[simp] theorem atomIncwrap (d w i f t p c tc ty rt disp) : Returns (.atomIncwrap d w i f t p c tc ty rt disp) :=
  of_two rfl (decode_58 (by simp)) (by simp [decode58, ↓getLsbD_eq_field])
@[simp] theorem atomdAdd (w i f t p c tc ty disp) : Returns (.atomdAdd w i f t p c tc ty disp) :=
  of_two rfl (decode_59 (by simp)) (by simp [decode59, ↓getLsbD_eq_field])
@[simp] theorem atomdMin (w i f t p c tc ty disp) : Returns (.atomdMin w i f t p c tc ty disp) :=
  of_two rfl (decode_59 (by simp)) (by simp [decode59, ↓getLsbD_eq_field])
@[simp] theorem atomdMax (w i f t p c tc ty disp) : Returns (.atomdMax w i f t p c tc ty disp) :=
  of_two rfl (decode_59 (by simp)) (by simp [decode59, ↓getLsbD_eq_field])
@[simp] theorem atomdAnd (w i f t p c tc ty disp) : Returns (.atomdAnd w i f t p c tc ty disp) :=
  of_two rfl (decode_59 (by simp)) (by simp [decode59, ↓getLsbD_eq_field])
@[simp] theorem atomdOr (w i f t p c tc ty disp) : Returns (.atomdOr w i f t p c tc ty disp) :=
  of_two rfl (decode_59 (by simp)) (by simp [decode59, ↓getLsbD_eq_field])
@[simp] theorem atomdXor (w i f t p c tc ty disp) : Returns (.atomdXor w i f t p c tc ty disp) :=
  of_two rfl (decode_59 (by simp)) (by simp [decode59, ↓getLsbD_eq_field])
@[simp] theorem atomdIncwrap (w i f t p c tc ty disp) : Returns (.atomdIncwrap w i f t p c tc ty disp) :=
  of_two rfl (decode_59 (by simp)) (by simp [decode59, ↓getLsbD_eq_field])
@[simp] theorem crdecl (a b ta tb cop) : Returns (.crdecl a b ta tb cop) :=
  of_two rfl (decode_5A (by simp)) (by simp [decode5A, ↓getLsbD_eq_field])
@[simp] theorem cradd (d w i f t p cop disp) : Returns (.cradd d w i f t p cop disp) :=
  of_two rfl (decode_5B (by simp)) (by simp [decode5B, ↓getLsbD_eq_field])
@[simp] theorem fence (pm sm sc cum) : Returns (.fence pm sm sc cum) :=
  of_one (Encoding.fence _ _ _ _) rfl (decode_5C (by simp)) (by simp [decode5C, ↓getLsbD_eq_field])
@[simp] theorem ifence : Returns .ifence :=
  of_one Encoding.ifence rfl (decode_5D (by simp)) (by simp [decode5D])

/-! ### Copies and circular buffers -/

@[simp] theorem cpy (a b ta tb c tc src dst srole drole conv) :
    Returns (.cpy a b ta tb c tc src dst srole drole conv) :=
  of_two rfl (decode_60 (by simp)) (by simp [decode60, ↓getLsbD_eq_field])
@[simp] theorem cpyMc (a b ta tb c tc src dst role set conv) :
    Returns (.cpyMc a b ta tb c tc src dst role set conv) :=
  of_two rfl (decode_61 (by simp)) (by simp [decode61, ↓getLsbD_eq_field])
@[simp] theorem cpyColl (a b ta tb c tc src salt rm) : Returns (.cpyColl a b ta tb c tc src salt rm) :=
  of_two rfl (decode_62 (by simp)) (by simp [decode62, ↓getLsbD_eq_field])
@[simp] theorem cbinit (a b ta tb) : Returns (.cbinit a b ta tb) :=
  of_two rfl (decode_63 (by simp)) (by simp [decode63, ↓getLsbD_eq_field])
@[simp] theorem cbwait (d a ta n) : Returns (.cbwait d a ta n) :=
  of_two rfl (decode_63 (by simp)) (by simp [decode63, ↓getLsbD_eq_field])
@[simp] theorem cbpop (a ta n) : Returns (.cbpop a ta n) :=
  of_two rfl (decode_63 (by simp)) (by simp [decode63, ↓getLsbD_eq_field])
@[simp] theorem cbfree (a ta) : Returns (.cbfree a ta) :=
  of_two rfl (decode_63 (by simp)) (by simp [decode63, ↓getLsbD_eq_field])

/-! ### The matrix unit -/

@[simp] theorem mres (h wr tc ty) : Returns (.mres h wr tc ty) :=
  of_two rfl (decode_64 (by simp)) (by simp [decode64, ↓getLsbD_eq_field])
@[simp] theorem mrel (h) : Returns (.mrel h) :=
  of_one (Encoding.mrel _) rfl (decode_65 (by simp)) (by simp [decode65])
@[simp] theorem mzero (s t) : Returns (.mzero s t) :=
  of_one (Encoding.mzero _ _) rfl (decode_65 (by simp)) (by simp [decode65])
@[simp] theorem mwait (s) : Returns (.mwait s) :=
  of_one (Encoding.mwait _) rfl (decode_65 (by simp)) (by simp [decode65])
@[simp] theorem mwaitAll : Returns .mwaitAll :=
  of_one Encoding.mwaitAll rfl (decode_65 (by simp)) (by simp [decode65])
@[simp] theorem mfmt (s ty) : Returns (.mfmt s ty) :=
  of_two rfl (decode_66 (by simp)) (by simp [decode66])
@[simp] theorem mstep (s ha hb t) : Returns (.mstep s ha hb t) :=
  of_one (Encoding.mstep _ _ _ _) rfl (decode_67 (by simp)) (by simp [decode67])
@[simp] theorem mloop (s ha hb t wr tc cnt) : Returns (.mloop s ha hb t wr tc cnt) :=
  of_two rfl (decode_68 (by simp)) (by simp [decode68, ↓getLsbD_eq_field])
@[simp] theorem mrd (s t d row cnt) : Returns (.mrd s t d row cnt) :=
  of_two rfl (decode_69 (by simp)) (by simp [decode69])
@[simp] theorem mwr (s t d tc row cnt) : Returns (.mwr s t d tc row cnt) :=
  of_two rfl (decode_6A (by simp)) (by simp [decode6A, ↓getLsbD_eq_field])
@[simp] theorem mskv (s wr tc dep k act) : Returns (.mskv s wr tc dep k act) :=
  of_two rfl (decode_6B (by simp)) (by simp [decode6B, ↓getLsbD_eq_field])
@[simp] theorem msamp (s cnt) : Returns (.msamp s cnt) :=
  of_two rfl (decode_6B (by simp)) (by simp [decode6B])

/-! ### Regions -/

@[simp] theorem rgmake (d a b ta tb) : Returns (.rgmake d a b ta tb) :=
  of_one (Encoding.rgmake _ _ _ _ _) rfl (decode_6C (by simp)) (by simp [decode6C, ↓getLsbD_eq_field])
@[simp] theorem rgdrop (d a ta) : Returns (.rgdrop d a ta) :=
  of_one (Encoding.rgdrop _ _ _) rfl (decode_6C (by simp)) (by simp [decode6C, ↓getLsbD_eq_field])
@[simp] theorem rgfit (d a b ta tb) : Returns (.rgfit d a b ta tb) :=
  of_one (Encoding.rgfit _ _ _ _ _) rfl (decode_6D (by simp)) (by simp [decode6D, ↓getLsbD_eq_field])
@[simp] theorem rgstat (d a ta) : Returns (.rgstat d a ta) :=
  of_one (Encoding.rgstat _ _ _) rfl (decode_6D (by simp)) (by simp [decode6D, ↓getLsbD_eq_field])

/-! ### Phasers, barriers and locks -/

@[simp] theorem phnew (d a ta) : Returns (.phnew d a ta) :=
  of_one (Encoding.phnew _ _ _) rfl (decode_6E (by simp)) (by simp [decode6E, ↓getLsbD_eq_field])
@[simp] theorem phfree (d a ta) : Returns (.phfree d a ta) :=
  of_one (Encoding.phfree _ _ _) rfl (decode_6E (by simp)) (by simp [decode6E, ↓getLsbD_eq_field])
@[simp] theorem phreg (d a mode ta) : Returns (.phreg d a mode ta) :=
  of_one (Encoding.phreg _ _ _ _) rfl (decode_6F (by simp)) (by simp [decode6F, ↓getLsbD_eq_field])
@[simp] theorem phdrop (d a ta) : Returns (.phdrop d a ta) :=
  of_one (Encoding.phdrop _ _ _) rfl (decode_6F (by simp)) (by simp [decode6F, ↓getLsbD_eq_field])
@[simp] theorem phsig (d a ta) : Returns (.phsig d a ta) :=
  of_one (Encoding.phsig _ _ _) rfl (decode_70 (by simp)) (by simp [decode70, ↓getLsbD_eq_field])
@[simp] theorem phwait (d a ta) : Returns (.phwait d a ta) :=
  of_one (Encoding.phwait _ _ _) rfl (decode_70 (by simp)) (by simp [decode70, ↓getLsbD_eq_field])
@[simp] theorem pharr (d a ta) : Returns (.pharr d a ta) :=
  of_one (Encoding.pharr _ _ _) rfl (decode_70 (by simp)) (by simp [decode70, ↓getLsbD_eq_field])
@[simp] theorem phbytes (d a b ta tb) : Returns (.phbytes d a b ta tb) :=
  of_one (Encoding.phbytes _ _ _ _ _) rfl (decode_71 (by simp)) (by simp [decode71, ↓getLsbD_eq_field])
@[simp] theorem bar : Returns .bar :=
  of_one Encoding.bar rfl (decode_72 (by simp)) (by simp [decode72])
@[simp] theorem barto (a b ta tb) : Returns (.barto a b ta tb) :=
  of_one (Encoding.barto _ _ _ _) rfl (decode_72 (by simp)) (by simp [decode72, ↓getLsbD_eq_field])
@[simp] theorem flushda : Returns .flushda :=
  of_one Encoding.flushda rfl (decode_73 (by simp)) (by simp [decode73])
@[simp] theorem lkmat (d a ta) : Returns (.lkmat d a ta) :=
  of_one (Encoding.lkmat _ _ _) rfl (decode_74 (by simp)) (by simp [decode74, ↓getLsbD_eq_field])
@[simp] theorem lkbegin (d) : Returns (.lkbegin d) :=
  of_one (Encoding.lkbegin _) rfl (decode_75 (by simp)) (by simp [decode75])
@[simp] theorem lkbeginWt (d) : Returns (.lkbeginWt d) :=
  of_one (Encoding.lkbeginWt _) rfl (decode_75 (by simp)) (by simp [decode75])
@[simp] theorem lkend (d) : Returns (.lkend d) :=
  of_one (Encoding.lkend _) rfl (decode_75 (by simp)) (by simp [decode75])
@[simp] theorem lkabort (d) : Returns (.lkabort d) :=
  of_one (Encoding.lkabort _) rfl (decode_75 (by simp)) (by simp [decode75])
@[simp] theorem lkacq (d a mode ta) : Returns (.lkacq d a mode ta) :=
  of_one (Encoding.lkacq _ _ _ _) rfl (decode_76 (by simp)) (by simp [decode76, ↓getLsbD_eq_field])
@[simp] theorem lktry (d a mode ta) : Returns (.lktry d a mode ta) :=
  of_one (Encoding.lktry _ _ _ _) rfl (decode_76 (by simp)) (by simp [decode76, ↓getLsbD_eq_field])
@[simp] theorem lkup (d a mode ta) : Returns (.lkup d a mode ta) :=
  of_one (Encoding.lkup _ _ _ _) rfl (decode_76 (by simp)) (by simp [decode76, ↓getLsbD_eq_field])
@[simp] theorem lkrel (d a ta) : Returns (.lkrel d a ta) :=
  of_one (Encoding.lkrel _ _ _) rfl (decode_77 (by simp)) (by simp [decode77, ↓getLsbD_eq_field])
@[simp] theorem lkstat (d a ta) : Returns (.lkstat d a ta) :=
  of_one (Encoding.lkstat _ _ _) rfl (decode_77 (by simp)) (by simp [decode77, ↓getLsbD_eq_field])

/-! ### Control flow and launches -/

@[simp] theorem go (off) : Returns (.go off) :=
  of_one (Encoding.go _) rfl (decode_78 (by simp)) (by simp [decode78])
/-- With the mask register 0 the word would be that of GO. -/
@[simp] theorem br (off m) : Returns (.br off m) := fun h => by
  have ne : m ≠ 0#3 := by simpa [Instr.wellFormed] using h
  exact of_one (Encoding.br _ _) rfl (decode_78 (by simp)) (by simp [decode78, ne]) h
@[simp] theorem call (off) : Returns (.call off) :=
  of_one (Encoding.call _) rfl (decode_79 (by simp)) (by simp [decode79])
@[simp] theorem brx (a ta) : Returns (.brx a ta) :=
  of_one (Encoding.brx _ _) rfl (decode_7A (by simp)) (by simp [decode7A, ↓getLsbD_eq_field])
@[simp] theorem callx (a ta) : Returns (.callx a ta) :=
  of_one (Encoding.callx _ _) rfl (decode_7A (by simp)) (by simp [decode7A, ↓getLsbD_eq_field])
@[simp] theorem ret (a ta) : Returns (.ret a ta) :=
  of_one (Encoding.ret _ _) rfl (decode_7A (by simp)) (by simp [decode7A, ↓getLsbD_eq_field])
@[simp] theorem exit : Returns .exit :=
  of_one Encoding.exit rfl (decode_7A (by simp)) (by simp [decode7A])
@[simp] theorem yield : Returns .yield :=
  of_one Encoding.yield rfl (decode_7A (by simp)) (by simp [decode7A])
@[simp] theorem nop : Returns .nop :=
  of_one Encoding.nop rfl (decode_7B (by simp)) (by simp [decode7B])
@[simp] theorem launch (d a ta) : Returns (.launch d a ta) :=
  of_one (Encoding.launch _ _ _) rfl (decode_7B (by simp)) (by simp [decode7B, ↓getLsbD_eq_field])
@[simp] theorem join (d a ta) : Returns (.join d a ta) :=
  of_one (Encoding.join _ _ _) rfl (decode_7B (by simp)) (by simp [decode7B, ↓getLsbD_eq_field])

/-! ### System instructions -/

@[simp] theorem trap (a ta) : Returns (.trap a ta) :=
  of_one (Encoding.trap _ _) rfl (decode_7C (by simp)) (by simp [decode7C, ↓getLsbD_eq_field])
@[simp] theorem trapS (a ta) : Returns (.trapS a ta) :=
  of_one (Encoding.trapS _ _) rfl (decode_7C (by simp)) (by simp [decode7C, ↓getLsbD_eq_field])
@[simp] theorem brk : Returns .brk :=
  of_one Encoding.brk rfl (decode_7C (by simp)) (by simp [decode7C])
@[simp] theorem tret : Returns .tret :=
  of_one Encoding.tret rfl (decode_7C (by simp)) (by simp [decode7C])
@[simp] theorem srd (d lv sl) : Returns (.srd d lv sl) :=
  of_two rfl (decode_7D (by simp)) (by simp [decode7D])
@[simp] theorem srdLaneid (d) : Returns (.srdLaneid d) :=
  of_two rfl (decode_7D (by simp)) (by simp [decode7D])
@[simp] theorem swr (a ta lv sl) : Returns (.swr a ta lv sl) :=
  of_two rfl (decode_7D (by simp)) (by simp [decode7D, ↓getLsbD_eq_field])
@[simp] theorem skey (a ta c tc) : Returns (.skey a ta c tc) :=
  of_two rfl (decode_7D (by simp)) (by simp [decode7D, ↓getLsbD_eq_field])
@[simp] theorem tlbinv (a b ta tb) : Returns (.tlbinv a b ta tb) :=
  of_one (Encoding.tlbinv _ _ _ _) rfl (decode_7E (by simp)) (by simp [decode7E, ↓getLsbD_eq_field])
@[simp] theorem vacate (d a b ta tb) : Returns (.vacate d a b ta tb) :=
  of_one (Encoding.vacate _ _ _ _ _) rfl (decode_7E (by simp)) (by simp [decode7E, ↓getLsbD_eq_field])
@[simp] theorem tokq (d a ta) : Returns (.tokq d a ta) :=
  of_one (Encoding.tokq _ _ _) rfl (decode_7E (by simp)) (by simp [decode7E, ↓getLsbD_eq_field])
@[simp] theorem haltwg (d a b ta tb) : Returns (.haltwg d a b ta tb) :=
  of_one (Encoding.haltwg _ _ _ _ _) rfl (decode_7E (by simp)) (by simp [decode7E, ↓getLsbD_eq_field])

/-! ### Every instruction -/

/-- An event has no words; every other constructor has its own lemma above. -/
theorem returns_of_encoded (i : Instr) (h : encode i ≠ []) : Returns i := by
  cases i with
  | rngLand | loadLand | farAtomic | hostAtomicLeaseTimeout | commutativeCombination | fenceComplete |
    copyLineLand | copyFail | cbSlotClaim | streamInstructionEffect | matrixStep | regionStatusReturn |
    refitCommit | regionLineEvaluation | regionStore | phaserWaitRelease | barrierTimeout | lockGrant |
    woundDelivery | woundPatienceExpiry | siblingStop | coreStall | singleStepComplete | pageWalk | pageMiss |
    writeBackArrival | workgroupDispatch | gangCandidateReserve | gangPatienceExpiry | workgroupMove |
    timeSliceExpiry | launchEnd | tokenSpend | tokenReturn | coreHungry | powerQuotaChange | sliceRatioChange |
    sliceRatioTakesEffect | readGrantChange | thermalThrottle | thermalReset | coreClockGate | corePowerGate |
    coreWake | hang | uncontainedError | correctedErrorReport | launchCommand | cancel | seedCommand |
    vacateCommand | kill | sync | unknownCommand | wormusLinkLoss | wormusPortRestore | hostDataWrite |
    hostDataRead | partitionCreate | contextCreate | contextKill | partitionReset | moduleReset | bringUp |
    watchArm | watchDisarm | attestationRequest | securityVersionRaise | unassignedOpcode | phaserResultReturn |
    lineEviction | pageRecordDrop | laceCycle | coherenceLeaseAnswer => exact absurd rfl h
  | _ => simp

/-- Settles O56: each encoded instruction by the lemma for its constructor. -/
theorem decodeEncode : Obligations.DecodeEncode := fun i wellFormed encoded => returns_of_encoded i encoded wellFormed

/-- Settles O60: each word by the decoder of its opcode. -/
theorem specWords : Obligations.SpecWords :=
  ⟨(decode_00 rfl).trans rfl, (decode_0F rfl).trans rfl, (decode_11 rfl).trans rfl, (decode_23 rfl).trans rfl,
    (decode_30 rfl).trans rfl, (decode_43 rfl).trans rfl, (decode_48 rfl).trans rfl, (decode_49 rfl).trans rfl,
    (decode_58 rfl).trans rfl, (decode_60 rfl).trans rfl, (decode_64 rfl).trans rfl, (decode_6D rfl).trans rfl,
    (decode_6F rfl).trans rfl, (decode_76 rfl).trans rfl, (decode_79 rfl).trans rfl, (decode_7B rfl).trans rfl,
    (decode_7D rfl).trans rfl, (decode_7C rfl).trans rfl⟩

end Sys2Proof.Laws.ReadBack

/-!
The one-word vector forms with one source or an immediate, MOVI and LIT (R126-R128, R86), and O2.
-/

namespace Sys2Proof.Machine

open Safety Claims

/-! ### Counts and orders of bits (R127) -/

/-- The number of leading zeros, by where the highest one stands. -/
theorem isClz_clzK (k : Nat) (x : W64) : isClz k x.toNat (clzK k x) := by
  unfold isClz clzK
  generalize e : x.toNat % 2 ^ k = n
  have lt : n < 2 ^ k := e ▸ Nat.mod_lt _ (Nat.two_pow_pos k)
  by_cases zero : n = 0
  · simp [zero]
  · have high : n.log2 < k := (Nat.log2_lt zero).2 lt
    simp only [zero, if_false, show k - (k - 1 - n.log2) = n.log2 + 1 by omega, Nat.add_sub_cancel]
    exact ⟨by omega, Nat.lt_log2_self, fun _ => Nat.log2_self_le zero⟩

theorem popK_eq_ones (k : Nat) (x : W64) : popK k x = ones k x := by
  unfold popK ones
  induction List.range k with
  | nil => rfl
  | cons i l ih => cases b : x.getLsbD i <;> simp [b, ih, Nat.add_comm]

theorem popK_le (k : Nat) (x : W64) : popK k x ≤ k :=
  (List.length_filter_le ..).trans_eq List.length_range

/-- A power of two whose bit is clear sets that bit and no other. -/
theorem getLsbD_ofNat_add_two_pow {n v i : Nat} (hi : i < n) (clear : (BitVec.ofNat n v).getLsbD i = false) (j : Nat) :
    (BitVec.ofNat n (v + 2 ^ i)).getLsbD j = ((BitVec.ofNat n v).getLsbD j || decide (i = j)) := by
  have power : BitVec.ofNat n (2 ^ i) = BitVec.twoPow n i :=
    BitVec.eq_of_toNat_eq (by rw [BitVec.toNat_ofNat, BitVec.toNat_twoPow])
  have apart : BitVec.ofNat n v &&& BitVec.twoPow n i = 0#n := by
    rw [BitVec.and_twoPow, clear]
    simp
  rw [BitVec.ofNat_add, power, BitVec.add_eq_or_of_and_eq_zero _ _ apart, BitVec.getLsbD_or, BitVec.getLsbD_twoPow,
    decide_eq_true hi, Bool.true_and]

/-- The first `n` bits of a string of `k`, reversed: bit `i` stands at place `k - 1 - i`. -/
theorem getLsbD_reversed (b : Nat → Bool) {k n : Nat} (hk : k ≤ 64) (hn : n ≤ k) (j : Nat) :
    (BitVec.ofNat 64 ((List.range n).foldl (fun acc i => acc + if b i then 2 ^ (k - 1 - i) else 0) 0)).getLsbD j =
      (decide (k - n ≤ j) && decide (j < k) && b (k - 1 - j)) := by
  induction n generalizing j with
  | zero => simp
  | succ n ih =>
    have ih := ih (by omega)
    rw [List.range_succ, List.foldl_append, List.foldl_cons, List.foldl_nil]
    generalize (List.range n).foldl (fun acc i => acc + if b i then 2 ^ (k - 1 - i) else 0) 0 = v at ih
    have clear : (BitVec.ofNat 64 v).getLsbD (k - 1 - n) = false := by
      rw [ih, decide_eq_false (by omega), Bool.false_and, Bool.false_and]
    have place : k - 1 - (k - 1 - n) = n := by omega
    cases one : b n
    · rw [if_neg nofun, Nat.add_zero, ih]
      grind
    · rw [if_pos rfl, getLsbD_ofNat_add_two_pow (by omega) clear, ih]
      grind

theorem getLsbD_brevK (x : W64) {k : Nat} (hk : k ≤ 64) (j : Nat) :
    (brevK k x).getLsbD j = (decide (j < k) && x.getLsbD (k - 1 - j)) := by
  rw [brevK, getLsbD_reversed _ hk (Nat.le_refl k)]
  simp

theorem isClz_setWidth_clzK (x : W32) : isClz 32 x.toNat (BitVec.ofNat 32 (clzK 32 (x.setWidth 64))).toNat := by
  have spec := isClz_clzK 32 (x.setWidth 64)
  rw [BitVec.toNat_ofNat, Nat.mod_eq_of_lt (Nat.lt_of_le_of_lt spec.1 (by decide))]
  rwa [BitVec.toNat_setWidth_of_le (by decide)] at spec

theorem toNat_ofNat_popK (x : W32) : (BitVec.ofNat 32 (popK 32 (x.setWidth 64))).toNat = ones 32 (x.setWidth 64) := by
  rw [BitVec.toNat_ofNat, Nat.mod_eq_of_lt (Nat.lt_of_le_of_lt (popK_le ..) (by decide)), popK_eq_ones]

theorem getLsbD_setWidth_brevK (x : W32) {j : Nat} (hj : j < 32) :
    ((brevK 32 (x.setWidth 64)).setWidth 32).getLsbD j = x.getLsbD (31 - j) := by
  rw [BitVec.getLsbD_setWidth, getLsbD_brevK _ (by decide)]
  simp [hj]; omega

/-! ### Shifts by a count and absolute values, on any width (R126, R127) -/

theorem shiftLeft_eq_ofNat {n : Nat} (x : BitVec n) (c : Nat) : x <<< c = BitVec.ofNat n (x.toNat * 2 ^ c) := by
  rw [← BitVec.toNat_inj]; simp [Nat.shiftLeft_eq]

theorem ushiftRight_eq_ofNat {n : Nat} (x : BitVec n) (c : Nat) : x >>> c = BitVec.ofNat n (x.toNat / 2 ^ c) := by
  rw [← BitVec.toNat_inj, BitVec.toNat_ushiftRight, Nat.shiftRight_eq_div_pow, BitVec.toNat_ofNat,
    Nat.mod_eq_of_lt (Nat.lt_of_le_of_lt (Nat.div_le_self ..) x.isLt)]

theorem sshiftRight_eq_ofInt {n : Nat} (x : BitVec n) (c : Nat) :
    x.sshiftRight c = BitVec.ofInt n (x.toInt / 2 ^ c) := by
  rw [BitVec.sshiftRight, Int.shiftRight_eq_div_pow]
  norm_cast

theorem rotateLeft_eq_or {n : Nat} (x : BitVec n) {c : Nat} (h : c < n) :
    x.rotateLeft c = x <<< c ||| x >>> (n - c) := by
  rw [BitVec.rotateLeft_def, Nat.mod_eq_of_lt h]

theorem ofInt_abs_toInt {n : Nat} (x : BitVec n) : BitVec.ofInt n |x.toInt| = if x.msb then -x else x := by
  have sign := x.msb_eq_toInt
  split
  next neg =>
    have : x.toInt < 0 := by simpa [neg] using sign
    rw [abs_of_neg this, BitVec.ofInt_neg, BitVec.ofInt_toInt]
  next nonneg =>
    have : 0 ≤ x.toInt := by simpa [nonneg] using sign
    rw [abs_of_nonneg this, BitVec.ofInt_toInt]

/-! ### The shapes -/

/-- A one-source instruction that is ready: each lane of E holds the value of its function. -/
theorem vectorResult_vec1 {s : State} {d a : VReg} {ta : Bool} {p : BitVec 2} {i : Instr} {f : W32 → W32}
    {R : W32 → W32 → Prop} (h : issuing s) (hi : s.issues (s.E p) (deps1 .b32 d a ta) 0 = true)
    (run : exec i s = s.vec1 d a ta p f) (holds : ∀ x, R x (f x)) :
    VectorResult s i 1 (s.E p) .b32 d fun _ l y => R (l.rd a.toNat) (y.setWidth 32) := by
  obtain ⟨u, e, c, v⟩ := vecW_next s p (deps1 .b32 d a ta) 0 1 .b32 d
    (fun _ l => (f (l.rd a.toNat)).setWidth 64) h hi nofun
  refine ⟨u, run.trans ?_, c, fun l hl he => ?_⟩
  · simp only [State.vec1, wr_eq_wrTy, e]
  · rw [v l hl he]
    simpa [Ty.is64] using holds _

/-- An instruction that is ready and writes one value in every lane. -/
theorem vectorResult_const {s : State} {d : VReg} {p : BitVec 2} {i : Instr} {len : Nat} {t : Ty} {x y : W64}
    (h : issuing s) (hi : s.issues (s.E p) (({} : Deps).dst (regsOf t d.toNat)) 0 = true)
    (even : t.is64 = true → d.toNat % 2 = 0)
    (run : exec i s = s.vecOp p (({} : Deps).dst (regsOf t d.toNat)) 0 len fun _ l => l.wrTy t d.toNat x)
    (fits : y = if t.is64 then x else (x.setWidth 32).setWidth 64) :
    VectorResult s i len (s.E p) t d fun _ _ z => z = y := by
  obtain ⟨u, e, c, v⟩ := vecW_next s p _ 0 len t d (fun _ _ => x) h hi even
  exact ⟨u, run.trans e, c, fun l hl he => (v l hl he).trans fits.symm⟩

/-- MOVI and LIT write a constant of the type that their destination has. -/
theorem execMovi_eq_vecOp (d : VReg) (imm : BitVec 16) (p : BitVec 2) (s : State) : execMovi d imm p s =
    s.vecOp p (({} : Deps).dst (regsOf .b32 d.toNat)) 0 1 fun _ l =>
      l.wrTy .b32 d.toNat ((imm.signExtend 32).setWidth 64) := by
  simp only [execMovi, wr_eq_wrTy]
  rfl

theorem execLitVector_eq_vecOp (d : VReg) (pr : Bool) (hi : BitVec 16) (lit : W32) (s : State) :
    execLitVector d pr hi lit s =
      s.vecOp 0 (({} : Deps).dst (regsOf (if pr then .b64 else .b32) d.toNat)) 0 2 fun _ l =>
        l.wrTy (if pr then .b64 else .b32) d.toNat (if pr then hi.setWidth 32 ++ lit else lit.setWidth 64) := by
  cases pr
  · simp only [execLitVector, wr_eq_wrTy]
    rfl
  · rfl

/-! ### O2 -/

/-- Settles O2: the forms with one source by the value of each, MOVI and LIT as constants. -/
theorem vectorOneSource : Obligations.VectorOneSource := by
  intro s d a ta p h
  refine ⟨fun imm cnt small ready q hq => ?_, fun imm ready => ?_, fun pr hi lit wf ready => ?_⟩
  · simp only [List.mem_cons, List.not_mem_nil, or_false] at hq
    have one {i : Instr} {f : W32 → W32} {R : W32 → W32 → Prop} := @vectorResult_vec1 s d a ta p i f R h ready
    rcases hq with rfl | rfl | rfl | rfl | rfl | rfl | rfl | rfl | rfl | rfl | rfl | rfl
    · exact one (exec_addImm ..) fun x => rfl
    · exact one (exec_shlImm ..) fun x => shiftLeft_eq_ofNat x _
    · exact one (exec_shrImm ..) fun x => ushiftRight_eq_ofNat x _
    · exact one (exec_sarImm ..) fun x => sshiftRight_eq_ofInt x _
    · exact one (exec_rotImm ..) fun x => rotateLeft_eq_or x small
    · exact one (exec_abs ..) ofInt_abs_toInt
    · exact one (exec_neg ..) fun x => (BitVec.zero_sub x).symm
    · exact one (exec_not ..) fun x j hj => by simp [hj]
    · exact one (exec_clz ..) isClz_setWidth_clzK
    · exact one (exec_popc ..) toNat_ofNat_popK
    · exact one (exec_brev ..) fun x j hj => getLsbD_setWidth_brevK x hj
    · exact one (exec_mov ..) fun x => rfl
  · exact vectorResult_const h ready nofun ((exec_movi ..).trans (execMovi_eq_vecOp ..)) (by simp [Ty.is64])
  · refine vectorResult_const h ready (fun pair => ?_) ((exec_litVector ..).trans (execLitVector_eq_vecOp ..)) ?_
    · cases pr
      · cases pair
      · simpa [Instr.wellFormed] using wf
    · cases pr <;> simp [Ty.is64]

end Sys2Proof.Machine

/-!
Rounding a magnitude to whole steps (R105, R107), and O14.
-/

namespace Sys2Proof.Machine

/-! ### Whole numbers of steps -/

/-- Whether a rounding takes a magnitude of `y` steps to the next whole number of steps. -/
def roundsUp (mode : Mode) (neg : Bool) (y : Rat) : Bool :=
  if y - y.floor = 0 then false else
  match mode with
  | .rne => decide (1 / 2 < y - y.floor) || (decide (y - y.floor = 1 / 2) && y.floor % 2 == 1)
  | .rtz => false
  | .rdn => neg
  | .rup => !neg
  | .sr u => decide ((u : Int) < ((y - y.floor) * (2 ^ 32 : Nat)).floor)

/-- The whole number of steps that a rounding gives for a magnitude of `y` steps. -/
def roundUnit (mode : Mode) (neg : Bool) (y : Rat) : Int := if roundsUp mode neg y then y.floor + 1 else y.floor

theorem roundStep_eq (mode : Mode) (neg : Bool) (q step : Rat) :
    roundStep mode neg q step = roundUnit mode neg (q / step) * step := rfl

theorem floor_bounds (y : Rat) : (y.floor : Rat) ≤ y ∧ y < y.floor + 1 := ⟨Int.floor_le y, Int.lt_floor_add_one y⟩

theorem roundsUp_whole (mode : Mode) (neg : Bool) {y : Rat} (h : y = y.floor) : roundsUp mode neg y = false :=
  if_pos (sub_eq_zero.2 h)

theorem roundUnit_cases (mode : Mode) (neg : Bool) (y : Rat) :
    roundUnit mode neg y = y.floor ∨ roundUnit mode neg y = y.floor + 1 ∧ y ≠ y.floor := by
  rw [roundUnit]
  split
  next up => exact .inr ⟨rfl, fun whole => by simp [roundsUp_whole mode neg whole] at up⟩
  next => exact .inl rfl

/-! ### Each mode (R105, R107) -/

/-- RNE is at most half a step away, and exactly half only at an even number. -/
theorem roundUnit_rne_half (neg : Bool) (y : Rat) : |roundUnit .rne neg y - y| ≤ 1 / 2 ∧
    (|roundUnit .rne neg y - y| = 1 / 2 → roundUnit .rne neg y % 2 = 0) := by
  obtain ⟨lo, hi⟩ := floor_bounds y
  have down : |(y.floor : Rat) - y| = y - y.floor := by rw [abs_sub_comm, abs_of_nonneg (by linarith)]
  have up : |((y.floor + 1 : Int) : Rat) - y| = 1 - (y - y.floor) := by
    push_cast
    rw [abs_of_nonneg (by linarith)]
    ring
  unfold roundUnit roundsUp
  rcases lt_trichotomy (y - y.floor) (1 / 2) with below | half | above
  · simp only [below.ne, below.not_gt, decide_false, Bool.false_and, Bool.or_self, ite_self, Bool.false_eq_true,
      if_false, down]
    exact ⟨below.le, False.elim⟩
  · rcases Int.emod_two_eq_zero_or_one y.floor with even | odd
    · simp [half, even, down]
    · have even : (y.floor + 1) % 2 = 0 := by omega
      have : ¬((1 : Rat) / 2 = 0) := by norm_num
      simp only [half, odd, this, if_false, decide_true, BEq.rfl, Bool.and_self, Bool.or_true, if_true, up, even]
      norm_num
  · have : (y - y.floor : Rat) ≠ 0 := by linarith
    simp only [this, if_false, above, decide_true, Bool.true_or, if_true, up]
    exact ⟨by linarith, fun e => by linarith⟩

/-- No whole number is nearer than that of RNE, and an equally near other one is odd. -/
theorem roundUnit_rne_nearest (neg : Bool) (y : Rat) (k : Int) :
    |roundUnit .rne neg y - y| ≤ |k - y| ∧
      (k ≠ roundUnit .rne neg y → |roundUnit .rne neg y - y| = |k - y| → k % 2 ≠ 0) := by
  obtain ⟨near, tie⟩ := roundUnit_rne_half neg y
  generalize roundUnit .rne neg y = m at near tie
  have between : |(k : Rat) - m| ≤ |(k : Rat) - y| + |m - y| := by
    simpa only [abs_sub_comm y] using abs_sub_le (k : Rat) y m
  have apart (h : k ≠ m) : 1 ≤ |(k : Rat) - m| := by exact_mod_cast Int.one_le_abs (sub_ne_zero.2 h)
  refine ⟨?_, fun h same => ?_⟩
  · by_cases h : k = m
    · rw [h]
    · linarith [apart h]
  · have half : |(m : Rat) - y| = 1 / 2 := by linarith [apart h]
    have next : |k - m| ≤ 1 := by exact_mod_cast between.trans (by linarith : _ ≤ (1 : Rat))
    have even := tie half
    rw [abs_le] at next
    omega

theorem roundUnit_rtz (neg : Bool) (y : Rat) : roundUnit .rtz neg y = y.floor := by
  simp [roundUnit, roundsUp]

theorem roundUnit_rdn_le_iff (neg : Bool) (y : Rat) : (roundUnit .rdn neg y : Rat) ≤ y ↔ neg = false ∨ y = y.floor := by
  obtain ⟨lo, hi⟩ := floor_bounds y
  by_cases whole : y = y.floor
  · simp [roundUnit, roundsUp_whole _ _ whole, ← whole]
  · have : y - y.floor ≠ 0 := sub_ne_zero.2 whole
    cases neg
    · simp [roundUnit, roundsUp, lo]
    · simp [roundUnit, roundsUp, this, whole, hi]

theorem roundUnit_rup (neg : Bool) (y : Rat) : roundUnit .rup neg y = roundUnit .rdn (!neg) y := rfl

theorem roundUnit_sr (u : Nat) (neg : Bool) (y : Rat) : roundUnit (.sr u) neg y =
    if (u : Int) < ((y - y.floor) * 2 ^ 32).floor then y.floor + 1 else y.floor := by
  by_cases whole : y - y.floor = 0
  · have never : ¬((u : Int) < (0 : Rat).floor) := not_lt.2 (Int.natCast_nonneg u)
    rw [whole, zero_mul, if_neg never, roundUnit, roundsUp_whole _ _ (sub_eq_zero.1 whole)]
    rfl
  · simp only [roundUnit, roundsUp, whole, if_false, decide_eq_true_eq]
    push_cast
    rfl

/-! ### O14 -/

/-- Settles O14: on magnitudes counted in steps, whose order and distances are those of the steps' multiples. -/
theorem roundingModes : Obligations.RoundingModes := by
  intro neg q step _ pos n
  have inSteps : q = q / step * step := by field_simp
  have le_iff (k : Int) : k * step ≤ q ↔ (k : Rat) ≤ q / step := (le_div_iff₀ pos).symm
  have eq_iff : q = n * step ↔ q / step = n := (div_eq_iff pos.ne').symm
  have distance (k : Int) : |k * step - q| = |(k : Rat) - q / step| * step := by
    conv_lhs => rw [inSteps]
    rw [← sub_mul, abs_mul, abs_of_pos pos]
  simp only [roundStep_eq, ne_eq, distance, le_iff, eq_iff, mul_left_inj' pos.ne', mul_le_mul_iff_left₀ pos,
    Int.cast_inj]
  exact ⟨fun m => roundUnit_cases m neg _, roundUnit_rne_nearest neg _,
    (roundUnit_rtz neg _).symm ▸ (floor_bounds _).1, roundUnit_rdn_le_iff neg _,
    by simpa [roundUnit_rup] using roundUnit_rdn_le_iff (!neg) (q / step),
    fun u => by rw [roundUnit_sr]; split <;> rfl⟩

end Sys2Proof.Machine

/-!
The bits of the IEEE types (R102): every rounded result of an operation lies within the type, and so do its bits.
-/

namespace Sys2Proof.Machine

/-! ### Powers of two (R106) -/

theorem pow2_eq_zpow (e : Int) : pow2 e = (2 : Rat) ^ e := by
  unfold pow2
  split
  next nonneg =>
    obtain ⟨n, rfl⟩ := Int.eq_ofNat_of_zero_le nonneg
    simp
  next neg =>
    obtain ⟨n, hn⟩ := Int.eq_ofNat_of_zero_le (by omega : 0 ≤ -e)
    rw [show e = -(n : Int) by omega]
    simp

theorem pow2_pos (e : Int) : 0 < pow2 e := by rw [pow2_eq_zpow]; positivity

theorem pow2_le_pow2 {a b : Int} (h : a ≤ b) : pow2 a ≤ pow2 b := by
  rw [pow2_eq_zpow, pow2_eq_zpow]; exact zpow_le_zpow_right₀ (by norm_num) h

theorem lt_of_pow2_lt {a b : Int} (h : pow2 a < pow2 b) : a < b :=
  lt_of_not_ge fun le => (pow2_le_pow2 le).not_gt h

theorem pow2_add (a b : Int) : pow2 (a + b) = pow2 a * pow2 b := by
  simp only [pow2_eq_zpow]; exact zpow_add₀ (by norm_num) a b

theorem pow2_natCast (n : Nat) : pow2 n = ((2 ^ n : Nat) : Rat) := by simp [pow2]

/-- A power of two is a whole number of any smaller power. -/
theorem pow2_multiple {a b : Int} (h : b ≤ a) : ∃ k : Int, pow2 a = k * pow2 b := by
  obtain ⟨n, hn⟩ := Int.eq_ofNat_of_zero_le (by omega : 0 ≤ a - b)
  refine ⟨((2 ^ n : Nat) : Int), ?_⟩
  rw [show a = (n : Int) + b by omega, pow2_add, pow2_natCast]
  push_cast
  rfl

theorem natCast_log2_bounds {n : Nat} (h : n ≠ 0) : pow2 n.log2 ≤ n ∧ (n : Rat) < pow2 (n.log2 + 1) := by
  have next : ((n.log2 : Int) + 1) = (n.log2 + 1 : Nat) := rfl
  rw [next, pow2_natCast, pow2_natCast]
  exact ⟨by exact_mod_cast Nat.log2_self_le h, by exact_mod_cast Nat.lt_log2_self⟩

/-- The exponents of numerator and denominator give that of a quotient up to one. -/
theorem div_log2_bounds {n d : Nat} (hn : n ≠ 0) (hd : d ≠ 0) :
    pow2 ((n.log2 : Int) - d.log2 - 1) < (n : Rat) / d ∧ (n : Rat) / d < pow2 ((n.log2 : Int) - d.log2 + 1) := by
  obtain ⟨numLow, numHigh⟩ := natCast_log2_bounds hn
  obtain ⟨denLow, denHigh⟩ := natCast_log2_bounds hd
  have den : (0 : Rat) < d := by exact_mod_cast Nat.pos_of_ne_zero hd
  rw [lt_div_iff₀ den, div_lt_iff₀ den]
  constructor
  · calc pow2 ((n.log2 : Int) - d.log2 - 1) * d
      _ < pow2 ((n.log2 : Int) - d.log2 - 1) * pow2 (d.log2 + 1) := mul_lt_mul_of_pos_left denHigh (pow2_pos _)
      _ = pow2 n.log2 := by rw [← pow2_add]; congr 1; ring
      _ ≤ n := numLow
  · calc (n : Rat)
      _ < pow2 (n.log2 + 1) := numHigh
      _ = pow2 ((n.log2 : Int) - d.log2 + 1) * pow2 d.log2 := by rw [← pow2_add]; congr 1; ring
      _ ≤ _ := mul_le_mul_of_nonneg_left denLow (pow2_pos _).le

/-- `ilog2` is the exponent of a positive magnitude. -/
theorem ilog2_bounds {q : Rat} (h : 0 < q) : pow2 (ilog2 q) ≤ q ∧ q < pow2 (ilog2 q + 1) := by
  have num : 0 < q.num := Rat.num_pos.2 h
  have value : (q.num.natAbs : Rat) / q.den = q := by
    rw [Nat.cast_natAbs, abs_of_pos num, Rat.num_div_den]
  obtain ⟨low, high⟩ := div_log2_bounds (Int.natAbs_ne_zero.2 num.ne') q.den_ne_zero
  rw [value] at low high
  unfold ilog2
  simp only
  split
  next below => exact ⟨low.le, by simpa using below⟩
  next above => exact ⟨not_lt.1 above, high⟩

theorem ilog2_lt {q : Rat} {k : Int} (h : 0 < q) (hk : q < pow2 k) : ilog2 q < k :=
  lt_of_pow2_lt ((ilog2_bounds h).1.trans_lt hk)

/-! ### Rounding keeps within whole numbers of steps -/

theorem le_roundStep {mode : Mode} {neg : Bool} {q step : Rat} (pos : 0 < step) {k : Int} (h : k * step ≤ q) :
    k * step ≤ roundStep mode neg q step := by
  have below : k ≤ (q / step).floor := Rat.le_floor_iff.2 ((le_div_iff₀ pos).2 h)
  rw [roundStep_eq]
  refine mul_le_mul_of_nonneg_right (Int.cast_le.2 ?_) pos.le
  rcases roundUnit_cases mode neg (q / step) with e | ⟨e, -⟩ <;> omega

theorem roundStep_le {mode : Mode} {neg : Bool} {q step : Rat} (pos : 0 < step) {k : Int} (h : q ≤ k * step) :
    roundStep mode neg q step ≤ k * step := by
  have above : q / step ≤ k := (div_le_iff₀ pos).2 h
  have floor : ((q / step).floor : Rat) ≤ q / step := (floor_bounds _).1
  rw [roundStep_eq]
  refine mul_le_mul_of_nonneg_right (Int.cast_le.2 ?_) pos.le
  rcases roundUnit_cases mode neg (q / step) with e | ⟨e, broken⟩
  · rw [e]
    exact_mod_cast floor.trans above
  · have : (q / step).floor < k := by exact_mod_cast (lt_of_le_of_ne floor broken.symm).trans_le above
    omega

theorem roundStep_nonneg {mode : Mode} {neg : Bool} {q step : Rat} (pos : 0 < step) (h : 0 ≤ q) :
    0 ≤ roundStep mode neg q step := by
  simpa using le_roundStep (k := 0) (mode := mode) (neg := neg) pos (by simpa using h)

/-! ### Values within a type -/

/-- A value whose magnitude is below the power of two after the type's largest exponent. -/
def FVal.within (t : Ty) : FVal → Prop
  | .fin _ q => 0 ≤ q ∧ q < pow2 (Ty.bias t + 1)
  | _ => True

theorem bias_pos (t : Ty) : 1 ≤ Ty.bias t := by cases t <;> decide

theorem two_bias (t : Ty) : 2 * Ty.bias t + 2 = 2 ^ Ty.ebits t := by cases t <;> decide

theorem width_eq {t : Ty} (h : t.isFloat = true) : t.width = Ty.mbits t + Ty.ebits t + 1 := by
  revert h; cases t <;> decide

/-- The largest finite magnitude is a whole number of steps of every exponent of the type. -/
theorem max_multiple (t : Ty) {k : Int} (h : k ≤ Ty.bias t) :
    ∃ n : Int, (gridOf t).max = n * pow2 (k - Ty.mbits t) := by
  obtain ⟨n, hn⟩ := pow2_multiple (show k - Ty.mbits t ≤ (Ty.bias t : Int) - Ty.mbits t by omega)
  refine ⟨(2 ^ (Ty.mbits t + 1) - 1) * n, ?_⟩
  have max : (gridOf t).max = (2 ^ (Ty.mbits t + 1) - 1) * pow2 ((Ty.bias t : Int) - Ty.mbits t) := by
    have one : pow2 (Ty.mbits t) * pow2 (-(Ty.mbits t : Int)) = 1 := by rw [← pow2_add]; simp [pow2]
    have two : pow2 (Ty.mbits t) = 2 ^ Ty.mbits t := by rw [pow2_natCast]; push_cast; rfl
    rw [sub_eq_add_neg (Ty.bias t : Int), pow2_add, pow_succ, ← two]
    simp only [gridOf]
    linear_combination (-2 * pow2 (Ty.bias t)) * one
  rw [max, hn]
  push_cast
  ring

theorem max_lt (t : Ty) : (gridOf t).max < pow2 (Ty.bias t + 1) := by
  have : 0 < pow2 (Ty.bias t) * pow2 (-(Ty.mbits t : Int)) := mul_pos (pow2_pos _) (pow2_pos _)
  rw [pow2_add, show pow2 1 = 2 by simp [pow2]]
  simp only [gridOf]
  linarith

theorem pow2_emin_le_max (t : Ty) : pow2 (gridOf t).emin ≤ (gridOf t).max := by
  have bias := bias_pos t
  have low : pow2 (gridOf t).emin ≤ pow2 (Ty.bias t) := pow2_le_pow2 (by simp only [gridOf]; omega)
  have small : pow2 (-(Ty.mbits t : Int)) ≤ 1 := by
    simpa [pow2] using pow2_le_pow2 (show -(Ty.mbits t : Int) ≤ 0 by omega)
  have := pow2_pos (Ty.bias t)
  simp only [gridOf] at *
  nlinarith

/-- A magnitude below the smallest normal one, if its rounding with unbounded exponents is (R106 step 3). -/
theorem lt_emin_of_roundFree_lt {p : Nat} {mode : Mode} {neg : Bool} {q : Rat} {e : Int} (hp : 1 ≤ p) (hq : 0 < q)
    (h : roundFree p mode neg q < pow2 e) : q < pow2 e := by
  obtain ⟨k, hk⟩ := pow2_multiple (show ilog2 q - ((p : Int) - 1) ≤ ilog2 q by omega)
  have below : pow2 (ilog2 q) ≤ roundFree p mode neg q := by
    rw [roundFree, if_neg hq.ne', hk]
    exact le_roundStep (pow2_pos _) (hk ▸ (ilog2_bounds hq).1)
  have : ilog2 q < e := lt_of_pow2_lt (below.trans_lt h)
  exact (ilog2_bounds hq).2.trans_le (pow2_le_pow2 (by omega))

/-- The magnitudes that R106 and R107 give on a grid with exponents: zero, one drawn by SR, one of full precision, or a
subnormal one. -/
theorem roundMag_cases {g : Grid} {flush : Bool} {mode : Mode} {neg : Bool} {q r : Rat} {f : FlagBits}
    (hg : g.fixed = false) (h : roundMag g flush mode neg q = .mag r f) :
    r = 0 ∨ q ≤ g.max ∧ r = roundStep mode neg q (pow2 (max (ilog2 q) g.emin - (g.p - 1))) ∨
      r = roundFree g.p mode neg q ∧ r ≤ g.max ∨
      roundFree g.p mode neg q < pow2 g.emin ∧ r = roundStep mode neg q (pow2 (g.emin - (g.p - 1))) := by
  unfold roundMag at h
  simp only [hg, Bool.false_eq_true, if_false] at h
  split at h
  · exact .inl (Rounded.mag.inj h).1.symm
  split at h
  · split at h
    · cases h
    next fits =>
      obtain ⟨value, -⟩ := Rounded.mag.inj h
      split at value
      · exact .inl value.symm
      · exact .inr (.inl ⟨not_lt.1 fits, value.symm⟩)
  · split at h
    · cases h
    next fits =>
      split at h
      next small =>
        split at h
        · exact .inl (Rounded.mag.inj h).1.symm
        · exact .inr (.inr (.inr ⟨small, (Rounded.mag.inj h).1.symm⟩))
      next =>
        obtain ⟨rfl, -⟩ := Rounded.mag.inj h
        exact .inr (.inr (.inl ⟨rfl, not_lt.1 fits⟩))

/-- A magnitude that a rounding into an IEEE type gives is at most the largest finite one. -/
theorem roundMag_le_max {t : Ty} {flush : Bool} {mode : Mode} {neg : Bool} {q r : Rat} {f : FlagBits} (hq : 0 ≤ q)
    (h : roundMag (gridOf t) flush mode neg q = .mag r f) : 0 ≤ r ∧ r ≤ (gridOf t).max := by
  have bias := bias_pos t
  have prec : ((gridOf t).p : Int) - 1 = Ty.mbits t := by simp [gridOf]
  have emin : (gridOf t).emin = 1 - (Ty.bias t : Int) := rfl
  rcases hq.eq_or_lt with rfl | pos
  · obtain ⟨rfl, -⟩ := Rounded.mag.inj ((if_pos rfl).symm.trans h)
    exact ⟨le_rfl, (pow2_pos _).le.trans (pow2_emin_le_max t)⟩
  rcases roundMag_cases rfl h with rfl | ⟨fits, rfl⟩ | ⟨rfl, fits⟩ | ⟨small, rfl⟩
  · exact ⟨le_rfl, (pow2_pos _).le.trans (pow2_emin_le_max t)⟩
  · have exponent : ilog2 q ≤ Ty.bias t := Int.lt_add_one_iff.1 (ilog2_lt pos (fits.trans_lt (max_lt t)))
    obtain ⟨n, hn⟩ := max_multiple t (k := max (ilog2 q) (gridOf t).emin) (max_le exponent (by omega))
    rw [prec]
    exact ⟨roundStep_nonneg (pow2_pos _) hq, hn ▸ roundStep_le (pow2_pos _) (hn ▸ fits)⟩
  · refine ⟨?_, fits⟩
    rw [roundFree, if_neg pos.ne']
    exact roundStep_nonneg (pow2_pos _) hq
  · obtain ⟨k, hk⟩ := pow2_multiple (show (gridOf t).emin - ((gridOf t).p - 1) ≤ (gridOf t).emin by omega)
    refine ⟨roundStep_nonneg (pow2_pos _) hq, le_trans ?_ (pow2_emin_le_max t)⟩
    rw [hk]
    exact roundStep_le (pow2_pos _) (hk ▸ (lt_emin_of_roundFree_lt (by simp [gridOf]) pos small).le)

theorem within_roundTo (t : Ty) (flush : Bool) (mode : Mode) (neg : Bool) {q : Rat} (h : 0 ≤ q) :
    (roundTo t flush mode neg q).1.within t := by
  have top : (0 : Rat) ≤ (gridOf t).max := (pow2_pos _).le.trans (pow2_emin_le_max t)
  unfold roundTo
  split
  · split
    · exact ⟨top, max_lt t⟩
    · trivial
  next e =>
    obtain ⟨nonneg, le⟩ := roundMag_le_max h e
    exact ⟨nonneg, le.trans_lt (max_lt t)⟩

theorem within_zero (t : Ty) (neg : Bool) : (FVal.fin neg 0).within t := ⟨le_rfl, pow2_pos _⟩

theorem within_finish (t : Ty) (flush : Bool) (mode : Mode) (x : Exact) : (finish t flush mode x).1.within t := by
  cases x with
  | real r z =>
    unfold finish roundRat
    simp only
    split
    · exact within_zero t z
    · exact within_roundTo _ _ _ _ (abs_nonneg r)
  | _ => trivial

theorem within_floatToFloat (t : Ty) (flush : Bool) (mode : Mode) {x : FVal} (h : ∀ n q, x = .fin n q → 0 ≤ q) :
    (floatToFloat t flush mode x).1.within t := by
  cases x with
  | fin n q => exact within_roundTo _ _ _ _ (h n q rfl)
  | _ => trivial

/-! ### Sources (R103, R149) -/

theorem within_decodeF (t : Ty) (bits : W64) : (decodeF t bits).within t := by
  have bias := bias_pos t
  have two := two_bias t
  have fraction : bits.toNat % 2 ^ Ty.mbits t < 2 ^ Ty.mbits t := Nat.mod_lt _ (Nat.two_pow_pos _)
  have exponent : bits.toNat / 2 ^ Ty.mbits t % 2 ^ Ty.ebits t < 2 ^ Ty.ebits t := Nat.mod_lt _ (Nat.two_pow_pos _)
  unfold decodeF
  simp only
  generalize bits.toNat % 2 ^ Ty.mbits t = f at fraction
  generalize bits.toNat / 2 ^ Ty.mbits t % 2 ^ Ty.ebits t = x at exponent
  split
  · split <;> trivial
  split
  next =>
    refine ⟨mul_nonneg (Nat.cast_nonneg _) (pow2_pos _).le, ?_⟩
    calc (f : Rat) * pow2 (1 - Ty.bias t - Ty.mbits t)
      _ < pow2 (Ty.mbits t) * pow2 (1 - Ty.bias t - Ty.mbits t) :=
        mul_lt_mul_of_pos_right (pow2_natCast _ ▸ Nat.cast_lt.2 fraction) (pow2_pos _)
      _ = pow2 (1 - Ty.bias t) := by rw [← pow2_add]; congr 1; ring
      _ ≤ _ := pow2_le_pow2 (by omega)
  next top _ =>
    refine ⟨mul_nonneg (Nat.cast_nonneg _) (pow2_pos _).le, ?_⟩
    calc ((2 ^ Ty.mbits t + f : Nat) : Rat) * pow2 (x - Ty.bias t - Ty.mbits t)
      _ < pow2 (Ty.mbits t + 1 : Nat) * pow2 (x - Ty.bias t - Ty.mbits t) :=
        mul_lt_mul_of_pos_right (pow2_natCast _ ▸ Nat.cast_lt.2 (by omega)) (pow2_pos _)
      _ = pow2 (x - Ty.bias t + 1) := by rw [← pow2_add]; congr 1; push_cast; ring
      _ ≤ _ := pow2_le_pow2 (by omega)

theorem within_flushIn {t : Ty} {x : FVal} (flush : Bool) (h : x.within t) : (flushIn t flush x).within t := by
  cases x with
  | fin n q =>
    unfold flushIn
    simp only
    split
    · exact within_zero t n
    · exact h
  | _ => trivial

theorem within_abs {t : Ty} {x : FVal} (h : x.within t) : x.abs.within t := by cases x <;> exact h

theorem within_negate {t : Ty} {x : FVal} (h : x.within t) : x.negate.within t := by cases x <;> exact h

theorem within_srcF (s : State) (t : Ty) (l : Lane) (r : VReg) (n a : Bool) : (s.srcF t l r n a).within t := by
  have read := within_flushIn (flushes s.cw.fpctl t) (within_decodeF t (l.rdTy t r.toNat))
  unfold State.srcF
  cases a <;> cases n
  · exact read
  · exact within_negate read
  · exact within_abs read
  · exact within_negate (within_abs read)

theorem within_minMaxF {t : Ty} {a b : FVal} (isMax : Bool) (ha : a.within t) (hb : b.within t) :
    (minMaxF isMax a b).1.within t := by
  unfold minMaxF
  simp only
  split
  · trivial
  split
  · exact hb
  split
  · exact ha
  show (if lessF a b != isMax then a else b).within t
  split
  · exact ha
  · exact hb

/-! ### Bits (R102) -/

theorem canonNan_lt {t : Ty} (h : t.isFloat = true) : (canonNan t).toNat < 2 ^ t.width := by
  revert h; cases t <;> decide

theorem significand_lt {q : Rat} {ex : Int} (m : Nat) (pos : 0 < q) (h : ilog2 q ≤ ex) :
    (q / pow2 (ex - m)).floor.natAbs < 2 * 2 ^ m := by
  have below : q / pow2 (ex - m) < ((2 * 2 ^ m : Nat) : Rat) := by
    rw [div_lt_iff₀ (pow2_pos _), ← pow_succ', ← pow2_natCast, ← pow2_add]
    exact (ilog2_bounds pos).2.trans_le (pow2_le_pow2 (by push_cast; omega))
  have nonneg : 0 ≤ (q / pow2 (ex - m)).floor := Int.floor_nonneg.2 (div_pos pos (pow2_pos _)).le
  have : (q / pow2 (ex - m)).floor < (2 * 2 ^ m : Nat) := by exact_mod_cast (floor_bounds _).1.trans_lt below
  omega

/-- A sign, an exponent and a fraction fill no more than the width of a type. -/
theorem fields_lt {t : Ty} (ht : t.isFloat = true) (n : Bool) {e f : Nat} (he : e < 2 ^ Ty.ebits t)
    (hf : f < 2 ^ Ty.mbits t) :
    (BitVec.ofNat 64 ((if n then 2 ^ (Ty.mbits t + Ty.ebits t) else 0) + e * 2 ^ Ty.mbits t + f)).toNat <
      2 ^ t.width := by
  have sign : (if n then 2 ^ (Ty.mbits t + Ty.ebits t) else 0) ≤ 2 ^ Ty.ebits t * 2 ^ Ty.mbits t := by
    rw [pow_add, mul_comm]; split <;> simp
  have size : 2 ^ t.width = 2 * (2 ^ Ty.ebits t * 2 ^ Ty.mbits t) := by
    rw [width_eq ht, pow_succ, pow_add]; ring
  have last : (e + 1) * 2 ^ Ty.mbits t ≤ 2 ^ Ty.ebits t * 2 ^ Ty.mbits t := Nat.mul_le_mul_right _ he
  rw [add_mul, one_mul] at last
  exact (Nat.mod_le _ _).trans_lt (by omega)

/-- The bits of a value within a type are those of a string of its width. -/
theorem encodeF_lt {t : Ty} {x : FVal} (ht : t.isFloat = true) (h : x.within t) :
    (encodeF t x).toNat < 2 ^ t.width := by
  have bias := bias_pos t
  have two := two_bias t
  have unit := Nat.two_pow_pos (Ty.mbits t)
  unfold encodeF
  cases x with
  | nan _ => exact canonNan_lt ht
  | inf n => simpa using fields_lt ht n (e := 2 ^ Ty.ebits t - 1) (by omega) unit
  | fin n q =>
    obtain ⟨nonneg, below⟩ := h
    simp only
    split
    · simpa using fields_lt ht n (e := 0) (by omega) unit
    next nonzero =>
      have pos : 0 < q := lt_of_le_of_ne nonneg (Ne.symm nonzero)
      have exponent : max (ilog2 q) (gridOf t).emin ≤ Ty.bias t :=
        max_le (Int.lt_add_one_iff.1 (ilog2_lt pos below)) (by simp only [gridOf]; omega)
      have significand := significand_lt (Ty.mbits t) pos (le_max_left (ilog2 q) (gridOf t).emin)
      split
      next subnormal => simpa using fields_lt ht n (e := 0) (by omega) subnormal
      next => exact fields_lt ht n (by omega) (by omega)

end Sys2Proof.Machine

/-!
The shape of a float instruction (R110, R149, R164): its results and flags, or its trap; and O11.
-/

namespace Sys2Proof.Machine

open Safety Claims

/-! ### Results in a register -/

/-- A result as computed is stored as a stated one: the same conditions, and in the register the image of its bits. -/
def Stores (t : Ty) (x y : W64 × FlagBits) : Prop :=
  x.2 = y.2 ∧ (if t.is64 then x.1 else (x.1.setWidth 32).setWidth 64) = image t y.1.toNat

/-- A string of the type's width is its own image, where the type is not signed. -/
theorem image_toNat {t : Ty} {x : W64} (ht : t.isSigned = false) (h : x.toNat < 2 ^ t.width) : image t x.toNat = x := by
  by_cases pair : t.is64
  · simp [image, pair]
  · simp only [image, pair, ht, Bool.false_eq_true, if_false]
    refine BitVec.eq_of_toNat_eq ?_
    simp only [BitVec.ofInt_natCast, BitVec.toNat_ofNat]
    rw [Nat.mod_eq_of_lt h, Nat.mod_eq_of_lt x.isLt]

theorem setWidth_of_lt {t : Ty} {x : W64} (h : x.toNat < 2 ^ t.width) :
    (if t.is64 then x else (x.setWidth 32).setWidth 64) = x := by
  have narrow : t.is64 = true ∨ t.width ≤ 32 := by cases t <;> decide
  split
  · rfl
  next single =>
    have := Nat.pow_le_pow_right (show 0 < 2 by decide) (narrow.resolve_left single)
    refine BitVec.eq_of_toNat_eq ?_
    simp only [BitVec.toNat_setWidth]
    omega

theorem stores_of_lt {t : Ty} {x : W64 × FlagBits} (ht : t.isSigned = false) (h : x.1.toNat < 2 ^ t.width) :
    Stores t x x :=
  ⟨rfl, (setWidth_of_lt h).trans (image_toNat ht h).symm⟩

theorem isSigned_of_isFloat {t : Ty} (h : t.isFloat = true) : t.isSigned = false := by
  revert h; cases t <;> decide

theorem stores_encodeF {t : Ty} {x : FVal} (f : FlagBits) (ht : t.isFloat = true) (h : x.within t) :
    Stores t (encodeF t x, f) (encodeF t x, f) :=
  stores_of_lt (isSigned_of_isFloat ht) (encodeF_lt ht h)

/-- A register, or a pair, takes every bit of a string of its own width. -/
theorem stores_word {t : Ty} (ht : t.isSigned = false) (hw : t.is64 = true ∨ t.width = 32) (x : W64 × FlagBits) :
    Stores t x x := by
  refine ⟨rfl, ?_⟩
  unfold image
  cases pair : t.is64
  · have width : t.width = 32 := hw.resolve_left (by simp [pair])
    refine BitVec.eq_of_toNat_eq ?_
    simp [ht, width]
  · simp

theorem stores_b32 (x : W64 × FlagBits) : Stores .b32 x x := stores_word rfl (.inr rfl) x

/-! ### One float instruction (R110) -/

/-- A welt with flags set in `sr.fpctl` (R110, R111). -/
def Welt.flagged (w : Welt) (fl : FlagBits) : Welt := { w with fpctl := orFlags w.fpctl fl }

/-- The conditions of a float instruction that executes in `e`. -/
def State.conditionsOf (s : State) (e : Lanes) (f : Nat → Lane → W64 × FlagBits) : FlagBits :=
  (Lanes.nats e).foldl (fun acc i => acc ||| (f i (s.cw.lane i)).2) 0

theorem conditionsOf_eq (s : State) (e : Lanes) {f R : Nat → Lane → W64 × FlagBits} (h : ∀ i l, (f i l).2 = (R i l).2) :
    s.conditionsOf e f = conditions s e R := by
  simp only [State.conditionsOf, conditions, h]
  rfl

section
variable {s : State} {p : BitVec 2} {d : Deps} {price : Nat} (len : Nat) {f : Nat → Lane → W64 × FlagBits}
  (wr : Lane → W64 → Lane) (ready : s.issues (s.E p) d price = true)
include ready

theorem floatOp_quiet (quiet : fpTrap s.cw.fpctl (s.conditionsOf (s.E p) f) = none) :
    s.floatOp p d price len f wr = .next (s.retire ((s.cw.mapLanes (s.E p) fun i l => wr l (f i l).1).flagged
      (s.conditionsOf (s.E p) f)) len) := by
  rw [State.floatOp, issue_go _ _ _ _ _ ready]
  simp only [State.conditionsOf] at *
  rw [quiet]
  simp only [Welt.flagged, Welt.mapLanes_fpctl]

theorem floatOp_trap {c : Cause} (trap : fpTrap s.cw.fpctl (s.conditionsOf (s.E p) f) = some c) :
    s.floatOp p d price len f wr = .next ((s.tokensBack price).trapAt c
      (s.E p &&& Lanes.ofPred fun i => (f i s.cw.lanes[i]).2 &&& causeFlag c != 0)) := by
  rw [State.floatOp, issue_go _ _ _ _ _ ready]
  simp only [State.conditionsOf] at *
  rw [trap]

end

theorem lane_flagged (w : Welt) (fl : FlagBits) (i : Nat) : (w.flagged fl).lane i = w.lane i := rfl

theorem effect_flagged {w u : Welt} {e : Lanes} {rs : List Nat} (h : w.Effect u e rs) (fl : FlagBits) :
    w.Effect (u.flagged fl) e rs where
  only := Welt.only_fpctl h.only _
  key := h.key
  kept := h.kept
  full := h.full

/-- A vector effect and flags retire confined to their registers and flags. -/
theorem retire_flagged {s : State} {u : Welt} {e : Lanes} {rs : List Nat} (fl : FlagBits) (len : Nat) (h : issuing s)
    (effect : s.cw.Effect u e rs) (uniform : ∀ r < 64, sameUniform u s.cw r)
    (masks : ∀ r < 16, maskRead s.legacy u r = maskRead s.legacy s.cw r) (flags : u.fpctl = s.cw.fpctl) :
    Confined s (s.retire (u.flagged fl) len) len e rs [] [] fl :=
  retire_confined s (u.flagged fl) len e rs [] [] fl h (effect_flagged effect fl) (fun r hr _ => uniform r hr)
    (fun r hr _ => masks r hr) (by rw [← flags]; rfl)

/-- Typed results in the lanes of `e` and flags: the frame, and what the registers hold. -/
theorem retire_results (s : State) (e : Lanes) (t : Ty) (r : VReg) (f : Nat → Lane → W64) (fl : FlagBits) (len : Nat)
    (h : issuing s) (even : t.is64 = true → r.toNat % 2 = 0) :
    let u := s.retire ((s.cw.mapLanes e fun i l => l.wrTy t r.toNat (f i l)).flagged fl) len
    Confined s u len e (regsOf t r.toNat) [] [] fl ∧ ∀ i < 32, e.getLsbD i → (u.cw.lane i).rdTy t r.toNat =
      if t.is64 then f i (s.cw.lane i) else ((f i (s.cw.lane i)).setWidth 32).setWidth 64 := by
  refine ⟨retire_flagged fl len h (effect_mapLanes_wrTy s.cw e t r.toNat f) (fun q _ => ?_) (fun q _ => ?_) (by simp),
    fun i hi he => ?_⟩
  · exact ⟨by simp [Welt.rdW], by simp [Welt.fullW], by simp⟩
  · simp [maskRead]
  · rw [rdTy_retire _ _ _ h _ hi, lane_flagged, lane_mapLanes _ _ _ _ hi, if_pos he, rdTy_wrTy_of_even _ _ _ _ even]

/-- A float instruction that is ready gives the results that its own are stored as. -/
theorem floatResult_floatOp {s : State} {i : Instr} {p : BitVec 2} {dep : Deps} {price len : Nat} {t : Ty} {d : VReg}
    {f R : Nat → Lane → W64 × FlagBits} (h : issuing s) (ready : s.issues (s.E p) dep price = true)
    (even : t.is64 = true → d.toNat % 2 = 0)
    (run : exec i s = s.floatOp p dep price len f fun l x => l.wrTy t d.toNat x)
    (stores : ∀ k l, Stores t (f k l) (R k l)) : FloatResult s i len (s.E p) t d price R := by
  have flags : s.conditionsOf (s.E p) f = conditions s (s.E p) R := conditionsOf_eq _ _ fun k l => (stores k l).1
  refine ⟨fun quiet => ?_, fun c trap => ?_⟩
  · obtain ⟨confined, value⟩ := retire_results s (s.E p) t d (fun k l => (f k l).1) (conditions s (s.E p) R) len h even
    have quietly := floatOp_quiet len (fun l x => l.wrTy t d.toNat x) ready (flags ▸ quiet)
    rw [flags] at quietly
    refine ⟨_, run.trans quietly, confined, fun l hl he => ?_⟩
    rw [value l hl he, (stores l _).2]
  · refine ⟨_, run.trans (floatOp_trap len _ ready (flags ▸ trap)), fun l hl => ?_⟩
    rw [BitVec.getLsbD_and, ofPred_getLsbD _ _ hl, ← lane_getElem s.cw ⟨l, hl⟩, (stores l _).1]

/-! ### O11 -/

theorem even_of_evenOk {t : Ty} {r : VReg} (h : t.evenOk r = true) (pair : t.is64 = true) : r.toNat % 2 = 0 := by
  simpa [Ty.evenOk, pair] using h

theorem source_eq_srcF (s : State) (t : Ty) (l : Lane) (r : VReg) (n a : Bool) :
    source s t l r n a = s.srcF t l r n a := rfl

/-- A rounded two-source form (R153). -/
theorem floatResult_rounded {s : State} {i : Instr} {d a b : VReg} {ta tb : Bool} {p : BitVec 2} {t : Ty}
    {rm : BitVec 3} {na aa nb ab : Bool} {price len : Nat} (x : Mode → FVal → FVal → Exact) (h : issuing s)
    (ready : s.issues (s.E p) (deps2 t d a b ta tb) price = true) (ht : t.isFloat = true) (even : t.evenOk d = true)
    (run : exec i s = s.float2 d a b ta tb p t na aa nb ab price len fun v w => s.roundF t rm fun m => x m v w) :
    FloatResult s i len (s.E p) t d price fun _ l => rounded s t rm fun m =>
      x m (source s t l a na aa) (source s t l b nb ab) :=
  floatResult_floatOp h ready (even_of_evenOk even) run fun _ _ => stores_encodeF _ ht (within_finish ..)

/-- A two-source form that chooses one of its sources (R154). -/
theorem floatResult_minMax {s : State} {i : Instr} {d a b : VReg} {ta tb : Bool} {p : BitVec 2} {t : Ty}
    {na aa nb ab : Bool} {price len : Nat} (isMax : Bool) (h : issuing s)
    (ready : s.issues (s.E p) (deps2 t d a b ta tb) price = true) (ht : t.isFloat = true) (even : t.evenOk d = true)
    (run : exec i s = s.float2 d a b ta tb p t na aa nb ab price len fun v w => bitsF t (minMaxF isMax v w)) :
    FloatResult s i len (s.E p) t d price fun _ l =>
      asBits t (minMaxF isMax (source s t l a na aa) (source s t l b nb ab)) :=
  floatResult_floatOp h ready (even_of_evenOk even) run fun _ _ =>
    stores_encodeF _ ht (within_minMaxF isMax (within_srcF ..) (within_srcF ..))

/-- Settles O11: each form is a two-source float instruction, rounded or choosing one of its sources. -/
theorem floatTwoSource : Obligations.FloatTwoSource := by
  intro s d a b ta tb na aa nb ab p ty rm h add sub
  refine ⟨fun q hq ready => ?_, fun q hq wf ready => ?_⟩
  · simp only [List.mem_cons, List.not_mem_nil, or_false] at hq
    rcases hq with rfl | rfl | rfl | rfl | rfl | rfl
    · exact floatResult_rounded add h ready rfl rfl (exec_fadd ..)
    · exact floatResult_rounded sub h ready rfl rfl (exec_fsub ..)
    · exact floatResult_rounded (fun _ => mulExact) h ready rfl rfl (exec_fmul ..)
    · exact floatResult_rounded (fun _ => divExact) h ready rfl rfl (exec_fdiv ..)
    · exact floatResult_minMax false h ready rfl rfl (exec_fmin ..)
    · exact floatResult_minMax true h ready rfl rfl (exec_fmax ..)
  · simp only [List.mem_cons, List.not_mem_nil, or_false] at hq
    obtain ⟨ht, even⟩ : ty.isFloat = true ∧ ty.evenOk d = true := by
      rcases hq with rfl | rfl | rfl | rfl | rfl | rfl <;>
        simp only [Instr.wellFormed, Bool.and_eq_true] at wf <;> tauto
    rcases hq with rfl | rfl | rfl | rfl | rfl | rfl
    · exact floatResult_rounded add h ready ht even (exec_faddX ..)
    · exact floatResult_rounded sub h ready ht even (exec_fsubX ..)
    · exact floatResult_rounded (fun _ => mulExact) h ready ht even (exec_fmulX ..)
    · exact floatResult_rounded (fun _ => divExact) h ready ht even (exec_fdivX ..)
    · exact floatResult_minMax false h ready ht even (exec_fminX ..)
    · exact floatResult_minMax true h ready ht even (exec_fmaxX ..)

end Sys2Proof.Machine

/-!
CVT between the float and integer types (R158, R159), and O16.
-/

namespace Sys2Proof.Machine

open Safety Claims

/-! ### Integers as sources and results (R100, R101) -/

theorem width_le (t : Ty) : t.width ≤ 64 := by cases t <;> decide

theorem intOf_eq_num (t : Ty) (x : W64) : intOf t x = num t x := by
  cases signed : t.isSigned
  · simp [intOf, num, signed]
  · rw [num_of_signed x signed, intOf, if_pos signed]

theorem clamp_eq (t : Ty) (z : Int) : clamp t z = max (intMin t) (min (intMax t) z) := by
  unfold clamp intMin intMax
  split <;> rw [min_comm]

theorem clamp_ends (t : Ty) : clamp t (-2 ^ 64) = intMin t ∧ clamp t (2 ^ 64) = intMax t := by
  cases t <;> decide

theorem intMin_le_intMax (t : Ty) : intMin t ≤ intMax t := by cases t <;> decide

theorem setWidth_ofInt {w : Nat} (h : w ≤ 64) (z : Int) : (BitVec.ofInt 64 z).setWidth w = BitVec.ofInt w z := by
  have wide : ((2 ^ w : Nat) : Int) ∣ (2 ^ 64 : Nat) := Int.natCast_dvd_natCast.2 (Nat.pow_dvd_pow 2 h)
  refine BitVec.eq_of_toNat_eq (Int.ofNat_inj.1 ?_)
  rw [BitVec.toNat_setWidth, Int.natCast_mod, BitVec.toNat_ofInt, BitVec.toNat_ofInt,
    Int.toNat_of_nonneg (Int.emod_nonneg _ (by decide)), Int.emod_emod_of_dvd _ wide,
    Int.toNat_of_nonneg (Int.emod_nonneg _ (by positivity))]

/-- A string and the number that it holds have one image. -/
theorem image_num (t : Ty) (x : W64) : image t (num t x) = image t x.toNat := by
  have low : BitVec.ofInt t.width (num t x) = BitVec.ofInt t.width x.toNat := by
    rw [ofInt_num, BitVec.ofInt_natCast, BitVec.ofNat_toNat]
  unfold image
  cases pair : t.is64
  · rw [low]
    rfl
  · have width : t.width = 64 := by revert pair; cases t <;> decide
    rw [width] at low
    exact low

/-- A wrapped number is stored as the number itself (R100). -/
theorem stores_wrapTo (t : Ty) (z : Int) (f : FlagBits) : Stores t (wrapTo t z, f) (BitVec.ofInt 64 z, f) := by
  have loaded : wrapTo t z = loadImage t (BitVec.ofInt 64 z) := by
    rw [loadImage, imageOf, setWidth_ofInt (width_le t)]
    rfl
  exact ⟨rfl, (loaded ▸ loadImage_read t (BitVec.ofInt 64 z)).trans (image_num ..)⟩

theorem stores_zero (t : Ty) (f : FlagBits) : Stores t (0, f) (0, f) := ⟨rfl, by cases t <;> rfl⟩

/-! ### Conversions -/

theorem roundRat_intCast (t : Ty) (flush : Bool) (mode : Mode) (z : Int) : roundRat t flush mode false z =
    if z = 0 then (.fin false 0, 0) else roundTo t flush mode (decide (z < 0)) |(z : Rat)| := by
  simp [roundRat]

/-- A number that a clamp changes is below the least or above the greatest of the type. -/
theorem clamp_cases (t : Ty) (z : Int) : z < intMin t ∧ clamp t z = intMin t ∧ clamp t z ≠ z ∨
    intMax t < z ∧ ¬z < intMin t ∧ clamp t z = intMax t ∧ clamp t z ≠ z ∨
    ¬z < intMin t ∧ ¬intMax t < z ∧ clamp t z = z := by
  have order := intMin_le_intMax t
  rw [clamp_eq]
  generalize intMin t = lo at *
  generalize intMax t = hi at *
  omega

/-- A whole number as a result of integer type: clamped with NV out of range, and NX where it is not the exact value. -/
theorem stores_clamped (t : Ty) (n : Bool) (q : Rat) (m : Int) : Stores t
    (let z : Int := if n then -m else m
      if z < intMin t then (wrapTo t (intMin t), fNV)
      else if intMax t < z then (wrapTo t (intMax t), fNV)
      else (wrapTo t z, flagIf (decide ((z : Rat) ≠ (if n then -q else q))) fNX))
    (let z : Int := if n then -m else m
      if clamp t z ≠ z then (BitVec.ofInt 64 (clamp t z), fNV)
      else (BitVec.ofInt 64 z, if (m : Rat) = q then 0 else fNX)) := by
  have inexact : flagIf (decide (((if n then -m else m : Int) : Rat) ≠ if n then -q else q)) fNX =
      if (m : Rat) = q then 0 else fNX := by
    cases n <;> by_cases e : (m : Rat) = q <;> simp [flagIf, e]
  simp only [inexact]
  generalize (if n then -m else m : Int) = z
  rcases clamp_cases t z with ⟨low, value, out⟩ | ⟨high, low, value, out⟩ | ⟨low, high, value⟩
  · rw [if_pos low, if_pos out, value]
    exact stores_wrapTo t (intMin t) fNV
  · rw [if_neg low, if_pos high, if_pos out, value]
    exact stores_wrapTo t (intMax t) fNV
  · rw [if_neg low, if_neg high, if_neg (not_not.2 value)]
    exact stores_wrapTo t z _

/-- What CVT computes in a lane under a rounding mode (R159). -/
def State.converted (s : State) (dty sty : Ty) (m : Mode) (a : VReg) (l : Lane) : W64 × FlagBits :=
  if !sty.isFloat then bitsF dty (roundRat dty (flushes s.cw.fpctl dty) m false (intOf sty (l.rdTy sty a.toNat)))
  else if dty.isFloat then s.toType dty m (some (s.srcF sty l a false false))
  else floatToInt dty m (s.srcF sty l a false false)

theorem exec_cvt_eq_floatOp (s : State) (d a c : VReg) (ta tc : Bool) (p : BitVec 2) (dty sty : Ty) (rm : BitVec 3)
    (salt : BitVec 8) : exec (.cvt d a ta p c tc dty rm sty salt) s =
      s.floatOp p (if rm = 4 then ((({} : Deps).src ta (regsOf sty a.toNat)).dst (regsOf dty d.toNat)).src tc [c.toNat]
        else (({} : Deps).src ta (regsOf sty a.toNat)).dst (regsOf dty d.toNat)) 0 2
        (fun _ l => s.converted dty sty (s.modeFor rm ((l.rd c.toNat).setWidth 64) salt) a l)
        fun l x => l.wrTy dty d.toNat x :=
  exec_cvt ..

/-- The mode of a conversion, with the draw of SR under the launch's own seed (R107; log 37). -/
theorem modeFor_eq (s : State) (rm : BitVec 3) (i : W64) (salt : BitVec 8) : s.modeFor rm i salt =
    if rm = 4 then srDraw (s.cl.seed.getLastD 0) i (salt.setWidth 32) else modeOf s.cw.fpctl rm := rfl

/-- Settles O16: by the types of source and destination, and by the kind of a float source. -/
theorem conversionsBetweenTypes : Obligations.ConversionsBetweenTypes := by
  intro s d a c ta tc p dty sty rm salt h wf dep ready
  simp only [Instr.wellFormed, Bool.and_eq_true, Bool.or_eq_true] at wf
  obtain ⟨⟨⟨⟨⟨⟨dcvt, scvt⟩, float⟩, even⟩, -⟩, -⟩, -⟩ := wf
  refine floatResult_floatOp h ready (even_of_evenOk even) (exec_cvt_eq_floatOp ..) fun k l => ?_
  rw [← modeFor_eq, source_eq_srcF, State.converted]
  cases hs : sty.isFloat
  · have ht : dty.isFloat = true := by simpa [hs] using float
    simp only [Bool.not_false, if_true, intOf_eq_num, roundRat_intCast]
    refine stores_encodeF _ ht ?_
    split
    · exact within_zero ..
    · exact within_roundTo _ _ _ _ (abs_nonneg _)
  simp only [Bool.not_true, Bool.false_eq_true, Bool.true_eq_false, if_false]
  have within := within_srcF s sty l a false false
  generalize s.srcF sty l a false false = x at within
  cases ht : dty.isFloat
  · simp only [Bool.false_eq_true, if_false]
    cases x with
    | nan _ => exact stores_zero ..
    | inf n =>
      obtain ⟨low, high⟩ := clamp_ends dty
      rw [low, high]
      exact stores_wrapTo ..
    | fin n q => exact stores_clamped ..
  · simp only [if_true]
    cases x with
    | nan _ => exact stores_encodeF _ ht trivial
    | inf _ => exact stores_encodeF _ ht trivial
    | fin n q => exact stores_encodeF _ ht (within_roundTo _ _ _ _ within.1)

end Sys2Proof.Machine

/-!
The narrow conversions (R114-R121, R161-R163): what a descriptor lets run, and O17.
-/

namespace Sys2Proof.Machine

open Safety Claims

/-! ### Under a descriptor (R115) -/

theorem issues_iff (s : State) (e : Lanes) (d : Deps) (price : Nat) : s.issues e d price = true ↔
    s.cw.readiness e d = .go ∧ s.cw.badSources e d = 0 ∧ price ≤ s.cw.spent := by
  simp only [State.issues, Bool.and_eq_true, beq_iff_eq, decide_eq_true_eq, and_assoc]

section
variable {s : State} {p : BitVec 2} {b : WReg} {ta : Bool} {d : Deps} (wr : Lane → W64 → Lane)
  (f : Narrow → W32 → Nat → Lane → W64 × FlagBits) (full : s.cw.fullW b.toNat = true)
  (ready : s.issues (s.E p) (d.wsrc ta b.toNat) 0 = true)
include full ready

/-- A ready instruction with a descriptor that R115 accepts is a float instruction of two words. -/
theorem narrowOp_accepted (ok : narrowOk ((s.cw.rdW b.toNat).setWidth 32) = true) : s.narrowOp p b ta d wr f =
    s.floatOp p (d.wsrc ta b.toNat) 0 2
      (f (narrowOf ((s.cw.rdW b.toNat).setWidth 32)) ((s.cw.rdW b.toNat).extractLsb' 32 32)) wr := by
  obtain ⟨go, sound, -⟩ := (issues_iff ..).1 ready
  simp [State.narrowOp, go, sound, full, ok]

theorem narrowOp_refused (bad : narrowOk ((s.cw.rdW b.toNat).setWidth 32) = false) :
    s.narrowOp p b ta d wr f = .next s.illegal := by
  obtain ⟨go, sound, -⟩ := (issues_iff ..).1 ready
  simp [State.narrowOp, go, sound, full, bad]

end

/-- A narrow conversion that is ready: its results under a descriptor that R115 accepts, ILLEGAL under another. -/
theorem narrow_result {s : State} {i : Instr} {p : BitVec 2} {b : WReg} {ta : Bool} {dep : Deps} {t : Ty} {d : VReg}
    {f : Narrow → W32 → Nat → Lane → W64 × FlagBits} {R : Nat → Lane → W64 × FlagBits} (h : issuing s)
    (full : s.cw.fullW b.toNat = true) (ready : s.issues (s.E p) (dep.wsrc ta b.toNat) 0 = true)
    (even : t.evenOk d = true) (run : exec i s = s.narrowOp p b ta dep (fun l x => l.wrTy t d.toNat x) f)
    (stores : ∀ k l, Stores t (f (narrowOf ((s.cw.rdW b.toNat).setWidth 32)) ((s.cw.rdW b.toNat).extractLsb' 32 32) k l)
      (R k l)) :
    (narrowOk ((s.cw.rdW b.toNat).setWidth 32) = true → FloatResult s i 2 (s.E p) t d 0 R) ∧
      (narrowOk ((s.cw.rdW b.toNat).setWidth 32) = false → exec i s = .next s.illegal) :=
  ⟨fun ok => floatResult_floatOp h ready (even_of_evenOk even) (run.trans (narrowOp_accepted _ _ full ready ok)) stores,
    fun bad => run.trans (narrowOp_refused _ _ full ready bad)⟩

/-! ### Magnitudes of codes and scales (R116, R119) -/

/-- A value whose magnitude is no less than 0. -/
def FVal.proper (x : FVal) : Prop := ∀ n q, x = .fin n q → 0 ≤ q

theorem proper_of_nonneg {n : Bool} {q : Rat} (h : 0 ≤ q) : (FVal.fin n q).proper := by
  rintro _ _ ⟨⟩
  exact h

theorem scaled_pow2_nonneg (n : Nat) (e : Int) : (0 : Rat) ≤ n * pow2 e :=
  mul_nonneg (Nat.cast_nonneg _) (pow2_pos _).le

theorem proper_decode (n : Narrow) (code : Nat) : (n.decode code).proper := by
  unfold Narrow.decode
  simp only
  split
  · split
    · nofun
    · exact proper_of_nonneg (scaled_pow2_nonneg ..)
  split
  · split <;> nofun
  split
  · nofun
  split
  · split
    · exact proper_of_nonneg (scaled_pow2_nonneg ..)
    · exact proper_of_nonneg le_rfl
  · exact proper_of_nonneg (scaled_pow2_nonneg ..)

theorem s20_nonneg {x : Nat} {k : Rat} (h : s20 x = some k) : 0 ≤ k := by
  unfold s20 at h
  simp only at h
  split at h
  · cases h
  split at h <;> exact Option.some.inj h ▸ scaled_pow2_nonneg ..

theorem proper_scaled {x y : FVal} {sc : Option Rat} (hx : x.proper) (hs : ∀ k, sc = some k → 0 ≤ k)
    (h : scaled x sc = some y) : y.proper := by
  cases sc with
  | none => exact Option.some.inj h ▸ nofun
  | some k => cases x with
    | nan _ => exact Option.some.inj h ▸ nofun
    | inf n =>
      simp only [scaled] at h
      split at h
      · cases h
      · exact Option.some.inj h ▸ nofun
    | fin n q => exact Option.some.inj h ▸ proper_of_nonneg (mul_nonneg (hx n q rfl) (hs k rfl))

/-- An exact input of a conversion, or the invalid case, rounded into an IEEE type. -/
theorem stores_toType (s : State) {t : Ty} (m : Mode) {x : Option FVal} (ht : t.isFloat = true)
    (hx : ∀ v, x = some v → v.proper) : Stores t (s.toType t m x) (s.toType t m x) := by
  cases x with
  | none => exact stores_of_lt (isSigned_of_isFloat ht) (canonNan_lt ht)
  | some v => exact stores_encodeF _ ht (within_floatToFloat _ _ _ (hx v rfl))

/-! ### O17 -/

/-- Settles O17: the forms into a narrow format write any bits of one register, those out of one keep to their type. -/
theorem narrowConversions : Obligations.NarrowConversions := by
  intro s d a c b ta tc p ty rm salt h full desc n index mode scale into outOf q hq wf ready
  simp only [List.mem_cons, List.not_mem_nil, or_false] at hq
  rcases hq with rfl | rfl | rfl | rfl | rfl
  · exact narrow_result h full ready rfl (exec_cvtn ..) fun _ _ => stores_b32 _
  · simp only [Instr.wellFormed, Bool.and_eq_true] at wf
    obtain ⟨⟨⟨float, even⟩, -⟩, -⟩ := wf
    refine narrow_result h full ready even (exec_cvtnFrom ..) fun _ l => stores_toType s _ float fun v decoded => ?_
    exact Option.some.inj decoded ▸ proper_decode _ _
  · exact narrow_result h full ready rfl (exec_bscale ..) fun _ _ => stores_b32 _
  · exact narrow_result h full ready rfl (exec_qnt ..) fun _ _ => stores_b32 _
  · simp only [Instr.wellFormed, Bool.and_eq_true] at wf
    obtain ⟨⟨⟨float, even⟩, -⟩, -⟩ := wf
    exact narrow_result h full ready even (exec_dqnt ..) fun _ l => stores_toType s _ float fun v =>
      proper_scaled (proper_decode _ _) fun _ => s20_nonneg

end Sys2Proof.Machine

/-!
Completing a collective (R30, R137, R139): its results or its trap; FOLD and SCAN of floats (R122, R142), and O9.
-/

namespace Sys2Proof.Machine

open Safety Claims

/-! ### The last arrival (R30, R137) -/

/-- The welt whose members `P` are released from the collective where it stands. -/
def Welt.freed (w : Welt) (P : Lanes) : Welt := { (w.hold P false) with colls := w.otherColls }

theorem lanes_freed (w : Welt) (P : Lanes) : (w.freed P).lanes = (w.hold P false).lanes := rfl

theorem lane_freed (w : Welt) (P : Lanes) {l : Nat} (h : l < 32) :
    (w.freed P).lane l = if P.getLsbD l then { w.lane l with h := false } else w.lane l := by
  rw [lane_congr (lanes_freed w P), lane_hold w P false h]

theorem fpctl_freed (w : Welt) (P : Lanes) : (w.freed P).fpctl = w.fpctl := by simp [Welt.freed, Welt.hold]

/-- What a completed collective leaves: its results, or its trap, precise at the collective and naming all members. -/
def State.collAnswer (s : State) (P : Lanes) (len : Nat) : Except Cause Welt → State
  | .error c => (s.setCw (s.cw.freed P)).raise { cause := c, lanes := P, pc := s.cw.pc, depth := some s.cw.lead.depth }
  | .ok w => s.retireWith (w.advance (P ||| s.cw.A) len)

section
variable {s : State} {e : Lanes} {mem : MReg} (done : completes s e mem)
include done

/-- When every member has arrived and none has exited, the members are released to the results or the trap. -/
theorem collective_completes (len : Nat) (fin : Lanes → Welt → Except Cause Welt) :
    s.collective e (maskRead s.legacy s.cw mem.toNat) len fin =
      s.collAnswer (members s e mem) len (fin (members s e mem) (s.cw.freed (members s e mem))) := by
  obtain ⟨executes, present⟩ := done
  have unexited : members s e mem &&& s.cw.exited = 0 := (lanes_eq_zero_iff _).2 fun l hl => by
    rw [BitVec.getLsbD_and, exited_getLsbD _ hl]
    cases member : (members s e mem).getLsbD l
    · rfl
    · exact (present l hl member).1
  have missing : members s e mem &&& ~~~arrived s e = 0 := (lanes_eq_zero_iff _).2 fun l hl => by
    rw [BitVec.getLsbD_and, BitVec.getLsbD_not]
    cases member : (members s e mem).getLsbD l
    · rfl
    · simp [(present l hl member).2]
  have all : arrived s e &&& members s e mem = members s e mem := BitVec.eq_of_getLsbD_eq fun l hl => by
    rw [BitVec.getLsbD_and]
    cases member : (members s e mem).getLsbD l
    · exact Bool.and_false _
    · rw [(present l hl member).2]
      rfl
  have answer : s.collective e (maskRead s.legacy s.cw mem.toNat) len fin = match fin (members s e mem)
      (s.cw.freed (arrived s e &&& members s e mem)) with
    | .error c => (s.setCw (s.cw.freed (arrived s e &&& members s e mem))).raise
        { cause := c, lanes := members s e mem, pc := s.cw.pc, depth := some s.cw.lead.depth }
    | .ok w => s.retireWith (w.advance (members s e mem ||| s.cw.A) len) :=
    (if_neg executes).trans ((if_neg (not_not.2 unexited)).trans (if_pos missing))
  rw [answer, all]
  rfl

end

/-! ### Results of the members (R139) -/

/-- The welt with a value of type `t` in register `r` of each member and flags set, the members and the lanes of `a`
moved on. -/
def Welt.finishColl (w : Welt) (P a : Lanes) (len : Nat) (t : Ty) (r : Nat) (v : Nat → W64) (fl : FlagBits) : Welt :=
  (((w.freed P).mapLanes P fun i l => l.wrTy t r (v i)).flagged fl).advance (P ||| a) len

section
variable (w : Welt) (P a : Lanes) (len : Nat) (t : Ty) (r : Nat) (v : Nat → W64) (fl : FlagBits)

theorem lane_finishColl {l : Nat} (h : l < 32) : (w.finishColl P a len t r v fl).lane l =
    let k := if P.getLsbD l then ({ w.lane l with h := false } : Lane).wrTy t r (v l) else w.lane l
    if (P ||| a).getLsbD l then { k with pc := k.pc + BitVec.ofNat 48 (4 * len), pos := k.pos.next } else k := by
  rw [Welt.finishColl, lane_advance _ _ _ h, lane_flagged, lane_mapLanes _ _ _ _ h, lane_freed _ _ h]
  cases P.getLsbD l <;> rfl

theorem key_finishColl {l : Nat} (h : l < 32) : let k := (w.finishColl P a len t r v fl).lane l
    k.pc = (if (P ||| a).getLsbD l then (w.lane l).pc + BitVec.ofNat 48 (4 * len) else (w.lane l).pc) ∧
      k.h = (if P.getLsbD l then false else (w.lane l).h) ∧
      k.depth = (w.lane l).depth ∧ k.x = (w.lane l).x ∧ k.seg = (w.lane l).seg := by
  rw [lane_finishColl _ _ _ _ _ _ _ _ h]
  cases P.getLsbD l <;> cases (P ||| a).getLsbD l <;> simp

theorem kept_finishColl {l q : Nat} (h : l < 32) (hq : q < 128) (g : P.getLsbD l → q ∉ regsOf t r) :
    sameReg ((w.finishColl P a len t r v fl).lane l) (w.lane l) q := by
  rw [lane_finishColl _ _ _ _ _ _ _ _ h]
  cases member : P.getLsbD l
  · cases (P ||| a).getLsbD l <;> exact ⟨rfl, rfl, rfl⟩
  · have other := wrTy_other { w.lane l with h := false } t r q (v l) hq (g member)
    cases (P ||| a).getLsbD l <;> exact other

theorem full_finishColl {l q : Nat} (h : l < 32) (member : P.getLsbD l = true) (hq : q < 128) (g : q ∈ regsOf t r) :
    ((w.finishColl P a len t r v fl).lane l).full.getLsbD q = true ∧
      ((w.finishColl P a len t r v fl).lane l).bad.getLsbD q = false := by
  rw [lane_finishColl _ _ _ _ _ _ _ _ h, member]
  have full := wrTy_full { w.lane l with h := false } t r q (v l) hq g
  cases (P ||| a).getLsbD l <;> exact full

theorem rdTy_finishColl {d : VReg} {l : Nat} (h : l < 32) (member : P.getLsbD l = true)
    (even : t.is64 = true → d.toNat % 2 = 0) : ((w.finishColl P a len t d.toNat v fl).lane l).rdTy t d.toNat =
      if t.is64 then v l else ((v l).setWidth 32).setWidth 64 := by
  rw [lane_finishColl _ _ _ _ _ _ _ _ h, member]
  have value := rdTy_wrTy_of_even { w.lane l with h := false } t d (v l) even
  cases (P ||| a).getLsbD l <;> exact value

theorem only_finishColl : w.Only { w.finishColl P a len t r v fl with colls := w.colls } := by
  simp only [Welt.Only, Welt.finishColl, Welt.advance, Welt.flagged, Welt.mapLanes, Welt.freed, Welt.hold]

theorem registers_finishColl : let u := w.finishColl P a len t r v fl
    u.w = w.w ∧ u.wfull = w.wfull ∧ u.wbad = w.wbad ∧ u.m = w.m ∧ u.fpctl = orFlags w.fpctl fl ∧
      u.colls = w.otherColls := by
  simp [Welt.finishColl, Welt.flagged, Welt.freed, Welt.hold]

end

/-- A completed collective of two words with typed results: its frame, and what the members hold. -/
theorem done_finishColl {s : State} (P : Lanes) (t : Ty) (d : VReg) (v : Nat → W64) (fl : FlagBits) (h : issuing s)
    (even : t.is64 = true → d.toNat % 2 = 0) :
    let u := s.retireWith (s.cw.finishColl P s.cw.A 2 t d.toNat v fl)
    CollectiveDone s u P (regsOf t d.toNat) [] fl ∧ ∀ l < 32, P.getLsbD l → (u.cw.lane l).rdTy t d.toNat =
      if t.is64 then v l else ((v l).setWidth 32).setWidth 64 := by
  obtain ⟨w, wfull, wbad, m, fpctl, colls⟩ := registers_finishColl s.cw P s.cw.A 2 t d.toNat v fl
  obtain ⟨w', wfull', wbad', m', fpctl', colls'⟩ :=
    registers_retireWith s (s.cw.finishColl P s.cw.A 2 t d.toNat v fl) h
  have lane := lane_retireWith s (s.cw.finishColl P s.cw.A 2 t d.toNat v fl) h
  have key {l : Nat} (hl : l < 32) := key_finishColl s.cw P s.cw.A 2 t d.toNat v fl hl
  refine ⟨{ outside := outside_retireWith ..
            inside := inside_retireWith_colls h (only_finishColl ..)
            instances := colls'.trans colls
            pc := fun l hl => ?_, held := fun l hl => ?_, key := fun l hl => ?_
            kept := fun l hl q hq g => ?_, full := fun l hl member q hq g => ?_
            uniform := ⟨w'.trans w, wfull'.trans wfull, wbad'.trans wbad⟩
            masks := fun q _ _ => mask_of_m _ _ (m'.trans m)
            flags := fpctl'.trans fpctl }, fun l hl member => ?_⟩ <;> rw [lane]
  · exact (key hl).1
  · exact (key hl).2.1
  · exact (key hl).2.2
  · exact kept_finishColl _ _ _ _ _ _ _ _ hl hq g
  · exact full_finishColl _ _ _ _ _ _ _ _ hl member hq g
  · exact rdTy_finishColl _ _ _ _ _ _ _ hl member even

/-- A collective with vector results that completes: its results and flags, or the trap of an enabled condition. -/
theorem memberResult_collVec {s : State} {i : Instr} {p : BitVec 2} {dep : Deps} {mem : MReg} {t : Ty} {d : VReg}
    {f : Lanes → Welt → (Nat → W64) × FlagBits} {v : Nat → W64} {fl : FlagBits} (h : issuing s)
    (done : completes s (s.E p) mem) (ready : s.issues (s.E p) dep 0 = true) (even : t.evenOk d = true)
    (run : exec i s = s.collVec p dep mem t d f)
    (gives : f (members s (s.E p) mem) (s.cw.freed (members s (s.E p) mem)) = (v, fl)) :
    (fpTrap s.cw.fpctl fl = none → MemberResult s i (members s (s.E p) mem) fl t d fun l y =>
      y = if t.is64 then v l else ((v l).setWidth 32).setWidth 64) ∧
    ∀ c, fpTrap s.cw.fpctl fl = some c → exec i s = .next ((s.setCw (s.cw.freed (members s (s.E p) mem))).raise
      { cause := c, lanes := members s (s.E p) mem, pc := s.cw.pc, depth := some s.cw.lead.depth }) := by
  rw [State.collVec, issue_go _ _ _ _ _ ready, collective_completes done] at run
  simp only [gives, fpctl_freed] at run
  refine ⟨fun quiet => ?_, fun c trap => ?_⟩
  · have next : exec i s = .next (s.retireWith (s.cw.finishColl (members s (s.E p) mem) s.cw.A 2 t d.toNat v fl)) := by
      rw [run, quiet]
      simp only [State.collAnswer, Welt.finishColl, Welt.flagged, Welt.mapLanes_fpctl, fpctl_freed]
    exact ⟨_, next, done_finishColl (members s (s.E p) mem) t d v fl h (even_of_evenOk even)⟩
  · rw [trap] at run
    exact run

/-! ### FOLD and SCAN of floats (R122, R142) -/

/-- The conditions of the members of `P`, each giving its own. -/
def memberFlags (P : Lanes) (v : Nat → FVal × FlagBits) : FlagBits := (Lanes.nats P).foldl (fun f l => f ||| (v l).2) 0

/-- What a member of a float FOLD or SCAN brings: its source, NV with a signalling NaN. -/
def State.leaf (s : State) (t : Ty) (a : VReg) (l : Nat) : FVal × FlagBits :=
  let x := flushIn t (flushes s.cw.fpctl t) (decodeF t ((s.cw.lane l).rdTy t a.toNat))
  (x, if x.isSnan then fNV else 0)

/-- The leaves of the tree of R122: the members, at their places. -/
def State.leaves (s : State) (t : Ty) (a : VReg) (P : Lanes) : List (Option (FVal × FlagBits)) :=
  (List.range 32).map fun l => if P.getLsbD l then some (s.leaf t a l) else none

/-- The root of the tree of R122 over the members. -/
def State.folded (s : State) (t : Ty) (a : VReg) (P : Lanes) (op : Nat) : FVal × FlagBits :=
  (foldTree (foldNode t (flushes s.cw.fpctl t) op) (s.leaves t a P)).getD (.fin false 0, 0)

/-- The sum of some members, in the order given; +0 of none. -/
def State.summed (s : State) (t : Ty) (a : VReg) : List Nat → FVal × FlagBits
  | [] => (.fin false 0, 0)
  | l :: r => (r.map (s.leaf t a)).foldl (foldNode t (flushes s.cw.fpctl t) 0) (s.leaf t a l)

/-- The sum of the members that a SCAN takes for lane `l`. -/
def State.scanned (s : State) (t : Ty) (a : VReg) (P : Lanes) (f : Nat → Nat → Bool) (l : Nat) : FVal × FlagBits :=
  s.summed t a ((List.range 32).filter fun j => P.getLsbD j && f j l)

theorem memberVals_freed (s : State) (t : Ty) (a : VReg) (P : Lanes) :
    memberVals t (s.cw.freed P) P a = s.leaves t a P := by
  refine List.map_congr_left fun j hj => ?_
  have source : (s.cw.freed P).x t a j = (s.cw.lane j).rdTy t a.toNat := by
    rw [Welt.x, lane_freed _ _ (List.mem_range.1 hj)]
    split <;> rfl
  rw [source, fpctl_freed]
  rfl

theorem foldl_or_const {α : Type} {l : List α} (x : FlagBits) (h : l ≠ []) : l.foldl (fun f _ => f ||| x) 0 = x := by
  obtain ⟨a, l, rfl⟩ := List.exists_cons_of_ne_nil h
  rw [List.foldl_cons, show (0 : FlagBits) ||| x = x by simp]
  exact List.foldl_fixed' (fun _ => BitVec.or_self) l

theorem encodeF_zero (t : Ty) : encodeF t (.fin false 0) = 0 := by
  simp [encodeF]

/-- A float FOLD gives all members the root of the tree, whose conditions are those of each (log 23). -/
theorem foldNumber_float (s : State) {t : Ty} (op : Nat) (a : VReg) {P : Lanes} (ht : t.isFloat = true) (hP : P ≠ 0) :
    foldNumber t op a P (s.cw.freed P) =
      (fun _ => encodeF t (s.folded t a P op).1, memberFlags P fun _ => s.folded t a P op) := by
  obtain ⟨l, hl, member⟩ := (lanes_ne_zero_iff P).1 hP
  have nonempty : Lanes.nats P ≠ [] := List.ne_nil_of_mem (mem_nats.2 ⟨hl, member⟩)
  rw [memberFlags, foldl_or_const _ nonempty, foldNumber, if_pos ht, memberVals_freed, fpctl_freed, State.folded]
  cases foldTree (foldNode t (flushes s.cw.fpctl t) op) (s.leaves t a P) with
  | none => simp [encodeF_zero]
  | some r => rfl

/-- Members find their own leaves at their places. -/
theorem filterMap_leaves (s : State) (t : Ty) (a : VReg) {P : Lanes} {ls : List Nat} (h : ∀ j ∈ ls, j ∈ Lanes.nats P) :
    ls.filterMap (fun j => (s.leaves t a P).getD j none) = ls.map (s.leaf t a) := by
  rw [← List.filterMap_eq_map]
  refine List.filterMap_congr fun j hj => ?_
  obtain ⟨hl, member⟩ := mem_nats.1 (h j hj)
  simp [State.leaves, List.getD, hl, member]

/-- A float SCAN gives each member its own sum, whose conditions are its own (log 23). -/
theorem scanSum_float (s : State) {t : Ty} (inc : Bool) (a : VReg) {P : Lanes} (ht : t.isFloat = true) :
    let v := s.scanned t a P fun j l => if inc then decide (j ≤ l) else decide (j < l)
    scanSum t inc a P (s.cw.freed P) = (fun l => encodeF t (v l).1, memberFlags P v) := by
  intro v
  have lane (l : Nat) : (match ((Lanes.nats P).filter fun j => if inc then decide (j ≤ l) else decide (j < l)).filterMap
      fun j => (s.leaves t a P).getD j none with
      | [] => (.fin false 0, 0)
      | x :: xs => xs.foldl (foldNode t (flushes s.cw.fpctl t) 0) x) = v l := by
    rw [filterMap_leaves s t a fun j hj => (List.mem_filter.1 hj).1, Lanes.nats, List.filter_filter]
    simp only [v, State.scanned, Bool.and_comm]
    generalize List.filter _ _ = ls
    cases ls <;> rfl
  unfold scanSum
  rw [if_pos ht, memberVals_freed, fpctl_freed]
  exact congrArg (fun g => (fun l => encodeF t (g l).1, memberFlags P g)) (funext lane)

/-! ### O9 -/

theorem members_ne_zero {s : State} {e : Lanes} (mem : MReg) (h : e ≠ 0) : members s e mem ≠ 0 := by
  obtain ⟨l, hl, executes⟩ := (lanes_ne_zero_iff e).1 h
  exact (lanes_ne_zero_iff _).2 ⟨l, hl, by simp [members, executes]⟩

/-- A float FOLD or SCAN that completes: the members' values as bits, or the trap. -/
theorem floatColl_result {s : State} {i : Instr} {d a : VReg} {ta : Bool} {p : BitVec 2} {mem : MReg} {t : Ty}
    {f : Lanes → Welt → (Nat → W64) × FlagBits} {v : Nat → FVal × FlagBits} (h : issuing s)
    (done : completes s (s.E p) mem) (ready : s.issues (s.E p) (collDeps t d a ta) 0 = true)
    (ht : t.isFloat = true) (wf : (t.isFoldNumber && t.evenOk d && t.evenOk a) = true)
    (run : exec i s = s.collVec p (collDeps t d a ta) mem t d f)
    (gives : f (members s (s.E p) mem) (s.cw.freed (members s (s.E p) mem)) =
      (fun l => encodeF t (v l).1, memberFlags (members s (s.E p) mem) v)) :
    let P := members s (s.E p) mem
    (fpTrap s.cw.fpctl (memberFlags P v) = none →
      MemberResult s i P (memberFlags P v) t d fun l y => y = image t (encodeF t (v l).1).toNat) ∧
    ∀ c, fpTrap s.cw.fpctl (memberFlags P v) = some c → exec i s = .next ((s.setCw (s.cw.freed P)).raise
      { cause := c, lanes := P, pc := s.cw.pc, depth := some s.cw.lead.depth }) := by
  simp only [Bool.and_eq_true] at wf
  obtain ⟨⟨number, even⟩, -⟩ := wf
  have wide : t.is64 = true ∨ t.width = 32 := by revert number; cases t <;> decide
  have stores (l : Nat) := (stores_word (isSigned_of_isFloat ht) wide (encodeF t (v l).1, 0)).2
  have result := memberResult_collVec h done ready even run gives
  simp only [stores] at result
  exact result

/-- Settles O9: each FOLD gives the root of its tree, each SCAN the sums in ascending order. -/
theorem floatFoldsAndScans : Obligations.FloatFoldsAndScans := by
  intro s d a mem ta p ty h done ready ht P leaf node tree run upTo flagsOf q hq wf
  have nonempty := members_ne_zero (s := s) mem done.1
  simp only [List.mem_cons, List.not_mem_nil, or_false] at hq
  rcases hq with rfl | rfl | rfl | rfl | rfl
  · exact floatColl_result h done ready ht wf (exec_foldAdd ..) (foldNumber_float s 0 a ht nonempty)
  · exact floatColl_result h done ready ht wf (exec_foldMin ..) (foldNumber_float s 1 a ht nonempty)
  · exact floatColl_result h done ready ht wf (exec_foldMax ..) (foldNumber_float s 2 a ht nonempty)
  · exact floatColl_result h done ready ht wf (exec_scanInc ..) (scanSum_float s true a ht)
  · exact floatColl_result h done ready ht wf (exec_scanExc ..) (scanSum_float s false a ht)

end Sys2Proof.Machine

/-!
One value in each lane: the shapes of the vector integer instructions (R123, R129); the two-source forms (R125), and O1.
-/

namespace Sys2Proof.Machine

open Safety Claims

/-! ### One value in each lane -/

/-- What a register, or a pair, that takes a value of type `t` holds of it (R51). -/
def Ty.stored (t : Ty) (x : W64) : W64 := if t.is64 then x else (x.setWidth 32).setWidth 64

theorem stored_of_is64 {t : Ty} (h : t.is64 = true) (x : W64) : Ty.stored t x = x := if_pos h

/-- A vector instruction that is ready writes its value of each lane of E. -/
theorem vectorResult_vecOp {s : State} {i : Instr} {p : BitVec 2} {dep : Deps} {len : Nat} {t : Ty} {d : VReg}
    {f : Nat → Lane → W64} {R : Nat → Lane → W64 → Prop} (h : issuing s) (ready : s.issues (s.E p) dep 0 = true)
    (even : t.evenOk d = true) (run : exec i s = s.vecOp p dep 0 len fun k l => l.wrTy t d.toNat (f k l))
    (holds : ∀ k l, R k l (Ty.stored t (f k l))) : VectorResult s i len (s.E p) t d R := by
  obtain ⟨u, next, confined, value⟩ := vecW_next s p dep 0 len t d f h ready (even_of_evenOk even)
  refine ⟨u, run.trans next, confined, fun l hl he => ?_⟩
  rw [value l hl he]
  exact holds l _

/-- A one-word two-source instruction that is ready (R125). -/
theorem vectorResult_vec2 {s : State} {d a b : VReg} {ta tb : Bool} {p : BitVec 2} {i : Instr} {f g : W32 → W32 → W32}
    (h : issuing s) (ready : s.issues (s.E p) (deps2 .b32 d a b ta tb) 0 = true)
    (run : exec i s = s.vec2 d a b ta tb p f) (same : ∀ x y, f x y = g x y) :
    VectorResult s i 1 (s.E p) .b32 d fun _ l y => y = (g (l.rd a.toNat) (l.rd b.toNat)).setWidth 64 := by
  simp only [State.vec2, wr_eq_wrTy] at run
  refine vectorResult_vecOp h ready rfl run fun _ l => ?_
  simp [Ty.stored, Ty.is64, same]

/-! ### Choices and high halves, on any width (R125, R130, R132) -/

/-- Of two values ordered by a key that tells them apart, the lesser. -/
theorem ite_le_eq_ite_lt {α : Type} {key : α → Int} (apart : ∀ x y, key x = key y → x = y) (x y : α) :
    (if key x ≤ key y then x else y) = if key x < key y then x else y := by
  by_cases same : key x = key y
  · rw [apart x y same]
    simp
  · simp [le_iff_lt_or_eq, same]

/-- Of two values ordered by a key, the greater. -/
theorem ite_ge_eq_ite_lt {α : Type} (key : α → Int) (x y : α) :
    (if key y ≤ key x then x else y) = if key x < key y then y else x := by
  simp only [← Int.not_lt, ite_not]

theorem min_toInt_eq_slt {n : Nat} (x y : BitVec n) :
    (if x.toInt ≤ y.toInt then x else y) = if x.slt y then x else y := by
  simp only [ite_le_eq_ite_lt fun x y => BitVec.eq_of_toInt_eq, BitVec.slt, decide_eq_true_eq]

theorem max_toInt_eq_slt {n : Nat} (x y : BitVec n) :
    (if y.toInt ≤ x.toInt then x else y) = if x.slt y then y else x := by
  simp only [ite_ge_eq_ite_lt BitVec.toInt, BitVec.slt, decide_eq_true_eq]

theorem mulHi_s32 (x y : W32) :
    (mulHi .s32 (x.setWidth 64) (y.setWidth 64)).setWidth 32 = BitVec.ofInt 32 (x.toInt * y.toInt / 2 ^ 32) := by
  simp [mulHi, wrapTo, intOf, Ty.isSigned, Ty.width, setWidth_signExtend, BitVec.signExtend_eq]

/-! ### O1 -/

/-- Settles O1: the function of each form on two words. -/
theorem vectorTwoSource : Obligations.VectorTwoSource := by
  intro s d a b ta tb p h ready q hq
  have two {i : Instr} {f g : W32 → W32 → W32} := @vectorResult_vec2 s d a b ta tb p i f g h ready
  simp only [List.mem_cons, List.not_mem_nil, or_false] at hq
  rcases hq with rfl | rfl | rfl | rfl | rfl | rfl | rfl | rfl | rfl | rfl | rfl | rfl | rfl | rfl
  · exact two (exec_add ..) fun x y => rfl
  · exact two (exec_sub ..) fun x y => rfl
  · exact two (exec_mulLo ..) fun x y => rfl
  · exact two (exec_mulHi ..) mulHi_s32
  · exact two (exec_min ..) min_toInt_eq_slt
  · exact two (exec_max ..) max_toInt_eq_slt
  · exact two (exec_and ..) fun x y => rfl
  · exact two (exec_or ..) fun x y => rfl
  · exact two (exec_xor ..) fun x y => rfl
  · exact two (exec_andn ..) fun x y => rfl
  · exact two (exec_shl ..) fun x y => shiftLeft_eq_ofNat x _
  · exact two (exec_shr ..) fun x y => ushiftRight_eq_ofNat x _
  · exact two (exec_sar ..) fun x y => sshiftRight_eq_ofInt x _
  · exact two (exec_rot ..) fun x y => rotateLeft_eq_or x (Nat.mod_lt _ (by decide))

end Sys2Proof.Machine

/-!
Wrapped numbers and strings of bits as register images (R100, R101); the arithmetic of the X form (R130), and O3.
-/

namespace Sys2Proof.Machine

open Safety Claims

/-! ### Images (R100) -/

/-- An image depends on the low bits of its number alone. -/
theorem image_congr {t : Ty} {y z : Int} (low : BitVec.ofInt t.width y = BitVec.ofInt t.width z) :
    image t y = image t z := by
  unfold image
  cases pair : t.is64
  · simp only [Bool.false_eq_true, if_false, low]
  · have width : t.width = 64 := by revert pair; cases t <;> decide
    rw [width] at low
    exact low

theorem stored_wrapTo (t : Ty) (z : Int) : Ty.stored t (wrapTo t z) = image t z := by
  refine (stores_wrapTo t z 0).2.trans (image_congr ?_)
  rw [BitVec.ofInt_natCast, BitVec.ofNat_toNat, setWidth_ofInt (width_le t)]

theorem stored_imageOf (t : Ty) (x : W64) : Ty.stored t (imageOf t x) = image t (num t x) := loadImage_read t x

theorem satTo_eq_wrapTo_clamp (t : Ty) (z : Int) : satTo t z = wrapTo t (clamp t z) := by
  rw [satTo, clamp_eq]

theorem stored_min (t : Ty) (x y : W64) :
    Ty.stored t (if intOf t x ≤ intOf t y then imageOf t x else imageOf t y) = image t (min (num t x) (num t y)) := by
  rw [apply_ite (Ty.stored t), stored_imageOf, stored_imageOf, intOf_eq_num, intOf_eq_num, min_def, apply_ite (image t)]

theorem stored_max (t : Ty) (x y : W64) :
    Ty.stored t (if intOf t y ≤ intOf t x then imageOf t x else imageOf t y) = image t (max (num t x) (num t y)) := by
  rw [apply_ite (Ty.stored t), stored_imageOf, stored_imageOf, intOf_eq_num, intOf_eq_num, max_def',
    apply_ite (image t)]

/-! ### The shapes -/

section
variable {s : State} {d a b : VReg} {ta tb : Bool} {p : BitVec 2} {t : Ty} {i : Instr} (h : issuing s)
  (even : t.evenOk d = true)
include h even

/-- A two-source instruction of the X form that wraps a number. -/
theorem vectorResult_wrapped2 {g : Int → Int → Int} (ready : s.issues (s.E p) (deps2 t d a b ta tb) 0 = true)
    (run : exec i s = s.vec2X t d a b ta tb p fun x y => wrapTo t (g (intOf t x) (intOf t y))) :
    VectorResult s i 2 (s.E p) t d fun _ l y =>
      y = image t (g (num t (l.rdTy t a.toNat)) (num t (l.rdTy t b.toNat))) :=
  vectorResult_vecOp h ready even run fun _ l => by rw [stored_wrapTo, intOf_eq_num, intOf_eq_num]

/-- A one-source instruction of the X form that wraps a number. -/
theorem vectorResult_wrapped1 {g : Int → Int} (ready : s.issues (s.E p) (deps1 t d a ta) 0 = true)
    (run : exec i s = s.vec1X t d a ta p fun x => wrapTo t (g (intOf t x))) :
    VectorResult s i 2 (s.E p) t d fun _ l y => y = image t (g (num t (l.rdTy t a.toNat))) :=
  vectorResult_vecOp h ready even run fun _ l => by rw [stored_wrapTo, intOf_eq_num]

end

/-! ### O3 -/

/-- Settles O3: each form wraps a number that it computes from its sources, or gives one of them. -/
theorem vectorTypedArithmetic : Obligations.VectorTypedArithmetic := by
  intro s d a b c ta tb tc p ty h
  refine ⟨fun ready q hq wf => ?_, fun ready q hq wf => ?_, fun ready wf => ?_⟩
  · simp only [List.mem_cons, List.not_mem_nil, or_false] at hq
    have even : ty.evenOk d = true := by
      rcases hq with rfl | rfl | rfl | rfl | rfl | rfl | rfl | rfl <;>
        simp only [Instr.wellFormed, Bool.and_eq_true] at wf
      all_goals tauto
    rcases hq with rfl | rfl | rfl | rfl | rfl | rfl | rfl | rfl
    · exact vectorResult_wrapped2 h even ready (exec_addX ..)
    · exact vectorResult_wrapped2 h even ready (exec_subX ..)
    · exact vectorResult_wrapped2 h even ready (exec_mulLoX ..)
    · exact vectorResult_wrapped2 (g := fun x y => x * y / 2 ^ ty.width) h even ready (exec_mulHiX ..)
    · exact vectorResult_vecOp h ready even (exec_minX ..) fun _ l => stored_min ..
    · exact vectorResult_vecOp h ready even (exec_maxX ..) fun _ l => stored_max ..
    · exact vectorResult_wrapped2 h even ready
        ((exec_addSat ..).trans (by simp only [execAddSat, satTo_eq_wrapTo_clamp]))
    · exact vectorResult_wrapped2 h even ready
        ((exec_subSat ..).trans (by simp only [execSubSat, satTo_eq_wrapTo_clamp]))
  · simp only [List.mem_cons, List.not_mem_nil, or_false] at hq
    have even : ty.evenOk d = true := by
      rcases hq with rfl | rfl <;> simp only [Instr.wellFormed, Bool.and_eq_true] at wf
      all_goals tauto
    rcases hq with rfl | rfl
    · exact vectorResult_wrapped1 h even ready (exec_absX ..)
    · exact vectorResult_wrapped1 h even ready (exec_negX ..)
  · have even : ty.evenOk d = true := by
      simp only [Instr.wellFormed, Bool.and_eq_true] at wf
      tauto
    exact vectorResult_vecOp h ready even (exec_mad ..) fun _ l => by
      rw [stored_wrapTo, intOf_eq_num, intOf_eq_num, intOf_eq_num]

end Sys2Proof.Machine

/-!
The bits of images (R100): fields and shifts (R130); the bit operations and shifts of the X form, and O50.
-/

namespace Sys2Proof.Machine

open Safety Claims

/-! ### The bits of an image (R100) -/

theorem num_congr {t : Ty} {x y : W64} (low : x.setWidth t.width = y.setWidth t.width) : num t x = num t y := by
  have := congrArg BitVec.toNat low
  simp only [BitVec.toNat_setWidth] at this
  rw [num, num, this]

/-- The low bits of an image are those of its number. -/
theorem setWidth_image (t : Ty) (z : Int) : (image t z).setWidth t.width = BitVec.ofInt t.width z := by
  have narrow : ¬t.is64 = true → t.width ≤ 32 := by cases t <;> decide
  unfold image
  split
  · exact setWidth_ofInt (width_le t) z
  next single =>
    have narrow := narrow single
    split
    · refine BitVec.eq_of_getLsbD_eq fun j hj => ?_
      simp only [BitVec.getLsbD_setWidth, BitVec.getLsbD_signExtend, hj, show j < 32 by omega, show j < 64 by omega,
        decide_true, Bool.true_and, if_true]
    · rw [BitVec.ofNat_toNat, BitVec.setWidth_setWidth_of_le _ (width_le t), BitVec.setWidth_eq]

theorem num_image_num (t : Ty) (x : W64) : num t (image t (num t x)) = num t x :=
  num_congr (by rw [setWidth_image, ofInt_num])

theorem getLsbD_image_num (t : Ty) (x : W64) {j : Nat} (h : j < t.width) :
    (image t (num t x)).getLsbD j = x.getLsbD j := by
  have := congrArg (·.getLsbD j) ((setWidth_image t (num t x)).trans (ofInt_num t x))
  simpa [BitVec.getLsbD_setWidth, h] using this

/-- The image of a string is the one of its low bits. -/
theorem imageOfBits_imageOf {t : Ty} {x : W64} {bits : Nat → Bool} (h : ∀ j < t.width, x.getLsbD j = bits j) :
    imageOfBits t (Ty.stored t (imageOf t x)) bits := by
  rw [stored_imageOf]
  exact ⟨by rw [num_image_num], fun j hj => (getLsbD_image_num t x hj).trans (h j hj)⟩

/-- The image of one of two strings is the one of its bits. -/
theorem imageOfBits_ite (t : Ty) (c : Bool) (x y : W64) :
    imageOfBits t (Ty.stored t (if c then imageOf t x else imageOf t y)) fun j =>
      if c then x.getLsbD j else y.getLsbD j := by
  cases c <;> exact imageOfBits_imageOf fun _ _ => rfl

/-- A count up to the width of the type, as an image. -/
theorem stored_imageOf_ofNat (t : Ty) {n : Nat} (h : n ≤ t.width) :
    Ty.stored t (imageOf t (BitVec.ofNat 64 n)) = image t n := by
  have := width_le t
  rw [stored_imageOf, image_num, BitVec.toNat_ofNat, Nat.mod_eq_of_lt (by omega)]

theorem stored_popK (t : Ty) (x : W64) :
    Ty.stored t (imageOf t (BitVec.ofNat 64 (popK t.width x))) = image t (ones t.width x) := by
  rw [stored_imageOf_ofNat t (popK_le ..), popK_eq_ones]

/-! ### Bit fields (R130) -/

/-- Bit `j` of a field of `len + 1` bits from bit `pos`, extended as the type says. -/
def fieldBit (t : Ty) (x : W64) (pos len j : Nat) : Bool :=
  if j ≤ len then x.getLsbD (pos + j) else t.isSigned && x.getLsbD (pos + len)

theorem imageOfBits_bfeK (t : Ty) (x : W64) (pos len : Nat) : imageOfBits t (Ty.stored t (bfeK t x pos (len + 1)))
    (fieldBit t x pos len) := by
  refine imageOfBits_imageOf fun j hj => ?_
  have : j < 64 := Nat.lt_of_lt_of_le hj (width_le t)
  have top : ((x >>> pos).setWidth (len + 1)).msb = x.getLsbD (pos + len) := by simp [BitVec.msb_eq_getLsbD_last]
  unfold fieldBit
  cases t.isSigned
  · simp [this]
  · rw [if_pos rfl, BitVec.getLsbD_signExtend, top]
    simp +contextual [this]

/-- The mask of a field of `n` bits from bit `p`. -/
theorem getLsbD_fieldMask (p n : Nat) {j : Nat} (h : j < 64) :
    (BitVec.ofNat 64 ((2 ^ n - 1) * 2 ^ p)).getLsbD j = decide (p ≤ j ∧ j < p + n) := by
  rw [BitVec.getLsbD_ofNat, Nat.testBit_mul_two_pow, Nat.testBit_two_pow_sub_one, decide_eq_true h, Bool.true_and,
    Bool.eq_iff_iff]
  simp only [Bool.and_eq_true, decide_eq_true_eq]
  omega

/-- Bit `j` of a string whose `len + 1` bits from bit `pos` are replaced. -/
def insertedBit (x y : W64) (pos len j : Nat) : Bool :=
  if pos ≤ j ∧ j ≤ pos + len then y.getLsbD (j - pos) else x.getLsbD j

theorem imageOfBits_bfiK (t : Ty) (x y : W64) (pos len : Nat) :
    imageOfBits t (Ty.stored t (bfiK t x y pos (len + 1))) (insertedBit x y pos len) := by
  refine imageOfBits_imageOf fun j hj => ?_
  have wide : j < 64 := Nat.lt_of_lt_of_le hj (width_le t)
  simp only [BitVec.getLsbD_or, BitVec.getLsbD_and, BitVec.getLsbD_not, getLsbD_fieldMask _ _ wide,
    BitVec.getLsbD_shiftLeft, wide, insertedBit, ← Nat.add_assoc, Nat.lt_succ_iff]
  by_cases inside : pos ≤ j ∧ j ≤ pos + len
  · simp [inside, Nat.not_lt.2 inside.1]
  · simp [inside]

/-! ### Shifts (R130) -/

section
variable (t : Ty) (x : W64) (n : Nat)

theorem imageOfBits_shlK :
    imageOfBits t (Ty.stored t (shlK t x n)) fun j => decide (n ≤ j) && x.getLsbD (j - n) :=
  imageOfBits_imageOf fun j hj => by
    have : j < 64 := Nat.lt_of_lt_of_le hj (width_le t)
    simp only [BitVec.getLsbD_shiftLeft, this, decide_true, Bool.true_and, ← decide_not, Nat.not_lt]

theorem imageOfBits_shrK :
    imageOfBits t (Ty.stored t (shrK t x n)) fun j => decide (j + n < t.width) && x.getLsbD (j + n) :=
  imageOfBits_imageOf fun j hj => by
    have : j < 64 := Nat.lt_of_lt_of_le hj (width_le t)
    simp [this, Nat.add_comm]

theorem imageOfBits_sarK : imageOfBits t (Ty.stored t (sarK t x n)) fun j =>
    if j + n < t.width then x.getLsbD (j + n) else x.getLsbD (t.width - 1) :=
  imageOfBits_imageOf fun j hj => by
    have : j < 64 := Nat.lt_of_lt_of_le hj (width_le t)
    have top : (x.setWidth t.width).msb = x.getLsbD (t.width - 1) := by
      simp [BitVec.msb_eq_getLsbD_last, Nat.zero_lt_of_lt hj]
    rw [BitVec.getLsbD_setWidth, BitVec.getLsbD_sshiftRight, top, Nat.add_comm n]
    simp +contextual [this, hj]

theorem imageOfBits_rotK (h : n < t.width) :
    imageOfBits t (Ty.stored t (rotK t x n)) fun j => x.getLsbD ((j + t.width - n) % t.width) :=
  imageOfBits_imageOf fun j hj => by
    have : j < 64 := Nat.lt_of_lt_of_le hj (width_le t)
    rw [BitVec.getLsbD_setWidth, BitVec.getLsbD_rotateLeft, Nat.mod_eq_of_lt h]
    by_cases wraps : j < n
    · have place : (j + t.width - n) % t.width = t.width - n + j := by rw [Nat.mod_eq_of_lt] <;> omega
      rw [place, decide_eq_true this, decide_eq_true wraps, Bool.true_and, cond_true, BitVec.getLsbD_setWidth,
        decide_eq_true (by omega), Bool.true_and]
    · have place : (j + t.width - n) % t.width = j - n := by
        rw [show j + t.width - n = j - n + t.width by omega, Nat.add_mod_right, Nat.mod_eq_of_lt (by omega)]
      rw [place, decide_eq_true this, decide_eq_false wraps, Bool.true_and, cond_false, decide_eq_true hj,
        Bool.true_and, BitVec.getLsbD_setWidth, decide_eq_true (by omega), Bool.true_and]

end

/-! ### O50 -/

/-- The logic, bit fields, selection, moves and counts of the X form: the bits of each. -/
theorem vectorTypedBits_holds : vectorTypedBits := by
  intro s d a b ta tb p ty pos len sl h
  refine ⟨fun ready q hq wf => ?_, fun ready q hq wf => ?_⟩
  · simp only [List.mem_cons, List.not_mem_nil, or_false] at hq
    have even : ty.evenOk d = true := by
      rcases hq with rfl | rfl | rfl | rfl | rfl | rfl <;> simp only [Instr.wellFormed, Bool.and_eq_true] at wf
      all_goals tauto
    have two {i : Instr} {f : Nat → Lane → W64} {R : Nat → Lane → W64 → Prop} :=
      @vectorResult_vecOp s i p _ 2 ty d f R h ready even
    rcases hq with rfl | rfl | rfl | rfl | rfl | rfl
    · exact two (exec_andX ..) fun _ l => imageOfBits_imageOf fun j _ => BitVec.getLsbD_and
    · exact two (exec_orX ..) fun _ l => imageOfBits_imageOf fun j _ => BitVec.getLsbD_or
    · exact two (exec_xorX ..) fun _ l => imageOfBits_imageOf fun j _ => BitVec.getLsbD_xor
    · refine two (exec_andnX ..) fun _ l => imageOfBits_imageOf fun j hj => ?_
      simp [Nat.lt_of_lt_of_le hj (width_le ty)]
    · exact two (exec_bfi ..) fun _ l => imageOfBits_bfiK ..
    · exact two (exec_sel ..) fun _ l => imageOfBits_ite ..
  · simp only [List.mem_cons, List.not_mem_nil, or_false] at hq
    have even : ty.evenOk d = true := by
      rcases hq with rfl | rfl | rfl | rfl | rfl | rfl <;> simp only [Instr.wellFormed, Bool.and_eq_true] at wf
      all_goals tauto
    have one {i : Instr} {f : Nat → Lane → W64} {R : Nat → Lane → W64 → Prop} :=
      @vectorResult_vecOp s i p _ 2 ty d f R h ready even
    rcases hq with rfl | rfl | rfl | rfl | rfl | rfl
    · refine one (exec_notX ..) fun _ l => imageOfBits_imageOf fun j hj => ?_
      simp [Nat.lt_of_lt_of_le hj (width_le ty)]
    · exact one (exec_movX ..) fun _ l => imageOfBits_imageOf fun j _ => rfl
    · refine one (exec_brevX ..) fun _ l => imageOfBits_imageOf fun j hj => ?_
      simp [getLsbD_brevK _ (width_le ty), hj]
    · exact one (exec_clzX ..) fun _ l => ⟨_, isClz_clzK .., stored_imageOf_ofNat ty (isClz_clzK ..).1⟩
    · exact one (exec_popcX ..) fun _ l => stored_popK ..
    · exact one (exec_bfe ..) fun _ l => imageOfBits_bfeK ..

/-- The shifts of the X form, by a count below the width. -/
theorem vectorTypedShifts_holds : vectorTypedShifts := by
  intro s d a b ta tb p ty im cnt h ready q hq wf
  simp only [List.mem_cons, List.not_mem_nil, or_false] at hq
  have valid : ty.evenOk d = true ∧ (im = true → cnt.toNat < ty.width) := by
    rcases hq with rfl | rfl | rfl | rfl <;> simp only [Instr.wellFormed, Bool.and_eq_true] at wf
    all_goals
      obtain ⟨⟨⟨-, even⟩, -⟩, count⟩ := wf
      refine ⟨even, fun immediate => ?_⟩
      simp only [immediate, if_true, Bool.and_eq_true, decide_eq_true_eq] at count
      exact count.2
  obtain ⟨even, small⟩ := valid
  have shift {i : Instr} {f : Nat → Lane → W64} {R : Nat → Lane → W64 → Prop} :=
    @vectorResult_vecOp s i p _ 2 ty d f R h ready even
  rcases hq with rfl | rfl | rfl | rfl
  · exact shift (exec_shlX ..) fun _ l => imageOfBits_shlK ..
  · exact shift (exec_shrX ..) fun _ l => imageOfBits_shrK ..
  · exact shift (exec_sarX ..) fun _ l => imageOfBits_sarK ..
  · refine shift (exec_rotX ..) fun _ l => imageOfBits_rotK _ _ _ ?_
    split
    next immediate => exact small immediate
    · exact Nat.mod_lt _ (by cases ty <;> decide)

/-- Settles O50: the bit operations and the shifts. -/
theorem vectorTypedBitsAndShifts : Obligations.VectorTypedBitsAndShifts :=
  ⟨vectorTypedBits_holds, vectorTypedShifts_holds⟩

end Sys2Proof.Machine

/-!
The shapes of the uniform instructions (R124, R132-R134); O49 and O4.
-/

namespace Sys2Proof.Machine

open Safety Claims

/-! ### One uniform register -/

/-- A uniform instruction that is ready writes its value. -/
theorem uniformResult_uniOp {s : State} {i : Instr} {dep : Deps} {len : Nat} {d : WReg} {x : W64} {R : W64 → Prop}
    (h : issuing s) (ready : s.issues s.cw.A dep 0 = true) (run : exec i s = s.uniOp dep len (s.cw.wrW d.toNat x))
    (holds : R x) : UniformResult s i len d R := by
  obtain ⟨u, next, confined, value, full⟩ := uniW_next s dep len d x h ready
  refine ⟨u, run.trans next, confined, ?_, full⟩
  split
  next zero =>
    subst zero
    exact rdW_zero _
  next other =>
    rw [value, if_neg other]
    exact holds

/-! ### 64 bits as numbers (R100, R101) -/

theorem intOf_s64 (x : W64) : intOf .s64 x = x.toInt := by simp [intOf, Ty.isSigned, Ty.width]

theorem intOf_n64 (x : W64) : intOf .n64 x = x.toNat := by simp [intOf, Ty.isSigned, Ty.width]

/-- A number wrapped to a 64-bit type is its own string. -/
theorem wrapTo_of_is64 {t : Ty} (h : t.is64 = true) (z : Int) : wrapTo t z = BitVec.ofInt 64 z := by
  rw [← stored_of_is64 h (wrapTo t z), stored_wrapTo, image, if_pos h]

theorem satTo_of_is64 {t : Ty} (h : t.is64 = true) (z : Int) : satTo t z = BitVec.ofInt 64 (clamp t z) := by
  rw [satTo_eq_wrapTo_clamp, wrapTo_of_is64 h]

theorem mulHiW_n64 (x y : W64) : mulHiW .n64 x y = BitVec.ofNat 64 (x.toNat * y.toNat / 2 ^ 64) := by
  rw [mulHiW, wrapTo_of_is64 rfl, intOf_n64, intOf_n64, ← BitVec.ofInt_natCast]
  rfl

theorem min_toNat_eq_ult (x y : W64) :
    (if intOf .n64 x ≤ intOf .n64 y then x else y) = if x.ult y then x else y := by
  have apart (x y : W64) (same : (x.toNat : Int) = y.toNat) : x = y := BitVec.eq_of_toNat_eq (Int.ofNat_inj.1 same)
  simp only [intOf_n64]
  rw [ite_le_eq_ite_lt (key := fun x : W64 => (x.toNat : Int)) apart]
  simp [BitVec.ult]

theorem max_toNat_eq_ult (x y : W64) :
    (if intOf .n64 y ≤ intOf .n64 x then x else y) = if x.ult y then y else x := by
  simp only [intOf_n64]
  rw [ite_ge_eq_ite_lt fun x : W64 => (x.toNat : Int)]
  simp [BitVec.ult]

/-! ### O49 -/

/-- The uniform forms with two sources: the function of each on 64 bits. -/
theorem uniformTwoSource_holds : uniformTwoSource := by
  intro s d a b ta tb h ready q hq
  have two {i : Instr} {f g : W64 → W64 → W64} (run : exec i s = s.uni2 d a b ta tb f) (same : ∀ x y, f x y = g x y) :
      UniformResult s i 1 d fun y => y = g (s.cw.rdW a.toNat) (s.cw.rdW b.toNat) :=
    uniformResult_uniOp h ready run (same ..)
  simp only [List.mem_cons, List.not_mem_nil, or_false] at hq
  rcases hq with rfl | rfl | rfl | rfl | rfl | rfl | rfl | rfl | rfl | rfl | rfl | rfl | rfl | rfl | rfl | rfl | rfl |
    rfl | rfl | rfl | rfl
  · exact two (exec_uniformAdd ..) fun x y => rfl
  · exact two (exec_uniformSub ..) fun x y => rfl
  · exact two (exec_uniformMulLo ..) fun x y => rfl
  · exact two (exec_uniformMulHiS ..) fun x y => by rw [mulHiW, wrapTo_of_is64 rfl, intOf_s64, intOf_s64]
  · exact two (exec_uniformMulHiN ..) mulHiW_n64
  · exact two (exec_uniformMinS ..) fun x y => by rw [intOf_s64, intOf_s64, min_toInt_eq_slt]
  · exact two (exec_uniformMinN ..) min_toNat_eq_ult
  · exact two (exec_uniformMaxS ..) fun x y => by rw [intOf_s64, intOf_s64, max_toInt_eq_slt]
  · exact two (exec_uniformMaxN ..) max_toNat_eq_ult
  · exact two (exec_uniformAddSatS ..) fun x y => by rw [satTo_of_is64 rfl, intOf_s64, intOf_s64]
  · exact two (exec_uniformAddSatN ..) fun x y => by rw [satTo_of_is64 rfl, intOf_n64, intOf_n64]
  · exact two (exec_uniformSubSatS ..) fun x y => by rw [satTo_of_is64 rfl, intOf_s64, intOf_s64]
  · exact two (exec_uniformSubSatN ..) fun x y => by rw [satTo_of_is64 rfl, intOf_n64, intOf_n64]
  · exact two (exec_uniformAnd ..) fun x y => rfl
  · exact two (exec_uniformOr ..) fun x y => rfl
  · exact two (exec_uniformXor ..) fun x y => rfl
  · exact two (exec_uniformAndn ..) fun x y => rfl
  · exact two (exec_uniformShl ..) fun x y => shiftLeft_eq_ofNat x _
  · exact two (exec_uniformShr ..) fun x y => ushiftRight_eq_ofNat x _
  · exact two (exec_uniformSar ..) fun x y => sshiftRight_eq_ofInt x _
  · exact two (exec_uniformRot ..) fun x y => rotateLeft_eq_or x (Nat.mod_lt _ (by decide))

theorem isClz_ofNat_clzK (x : W64) : isClz 64 x.toNat (BitVec.ofNat 64 (clzK 64 x)).toNat := by
  have spec := isClz_clzK 64 x
  rwa [BitVec.toNat_ofNat, Nat.mod_eq_of_lt (Nat.lt_of_le_of_lt spec.1 (by decide))]

theorem toNat_ofNat_popK_64 (x : W64) : (BitVec.ofNat 64 (popK 64 x)).toNat = ones 64 x := by
  rw [BitVec.toNat_ofNat, Nat.mod_eq_of_lt (Nat.lt_of_le_of_lt (popK_le ..) (by decide)), popK_eq_ones]

theorem add_signExtend_eq_ofInt {n k : Nat} (x : BitVec n) (y : BitVec k) :
    x + y.signExtend n = BitVec.ofInt n (x.toInt + y.toInt) := by
  rw [BitVec.ofInt_add, BitVec.ofInt_toInt, BitVec.signExtend]

/-- The uniform forms with one source, and those with an immediate: what each gives of its source. -/
theorem uniformOneSource_holds : uniformOneSource := by
  intro s d a ta imm h ready q hq _
  have one {i : Instr} {len : Nat} {f : W64 → W64} {R : W64 → W64 → Prop} (run : exec i s = s.uni1 d a ta len f)
      (holds : ∀ x, R x (f x)) : UniformResult s i len d (R (s.cw.rdW a.toNat)) :=
    uniformResult_uniOp h ready run (holds _)
  simp only [List.mem_cons, List.not_mem_nil, or_false] at hq
  rcases hq with rfl | rfl | rfl | rfl | rfl | rfl | rfl | rfl | rfl | rfl | rfl | rfl | rfl | rfl
  · exact one (exec_uniformAbs ..) fun x => by rw [wrapTo_of_is64 rfl, intOf_s64, ofInt_abs_toInt]
  · exact one (exec_uniformNeg ..) fun x => (BitVec.zero_sub x).symm
  · exact one (exec_uniformNot ..) fun x j hj => by simp [hj]
  · exact one (exec_uniformClz ..) isClz_ofNat_clzK
  · exact one (exec_uniformPopc ..) toNat_ofNat_popK_64
  · exact one (exec_uniformBrev ..) fun x j hj => by
      rw [getLsbD_brevK x (Nat.le_refl 64), decide_eq_true hj, Bool.true_and]
  · exact one (exec_uniformMov ..) fun x => rfl
  · exact one (exec_uniformAddImm ..) fun x => add_signExtend_eq_ofInt x imm
  · exact one (exec_uniformAndImm ..) fun x => rfl
  · exact one (exec_uniformOrImm ..) fun x => rfl
  · exact one (exec_uniformXorImm ..) fun x => rfl
  · exact one (exec_uniformShlImm ..) fun x => shiftLeft_eq_ofNat x _
  · exact one (exec_uniformShrImm ..) fun x => ushiftRight_eq_ofNat x _
  · exact one (exec_uniformSarImm ..) fun x => sshiftRight_eq_ofInt x _

/-- Settles O49: the forms with two sources, with one, and with an immediate. -/
theorem uniformArithmetic : Obligations.UniformArithmetic := ⟨uniformTwoSource_holds, uniformOneSource_holds⟩

/-! ### O4 -/

theorem is64_of_isUniform {t : Ty} (h : t.isUniform = true) : t.is64 = true := by revert h; cases t <;> decide

/-- A string of 64 bits has in a uniform register the bits that it has in a pair. -/
theorem imageOfBits_of_stored {t : Ty} {x : W64} {bits : Nat → Bool} (h : t.is64 = true)
    (pair : imageOfBits t (Ty.stored t x) bits) : imageOfBits t x bits :=
  stored_of_is64 h x ▸ pair

theorem mul_add_eq_ofNat {n : Nat} (x y z : BitVec n) : x * y + z = BitVec.ofNat n (x.toNat * y.toNat + z.toNat) :=
  BitVec.eq_of_toNat_eq (by simp)

/-- Settles O4: the constants and reads by their values, the fields by their bits. -/
theorem uniformThirdForms : Obligations.UniformThirdForms := by
  intro s d a b c ta tb tc ty pos len sl ma h
  refine ⟨fun ready imm hi lit q hq => ?_, fun ready q hq wf => ?_, fun ready wf => ?_, fun ready => ?_⟩
  · simp only [List.mem_cons, List.not_mem_nil, or_false] at hq
    rcases hq with rfl | rfl | rfl | rfl | rfl
    · exact uniformResult_uniOp h ready (exec_uniformMovi ..) rfl
    · exact uniformResult_uniOp h ready (exec_litUniform ..) rfl
    · exact uniformResult_uniOp h ready (exec_seedTop ..) rfl
    · exact uniformResult_uniOp h ready (exec_seedDepth ..) rfl
    · exact uniformResult_uniOp h ready (exec_mget ..) rfl
  · simp only [List.mem_cons, List.not_mem_nil, or_false] at hq
    rcases hq with rfl | rfl
    · simp only [Instr.wellFormed, Bool.and_eq_true] at wf
      exact uniformResult_uniOp h ready (exec_uniformBfi ..)
        (imageOfBits_of_stored (is64_of_isUniform wf.1) (imageOfBits_bfiK ..))
    · refine uniformResult_uniOp h ready (exec_uniformSel ..) ?_
      by_cases none : maskRead s.legacy s.cw sl.toNat = 0 <;> simp [none]
  · simp only [Instr.wellFormed, Bool.and_eq_true] at wf
    exact uniformResult_uniOp h ready (exec_uniformBfe ..)
      (imageOfBits_of_stored (is64_of_isUniform wf.1) (imageOfBits_bfeK ..))
  · exact uniformResult_uniOp h ready (exec_uniformMad ..) (mul_add_eq_ofNat ..)

end Sys2Proof.Machine

/-!
The instructions that write a mask register (R131, R134, R136), and O51.
-/

namespace Sys2Proof.Machine

open Safety Claims

/-! ### Conditions (R129) -/

/-- A condition that the encoding admits, in the order of its codes. -/
theorem condInt_eq_getD {c : Nat} (h : c < 6) (x y : Int) : condInt c x y =
    [decide (x = y), decide (x ≠ y), decide (x < y), decide (x ≤ y), decide (y < x), decide (y ≤ x)].getD c false := by
  match c, h with
  | 0, _ => exact beq_eq_decide ..
  | 1, _ => exact (congrArg _ (beq_eq_decide ..)).trans decide_not.symm
  | 2, _ | 3, _ | 4, _ | 5, _ => rfl

/-! ### A whole mask register -/

/-- A uniform or mask instruction that is ready writes its mask. -/
theorem maskResult_uniOp {s : State} {i : Instr} {dep : Deps} {len : Nat} {d : MReg} {x : Lanes} {b : Nat → Bool}
    (h : issuing s) (ready : s.issues s.cw.A dep 0 = true)
    (run : exec i s = s.uniOp dep len (maskWrite s.legacy s.cw d.toNat x)) (bits : ∀ l < 32, x.getLsbD l = b l) :
    MaskResult s i len d b := by
  obtain ⟨u, next, confined, value⟩ := uniM_next s dep len d x h ready
  refine ⟨u, run.trans next, confined, fun l hl => ?_⟩
  rw [value, apply_ite (BitVec.getLsbD · l), legacyMask, legacyMask_getLsbD _ _ hl, bits l hl]

theorem getLsbD_all (c : Bool) {l : Nat} (hl : l < 32) : (if c then BitVec.allOnes 32 else 0).getLsbD l = c := by
  cases c
  · exact BitVec.getLsbD_zero
  · exact BitVec.getLsbD_allOnes.trans (decide_eq_true hl)

/-! ### O51 -/

/-- CMP writes the answers of the lanes of E. -/
theorem compareWritesMask_holds : compareWritesMask := by
  intro s md a b ta tb p ty cond h wf ready
  simp only [Instr.wellFormed, Bool.and_eq_true, decide_eq_true_eq] at wf
  obtain ⟨⟨-, admitted⟩, -⟩ := wf
  obtain ⟨u, next, confined, value⟩ := maskOp_next s p _ 2 md
    (fun _ l => condInt cond.toNat (intOf ty (l.rdTy ty a.toNat)) (intOf ty (l.rdTy ty b.toNat))) h ready
  refine ⟨u, (exec_cmp ..).trans next, confined, fun l hl => ?_⟩
  rw [value l hl, condInt_eq_getD admitted, intOf_eq_num, intOf_eq_num]

/-- The mask instructions, MSET and the uniform CMP write every bit of their register. -/
theorem maskInstructions_holds : maskInstructions := by
  intro s d a b wa wb ta tb ty cond h m
  refine ⟨fun ready q hq => ?_, fun ready => ?_, fun ready wf => ?_⟩
  · simp only [List.mem_cons, List.not_mem_nil, or_false] at hq
    rcases hq with rfl | rfl | rfl | rfl | rfl | rfl
    · exact maskResult_uniOp h ready (exec_mand ..) fun l _ => BitVec.getLsbD_and
    · exact maskResult_uniOp h ready (exec_mor ..) fun l _ => BitVec.getLsbD_or
    · exact maskResult_uniOp h ready (exec_mxor ..) fun l _ => BitVec.getLsbD_xor
    · refine maskResult_uniOp h ready (exec_mandn ..) fun l hl => ?_
      simp [hl, m, State.mask]
    · refine maskResult_uniOp h ready (exec_mnot ..) fun l hl => ?_
      simp [hl, m, State.mask]
    · exact maskResult_uniOp h ready (exec_mmov ..) fun l _ => rfl
  · exact maskResult_uniOp h ready (exec_mset ..) fun l hl => by simp [hl]
  · simp only [Instr.wellFormed, Bool.and_eq_true, decide_eq_true_eq] at wf
    obtain ⟨⟨-, admitted⟩, -⟩ := wf
    exact maskResult_uniOp h ready (exec_uniformCmp ..) fun l hl => (getLsbD_all _ hl).trans (by
      rw [condInt_eq_getD admitted, intOf_eq_num, intOf_eq_num])

/-- Settles O51: CMP, and the instructions that write a whole mask register. -/
theorem maskResults : Obligations.MaskResults := ⟨compareWritesMask_holds, maskInstructions_holds⟩

end Sys2Proof.Machine

/-!
Completed collectives without conditions, and those that write a mask register (R137, R139); the POLLs (R140), and O6.
-/

namespace Sys2Proof.Machine

open Safety Claims

/-! ### What the members bring (R137) -/

theorem rd_freed (w : Welt) (P : Lanes) {l : Nat} (h : l < 32) (r : Nat) :
    ((w.freed P).lane l).rd r = (w.lane l).rd r := by
  rw [lane_freed _ _ h]
  split <;> rfl

theorem x_freed (w : Welt) (P : Lanes) (t : Ty) (a : VReg) {l : Nat} (h : l < 32) :
    (w.freed P).x t a l = (w.lane l).rdTy t a.toNat := by
  simp only [Welt.x, Lane.rdTy, rd_freed w P h]

theorem maskRead_freed (b : Bool) (w : Welt) (P : Lanes) (r : Nat) : maskRead b (w.freed P) r = maskRead b w r :=
  mask_of_m b r (by simp [Welt.freed, Welt.hold])

theorem index_freed (w : Welt) (P : Lanes) : (w.freed P).index = w.index := by simp [Welt.freed, Welt.hold]

theorem map_x_freed (w : Welt) (P : Lanes) (t : Ty) (a : VReg) {ls : List Nat} (h : ∀ l ∈ ls, l < 32) :
    ls.map (fun l => (w.freed P).x t a l) = ls.map fun l => (w.lane l).rdTy t a.toNat :=
  List.map_congr_left fun l hl => x_freed w P t a (h l hl)

theorem nonzero_freed (w : Welt) (P : Lanes) (a : VReg) {l : Nat} (h : l < 32) :
    ((w.freed P).nonzero P a).getLsbD l = (P.getLsbD l && (w.lane l).rdTy .b32 a.toNat != 0) := by
  rw [Welt.nonzero, ofPred_getLsbD _ _ h, x_freed _ _ _ _ h]

/-! ### Results without conditions (R139) -/

theorem fpTrap_zero (fpctl : W32) : fpTrap fpctl 0 = none := by simp [fpTrap]

/-- A collective with vector results and no conditions gives each member its own. -/
theorem memberResult_quiet {s : State} {i : Instr} {p : BitVec 2} {dep : Deps} {mem : MReg} {t : Ty} {d : VReg}
    {f : Lanes → Welt → (Nat → W64) × FlagBits} {R : Nat → W64 → Prop} (h : issuing s)
    (done : completes s (s.E p) mem) (ready : s.issues (s.E p) dep 0 = true) (even : t.evenOk d = true)
    (run : exec i s = s.collVec p dep mem t d f)
    (quiet : (f (members s (s.E p) mem) (s.cw.freed (members s (s.E p) mem))).2 = 0)
    (holds : ∀ l < 32, (members s (s.E p) mem).getLsbD l →
      R l (Ty.stored t ((f (members s (s.E p) mem) (s.cw.freed (members s (s.E p) mem))).1 l))) :
    MemberResult s i (members s (s.E p) mem) 0 t d R := by
  generalize answer : f (members s (s.E p) mem) (s.cw.freed (members s (s.E p) mem)) = r at quiet holds
  obtain ⟨v, fl⟩ := r
  cases quiet
  obtain ⟨u, next, frame, value⟩ := (memberResult_collVec h done ready even run answer).1 (fpTrap_zero _)
  refine ⟨u, next, frame, fun l hl member => ?_⟩
  rw [value l hl member]
  exact holds l hl member

/-! ### Bits in a mask register (R131, R139) -/

/-- The welt with the mask register `r` written, its members `P` released and moved on with the lanes of `a`. -/
def Welt.finishMask (w : Welt) (P a : Lanes) (len : Nat) (b : Bool) (r : Nat) (x : Lanes) : Welt :=
  (maskWrite b (w.freed P) r x).advance (P ||| a) len

section
variable (w : Welt) (P a : Lanes) (len : Nat) (b : Bool) (r : Nat) (x : Lanes)

theorem lane_finishMask {l : Nat} (h : l < 32) : (w.finishMask P a len b r x).lane l =
    let k := if P.getLsbD l then { w.lane l with h := false } else w.lane l
    if (P ||| a).getLsbD l then { k with pc := k.pc + BitVec.ofNat 48 (4 * len), pos := k.pos.next } else k := by
  rw [Welt.finishMask, lane_advance _ _ _ h, lane_congr (maskWrite_lanes ..), lane_freed _ _ h]

theorem only_finishMask : w.Only { w.finishMask P a len b r x with colls := w.colls } := by
  by_cases zero : r = 0 <;>
    simp [Welt.Only, Welt.finishMask, Welt.advance, Welt.mapLanes, maskWrite, zero, Welt.freed, Welt.hold]

theorem registers_finishMask : let u := w.finishMask P a len b r x
    u.w = w.w ∧ u.wfull = w.wfull ∧ u.wbad = w.wbad ∧ u.fpctl = w.fpctl ∧ u.colls = w.otherColls := by
  simp [Welt.finishMask, Welt.freed, Welt.hold]

theorem maskRead_finishMask (q : Nat) :
    maskRead b (w.finishMask P a len b r x) q = maskRead b (maskWrite b w r x) q :=
  mask_of_m _ _ (by by_cases zero : r = 0 <;> simp [Welt.finishMask, maskWrite, zero, Welt.freed, Welt.hold])

end

/-- A completed collective of two words that writes a mask register: its frame, and the mask. -/
theorem done_finishMask {s : State} (P : Lanes) (md : MReg) (x : Lanes) (h : issuing s) :
    let u := s.retireWith (s.cw.finishMask P s.cw.A 2 s.legacy md.toNat x)
    CollectiveDone s u P [] [md.toNat] 0 ∧ maskRead s.legacy u.cw md.toNat =
      if md = 0 then maskRead s.legacy s.cw 0 else legacyMask s.legacy x := by
  obtain ⟨w, wfull, wbad, fpctl, colls⟩ := registers_finishMask s.cw P s.cw.A 2 s.legacy md.toNat x
  obtain ⟨w', wfull', wbad', m', fpctl', colls'⟩ :=
    registers_retireWith s (s.cw.finishMask P s.cw.A 2 s.legacy md.toNat x) h
  have lane {l : Nat} (hl : l < 32) :=
    (lane_retireWith s _ h l).trans (lane_finishMask s.cw P s.cw.A 2 s.legacy md.toNat x hl)
  have mask (q : Nat) := (mask_of_m s.legacy q m').trans (maskRead_finishMask s.cw P s.cw.A 2 s.legacy md.toNat x q)
  refine ⟨{
    outside := outside_retireWith ..
    inside := inside_retireWith_colls h (only_finishMask ..)
    instances := colls'.trans colls
    pc := fun l hl => by rw [lane hl]; cases P.getLsbD l <;> cases (P ||| s.cw.A).getLsbD l <;> rfl
    held := fun l hl => by rw [lane hl]; cases P.getLsbD l <;> cases (P ||| s.cw.A).getLsbD l <;> rfl
    key := fun l hl => by rw [lane hl]; cases P.getLsbD l <;> cases (P ||| s.cw.A).getLsbD l <;> exact ⟨rfl, rfl, rfl⟩
    kept := fun l hl q hq _ => by
      rw [lane hl]; cases P.getLsbD l <;> cases (P ||| s.cw.A).getLsbD l <;> exact ⟨rfl, rfl, rfl⟩
    full := fun _ _ _ _ _ g => absurd g List.not_mem_nil
    uniform := ⟨w'.trans w, wfull'.trans wfull, wbad'.trans wbad⟩
    masks := fun q hq g => by
      rw [mask]
      exact maskRead_maskWrite_other _ _ _ _ _ hq (by simpa using g)
    flags := by rw [fpctl', fpctl]; simp }, (mask _).trans ?_⟩
  split
  next zero =>
    subst zero
    rfl
  next other => exact (maskRead_maskWrite _ _ _ _ _ md.isLt fun z => other (BitVec.eq_of_toNat_eq z)).trans (if_pos rfl)

/-- A collective with a mask result that completes: the bits of its members, and those of other lanes as they were. -/
theorem memberBits_collMask {s : State} {i : Instr} {p : BitVec 2} {dep : Deps} {mem md : MReg}
    {f : Lanes → Welt → Nat → Bool} {b : Nat → Bool} (h : issuing s) (done : completes s (s.E p) mem)
    (ready : s.issues (s.E p) dep 0 = true) (run : exec i s = s.collMask p dep mem md f)
    (bits : ∀ l < 32, (members s (s.E p) mem).getLsbD l →
      f (members s (s.E p) mem) (s.cw.freed (members s (s.E p) mem)) l = b l) :
    MemberBits s i (members s (s.E p) mem) md b := by
  rw [State.collMask, issue_go _ _ _ _ _ ready, collective_completes done] at run
  obtain ⟨frame, mask⟩ := done_finishMask _ md _ h
  refine ⟨_, run, frame, fun l hl => (congrArg (BitVec.getLsbD · l) mask).trans ?_⟩
  rw [apply_ite (BitVec.getLsbD · l), legacyMask, legacyMask_getLsbD _ _ hl, ofPred_getLsbD _ _ hl]
  cases member : (members s (s.E p) mem).getLsbD l
  · simp [maskRead_freed]
  · simp [bits l hl member]

/-! ### Questions to the members (R140) -/

theorem stored_b32 (x : W32) : Ty.stored .b32 (x.setWidth 64) = x.setWidth 64 := by simp [Ty.stored, Ty.is64]

/-- A number of lanes fits a register. -/
theorem stored_count (m : Lanes) :
    Ty.stored .b32 (BitVec.ofNat 64 (Lanes.count m)) = BitVec.ofNat 64 (Lanes.count m) := by
  have few : Lanes.count m ≤ 32 := (List.length_filter_le ..).trans_eq List.length_range
  refine setWidth_of_lt (t := .b32) ?_
  rw [BitVec.toNat_ofNat, Nat.mod_eq_of_lt (by omega)]
  exact Nat.lt_of_le_of_lt few (by decide)

theorem ne_zero_eq_any {m : Lanes} {b : Nat → Bool} (h : ∀ l < 32, m.getLsbD l = b l) :
    (m != 0) = (List.range 32).any b := by
  rw [Bool.eq_iff_iff, bne_iff_ne, lanes_ne_zero_iff, List.any_eq_true]
  simp only [List.mem_range]
  exact exists_congr fun l => and_congr_right fun hl => by rw [h l hl]

theorem eq_members_eq_all {m P : Lanes} {b : Nat → Bool} (h : ∀ l < 32, m.getLsbD l = (P.getLsbD l && b l)) :
    (m == P) = (List.range 32).all fun l => !(P.getLsbD l) || b l := by
  rw [Bool.eq_iff_iff, beq_iff_eq, BitVec.eq_of_getLsbD_eq_iff, List.all_eq_true]
  simp only [List.mem_range]
  refine forall₂_congr fun l hl => ?_
  rw [h l hl]
  cases P.getLsbD l <;> simp

/-- A test of all pairs of members, as one of all pairs of lanes. -/
theorem all_nats_pairs {P : Lanes} {b c : Nat → Nat → Bool} (h : ∀ j < 32, ∀ k < 32, b j k = c j k) :
    ((Lanes.nats P).all fun j => (Lanes.nats P).all (b j)) =
      (List.range 32).all fun j => (List.range 32).all fun k => !(P.getLsbD j && P.getLsbD k) || c j k := by
  rw [Bool.eq_iff_iff]
  simp only [List.all_eq_true, mem_nats, List.mem_range, and_imp]
  refine forall₂_congr fun j hj => ?_
  cases P.getLsbD j
  · simp
  · refine (forall_prop_of_true rfl).trans (forall₂_congr fun k hk => ?_)
    rw [h j hj k hk]
    cases P.getLsbD k <;> simp

/-- A member is the first of all where no lane below it is one. -/
theorem head?_nats_eq_some {P : Lanes} {l : Nat} (hl : l < 32) (member : P.getLsbD l = true) :
    ((Lanes.nats P).head? == some l) = decide (∀ j < l, P.getLsbD j = false) := by
  rw [Lanes.nats, List.head?_filter, Bool.eq_iff_iff, beq_iff_eq, List.find?_range_eq_some]
  simp [hl, member]

/-! ### O6 -/

/-- Settles O6: the vector and the mask results by their bits. -/
theorem pollsReportMembers : Obligations.PollsReportMembers := by
  intro s d a md mem ta p ty h done P x
  have nonzero (l : Nat) (hl : l < 32) : ((s.cw.freed P).nonzero P a).getLsbD l = (P.getLsbD l && x .b32 l != 0) :=
    nonzero_freed s.cw P a hl
  refine ⟨fun ready => ⟨?_, ?_⟩, fun raw ready => ?_, fun ready => ⟨?_, ?_⟩, fun raw ready => ?_, fun ready => ⟨?_, ?_⟩⟩
  · refine memberResult_quiet h done ready rfl (exec_pollMask ..) rfl fun l _ _ j hj => ?_
    rw [stored_b32, BitVec.getLsbD_setWidth, nonzero j hj, decide_eq_true (Nat.lt_trans hj (by decide)), Bool.true_and]
  · refine memberResult_quiet h done ready rfl (exec_pollCount ..) rfl fun l _ _ => (stored_count _).trans ?_
    exact congrArg (fun ls => BitVec.ofNat 64 ls.length) (List.filter_congr fun j hj => nonzero j (List.mem_range.1 hj))
  · refine memberResult_quiet h done ready rfl (exec_pollPeers ..) rfl fun l hl _ j hj => ?_
    rw [stored_b32, BitVec.getLsbD_setWidth, ofPred_getLsbD _ _ hj, x_freed _ _ _ _ hj, x_freed _ _ _ _ hl,
      decide_eq_true (Nat.lt_trans hj (by decide)), Bool.true_and]
  · exact memberBits_collMask h done ready (exec_pollSome ..) fun l _ _ => ne_zero_eq_any nonzero
  · exact memberBits_collMask h done ready (exec_pollEvery ..) fun l _ _ => eq_members_eq_all nonzero
  · refine memberBits_collMask h done ready (exec_pollSame ..) fun l _ _ => all_nats_pairs fun j hj k hk => ?_
    rw [x_freed _ _ _ _ hj, x_freed _ _ _ _ hk]
  · exact memberBits_collMask h done ready (exec_pollLead ..) fun l hl member => head?_nats_eq_some hl member
  · exact memberBits_collMask h done ready (exec_pollLeadWelt ..) fun l _ _ => by rw [index_freed, beq_eq_decide]

end Sys2Proof.Machine

/-!
PASS (R141) and O7; FOLD and SCAN of integers and bits (R142), and O8.
-/

namespace Sys2Proof.Machine

open Safety Claims

/-! ### O7 -/

theorem stored_rdTy (t : Ty) (l : Lane) (r : Nat) : Ty.stored t (l.rdTy t r) = l.rdTy t r := by
  cases pair : t.is64 <;> simp [Ty.stored, Lane.rdTy, pair]

theorem stored_ite_zero (t : Ty) (z : Bool) (l : Lane) (r : Nat) :
    Ty.stored t (if z then 0 else l.rdTy t r) = if z then 0 else l.rdTy t r := by
  cases z
  · exact stored_rdTy t l r
  · simp [Ty.stored]

/-- What a member gets of a source lane: its value if it is a member, and else zero, or the member's own (R141). -/
theorem memberResult_pass {s : State} {i : Instr} {d a b : VReg} {mem : MReg} {ta tb z im : Bool} {p : BitVec 2}
    {ty : Ty} {imm : BitVec 5} {src : Nat → Nat → Option Nat} (h : issuing s) (done : completes s (s.E p) mem)
    (ready : s.issues (s.E p) ((if im then ({} : Deps).src ta (regsOf ty a.toNat)
      else (({} : Deps).src ta (regsOf ty a.toNat)).src tb [b.toNat]).dst (regsOf ty d.toNat)) 0 = true)
    (even : ty.evenOk d = true) (run : exec i s = s.pass d a b ta tb p z ty imm im mem src) :
    MemberResult s i (members s (s.E p) mem) 0 ty d fun l y =>
      let from_ := (src l (if im then imm.toNat else ((s.cw.lane l).rd b.toNat).toNat)).map fun k =>
        if s.legacy ∧ 16 ≤ k then k - 16 else k
      (∀ k, from_ = some k → (members s (s.E p) mem).getLsbD k → y = (s.cw.lane k).rdTy ty a.toNat) ∧
        ((∀ k, from_ = some k → (members s (s.E p) mem).getLsbD k = false) →
          y = if z then 0 else (s.cw.lane l).rdTy ty a.toNat) := by
  have own (k : Nat) (member : (members s (s.E p) mem).getLsbD k = true) :=
    x_freed s.cw (members s (s.E p) mem) ty a (BitVec.lt_of_getLsbD member)
  refine memberResult_quiet h done ready even run rfl fun l hl member => ?_
  have kept := stored_ite_zero ty z (s.cw.lane l) a.toNat
  simp only [rd_freed _ _ hl, Bool.and_eq_true, decide_eq_true_eq, own l member]
  cases (src l (if im then imm.toNat else ((s.cw.lane l).rd b.toNat).toNat)).map fun k =>
      if s.legacy ∧ 16 ≤ k then k - 16 else k with
  | none => simpa using kept
  | some k =>
    cases serves : (members s (s.E p) mem).getLsbD k
    · simpa [serves] using kept
    · simp [serves, own k serves, stored_rdTy]

/-- Settles O7: each PASS by its source lane. -/
theorem passHandsOver : Obligations.PassHandsOver := by
  intro s d a b mem ta tb z im p ty imm h done ready P x dist q hq wf
  simp only [List.mem_cons, List.not_mem_nil, or_false] at hq
  have even : ty.evenOk d = true := by
    rcases hq with rfl | rfl | rfl | rfl | rfl <;> simp only [Instr.wellFormed, Bool.and_eq_true] at wf
    all_goals tauto
  rcases hq with rfl | rfl | rfl | rfl | rfl
  · exact memberResult_pass h done ready even (exec_passFrom ..)
  · exact memberResult_pass h done ready even
      ((exec_passBack ..).trans (by simp only [execPassBack, ← Nat.not_le, ite_not]))
  · exact memberResult_pass h done ready even
      ((exec_passAhead ..).trans (by simp only [execPassAhead, ← Nat.not_le, ite_not]))
  · exact memberResult_pass h done ready even (exec_passSwap ..)
  · exact memberResult_pass h done ready even (exec_passTurn ..)

/-! ### Numbers over the members (R142) -/

theorem nats_lt {P : Lanes} : ∀ l ∈ Lanes.nats P, l < 32 := fun _ h => (mem_nats.1 h).1

theorem nats_ne_nil {P : Lanes} (h : P ≠ 0) : Lanes.nats P ≠ [] := by
  obtain ⟨l, hl, member⟩ := (lanes_ne_zero_iff P).1 h
  exact List.ne_nil_of_mem (mem_nats.2 ⟨hl, member⟩)

theorem foldl_min_headD {xs : List Int} (h : xs ≠ []) :
    xs.foldl min (xs.headD 0) ∈ xs ∧ ∀ y ∈ xs, xs.foldl min (xs.headD 0) ≤ y := by
  obtain ⟨x, xs, rfl⟩ := List.exists_cons_of_ne_nil h
  refine List.min?_eq_some_iff.1 ?_
  rw [List.min?_cons', List.headD_cons, List.foldl_cons, min_self]

theorem foldl_max_headD {xs : List Int} (h : xs ≠ []) :
    xs.foldl max (xs.headD 0) ∈ xs ∧ ∀ y ∈ xs, y ≤ xs.foldl max (xs.headD 0) := by
  obtain ⟨x, xs, rfl⟩ := List.exists_cons_of_ne_nil h
  refine List.max?_eq_some_iff.1 ?_
  rw [List.max?_cons', List.headD_cons, List.foldl_cons, max_self]

/-- The numbers that the members bring, ascending. -/
def State.memberNums (s : State) (t : Ty) (a : VReg) (P : Lanes) : List Int :=
  (Lanes.nats P).map fun l => num t ((s.cw.lane l).rdTy t a.toNat)

theorem mem_memberNums {s : State} {t : Ty} {a : VReg} {P : Lanes} {n : Int} : n ∈ s.memberNums t a P ↔
    ∃ l < 32, P.getLsbD l ∧ n = num t ((s.cw.lane l).rdTy t a.toNat) := by
  simp only [State.memberNums, List.mem_map, mem_nats, and_assoc, eq_comm]

theorem nums_freed (s : State) (t : Ty) (a : VReg) (P : Lanes) {ls : List Nat} (h : ∀ l ∈ ls, l < 32) :
    (ls.map fun l => intOf t ((s.cw.freed P).x t a l)) = ls.map fun l => num t ((s.cw.lane l).rdTy t a.toNat) :=
  List.map_congr_left fun l hl => by rw [x_freed _ _ _ _ (h l hl), intOf_eq_num]

/-- What the operation of a FOLD of integers gives of some numbers: 0 their sum, 1 the least, 2 the greatest. -/
def joinNums (xs : List Int) : Nat → Int
  | 0 => xs.foldl (· + ·) 0
  | 1 => xs.foldl min (xs.headD 0)
  | _ => xs.foldl max (xs.headD 0)

/-- FOLD of integers wraps what its operation gives of the members' numbers. -/
theorem stored_foldNumber (s : State) {t : Ty} (op : Nat) (a : VReg) (P : Lanes) (ht : t.isFloat = false) (l : Nat) :
    Ty.stored t ((foldNumber t op a P (s.cw.freed P)).1 l) = image t (joinNums (s.memberNums t a P) op) := by
  simp only [foldNumber, ht, Bool.false_eq_true, if_false, nums_freed s t a P nats_lt]
  match op with
  | 0 | 1 | _ + 2 => exact stored_wrapTo ..

theorem foldNumber_quiet {t : Ty} (op : Nat) (a : VReg) (P : Lanes) (w : Welt) (ht : t.isFloat = false) :
    (foldNumber t op a P w).2 = 0 := by
  simp [foldNumber, ht]

/-- A member's number that bounds those of all, as a result. -/
theorem image_of_bound {s : State} {t : Ty} {a : VReg} {P : Lanes} {z : Int} {le : Int → Int → Prop}
    (bound : z ∈ s.memberNums t a P ∧ ∀ y ∈ s.memberNums t a P, le z y) :
    (∃ j < 32, P.getLsbD j ∧ image t z = image t (num t ((s.cw.lane j).rdTy t a.toNat))) ∧
      ∀ j < 32, P.getLsbD j → le (num t (image t z)) (num t ((s.cw.lane j).rdTy t a.toNat)) := by
  obtain ⟨⟨k, hk, member, rfl⟩, least⟩ := And.imp_left mem_memberNums.1 bound
  rw [num_image_num]
  exact ⟨⟨k, hk, member, rfl⟩, fun j hj hp => least _ (mem_memberNums.2 ⟨j, hj, hp, rfl⟩)⟩

/-- The members that a SCAN takes for lane `l`, ascending. -/
def takenBy (P : Lanes) (inc : Bool) (l : Nat) : List Nat :=
  (List.range 32).filter fun j => P.getLsbD j && if inc then decide (j ≤ l) else decide (j < l)

theorem takenBy_eq (P : Lanes) (inc : Bool) (l : Nat) :
    ((Lanes.nats P).filter fun j => if inc then decide (j ≤ l) else decide (j < l)) = takenBy P inc l := by
  simp only [Lanes.nats, takenBy, List.filter_filter, Bool.and_comm]

theorem takenBy_lt {P : Lanes} {inc : Bool} {l : Nat} : ∀ j ∈ takenBy P inc l, j < 32 :=
  fun _ hj => List.mem_range.1 (List.mem_filter.1 hj).1

/-- SCAN of integers wraps the sum of the numbers of the members that it takes. -/
theorem stored_scanSum (s : State) {t : Ty} (inc : Bool) (a : VReg) (P : Lanes) (ht : t.isFloat = false) (l : Nat) :
    Ty.stored t ((scanSum t inc a P (s.cw.freed P)).1 l) =
      image t ((takenBy P inc l).map fun j => num t ((s.cw.lane j).rdTy t a.toNat)).sum := by
  simp only [scanSum, ht, Bool.false_eq_true, if_false, takenBy_eq]
  rw [stored_wrapTo, List.sum_eq_foldl, ← nums_freed s t a P takenBy_lt, List.foldl_map]

theorem scanSum_quiet {t : Ty} (inc : Bool) (a : VReg) (P : Lanes) (w : Welt) (ht : t.isFloat = false) :
    (scanSum t inc a P w).2 = 0 := by
  simp [scanSum, ht]

/-! ### Bits over the members (R142) -/

theorem getLsbD_foldl {n j : Nat} {f : BitVec n → BitVec n → BitVec n} {g : Bool → Bool → Bool}
    (bit : ∀ x y, (f x y).getLsbD j = g (x.getLsbD j) (y.getLsbD j)) (x : BitVec n) (xs : List (BitVec n)) :
    (xs.foldl f x).getLsbD j = (xs.map (·.getLsbD j)).foldl g (x.getLsbD j) := by
  induction xs generalizing x with
  | nil => rfl
  | cons y ys ih => rw [List.foldl_cons, ih, bit, List.map_cons, List.foldl_cons]

theorem foldl_and_eq_all (b : Bool) (l : List Bool) : l.foldl (· && ·) b = (b :: l).all id := by
  induction l generalizing b with
  | nil => simp
  | cons c l ih => simp [ih (b && c), Bool.and_assoc]

theorem foldl_or_eq_any (b : Bool) (l : List Bool) : l.foldl (· || ·) b = (b :: l).any id := by
  induction l generalizing b with
  | nil => simp
  | cons c l ih => simp [ih (b || c), Bool.or_assoc]

theorem foldl_bne_eq (b : Bool) (l : List Bool) : l.foldl (· != ·) b = (b :: l).foldl (· != ·) false := by
  rw [List.foldl_cons, Bool.false_bne]

theorem getLsbD_stored {t : Ty} (x : W64) {j : Nat} (h : j < t.width) : (Ty.stored t x).getLsbD j = x.getLsbD j := by
  have narrow : ¬t.is64 = true → t.width ≤ 32 := by cases t <;> decide
  unfold Ty.stored
  split
  · rfl
  next single =>
    have := narrow single
    rw [BitVec.getLsbD_setWidth, BitVec.getLsbD_setWidth, decide_eq_true (by omega), decide_eq_true (by omega),
      Bool.true_and, Bool.true_and]

/-- FOLD of bits gives, bit by bit, what its operation gives of the members' bits. -/
theorem getLsbD_foldBits (s : State) (t : Ty) {f : W64 → W64 → W64} {g : Bool → Bool → Bool} {all : List Bool → Bool}
    (a : VReg) {P : Lanes} (hP : P ≠ 0) (bit : ∀ j x y, (f x y).getLsbD j = g (x.getLsbD j) (y.getLsbD j))
    (joins : ∀ b l, List.foldl g b l = all (b :: l)) (l : Nat) {j : Nat} (hj : j < t.width) :
    (Ty.stored t ((foldBits t f a P (s.cw.freed P)).1 l)).getLsbD j =
      all ((Lanes.nats P).map fun k => ((s.cw.lane k).rdTy t a.toNat).getLsbD j) := by
  rw [getLsbD_stored _ hj, foldBits, map_x_freed _ _ _ _ nats_lt]
  obtain ⟨k, ks, members⟩ := List.exists_cons_of_ne_nil (nats_ne_nil hP)
  rw [members, List.map_cons, List.map_cons, ← joins]
  exact (getLsbD_foldl (bit j) _ _).trans (congrArg (List.foldl g _) List.map_map)

theorem foldBits_quiet (t : Ty) (f : W64 → W64 → W64) (a : VReg) (P : Lanes) (w : Welt) :
    (foldBits t f a P w).2 = 0 := by
  unfold foldBits
  split <;> rfl

/-! ### O8 -/

/-- Settles O8: the numbers of the members by their sums and bounds, their bits one by one. -/
theorem foldsAndScans : Obligations.FoldsAndScans := by
  intro s d a mem ta p ty h done ready P x n sum
  have nonempty : P ≠ 0 := members_ne_zero mem done.1
  refine ⟨fun number q hq wf => ?_, fun q hq wf => ?_⟩
  · simp only [List.mem_cons, List.not_mem_nil, or_false] at hq
    have ht : ty.isFloat = false := by revert number; cases ty <;> decide
    have nums : s.memberNums ty a P ≠ [] := fun none => nats_ne_nil nonempty (List.map_eq_nil_iff.1 none)
    have even : ty.evenOk d = true := by
      rcases hq with rfl | rfl | rfl | rfl | rfl <;> simp only [Instr.wellFormed, Bool.and_eq_true] at wf
      all_goals
        obtain ⟨⟨-, even⟩, -⟩ := wf
        exact even
    rcases hq with rfl | rfl | rfl | rfl | rfl
    · refine memberResult_quiet h done ready even (exec_foldAdd ..) (foldNumber_quiet 0 a P _ ht) fun l _ _ => ?_
      refine (stored_foldNumber s 0 a P ht l).trans ?_
      simp only [joinNums, ← List.sum_eq_foldl, sum, Bool.and_true]
      rfl
    · refine memberResult_quiet h done ready even (exec_foldMin ..) (foldNumber_quiet 1 a P _ ht) fun l _ _ => ?_
      rw [stored_foldNumber s 1 a P ht l]
      exact image_of_bound (foldl_min_headD nums)
    · refine memberResult_quiet h done ready even (exec_foldMax ..) (foldNumber_quiet 2 a P _ ht) fun l _ _ => ?_
      rw [stored_foldNumber s 2 a P ht l]
      exact image_of_bound (le := fun z y => y ≤ z) (foldl_max_headD nums)
    · exact memberResult_quiet h done ready even (exec_scanInc ..) (scanSum_quiet true a P _ ht) fun l _ _ =>
        stored_scanSum s true a P ht l
    · exact memberResult_quiet h done ready even (exec_scanExc ..) (scanSum_quiet false a P _ ht) fun l _ _ =>
        stored_scanSum s false a P ht l
  · simp only [List.mem_cons, List.not_mem_nil, or_false] at hq
    have even : ty.evenOk d = true := by
      rcases hq with rfl | rfl | rfl <;> simp only [Instr.wellFormed, Bool.and_eq_true] at wf
      all_goals
        obtain ⟨⟨-, even⟩, -⟩ := wf
        exact even
    rcases hq with rfl | rfl | rfl
    · exact memberResult_quiet h done ready even (exec_foldAnd ..) (foldBits_quiet ..) fun l _ _ _ hj =>
        getLsbD_foldBits s ty a nonempty (fun _ _ _ => BitVec.getLsbD_and) foldl_and_eq_all l hj
    · exact memberResult_quiet h done ready even (exec_foldOr ..) (foldBits_quiet ..) fun l _ _ _ hj =>
        getLsbD_foldBits s ty a nonempty (fun _ _ _ => BitVec.getLsbD_or) foldl_or_eq_any l hj
    · exact memberResult_quiet h done ready even (exec_foldXor ..) (foldBits_quiet ..) fun l _ _ _ hj =>
        getLsbD_foldBits s ty a nonempty (fun _ _ _ => BitVec.getLsbD_xor) foldl_bne_eq l hj

end Sys2Proof.Machine

/-!
FFMA, FSQRT (R153) and the approximate functions (R155), and O12.
-/

namespace Sys2Proof.Machine

open Safety Claims

/-! ### Approximate results lie within the type (R155) -/

theorem within_approxPick {t : Ty} {base : FVal} (flush : Bool) (op : Nat) (bits : W64) (bound x : Rat)
    (h : base.within t) : (approxPick t flush op bits bound x base).within t := by
  have offered := within_decodeF t (BitVec.ofNat 64 (Config.ulpPick op t.code.toNat bits.toNat % 2 ^ t.width))
  unfold approxPick
  generalize decodeF t _ = c at offered
  cases c with
  | fin n q => exact iteInduction (fun _ => offered) fun _ => h
  | _ => exact h

theorem within_approx (t : Ty) (flush : Bool) (op : Nat) (bits : W64) (bound : Nat) (x : Rat) :
    (approx t flush op bits bound x).1.within t := by
  unfold approx
  simp only
  split
  · exact within_zero ..
  split
  · trivial
  next fits =>
    have base (n : Bool) := within_approxPick (base := .fin n _) flush op bits
      (bound * pow2 (max (ilog2 |x|) (gridOf t).emin - ((gridOf t).p - 1))) x
      ⟨roundStep_nonneg (pow2_pos _) (abs_nonneg x), (not_lt.1 fits).trans_lt (max_lt t)⟩
    split
    · cases flush
      · exact base _
      · exact within_zero ..
    · exact base _

theorem within_roundRat (t : Ty) (flush : Bool) (mode : Mode) (zeroNeg : Bool) (x : Rat) :
    (roundRat t flush mode zeroNeg x).1.within t := within_finish t flush mode (.real x zeroNeg)

theorem within_approxAbs (t : Ty) (flush : Bool) (op : Nat) (bits : W64) (x : Rat) :
    (approxAbs t flush op bits x).1.within t := within_approxPick _ _ _ _ _ (within_roundRat ..)

theorem within_rcpA {t : Ty} {a : FVal} (flush : Bool) (bits : W64) (h : a.within t) :
    (rcpA t flush bits a).1.within t := by
  cases a with
  | nan _ => trivial
  | inf n => exact within_zero t n
  | fin n q =>
    unfold rcpA
    simp only
    split
    · trivial
    split
    · exact within_roundTo _ _ _ _ (one_div_nonneg.2 h.1)
    · exact within_approx ..

theorem within_rsqA (t : Ty) (flush : Bool) (bits : W64) (a : FVal) : (rsqA t flush bits a).1.within t := by
  cases a with
  | nan _ => trivial
  | inf n =>
    cases n
    · exact within_zero t false
    · trivial
  | fin n q =>
    unfold rsqA
    simp only
    split
    · trivial
    split
    · trivial
    split
    · exact within_roundTo _ _ _ _ (pow2_pos _).le
    · exact within_approx ..

theorem within_one (t : Ty) (neg : Bool) : (FVal.fin neg 1).within t := by
  refine ⟨zero_le_one, ?_⟩
  calc (1 : Rat) < 2 := one_lt_two
    _ = pow2 1 := by simp [pow2]
    _ ≤ _ := pow2_le_pow2 (by omega)

theorem within_exp2A (t : Ty) (flush : Bool) (bits : W64) (a : FVal) : (exp2A t flush bits a).1.within t := by
  cases a with
  | nan _ => trivial
  | inf n =>
    cases n
    · trivial
    · exact within_zero t false
  | fin n q =>
    unfold exp2A
    simp only
    split
    · exact within_one t false
    split
    · cases n
      · trivial
      · exact within_approx ..
    generalize (if n then -q else q : Rat) = x
    split
    · exact within_roundTo _ _ _ _ (pow2_pos _).le
    · exact within_approx ..

/-! ### The least magnitude of a type (R102, R155) -/

/-- A value whose magnitude is zero or no less than the least subnormal one of the type. -/
def FVal.atLeast (t : Ty) : FVal → Prop
  | .fin _ q => q = 0 ∨ pow2 (1 - Ty.bias t - Ty.mbits t) ≤ q
  | _ => True

theorem atLeast_decodeF (t : Ty) (bits : W64) : (decodeF t bits).atLeast t := by
  have whole {n : Nat} {e : Int} (hn : n ≠ 0) (he : 1 - (Ty.bias t : Int) - Ty.mbits t ≤ e) :
      pow2 (1 - (Ty.bias t : Int) - Ty.mbits t) ≤ n * pow2 e :=
    (pow2_le_pow2 he).trans (le_mul_of_one_le_left (pow2_pos e).le (Nat.one_le_cast.2 (Nat.one_le_iff_ne_zero.2 hn)))
  unfold decodeF
  simp only
  split
  · split <;> trivial
  split
  next =>
    by_cases zero : bits.toNat % 2 ^ Ty.mbits t = 0
    · exact .inl (by rw [zero, Nat.cast_zero, zero_mul])
    · exact .inr (whole zero le_rfl)
  next normal =>
    have unit := Nat.two_pow_pos (Ty.mbits t)
    exact .inr (whole (by omega) (by omega))

theorem atLeast_flushIn {t : Ty} {x : FVal} (flush : Bool) (h : x.atLeast t) : (flushIn t flush x).atLeast t := by
  cases x with
  | fin n q =>
    unfold flushIn
    simp only
    split
    · exact .inl rfl
    · exact h
  | _ => trivial

theorem atLeast_abs {t : Ty} {x : FVal} (h : x.atLeast t) : x.abs.atLeast t := by cases x <;> exact h

theorem atLeast_negate {t : Ty} {x : FVal} (h : x.atLeast t) : x.negate.atLeast t := by cases x <;> exact h

theorem atLeast_srcF (s : State) (t : Ty) (l : Lane) (r : VReg) (n a : Bool) : (s.srcF t l r n a).atLeast t := by
  have read := atLeast_flushIn (flushes s.cw.fpctl t) (atLeast_decodeF t (l.rdTy t r.toNat))
  unfold State.srcF
  cases a <;> cases n
  · exact read
  · exact atLeast_negate read
  · exact atLeast_abs read
  · exact atLeast_negate (atLeast_abs read)

/-- The exponent of a magnitude of a type is itself below the largest magnitude of the type. -/
theorem within_exponent {t : Ty} {n : Bool} {q : Rat} (pos : 0 < q) (small : (FVal.fin n q).within t)
    (large : (FVal.fin n q).atLeast t) (neg : Bool) : (FVal.fin neg (((ilog2 q).natAbs : Nat) : Rat)).within t := by
  have room : Ty.bias t + Ty.mbits t < 2 ^ (Ty.bias t + 1) := by
    have bias : Ty.mbits t ≤ Ty.bias t + 1 := by cases t <;> decide
    have := Nat.lt_two_pow_self (n := Ty.bias t)
    rw [pow_succ]
    omega
  have low : 1 - (Ty.bias t : Int) - Ty.mbits t < ilog2 q + 1 :=
    lt_of_pow2_lt ((large.resolve_left pos.ne').trans_lt (ilog2_bounds pos).2)
  have high : ilog2 q < Ty.bias t + 1 := ilog2_lt pos small.2
  refine ⟨Nat.cast_nonneg _, ?_⟩
  rw [← Nat.cast_add_one, pow2_natCast]
  exact_mod_cast (show (ilog2 q).natAbs < 2 ^ (Ty.bias t + 1) by omega)

theorem within_log2A {t : Ty} {a : FVal} (flush : Bool) (bits : W64) (h : a.within t) (g : a.atLeast t) :
    (log2A t flush bits a).1.within t := by
  cases a with
  | nan _ => trivial
  | inf n => cases n <;> trivial
  | fin n q =>
    unfold log2A
    simp only
    split
    · trivial
    next nonzero =>
      split
      · trivial
      split
      · exact within_exponent (lt_of_le_of_ne h.1 (Ne.symm nonzero)) h g _
      split
      · exact within_approxAbs ..
      · exact within_approx ..

/-! ### O12 -/

theorem is64_of_isFloat {t : Ty} (h : t.isFloat = true) (g : t ≠ .f64) : t.is64 = false := by
  revert h g
  cases t <;> decide

/-- A one-source form, its results stored as the stated ones. -/
theorem floatResult_float1 {s : State} {i : Instr} {d a : VReg} {ta : Bool} {p : BitVec 2} {t : Ty} {na aa : Bool}
    {price len : Nat} {f : FVal → W64 × FlagBits} {R : Lane → W64 × FlagBits} (h : issuing s)
    (ready : s.issues (s.E p) (deps1 t d a ta) price = true) (even : t.is64 = true → d.toNat % 2 = 0)
    (run : exec i s = s.float1 d a ta p t na aa price len f)
    (stores : ∀ l, Stores t (f (s.srcF t l a na aa)) (R l)) : FloatResult s i len (s.E p) t d price fun _ => R :=
  floatResult_floatOp h ready even run fun _ => stores

/-- An approximate function whose results lie within the type (R155). -/
theorem floatResult_approx {s : State} {i : Instr} {d a : VReg} {ta : Bool} {p : BitVec 2} {t : Ty} {na aa : Bool}
    {f : Ty → Bool → W64 → FVal → FVal × FlagBits} (h : issuing s)
    (ready : s.issues (s.E p) (deps1 t d a ta) 1 = true) (float : t.isFloat = true) (notDouble : t ≠ .f64)
    (run : exec i s = s.approx1 d a ta p t na aa f)
    (within : ∀ flush bits l, (f t flush bits (s.srcF t l a na aa)).1.within t) :
    FloatResult s i 2 (s.E p) t d 1 fun _ l => asBits t (f t (s.cw.fpctl.getLsbD (flushBit t))
      (encodeF t (source s t l a na aa)) (source s t l a na aa)) :=
  floatResult_float1 h ready (by simp [is64_of_isFloat float notDouble]) run fun _ => stores_encodeF _ float (within ..)

/-- Settles O12: the rounded forms, and the approximate functions by the range of their results. -/
theorem floatOtherArithmetic : Obligations.FloatOtherArithmetic := by
  intro s d a b c ta tb tc na aa nb ab nc ac p ty rm h
  refine ⟨fun wf ready => ?_, fun ready => ?_, fun wf ready => ?_, fun ready q hq wf => ?_⟩
  · simp only [Instr.wellFormed, Bool.and_eq_true] at wf
    obtain ⟨⟨⟨⟨⟨⟨float, even⟩, -⟩, -⟩, -⟩, -⟩, -⟩ := wf
    exact floatResult_floatOp h ready (even_of_evenOk even) (exec_ffma ..) fun _ _ =>
      stores_encodeF _ float (within_finish ..)
  · exact floatResult_float1 h ready nofun (exec_fsqrt ..) fun _ => stores_encodeF _ rfl (within_finish ..)
  · simp only [Instr.wellFormed, Bool.and_eq_true] at wf
    obtain ⟨⟨⟨⟨float, even⟩, -⟩, -⟩, -⟩ := wf
    exact floatResult_float1 h ready (even_of_evenOk even) (exec_fsqrtX ..) fun _ =>
      stores_encodeF _ float (within_finish ..)
  · simp only [List.mem_cons, List.not_mem_nil, or_false] at hq
    obtain ⟨float, notDouble⟩ : ty.isFloat = true ∧ ty ≠ .f64 := by
      rcases hq with rfl | rfl | rfl | rfl <;> simpa [Instr.wellFormed] using wf
    rcases hq with rfl | rfl | rfl | rfl
    · exact floatResult_approx h ready float notDouble (exec_frcpA ..) fun _ _ _ => within_rcpA _ _ (within_srcF ..)
    · exact floatResult_approx h ready float notDouble (exec_frsqA ..) fun _ _ _ => within_rsqA ..
    · exact floatResult_approx h ready float notDouble (exec_fexp2A ..) fun _ _ _ => within_exp2A ..
    · exact floatResult_approx h ready float notDouble (exec_flog2A ..) fun _ _ _ =>
        within_log2A _ _ (within_srcF ..) (atLeast_srcF ..)

end Sys2Proof.Machine

/-!
FCMP and FCLASS (R156, R157), and O15.
-/

namespace Sys2Proof.Machine

open Safety Claims

/-! ### A comparison (R110, R131, R156) -/

/-- A welt with the answers of the lanes of `e` in a mask register (R131). -/
def Welt.answered (w : Welt) (b : Bool) (e : Lanes) (md : MReg) (r : Nat → Bool) : Welt :=
  maskWrite b w md.toNat (Lanes.ofPred fun i => if e.getLsbD i then r i else (maskRead b w md.toNat).getLsbD i)

theorem maskRead_answered (w : Welt) (b : Bool) (e : Lanes) (md : MReg) (r : Nat → Bool) {l : Nat} (hl : l < 32) :
    (maskRead b (w.answered b e md r) md.toNat).getLsbD l =
      if md = 0 then (maskRead b w 0).getLsbD l else if b && decide (16 ≤ l) then false
      else if e.getLsbD l then r l else (maskRead b w md.toNat).getLsbD l := by
  split
  next zero =>
    subst zero
    rfl
  next other =>
    rw [Welt.answered, maskRead_maskWrite _ _ _ _ _ md.isLt fun z => other (BitVec.eq_of_toNat_eq z), if_pos rfl,
      legacyMask_getLsbD _ _ hl, ofPred_getLsbD _ _ hl]

/-- Answers in a mask register and flags: the frame, and the bits of the register. -/
theorem retire_answered (s : State) (e : Lanes) (md : MReg) (r : Nat → Bool) (fl : FlagBits) (len : Nat)
    (h : issuing s) :
    let u := s.retire ((s.cw.answered s.legacy e md r).flagged fl) len
    Confined s u len 0 [] [] [md.toNat] fl ∧ ∀ l < 32, (maskRead s.legacy u.cw md.toNat).getLsbD l =
      if md = 0 then (maskRead s.legacy s.cw 0).getLsbD l else if s.legacy && decide (16 ≤ l) then false
      else if e.getLsbD l then r l else (maskRead s.legacy s.cw md.toNat).getLsbD l := by
  have effect : s.cw.Effect (s.cw.answered s.legacy e md r) 0 [] :=
    effect_of_lanes (Welt.only_maskWrite s.cw.only_refl ..) (maskWrite_lanes ..)
  refine ⟨retire_confined _ _ _ _ _ _ _ _ h (effect_flagged effect fl) (fun q _ _ => ?_) (fun q hq other => ?_) ?_,
    fun l hl => ?_⟩
  · simp [sameUniform, Welt.flagged, Welt.answered, Welt.rdW, Welt.fullW]
  · exact maskRead_maskWrite_other _ _ _ _ _ hq (by simpa using other)
  · simp [Welt.flagged, Welt.answered, orFlags]
  · rw [maskRead_retire _ _ _ h]
    exact maskRead_answered _ _ _ _ _ hl

/-- What FCMP finds in a lane: the answer and its condition (R156). -/
def State.compared (s : State) (ty : Ty) (cond : BitVec 3) (a b : VReg) (na aa nb ab : Bool) (l : Nat) :
    Bool × FlagBits :=
  condF cond.toNat (s.srcF ty (s.cw.lane l) a na aa) (s.srcF ty (s.cw.lane l) b nb ab)

section
variable {s : State} {md : MReg} {a b : VReg} {ta tb : Bool} {p : BitVec 2} {cond : BitVec 3} {ty : Ty}
  {na aa nb ab : Bool}
  (ready : s.issues (s.E p) ((({} : Deps).src ta (regsOf ty a.toNat)).src tb (regsOf ty b.toNat)) 0 = true)
include ready

theorem exec_fcmp_quiet {fl : FlagBits}
    (conds : (conditions s (s.E p) fun l _ => (0, (s.compared ty cond a b na aa nb ab l).2)) = fl)
    (quiet : fpTrap s.cw.fpctl fl = none) : exec (.fcmp md a b ta tb p cond ty na aa nb ab) s = .next (s.retire
      ((s.cw.answered s.legacy (s.E p) md fun l => (s.compared ty cond a b na aa nb ab l).1).flagged fl) 2) := by
  subst conds
  rw [exec_fcmp, execFcmp, issue_go _ _ _ _ _ ready]
  simp only [State.compared, conditions] at quiet ⊢
  simp only [Lanes.nats, quiet, Welt.flagged, Welt.answered, maskWrite_fpctl]

theorem exec_fcmp_trap {c : Cause}
    (trap : fpTrap s.cw.fpctl (conditions s (s.E p) fun l _ => (0, (s.compared ty cond a b na aa nb ab l).2)) =
      some c) :
    exec (.fcmp md a b ta tb p cond ty na aa nb ab) s = .next (s.trapAt c (s.E p &&&
      Lanes.ofPred fun l => (s.compared ty cond a b na aa nb ab l).2 &&& causeFlag c != 0)) := by
  rw [exec_fcmp, execFcmp, issue_go _ _ _ _ _ ready]
  simp only [State.compared, conditions] at trap ⊢
  simp only [Lanes.nats, trap]

end

/-! ### Words (R92) -/

/-- Two fields side by side, as a number. -/
theorem toNat_append_eq_add {n m : Nat} (x : BitVec n) (y : BitVec m) :
    (x ++ y).toNat = x.toNat * 2 ^ m + y.toNat := by
  rw [BitVec.toNat_append, ← Nat.shiftLeft_add_eq_or_of_lt y.isLt, Nat.shiftLeft_eq]

/-- The words of FCLASS, by their places (R92, R152). -/
theorem encode_fclass (d a : VReg) (ta : Bool) (p : BitVec 2) (ty : Ty) :
    encode (.fclass d a ta p ty) = [BitVec.ofNat 32 (0x33 * 2 ^ 25 + d.toNat * 2 ^ 18 + a.toNat * 2 ^ 11 +
      (if ta then 8 else 0) + p.toNat), BitVec.ofNat 32 (ty.code.toNat * 2 ^ 16)] := by
  have first : (51#7 ++ d ++ a ++ 0#7 ++ BitVec.ofBool ta ++ 0#1 ++ p : W32).toNat =
      0x33 * 2 ^ 25 + d.toNat * 2 ^ 18 + a.toNat * 2 ^ 11 + (if ta then 8 else 0) + p.toNat := by
    simp only [toNat_append_eq_add]
    cases ta <;> simp <;> omega
  have second : (0#8 ++ 0#4 ++ ty.code ++ 0#16 : W32).toNat = ty.code.toNat * 2 ^ 16 := by
    simp only [toNat_append_eq_add]
    simp
  rw [← first, ← second, BitVec.ofNat_toNat, BitVec.ofNat_toNat, BitVec.setWidth_eq, BitVec.setWidth_eq]
  rfl

/-! ### Classes (R157) -/

theorem exec_fclass_eq_vecOp (s : State) (d a : VReg) (ta : Bool) (p : BitVec 2) (ty : Ty) :
    exec (.fclass d a ta p ty) s = s.vecOp p ((({} : Deps).src ta (regsOf ty a.toNat)).dst [d.toNat]) 0 2 fun _ l =>
      l.wrTy .b32 d.toNat ((BitVec.ofNat 32 (2 ^ classF ty (l.rdTy ty a.toNat))).setWidth 64) := by
  simp only [exec_fclass, execFclass, wr_eq_wrTy]

/-! ### O15 -/

/-- Settles O15: FCMP by its conditions, FCLASS by the value that its source holds. -/
theorem floatCompareAndClass : Obligations.FloatCompareAndClass := by
  intro s d a b md ta tb na aa nb ab p cond ty h
  refine ⟨fun _ ready => ⟨fun quiet => ?_, fun c trap => ?_⟩, fun _ => encode_fclass .., fun _ ready => ?_⟩
  · obtain ⟨confined, bits⟩ := retire_answered s (s.E p) md (fun l => (s.compared ty cond a b na aa nb ab l).1)
      (conditions s (s.E p) fun l _ => (0, (s.compared ty cond a b na aa nb ab l).2)) 2 h
    exact ⟨_, exec_fcmp_quiet ready rfl quiet, confined, bits⟩
  · refine ⟨_, exec_fcmp_trap ready trap, fun l hl => ?_⟩
    rw [BitVec.getLsbD_and, ofPred_getLsbD _ _ hl]
    rfl
  · refine vectorResult_vecOp h ready rfl (exec_fclass_eq_vecOp ..) fun _ l => ?_
    simp only [classF]
    generalize decodeF ty (l.rdTy ty a.toNat) = v
    cases v with
    | inf n => cases n <;> rfl
    | nan sn => cases sn <;> rfl
    | fin n q =>
      simp only
      split
      · cases n <;> rfl
      split <;> cases n <;> rfl

end Sys2Proof.Machine

/-!
Handles and waits of the matrix unit (R170-R174, R179, R183, R189, R193), and O53.
-/

namespace Sys2Proof.Machine

open Safety Claims

/-! ### The issue of a matrix instruction (R174) -/

/-- Where every non-exited lane is in A, a matrix instruction that is ready runs its meaning. -/
theorem matrixOp_go {s : State} {d : Deps} {k : Result} (ready : s.issues s.cw.A d 0 = true) (c : converged s) :
    s.matrixOp d k = k := by
  rw [State.matrixOp, issue_go _ _ _ _ _ ready]
  exact if_neg (not_not.2 c)

theorem matrixOp_partial {s : State} {d : Deps} {k : Result} (ready : s.issues s.cw.A d 0 = true) (c : ¬converged s) :
    s.matrixOp d k = .next (s.trapAt .maskPartial (s.cw.living &&& ~~~s.cw.A)) := by
  rw [State.matrixOp, issue_go _ _ _ _ _ ready]
  exact if_pos c

/-! ### Handles (R170) -/

/-- A welt with other handles. -/
def Welt.holding (w : Welt) (x : Vector (Option Res) 16) : Welt := { w with handles := x }

theorem foldl_record_holding (w : Welt) (x : Vector (Option Res) 16) (hs : List HaltRec) :
    hs.foldl Welt.record (w.holding x) = (hs.foldl Welt.record w).holding x := by
  induction hs generalizing w with
  | nil => rfl
  | cons r hs ih =>
    have e : (w.holding x).record r = (w.record r).holding x := by
      unfold Welt.record
      split <;> rfl
    rw [List.foldl_cons, List.foldl_cons, e, ih]

theorem settleHalt_holding (w : Welt) (x : Vector (Option Res) 16) (a : Lanes) :
    (w.holding x).settleHalt a = (w.settleHalt a).holding x := by
  have stop : (w.holding x).stop = w.stop.holding x := by
    unfold Welt.stop
    cases h : w.halt with
    | coming hs =>
      have e : (w.holding x).halt = .coming hs := h
      simp only [e, foldl_record_holding]
      rfl
    | _ =>
      have e : (w.holding x).halt = w.halt := rfl
      simp only [e, h]
  unfold Welt.settleHalt
  rw [stop]
  exact (apply_ite (Welt.holding · x) _ _ _).symm

/-- Apart from the issuing welt, what retiring leaves does not depend on the effect. -/
theorem retireWith_eq_setCw {s : State} (w x : Welt) (h : issuing s) :
    s.retireWith w = (s.retireWith x).setCw (s.retireWith w).cw := by
  rw [cw_retireWith _ _ h]
  unfold State.retireWith
  dsimp only
  have set (y z : Welt) : s.setCw z = (s.setCw y).setCw z := by simp only [State.setCw, State.setWeltAt, List.set_set]
  generalize (s.cw.lead.pos) = p
  generalize ({ (w.issued s.cw.A s.cw.pc s.cw.lead.depth).settleHalt s.cw.A with readyAt := some s.now } : Welt) = z
  generalize ({ (x.issued s.cw.A s.cw.pc s.cw.lead.depth).settleHalt s.cw.A with readyAt := some s.now } : Welt) = y
  rw [set y z]
  split <;> split <;> rfl

/-- An issue does not read the handles: with the old ones put back it leaves what it would have left without the new
ones. -/
theorem retire_holding {s : State} (w : Welt) (x : Vector (Option Res) 16) (len : Nat) (h : issuing s) :
    let u := s.retire (w.holding x) len
    u.cw.handles = x ∧ u.setCw (u.cw.holding w.handles) = s.retire w len := by
  have welt (y : Vector (Option Res) 16) : (((w.holding y).advance s.cw.A len).issued s.cw.A s.cw.pc s.cw.lead.depth).settleHalt
      s.cw.A = (((w.advance s.cw.A len).issued s.cw.A s.cw.pc s.cw.lead.depth).settleHalt s.cw.A).holding y :=
    by
    rw [← settleHalt_holding]
    congr 1
    unfold Welt.issued Welt.endReplay Welt.advance Welt.mapLanes Welt.holding
    dsimp only
    cases w.replay <;> rfl
  have cw : (s.retire (w.holding x) len).cw = Welt.holding (s.retire w len).cw x := by
    rw [State.retire, State.retire, cw_retireWith _ _ h, cw_retireWith _ _ h, welt]
    rfl
  have kept : (s.retire w len).cw.handles = w.handles := by
    rw [State.retire, cw_retireWith _ _ h]
    exact (congrArg Welt.handles (Welt.settleHalt_rest _ _) :).trans (by simp)
  refine ⟨by rw [cw]; rfl, ?_⟩
  have back : ((s.retire (w.holding x) len).cw.holding w.handles) = (s.retire w len).cw := by
    rw [cw, ← kept]
    rfl
  rw [back]
  exact (retireWith_eq_setCw (w.advance s.cw.A len) ((w.holding x).advance s.cw.A len) h).symm

/-- Retiring without an effect changes the lanes of A and the marks of an issue alone. -/
theorem retire_confined_self {s : State} (len : Nat) (h : issuing s) :
    Confined s (s.retire s.cw len) len 0 [] [] [] 0 :=
  retire_confined _ _ _ _ _ _ _ _ h (effect_of_lanes s.cw.only_refl rfl) (fun _ _ _ => ⟨rfl, rfl, rfl⟩)
    (fun _ _ _ => rfl) (by simp)

theorem handle_setIfInBounds {w u : Welt} {x : Option Res} {i : BitVec 4}
    (e : u.handles = w.handles.setIfInBounds i.toNat x) : u.handle i = x ∧ ∀ j, j ≠ i → u.handle j = w.handle j := by
  constructor
  · rw [Welt.handle, e, getD_setIfInBounds, if_pos ⟨rfl, by omega⟩]
  · intro j hj
    rw [Welt.handle, e, getD_setIfInBounds, if_neg fun c => hj (BitVec.eq_of_toNat_eq c.1.symm)]
    rfl

/-- A handle is filled or freed, and nothing else has changed. -/
theorem setHandle_confined {s : State} (i : BitVec 4) (x : Option Res) (len : Nat) (h : issuing s) :
    let u := s.retire (s.cw.holding (s.cw.handles.setIfInBounds i.toNat x)) len
    Confined s (u.setCw { u.cw with handles := s.cw.handles }) len 0 [] [] [] 0 ∧ u.cw.handle i = x ∧
      ∀ j, j ≠ i → u.cw.handle j = s.cw.handle j := by
  obtain ⟨handles, back⟩ := retire_holding s.cw (s.cw.handles.setIfInBounds i.toNat x) len h
  refine ⟨?_, handle_setIfInBounds handles⟩
  have confined := retire_confined_self len h
  rw [← back] at confined
  exact confined

/-- The fields of a record by their places (R171). -/
theorem resOf_fields (ty : Ty) (lo hi : W64) : (resOf ty lo hi).desc.toNat = lo.toNat / 2 ^ 32 ∧
    (resOf ty lo hi).base = lo.toNat / 2 ^ 21 % 2 ^ 11 ∧ (resOf ty lo hi).len = lo.toNat / 2 ^ 10 % 2 ^ 11 ∧
    (resOf ty lo hi).rows = lo.toNat / 2 ^ 5 % 2 ^ 5 ∧ (resOf ty lo hi).blk = lo.toNat / 2 ^ 3 % 4 ∧
    (resOf ty lo hi).role = hi.toNat / 2 ^ 32 % 2 ^ 8 ∧ (resOf ty lo hi).scaleoff = hi.toNat % 2 ^ 17 := by
  simp only [resOf, field, BitVec.extractLsb'_toNat, Nat.shiftRight_eq_div_pow]
  have := lo.isLt
  refine ⟨by omega, ?_⟩
  simp

/-- MRES and MREL by what `matrixOp` lets run (R170, R171, R173, R174, R189). -/
theorem reservationHandles_holds : reservationHandles := by
  intro s h wr tc ty hs lo hi kept
  refine ⟨fun ready => ⟨fun c ok => ?_, fun c bad => ?_, fun c => ?_⟩, fun ready c => ⟨fun held => ?_, fun free => ?_⟩⟩
  · obtain ⟨confined, filled, others⟩ := setHandle_confined h (some (resOf ty lo hi)) 2 hs
    obtain ⟨desc, base, len, rows, blk, role, scaleoff⟩ := resOf_fields ty lo hi
    refine ⟨_, ?_, confined, ⟨_, filled, rfl, desc, base, len, rows, blk, rfl, rfl, role, scaleoff⟩, others⟩
    rw [exec_mres, execMres, matrixOp_go ready c]
    exact if_pos ok
  · rw [exec_mres, execMres, matrixOp_go ready c]
    exact if_neg (Bool.eq_false_iff.1 bad)
  · rw [exec_mres, execMres, matrixOp_partial ready c]
  · obtain ⟨confined, freed, others⟩ := setHandle_confined h none 1 hs
    obtain ⟨r, hr⟩ := Option.ne_none_iff_exists'.1 held
    refine ⟨_, ?_, confined, freed, others⟩
    rw [exec_mrel, execMrel, matrixOp_go ready c, hr]
    rfl
  · rw [exec_mrel, execMrel, matrixOp_go ready c, free]

/-! ### Work that streams have done (R179, R180) -/

/-- A stream apart from the work that is outstanding for it. -/
def Stream.unworked (st : Stream) : Stream := { st with out := [], clash := [] }

/-- A welt apart from the outstanding work of its streams. -/
def Welt.unworked (w : Welt) : Welt := { w with streams := w.streams.map Stream.unworked }

/-- A state apart from the outstanding work of all streams. -/
def State.unworked (s : State) : State := { s with welts := s.welts.map Welt.unworked }

theorem unworked_setWeltAt {s : State} {i : Nat} {w : Welt} (h : w.unworked = (s.weltAt i).unworked) :
    (s.setWeltAt i w).unworked = s.unworked :=
  congrArg (fun ws => ({ s with welts := ws } : State)) (map_set_of_eq Welt.unworked s.welts i Welt.init w h)

theorem weltAt_of_unworked {s t : State} (h : t.unworked = s.unworked) (i : Nat) :
    (t.weltAt i).unworked = (s.weltAt i).unworked := by
  have e := congrArg (fun x => x.welts.getD i Welt.init.unworked) h
  simpa only [State.unworked, List.getD_map, State.weltAt] using e

theorem stream_of_unworked {w u : Welt} (h : u.unworked = w.unworked) (n : Nat) :
    (u.stream n).unworked = (w.stream n).unworked := by
  have e := congrArg (fun x => x.streams.toList.getD n Stream.init.unworked) h
  simpa only [Welt.unworked, Vector.toList_map, List.getD_map, Welt.stream] using e

/-- What differs in outstanding work alone differs in the streams of its welts alone. -/
theorem streams_of_unworked {w u : Welt} (h : u.unworked = w.unworked) : u = { w with streams := u.streams } :=
  (congrArg (fun x : Welt => ({ x with streams := u.streams } : Welt)) h :)

theorem unworked_settleStreams (s : State) (w : Nat) (mask : BitVec 8) :
    (s.settleStreams w mask).unworked = s.unworked := by
  unfold State.settleStreams
  dsimp only
  refine (unworked_setWeltAt ?_).trans ?_
  · refine congrArg (fun v => ({ State.weltAt _ w with streams := v } : Welt)) ?_
    ext1 n hn
    simp only [Vector.getElem_map, Vector.getElem_ofFn]
    split <;> rfl
  · split
    · rfl
    · refine foldl_keeps State.unworked (fun t i => unworked_setWeltAt ?_) _ s
      exact congrArg (fun v => ({ t.weltAt i with streams := v } : Welt)) (Vector.map_map ..)

theorem getByte_of_unworked {s t : State} (h : t.unworked = s.unworked) (l : Loc) : t.getByte l = s.getByte l := by
  let back (x : State) : State := { x with
    welts := s.welts, cores := s.cores, agenda := s.agenda, stitches := s.stitches }
  exact getByte_congr (congrArg back h :) l

/-- An instruction that reaches out of its welt may settle outstanding work before it retires. -/
theorem reaching_of_unworked {s t u : State} {len : Nat} {e : Lanes} {rs ws ms : List Nat} {fl : FlagBits}
    (h : t.unworked = s.unworked) (r : Reaching t u len e rs ws ms fl) : Reaching s u len e rs ws ms fl := by
  have cur : t.cur = s.cur := (congrArg State.cur h :)
  have wgs : t.wgs = s.wgs := (congrArg State.wgs h :)
  have launches : t.launches = s.launches := (congrArg State.launches h :)
  have cw : t.cw = { s.cw with streams := t.cw.streams } := by
    rw [State.cw, State.cw, cur]
    exact streams_of_unworked (weltAt_of_unworked h s.cur)
  have legacy : t.legacy = s.legacy := by
    have wg : t.cw.wg = s.cw.wg := (congrArg Welt.wg cw :)
    simp only [State.legacy, State.cl, State.launchOf, State.launchAt, State.cg, State.wgAt, wg, wgs, launches]
  obtain ⟨lanes, uniform, masks, flags, special, traps, others⟩ := r
  rw [cw] at lanes uniform masks flags special traps
  rw [legacy] at masks
  refine ⟨⟨lanes.pc, lanes.key, lanes.kept⟩, uniform, masks, flags, special, traps, fun i hi => ?_⟩
  have same := others i (cur ▸ hi)
  rw [streams_of_unworked (weltAt_of_unworked h i)] at same
  exact same

theorem streams_retire {s : State} {w : Welt} (len : Nat) (h : issuing s) :
    (s.retire w len).cw.streams = w.streams := by
  rw [State.retire, cw_retireWith _ _ h]
  exact (congrArg Welt.streams (Welt.settleHalt_rest _ _) :).trans (by simp)

/-! ### MWAIT (R179, R183, R193) -/

theorem drained_iff {w : Welt} {mask : BitVec 8} :
    w.drained mask = true ↔ ∀ n < 8, mask.getLsbD n → (w.stream n).queue = [] := by
  simp only [Welt.drained, List.all_eq_true, List.mem_range, Bool.or_eq_true, Bool.not_eq_true', List.isEmpty_iff]
  refine forall₂_congr fun n _ => ?_
  cases mask.getLsbD n <;> simp

section
variable {w : Welt} {mask : BitVec 8} {f : Stream → Bool}

/-- The first stream of a mask with a mark. -/
theorem find_marked {n : Nat} (hn : n < 8) (here : mask.getLsbD n = true) (marked : f (w.stream n) = true)
    (before : ∀ m < n, mask.getLsbD m → f (w.stream m) = false) :
    ((List.range 8).find? fun n => mask.getLsbD n && f (w.stream n)) = some n := by
  refine List.find?_range_eq_some.2 ⟨by simp [here, marked], List.mem_range.2 hn, fun m hm => ?_⟩
  cases g : mask.getLsbD m
  · rfl
  · simp [before m hm g]

theorem find_unmarked (h : ∀ n < 8, mask.getLsbD n → f (w.stream n) = false) :
    ((List.range 8).find? fun n => mask.getLsbD n && f (w.stream n)) = none := by
  refine List.find?_range_eq_none.2 fun m hm => ?_
  cases g : mask.getLsbD m
  · rfl
  · simp [h m hm g]

end

section
variable {s : State} {mask : BitVec 8}

/-- MWAIT waits while a stream of its mask has entries queued. -/
theorem mwait_waits (c : converged s) (ready : s.issues s.cw.A {} 0 = true)
    (queued : ∃ n < 8, mask.getLsbD n ∧ (s.cw.stream n).queue ≠ []) (running : s.cw.halt = .none) :
    s.mwait mask = .next (s.setCw { s.cw with wait := .stream mask.toNat, readyAt := none }) := by
  obtain ⟨n, hn, here, busy⟩ := queued
  have more : s.cw.drained mask = false := Bool.eq_false_iff.2 fun h => busy (drained_iff.1 h n hn here)
  rw [State.mwait, matrixOp_go ready c, State.waitStreams, more, stall_of_running running]
  rfl

/-- With its streams drained, MWAIT delivers the trap that is pending first. -/
theorem mwait_delivers (c : converged s) (ready : s.issues s.cw.A {} 0 = true)
    (drained : ∀ n < 8, mask.getLsbD n → (s.cw.stream n).queue = []) {n : Nat} {k : Cause}
    (pending : s.cw.pendingTrap mask = some (k, n)) :
    s.mwait mask = .next ((s.setCw (s.cw.clearPending k n)).trapAt k s.cw.living) := by
  rw [State.mwait, matrixOp_go ready c, State.waitStreams, drained_iff.2 drained, pending]
  rfl

/-- With its streams drained and nothing pending, MWAIT lets the instruction pass. -/
theorem mwait_passes (h : issuing s) (c : converged s) (ready : s.issues s.cw.A {} 0 = true)
    (drained : ∀ n < 8, mask.getLsbD n → (s.cw.stream n).queue = []) (pending : s.cw.pendingTrap mask = none) :
    ∃ u, s.mwait mask = .next u ∧ Reaching s u 1 0 [] [] [] 0 ∧ (∀ l, u.getByte l = s.getByte l) ∧
      u.wgs = s.wgs ∧ ∀ n < 8, (u.cw.stream n).queue = (s.cw.stream n).queue := by
  let t := s.settleStreams s.cur mask
  have same : t.unworked = s.unworked := unworked_settleStreams ..
  have cur : t.cur = s.cur := (congrArg State.cur same :)
  have ht : issuing t := by
    have count : t.welts.length = s.welts.length := by
      simpa [State.unworked] using congrArg (fun x => x.welts.length) same
    rw [issuing, cur, count]
    exact h
  have out : Outside t (t.retire t.cw 1) := outside_retireWith ..
  have quiet : Reaching t (t.retire t.cw 1) 1 0 [] [] [] 0 :=
    reaching_retire 1 ht (fun _ _ => rfl) (fun _ _ _ _ _ => ⟨rfl, rfl, rfl⟩) ⟨rfl, rfl, rfl⟩ (fun _ _ _ => rfl) rfl
      ⟨rfl, rfl, rfl, rfl⟩ ⟨rfl, rfl, rfl⟩
  refine ⟨t.retire t.cw 1, ?_, reaching_of_unworked same quiet, fun l => ?_, ?_, fun n _ => ?_⟩
  · rw [State.mwait, matrixOp_go ready c, State.waitStreams, drained_iff.2 drained, pending]
    rfl
  · exact (out.bytes l).trans (getByte_of_unworked same l)
  · exact (congrArg State.wgs out.rest :).trans (congrArg State.wgs same :)
  · have stream : (t.cw.stream n).unworked = (s.cw.stream n).unworked := by
      rw [State.cw, cur]
      exact stream_of_unworked (weltAt_of_unworked same s.cur) n
    rw [Welt.stream, streams_retire 1 ht]
    exact (congrArg Stream.queue stream :)

end

/-- MWAIT and MWAIT.all by the streams of their masks (R179, R183, R193). -/
theorem matrixWaits_holds : matrixWaits := by
  intro s k h c ready q hq
  have run : exec q.1 s = s.mwait q.2 := by
    simp only [List.mem_cons, List.not_mem_nil, or_false] at hq
    rcases hq with rfl | rfl
    · exact exec_mwait ..
    · exact exec_mwaitAll ..
  rw [run]
  refine ⟨fun queued running => mwait_waits c ready queued running, fun drained => ⟨fun quiet => ?_, fun n hn here => ?_⟩⟩
  · refine mwait_passes h c ready drained ?_
    simp only [Welt.pendingTrap, find_unmarked (f := (·.pendNan)) fun n hn g => (quiet n hn g).1,
      find_unmarked (f := (·.pendDrift)) fun n hn g => (quiet n hn g).2.1,
      find_unmarked (f := (·.pendMem)) fun n hn g => (quiet n hn g).2.2]
    rfl
  refine ⟨fun pend before => ?_, fun pend noNan before => ?_, fun pend noNan noDrift before => ?_⟩
  · refine mwait_delivers (k := .fpNan) (n := n) c ready drained ?_
    simp only [Welt.pendingTrap, find_marked (f := (·.pendNan)) hn here pend before]
    rfl
  · refine mwait_delivers (k := .skiveDrift) (n := n) c ready drained ?_
    simp only [Welt.pendingTrap, find_unmarked (f := (·.pendNan)) noNan,
      find_marked (f := (·.pendDrift)) hn here pend before]
    rfl
  · refine mwait_delivers (k := .memoryError) (n := n) c ready drained ?_
    simp only [Welt.pendingTrap, find_unmarked (f := (·.pendNan)) noNan, find_unmarked (f := (·.pendDrift)) noDrift,
      find_marked (f := (·.pendMem)) hn here pend before]
    rfl

/-- Settles O53: handles by `setHandle_confined`, the waits by what `mwait` finds of its streams. -/
theorem handlesAndWaits : Obligations.HandlesAndWaits := ⟨reservationHandles_holds, matrixWaits_holds⟩

end Sys2Proof.Machine

/-!
Instructions that enter their stream (R175, R178, R190-R192), and O30.
-/

namespace Sys2Proof.Machine

open Safety Claims

/-! ### Entering a stream (R175) -/

theorem strm_setStream (w : Welt) (k j : BitVec 3) (st : Stream) :
    (w.setStream k.toNat st).strm j = if j = k then st else w.strm j := by
  rw [Welt.strm, Welt.stream, Welt.setStream, getD_setIfInBounds]
  by_cases e : j = k
  · rw [if_pos ⟨by rw [e], by omega⟩, if_pos e]
  · rw [if_neg fun c => e (BitVec.eq_of_toNat_eq c.1.symm), if_neg e]
    rfl

/-- An instruction that finds room enters its stream; at issue it changes no more than the registers `rs` in the lanes of
`e`. -/
theorem enter_entered {s : State} {k : BitVec 3} {w : Welt} {e : Lanes} {rs : List Nat} (op : StreamOp) (acc : Ty)
    (len : Nat) (h : issuing s) (room : (s.cw.strm k).queue.length < 16) (rest : { w with lanes := s.cw.lanes } = s.cw)
    (lanes : ∀ i < 32, { w.lane i with v := (s.cw.lane i).v, full := (s.cw.lane i).full, bad := (s.cw.lane i).bad } =
      s.cw.lane i)
    (kept : ∀ i < 32, ∀ r < 128, (e.getLsbD i → r ∉ rs) → sameReg (w.lane i) (s.cw.lane i) r) :
    ∃ u, s.enter k op acc len w = .next u ∧ Entered s u len e rs k op acc ∧
      ∀ i < 32, (u.cw.lane i).full = (w.lane i).full := by
  let st : Stream := { w.strm k with queue := (s.cw.strm k).queue ++ [op], accEnd := acc }
  let t := s.retire (w.setStream k.toNat st) len
  let u := if (s.cw.strm k).queue.isEmpty then t.post (op.event s.cur k) else t
  have out : Outside s t := outside_retireWith ..
  have streams : w.streams = s.cw.streams := (congrArg Welt.streams rest :)
  have reaching : Reaching s t len e rs [] [] 0 :=
    reaching_retire (w := w.setStream k.toNat st) len h lanes kept
      ⟨(congrArg Welt.w rest :), (congrArg Welt.wfull rest :), (congrArg Welt.wbad rest :)⟩
      (fun r _ _ => mask_of_m _ r (congrArg Welt.m rest :)) (congrArg Welt.fpctl rest :)
      ⟨(congrArg Welt.handles rest :), (congrArg Welt.nanrec rest :), (congrArg Welt.skivestat rest :),
        (congrArg Welt.level rest :)⟩
      ⟨(congrArg Welt.traps rest :), (congrArg Welt.halt rest :), (congrArg Welt.replay rest :)⟩
  have strm (j : BitVec 3) : t.cw.strm j = if j = k then st else s.cw.strm j := by
    rw [Welt.strm, Welt.stream, streams_retire len h]
    refine (strm_setStream w k j st).trans ?_
    simp only [Welt.strm, Welt.stream, streams]
  have run : s.enter k op acc len w = .next u := if_neg (Nat.not_le.2 room)
  have posted : u = t ∨ u = t.post (op.event s.cur k) := by
    simp only [u]
    split
    · exact .inr rfl
    · exact .inl rfl
  have due (empty : (s.cw.strm k).queue = []) : op.event s.cur k ∈ u.agenda := by
    have now : u = t.post (op.event s.cur k) := if_pos (List.isEmpty_iff.2 empty)
    rw [now]
    exact List.mem_append_right _ (List.mem_singleton.2 rfl)
  have cw : u.cw = t.cw := by
    rcases posted with e | e <;> rw [e]
    rfl
  have bytes (l : Loc) : u.getByte l = s.getByte l := by rcases posted with e | e <;> rw [e] <;> exact out.bytes l
  have wgs : u.wgs = s.wgs := by rcases posted with e | e <;> rw [e] <;> exact (congrArg State.wgs out.rest :)
  have reaches : Reaching s u len e rs [] [] 0 := by
    rcases posted with e | e <;> rw [e]
    · exact reaching
    · exact ⟨reaching.lanes, reaching.uniform, reaching.masks, reaching.flags, reaching.special, reaching.traps,
        reaching.others⟩
  have mine : u.cw.strm k = st := by rw [cw, strm, if_pos rfl]
  refine ⟨u, run, ⟨reaches, bytes, wgs, (congrArg Stream.queue mine :), (congrArg Stream.accEnd mine :), fun j hj => ?_,
    fun empty => ?_⟩, fun i hi => ?_⟩
  · rw [cw, strm, if_neg hj]
  · cases op <;> exact due empty
  · rw [cw, lane_retire s _ len h i hi]
    split <;> rfl

/-- An instruction that at issue changes no register enters its stream. -/
theorem enter_entered_self {s : State} {k : BitVec 3} (op : StreamOp) (acc : Ty) (len : Nat) (h : issuing s)
    (room : (s.cw.strm k).queue.length < 16) :
    ∃ u, s.enter k op acc len s.cw = .next u ∧ Entered s u len 0 [] k op acc := by
  obtain ⟨u, run, entered, -⟩ := enter_entered (w := s.cw) (e := 0) (rs := []) op acc len h room rfl (fun _ _ => rfl)
    fun _ _ _ _ _ => ⟨rfl, rfl, rfl⟩
  exact ⟨u, run, entered⟩

/-! ### Steps (R170, R176, R178) -/

theorem tileStep_eq_mul (acc : Ty) (dt : Int) : tileStep acc dt = (if acc = .f64 then 2 else 1) * dt := by
  unfold tileStep
  split <;> simp

/-- Steps whose panels pair and exist, and whose tiles exist, enter the stream. -/
theorem stepOp_eq_enter {s : State} {k : BitVec 3} {ha hb : BitVec 4} {a b : Res} {t a0 b0 count : Nat} {da db dt : Int}
    (len : Nat) (holdsA : s.cw.handle ha = some a) (holdsB : s.cw.handle hb = some b)
    (fits : pairOk a b (s.cw.strm k).accEnd = true ∧ ∀ j < count, a.hasPanel (a0 + j * da) = true ∧
      b.hasPanel (b0 + j * db) = true ∧
        tileOk s.cl.accKiB (s.cw.strm k).accEnd (t + j * tileStep (s.cw.strm k).accEnd dt) = true) :
    s.stepOp k ha hb t a0 b0 da db dt count len =
      s.enter k (.step t a b a0 b0 da db (tileStep (s.cw.strm k).accEnd dt) 0 count s.cw.fpctl s.cw.level s.cw.openSpans)
        (s.cw.strm k).accEnd len s.cw := by
  obtain ⟨pair, each⟩ := fits
  unfold State.stepOp
  simp only [holdsA, holdsB]
  refine if_pos ?_
  simp only [Bool.and_eq_true, List.all_eq_true, List.mem_range]
  exact ⟨pair, fun j hj => ⟨⟨(each j hj).1, (each j hj).2.1⟩, (each j hj).2.2⟩⟩

/-! ### Rows (R191) -/

/-- The registers of rows that exist are registers. -/
theorem rowRegs_filter {accKiB t row n : Nat} {acc : Ty} {d : VReg} (ok : rowsOk accKiB acc t d row n = true) :
    (rowRegs acc d n).filter (fun r => decide (r < 128)) = rowRegs acc d n := by
  simp only [rowsOk, Bool.and_eq_true] at ok
  exact List.filter_eq_self.2 (List.all_eq_true.1 ok.2)

theorem oddRows_of_even {acc : Ty} {d : VReg} (even : acc = .f64 → d.toNat % 2 = 0) : oddRows acc d = false := by
  unfold oddRows
  cases g : acc == .f64
  · rfl
  · simp [even (eq_of_beq g)]

section
variable {s : State} {k : BitVec 3} {t : BitVec 6} {d : VReg} {row : BitVec 5} {rc : BitVec 3}
variable (h : issuing s) (c : converged s) (room : (s.cw.strm k).queue.length < 16)
  (ok : rowsOk s.cl.accKiB (s.cw.strm k).accEnd t.toNat d row.toNat (rc.toNat + 1) = true)
  (even : (s.cw.strm k).accEnd = .f64 → d.toNat % 2 = 0)
include h c room ok even

/-- MRD enters its stream and empties its registers in the non-exited lanes (R191). -/
theorem mrd_entered (ready : s.issues s.cw.A (({} : Deps).dst (rowRegs (s.cw.strm k).accEnd d (rc.toNat + 1))) 0 = true) :
    let acc := (s.cw.strm k).accEnd
    let regs := rowRegs acc d (rc.toNat + 1)
    ∃ u, exec (.mrd k t d row rc) s = .next u ∧ Entered s u 2 s.cw.living regs k
        (.mrd t.toNat d.toNat row.toNat (rc.toNat + 1) s.cw.living) acc ∧
      ∀ l < 32, s.cw.living.getLsbD l → ∀ r ∈ regs, (u.cw.lane l).full.getLsbD r = false := by
  intro acc regs
  let w := s.cw.mapLanes s.cw.living fun _ l => l.emptyAll regs
  have lane (i : Nat) (hi : i < 32) : w.lane i = if s.cw.living.getLsbD i then (s.cw.lane i).emptyAll regs else s.cw.lane i :=
    lane_mapLanes _ _ _ _ hi
  have lanes (i : Nat) (hi : i < 32) : { w.lane i with
      v := (s.cw.lane i).v, full := (s.cw.lane i).full, bad := (s.cw.lane i).bad } = s.cw.lane i := by
    rw [lane i hi]
    split
    · let back (x : Lane) : Lane := { x with
        v := (s.cw.lane i).v, full := (s.cw.lane i).full, bad := (s.cw.lane i).bad }
      exact (congrArg back (emptyAll_rest (s.cw.lane i) regs) :)
    · rfl
  have kept (i : Nat) (hi : i < 32) (r : Nat) (hr : r < 128) (g : s.cw.living.getLsbD i → r ∉ regs) :
      sameReg (w.lane i) (s.cw.lane i) r := by
    rw [lane i hi]
    split
    next living => exact sameReg_emptyAll _ _ hr (g living)
    next => exact ⟨rfl, rfl, rfl⟩
  have rest : { w with lanes := s.cw.lanes } = s.cw := by unfold w Welt.mapLanes; rfl
  obtain ⟨u, run, entered, full⟩ := enter_entered (.mrd t.toNat d.toNat row.toNat (rc.toNat + 1) s.cw.living) acc 2 h room
    rest lanes kept
  refine ⟨u, ?_, entered, fun l hl living r hr => ?_⟩
  · rw [exec_mrd, execMrd]
    simp only [oddRows_of_even even, Bool.false_eq_true, if_false, rowRegs_filter ok, matrixOp_go ready c, if_pos ok]
    exact run
  · rw [full l hl, lane l hl, if_pos living]
    by_cases hq : r < 128
    · rw [full_emptyAll _ _ hq]
      simp [hr]
    · exact BitVec.getLsbD_of_ge _ _ (Nat.not_lt.1 hq)

/-- MWR enters its stream with the values of its registers (R191). -/
theorem mwr_entered {tc : Bool}
    (ready : s.issues s.cw.A (({} : Deps).src tc (rowRegs (s.cw.strm k).accEnd d (rc.toNat + 1))) 0 = true) :
    let acc := (s.cw.strm k).accEnd
    ∃ u vals, exec (.mwr k t d tc row rc) s = .next u ∧
      Entered s u 2 0 [] k (.mwr t.toNat row.toNat (rc.toNat + 1) vals) acc ∧
      ∀ l v, (l, v) ∈ vals ↔ l < 32 ∧ s.cw.living.getLsbD l ∧ v = (List.range (rc.toNat + 1)).map fun j =>
        if acc = .f64 then (s.cw.lane l).rdTy .b64 (d.toNat + 2 * j) else (s.cw.lane l).rdTy .b32 (d.toNat + j) := by
  intro acc
  obtain ⟨u, run, entered⟩ := enter_entered_self (k := k) (.mwr t.toNat row.toNat (rc.toNat + 1)
    ((Lanes.nats s.cw.living).map fun i => (i, (List.range (rc.toNat + 1)).map fun j =>
      if acc = .f64 then (s.cw.lane i).rdTy .b64 (d.toNat + 2 * j) else (s.cw.lane i).rdTy .b32 (d.toNat + j)))) acc 2 h room
  refine ⟨u, _, ?_, entered, fun l v => ?_⟩
  · rw [exec_mwr, execMwr]
    simp only [oddRows_of_even even, Bool.false_eq_true, if_false, rowRegs_filter ok, matrixOp_go ready c, if_pos ok]
    exact run
  · simp only [List.mem_map, mem_nats, Prod.mk.injEq]
    constructor
    · rintro ⟨i, ⟨hi, living⟩, rfl, rfl⟩
      exact ⟨hi, living, rfl⟩
    · rintro ⟨hl, living, rfl⟩
      exact ⟨l, ⟨hl, living⟩, rfl, rfl⟩

end

/-- Settles O30: what each instruction checks, and then `enter_entered`. -/
theorem streamsCapture : Obligations.StreamsCapture := by
  intro s k ty t wr ha hb dep sk tc act cnt d row rc h c room acc n regs x dt step fits
  refine ⟨fun ready => ⟨?_, ?_, fun tile => ?_, fun a b holdsA holdsB ok => ?_⟩,
    fun ready => ⟨fun a b holdsA holdsB zero1 zero2 => ?_, fun zero small => ?_⟩,
    fun ok even => ⟨mrd_entered h c room ok even, mwr_entered h c room ok even⟩⟩
  · rw [exec_mfmt, execMfmt, matrixOp_go ready c]
    exact enter_entered_self _ _ _ h room
  · rw [exec_msamp, execMsamp, matrixOp_go ready c]
    exact enter_entered_self _ _ _ h room
  · rw [exec_mzero, execMzero, matrixOp_go ready c]
    dsimp only
    rw [if_pos tile]
    exact enter_entered_self _ _ _ h room
  · have still : tileStep acc 0 = 0 := by rw [tileStep_eq_mul, mul_zero]
    rw [exec_mstep, execMstep, matrixOp_go ready c, stepOp_eq_enter 1 holdsA holdsB (still.symm ▸ ok), still]
    exact enter_entered_self _ _ _ h room
  · intro da db ok
    have far : tileStep acc (x.extractLsb' 12 6).toInt = dt := tileStep_eq_mul ..
    rw [exec_mloop, execMloop, matrixOp_go ready c]
    have admitted : (field x 56 8 != 0 || field x 0 12 != 0) = false := by rw [zero1, zero2]; rfl
    dsimp only
    rw [admitted, if_neg Bool.false_ne_true, stepOp_eq_enter 2 holdsA holdsB (far.symm ▸ ok), far]
    exact enter_entered_self _ _ _ h room
  · have threshold : thresholdOk x = true := by
      rw [thresholdOk, zero, Bool.and_eq_true, Bool.or_eq_true, decide_eq_true_eq, beq_iff_eq (b := 0x80000000#64)]
      exact ⟨rfl, small.symm⟩
    rw [exec_mskv, execMskv, matrixOp_go ready c]
    dsimp only
    rw [if_pos threshold]
    exact enter_entered_self _ _ _ h room

end Sys2Proof.Machine

/-!
The tiles of the accumulator share (R165, R166), and the head of a stream that takes effect (R175, R179, R180).
-/

namespace Sys2Proof.Machine

open Safety Claims

/-! ### Bytes as numbers (R5) -/

theorem leValue_append (xs ys : List Byte) : leValue (xs ++ ys) = leValue xs + 256 ^ xs.length * leValue ys := by
  induction xs with
  | nil => simp [leValue]
  | cons x xs ih =>
    simp only [List.cons_append, leValue, ih, List.length_cons]
    ring

theorem leValue_bytesLE (x : W64) (n : Nat) : leValue (bytesLE x n) = x.toNat % 256 ^ n := by
  induction n with
  | zero => simp [bytesLE, leValue, Nat.mod_one]
  | succ n ih =>
    have next : bytesLE x (n + 1) = bytesLE x n ++ [x.extractLsb' (8 * n) 8] := by
      simp [bytesLE, List.range_succ]
    have len : (bytesLE x n).length = n := by simp [bytesLE]
    rw [next, leValue_append, ih, len, Nat.mod_pow_succ]
    simp only [leValue, BitVec.extractLsb'_toNat, Nat.shiftRight_eq_div_pow, pow_mul]
    norm_num

/-- The bytes that stand from an address on. -/
theorem cellsRead_eq_leValue (m : List Host.Cell) (a n : Nat) :
    cellsRead m a n = leValue ((List.range n).map fun i => cellRead m (a + i)) := by
  induction n generalizing a with
  | zero => rfl
  | succ n ih =>
    rw [cellsRead, ih, List.range_succ_eq_map, List.map_cons, List.map_map, leValue]
    simp only [Function.comp_def, Nat.add_zero, Nat.succ_eq_add_one, Nat.add_assoc, Nat.add_comm 1]

/-! ### Tiles (R165, R166) -/

/-- The bits of a value that an element of an accumulator type holds. -/
def lowBits (acc : Ty) (x : W64) : W64 := BitVec.ofNat 64 (x.toNat % 2 ^ (8 * accSize acc))

theorem accSize_pos (acc : Ty) : 0 < accSize acc := by
  unfold accSize
  split <;> decide

section
variable {g : Wg} (t : Nat) (acc : Ty)

/-- An element written alone. -/
theorem setCells_cons (x : Nat × W64) (es : List (Nat × W64)) :
    g.setCells t acc (x :: es) = (g.setCells t acc [x]).setCells t acc es := rfl

theorem wf_setCells (wf : Memory.wf g.acc) (es : List (Nat × W64)) : Memory.wf (g.setCells t acc es).acc := by
  induction es generalizing g with
  | nil => exact wf
  | cons x es ih => exact ih (g := g.setCells t acc [x]) (wf_cellsWrite _ _ wf)

/-- Bytes that no written element holds are as they were. -/
theorem cellRead_setCells_other (wf : Memory.wf g.acc) (es : List (Nat × W64)) {b : Nat}
    (out : ∀ x ∈ es, ¬(4096 * t + accSize acc * x.1 ≤ b ∧ b < 4096 * t + accSize acc * x.1 + accSize acc)) :
    cellRead (g.setCells t acc es).acc b = cellRead g.acc b := by
  induction es generalizing g with
  | nil => rfl
  | cons x es ih =>
    rw [setCells_cons, ih (wf_setCells t acc wf _) fun y hy => out y (List.mem_cons_of_mem _ hy)]
    have here := out x List.mem_cons_self
    simp only [Wg.setCells, List.foldl_cons, List.foldl_nil]
    rw [cellRead_cellsWrite wf, if_neg]
    simpa [bytesLE] using here

theorem cell_congr {g h : Wg} (e : Nat)
    (same : ∀ i < accSize acc, cellRead h.acc (4096 * t + accSize acc * e + i) = cellRead g.acc (4096 * t + accSize acc * e + i)) :
    h.cell t acc e = g.cell t acc e := by
  rw [Wg.cell, Wg.cell, cellsRead_eq_leValue, cellsRead_eq_leValue]
  congr 2
  exact List.map_congr_left fun i hi => same i (List.mem_range.1 hi)

/-- An element that is not written is as it was. -/
theorem cell_setCells_other (wf : Memory.wf g.acc) {es : List (Nat × W64)} {e : Nat} (out : ∀ x ∈ es, x.1 ≠ e) :
    (g.setCells t acc es).cell t acc e = g.cell t acc e := by
  refine cell_congr t acc e fun i hi => cellRead_setCells_other t acc wf es fun x hx => ?_
  have apart := out x hx
  rintro ⟨low, high⟩
  have upper : accSize acc * x.1 < accSize acc * (e + 1) := by rw [Nat.mul_succ]; omega
  have lower : accSize acc * e < accSize acc * (x.1 + 1) := by rw [Nat.mul_succ]; omega
  have := Nat.lt_of_mul_lt_mul_left upper
  have := Nat.lt_of_mul_lt_mul_left lower
  omega

theorem cell_setCells_one (wf : Memory.wf g.acc) (e : Nat) (x : W64) :
    (g.setCells t acc [(e, x)]).cell t acc e = lowBits acc x := by
  have stands : (List.range (accSize acc)).map (fun i =>
      cellRead (g.setCells t acc [(e, x)]).acc (4096 * t + accSize acc * e + i)) = bytesLE x (accSize acc) := by
    refine List.map_congr_left fun i hi => ?_
    have hi := List.mem_range.1 hi
    simp only [Wg.setCells, List.foldl_cons, List.foldl_nil]
    rw [cellRead_cellsWrite wf, if_pos ⟨Nat.le_add_right .., by simpa [bytesLE] using hi⟩, Nat.add_sub_cancel_left]
    simp [bytesLE, hi]
  rw [Wg.cell, cellsRead_eq_leValue, stands, leValue_bytesLE, lowBits, pow_mul]
  norm_num

/-- A written element holds what was written there, where it is written once. -/
theorem cell_setCells {es : List (Nat × W64)} (wf : Memory.wf g.acc) (once : (es.map Prod.fst).Nodup) {e : Nat} {x : W64}
    (mem : (e, x) ∈ es) : (g.setCells t acc es).cell t acc e = lowBits acc x := by
  induction es generalizing g with
  | nil => simp at mem
  | cons y es ih =>
    rw [List.map_cons, List.nodup_cons] at once
    obtain ⟨new, once⟩ := once
    rw [setCells_cons]
    rcases List.mem_cons.1 mem with rfl | mem
    · rw [cell_setCells_other t acc (wf_setCells t acc wf _) fun z hz same => new (List.mem_map.2 ⟨z, hz, same⟩)]
      exact cell_setCells_one t acc wf e x
    · exact ih (wf_setCells t acc wf _) once mem

/-- Elements of a tile written leave the bytes outside it as they were. -/
theorem otherTilesKept_setCells (wf : Memory.wf g.acc) {es : List (Nat × W64)} (inside : ∀ x ∈ es, x.1 < 1024) :
    otherTilesKept g (g.setCells t acc es) t acc := by
  intro b hb
  refine cellRead_setCells_other t acc wf es fun x hx => ?_
  have below : accSize acc * x.1 + accSize acc ≤ accSize acc * 1024 := by
    rw [← Nat.mul_succ]
    exact Nat.mul_le_mul_left _ (inside x hx)
  rintro ⟨low, high⟩
  have start := Nat.zero_le (accSize acc * x.1)
  omega

end

/-! ### The head of a stream (R175, R194) -/

section
variable {s : State} {w : Nat} {k : BitVec 3} {op : StreamOp} {rest : List StreamOp}

theorem headReady_go (r : headRuns s w k op rest) (again : Instr) (go : State) : s.headReady w k again go = go := by
  obtain ⟨-, -, -, -, resident, paid, -⟩ := r
  unfold State.headReady
  simp only [resident]
  exact (if_neg (by simp)).trans (if_neg (Nat.not_lt.2 paid))

/-- The head of a stream that is no step has its effect. -/
theorem exec_streamInstructionEffect_head (r : headRuns s w k op rest)
    (other : op.event w k = .streamInstructionEffect w k) :
    exec (.streamInstructionEffect w k) s = .next (s.streamEffect w k op rest) := by
  obtain ⟨-, -, alive, queue, -⟩ := id r
  rw [exec_streamInstructionEffect, execStreamInstructionEffect]
  simp only [alive, queue, Bool.false_eq_true, if_false]
  cases op
  case step => exact absurd other nofun
  all_goals exact congrArg Host.Outcome.next (headReady_go r _ _)

/-- The step at the head of a stream is carried out. -/
theorem exec_matrixStep_head {t a0 b0 j count level : Nat} {ha hb : Res} {da db dt : Int} {f : W32} {taint : List Span}
    (r : headRuns s w k (.step t ha hb a0 b0 da db dt j count f level taint) rest) :
    exec (.matrixStep w k) s = .next (s.runStep w k t ha hb a0 b0 da db dt j count f level taint rest) := by
  obtain ⟨-, -, alive, queue, -⟩ := id r
  rw [exec_matrixStep, execMatrixStep]
  simp only [alive, queue, Bool.false_eq_true, if_false, headReady_go r]

theorem stream_setStream_ne (x : Welt) {k j : BitVec 3} (st : Stream) (h : j ≠ k) :
    (x.setStream k.toNat st).strm j = x.strm j := (strm_setStream x k j st).trans (if_neg h)

theorem sameRegisters_setStream (x : Welt) (n : Nat) (st : Stream) : sameRegisters x (x.setStream n st) :=
  sameRegisters_of_registers rfl

theorem sameRegisters_refl (x : Welt) : sameRegisters x x := sameRegisters_of_registers rfl

/-- What a head that is done leaves: the next one is due, and nothing but its stream has changed. -/
theorem nextHead_spec (hw : w < s.welts.length) (queue : List StreamOp) (f : Stream → Stream) :
    let u := s.nextHead w k queue f
    headDone u w k queue ∧ u.wgs = s.wgs ∧ (∀ l, u.getByte l = s.getByte l) ∧
      u.weltAt w = (s.weltAt w).setStream k.toNat
        { f ((s.weltAt w).strm k) with queue := queue, paid := 0, since := none } ∧
      ∀ i, i ≠ w → u.weltAt i = s.weltAt i := by
  intro u
  let st : Stream := { f ((s.weltAt w).strm k) with queue := queue, paid := 0, since := none }
  let t := s.setWeltAt w ((s.weltAt w).setStream k.toNat st)
  have welt (i : Nat) : t.weltAt i = if w = i ∧ i < s.welts.length then (s.weltAt w).setStream k.toNat st else s.weltAt i :=
    weltAt_setWeltAt ..
  have mine : t.weltAt w = (s.weltAt w).setStream k.toNat st := (welt w).trans (if_pos ⟨rfl, hw⟩)
  have stream : (t.weltAt w).strm k = st := by rw [mine, strm_setStream, if_pos rfl]
  have others (i : Nat) (hi : i ≠ w) : t.weltAt i = s.weltAt i := (welt i).trans (if_neg fun c => hi c.1.symm)
  have bytes (l : Loc) : t.getByte l = s.getByte l := getByte_setWeltAt ..
  have next (op : StreamOp) (r : List StreamOp) (e : queue = op :: r) : u = t.post (op.event w k) := by
    subst e
    rfl
  have same : u.welts = t.welts ∧ u.wgs = s.wgs ∧ ∀ l, u.getByte l = s.getByte l := by
    cases queue with
    | nil =>
      have e : u = t := rfl
      rw [e]
      exact ⟨rfl, rfl, bytes⟩
    | cons o q =>
      rw [next o q rfl]
      exact ⟨rfl, rfl, bytes⟩
  obtain ⟨welts, wgs, bytes⟩ := same
  have weltAt (i : Nat) : u.weltAt i = t.weltAt i := congrArg (fun ws => ws.getD i Welt.init) welts
  refine ⟨⟨?_, fun op r e => ?_⟩, wgs, bytes, (weltAt w).trans mine, fun i hi => (weltAt i).trans (others i hi)⟩
  · rw [weltAt, stream]
  · rw [next op r e]
    exact List.mem_append_right _ (List.mem_singleton.2 rfl)

end

/-! ### Work of other streams (R179, R180) -/

theorem contested_nil (o : Outstanding) : contested [] o = [] :=
  List.filter_eq_nil_iff.2 fun e _ => by simp

/-- Where no other stream has work outstanding, a head's own work makes nothing undefined. -/
theorem endWork_alone {s : State} {w : Nat} {k : BitVec 3} (alone : s.rivals w k = []) (o : Outstanding) :
    s.endWork w k o = s.setWeltAt w ((s.weltAt w).setStream k.toNat
      { (s.weltAt w).strm k with out := o :: ((s.weltAt w).strm k).out }) := by
  unfold State.endWork
  simp only [alone, contested_nil]
  rfl

/-- What of a welt its streams' work rests on. -/
def Welt.works (w : Welt) : Nat × Bool × Vector Stream 8 := (w.wg, w.ended, w.streams)

/-- The work of other streams is read off the welts alone. -/
theorem rivals_congr {s t : State} (count : t.welts.length = s.welts.length)
    (works : ∀ i, (t.weltAt i).works = (s.weltAt i).works) (w : Nat) (k : BitVec 3) : t.rivals w k = s.rivals w k := by
  have wg (i : Nat) : (t.weltAt i).wg = (s.weltAt i).wg := congrArg (·.1) (works i)
  have ended (i : Nat) : (t.weltAt i).ended = (s.weltAt i).ended := congrArg (·.2.1) (works i)
  have streams (i : Nat) : (t.weltAt i).streams = (s.weltAt i).streams := congrArg (·.2.2) (works i)
  simp only [State.rivals, State.weltsOf, Welt.strm, Welt.stream, count, wg, ended, streams]

theorem rivals_setWeltAt {s : State} {w : Nat} {x : Welt} (same : x.works = (s.weltAt w).works) (i : Nat) (k : BitVec 3) :
    (s.setWeltAt w x).rivals i k = s.rivals i k := by
  refine rivals_congr (length_setWeltAt ..) (fun j => ?_) i k
  rw [weltAt_setWeltAt]
  split
  next here => rw [same, here.1]
  next => rfl

/-- A head of a stream that has written elements of a tile, and is done: no byte that is read by address has changed, and
of the welts only the streams. -/
theorem tileHead_spec {s : State} {w : Nat} {k : BitVec 3} {queue : List StreamOp} {f : Stream → Stream}
    (hw : w < s.welts.length) (hg : (s.weltAt w).wg < s.wgs.length) (alone : s.rivals w k = []) (t : Nat) (acc : Ty)
    (es : List (Nat × W64)) (o : Outstanding) :
    let g := s.wgAt (s.weltAt w).wg
    let u := ((s.setWgAt (s.weltAt w).wg (g.setCells t acc es)).endWork w k o).nextHead w k queue f
    headDone u w k queue ∧ u.wgAt (s.weltAt w).wg = g.setCells t acc es ∧ (∀ l, u.getByte l = s.getByte l) ∧
      ∀ i, sameRegisters (s.weltAt i) (u.weltAt i) := by
  intro g u
  let s1 := s.setWgAt (s.weltAt w).wg (g.setCells t acc es)
  have alone1 : s1.rivals w k = [] := (rivals_congr (s := s) (t := s1) rfl (fun _ => rfl) w k).trans alone
  let y := (s.weltAt w).setStream k.toNat { (s.weltAt w).strm k with out := o :: ((s.weltAt w).strm k).out }
  have ended : s1.endWork w k o = s1.setWeltAt w y := endWork_alone alone1 o
  have mine : (s1.setWeltAt w y).weltAt w = y := (weltAt_setWeltAt ..).trans (if_pos ⟨rfl, hw⟩)
  obtain ⟨done, wgs, bytes, welt, others⟩ :=
    nextHead_spec (s := s1.setWeltAt w y) (k := k) ((length_setWeltAt s1 w y).symm ▸ hw) queue f
  rw [← ended] at done wgs bytes welt others
  refine ⟨done, ?_, fun l => ?_, fun i => ?_⟩
  · have e : u.wgAt (s.weltAt w).wg = s1.wgAt (s.weltAt w).wg := by
      rw [State.wgAt, wgs, ended]
      rfl
    rw [e, wgAt_setWgAt, if_pos ⟨rfl, hg⟩]
  · rw [bytes, ended, getByte_setWeltAt]
    exact getByte_of_tangible (tangible_setWgAt s (s.weltAt w).wg (g.setCells t acc es) rfl) l
  · by_cases hi : i = w
    · rw [hi, welt, ended, mine]
      exact sameRegisters_of_registers rfl
    · rw [others i hi, ended, weltAt_setWeltAt, if_neg fun c => hi c.1.symm]
      exact sameRegisters_refl _

end Sys2Proof.Machine

/-!
What each entry of a stream does when its turn comes (R175, R185, R190-R192), and O31.
-/

namespace Sys2Proof.Machine

open Safety Claims

/-! ### Rows in registers (R191) -/

/-- A lane with the values of `n` rows in its registers. -/
def Lane.fillRows (l : Lane) (ty : Ty) (reg : Nat → Nat) (v : Nat → W64) (n : Nat) : Lane :=
  (List.range n).foldl (fun l i => l.wrTy ty (reg i) (v i)) l

theorem fillRows_succ (l : Lane) (ty : Ty) (reg : Nat → Nat) (v : Nat → W64) (n : Nat) :
    l.fillRows ty reg v (n + 1) = (l.fillRows ty reg v n).wrTy ty (reg n) (v n) := by
  simp [Lane.fillRows, List.range_succ]

section
variable {l : Lane} {ty : Ty} {reg : Nat → Nat} {v : Nat → W64} {n : Nat}

theorem sameReg_fillRows {r : Nat} (hr : r < 128) (out : ∀ i < n, r ∉ regsOf ty (reg i)) :
    sameReg (l.fillRows ty reg v n) l r := by
  induction n with
  | zero => exact ⟨rfl, rfl, rfl⟩
  | succ n ih =>
    rw [fillRows_succ]
    exact sameReg_trans (wrTy_other _ _ _ _ _ hr (out n (Nat.lt_succ_self n))) (ih fun i hi => out i (Nat.lt_succ_of_lt hi))

theorem full_fillRows {r i : Nat} (hr : r < 128) (hi : i < n) (mem : r ∈ regsOf ty (reg i)) :
    (l.fillRows ty reg v n).full.getLsbD r = true := by
  induction n with
  | zero => exact absurd hi (Nat.not_lt_zero i)
  | succ n ih =>
    rw [fillRows_succ]
    by_cases last : r ∈ regsOf ty (reg n)
    · exact (wrTy_full _ _ _ _ _ hr last).1
    · have earlier : i < n := by
        rcases Nat.lt_succ_iff_lt_or_eq.1 hi with e | rfl
        · exact e
        · exact absurd mem last
      rw [(wrTy_other _ _ _ _ _ hr last).2.1]
      exact ih earlier

theorem rdTy_fillRows {i : Nat} (hi : i < n) (regs : ∀ r ∈ regsOf ty (reg i), r < 128)
    (apart : ∀ j < n, j ≠ i → ∀ r ∈ regsOf ty (reg i), r ∉ regsOf ty (reg j)) :
    (l.fillRows ty reg v n).rdTy ty (reg i) = if ty.is64 then v i else ((v i).setWidth 32).setWidth 64 := by
  induction n with
  | zero => exact absurd hi (Nat.not_lt_zero i)
  | succ n ih =>
    rw [fillRows_succ]
    by_cases last : n = i
    · subst last
      exact rdTy_wrTy_of_regs _ _ _ _ regs
    · rw [← ih (by omega) fun j hj => apart j (Nat.lt_succ_of_lt hj)]
      exact rdTy_congr fun r hr =>
        (wrTy_other _ _ _ _ _ (regs r hr) (apart n (Nat.lt_succ_self n) last r hr)).1

end

/-- The type of one value of an accumulator type in a lane (R191). -/
def rowTy (acc : Ty) : Ty := if acc = .f64 then .b64 else .b32

/-- The register of the value of row `i` (R191). -/
def rowReg (acc : Ty) (d i : Nat) : Nat := if acc = .f64 then d + 2 * i else d + i

/-- The registers that some rows take. -/
def rowWidth (acc : Ty) (count : Nat) : Nat := if acc = .f64 then 2 * count else count

theorem is64_rowTy (acc : Ty) : (rowTy acc).is64 = decide (acc = .f64) := by
  unfold rowTy
  split <;> simp [*, Ty.is64]

theorem mem_rowReg {acc : Ty} {d i r : Nat} : r ∈ regsOf (rowTy acc) (rowReg acc d i) ↔
    if acc = .f64 then r = d + 2 * i ∨ r = d + 2 * i + 1 else r = d + i := by
  unfold regsOf rowReg
  rw [is64_rowTy]
  by_cases e : acc = .f64 <;> simp [e]

theorem exists_rowReg {acc : Ty} {d r count : Nat} :
    (∃ i < count, r ∈ regsOf (rowTy acc) (rowReg acc d i)) ↔ d ≤ r ∧ r < d + rowWidth acc count := by
  simp only [mem_rowReg, rowWidth]
  by_cases e : acc = .f64
  · simp only [e, if_true]
    exact ⟨fun ⟨i, hi, h⟩ => by omega, fun ⟨low, high⟩ => ⟨(r - d) / 2, by omega, by omega⟩⟩
  · simp only [e, if_false]
    exact ⟨fun ⟨i, hi, h⟩ => by omega, fun ⟨low, high⟩ => ⟨r - d, by omega, by omega⟩⟩

theorem rowReg_apart {acc : Ty} {d i j r : Nat} (h : j ≠ i) (hi : r ∈ regsOf (rowTy acc) (rowReg acc d i)) :
    r ∉ regsOf (rowTy acc) (rowReg acc d j) := by
  rw [mem_rowReg] at *
  split at hi <;> rename_i e <;> simp only [e, if_true, if_false] <;> omega

/-- Lanes of a set changed by one function after the other. -/
theorem lane_foldl_mapLanes {α : Type} (e : Lanes) (f : α → Nat → Lane → Lane) (is : List α) (w : Welt) {l : Nat}
    (hl : l < 32) : (is.foldl (fun y i => y.mapLanes e (f i)) w).lane l =
      if e.getLsbD l then is.foldl (fun x i => f i l x) (w.lane l) else w.lane l := by
  induction is generalizing w with
  | nil => simp
  | cons i is ih =>
    rw [List.foldl_cons, ih, lane_mapLanes _ _ _ _ hl]
    split <;> rfl

theorem foldl_mapLanes_rest {α : Type} (e : Lanes) (f : α → Nat → Lane → Lane) (is : List α) (w : Welt) :
    { is.foldl (fun y i => y.mapLanes e (f i)) w with lanes := w.lanes } = w :=
  foldl_keeps (fun x : Welt => ({ x with lanes := w.lanes } : Welt)) (fun _ _ => by simp only [Welt.mapLanes]) is w

/-- A value for each of the elements from 0. -/
def eachElem (n : Nat) (v : Nat → W64) : List (Nat × W64) := (List.range n).map fun e => (e, v e)

theorem mem_eachElem {n : Nat} {v : Nat → W64} {x : Nat × W64} : x ∈ eachElem n v ↔ x.1 < n ∧ x.2 = v x.1 := by
  simp only [eachElem, List.mem_map, List.mem_range]
  constructor
  · rintro ⟨e, he, rfl⟩
    exact ⟨he, rfl⟩
  · rintro ⟨hx, hv⟩
    exact ⟨x.1, hx, Prod.ext rfl hv.symm⟩

theorem nodup_eachElem (n : Nat) (v : Nat → W64) : ((eachElem n v).map Prod.fst).Nodup := by
  rw [eachElem, List.map_map, Function.comp_def, List.map_id']
  exact List.nodup_range

/-! ### Each entry at the head of its stream (R190-R192) -/

section
variable {s : State} {w : Nat} {k : BitVec 3} {rest : List StreamOp}

/-- A head that changes no more than its stream. -/
theorem streamHead_spec {op : StreamOp} (r : headRuns s w k op rest) (f : Stream → Stream) :
    let u := s.nextHead w k rest f
    headDone u w k rest ∧ ((∀ l, u.getByte l = s.getByte l) ∧ u.wgs = s.wgs ∧
      (∀ i, sameRegisters (s.weltAt i) (u.weltAt i)) ∧ ∀ j, j ≠ k → (u.weltAt w).strm j = (s.weltAt w).strm j) ∧
      (u.weltAt w).strm k = { f ((s.weltAt w).strm k) with queue := rest, paid := 0, since := none } := by
  intro u
  obtain ⟨done, wgs, bytes, mine, others⟩ := nextHead_spec (k := k) r.1 rest f
  refine ⟨done, ⟨bytes, wgs, fun i => ?_, fun j hj => ?_⟩, ?_⟩
  · by_cases hi : i = w
    · rw [hi, mine]
      exact sameRegisters_setStream ..
    · rw [others i hi]
      exact sameRegisters_refl _
  · rw [mine, stream_setStream_ne _ _ hj]
  · rw [mine, strm_setStream, if_pos rfl]

/-- MZERO makes its tile zero (R190). -/
theorem mzero_effect {t : Nat} (wf : memoriesWf s) (r : headRuns s w k (.mzero t) rest) :
    let g := s.wgAt (s.weltAt w).wg
    let acc := ((s.weltAt w).strm k).acc
    ∃ u, exec (.streamInstructionEffect w k) s = .next u ∧ headDone u w k rest ∧
      (∀ e < 1024, (u.wgAt (s.weltAt w).wg).cell t acc e = 0) ∧ otherTilesKept g (u.wgAt (s.weltAt w).wg) t acc ∧
      (∀ l, u.getByte l = s.getByte l) ∧ ∀ i, sameRegisters (s.weltAt i) (u.weltAt i) := by
  intro g acc
  obtain ⟨hw, hg, -, -, -, -, alone⟩ := id r
  obtain ⟨-, -, wf⟩ := memoriesWf_wgAt wf (s.weltAt w).wg
  let es : List (Nat × W64) := eachElem 1024 fun _ => 0
  obtain ⟨done, tile, bytes, registers⟩ := tileHead_spec (queue := rest) (f := id) hw hg alone t acc es
    ⟨t, acc, false, 0, 32, BitVec.allOnes 32, [], []⟩
  have run : s.streamEffect w k (.mzero t) rest = ((s.setWgAt (s.weltAt w).wg (g.setCells t acc es)).endWork w k
      ⟨t, acc, false, 0, 32, BitVec.allOnes 32, [], []⟩).nextHead w k rest id := by
    simp only [State.streamEffect, es, eachElem, g, acc]
  refine ⟨_, (exec_streamInstructionEffect_head r rfl).trans (congrArg _ run), done, fun e he => ?_, ?_, bytes, registers⟩
  · refine (congrArg (fun h : Wg => h.cell t acc e) tile).trans ?_
    have zero : (e, (0 : W64)) ∈ es := mem_eachElem.2 ⟨he, rfl⟩
    rw [cell_setCells t acc wf (nodup_eachElem 1024 fun _ => 0) zero]
    simp [lowBits]
  · exact (congrArg (fun h : Wg => otherTilesKept g h t acc) tile).mpr
      (otherTilesKept_setCells t acc wf fun x hx => (mem_eachElem.1 hx).1)

/-- MRD fills its registers from the rows of its tile (R191). -/
theorem mrd_effect {t d row count : Nat} {lanes : Lanes} (r : headRuns s w k (.mrd t d row count lanes) rest) :
    let x := s.weltAt w
    let acc := (x.strm k).acc
    let v (l i : Nat) := (s.wgAt x.wg).cell t acc (32 * (row + i) + l)
    ∃ u, exec (.streamInstructionEffect w k) s = .next u ∧ headDone u w k rest ∧ u.wgs = s.wgs ∧
      (∀ l < 32, (u.weltAt w).lane l = if lanes.getLsbD l
        then (x.lane l).fillRows (rowTy acc) (rowReg acc d) (v l) count else x.lane l) ∧
      (∀ l, u.getByte l = s.getByte l) ∧ sameRegisters { x with lanes := (u.weltAt w).lanes } (u.weltAt w) ∧
      ∀ i, i ≠ w → sameRegisters (s.weltAt i) (u.weltAt i) := by
  intro x acc v
  obtain ⟨hw, -, -, -, -, -, alone⟩ := id r
  let fill (i l : Nat) (y : Lane) : Lane :=
    if acc = .f64 then y.wrTy .b64 (d + 2 * i) (v l i) else y.wrTy .b32 (d + i) (v l i)
  have fill_eq (i l : Nat) (y : Lane) : fill i l y = y.wrTy (rowTy acc) (rowReg acc d i) (v l i) := by
    simp only [fill, rowTy, rowReg]
    split <;> rfl
  let x1 := (List.range count).foldl (fun y i => y.mapLanes lanes (fill i)) x
  let o : Outstanding := ⟨t, acc, false, row, count, lanes, [], []⟩
  have run : s.streamEffect w k (.mrd t d row count lanes) rest =
      ((s.setWeltAt w x1).endWork w k o).nextHead w k rest id := by
    simp only [State.streamEffect, alone, contested_nil, List.contains_nil, Bool.false_eq_true, if_false, x1, fill, o, v,
      acc, x]
  have kept : { x1 with lanes := x.lanes } = x := foldl_mapLanes_rest ..
  have works : x1.works = x.works := (congrArg Welt.works kept :)
  have welt (y : Welt) : (s.setWeltAt w y).weltAt w = y := (weltAt_setWeltAt ..).trans (if_pos ⟨rfl, hw⟩)
  let y := x1.setStream k.toNat { x1.strm k with out := o :: (x1.strm k).out }
  have ended : (s.setWeltAt w x1).endWork w k o = s.setWeltAt w y := by
    rw [endWork_alone ((rivals_setWeltAt works w k).trans alone), welt, setWeltAt_setWeltAt]
  obtain ⟨done, wgs, bytes, mine, others⟩ := nextHead_spec (s := s.setWeltAt w y) (k := k)
    ((length_setWeltAt s w y).symm ▸ hw) rest id
  rw [welt] at mine
  rw [ended] at run
  refine ⟨_, (exec_streamInstructionEffect_head r rfl).trans (congrArg _ run), done, wgs, fun l hl => ?_, fun l => ?_, ?_,
    fun i hi => ?_⟩
  · rw [mine]
    refine (lane_foldl_mapLanes lanes fill (List.range count) x hl).trans ?_
    simp only [fill_eq]
    rfl
  · rw [bytes, getByte_setWeltAt]
  · rw [mine]
    exact sameRegisters_of_registers (congrArg (fun z : Welt => (({ z with lanes := x1.lanes } : Welt)).registers) kept :)
  · rw [others i hi, weltAt_setWeltAt, if_neg fun c => hi c.1.symm]
    exact sameRegisters_refl _

/-- MWR writes its values to the rows of its tile (R191). -/
theorem mwr_effect {t row count : Nat} {vals : List (Nat × List W64)} (wf : memoriesWf s)
    (r : headRuns s w k (.mwr t row count vals) rest) (rows : row + count ≤ 32) (lanes : ∀ v ∈ vals, v.1 < 32)
    (once : vals.Pairwise fun a b => a.1 ≠ b.1) :
    let g := s.wgAt (s.weltAt w).wg
    let acc := ((s.weltAt w).strm k).acc
    ∃ u, exec (.streamInstructionEffect w k) s = .next u ∧ headDone u w k rest ∧
      (∀ v ∈ vals, ∀ i < count, ((u.wgAt (s.weltAt w).wg).cell t acc (32 * (row + i) + v.1)).toNat
        = (v.2.getD i 0).toNat % 2 ^ (8 * accSize acc)) ∧
      (∀ e < 1024, (∀ v ∈ vals, e % 32 = v.1 → e / 32 < row ∨ row + count ≤ e / 32) →
        (u.wgAt (s.weltAt w).wg).cell t acc e = g.cell t acc e) ∧ otherTilesKept g (u.wgAt (s.weltAt w).wg) t acc ∧
      (∀ l, u.getByte l = s.getByte l) ∧ ∀ i, sameRegisters (s.weltAt i) (u.weltAt i) := by
  intro g acc
  obtain ⟨hw, hg, -, -, -, -, alone⟩ := id r
  obtain ⟨-, -, wf⟩ := memoriesWf_wgAt wf (s.weltAt w).wg
  let es : List (Nat × W64) := vals.flatMap fun v => (List.range count).map fun i => (32 * (row + i) + v.1, v.2.getD i 0)
  have mem (x : Nat × W64) : x ∈ es ↔ ∃ v ∈ vals, ∃ i < count, (32 * (row + i) + v.1, v.2.getD i 0) = x := by
    simp only [es, List.mem_flatMap, List.mem_map, List.mem_range]
  have nodup : (es.map Prod.fst).Nodup := by
    simp only [es, List.map_flatMap, List.map_map, Function.comp_def]
    refine List.nodup_flatMap.2 ⟨fun v _ => List.nodup_range.map fun i j e => by simpa using e, ?_⟩
    refine once.imp_of_mem fun {a b} ha hb apart => List.disjoint_left.2 fun e ea eb => apart ?_
    obtain ⟨i, -, rfl⟩ := List.mem_map.1 ea
    obtain ⟨j, -, e⟩ := List.mem_map.1 eb
    have := lanes a ha
    have := lanes b hb
    omega
  obtain ⟨done, tile, bytes, registers⟩ := tileHead_spec (queue := rest) (f := id) hw hg alone t acc es
    ⟨t, acc, false, row, count, Lanes.ofPred fun i => vals.any fun v => v.1 == i.val, [], []⟩
  refine ⟨_, exec_streamInstructionEffect_head r rfl, done, fun v hv i hi => ?_, fun e he out => ?_, ?_, bytes, registers⟩
  · refine (congrArg (fun h : Wg => (h.cell t acc (32 * (row + i) + v.1)).toNat) tile).trans ?_
    rw [cell_setCells t acc wf nodup ((mem _).2 ⟨v, hv, i, hi, rfl⟩)]
    have small : 2 ^ (8 * accSize acc) ≤ 2 ^ 64 := by
      refine Nat.pow_le_pow_right (by decide) ?_
      unfold accSize
      split <;> decide
    have pos : 0 < 2 ^ (8 * accSize acc) := Nat.two_pow_pos _
    rw [lowBits, BitVec.toNat_ofNat, Nat.mod_eq_of_lt ((Nat.mod_lt _ pos).trans_le small)]
  · refine (congrArg (fun h : Wg => h.cell t acc e) tile).trans (cell_setCells_other t acc wf fun x hx same => ?_)
    obtain ⟨v, hv, i, hi, rfl⟩ := (mem x).1 hx
    have := lanes v hv
    have := out v hv
    omega
  · refine (congrArg (fun h : Wg => otherTilesKept g h t acc) tile).mpr (otherTilesKept_setCells t acc wf fun x hx => ?_)
    obtain ⟨v, hv, i, hi, rfl⟩ := (mem x).1 hx
    have := lanes v hv
    omega

end

/-- A head whose price is not paid stays due (R194, R195). -/
theorem unpaid_head {s : State} {w : Nat} {k : BitVec 3} {op : StreamOp} {rest : List StreamOp} (hw : w < s.welts.length)
    (alive : (s.weltAt w).ended = false) (queue : ((s.weltAt w).strm k).queue = op :: rest)
    (resident : (s.wgAt (s.weltAt w).wg).st = .resident) (unpaid : ((s.weltAt w).strm k).paid < s.headPrice w k) :
    ∃ u, exec (op.event w k) s = .next u ∧ ((∀ l, u.getByte l = s.getByte l) ∧ u.wgs = s.wgs ∧
      (∀ i, sameRegisters (s.weltAt i) (u.weltAt i)) ∧ ∀ j, j ≠ k → (u.weltAt w).strm j = (s.weltAt w).strm j) ∧
      ((u.weltAt w).strm k).queue = ((s.weltAt w).strm k).queue ∧ op.event w k ∈ u.agenda := by
  let st := (s.weltAt w).strm k
  let y := (s.weltAt w).setStream k.toNat { st with since := some (st.since.getD s.now) }
  have waits (go : State) : s.headReady w k (op.event w k) go = (s.setWeltAt w y).post (op.event w k) := by
    unfold State.headReady
    simp only [resident]
    exact (if_neg (by simp)).trans (if_pos unpaid)
  have run : exec (op.event w k) s = .next ((s.setWeltAt w y).post (op.event w k)) := by
    cases op
    case step =>
      refine (exec_matrixStep w k s).trans ?_
      rw [execMatrixStep]
      simp only [alive, queue, Bool.false_eq_true, if_false]
      exact congrArg Host.Outcome.next (waits _)
    all_goals
      refine (exec_streamInstructionEffect w k s).trans ?_
      rw [execStreamInstructionEffect]
      simp only [alive, Bool.false_eq_true, if_false]
      rw [queue]
      exact congrArg Host.Outcome.next (waits _)
  have welt (i : Nat) : ((s.setWeltAt w y).post (op.event w k)).weltAt i = if w = i ∧ i < s.welts.length then y else s.weltAt i :=
    weltAt_setWeltAt ..
  have mine : ((s.setWeltAt w y).post (op.event w k)).weltAt w = y := (welt w).trans (if_pos ⟨rfl, hw⟩)
  refine ⟨_, run, ⟨fun l => getByte_setWeltAt s w y l, rfl, fun i => ?_, fun j hj => ?_⟩, ?_, ?_⟩
  · rw [welt]
    split
    next here =>
      rw [← here.1]
      exact sameRegisters_setStream ..
    next => exact sameRegisters_refl _
  · rw [mine, stream_setStream_ne _ _ hj]
  · rw [mine, strm_setStream, if_pos rfl]
  · exact List.mem_append_right _ (List.mem_singleton.2 rfl)

/-- Settles O31: each entry by its lemma; one that is not paid for stays due. -/
theorem streamOrderEffects : Obligations.StreamOrderEffects := by
  intro s w k op rest wf x g st unchanged
  refine ⟨fun r => ⟨?_, ?_, ?_, ?_, ?_, ?_⟩, fun hw alive queue resident unpaid => unpaid_head hw alive queue resident unpaid⟩
  · rintro t rfl
    exact mzero_effect wf r
  · rintro t d row count lanes rfl - room
    have width : d + rowWidth st.acc count ≤ 128 := room
    obtain ⟨u, run, done, wgs, lane, bytes, mine, others⟩ := mrd_effect r
    have filled {l : Nat} (hl : l < 32) (hm : lanes.getLsbD l = true) := (lane l hl).trans (if_pos hm)
    refine ⟨u, run, done, wgs, fun l hl hm i hi => ?_, fun l hl q hq hm low high => ?_, fun l hl q hq out => ?_, bytes, mine,
      others⟩
    · have value := rdTy_fillRows (l := x.lane l) (ty := rowTy st.acc) (reg := rowReg st.acc d)
        (v := fun i => g.cell t st.acc (32 * (row + i) + l)) hi
        (fun q hq => (exists_rowReg.1 ⟨i, hi, hq⟩).2.trans_le width) (fun j _ hj q hq => rowReg_apart hj hq)
      rw [is64_rowTy] at value
      rw [filled hl hm]
      by_cases e : st.acc = .f64
      · have ty : rowTy st.acc = .b64 := if_pos e
        have reg : rowReg st.acc d i = d + 2 * i := if_pos e
        rw [if_pos (decide_eq_true e), reg, ty] at value
        rw [if_pos e, ty]
        exact value
      · have ty : rowTy st.acc = .b32 := if_neg e
        have reg : rowReg st.acc d i = d + i := if_neg e
        rw [if_neg (by simpa using e), reg, ty] at value
        rw [if_neg e, ty]
        simpa [Lane.rdTy, Ty.is64] using congrArg (BitVec.setWidth 32) value
    · obtain ⟨i, hi, mem⟩ := exists_rowReg.2 ⟨low, high⟩
      rw [filled hl hm]
      exact full_fillRows hq hi mem
    · rw [lane l hl]
      split
      next hm =>
        refine (sameReg_fillRows hq fun i hi mem => ?_).1
        have inside : d ≤ q ∧ q < d + rowWidth st.acc count := exists_rowReg.1 ⟨i, hi, mem⟩
        have outside : q < d ∨ d + rowWidth st.acc count ≤ q := out hm
        omega
      next => rfl
  · rintro t row count vals rfl rows lanes once
    exact mwr_effect wf r rows lanes once
  · rintro ty rfl
    obtain ⟨done, same, mine⟩ := streamHead_spec r fun st => { st with acc := ty }
    exact ⟨_, exec_streamInstructionEffect_head r rfl, done, same, (congrArg Stream.acc mine :)⟩
  · rintro dep e act thr rfl
    obtain ⟨done, same, mine⟩ := streamHead_spec r fun st =>
      { st with dep := dep, k := e, act := act, thr := if thr = 0x80000000#32 then 0 else thr, n := 0 }
    exact ⟨_, exec_streamInstructionEffect_head r rfl, done, same, (congrArg Stream.dep mine :), (congrArg Stream.k mine :),
      (congrArg Stream.act mine :), (congrArg Stream.thr mine :), (congrArg Stream.n mine :)⟩
  · rintro n rfl
    obtain ⟨done, same, mine⟩ := streamHead_spec r fun st => { st with samp := max st.samp n }
    exact ⟨_, exec_streamInstructionEffect_head r rfl, done, same, (congrArg Stream.samp mine :)⟩

end Sys2Proof.Machine

/-!
What a step reads and writes (R177, R180, R234, R405), and O32.
-/

namespace Sys2Proof.Machine

open Safety Claims

/-! ### What the engine of a step records (R234, R236) -/

theorem uncached_engineTouch (s : State) (write : Bool) (ls : List Loc) :
    (s.engineTouch write ls).uncached = s.uncached := by
  unfold State.engineTouch
  exact (foldl_keeps State.uncached (fun _ _ => uncached_touchLocs ..) _ _).trans (uncached_homeTouch ..)

/-- Where no partial is outstanding, what an engine reads changes the caches and TLBs alone. -/
theorem uncached_engineReads {s : State} (h : noPartials s) (ls : List Loc) :
    (s.engineReads ls).uncached = s.uncached := by
  unfold State.engineReads
  dsimp only
  rw [settle_of_noPartials h]
  refine (foldl_keeps State.uncached (fun t k => ?_) _ _).trans (uncached_engineTouch ..)
  split
  · exact uncached_evalLine ..
  · rfl

/-! ### The tile of a step (R177) -/

/-- A step computes one value for each element. -/
theorem stepOut_elements (s : State) (w g level : Nat) (acc : Ty) (t : Nat) (ha hb : Res) (pa pb d : Nat) (taint : List Span) :
    (s.stepOut w g level acc t ha hb pa pb d taint).cells.map Prod.fst = List.range 1024 := by
  simp only [State.stepOut, List.map_map, Function.comp_def, List.map_id']

/-- The state in which a step computes: what it reads has been recorded. -/
def State.stepState (s : State) (w level : Nat) (ha hb : Res) (pa pb : Nat) : State :=
  s.engineReads (s.panelLocs (s.weltAt w).wg level ha pa ++ s.panelLocs (s.weltAt w).wg level hb pb)

/-- A step writes the elements that it computes, and changes of its welt, beside its stream, the float controls and the
records alone. -/
theorem runStep_writes (s : State) (w : Nat) (k : BitVec 3) (t : Nat) (ha hb : Res) (a0 b0 : Nat) (da db dt : Int)
    (j count : Nat) (f : W32) (level : Nat) (taint : List Span) (rest : List StreamOp) :
    let pa := ((a0 : Int) + j * da).toNat
    let pb := ((b0 : Int) + j * db).toNat
    let s1 := s.stepState w level ha hb pa pb
    let x := s1.weltAt w
    let acc := (x.strm k).acc
    let tile := ((t : Int) + j * dt).toNat
    let es := (s1.stepOut w x.wg level acc tile ha hb pa pb (x.strm k).dep taint).cells
    ∃ (y : Welt) (o : Outstanding) (queue : List StreamOp) (g : Stream → Stream), y.works = x.works ∧
      s.runStep w k t ha hb a0 b0 da db dt j count f level taint rest =
        (((s1.setWeltAt w y).setWgAt x.wg ((s1.wgAt x.wg).setCells tile acc es)).endWork w k o).nextHead w k queue g := by
  intro pa pb s1 x acc tile es
  refine ⟨_, _, _, _, ?_, by rw [State.runStep]; rfl⟩
  rfl

/-- An element of the tile after a step is the value that the step computes for it. -/
theorem runStep_cell {s : State} {w : Nat} {k : BitVec 3} {t a0 b0 j count level : Nat} {ha hb : Res} {da db dt : Int}
    {f : W32} {taint : List Span} {rest : List StreamOp} (wf : memoriesWf s)
    (r : headRuns s w k (.step t ha hb a0 b0 da db dt j count f level taint) rest) (none : noPartials s) {e : Nat} {v : W64} :
    let x := s.weltAt w
    let acc := (x.strm k).acc
    let tile := ((t : Int) + j * dt).toNat
    let pa := ((a0 : Int) + j * da).toNat
    let pb := ((b0 : Int) + j * db).toNat
    (e, v) ∈ ((s.stepState w level ha hb pa pb).stepOut w x.wg level acc tile ha hb pa pb (x.strm k).dep taint).cells →
    ((s.runStep w k t ha hb a0 b0 da db dt j count f level taint rest).wgAt x.wg).cell tile acc e = lowBits acc v := by
  intro x acc tile pa pb mem
  obtain ⟨hw, hg, -, -, -, -, alone⟩ := id r
  obtain ⟨-, -, wf⟩ := memoriesWf_wgAt wf x.wg
  have same : (s.stepState w level ha hb pa pb).uncached = s.uncached := uncached_engineReads none _
  obtain ⟨y, o, queue, g, works, run⟩ := runStep_writes s w k t ha hb a0 b0 da db dt j count f level taint rest
  have welt (i : Nat) : (s.stepState w level ha hb pa pb).weltAt i = s.weltAt i := weltAt_of_uncached same i
  have count := count_of_uncached same
  have wgs : (s.stepState w level ha hb pa pb).wgs = s.wgs := (congrArg State.wgs same :)
  have wgAt : (s.stepState w level ha hb pa pb).wgAt x.wg = s.wgAt x.wg := congrArg (fun l => l.getD x.wg Wg.init) wgs
  have once := stepOut_elements (s.stepState w level ha hb pa pb) w x.wg level acc tile ha hb pa pb (x.strm k).dep taint
  revert mem once
  generalize s.stepState w level ha hb pa pb = s1 at run works welt count wgs wgAt
  intro mem once
  rw [welt w] at run works
  have mine : (s1.setWeltAt w y).weltAt w = y := (weltAt_setWeltAt ..).trans (if_pos ⟨rfl, count ▸ hw⟩)
  have wg : y.wg = x.wg := congrArg (·.1) works
  have quiet : (s1.setWeltAt w y).rivals w k = [] :=
    (rivals_setWeltAt (works.trans (congrArg Welt.works (welt w).symm)) w k).trans
      ((rivals_congr count (fun i => congrArg Welt.works (welt i)) w k).trans alone)
  have written := (tileHead_spec (s := s1.setWeltAt w y) (queue := queue) (f := g) ((length_setWeltAt s1 w y).symm ▸ count ▸ hw)
    (by rw [mine, wg]; exact wgs ▸ hg) quiet tile acc
    (s1.stepOut w x.wg level acc tile ha hb pa pb (x.strm k).dep taint).cells o).2.1
  rw [mine, wg] at written
  rw [run]
  refine (congrArg (fun h : Wg => h.cell tile acc e) written).trans ?_
  exact cell_setCells tile acc (wgAt ▸ wf) (once ▸ List.nodup_range) mem

/-! ### A step whose reads change what its panels are (R234, R405)

A state in which the TLBs hold a translation of 64 KiB for the second of two stash blocks, and a translation of 2 MiB that
reaches over both. The A panel lies in the first block, the B panel in the second, and the byte of each at its start is 1.
Before the step the B panel is found through the small translation. The engine's read of the A panel enters the large one
before it in the TLB, and the step reads its B panel through that one, at a device byte that holds 0. -/

/-- A reservation of one row of bytes in the stash of the workgroup of role 0, so many KiB from its start. -/
def remotePanel (base : Nat) : Res := ⟨.s8, 0, base, 0, 0, 0, true, false, 0, 0⟩

/-- One step of a panel in the first stash block with a panel in the second. -/
def shadowedStep : StreamOp := .step 0 (remotePanel 0) (remotePanel 64) 0 0 0 0 0 0 1 0 0 []

def shadowedWelt : Welt :=
  { Welt.init with streams := Welt.init.streams.set 0 { Stream.init with acc := .s32, queue := [shadowedStep], paid := 100 } }

def shadowedState : State := { State.reset with
  ctxs := [Ctx.init]
  launches := [Launch.init]
  mem := [(0, 1), (0x20000, 1)]
  tlb := [⟨0, 0, 65536, 65536, 0x8800000000020000, false⟩]
  tlb2 := [⟨0, 0, 0, 2 ^ 21, 0x8800000000000000, false⟩]
  wgs := [{ Wg.init with blocks := (Wg.init.blocks.set 0 0xC000000000000000).set 1 0xC000000000010000 }]
  welts := [shadowedWelt] }

/-- The bytes of either panel before the step: 1 and then zeros. -/
def leadingOne (off : Nat) : Byte := if off % 65536 = 0 then 1 else 0

/-- The element that a panel has for the step's statement. -/
def shadowedElem (h : Res) (i q : Nat) : Operand := (operand h 0 leadingOne i q).getD ⟨false, 0, 0, 0, 1⟩

theorem shadowedState_wf : memoriesWf shadowedState := by
  unfold memoriesWf
  decide

theorem shadowedState_noPartials : noPartials shadowedState := by
  unfold noPartials
  decide

theorem shadowedState_headRuns : headRuns shadowedState 0 0 shadowedStep [] := by
  unfold headRuns
  decide +kernel

/-- Before the step either panel is read through the translation of its own block. -/
theorem shadowedState_reads (block : Nat) (hb : block < 2) :
    panelReads shadowedState 0 0 (remotePanel (64 * block)) 0 leadingOne := by
  have byte : ∀ n < 2, ∀ b < 48, let l : Loc := .block 0 (65536 * n + b) (0x20000 * n + b)
      shadowedState.resHome 0 (remotePanel (64 * n)) = some 0 ∧ shadowedState.badLoc l = false ∧
      shadowedState.seenByte ⟨0, 0⟩ l = leadingOne b ∧
      shadowedState.stashLoc 0 0 (1024 * (64 * n) + b) .load = .ok l := by decide +kernel
  refine ⟨fun i hi b hb' => ?_, fun scaled => absurd scaled (Bool.false_ne_true)⟩
  obtain rfl : i = 0 := Nat.le_zero.1 hi
  obtain ⟨home, good, seen, found⟩ := byte block hb b hb'
  have off : 1536 * 0 + 48 * 0 + b = b := by omega
  rw [off]
  exact ⟨0, _, home, good, seen, (if_pos rfl).mpr ⟨found, nofun⟩⟩

theorem shadowedElem_spec (block : Nat) (hb : block < 2) : ∀ i < 32, ∀ q < 48,
    operand (remotePanel (64 * block)) 0 leadingOne i q = some (shadowedElem (remotePanel (64 * block)) i q) := by
  have finite : ∀ n < 2, ∀ i < 32, ∀ q < 48, (operand (remotePanel (64 * n)) 0 leadingOne i q).isSome = true := by
    decide +kernel
  intro i hi q hq
  obtain ⟨o, ho⟩ := Option.isSome_iff_exists.1 (finite block hb i hi q hq)
  rw [shadowedElem, ho, Option.getD_some]

/-- The first element of the tile is to become 1. -/
theorem shadowed_row : ((List.range (remotePanel 0).perRow).map fun q =>
    termOf 0 (shadowedElem (remotePanel 0) 0 q) (shadowedElem (remotePanel 64) 0 q)).sum.floor = 1 := by
  decide +kernel

/-- The step computes 0 for it. -/
theorem shadowed_out : (0, 0) ∈ ((shadowedState.stepState 0 0 (remotePanel 0) (remotePanel 64) 0 0).stepOut 0 0 0 .s32 0
    (remotePanel 0) (remotePanel 64) 0 0 0 []).cells := by
  have first : ((shadowedState.stepState 0 0 (remotePanel 0) (remotePanel 64) 0 0).stepOut 0 0 0 .s32 0
    (remotePanel 0) (remotePanel 64) 0 0 0 []).cells[0]? = some (0, 0) := by decide +kernel
  exact List.mem_of_getElem? first

/-- So the element is 0 after the step. -/
theorem shadowed_cell :
    ((shadowedState.runStep 0 0 0 (remotePanel 0) (remotePanel 64) 0 0 0 0 0 0 1 0 0 [] []).wgAt 0).cell 0 .s32 0 = 0 :=
  (runStep_cell shadowedState_wf shadowedState_headRuns shadowedState_noPartials shadowed_out).trans (by decide)

/-- Refutes O32: what a step reads may enter a translation into the TLBs (R234), and where the entry of one stash block
reaches over another, stale one (R405), the step reads its second panel elsewhere than it lay before the step. -/
theorem not_matrixStepAddsProducts : ¬ Obligations.MatrixStepAddsProducts := by
  unfold Obligations.MatrixStepAddsProducts
  intro h
  have claim := h shadowedState 0 0 0 (remotePanel 0) (remotePanel 64) 0 0 0 0 0 0 1 0 0 [] leadingOne leadingOne
    (shadowedElem (remotePanel 0)) (shadowedElem (remotePanel 64)) shadowedState_wf shadowedState_headRuns (.inl rfl)
    (by decide) rfl rfl (fun _ => shadowedState_noPartials) (shadowedState_reads 0 (by decide))
    (shadowedState_reads 1 (by decide))
    fun i hi q hq => ⟨shadowedElem_spec 0 (by decide) i hi q hq, shadowedElem_spec 1 (by decide) i hi q hq⟩
  obtain ⟨u, run, -, -, cells⟩ := claim.1 rfl
  have one := cells 0 (by decide)
  obtain rfl := Host.Outcome.next.inj ((exec_matrixStep_head shadowedState_headRuns).symm.trans run)
  have start : (shadowedState.wgAt 0).cell 0 .s32 0 = 0 := by decide
  have claimed : (0 : W64) = BitVec.setWidth 64 (BitVec.ofInt 32 (num .s32 (0 : W64) + 1)) :=
    shadowed_cell.symm.trans (one.trans (congrArg (BitVec.setWidth 64) (congrArg (BitVec.ofInt 32)
      (congrArg₂ (fun x y => num .s32 x + y) start shadowed_row))))
  exact absurd claimed (by decide)

end Sys2Proof.Machine

/-!
What the home of a region does: a byte stored into an image reads back (R197, R200, R204), a line is evaluated (R201), a
refit commits or is rejected (R207, R209, R211), and O34.
-/

namespace Sys2Proof.Machine

open Safety Claims

/-! ### The exception list (R200, R204) -/

/-- An entry that is entered is the one that its index has, and every other index keeps its own. -/
theorem find_putExc (es : List (Nat × W64)) (i j : Nat) (b : W64) :
    (putExc es i b).find? (fun e => e.1 == j) = if j = i then some (i, b) else es.find? fun e => e.1 == j := by
  induction es with
  | nil =>
    by_cases h : i = j
    · simp [putExc, h]
    · simp [putExc, h, Ne.symm h]
  | cons e es ih =>
    obtain ⟨k, c⟩ := e
    unfold putExc
    by_cases hj : j = i
    · subst hj
      split
      · simp
      · split
        · simp
        · rename_i other _
          simp [other, ih]
    · have ij : (i == j) = false := beq_false_of_ne (Ne.symm hj)
      split
      · rename_i same
        simp [ij, same]
      · split
        · simp [ij]
        · rw [List.find?_cons, List.find?_cons, ih, if_neg hj]

/-! ### A byte stored into an image (R197, R204)

Of an image whose elements take `k` bytes each. -/

/-- The bits of a byte's mask. -/
theorem getLsbD_byteMask (n : Nat) : (0xFF#64).getLsbD n = decide (n < 8) := by
  have mask : 0xFF#64 = (BitVec.allOnes 8).setWidth 64 := by decide
  rw [mask, BitVec.getLsbD_setWidth, BitVec.getLsbD_allOnes, ← Bool.decide_and]
  exact decide_eq_decide.2 (by omega)

section
variable {x : Region} {k off : Nat} (wide : x.slot = 8 * k) (pos : 0 < k)
include wide

/-- A byte of the image lies in one element. -/
theorem touched_byte (inside : off < x.bytes) : x.touched off 1 = [off / k] := by
  have bytes : x.bytes = x.size * k := by
    rw [Region.bytes, wide, Nat.mul_left_comm]
    omega
  have elem : off / k < x.size := Nat.div_lt_of_lt_mul (by rwa [bytes, Nat.mul_comm] at inside)
  have first : 8 * off / (8 * k) = off / k := Nat.mul_div_mul_left _ _ (by decide)
  have last : (8 * (off + 1) - 1) / (8 * k) = off / k := by
    rw [← Nat.div_div_eq_div_mul]
    congr 1
    omega
  have one : min (off / k) (x.size - 1) + 1 - off / k = 1 := by omega
  simp only [Region.touched, wide, first, last, one]
  rfl

theorem read_storeByte (inside : off < x.bytes) (b : Byte) (i : Nat) : (x.storeByte off b).read i =
    if i = off / k then x.merge (off / k) (x.read (off / k)) off b else x.read i := by
  simp only [Region.storeByte, touched_byte wide inside, List.foldl_cons, List.foldl_nil, Region.read, find_putExc]
  by_cases h : i = off / k
  · rw [if_pos h, if_pos h]
  · rw [if_neg h, if_neg h]
    rfl

include pos

/-- A byte of an element into which one byte is merged: the byte merged, or the one that stood there. -/
theorem extract_merge (small : k ≤ 8) (old : W64) (b : Byte) {m : Nat} (hm : m < k) :
    (x.merge (off / k) old off b).extractLsb' (8 * m) 8 = if m = off % k then b else old.extractLsb' (8 * m) 8 := by
  have not4 : x.slot ≠ 4 := by omega
  have shift : off - off / k * k = off % k := by
    have := Nat.div_add_mod' off k
    omega
  have lt : off % k < k := Nat.mod_lt _ pos
  rw [Region.merge, if_neg not4, wide, Nat.mul_div_cancel_left k (by decide), shift]
  refine BitVec.eq_of_getLsbD_eq fun i hi => ?_
  have bound : 8 * m + i < 64 := by omega
  simp only [apply_ite (BitVec.getLsbD · i), BitVec.getLsbD_extractLsb', hi, decide_true, Bool.true_and, BitVec.getLsbD_or,
    BitVec.getLsbD_and, BitVec.getLsbD_not, BitVec.getLsbD_shiftLeft, bound, getLsbD_byteMask, BitVec.getLsbD_setWidth]
  by_cases h : m = off % k
  · subst h
    have at_ : 8 * (off % k) + i - 8 * (off % k) = i := by omega
    have reached : ¬8 * (off % k) + i < 8 * (off % k) := by omega
    have fits : i < 64 := by omega
    simp [at_, reached, hi, fits]
  · by_cases below : 8 * m + i < 8 * (off % k)
    · simp [h, below]
    · have above : ¬8 * m + i - 8 * (off % k) < 8 := by omega
      simp [h, above, BitVec.getLsbD_of_ge b _ (Nat.le_of_not_lt above)]

/-- The byte stored reads back, and every other byte of the image is as it was. -/
theorem byteAt_storeByte (small : k ≤ 8) (inside : off < x.bytes) (b : Byte) (n : Nat) :
    (x.storeByte off b).byteAt n = if n = off then b else x.byteAt n := by
  have not4 : x.slot ≠ 4 := by omega
  have byte (y : Region) (hy : y.slot = x.slot) : y.byteAt n = (y.read (n / k)).extractLsb' (8 * (n % k)) 8 := by
    rw [Region.byteAt, if_neg (hy ▸ not4), hy, wide, Nat.mul_div_cancel_left k (by decide)]
  rw [byte (x.storeByte off b) rfl, byte x rfl, read_storeByte wide inside]
  by_cases h : n / k = off / k
  · rw [if_pos h, extract_merge wide pos small _ _ (Nat.mod_lt _ pos), h]
    have same : n % k = off % k ↔ n = off :=
      ⟨fun e => by rw [← Nat.div_add_mod n k, ← Nat.div_add_mod off k, h, e], fun e => e ▸ rfl⟩
    simp only [same]
  · rw [if_neg h, if_neg fun e : n = off => h (congrArg (· / k) e)]

end

/-! ### Bytes stored at a region's home -/

theorem getByte_region (s : State) (i off : Nat) :
    s.getByte (.region i off) = ((s.regions[i]?).map (·.byteAt off)).getD 0 := by
  simp only [State.getByte, State.rawByte]
  cases s.regions[i]? <;> rfl

/-- A byte that lies in no region does not depend on the regions. -/
theorem getByte_congr_regions {s u : State} (rest : { u with regions := s.regions } = s)
    (l : Loc) (out : ∀ i off, l ≠ .region i off) : u.getByte l = s.getByte l := by
  refine Eq.trans ?_ (congrArg (fun t : State => t.getByte l) rest)
  cases l with
  | region i off => exact absurd rfl (out i off)
  | _ => rfl

section
variable {s : State} {r k : Nat} {x : Region} (here : s.regions[r]? = some x) (wide : x.slot = 8 * k) (pos : 0 < k)
  (small : k ≤ 8)
include here

theorem regions_putByte_region (off : Nat) (b : Byte) (j : Nat) : (s.putByte (.region r off) b).regions[j]? =
    if j = r then some (x.storeByte off b) else s.regions[j]? := by
  have lt : r < s.regions.length := (List.getElem?_eq_some_iff.1 here).1
  simp only [State.putByte, here, List.getElem?_set, lt, if_true, eq_comm (a := r)]

include wide pos small

theorem getByte_putByte_region {off : Nat} (inside : off < x.bytes) (b : Byte) (l : Loc) :
    (s.putByte (.region r off) b).getByte l = if l = .region r off then b else s.getByte l := by
  by_cases reg : ∃ i n, l = .region i n
  · obtain ⟨i, n, rfl⟩ := reg
    simp only [getByte_region, regions_putByte_region here, Loc.region.injEq]
    by_cases hi : i = r
    · subst hi
      simp [here, byteAt_storeByte wide pos small inside]
    · simp [hi]
  · rw [if_neg fun e => reg ⟨_, _, e⟩]
    exact getByte_congr_regions rfl l fun i n e => reg ⟨i, n, e⟩

/-- Bytes stored in the image of a region read back, and nothing else changes: of the regions only this one. -/
theorem putLocs_image (bytes : List Byte) {off : Nat} (inside : off + bytes.length ≤ x.bytes) :
    let u := s.putLocs ((List.range' off bytes.length).map (Loc.region r)) bytes
    (∀ j, (h : j < bytes.length) → u.getByte (.region r (off + j)) = bytes[j]) ∧
    (∀ l, (∀ j < bytes.length, l ≠ .region r (off + j)) → u.getByte l = s.getByte l) ∧
    { u with regions := s.regions } = s ∧ ∀ j, j ≠ r → u.regions[j]? = s.regions[j]? := by
  induction bytes generalizing s x off with
  | nil => exact ⟨fun j h => absurd h (Nat.not_lt_zero j), fun _ _ => rfl, rfl, fun _ _ => rfl⟩
  | cons b bytes ih =>
    have bound : off < x.bytes := Nat.lt_of_lt_of_le (Nat.lt_add_of_pos_right (Nat.succ_pos _)) inside
    have now := getByte_putByte_region here wide pos small bound b
    have mine : (s.putByte (.region r off) b).regions[r]? = some (x.storeByte off b) :=
      (regions_putByte_region here off b r).trans (if_pos rfl)
    obtain ⟨back, kept, rest, others⟩ := ih mine wide (off := off + 1)
      (by rw [Nat.add_assoc, Nat.add_comm 1]; exact inside)
    refine ⟨fun j hj => ?_, fun l out => ?_, ?_, fun j hj => ?_⟩
    · cases j with
      | zero =>
        refine (kept _ fun i _ e => ?_).trans ((now _).trans (if_pos rfl))
        simp only [Loc.region.injEq] at e
        omega
      | succ j =>
        rw [← Nat.add_assoc, Nat.add_right_comm]
        exact back j (Nat.lt_of_succ_lt_succ hj)
    · have apart : l ≠ .region r off := out 0 (Nat.succ_pos _)
      refine (kept l fun j hj e => out (j + 1) (Nat.succ_lt_succ hj) ?_).trans ((now l).trans (if_neg apart))
      rw [e, Nat.add_right_comm, Nat.add_assoc]
    · exact congrArg (fun t : State => { t with regions := s.regions }) rest
    · exact (others j hj).trans ((regions_putByte_region here off b j).trans (if_neg hj))

end

/-- Lines that are recalled change the caches and the directories alone. -/
theorem recallLines_rest (s : State) (ks : List LineKey) :
    { ks.foldl State.recallLine s with cached := s.cached, l2 := s.l2, dir := s.dir } = s :=
  foldl_keeps (fun t : State => { t with cached := s.cached, l2 := s.l2, dir := s.dir }) (fun t k => by
    unfold State.recallLine
    split <;> rfl) ks s

/-! ### Budgets (R207) -/

/-- What it is to meet a budget. -/
theorem meets_iff (r : Region) (k : Nat) (p c : W64) {ε : Rat} (eps : decodeF .f64 r.eps = .fin false ε) :
    meets r k p c = true ↔ p = c ∨ (k ≤ 24 ∧ ∃ m x n y, elemVal r.ty r.desc p = .fin m x ∧
      elemVal r.ty r.desc c = .fin n y ∧
      |(if m then -x else x) - (if n then -y else y)| * 2 ^ (k + 1) < ε) := by
  have value : (FVal.fin false ε).toRat = ε := rfl
  have pow : (0 : Rat) < ((2 ^ (k + 1) : Nat) : Rat) := by positivity
  simp only [meets, Bool.or_eq_true, beq_iff_eq, budget, eps, value]
  refine or_congr_right ?_
  by_cases hk : k ≤ 24
  · rw [if_pos hk]
    cases elemVal r.ty r.desc p <;> cases elemVal r.ty r.desc c
    case fin.fin m x n y =>
      rw [decide_eq_true_eq, lt_div_iff₀ pow, Nat.cast_pow, Nat.cast_ofNat]
      constructor
      · exact fun h => ⟨hk, m, x, n, y, rfl, rfl, h⟩
      · rintro ⟨-, _, _, _, _, ⟨⟩, ⟨⟩, h⟩
        exact h
    all_goals simp
  · rw [if_neg hk]
    simp [hk]

/-! ### Refits (R209, R211, R212) -/

/-- A proposal passes against the read values from before the refit: each index has an entry, or meets its budget (R209). -/
def Refit.passes (f : Refit) (r : Region) (p : Net) : Prop :=
  ∀ j < r.size, (∃ e ∈ f.exc0, e.1 = j) ∨
    meets r (r.gen + 1) (netValue r p j) (({ r with exc := f.exc0 } : Region).read j) = true

/-- The entries that a refit which commits keeps (R209, R212). -/
def Refit.kept (f : Refit) (r : Region) (p : Net) : List (Nat × W64) :=
  r.exc.filter fun e => f.stored.contains e.1 || !(meets r (r.gen + 1) (netValue r p e.1) e.2)

theorem refitTest_of_passes {r : Region} {p : Net} {f : Refit} (h : f.passes r p) : refitTest r p f = some (f.kept r p) := by
  refine if_pos (List.all_eq_true.2 fun j hj => ?_)
  obtain ⟨e, mem, rfl⟩ | within := h j (List.mem_range.1 hj)
  · exact Bool.or_eq_true_iff.2 (.inl (List.any_eq_true.2 ⟨e, mem, beq_self_eq_true _⟩))
  · exact Bool.or_eq_true_iff.2 (.inr within)

theorem refitTest_of_not_passes {r : Region} {p : Net} {f : Refit} (h : ¬f.passes r p) : refitTest r p f = none := by
  refine if_neg fun all => h fun j hj => ?_
  obtain entry | within := Bool.or_eq_true_iff.1 (List.all_eq_true.1 all j (List.mem_range.2 hj))
  · obtain ⟨e, mem, same⟩ := List.any_eq_true.1 entry
    exact .inl ⟨e, mem, beq_iff_eq.1 same⟩
  · exact .inr within

theorem mem_kept {f : Refit} {r : Region} {p : Net} {e : Nat × W64} : e ∈ f.kept r p ↔
    e ∈ r.exc ∧ (e.1 ∈ f.stored ∨ meets r (r.gen + 1) (netValue r p e.1) e.2 = false) := by
  simp [Refit.kept]

/-- A region after its refit is over (R209, R211): the proposal's next generation with the entries that are left, or, where
it is rejected, the region as it was. -/
def Region.refitted (r : Region) (p : Net) : Option (List (Nat × W64)) → Region
  | some es => { r with net := p, exc := es, gen := r.gen + 1, cached := [], refit := none }
  | none => { r with refit := none }

theorem refit_refitted (r : Region) (p : Net) (out : Option (List (Nat × W64))) : (r.refitted p out).refit = none := by
  cases out <;> rfl

/-- The answer to a request is recorded with its flight, and no register changes. -/
theorem sameRegisters_answer (s : State) (w n : Nat) (q : RegionReq) (j : Nat) :
    sameRegisters (s.weltAt j) ((s.answer w n q).weltAt j) := by
  rw [State.answer, weltAt_setWeltAt]
  split
  · rename_i own
    exact own.1 ▸ sameRegisters_of_registers rfl
  · exact sameRegisters_refl _

/-- REFIT_COMMIT puts the region as its test leaves it, and answers the RGFIT that waits. -/
theorem refitCommit_next {s : State} {i : Nat} {r : Region} {f : Refit} {p : Net} (here : s.regions[i]? = some r)
    (running : r.refit = some f) (given : f.net = some p) :
    ∃ u, exec (.refitCommit i) s = .next u ∧ u.regions = s.regions.set i (r.refitted p (refitTest r p f)) ∧
      .regionStatusReturn f.w f.flight ∈ u.agenda ∧ (∀ j, sameRegisters (s.weltAt j) (u.weltAt j)) ∧
      u.mem = s.mem ∧ u.host = s.host ∧ u.wgs = s.wgs := by
  rw [exec_refitCommit]
  unfold execRefitCommit
  simp only [here, running, given, Option.getD_some]
  have due (t : State) : Instr.regionStatusReturn f.w f.flight ∈ (t.post (.regionStatusReturn f.w f.flight)).agenda :=
    List.mem_append_right _ (List.mem_singleton_self _)
  cases refitTest r p f with
  | some es => exact ⟨_, rfl, rfl, due _, fun j => sameRegisters_answer _ _ _ _ j, rfl, rfl, rfl⟩
  | none => exact ⟨_, rfl, rfl, due _, fun j => sameRegisters_answer _ _ _ _ j, rfl, rfl, rfl⟩

/-! ### Lines (R201) -/

theorem evalLine_rest (s : State) (r line : Nat) : { s.evalLine r line with regions := s.regions } = s := by
  unfold State.evalLine
  split
  · split <;> rfl
  · rfl

/-- A line of a live region's image is held once it has been evaluated. -/
theorem evalLine_cached {s : State} {r line : Nat} {x : Region} (here : s.regions[r]? = some x) (live : x.live = true)
    (inside : 128 * line < x.bytes) : ∃ y, (s.evalLine r line).regions[r]? = some y ∧ line ∈ y.cached := by
  have lt : r < s.regions.length := (List.getElem?_eq_some_iff.1 here).1
  simp only [State.evalLine, here, live, inside, decide_true, Bool.true_and, Bool.and_true]
  cases held : x.cached.contains line with
  | true => exact ⟨x, here, List.contains_iff_mem.1 held⟩
  | false => exact ⟨_, List.getElem?_set_self lt, List.mem_cons_self⟩

/-! ### REGION_STORE (R204, R205) -/

/-- A store has room: its bytes lie in the image of a live region whose list has an entry free for each that it needs (R205). -/
def Region.room (x : Region) (off n : Nat) : Prop :=
  x.live = true ∧ off + n ≤ x.bytes ∧ x.exc.length + x.newEntries ((List.range n).map (off + ·)) ≤ x.cap

section
variable {s : State} {r off : Nat} {x : Region} {bytes : List Byte} (here : s.regions[r]? = some x)
include here

theorem regionStore_without_room (h : ¬x.room off bytes.length) : exec (.regionStore r off bytes) s = .next s := by
  rw [exec_regionStore, execRegionStore, here]
  refine if_neg fun c => h ?_
  simp only [Bool.and_eq_true, decide_eq_true_eq, and_assoc] at c
  exact c

theorem regionStore_with_room (h : x.room off bytes.length) : ∃ ks : List LineKey, exec (.regionStore r off bytes) s =
    .next ((ks.foldl State.recallLine s).putLocs ((List.range' off bytes.length).map (Loc.region r)) bytes) := by
  rw [exec_regionStore, execRegionStore, here]
  refine ⟨_, (if_pos ?_).trans (by rw [List.range'_eq_map_range])⟩
  simp only [Bool.and_eq_true, decide_eq_true_eq, and_assoc]
  exact h

theorem regionStore_next {k : Nat} (wide : x.slot = 8 * k) (pos : 0 < k) (small : k ≤ 8) (h : x.room off bytes.length) :
    ∃ u, exec (.regionStore r off bytes) s = .next u ∧
      (∀ j, (h : j < bytes.length) → u.getByte (.region r (off + j)) = bytes[j]) ∧
      (∀ l, (∀ j < bytes.length, l ≠ .region r (off + j)) → u.getByte l = s.getByte l) ∧
      { u with regions := s.regions, cached := s.cached, l2 := s.l2, dir := s.dir } = s ∧
      ∀ j, j ≠ r → u.regions[j]? = s.regions[j]? := by
  obtain ⟨ks, run⟩ := regionStore_with_room here h
  have recalled := recallLines_rest s ks
  have regions : (ks.foldl State.recallLine s).regions = s.regions := (congrArg State.regions recalled :)
  have bytesKept (l : Loc) : (ks.foldl State.recallLine s).getByte l = s.getByte l :=
    getByte_of_uncached (foldl_keeps State.uncached uncached_recallLine ks s) l
  obtain ⟨-, inside, -⟩ := h
  obtain ⟨back, kept, rest, others⟩ := putLocs_image (regions ▸ here) wide pos small bytes inside
  refine ⟨_, run, back, fun l out => (kept l out).trans (bytesKept l), ?_, fun j hj => regions ▸ others j hj⟩
  exact (congrArg (fun t : State => { t with regions := s.regions, cached := s.cached, l2 := s.l2, dir := s.dir }) rest).trans
    ((congrArg (fun t : State => { t with regions := s.regions }) recalled :))

end

theorem slot_of_bytes {x : Region} (h : x.slot = 8 ∨ x.slot = 16 ∨ x.slot = 32 ∨ x.slot = 64) :
    ∃ k, x.slot = 8 * k ∧ 0 < k ∧ k ≤ 8 := by
  obtain h | h | h | h := h
  · exact ⟨1, h, by decide⟩
  · exact ⟨2, h, by decide⟩
  · exact ⟨4, h, by decide⟩
  · exact ⟨8, h, by decide⟩

/-- Settles O34: the outcomes of a refit, what it is to meet a budget, the line that an evaluation leaves cached, and a
store by induction on its bytes. -/
theorem regionsAtHome : Obligations.RegionsAtHome := by
  unfold Obligations.RegionsAtHome
  refine ⟨fun s i r f p here running given _ => ?_, fun r k p c ε eps => meets_iff r k p c eps, fun s r line => ?_,
    fun s r off bytes x here slot => ?_⟩
  · obtain ⟨u, run, regions, due, same, mem, host, wgs⟩ := refitCommit_next here running given
    have lt : i < s.regions.length := (List.getElem?_eq_some_iff.1 here).1
    refine ⟨u, _, run, ?_, refit_refitted r p (refitTest r p f), due, fun j hj => ?_, same, mem, host, wgs, fun passes => ?_,
      fun fails => ?_⟩
    · rw [regions, List.getElem?_set_self lt]
    · rw [regions, List.getElem?_set_ne (Ne.symm hj)]
    · rw [refitTest_of_passes (f := f) passes]
      exact ⟨rfl, rfl, rfl, fun e => mem_kept⟩
    · rw [refitTest_of_not_passes (f := f) fails]
      exact ⟨rfl, rfl, rfl⟩
  · exact ⟨_, exec_regionLineEvaluation r line s, fun l => getByte_of_uncached (uncached_evalLine s r line) l,
      evalLine_rest s r line, fun x here live inside => evalLine_cached here live inside⟩
  · obtain ⟨k, wide, pos, small⟩ := slot_of_bytes slot
    exact ⟨regionStore_without_room here, regionStore_next here wide pos small⟩

end Sys2Proof.Machine

/-!
A request whose descriptor shares a line with a partial (R181, R216, R234, R238), and O33.
-/

namespace Sys2Proof.Machine

open Safety Claims

/-! ### RGMAKE at its home (R214, R216) -/

/-- The home carries an RGMAKE out, and its status fills the destination. -/
theorem regionStatusReturn_make {s t : State} {w n o level desc base : Nat} {d : WReg} {v : W64}
    (asked : (s.weltAt w).flights.find? (fun f => f.num == n) = some ⟨n, o, .region d (.make level desc base)⟩)
    (made : s.makeRegion (s.launchOf (s.wgAt (s.weltAt w).wg)).ctx level desc base = (t, v)) :
    exec (.regionStatusReturn w n) s = .next (t.fillWord w n d v) := by
  simp only [exec_regionStatusReturn, execRegionStatusReturn, asked, Option.map_some, made]

/-- Of an invalid descriptor nothing is left but what its read has done. -/
theorem makeRegion_invalid {s : State} {ctx level desc base : Nat} {bs : List Byte}
    (read : (s.settleVA ctx level desc 1760).readVA ctx level desc 1760 = .ok bs) (bad : descOk bs = false) :
    s.makeRegion ctx level desc base = (s.settleVA ctx level desc 1760, statusWord 0 1) := by
  simp only [State.makeRegion, read, bad, Bool.not_false, if_true]

theorem weltAt_fillWord_ne (s : State) {w i : Nat} (n : Nat) (d : WReg) (x : W64) (h : i ≠ w) :
    (s.fillWord w n d x).weltAt i = s.weltAt i := by
  rw [State.fillWord, State.dropFlight, weltAt_setWeltAt, if_neg fun c => h c.1.symm, weltAt_setWeltAt,
    if_neg fun c => h c.1.symm]

/-! ### A state in which the read of a descriptor is a write of a stash block

Two welts of one workgroup, whose first stash block is mapped onto the page of the descriptor. The first line of the
descriptor lies in a commutative range, and a partial that adds 1 to its first word is outstanding. The read of the
descriptor combines the partial, which writes the line and with it the block: from then on each welt of the gang needs an
operand-ready fence for that write. -/

def makingWelt : Welt := { Welt.init with flights := [⟨0, 0, .region 9 (.make 0 0 0x10000)⟩], nextFlight := 1 }

def combiningState : State := { State.reset with
  ctxs := [Ctx.init]
  launches := [Launch.init]
  tlb2 := [⟨0, 0, 0, 2 ^ 21, 0x8C00000000000000, false⟩]
  ranges := [⟨0, 0, 0, 128, 1, true⟩]
  wgs := [{ Wg.init with blocks := Wg.init.blocks.set 0 0xC000000000000000, partials := [⟨0, 0, 0, 0, 0, [(0, 1)]⟩] }]
  welts := [makingWelt, Welt.init] }

/-- What the home reads once it has combined the partial. -/
def combinedBytes : List Byte := 1 :: List.replicate 1759 0

theorem combiningState_reads :
    (combiningState.settleVA 0 0 0 1760).readVA 0 0 0 1760 = .ok combinedBytes := by decide +kernel

theorem descOk_combinedBytes : descOk combinedBytes = false := by decide +kernel

/-- The welt that asked for nothing has no write to fence before the read, and one after it. -/
theorem combiningState_tells : (combiningState.weltAt 1).unfenced.length = 0 ∧
    ((combiningState.settleVA 0 0 0 1760).weltAt 1).unfenced.length = 1 := by decide +kernel

/-- Refutes O33: the read of a descriptor combines the partials of its lines (R238), and where a stash block is bound to
them this is a write that every welt of its gang is told of (R181, R234), so a welt other than the one that asked does not
stay as it was. -/
theorem not_regionRequests : ¬ Obligations.RegionRequests := by
  unfold Obligations.RegionRequests
  rintro ⟨-, answers⟩
  have asked : (combiningState.weltAt 0).flights.find? (fun f => f.num == 0) =
      some ⟨0, 0, .region 9 (.make 0 0 0x10000)⟩ := rfl
  obtain ⟨-, -, -, makes, -⟩ := answers combiningState 0 0 0 0 0x10000 9 (by decide)
  obtain ⟨invalid, -, -⟩ := makes 0 combinedBytes asked combiningState_reads
  obtain ⟨u, run, landed, -⟩ := invalid descOk_combinedBytes
  have made := regionStatusReturn_make asked (makeRegion_invalid combiningState_reads descOk_combinedBytes)
  obtain rfl := Host.Outcome.next.inj (made.symm.trans run)
  have kept : (combiningState.settleVA 0 0 0 1760).weltAt 1 = combiningState.weltAt 1 :=
    (weltAt_fillWord_ne _ 0 9 _ (by decide)).symm.trans (landed.others 1 (by decide))
  obtain ⟨before, after⟩ := combiningState_tells
  rw [kept, before] at after
  exact absurd after (by decide)

end Sys2Proof.Machine

namespace Sys2Proof.Machine

/-! ### What each operation of the state keeps (O57)

`kept_f` says that the state which `f` gives has its memories in canonical form where the state it is given has, in the
order of the model's definitions. Only a few operations write a memory: they go through `cellWrite` and `cellsWrite`. -/

section

open Safety

variable {s : State}

theorem kept_foldl {α : Type} {f : State → α → State} {l : List α} (h : memoriesWf s)
    (step : ∀ t, memoriesWf t → ∀ a, memoriesWf (f t a)) : memoriesWf (l.foldl f s) :=
  List.foldlRecOn l f h fun t ht a _ => step t ht a

/-- A state with new workgroups, each with its memories in canonical form. -/
theorem memoriesWf_of_wgs {t : State} (h : memoriesWf s) (mem : t.mem = s.mem) (host : t.host = s.host)
    (wgs : ∀ g ∈ t.wgs, g.wf) : memoriesWf t := ⟨mem ▸ h.1, host ▸ h.2.1, wgs⟩

theorem memoriesWf_wgs (h : memoriesWf s) : ∀ g ∈ s.wgs, g.wf := h.2.2

theorem wf_map {gs : List Wg} {f : Wg → Wg} (h : ∀ g ∈ gs, g.wf) (step : ∀ g, g.wf → (f g).wf) :
    ∀ g ∈ gs.map f, g.wf := by
  intro g hg
  obtain ⟨x, hx, rfl⟩ := List.mem_map.1 hg
  exact step x (h x hx)

/-- A state with a new device memory in canonical form. -/
theorem memoriesWf_of_mem {t : State} (h : memoriesWf s) (mem : Memory.wf t.mem) (host : t.host = s.host)
    (wgs : t.wgs = s.wgs) : memoriesWf t := ⟨mem, host ▸ h.2.1, wgs ▸ h.2.2⟩

theorem memoriesWf_mem (h : memoriesWf s) : Memory.wf s.mem := h.1

theorem memoriesWf_cg (h : memoriesWf s) : s.cg.wf := memoriesWf_wgAt h _

/-- A memory after writes one after another. -/
theorem wf_foldl {α : Type} {f : List Host.Cell → α → List Host.Cell} {l : List α} {m : List Host.Cell}
    (h : Memory.wf m) (step : ∀ n, Memory.wf n → ∀ a, Memory.wf (f n a)) : Memory.wf (l.foldl f m) :=
  List.foldlRecOn l f h fun n hn a _ => step n hn a

/-- Elements written into the accumulator memory. -/
theorem wgWf_setCells {g : Wg} {t acc es} (h : g.wf) : (g.setCells t acc es).wf :=
  ⟨h.1, h.2.1, wf_setCells t acc h.2.2 es⟩

/-- A block bound or made scratch loses bytes and gains none. -/
theorem wgWf_bind {g : Wg} (h : g.wf) {b base} : (g.bind b base).wf := ⟨wf_filter _ h.1, h.2⟩

/-- Either of two states. -/
theorem kept_ite {c : Prop} [Decidable c] {t u : State} (ht : memoriesWf t) (hu : memoriesWf u) :
    memoriesWf (if c then t else u) := by
  split
  · exact ht
  · exact hu

theorem kept_iteFst {α : Type} {c : Prop} [Decidable c] {t u : State × α} (ht : memoriesWf t.1) (hu : memoriesWf u.1) :
    memoriesWf (if c then t else u).1 := by
  split
  · exact ht
  · exact hu

/-! Updates of a field. -/

theorem kept_withMem {m} (h : memoriesWf s) (hm : Memory.wf m) : memoriesWf { s with mem := m } := ⟨hm, h.2⟩
theorem kept_withAgenda {a} (h : memoriesWf s) : memoriesWf { s with agenda := a } := h
theorem kept_withOut {o} (h : memoriesWf s) : memoriesWf { s with mgmtOut := o } := h
theorem kept_withRegions {r} (h : memoriesWf s) : memoriesWf { s with regions := r } := h
theorem kept_withPooled {p q} (h : memoriesWf s) : memoriesWf { s with pooled := p, pooledPartials := q } := h
theorem kept_withShared {l p r} (h : memoriesWf s) : memoriesWf { s with locks := l, phasers := p, ranges := r } := h
theorem kept_withCopies {c} (h : memoriesWf s) : memoriesWf { s with copies := c } := h
theorem kept_withPhasers {p} (h : memoriesWf s) : memoriesWf { s with phasers := p } := h
theorem kept_withBringup {b} (h : memoriesWf s) : memoriesWf { s with bringup := b } := h
theorem kept_withNow {n} (h : memoriesWf s) : memoriesWf { s with now := n } := h
theorem kept_withDataOut {o} (h : memoriesWf s) : memoriesWf { s with dataOut := o } := h
theorem kept_withSent {o} (h : memoriesWf s) : memoriesWf { s with sent := o } := h
theorem kept_withParts {p} (h : memoriesWf s) : memoriesWf { s with parts := p } := h
theorem kept_withCounts {c n} (h : memoriesWf s) : memoriesWf { s with corrected := c, countedAt := n } := h
theorem kept_withRings {r} (h : memoriesWf s) : memoriesWf { s with rings := r } := h

/-! The updates of one record, and the operations whose lemmas stand with the rules of memory. -/

theorem kept_setWeltAt {i w} (h : memoriesWf s) : memoriesWf (s.setWeltAt i w) := h
theorem kept_setCw {w} (h : memoriesWf s) : memoriesWf (s.setCw w) := h
theorem kept_setCoreAt {i c} (h : memoriesWf s) : memoriesWf (s.setCoreAt i c) := h
theorem kept_setLaunchAt {i l} (h : memoriesWf s) : memoriesWf (s.setLaunchAt i l) := h
theorem kept_setCtxAt {i c} (h : memoriesWf s) : memoriesWf (s.setCtxAt i c) := h
theorem kept_post {i} (h : memoriesWf s) : memoriesWf (s.post i) := h
theorem kept_clearBad {ls} (h : memoriesWf s) : memoriesWf (s.clearBad ls) := h
theorem kept_stall {r} (h : memoriesWf s) : memoriesWf (s.stall r) := h
theorem kept_setWgAt {i g} (h : memoriesWf s) (hg : g.wf) : memoriesWf (s.setWgAt i g) := memoriesWf_setWgAt h i hg
theorem kept_setCg {g} (h : memoriesWf s) (hg : g.wf) : memoriesWf (s.setCg g) := memoriesWf_setCg h hg
theorem kept_putByte {l b} (h : memoriesWf s) : memoriesWf (s.putByte l b) := memoriesWf_putByte h l b
theorem kept_putLocs {ls bs} (h : memoriesWf s) : memoriesWf (s.putLocs ls bs) := memoriesWf_putLocs h ls bs
theorem kept_retireWith {w} (h : memoriesWf s) : memoriesWf (s.retireWith w) := memoriesWf_retireWith h w
theorem kept_retire {w len} (h : memoriesWf s) : memoriesWf (s.retire w len) := memoriesWf_retire h w len

theorem kept_setPart {p} (h : memoriesWf s) : memoriesWf (s.setPart p) := h

theorem kept_noteUse {u} (h : memoriesWf s) : memoriesWf (s.noteUse u) := by
  unfold State.noteUse
  split <;> exact h

theorem kept_fillTlb {core ctx va} (h : memoriesWf s) : memoriesWf (s.fillTlb core ctx va) := by
  unfold State.fillTlb
  split
  · exact h
  · split
    · exact h
    · dsimp only
      split
      · exact h
      · exact kept_noteUse h

theorem kept_setDir {d} (h : memoriesWf s) : memoriesWf (s.setDir d) := h

theorem kept_trimL2 {gone} (h : memoriesWf s) : memoriesWf (s.trimL2 gone) := h

theorem kept_giveBack {mine} (h : memoriesWf s) : memoriesWf (s.giveBack mine) := by
  unfold State.giveBack
  dsimp only
  split
  · exact h
  · refine kept_trimL2 (kept_foldl h fun s h a => ?_)
    split
    · exact kept_setDir h
    · exact h

theorem kept_trimCaches {core} (h : memoriesWf s) : memoriesWf (s.trimCaches core) := by
  unfold State.trimCaches
  dsimp only
  split
  · split
    · exact h
    · split <;> exact h
  · split
    · split
      · exact kept_giveBack h
      · split
        · exact memoriesWf_congr (kept_giveBack h) rfl rfl rfl
        · exact kept_giveBack h
    · split
      · exact h
      · split <;> exact h

theorem kept_hold {core k excl dirty} (h : memoriesWf s) :
    memoriesWf (s.hold core k excl dirty) := kept_trimCaches h

theorem kept_readGrant {core k} (h : memoriesWf s) : memoriesWf (s.readGrant core k) := kept_setDir h

theorem kept_ownGrant {core k} (h : memoriesWf s) : memoriesWf (s.ownGrant core k) := kept_setDir h

theorem kept_recallLine {k} (h : memoriesWf s) : memoriesWf (s.recallLine k) := by
  unfold State.recallLine
  dsimp only
  split
  · exact kept_setDir h
  · exact h

theorem kept_recallRegion {i} (h : memoriesWf s) : memoriesWf (s.recallRegion i) := h

theorem kept_cleanLine {k} (h : memoriesWf s) : memoriesWf (s.cleanLine k) := by
  unfold State.cleanLine
  dsimp only
  split
  · exact kept_setDir h
  · exact h

theorem kept_setPage {p} (h : memoriesWf s) : memoriesWf (s.setPage p) := h

theorem kept_sharePage {p c} (h : memoriesWf s) : memoriesWf (s.sharePage p c) := h

theorem kept_classify {core a} (h : memoriesWf s) : memoriesWf (s.classify core a) := by
  unfold State.classify
  split
  · split
    · exact h
    · exact kept_ite h h
  · split
    · exact kept_ite h (kept_sharePage h)
    · exact h

theorem kept_unprivate {a} (h : memoriesWf s) : memoriesWf (s.unprivate a) := by
  unfold State.unprivate
  split
  · split
    · exact kept_sharePage h
    · exact h
  · exact h

theorem kept_missLine {core a write} (h : memoriesWf s) : memoriesWf (s.missLine core a write) := by
  unfold State.missLine
  dsimp only
  split
  · exact kept_hold (kept_classify h)
  · split
    · exact kept_hold (kept_ownGrant (kept_classify h))
    · exact kept_hold (kept_readGrant (kept_classify h))

theorem kept_touchDev {core a write} (h : memoriesWf s) : memoriesWf (s.touchDev core a write) := by
  unfold State.touchDev
  split
  · split
    · exact h
    · split
      · exact h
      · exact kept_missLine h
  · exact kept_missLine h

theorem kept_endLease {w} (h : memoriesWf s) : memoriesWf (s.endLease w) := by
  unfold State.endLease
  split
  · exact kept_foldl h fun _ h _ => kept_recallLine h
  · exact h

theorem kept_touchHost {core k write} (h : memoriesWf s) : memoriesWf (s.touchHost core k write) := by
  unfold State.touchHost
  split
  · split
    · exact kept_hold (kept_ownGrant h)
    · exact kept_hold (kept_readGrant h)
  · exact kept_recallLine h

theorem kept_touchRegion {core k write} (h : memoriesWf s) : memoriesWf (s.touchRegion core k write) := by
  unfold State.touchRegion
  split
  · exact kept_recallLine h
  · exact kept_hold (kept_readGrant h)

theorem kept_fillBlocks {ls} (h : memoriesWf s) :
    memoriesWf (s.fillBlocks ls) := kept_foldl h fun _ h _ => kept_fillTlb h

theorem kept_touchLocs {core write ls} (h : memoriesWf s) : memoriesWf (s.touchLocs core write ls) := by
  unfold State.touchLocs
  refine kept_foldl (kept_fillBlocks h) fun s h a => ?_
  split
  · exact kept_touchDev h
  · exact kept_touchHost h
  · exact kept_touchRegion h
  · exact h

theorem kept_homeTouch {write ls} (h : memoriesWf s) : memoriesWf (s.homeTouch write ls) := by
  unfold State.homeTouch
  refine kept_foldl h fun s h a => ?_
  dsimp only
  split
  · split
    · exact kept_recallLine (kept_unprivate h)
    · exact kept_cleanLine (kept_unprivate h)
  · split
    · exact kept_recallLine h
    · exact h
  · split
    · exact kept_recallLine h
    · exact h
  · exact h

theorem kept_flushBlock {g b} (h : memoriesWf s) : memoriesWf (s.flushBlock g b) := h

theorem kept_dropBlock {g b} (h : memoriesWf s) :
    memoriesWf (s.dropBlock g b) := kept_giveBack (kept_flushBlock h)

theorem kept_leaveL1 {g b} (h : memoriesWf s) : memoriesWf (s.leaveL1 g b) := by
  unfold State.leaveL1
  split
  · exact kept_giveBack h
  · exact h

theorem kept_unclassify {ctx lo size} (h : memoriesWf s) : memoriesWf (s.unclassify ctx lo size) := h

theorem kept_noteNums {w ns} (h : memoriesWf s) : memoriesWf (s.noteNums w ns) := by
  unfold State.noteNums
  split <;> exact h

theorem kept_addVeil {r level ls} (h : memoriesWf s) : memoriesWf (s.addVeil r level ls) := by
  unfold State.addVeil
  dsimp only
  split <;> exact h

theorem kept_unveil {ls} (h : memoriesWf s) : memoriesWf (s.unveil ls) := by
  unfold State.unveil
  split <;> exact h

theorem kept_reveal {k} (h : memoriesWf s) : memoriesWf (s.reveal k) := by
  unfold State.reveal
  split
  · exact h
  · split
    · exact h
    · split <;> exact h

theorem kept_exposeIn {u nums} (h : memoriesWf s) : memoriesWf (s.exposeIn u nums) := by
  unfold State.exposeIn
  split <;> exact h

theorem kept_expose {scope r nums} (h : memoriesWf s) : memoriesWf (s.expose scope r nums) := kept_exposeIn h

theorem kept_endRebind {g k} (h : memoriesWf s) : memoriesWf (s.endRebind g k) := by
  unfold State.endRebind
  split
  · exact h
  · exact kept_expose (kept_setWgAt h (memoriesWf_wgAt h _))

theorem kept_showCore {g} (h : memoriesWf s) : memoriesWf (s.showCore g) := h

theorem kept_spoil {g tile t rows cols} (h : memoriesWf s) : memoriesWf (s.spoil g tile t rows cols) := by
  obtain ⟨stash, opbuf, acc⟩ := memoriesWf_wgAt h g
  unfold State.spoil
  generalize List.filter _ (List.range 1024) = cells
  exact kept_setWgAt h ⟨stash, opbuf, wf_foldl acc fun _ h _ => wf_cellsWrite _ _ h⟩

theorem kept_noteWrites {by_ copy spans} (h : memoriesWf s) : memoriesWf (s.noteWrites by_ copy spans) := by
  unfold State.noteWrites
  split
  · exact h
  · dsimp only
    refine kept_foldl h fun s h a => ?_
    split
    · exact h
    · refine kept_foldl h fun s h a => ?_
      refine kept_foldl h fun s h a => ?_
      split
      · exact kept_spoil h
      · exact h

theorem kept_learn {w f} (h : memoriesWf s) : memoriesWf (s.learn w f) := by
  unfold State.learn
  dsimp only
  split <;> exact h

theorem kept_hear {w from_ message} (h : memoriesWf s) : memoriesWf (s.hear w from_ message) := kept_learn h

theorem kept_hearCopies {w mine engine} (h : memoriesWf s) :
    memoriesWf (s.hearCopies w mine engine) := kept_learn h

theorem kept_hearFence {w pm sm scope cum} (h : memoriesWf s) :
    memoriesWf (s.hearFence w pm sm scope cum) := kept_learn h

theorem kept_noteSignal {w id phase} (h : memoriesWf s) : memoriesWf (s.noteSignal w id phase) := by
  unfold State.noteSignal
  dsimp only
  split
  · exact h
  · exact memoriesWf_congr h rfl rfl rfl

theorem kept_noteMessage {w num ls} (h : memoriesWf s) : memoriesWf (s.noteMessage w num ls) := by
  unfold State.noteMessage
  dsimp only
  split <;> exact h

theorem kept_hearLoad {r ls} (h : memoriesWf s) : memoriesWf (s.hearLoad r ls) := by
  unfold State.hearLoad
  split
  · exact h
  · exact kept_learn (kept_hear h)

theorem kept_evalLine {i line} (h : memoriesWf s) : memoriesWf (s.evalLine i line) := by
  unfold State.evalLine
  split
  · split <;> exact h
  · exact h

theorem kept_noteSeen {r ls} (h : memoriesWf s) :
    memoriesWf (s.noteSeen r ls) := kept_hearLoad (kept_noteNums h)

theorem kept_noteSeenAll {r ls} (h : memoriesWf s) :
    memoriesWf (s.noteSeenAll r ls) := kept_noteSeen (kept_expose h)

theorem kept_readLines {core ls} (h : memoriesWf s) : memoriesWf (s.readLines core ls) := by
  unfold State.readLines
  refine kept_foldl (kept_touchLocs h) fun s h a => ?_
  split
  · exact kept_evalLine h
  · exact h

theorem kept_tellMgmt {kind words} (h : memoriesWf s) : memoriesWf (s.tellMgmt kind words) := h

theorem kept_report {p entries} (h : memoriesWf s) : memoriesWf (s.report p entries) := by
  unfold State.report
  dsimp only
  split
  · exact memoriesWf_of_mem h (wf_cellsWrite _ _ (memoriesWf_mem h)) rfl rfl
  · exact memoriesWf_of_mem h (wf_cellsWrite _ _ (wf_foldl (memoriesWf_mem h) fun _ h _ => wf_cellsWrite _ _ h)) rfl rfl

theorem kept_complete {c kind status cseq val join} (h : memoriesWf s) :
    memoriesWf (s.complete c kind status cseq val join) := by
  unfold State.complete
  dsimp only
  split
  · exact h
  · exact memoriesWf_congr h rfl rfl rfl

theorem kept_applyAtom {o} (h : memoriesWf s) : memoriesWf (s.applyAtom o).1 := kept_putLocs (kept_unveil h)

theorem kept_applyPartial {op p} (h : memoriesWf s) : memoriesWf (s.applyPartial op p) := by
  unfold State.applyPartial
  split
  · exact h
  · have written : ∀ m, Memory.wf m → memoriesWf { s with mem := m } := fun m hm => memoriesWf_of_mem h hm rfl rfl
    exact kept_noteWrites (kept_clearBad (kept_unveil (kept_homeTouch
      (written _ (wf_foldl (memoriesWf_mem h) fun _ h _ => wf_cellsWrite _ _ h)))))

theorem kept_combine {sel} (h : memoriesWf s) : memoriesWf (s.combine sel) := by
  have applied (ps : List Partial_) : memoriesWf (ps.foldl (fun s p => s.applyPartial (s.rangeOp p.range) p) s) :=
    kept_foldl h fun _ h _ => kept_applyPartial h
  exact kept_ite h (memoriesWf_of_wgs (applied _) rfl rfl (wf_map (memoriesWf_wgs (applied _)) fun _ hg => hg))

theorem kept_settle {ls} (h : memoriesWf s) : memoriesWf (s.settle ls) := by
  unfold State.settle
  split
  · exact kept_combine h
  · exact h

theorem kept_settleVA {ctx level va n} (h : memoriesWf s) : memoriesWf (s.settleVA ctx level va n) := by
  unfold State.settleVA
  split
  · exact kept_homeTouch (kept_settle h)
  · exact h

theorem kept_writeVA {ctx level va bs t} (h : memoriesWf s) (e : s.writeVA ctx level va bs = some t) :
    memoriesWf t := by
  unfold State.writeVA at e
  split at e
  · cases e
  · split at e
    · cases e
      exact kept_clearBad (kept_putLocs (kept_unveil (kept_homeTouch (kept_settle h))))
    · cases e

theorem kept_writeVA_getD {ctx level va bs} (h : memoriesWf s) :
    memoriesWf ((s.writeVA ctx level va bs).getD s) := by
  cases e : s.writeVA ctx level va bs with
  | none => exact h
  | some t => exact kept_writeVA h e

theorem kept_orWelt {launch wg welt f} (h : memoriesWf s) : memoriesWf (s.orWelt launch wg welt f) := h

theorem kept_reportEntry {e} (h : memoriesWf s) : memoriesWf (s.reportEntry e) := kept_report h

theorem kept_applyEntry {e} (h : memoriesWf s) : memoriesWf (s.applyEntry e) := by
  unfold State.applyEntry
  dsimp only
  split
  · exact kept_reportEntry h
  · split
    · exact kept_reportEntry h
    · exact kept_orWelt (kept_noteWrites (kept_applyAtom (kept_homeTouch (kept_settle h))))

theorem kept_applyLaunch {l} (h : memoriesWf s) : memoriesWf (s.applyLaunch l) := by
  unfold State.applyLaunch
  dsimp only
  refine kept_combine (s := State.mk ..) ?_
  generalize sortKey DetEntry.le _ = es
  have applied : memoriesWf (es.foldl State.applyEntry s) := kept_foldl h fun _ h _ => kept_applyEntry h
  exact memoriesWf_of_wgs applied rfl rfl (wf_map (memoriesWf_wgs applied) fun _ hg => hg)

theorem kept_fixLoad {w f} (h : memoriesWf s) : memoriesWf (s.fixLoad w f) := by
  unfold State.fixLoad
  dsimp only
  split
  · exact kept_setWeltAt (kept_foldl h fun _ h _ => (kept_noteSeen (kept_readLines (kept_settle h))))
  · exact kept_setWeltAt (kept_noteSeenAll (kept_readLines (kept_settle h)))
  · exact h

theorem kept_fixLoads {p} (h : memoriesWf s) :
    memoriesWf (s.fixLoads p) := kept_foldl h fun _ h _ => (kept_foldl h fun _ h _ => kept_fixLoad h)

theorem kept_testPhaser {i} (h : memoriesWf s) : memoriesWf (s.testPhaser i) := by
  unfold State.testPhaser
  split
  · exact h
  · split
    · dsimp only
      refine memoriesWf_congr (s := _) ?_ rfl rfl rfl
      split
      · exact kept_foldl (kept_fixLoads h) fun _ h _ => kept_applyLaunch h
      · exact h
    · exact h

theorem kept_testBarrier {g} (h : memoriesWf s) :
    memoriesWf (s.testBarrier g) := kept_ite h (kept_withAgenda (kept_setWgAt h (memoriesWf_wgAt h _)))

theorem kept_putPhaser {i p} (h : memoriesWf s) : memoriesWf (s.putPhaser i p) := kept_testPhaser h

theorem kept_landBytes {ctx id n} (h : memoriesWf s) : memoriesWf (s.landBytes ctx id n) := by
  unfold State.landBytes
  split
  · exact h
  · split
    · exact h
    · exact kept_putPhaser h

theorem kept_failPhaser {ctx id c} (h : memoriesWf s) : memoriesWf (s.failPhaser ctx id c) := by
  unfold State.failPhaser
  split
  · exact h
  · split <;> exact h

theorem kept_dropWelt {w} (h : memoriesWf s) : memoriesWf (s.dropWelt w) := by
  unfold State.dropWelt
  dsimp only
  have dropped : memoriesWf ((List.range s.phasers.length).foldl (fun s i => match s.phasers[i]? with
      | some p => if p.members.any fun m => m.1 == w then
          s.putPhaser i { p with members := p.members.filter fun m => m.1 != w } else s
      | none => s) s) := by
    refine kept_foldl h fun s h i => ?_
    split
    · split
      · exact kept_putPhaser h
      · exact h
    · exact h
  exact kept_testBarrier (kept_setWgAt dropped (memoriesWf_wgAt dropped _))

theorem kept_putLock {i l} (h : memoriesWf s) : memoriesWf (s.putLock i l) := by
  unfold State.putLock
  dsimp only
  split <;> exact h

theorem kept_releaseName {ctx name age} (h : memoriesWf s) : memoriesWf (s.releaseName ctx name age) := by
  unfold State.releaseName
  split
  · exact h
  · split
    · exact h
    · dsimp only
      refine kept_putLock ?_
      split <;> exact h

theorem kept_releaseAll {w} (h : memoriesWf s) : memoriesWf (s.releaseAll w) := by
  unfold State.releaseAll
  dsimp only
  split
  · exact h
  · exact kept_setWeltAt (kept_foldl h fun _ h _ => kept_releaseName h)

theorem kept_unqueue {w} (h : memoriesWf s) : memoriesWf (s.unqueue w) := by
  unfold State.unqueue
  dsimp only
  refine kept_foldl h fun s h a => ?_
  split
  · exact h
  · split
    · exact kept_putLock h
    · exact h

theorem kept_wound {by_ name w} (h : memoriesWf s) : memoriesWf (s.wound by_ name w) := by
  unfold State.wound
  dsimp only
  split
  · exact h
  · split
    · exact h
    · exact kept_post (kept_post (kept_unqueue h))

theorem kept_clearArea {wg} (h : memoriesWf s) : memoriesWf (s.clearArea wg) := h

theorem kept_showWg {g} (h : memoriesWf s) : memoriesWf (s.showWg g) := h

/-- A workgroup that has ended has no memory of its own any more. -/
theorem kept_endWg {g ok} (h : memoriesWf s) : memoriesWf (s.endWg g ok) := by
  have shown (blocks : List Nat) : memoriesWf (blocks.foldl (fun s b => s.dropBlock g b) (s.showWg g)) :=
    kept_foldl (kept_showWg h) fun _ h _ => kept_dropBlock h
  unfold State.endWg
  generalize List.range 32 = blocks
  dsimp only
  split
  · exact h
  · exact kept_post (kept_setLaunchAt (kept_combine
      (kept_setWgAt (kept_clearArea (kept_withPooled (shown blocks))) wgInit_wf)))

theorem kept_settleTxn {w} (h : memoriesWf s) : memoriesWf (s.settleTxn w) := by
  unfold State.settleTxn
  split
  · exact kept_releaseAll h
  · exact h

theorem kept_endWelt {w ok} (h : memoriesWf s) : memoriesWf (s.endWelt w ok) := by
  unfold State.endWelt
  dsimp only
  split
  · exact h
  · split
    · exact kept_endWg (kept_settleTxn (kept_expose (kept_setWeltAt (kept_endLease (kept_dropWelt h)))))
    · exact kept_settleTxn (kept_expose (kept_setWeltAt (kept_endLease (kept_dropWelt h))))

theorem kept_stopWg {g discard} (h : memoriesWf s) : memoriesWf (s.stopWg g discard) := by
  unfold State.stopWg
  dsimp only
  split
  · exact h
  · refine kept_endWg (kept_foldl ?_ fun _ h _ => kept_endWelt (kept_setWeltAt h))
    split
    · exact kept_clearArea (kept_setWgAt h (memoriesWf_wgAt h _))
    · exact h

theorem kept_flagLaunch {l f} (h : memoriesWf s) : memoriesWf (s.flagLaunch l f) := h

theorem kept_faultWg {g cause discard} (h : memoriesWf s) :
    memoriesWf (s.faultWg g cause discard) := kept_stopWg (kept_flagLaunch h)

theorem kept_holdCode {a} (h : memoriesWf s) : memoriesWf (s.holdCode a) := by
  unfold State.holdCode
  split
  · dsimp only
    split
    · exact kept_fillTlb h
    · exact kept_setCw (kept_fillTlb h)
  · exact h

theorem kept_splitStitch {i} (h : memoriesWf s) : memoriesWf (s.splitStitch i) := h

theorem kept_leaveStitch {i} (h : memoriesWf s) : memoriesWf (s.leaveStitch i) := h

theorem kept_countStitch {i} (h : memoriesWf s) : memoriesWf (s.countStitch i) := h

theorem kept_haltWelt {k i} (h : memoriesWf s) : memoriesWf (s.haltWelt k i) := by
  unfold State.haltWelt
  dsimp only
  split
  · exact h
  · exact kept_post (kept_splitStitch h)

theorem kept_raiseIn {i t} (h : memoriesWf s) : memoriesWf (s.raiseIn i t) := by
  unfold State.raiseIn
  dsimp only
  split
  · exact h
  · split
    · exact kept_faultWg h
    · split
      · exact kept_post (kept_foldl (kept_splitStitch (kept_setWeltAt (kept_endLease h))) fun _ h _ => kept_haltWelt h)
      · exact kept_foldl (kept_splitStitch (kept_setWeltAt (kept_endLease h))) fun _ h _ => kept_haltWelt h

theorem kept_raise {t} (h : memoriesWf s) : memoriesWf (s.raise t) := kept_raiseIn h

theorem kept_raiseEarly {t} (h : memoriesWf s) : memoriesWf (s.raiseEarly t) := kept_raiseIn h

theorem kept_trapAt {c lanes} (h : memoriesWf s) : memoriesWf (s.trapAt c lanes) := kept_raise h

theorem kept_stopStitch {x n i} (h : memoriesWf s) :
    memoriesWf (s.stopStitch x n i) := kept_foldl h fun _ h _ => h

theorem kept_illegalBy {f lanes hdr} (h : memoriesWf s) (trap : ∀ s t, memoriesWf s → memoriesWf (f s t)) :
    memoriesWf (s.illegalBy f lanes hdr) := by
  unfold State.illegalBy
  dsimp only
  split
  · exact trap _ _ h
  · exact kept_stopStitch (trap _ _ h)

theorem kept_illegalAt {lanes hdr} (h : memoriesWf s) :
    memoriesWf (s.illegalAt lanes hdr) := kept_illegalBy h fun _ _ h => kept_raise h

theorem kept_illegalWord {hdr} (h : memoriesWf s) :
    memoriesWf (s.illegalWord hdr) := kept_illegalBy h fun _ _ h => kept_raiseEarly h

theorem kept_illegal (h : memoriesWf s) : memoriesWf (s.illegal) := kept_illegalAt h

theorem kept_resume {i} (h : memoriesWf s) : memoriesWf (s.resume i) := by
  unfold State.resume
  dsimp only
  split <;> exact h

theorem kept_deliverWound {i lanes pc} (h : memoriesWf s) :
    memoriesWf (s.deliverWound i lanes pc) := kept_raiseIn h

theorem kept_noteIssue {core slice} (h : memoriesWf s) : memoriesWf (s.noteIssue core slice) := h

theorem kept_atSwitchPoint (h : memoriesWf s) :
    memoriesWf (s.atSwitchPoint) := kept_setCg h (memoriesWf_wgAt h _)

theorem kept_checkHeld {i} (h : memoriesWf s) : memoriesWf (s.checkHeld i) := by
  unfold State.checkHeld
  dsimp only
  split
  · exact kept_raiseIn h
  · split
    · exact kept_raiseIn h
    · exact h

theorem kept_trapReturn {skipLen} (h : memoriesWf s) : memoriesWf (s.trapReturn skipLen) := by
  unfold State.trapReturn
  dsimp only
  split
  · exact kept_illegal h
  · refine kept_ite (kept_trapAt h) ?_
    split
    · exact kept_illegal h
    · exact kept_ite (kept_endWelt (kept_ite (kept_post (kept_noteIssue h)) (kept_noteIssue h)))
        (kept_checkHeld (kept_ite (kept_post (kept_noteIssue h)) (kept_noteIssue h)))

theorem kept_watchTrap {load store size as} (h : memoriesWf s) :
    memoriesWf (s.watchTrap load store size as) := kept_raise h

theorem kept_faultTrap {as restart} (h : memoriesWf s) : memoriesWf (s.faultTrap as restart) := by
  unfold State.faultTrap
  split
  · exact h
  · exact kept_raise h

theorem kept_fetchTrap {f hdr} (h : memoriesWf s) : memoriesWf (s.fetchTrap f hdr) := kept_raiseEarly h

theorem kept_holdInstr (h : memoriesWf s) : memoriesWf (s.holdInstr) := by
  unfold State.holdInstr
  dsimp only
  split
  · split
    · exact kept_holdCode (kept_holdCode h)
    · exact kept_holdCode h
  · exact kept_holdCode h

theorem kept_accept {l stack} (h : memoriesWf s) : memoriesWf (s.accept l stack) := h

theorem kept_writeBinding {launch gang} (h : memoriesWf s) :
    memoriesWf (s.writeBinding launch gang) := kept_ite (kept_writeVA_getD h) h

theorem kept_retireHeld {w} (h : memoriesWf s) : memoriesWf (s.retireHeld w) := by
  unfold State.retireHeld
  split
  · exact kept_retireWith h
  · exact kept_raise (kept_noteIssue h)

theorem kept_collective {e mem len fin} (h : memoriesWf s) : memoriesWf (s.collective e mem len fin) := by
  refine kept_ite (kept_retire h) (kept_ite (kept_raise (kept_setCw h)) (kept_ite ?_ (kept_retireHeld h)))
  split
  · exact kept_raise (kept_setCw h)
  · exact kept_retireWith h

theorem kept_reads {core ls} (h : memoriesWf s) :
    memoriesWf (s.reads core ls) := kept_readLines (kept_settle h)

theorem kept_stores {r ls bs} (h : memoriesWf s) :
    memoriesWf (s.stores r ls bs) :=
  kept_noteWrites (kept_putLocs (kept_noteMessage (kept_addVeil (kept_touchLocs (kept_settle h)))))

theorem kept_fillTlbs {as} (h : memoriesWf s) : memoriesWf (s.fillTlbs as) := by
  unfold State.fillTlbs
  refine kept_foldl h fun s h a => ?_
  split
  · exact kept_fillTlb h
  · exact h

theorem kept_compress {size as} (h : memoriesWf s) : memoriesWf (State.compress size as s).1 := by
  induction as generalizing s with
  | nil => exact h
  | cons a as ih =>
    unfold State.compress
    split
    · exact ih (kept_stores h)
    · exact h
    · exact h

theorem kept_uniFault {a f} (h : memoriesWf s) : memoriesWf (s.uniFault a f) := kept_raise h

theorem kept_uniWatch {a} (h : memoriesWf s) : memoriesWf (s.uniWatch a) := kept_raise h

theorem kept_landFlight {w k} (h : memoriesWf s) : memoriesWf (s.landFlight w k) := by
  unfold State.landFlight
  dsimp only
  split
  · exact kept_setWeltAt (kept_foldl (kept_foldl h fun _ h _ => kept_reads h) fun _ h _ => kept_noteSeen h)
  · exact kept_setWeltAt (kept_noteSeenAll (kept_reads h))
  · exact h
  · exact h
  · exact h

theorem kept_dropFlight {w n} (h : memoriesWf s) : memoriesWf (s.dropFlight w n) := h

theorem kept_doAtom {w near o} (h : memoriesWf s) : memoriesWf (s.doAtom w near o).1 := by
  unfold State.doAtom
  dsimp only
  refine kept_noteWrites (kept_noteMessage ?_)
  have told : memoriesWf (if near then (s.settle o.locs).touchLocs ((s.settle o.locs).coreOfWelt w) true o.locs
      else (s.settle o.locs).homeTouch true o.locs) :=
    kept_ite (kept_touchLocs (kept_settle h)) (kept_homeTouch (kept_settle h))
  generalize ite (near = true) _ _ = t at told ⊢
  have applied := kept_applyAtom (o := o) (kept_hearLoad (r := ⟨w, BitVec.twoPow 32 o.lane⟩) (ls := o.locs)
    (kept_noteNums (w := w) (ns := t.newest o.locs) told))
  exact kept_ite applied (kept_addVeil applied)

theorem kept_doAtoms {w near ops} (h : memoriesWf s) : memoriesWf (State.doAtoms w near ops s).1 := by
  induction ops generalizing s with
  | nil => exact h
  | cons o ops ih => exact ih (kept_doAtom h)

theorem kept_weltFlags {w f} (h : memoriesWf s) : memoriesWf (s.weltFlags w f) := h

theorem kept_classifyAtoms {core ops} (h : memoriesWf s) : memoriesWf (s.classifyAtoms core ops) := by
  unfold State.classifyAtoms
  refine kept_foldl h fun s h a => ?_
  split
  · split
    · exact h
    · exact kept_classify h
  · exact h

theorem kept_runNow {ops} (h : memoriesWf s) : memoriesWf (s.runNow ops).1 :=
  kept_weltFlags (kept_doAtoms (kept_doAtoms (kept_classifyAtoms h)))

theorem kept_startAtoms {s0 : State} {len ops} (h : memoriesWf s0) : memoriesWf (s0.startAtoms len ops) := by
  unfold State.startAtoms
  dsimp only
  split
  · split
    · exact kept_retire (kept_weltFlags (kept_doAtoms (kept_classifyAtoms h)))
    · exact kept_post (kept_retire (kept_weltFlags (kept_doAtoms (kept_classifyAtoms h))))
  · refine kept_post ?_
    split
    · exact kept_retire (kept_weltFlags (kept_doAtoms (kept_classifyAtoms h)))
    · exact kept_post (kept_retire (kept_weltFlags (kept_doAtoms (kept_classifyAtoms h))))

theorem kept_bufferAtoms {es t} (h : memoriesWf s) (e : s.bufferAtoms es = some t) : memoriesWf t := by
  have entered (buf : List DetEntry) : memoriesWf (s.setCg { s.cg with detBuf := buf }) := kept_setCg h (memoriesWf_cg h)
  unfold State.bufferAtoms at e
  dsimp only at e
  split at e
  · obtain rfl := Option.some.inj e
    exact kept_ite (entered _) (kept_setCtxAt (entered _))
  · cases e

theorem kept_recordAtoms {ops addr t} (h : memoriesWf s) (e : s.recordAtoms ops addr = some t) : memoriesWf t := by
  unfold State.recordAtoms at e
  obtain ⟨u, buffered, rfl⟩ := Option.map_eq_some_iff.1 e
  refine kept_setCw (kept_bufferAtoms ?_ buffered)
  split
  · exact h
  · exact kept_settle h

theorem kept_hostAtomic {addr lanes} (h : memoriesWf s) : memoriesWf (s.hostAtomic addr lanes) := kept_raise h

theorem kept_crAddAt {g range op va level f} (h : memoriesWf s) :
    memoriesWf (s.crAddAt g range op va level f) := kept_setWgAt h (memoriesWf_wgAt h _)

theorem kept_operandReady {w} (h : memoriesWf s) : memoriesWf (s.operandReady w) := by
  unfold State.operandReady
  dsimp only
  split <;> exact h

theorem kept_observeCopies {w} (h : memoriesWf s) : memoriesWf (s.observeCopies w) := by
  unfold State.observeCopies
  split <;> exact h

theorem kept_afterFence {lanes pm sm scope cum} (h : memoriesWf s) :
    memoriesWf (s.afterFence lanes pm sm scope cum) := by
  unfold State.afterFence
  dsimp only
  split
  · refine kept_operandReady (kept_hearFence ?_)
    split
    · refine kept_observeCopies ?_
      split
      · exact kept_setCw (kept_expose h)
      · exact kept_expose h
    · split
      · exact kept_setCw (kept_expose h)
      · exact kept_expose h
  · refine kept_hearFence ?_
    split
    · refine kept_observeCopies ?_
      split
      · exact kept_setCw (kept_expose h)
      · exact kept_expose h
    · split
      · exact kept_setCw (kept_expose h)
      · exact kept_expose h

theorem kept_afterFull (h : memoriesWf s) : memoriesWf (s.afterFull) := kept_afterFence h

theorem kept_startCopy {c} (h : memoriesWf s) : memoriesWf (s.startCopy c) := by
  unfold State.startCopy
  dsimp only
  split <;> exact h

theorem kept_engineTouch {write ls} (h : memoriesWf s) :
    memoriesWf (s.engineTouch write ls) := kept_foldl (kept_homeTouch h) fun _ h _ => kept_touchLocs h

theorem kept_engineReads {ls} (h : memoriesWf s) : memoriesWf (s.engineReads ls) := by
  unfold State.engineReads
  dsimp only
  refine kept_foldl (kept_engineTouch (kept_settle h)) fun s h a => ?_
  split
  · exact kept_evalLine h
  · exact h

theorem kept_engineWrites {ls} (h : memoriesWf s) :
    memoriesWf (s.engineWrites ls) := kept_unveil (kept_engineTouch (kept_settle h))

theorem kept_copyBytes {c off n r} (h : memoriesWf s) (e : s.copyBytes c off n = .ok r) : memoriesWf r.1 := by
  unfold State.copyBytes at e
  dsimp only at e
  split at e
  · cases e
  · split at e <;> cases e <;> exact kept_engineReads h

theorem kept_putOut {l b} (h : memoriesWf s) : memoriesWf (s.putOut l b) := kept_putByte h

theorem kept_putLine {c e off bs} (h : memoriesWf s) : memoriesWf (s.putLine c e off bs).1 := by
  unfold State.putLine
  dsimp only
  generalize made : List.foldl _ (s, (none : Option XFault)) _ = r
  have wf : memoriesWf r.1 := by
    rw [← made]
    refine List.foldlRecOn _ _ (motive := fun r : State × Option XFault => memoriesWf r.1) h fun acc hacc lb _ => ?_
    split
    · exact hacc
    · split
      · exact hacc
      · split
        · split
          · split
            · exact hacc
            · exact kept_putByte hacc
          · exact hacc
        · exact kept_putOut hacc
  split
  · exact wf
  · split
    · exact h
    · exact wf

theorem kept_setCopy {k c} (h : memoriesWf s) : memoriesWf (s.setCopy k c) := h

theorem kept_endCopy {k c fail} (h : memoriesWf s) : memoriesWf (s.endCopy k c fail) := by
  unfold State.endCopy
  dsimp only
  split
  · split
    · exact kept_setWgAt (kept_setCopy h) (memoriesWf_wgAt (kept_setCopy h) _)
    · exact kept_setCopy h
  · exact kept_setCopy h

theorem kept_copyLanded {c n} (h : memoriesWf s) : memoriesWf (s.copyLanded c n) := by
  unfold State.copyLanded
  split
  · exact kept_landBytes h
  · exact h

theorem kept_copyOn {k c n carried} (h : memoriesWf s) : memoriesWf (s.copyOn k c n carried) := by
  unfold State.copyOn
  dsimp only
  split
  · exact kept_post (kept_setCopy (kept_copyLanded h))
  · split
    · exact kept_post (kept_setCopy (kept_copyLanded h))
    · exact kept_endCopy (kept_copyLanded h)

theorem kept_copyPaid {k c go} (h : memoriesWf s) (paid : memoriesWf go) :
    memoriesWf (s.copyPaid k c go) := by
  unfold State.copyPaid
  split
  · exact paid
  · exact kept_post (kept_setCopy h)

theorem kept_collBlock {k c q d r} (h : memoriesWf s) (e : s.collBlock k c q d = .ok r) : memoriesWf r.1 := by
  unfold State.collBlock at e
  dsimp only at e
  split at e
  · cases e
    exact kept_foldl (kept_noteWrites (kept_putLocs (kept_engineWrites
      (kept_engineReads (kept_engineReads h))))) fun _ h _ => kept_crAddAt h
  all_goals cases e

theorem kept_copyLine {c off n r} (h : memoriesWf s) (e : s.copyLine c off n = .ok r) : memoriesWf r.1 := by
  unfold State.copyLine at e
  split at e
  · exact kept_copyBytes h e
  · cases e
    exact h

theorem kept_observeSlots {g b slots} (h : memoriesWf s) :
    memoriesWf (s.observeSlots g b slots) := kept_hearCopies h

theorem kept_blur {g t acc es} (h : memoriesWf s) :
    memoriesWf (s.blur g t acc es) := kept_setWgAt h (wgWf_setCells (memoriesWf_wgAt h _))

theorem kept_settleStreams {w mask} (h : memoriesWf s) : memoriesWf (s.settleStreams w mask) := by
  unfold State.settleStreams
  dsimp only
  refine kept_setWeltAt ?_
  split
  · exact h
  · exact kept_foldl h fun _ h _ => h

theorem kept_nextHead {w k queue f} (h : memoriesWf s) : memoriesWf (s.nextHead w k queue f) := by
  unfold State.nextHead
  dsimp only
  split <;> exact h

theorem kept_headReady {w k again go} (h : memoriesWf s) (ready : memoriesWf go) :
    memoriesWf (s.headReady w k again go) := by
  unfold State.headReady
  dsimp only
  split
  · exact kept_post h
  · split
    · exact kept_post (kept_setWeltAt h)
    · exact ready

theorem kept_endWork {w k o} (h : memoriesWf s) : memoriesWf (s.endWork w k o) := by
  unfold State.endWork
  dsimp only
  split
  · exact h
  · exact kept_blur h

theorem kept_streamEffect {w k op rest} (h : memoriesWf s) : memoriesWf (s.streamEffect w k op rest) := by
  have tile (t : Nat) (acc : Ty) (es : List (Nat × W64)) :
      memoriesWf (s.setWgAt (s.weltAt w).wg ((s.wgAt (s.weltAt w).wg).setCells t acc es)) :=
    kept_setWgAt h (wgWf_setCells (memoriesWf_wgAt h _))
  cases op with
  | mfmt => exact kept_nextHead h
  | mzero => exact kept_nextHead (kept_endWork (tile _ _ _))
  | step => exact h
  | mrd => exact kept_nextHead (kept_endWork (kept_setWeltAt h))
  | mwr => exact kept_nextHead (kept_endWork (tile _ _ _))
  | mskv => exact kept_nextHead h
  | msamp => exact kept_nextHead h

theorem kept_runStep {w k t ha hb a0 b0 da db dt j count fpctl level taint rest} (h : memoriesWf s) :
    memoriesWf (s.runStep w k t ha hb a0 b0 da db dt j count fpctl level taint rest) := by
  unfold State.runStep
  have read := kept_engineReads h (ls :=
    s.panelLocs (s.weltAt w).wg level ha ((a0 : Int) + j * da).toNat ++
      s.panelLocs (s.weltAt w).wg level hb ((b0 : Int) + j * db).toNat)
  dsimp only
  generalize s.engineReads _ = r at read ⊢
  exact kept_nextHead (kept_endWork (kept_setWgAt (kept_setWeltAt read) (wgWf_setCells (memoriesWf_wgAt read _))))

theorem kept_targetTrap {form call t} (h : memoriesWf s) (e : s.targetTrap form call = some t) : memoriesWf t := by
  unfold State.targetTrap at e
  dsimp only at e
  split at e
  · cases e
    exact kept_illegalAt h
  · split at e
    · cases e
      exact kept_raise h
    · cases e

theorem kept_hearLaunch {i} (h : memoriesWf s) : memoriesWf (s.hearLaunch i) := kept_learn (kept_hearCopies h)

theorem kept_tokensBack {price} (h : memoriesWf s) : memoriesWf (s.tokensBack price) := by
  unfold State.tokensBack
  split <;> exact h

theorem kept_makeRegion {ctx level desc base} (h : memoriesWf s) :
    memoriesWf (s.makeRegion ctx level desc base).1 := by
  have read := kept_settleVA h (ctx := ctx) (level := level) (va := desc) (n := 1760)
  unfold State.makeRegion
  dsimp only
  split
  · exact read
  · split
    · exact read
    · split
      · exact read
      · split
        · exact read
        · split
          · exact kept_ite read (kept_settleVA read)
          · split
            · exact kept_iteFst read (kept_withRegions read)
            · exact kept_iteFst (kept_settleVA read) (kept_withRegions (kept_settleVA read))

theorem kept_askHome {d q} (h : memoriesWf s) : memoriesWf (s.askHome d q) := kept_post (kept_retire h)

theorem kept_answer {w n f} (h : memoriesWf s) : memoriesWf (s.answer w n f) := h

theorem kept_blurMem {ctx va n} (h : memoriesWf s) : memoriesWf (s.blurMem ctx va n) := by
  refine kept_foldl h fun s h i => ?_
  split
  · exact kept_withMem h (wf_cellsWrite _ _ (memoriesWf_mem h))
  · exact h

theorem kept_dropRegion {i} (h : memoriesWf s) : memoriesWf (s.dropRegion i) := by
  unfold State.dropRegion
  split
  · exact h
  · refine kept_blurMem (kept_withRegions (kept_recallRegion ?_))
    split
    · exact kept_post (kept_answer h)
    · exact h

theorem kept_startFit {ctx w n level base desc t v} (h : memoriesWf s)
    (e : s.startFit ctx w n level base desc = (some t, v)) : memoriesWf t := by
  unfold State.startFit at e
  dsimp only at e
  split at e
  · cases e
  · split at e
    · cases e
    · split at e
      · cases e
      · split at e
        · cases e
          exact kept_post h
        · split at e
          · cases e
          · cases e
            exact kept_settleVA (kept_post h)

theorem kept_fillWord {w n d x} (h : memoriesWf s) : memoriesWf (s.fillWord w n d x) := kept_dropFlight h

theorem kept_produce {d v len} (h : memoriesWf s) :
    memoriesWf (s.produce d v len) := kept_post (kept_retire h)

theorem kept_observePhaser {w ctx id p} (h : memoriesWf s) :
    memoriesWf (s.observePhaser w ctx id p) := kept_hear (kept_hearCopies h)

theorem kept_startBarrier {g w} (h : memoriesWf s) : memoriesWf (s.startBarrier g w) := by
  unfold State.startBarrier
  dsimp only
  split
  · exact h
  · exact kept_post (kept_setWgAt h (memoriesWf_wgAt h _))

theorem kept_barrierTry {w signal} (h : memoriesWf s) : memoriesWf (s.barrierTry w signal).1 := by
  unfold State.barrierTry
  dsimp only
  split
  · exact h
  next m _ =>
    have signalled : memoriesWf (if signal && !m.2.1 then (s.setWgAt (s.weltAt w).wg
        ((s.wgAt (s.weltAt w).wg).setMember w true m.2.2)).testBarrier (s.weltAt w).wg else s) :=
      kept_ite (kept_testBarrier (kept_setWgAt h (memoriesWf_wgAt h _))) h
    generalize ite ((signal && !m.2.1) = true) _ _ = t at signalled ⊢
    split
    · exact kept_hear (kept_setWgAt signalled (memoriesWf_wgAt signalled _))
    · exact kept_startBarrier signalled

theorem kept_phaserTry {w id signal wait} (h : memoriesWf s) :
    memoriesWf (s.phaserTry w id signal wait).1 := by
  unfold State.phaserTry
  dsimp only
  split
  · exact h
  next i p _ =>
    split
    · exact h
    next m _ =>
      have signalled : memoriesWf (if signal then (s.noteSignal w id p.phase).putPhaser i (p.setMember w true m.2.2.2)
          else s) := kept_ite (kept_putPhaser (kept_noteSignal h)) h
      generalize ite (signal = true) _ _ = t at signalled ⊢
      split
      · exact h
      · split
        · exact h
        · split
          · exact signalled
          · split
            · exact kept_observePhaser signalled
            · exact signalled

theorem kept_phaseTry {w id implicit signal wait} (h : memoriesWf s) :
    memoriesWf (s.phaseTry w id implicit signal wait).1 := by
  unfold State.phaseTry
  split
  · exact kept_barrierTry h
  · exact kept_phaserTry h

theorem kept_arriveAct {m id implicit dst signal wait} (h : memoriesWf s) :
    memoriesWf (s.arriveAct m id implicit dst signal wait) := by
  unfold State.arriveAct
  dsimp only
  split
  · split
    · exact kept_retireWith (kept_atSwitchPoint (kept_phaseTry h))
    · split
      · exact kept_produce (kept_phaseTry h)
      · exact kept_retireWith (kept_phaseTry h)
  · refine kept_setCw (kept_retireWith ?_)
    split
    · exact kept_atSwitchPoint (kept_phaseTry h)
    · exact kept_phaseTry h

theorem kept_arrive {bad act} (h : memoriesWf s) (acts : ∀ s m, memoriesWf s → memoriesWf (act s m)) :
    memoriesWf (s.arrive bad act) :=
  kept_ite (kept_raise (kept_setCw h))
    (kept_ite (kept_ite (kept_illegal h) (acts _ _ h)) (kept_ite (kept_illegal h) (kept_retireHeld h)))

theorem kept_writeRecord {ctx va bs} (h : memoriesWf s) : memoriesWf (s.writeRecord ctx va bs) := by
  unfold State.writeRecord
  split
  next written => exact kept_writeVA h written
  · exact kept_foldl h fun _ h _ => kept_writeVA_getD h

theorem kept_lockDone {d v} (h : memoriesWf s) : memoriesWf (s.lockDone d v) := kept_retire h

theorem kept_lockGranted {d name} (h : memoriesWf s) :
    memoriesWf (s.lockGranted d name) := kept_lockDone (kept_hear h)

theorem kept_grantLock {i l age mode} (h : memoriesWf s) : memoriesWf (s.grantLock i l age mode) := by
  unfold State.grantLock
  dsimp only
  split
  · exact kept_wound (kept_putLock h)
  · exact kept_putLock h

theorem kept_queueLock {i l age mode conv} (h : memoriesWf s) :
    memoriesWf (s.queueLock i l age mode conv) := by
  unfold State.queueLock
  dsimp only
  split
  · exact kept_wound (kept_foldl h fun _ h _ => kept_wound h)
  · exact kept_foldl h fun _ h _ => kept_wound h

theorem kept_enterLock {name} (h : memoriesWf s) : memoriesWf (s.enterLock name) := by
  unfold State.enterLock
  split <;> exact h

theorem kept_putTokens {q station part n} (h : memoriesWf s) : memoriesWf (s.putTokens q station part n) := by
  unfold State.putTokens
  split <;> exact h

theorem kept_setQuota {p q want} (h : memoriesWf s) : memoriesWf (s.setQuota p q want) := by
  unfold State.setQuota
  dsimp only
  split
  · exact kept_putTokens (kept_setPart h)
  · exact kept_setPart h

theorem kept_noteHeads {i} (h : memoriesWf s) : memoriesWf (s.noteHeads i) := by
  unfold State.noteHeads
  refine kept_foldl h fun s h a => ?_
  dsimp only
  split <;> exact h

theorem kept_noteWide (h : memoriesWf s) : memoriesWf s.noteWide := by
  unfold State.noteWide
  refine kept_foldl ?_ fun s h i => ?_
  · split <;> exact h
  · dsimp only
    split
    · exact h
    · exact kept_noteHeads h

theorem kept_setHungry {core} (h : memoriesWf s) : memoriesWf (s.setHungry core) := h

theorem kept_grantReq {r} (h : memoriesWf s) : memoriesWf (s.grantReq r) := by
  unfold State.grantReq
  split
  · exact h
  · exact h
  · split <;> exact h

theorem kept_spendNow {core} (h : memoriesWf s) : memoriesWf (s.spendNow core) := by
  unfold State.spendNow
  split
  · exact h
  · dsimp only
    split
    · exact h
    · exact kept_grantReq h

theorem kept_ageHolds {core} (h : memoriesWf s) : memoriesWf (s.ageHolds core) := by
  unfold State.ageHolds
  dsimp only
  split <;> exact h

theorem kept_takeDue {core} (h : memoriesWf s) : memoriesWf (s.takeDue core).1 := by
  unfold State.takeDue
  dsimp only
  split
  · exact h
  · refine kept_foldl (kept_setCoreAt h) fun s h a => ?_
    split
    · split <;> exact h
    · exact h

theorem kept_returnTokens {core n} (h : memoriesWf s) : memoriesWf (s.returnTokens core n) := by
  unfold State.returnTokens
  split
  · exact kept_putTokens h
  · exact h

theorem kept_dropReserve {core} (h : memoriesWf s) : memoriesWf (s.dropReserve core) := kept_returnTokens h

theorem kept_dropTokens {p} (h : memoriesWf s) : memoriesWf (s.dropTokens p) := kept_foldl h fun _ h _ => h

theorem kept_station {q i arr seen} (h : memoriesWf s) : memoriesWf (s.station q i arr seen).1 := by
  have aged := kept_takeDue (kept_ageHolds h (core := 48 * q + i)) (core := 48 * q + i)
  unfold State.station
  dsimp only
  split
  · exact kept_setCoreAt aged
  · have hungry := kept_setHungry aged (core := 48 * q + i)
    split
    · exact kept_setCoreAt hungry
    · split
      · exact kept_setCoreAt hungry
      · exact kept_spendNow (kept_setCoreAt hungry)

theorem kept_withdrawAt0 {q arr} (h : memoriesWf s) : memoriesWf (s.withdrawAt0 q arr).1 := by
  refine List.foldlRecOn _ _ (motive := fun a : State × List (Nat × Nat) => memoriesWf a.1) h fun a ha p _ => ?_
  split
  · exact ha
  · dsimp only
    split
    · exact ha
    · exact kept_setPart ha

theorem kept_turnRing {q} (h : memoriesWf s) : memoriesWf (s.turnRing q) := by
  unfold State.turnRing
  generalize List.range 48 = stations
  refine kept_withRings (List.foldlRecOn stations _ (motive := fun a : RingStep => memoriesWf a.st)
    (kept_withdrawAt0 h) fun _ ha _ _ => ?_)
  exact kept_station ha

theorem kept_setSlice {core slice f} (h : memoriesWf s) : memoriesWf (s.setSlice core slice f) := h

theorem kept_ratioDue {core} (h : memoriesWf s) : memoriesWf (s.ratioDue core) := by
  unfold State.ratioDue
  dsimp only
  split <;> exact h

theorem kept_arriveOn {core} (h : memoriesWf s) : memoriesWf (s.arriveOn core) := by
  unfold State.arriveOn
  dsimp only
  split
  · split <;> exact h
  · refine kept_post ?_
    split <;> exact h

theorem kept_startWg {l logical core} (h : memoriesWf s) : memoriesWf (s.startWg l logical core) := by
  have arrived := kept_arriveOn h (core := core)
  refine memoriesWf_of_wgs arrived rfl rfl fun g hg => ?_
  rcases List.mem_append.1 hg with old | new
  · exact memoriesWf_wgs arrived g old
  · obtain rfl := List.mem_singleton.1 new
    exact wgInit_wf

theorem kept_restoreWg {g core} (h : memoriesWf s) : memoriesWf (s.restoreWg g core) := by
  have placed : memoriesWf (s.arriveOn core) := kept_arriveOn h
  unfold State.restoreWg
  refine kept_ite (kept_post (kept_foldl ?s3 fun _ h _ => kept_ite (kept_post h) h))
    (kept_foldl ?s3 fun _ h _ => kept_ite (kept_post h) h)
  exact kept_foldl (kept_foldl (kept_setWgAt placed (memoriesWf_wgAt h _)) fun _ h _ => kept_leaveL1 h) fun _ h _ => h

theorem kept_bindRole {l k core} (h : memoriesWf s) : memoriesWf (s.bindRole l k core) :=
  memoriesWf_of_wgs h rfl rfl (wf_map (memoriesWf_wgs h) fun g hg => by split <;> exact hg)

theorem kept_placeGang {l k cores} (h : memoriesWf s) : memoriesWf (s.placeGang l k cores) := by
  unfold State.placeGang
  dsimp only
  refine kept_writeBinding (kept_bindRole (kept_foldl h fun s h a => ?_))
  split
  · exact kept_startWg h
  · exact kept_restoreWg h

theorem kept_haltWg {g} (h : memoriesWf s) :
    memoriesWf (s.haltWg g) := kept_foldl h fun _ h _ => kept_haltWelt h

theorem kept_unreserve {g} (h : memoriesWf s) : memoriesWf (s.unreserve g) := by
  unfold State.unreserve
  dsimp only
  split
  · exact kept_dropReserve h
  · exact h

theorem kept_saveWg {g} (h : memoriesWf s) : memoriesWf (s.saveWg g) := by
  have left (blocks : List Nat) : memoriesWf ((blocks.foldl (fun s b => s.dropBlock g b) (s.showCore g)).unreserve g) :=
    kept_unreserve (kept_foldl (kept_showCore h) fun _ h _ => kept_dropBlock h)
  unfold State.saveWg
  generalize List.range 32 = blocks
  exact kept_foldl (kept_setWgAt (left blocks) (memoriesWf_wgAt (left blocks) _)) fun _ h _ => h

theorem kept_finishSaves (h : memoriesWf s) : memoriesWf (s.finishSaves) := by
  unfold State.finishSaves
  refine kept_foldl h fun s h a => ?_
  split
  · exact kept_saveWg h
  · exact h

theorem kept_startVacate {gs} (h : memoriesWf s) : memoriesWf (s.startVacate gs) := by
  unfold State.startVacate
  refine kept_foldl h fun s h a => ?_
  split
  · exact kept_haltWg (kept_setWgAt h (memoriesWf_wgAt h _))
  · exact h

theorem kept_beginVacate {l n spare who cseq} (h : memoriesWf s) :
    memoriesWf (s.beginVacate l n spare who cseq) := kept_startVacate h

theorem kept_endVacate {l} (h : memoriesWf s) : memoriesWf (s.endVacate l) := h

theorem kept_dropTlb {ctx lo size} (h : memoriesWf s) : memoriesWf (s.dropTlb ctx lo size) := h

theorem kept_showCtx {ctx} (h : memoriesWf s) : memoriesWf (s.showCtx ctx) := kept_expose h

theorem kept_startKill {g but} (h : memoriesWf s) : memoriesWf (s.startKill g but) := by
  unfold State.startKill
  split
  · exact h
  · exact kept_foldl (kept_setWgAt h (memoriesWf_wgAt h _)) fun _ h _ => kept_haltWelt h

theorem kept_dispatch {l core} (h : memoriesWf s) : memoriesWf (s.dispatch l core) := by
  unfold State.dispatch
  split
  · exact h
  · dsimp only
    split
    · exact kept_setPart (kept_setLaunchAt (kept_placeGang h))
    · exact kept_setLaunchAt (kept_placeGang h)

theorem kept_finishMove {gs core} (h : memoriesWf s) : memoriesWf (s.finishMove gs core) := by
  have moved : memoriesWf (gs.foldl (fun s g => s.restoreWg g core) (gs.foldl State.saveWg s)) :=
    kept_foldl (kept_foldl h fun _ h _ => kept_saveWg h) fun _ h _ => kept_restoreWg h
  have asked (as : List Nat) := kept_foldl moved (l := as)
    (f := fun s g => s.setWgAt g { s.wgAt g with vacating := true }) fun _ h _ => kept_setWgAt h (memoriesWf_wgAt h _)
  unfold State.finishMove
  dsimp only
  split
  · exact kept_writeBinding (kept_bindRole (asked _))
  · exact asked _

theorem kept_restartCharge {ctx core} (h : memoriesWf s) : memoriesWf (s.restartCharge ctx core) := h

theorem kept_dispatchOthers {ctx core n} (h : memoriesWf s) :
    memoriesWf (State.dispatchOthers ctx core n s) := by
  induction n generalizing s with
  | zero => exact h
  | succ n ih =>
    unfold State.dispatchOthers
    dsimp only
    split
    · exact ih (kept_dispatch h)
    · exact h

theorem kept_setSlicedOut {core ctx} (h : memoriesWf s) : memoriesWf (s.setSlicedOut core ctx) := h

theorem kept_endRanges {l} (h : memoriesWf s) :
    memoriesWf (s.endRanges l) := memoriesWf_congr (kept_combine h) rfl rfl rfl

theorem kept_hostEnd {l j} (h : memoriesWf s) : memoriesWf (s.hostEnd l j) := by
  refine kept_complete ?_
  split
  · exact h
  · split
    · exact h
    · exact kept_writeVA_getD h

theorem kept_endSaved {l} (h : memoriesWf s) : memoriesWf (s.endSaved l) := by
  unfold State.endSaved
  split
  · exact kept_foldl h fun _ h _ => kept_stopWg h
  · exact h

theorem kept_noteBusy {core} (h : memoriesWf s) : memoriesWf (s.noteBusy core) := by
  unfold State.noteBusy
  split <;> exact h

theorem kept_hangWg {g} (h : memoriesWf s) : memoriesWf (s.hangWg g) := by
  unfold State.hangWg
  dsimp only
  split
  · exact kept_raiseIn (kept_withOut (kept_tellMgmt (kept_report h)))
  · exact kept_withOut (kept_tellMgmt (kept_report h))

theorem kept_finishVacates (h : memoriesWf s) : memoriesWf (s.finishVacates) := by
  unfold State.finishVacates
  refine kept_foldl h fun s h a => ?_
  split
  · split
    · exact kept_complete (kept_endVacate h)
    · exact h
  · exact h

theorem kept_chargeCycle (h : memoriesWf s) : memoriesWf (s.chargeCycle) := h

theorem kept_markWaiting (h : memoriesWf s) : memoriesWf (s.markWaiting) := h

theorem kept_acknowledge {c n} (h : memoriesWf s) : memoriesWf (s.acknowledge c n) := h

theorem kept_answerNone {ep kind p} (h : memoriesWf s) : memoriesWf (s.answerNone ep kind p) := h

theorem kept_answerCmd {c status p val} (h : memoriesWf s) :
    memoriesWf (s.answerCmd c status p val) := kept_complete h

theorem kept_refuseCmd {c status p} (h : memoriesWf s) : memoriesWf (s.refuseCmd c status p) := by
  unfold State.refuseCmd
  dsimp only
  split
  · exact kept_answerCmd h
  · exact h

theorem kept_withFlits {c n p k} (h : memoriesWf s) (go : memoriesWf k) :
    memoriesWf (s.withFlits c n p k) := by
  unfold State.withFlits
  split
  · exact kept_answerCmd h
  · exact go

theorem kept_imageRefused {kind ver} (h : memoriesWf s) :
    memoriesWf (s.imageRefused kind ver) := kept_tellMgmt h

theorem kept_stepFailed {step what} (h : memoriesWf s) :
    memoriesWf (s.stepFailed step what) := kept_tellMgmt h

theorem kept_killLaunches {c cause} (h : memoriesWf s) :
    memoriesWf (s.killLaunches c cause) := kept_foldl h fun _ h _ => kept_flagLaunch h

theorem kept_clearCtx {c} (h : memoriesWf s) : memoriesWf (s.clearCtx c) :=
  kept_withShared (kept_unclassify (kept_dropTlb (kept_foldl h fun _ h _ => kept_dropRegion h)))

theorem kept_resetModule (h : memoriesWf s) : memoriesWf s.resetModule :=
  ⟨wf_nil, h.2.1, fun _ hg => absurd hg List.not_mem_nil⟩

theorem kept_noteWelt {i} (h : memoriesWf s) : memoriesWf (s.noteWelt i) := by
  unfold State.noteWelt
  dsimp only
  split <;> split <;> exact h

theorem kept_noteReady (h : memoriesWf s) :
    memoriesWf (s.noteReady) := kept_foldl h fun _ h _ => kept_noteWelt h

theorem kept_choose {i} (h : memoriesWf s) : memoriesWf (s.choose i) := by
  unfold State.choose
  dsimp only
  split
  · refine kept_foldl ?_ fun s h k => ?_
    · split <;> exact kept_setCg h (memoriesWf_wgAt h _)
    · split <;> exact h
  · exact h

end

end Sys2Proof.Machine

namespace Sys2Proof.Machine

/-! ### What each meaning keeps (O57)

`keeps_f` says the same of an outcome: of the forms that instructions share, of each meaning that has its own, and so of
`exec` and of a step. -/

section

open Safety

variable {s : State}

/-- Whatever state an outcome gives, its memories are in canonical form. -/
def Keeps (r : Result) : Prop := ∀ t, r = .next t → memoriesWf t

theorem keeps_next (h : memoriesWf s) : Keeps (.next s) := by
  rintro t ⟨⟩
  exact h

theorem keeps_ite {c : Prop} [Decidable c] {q r : Result} (hq : Keeps q) (hr : Keeps r) : Keeps (if c then q else r) :=
  by
  split
  · exact hq
  · exact hr

theorem keeps_issue {e d price k} (h : memoriesWf s) (hk : Keeps k) : Keeps (s.issue e d price k) := by
  unfold State.issue
  split
  · exact keeps_next (kept_raiseEarly h)
  · exact keeps_next (kept_stall h)
  · exact keeps_ite (keeps_next (kept_raiseEarly h)) (keeps_ite (keeps_next (kept_setCw h)) hk)

theorem keeps_vecOp {p d price len f} (h : memoriesWf s) :
    Keeps (s.vecOp p d price len f) := keeps_issue h (keeps_next (kept_retire h))

theorem keeps_uniOp {d len w} (h : memoriesWf s) :
    Keeps (s.uniOp d len w) := keeps_issue h (keeps_next (kept_retire h))

theorem keeps_maskOp {p d len md f} (h : memoriesWf s) :
    Keeps (s.maskOp p d len md f) := keeps_issue h (keeps_next (kept_retire h))

theorem keeps_collVec {p d mem t vd f} (h : memoriesWf s) :
    Keeps (s.collVec p d mem t vd f) := keeps_issue h (keeps_next (kept_collective h))

theorem keeps_collMask {p d mem md f} (h : memoriesWf s) :
    Keeps (s.collMask p d mem md f) := keeps_issue h (keeps_next (kept_collective h))

theorem keeps_pass {d a b ta tb p z ty imm im mem src} (h : memoriesWf s) :
    Keeps (s.pass d a b ta tb p z ty imm im mem src) := keeps_collVec h

theorem keeps_execRng {d a ta p} (h : memoriesWf s) : Keeps (execRng d a ta p s) := by
  unfold execRng
  dsimp only
  refine keeps_issue h ?_
  split
  · exact keeps_next (kept_retire h)
  · exact keeps_next (kept_post (kept_retire h))

theorem keeps_execRngLand {w n} (h : memoriesWf s) : Keeps (execRngLand w n s) := by
  unfold execRngLand
  dsimp only
  split <;> exact keeps_next h

theorem keeps_execIdent {d sl p} (h : memoriesWf s) : Keeps (execIdent d sl p s) := by
  unfold execIdent
  split <;> exact keeps_vecOp h

theorem keeps_inOrder {ls k} (h : memoriesWf s) (hk : Keeps k) : Keeps (s.inOrder ls k) := by
  unfold State.inOrder
  split
  · exact keeps_next h
  · exact hk

theorem keeps_loadLanes {len t dst as extra} (h : memoriesWf s) : Keeps (s.loadLanes len t dst as extra) := by
  have filled : memoriesWf (s.fillTlbs as) := kept_fillTlbs h
  unfold State.loadLanes
  dsimp only
  split
  · exact keeps_next (kept_watchTrap filled)
  · refine keeps_inOrder filled ?_
    split
    · split
      · exact keeps_next (kept_retire filled)
      · exact keeps_next (kept_post (kept_retire filled))
    · refine keeps_next (kept_faultTrap (kept_setCw (kept_foldl (kept_foldl filled fun s h a => ?_) fun s h a => ?_)))
      · split
        · exact kept_reads h
        · exact h
      · split
        · exact kept_noteSeen h
        · exact h

theorem keeps_storeLanes {s0 : State} {len size as val} (h : memoriesWf s0) :
    Keeps (s0.storeLanes len size as val) := by
  unfold State.storeLanes
  dsimp only
  split
  · exact keeps_next (kept_watchTrap (kept_fillTlbs h))
  · split
    · exact keeps_next (kept_faultTrap (kept_fillTlbs h))
    · refine keeps_inOrder (kept_fillTlbs h) (keeps_next (kept_retire (kept_clearBad ?_)))
      refine kept_foldl (kept_fillTlbs h) fun s h a => ?_
      split
      · exact kept_stores h
      · exact h

theorem keeps_loadOp {d wb i f t p ty n len j0 disp stash xl} (h : memoriesWf s) :
    Keeps (s.loadOp d wb i f t p ty n len j0 disp stash xl) := keeps_issue h (keeps_loadLanes h)

theorem keeps_storeOp {d wb i f t p ty n len disp stash xl} (h : memoriesWf s) :
    Keeps (s.storeOp d wb i f t p ty n len disp stash xl) := keeps_issue h (keeps_storeLanes h)

theorem keeps_execLdProbe {d w i f t p ty md _cp disp} (h : memoriesWf s) :
    Keeps (execLdProbe d w i f t p ty md _cp disp s) := keeps_issue h (keeps_loadLanes h)

theorem keeps_execStc {d w i f t p ty _cp disp} (h : memoriesWf s) :
    Keeps (execStc d w i f t p ty _cp disp s) := by
  unfold execStc
  refine keeps_issue h ?_
  dsimp only
  split
  · exact keeps_next (kept_retire h)
  · split
    · exact keeps_next (kept_watchTrap h)
    · refine keeps_inOrder h ?_
      split
      · exact keeps_next (kept_retire (kept_clearBad (kept_compress (kept_fillTlbs h))))
      · exact keeps_next (kept_raise (kept_compress (kept_fillTlbs h)))

theorem keeps_execLdw {d a ta ty _cp} (h : memoriesWf s) : Keeps (execLdw d a ta ty _cp s) := by
  unfold execLdw
  refine keeps_issue h ?_
  dsimp only
  split
  · exact keeps_next (kept_uniWatch h)
  · split
    · exact keeps_next (kept_uniFault h)
    · exact keeps_inOrder h (keeps_next (kept_post (kept_retire (kept_fillTlb h))))

theorem keeps_execStw {a b ta tb ty _cp} (h : memoriesWf s) : Keeps (execStw a b ta tb ty _cp s) := by
  unfold execStw
  refine keeps_issue h ?_
  dsimp only
  split
  · exact keeps_next (kept_uniWatch h)
  · split
    · exact keeps_inOrder h (keeps_next (kept_retire (kept_clearBad (kept_stores (kept_fillTlb h)))))
    · exact keeps_next (kept_uniFault h)
    · exact keeps_next h

theorem keeps_execPref {w i f t p _cp _disp} (h : memoriesWf s) :
    Keeps (execPref w i f t p _cp _disp s) := keeps_issue h (keeps_next (kept_retire h))

theorem keeps_execLoadLand {w n} (h : memoriesWf s) : Keeps (execLoadLand w n s) := by
  unfold execLoadLand
  split
  · split
    · exact keeps_next (kept_settleTxn (kept_dropFlight (kept_landFlight h)))
    · exact keeps_next (kept_settleTxn (kept_dropFlight (kept_landFlight h)))
    · exact keeps_next (kept_settleTxn (kept_dropFlight (kept_landFlight h)))
    · exact keeps_next (kept_settleTxn (kept_dropFlight (kept_landFlight h)))
    · exact keeps_next h
  · exact keeps_next h

theorem keeps_blockOrder {b k} (h : memoriesWf s) (hk : Keeps k) : Keeps (s.blockOrder b k) := by
  unfold State.blockOrder
  split
  · exact keeps_next h
  · exact hk

theorem keeps_rebind {b f} (h : memoriesWf s) (hf : memoriesWf (f s)) : Keeps (s.rebind b f) := by
  unfold State.rebind
  split
  · split
    · exact keeps_next (kept_retire (kept_setCg h (memoriesWf_cg h)))
    · exact keeps_next (kept_stall h)
  · exact keeps_blockOrder h
      (keeps_ite (keeps_next (kept_retire hf)) (keeps_next (kept_stall (kept_setCg hf (memoriesWf_cg hf)))))

theorem keeps_execStmap {a b ta} (h : memoriesWf s) : Keeps (execStmap a b ta s) := by
  unfold execStmap
  refine keeps_issue h ?_
  dsimp only
  split
  · exact keeps_next (kept_illegal h)
  · split
    · exact keeps_next (kept_uniFault h)
    · exact keeps_blockOrder h
        (keeps_next (kept_retire (kept_withCopies (kept_leaveL1 (kept_setCg h (wgWf_bind (memoriesWf_cg h)))))))

theorem keeps_execStunmap {a ta} (h : memoriesWf s) : Keeps (execStunmap a ta s) := by
  have dropped : memoriesWf (s.dropBlock s.cw.wg (s.cw.rdW a.toNat).toNat) := kept_dropBlock h
  exact keeps_issue h (keeps_ite (keeps_rebind h (kept_setCg dropped (wgWf_bind (memoriesWf_cg dropped))))
    (keeps_next (kept_illegal h)))

theorem keeps_execStflush {a ta} (h : memoriesWf s) : Keeps (execStflush a ta s) :=
  keeps_issue h (keeps_ite (keeps_rebind h (kept_flushBlock h)) (keeps_next (kept_illegal h)))

theorem keeps_execFarAtomic {w n} (h : memoriesWf s) : Keeps (execFarAtomic w n s) := by
  unfold execFarAtomic
  split
  · dsimp only
    split
    · exact keeps_next (kept_settleTxn (kept_dropFlight (kept_weltFlags (kept_doAtoms h))))
    · exact keeps_next (kept_post (kept_setWeltAt (kept_weltFlags (kept_doAtoms h))))
  · exact keeps_next h

theorem keeps_withLease {ops k} (h : memoriesWf s) (hk : ∀ t ls, memoriesWf t → Keeps (k t ls)) :
    Keeps (s.withLease ops k) := by
  unfold State.withLease
  dsimp only
  split
  · exact hk _ _ h
  · split
    · exact keeps_ite (hk _ _ (kept_endLease h)) (keeps_next (kept_stall h))
    · exact keeps_next (kept_stall h)

theorem keeps_runAtoms {len ops addr} (h : memoriesWf s) : Keeps (s.runAtoms len ops addr) :=
  keeps_ite (keeps_next (kept_hostAtomic h))
    (keeps_withLease h fun _ _ h => keeps_ite (keeps_next (kept_startAtoms h)) (keeps_next (kept_hostAtomic h)))

theorem keeps_partAtoms {buf as ops addr} (h : memoriesWf s) : Keeps (s.partAtoms buf as ops addr) := by
  unfold State.partAtoms
  split
  · split
    · exact keeps_next (kept_stall h)
    next recorded => exact keeps_next (kept_faultTrap (kept_recordAtoms h recorded))
  · exact keeps_withLease h fun _ _ h => keeps_next (kept_faultTrap (kept_setCw (kept_runNow h)))

theorem keeps_atomic {op buffered d wb i f t p c tc ty rt disp} (h : memoriesWf s) :
    Keeps (s.atomic op buffered d wb i f t p c tc ty rt disp) := by
  unfold State.atomic
  refine keeps_issue h (keeps_ite (keeps_next (kept_trapAt h)) (keeps_ite (keeps_next (kept_illegalAt h))
    (keeps_ite (keeps_next (kept_watchTrap h)) (keeps_inOrder (kept_fillTlbs h) ?_))))
  have filled := kept_fillTlbs h (as := accessesOf (if rt then s.todo p else s.E p) 1
    (fun l _ => s.elemAddr wb i f ty.bytes disp l 0) (fun a => s.consume (s.dataXlate .both ty.bytes a)))
  split
  · refine keeps_ite (keeps_next (kept_retire filled)) (keeps_ite ?_ (keeps_runAtoms filled))
    split
    next recorded => exact keeps_next (kept_retire (kept_recordAtoms filled recorded))
    · exact keeps_next (kept_stall filled)
  · exact keeps_ite (keeps_partAtoms filled) (keeps_next (kept_faultTrap filled))

theorem keeps_execHostAtomicLeaseTimeout {w} (h : memoriesWf s) : Keeps (execHostAtomicLeaseTimeout w s) := by
  unfold execHostAtomicLeaseTimeout
  split
  · split <;> exact keeps_next h
  · exact keeps_next h

theorem keeps_execCrdecl {a b ta tb cop} (h : memoriesWf s) : Keeps (execCrdecl a b ta tb cop s) := by
  unfold execCrdecl
  refine keeps_issue h ?_
  dsimp only
  split
  · exact keeps_next (kept_illegal h)
  · split
    · exact keeps_next (kept_uniFault h)
    · split
      · exact keeps_next (kept_retire h)
      · split
        · exact keeps_next (kept_illegal h)
        · split
          · exact keeps_next (kept_uniFault h)
          · exact keeps_next (kept_retire h)

theorem keeps_execCradd {d w i f t p cop disp} (h : memoriesWf s) :
    Keeps (execCradd d w i f t p cop disp s) := by
  unfold execCradd
  refine keeps_issue h ?_
  dsimp only
  split
  · exact keeps_next (kept_illegalAt h)
  · split
    · split
      · exact keeps_next (kept_watchTrap h)
      · split
        · exact keeps_next (kept_faultTrap h)
        · exact keeps_next (kept_illegal h)
    · split
      · exact keeps_next (kept_illegalAt h)
      · split
        · exact keeps_next (kept_watchTrap h)
        · split
          · exact keeps_next (kept_faultTrap h)
          · refine keeps_inOrder h (keeps_next (kept_retire (kept_foldl (kept_fillTlbs h) fun s h a => ?_)))
            split
            · exact kept_crAddAt h
            · exact h

theorem keeps_execCommutativeCombination {ctx line} (h : memoriesWf s) :
    Keeps (execCommutativeCombination ctx line s) := keeps_next (kept_combine h)

theorem keeps_fencedAs {pm r k} (h : memoriesWf s) (hk : Keeps k) : Keeps (s.fencedAs pm r k) := by
  unfold State.fencedAs
  split
  · exact hk
  · dsimp only
    split <;> exact keeps_next h

theorem keeps_fenced {pm k} (h : memoriesWf s) (hk : Keeps k) : Keeps (s.fenced pm k) := keeps_fencedAs h hk

theorem keeps_fullFence {k} (h : memoriesWf s) (hk : ∀ t, memoriesWf t → Keeps (k t)) :
    Keeps (s.fullFence k) := keeps_fenced h (hk _ (kept_afterFull h))

theorem keeps_execFence {pm sm sc cum} (h : memoriesWf s) : Keeps (execFence pm sm sc cum s) := by
  unfold execFence
  split
  · exact keeps_fenced h (keeps_next (kept_retire h))
  · exact keeps_fenced h (keeps_next (kept_retire (kept_afterFence h)))

theorem keeps_execFenceComplete {w} (h : memoriesWf s) : Keeps (execFenceComplete w s) := by
  unfold execFenceComplete
  split
  · split <;> exact keeps_next h
  · exact keeps_next h

theorem keeps_execIfence (h : memoriesWf s) :
    Keeps (execIfence s) := keeps_issue h (keeps_fenced h (keeps_next (kept_retire (kept_expose h))))

theorem keeps_execCpy {a b ta tb c tc src dst srole drole conv} (h : memoriesWf s) :
    Keeps (execCpy a b ta tb c tc src dst srole drole conv s) := by
  unfold execCpy
  refine keeps_issue h ?_
  dsimp only
  split
  · split
    · exact keeps_next (kept_illegal h)
    · split
      · split
        · split
          · exact keeps_next (kept_retire (kept_startCopy h))
          · exact keeps_next (kept_illegal h)
        · exact keeps_next (kept_illegal h)
      · split
        · split
          · exact keeps_next (kept_illegal h)
          · exact keeps_next (kept_retire (kept_startCopy h))
        · exact keeps_next (kept_illegal h)
  · exact keeps_next (kept_illegal h)

theorem keeps_execCpyMc {a b ta tb c tc src dst role set conv} (h : memoriesWf s) :
    Keeps (execCpyMc a b ta tb c tc src dst role set conv s) := by
  unfold execCpyMc
  refine keeps_issue h ?_
  dsimp only
  split
  · split
    · exact keeps_next (kept_illegal h)
    · exact keeps_next (kept_retire (kept_startCopy h))
  · exact keeps_next (kept_illegal h)

theorem keeps_execCpyColl {a b ta tb c tc src salt rm} (h : memoriesWf s) :
    Keeps (execCpyColl a b ta tb c tc src salt rm s) := by
  unfold execCpyColl
  refine keeps_issue h ?_
  dsimp only
  split
  · split
    · split
      · exact keeps_next (kept_illegal h)
      · exact keeps_next (kept_retire (kept_startCopy h))
    · split
      · exact keeps_next (kept_illegal h)
      · exact keeps_next (kept_retire (kept_startCopy h))
  · exact keeps_next (kept_illegal h)

theorem keeps_execCopyLineLand {k} (h : memoriesWf s) : Keeps (execCopyLineLand k s) := by
  unfold execCopyLineLand
  split
  · exact keeps_next h
  · refine keeps_ite (keeps_next h) (keeps_next (kept_copyPaid h ?_))
    split
    · exact h
    · split
      · split
        · exact kept_post h
        next landed => exact kept_settleTxn (kept_copyOn (kept_weltFlags (kept_collBlock h landed)))
      · dsimp only
        split
        · exact kept_post h
        next landed =>
          split
          · exact kept_post (kept_noteWrites (kept_putLine (kept_engineWrites (kept_copyLine h landed))))
          · exact kept_settleTxn (kept_copyOn (kept_weltFlags (kept_clearBad (kept_noteWrites
              (kept_putLine (kept_engineWrites (kept_copyLine h landed)))))))

theorem keeps_execCopyFail {k cause kind} (h : memoriesWf s) : Keeps (execCopyFail k cause kind s) := by
  unfold execCopyFail
  split
  · exact keeps_next h
  next c _ =>
    have failed : memoriesWf (match c.ph with
        | some id => s.failPhaser c.ctx id cause
        | none => s) := by
      split
      · exact kept_failPhaser h
      · exact h
    exact keeps_ite (keeps_next h) (keeps_next (kept_settleTxn (kept_endCopy (kept_copyLanded failed))))

theorem keeps_execCbSlotClaim {k} (h : memoriesWf s) : Keeps (execCbSlotClaim k s) := by
  unfold execCbSlotClaim
  split
  · split
    · dsimp only
      split
      · split
        · split
          · exact keeps_next (kept_post (kept_post (kept_setCopy (kept_setWgAt h (memoriesWf_wgAt h _)))))
          · exact keeps_next (kept_post (kept_setCopy (kept_setWgAt h (memoriesWf_wgAt h _))))
        · exact keeps_next h
      · exact keeps_next h
    · exact keeps_next h
  · exact keeps_next h

theorem keeps_execCbinit {a b ta tb} (h : memoriesWf s) : Keeps (execCbinit a b ta tb s) := by
  unfold execCbinit
  refine keeps_issue h ?_
  dsimp only
  split
  · exact keeps_next (kept_illegal h)
  · exact keeps_next (kept_retire (kept_setCg h (memoriesWf_wgAt h _)))

theorem keeps_execCbwait {d a ta n} (h : memoriesWf s) : Keeps (execCbwait d a ta n s) := by
  unfold execCbwait
  refine keeps_issue h ?_
  dsimp only
  split
  · exact keeps_next (kept_illegal h)
  · split
    · exact keeps_next (kept_illegal h)
    · split
      · exact keeps_next (kept_stall (kept_atSwitchPoint h))
      · split
        · exact keeps_next (kept_trapAt (kept_observeSlots (kept_atSwitchPoint h)))
        · exact keeps_next (kept_retire (kept_observeSlots (kept_atSwitchPoint h)))

theorem keeps_execCbpop {a ta n} (h : memoriesWf s) : Keeps (execCbpop a ta n s) := by
  unfold execCbpop
  refine keeps_issue h ?_
  dsimp only
  split
  · exact keeps_next (kept_illegal h)
  · split
    · exact keeps_next (kept_illegal h)
    · split
      · exact keeps_next h
      · refine keeps_next (kept_retire ?_)
        split
        · exact kept_post (kept_setCg h (memoriesWf_wgAt h _))
        · exact kept_setCg h (memoriesWf_wgAt h _)

theorem keeps_execCbfree {a ta} (h : memoriesWf s) : Keeps (execCbfree a ta s) := by
  unfold execCbfree
  refine keeps_issue h ?_
  dsimp only
  split
  · exact keeps_next (kept_illegal h)
  · split
    · exact keeps_next (kept_retire (kept_setCg h (memoriesWf_wgAt h _)))
    · exact keeps_next (kept_stall (kept_setCg h (memoriesWf_wgAt h _)))

theorem keeps_matrixOp {d k} (h : memoriesWf s) (hk : Keeps k) : Keeps (s.matrixOp d k) := by
  unfold State.matrixOp
  refine keeps_issue h ?_
  dsimp only
  split
  · exact keeps_next (kept_trapAt h)
  · exact hk

theorem keeps_enter {k op acc len w} (h : memoriesWf s) : Keeps (s.enter k op acc len w) := by
  unfold State.enter
  dsimp only
  split
  · exact keeps_next h
  · refine keeps_next ?_
    split
    · exact kept_post (kept_retire h)
    · exact kept_retire h

theorem keeps_execMres {hd wr tc ty} (h : memoriesWf s) : Keeps (execMres hd wr tc ty s) :=
  keeps_matrixOp h (keeps_ite (keeps_next (kept_retire h)) (keeps_next (kept_illegal h)))

theorem keeps_execMrel {hd} (h : memoriesWf s) : Keeps (execMrel hd s) := by
  unfold execMrel
  refine keeps_matrixOp h ?_
  split
  · exact keeps_next (kept_retire h)
  · exact keeps_next (kept_illegal h)

theorem keeps_execMfmt {st : State} {s ty} (h : memoriesWf st) :
    Keeps (execMfmt s ty st) := keeps_matrixOp h (keeps_enter h)

theorem keeps_execMzero {st : State} {s t} (h : memoriesWf st) : Keeps (execMzero s t st) := by
  unfold execMzero
  refine keeps_matrixOp h ?_
  dsimp only
  split
  · exact keeps_enter h
  · exact keeps_next (kept_illegal h)

theorem keeps_stepOp {k ha hb t a0 b0 da db dt count len} (h : memoriesWf s) :
    Keeps (s.stepOp k ha hb t a0 b0 da db dt count len) := by
  unfold State.stepOp
  dsimp only
  split
  · split
    · exact keeps_enter h
    · exact keeps_next (kept_illegal h)
  · exact keeps_next (kept_illegal h)

theorem keeps_execMstep {st : State} {s ha hb t} (h : memoriesWf st) :
    Keeps (execMstep s ha hb t st) := keeps_matrixOp h (keeps_stepOp h)

theorem keeps_execMloop {st : State} {s ha hb t wr tc cnt} (h : memoriesWf st) :
    Keeps (execMloop s ha hb t wr tc cnt st) := by
  unfold execMloop
  refine keeps_matrixOp h ?_
  dsimp only
  split
  · exact keeps_next (kept_illegal h)
  · exact keeps_stepOp h

theorem keeps_execMrd {st : State} {s t d row cnt} (h : memoriesWf st) :
    Keeps (execMrd s t d row cnt st) := by
  unfold execMrd
  dsimp only
  split
  · exact keeps_next (kept_illegal h)
  · refine keeps_matrixOp h ?_
    split
    · exact keeps_enter h
    · exact keeps_next (kept_illegal h)

theorem keeps_execMwr {st : State} {s t d tc row cnt} (h : memoriesWf st) :
    Keeps (execMwr s t d tc row cnt st) := by
  unfold execMwr
  dsimp only
  split
  · exact keeps_next (kept_illegal h)
  · refine keeps_matrixOp h ?_
    split
    · exact keeps_enter h
    · exact keeps_next (kept_illegal h)

theorem keeps_execMskv {st : State} {s wr tc dep k act} (h : memoriesWf st) :
    Keeps (execMskv s wr tc dep k act st) := by
  unfold execMskv
  refine keeps_matrixOp h ?_
  dsimp only
  split
  · exact keeps_enter h
  · exact keeps_next (kept_illegal h)

theorem keeps_execMsamp {st : State} {s cnt} (h : memoriesWf st) :
    Keeps (execMsamp s cnt st) := keeps_matrixOp h (keeps_enter h)

theorem keeps_waitStreams {mask k} (h : memoriesWf s) (hk : Keeps k) : Keeps (s.waitStreams mask k) := by
  unfold State.waitStreams
  split
  · exact keeps_next h
  · split
    · exact keeps_next (kept_trapAt h)
    · exact hk

theorem keeps_mwait {mask} (h : memoriesWf s) :
    Keeps (s.mwait mask) := keeps_matrixOp h (keeps_waitStreams h (keeps_next (kept_retire (kept_settleStreams h))))

theorem keeps_execStreamInstructionEffect {w k} (h : memoriesWf s) :
    Keeps (execStreamInstructionEffect w k s) := by
  unfold execStreamInstructionEffect
  refine keeps_ite (keeps_next h) ?_
  split
  · exact keeps_next h
  · exact keeps_next h
  · exact keeps_next (kept_headReady h (kept_streamEffect h))

theorem keeps_execMatrixStep {w k} (h : memoriesWf s) : Keeps (execMatrixStep w k s) := by
  unfold execMatrixStep
  refine keeps_ite (keeps_next h) ?_
  split
  · exact keeps_next (kept_headReady h (kept_runStep h))
  · exact keeps_next h

theorem keeps_successor {d tgt call k} (h : memoriesWf s) (hk : Keeps k) :
    Keeps (s.successor d tgt call k) := by
  unfold State.successor
  refine keeps_issue h ?_
  split
  next trapped => exact keeps_next (kept_targetTrap h trapped)
  · exact hk

theorem keeps_goTo {d tgt} (h : memoriesWf s) :
    Keeps (s.goTo d tgt) := keeps_successor h (keeps_next (kept_retireWith h))

theorem keeps_call {d tgt} (h : memoriesWf s) : Keeps (s.call d tgt) := by
  unfold State.call
  refine keeps_successor h ?_
  dsimp only
  split
  · split
    · exact keeps_next (kept_illegal h)
    · exact keeps_next (kept_retireWith h)
  · split <;> exact keeps_next (kept_retireWith h)

theorem keeps_execRet {a ta} (h : memoriesWf s) : Keeps (execRet a ta s) := by
  unfold execRet
  dsimp only
  split
  · split
    · exact keeps_next (kept_illegal h)
    · exact keeps_successor h (keeps_next (kept_retireWith h))
  · split <;> exact keeps_successor h (keeps_next (kept_retireWith h))

theorem keeps_execYield (h : memoriesWf s) :
    Keeps (execYield s) := keeps_successor h (keeps_next (kept_setCw (kept_retireWith (kept_atSwitchPoint h))))

theorem keeps_execExit (h : memoriesWf s) : Keeps (execExit s) := by
  unfold execExit
  refine keeps_issue h ?_
  dsimp only
  split
  · exact keeps_next (kept_raise h)
  · split
    · exact keeps_waitStreams h (keeps_next (kept_endWelt (kept_retireWith (kept_settleStreams h))))
    · exact keeps_next (kept_retireHeld (kept_atSwitchPoint h))

theorem keeps_execLaunch {d a ta} (h : memoriesWf s) : Keeps (execLaunch d a ta s) := by
  unfold execLaunch
  refine keeps_issue h (keeps_ite (keeps_next (kept_illegal h)) (keeps_fullFence h fun t ht => ?_))
  dsimp only
  split
  · exact keeps_next (kept_raise ht)
  next ls _ =>
    have read := kept_reads (core := t.cg.core) (ls := ls)
      (kept_fillTlb ht (core := t.cg.core) (ctx := t.cl.ctx) (va := s.cw.rdW a.toNat))
    exact keeps_inOrder ht (keeps_ite (keeps_next (kept_illegal read)) (keeps_ite (keeps_next (kept_retire read))
      (keeps_next (kept_retire (kept_accept read)))))

theorem keeps_execJoin {d a ta} (h : memoriesWf s) : Keeps (execJoin d a ta s) := by
  unfold execJoin
  refine keeps_issue h ?_
  dsimp only
  split
  · exact keeps_next (kept_retire (kept_atSwitchPoint h))
  · split
    · exact keeps_next (kept_retire (kept_atSwitchPoint h))
    · split
      · exact keeps_next (kept_stall (kept_atSwitchPoint h))
      · exact keeps_next (kept_retire (kept_hearLaunch (kept_atSwitchPoint h)))

theorem keeps_vec2 {d a b ta tb p f} (h : memoriesWf s) : Keeps (s.vec2 d a b ta tb p f) := keeps_vecOp h

theorem keeps_vec1 {d a ta p f} (h : memoriesWf s) : Keeps (s.vec1 d a ta p f) := keeps_vecOp h

theorem keeps_vec2X {t d a b ta tb p f} (h : memoriesWf s) :
    Keeps (s.vec2X t d a b ta tb p f) := keeps_vecOp h

theorem keeps_vec1X {t d a ta p f} (h : memoriesWf s) : Keeps (s.vec1X t d a ta p f) := keeps_vecOp h

theorem keeps_shiftX {t d a b ta tb p im cnt f} (h : memoriesWf s) :
    Keeps (s.shiftX t d a b ta tb p im cnt f) := keeps_vecOp h

theorem keeps_floatOp {p d price len f wr} (h : memoriesWf s) : Keeps (s.floatOp p d price len f wr) := by
  unfold State.floatOp
  refine keeps_issue h ?_
  dsimp only
  split
  · exact keeps_next (kept_trapAt (kept_tokensBack h))
  · exact keeps_next (kept_retire h)

theorem keeps_float2 {d a b ta tb p t na aa nb ab price len f} (h : memoriesWf s) :
    Keeps (s.float2 d a b ta tb p t na aa nb ab price len f) := keeps_floatOp h

theorem keeps_float1 {d a ta p t na aa price len f} (h : memoriesWf s) :
    Keeps (s.float1 d a ta p t na aa price len f) := keeps_floatOp h

theorem keeps_approx1 {d a ta p t na aa f} (h : memoriesWf s) :
    Keeps (s.approx1 d a ta p t na aa f) := keeps_float1 h

theorem keeps_narrowOp {p b ta d wr f} (h : memoriesWf s) : Keeps (s.narrowOp p b ta d wr f) := by
  unfold State.narrowOp
  dsimp only
  split
  · split
    · exact keeps_issue h (keeps_next h)
    · split
      · exact keeps_next h
      · split
        · exact keeps_floatOp h
        · exact keeps_next (kept_illegal h)
  · exact keeps_issue h (keeps_next h)

theorem keeps_execFcmp {md a b ta tb p cond ty na aa nb ab} (h : memoriesWf s) :
    Keeps (execFcmp md a b ta tb p cond ty na aa nb ab s) := by
  unfold execFcmp
  refine keeps_issue h ?_
  dsimp only
  split
  · exact keeps_next (kept_trapAt h)
  · exact keeps_next (kept_retire h)

theorem keeps_execCvt {d a ta p c tc dty rm sty salt} (h : memoriesWf s) :
    Keeps (execCvt d a ta p c tc dty rm sty salt s) := by
  unfold execCvt
  exact keeps_floatOp h

theorem keeps_execRgmake {d a b ta tb} (h : memoriesWf s) : Keeps (execRgmake d a b ta tb s) :=
  keeps_issue h (keeps_ite (keeps_fullFence h fun _ h => keeps_next (kept_askHome h)) (keeps_next (kept_illegal h)))

theorem keeps_execRgdrop {d a ta} (h : memoriesWf s) : Keeps (execRgdrop d a ta s) := by
  unfold execRgdrop
  refine keeps_issue h ?_
  dsimp only
  split
  · exact keeps_next (kept_askHome h)
  · exact keeps_next (kept_illegal h)

theorem keeps_execRgfit {d a b ta tb} (h : memoriesWf s) : Keeps (execRgfit d a b ta tb s) :=
  keeps_issue h (keeps_ite (keeps_fullFence h fun _ h => keeps_next (kept_askHome h)) (keeps_next (kept_illegal h)))

theorem keeps_execRgstat {d a ta} (h : memoriesWf s) : Keeps (execRgstat d a ta s) := by
  unfold execRgstat
  refine keeps_issue h ?_
  dsimp only
  split
  · exact keeps_next (kept_askHome h)
  · exact keeps_next (kept_illegal h)

theorem keeps_execRegionStatusReturn {w n} (h : memoriesWf s) : Keeps (execRegionStatusReturn w n s) := by
  unfold execRegionStatusReturn
  dsimp only
  split
  · split
    · exact keeps_next (kept_fillWord (kept_makeRegion h))
    · split
      · exact keeps_next (kept_fillWord (kept_dropRegion h))
      · exact keeps_next (kept_fillWord h)
    · exact keeps_next (kept_fillWord h)
    · split
      next started => exact keeps_next (kept_answer (kept_startFit h started))
      · exact keeps_next (kept_fillWord h)
    · exact keeps_next h
    · exact keeps_next (kept_fillWord h)
  · exact keeps_next h

theorem keeps_execRefitCommit {i} (h : memoriesWf s) : Keeps (execRefitCommit i s) := by
  unfold execRefitCommit
  split
  · exact keeps_next h
  · split
    · exact keeps_next h
    · exact keeps_next (kept_post (kept_answer (kept_withRegions (kept_ite (kept_recallRegion h) h))))

theorem keeps_execRegionLineEvaluation {r line} (h : memoriesWf s) :
    Keeps (execRegionLineEvaluation r line s) := keeps_next (kept_evalLine h)

theorem keeps_execRegionStore {r off bytes} (h : memoriesWf s) : Keeps (execRegionStore r off bytes s) := by
  unfold execRegionStore
  split
  · exact keeps_next h
  · dsimp only
    split
    · exact keeps_next (kept_putLocs (kept_foldl h fun _ h _ => kept_recallLine h))
    · exact keeps_next h

theorem keeps_execPhaserResultReturn {w n} (h : memoriesWf s) : Keeps (execPhaserResultReturn w n s) := by
  unfold execPhaserResultReturn
  split
  · exact keeps_next (kept_fillWord h)
  · exact keeps_next h

theorem keeps_phaserOp {d a deps k} (h : memoriesWf s) (hk : ∀ i p, memoriesWf (k i p).1) :
    Keeps (s.phaserOp d a deps k) := by
  unfold State.phaserOp
  refine keeps_issue h ?_
  split
  · exact keeps_next (kept_illegal h)
  · split
    · exact keeps_next (kept_produce h)
    · exact keeps_next (kept_produce (hk _ _))

theorem keeps_execPhnew {d a ta} (h : memoriesWf s) : Keeps (execPhnew d a ta s) := by
  unfold execPhnew
  refine keeps_issue h ?_
  dsimp only
  split
  · exact keeps_next (kept_illegal h)
  · split <;> exact keeps_next (kept_produce h)

theorem keeps_execPhfree {d a ta} (h : memoriesWf s) :
    Keeps (execPhfree d a ta s) := keeps_phaserOp h fun _ _ => kept_iteFst h (kept_withPhasers h)

theorem keeps_execPhreg {d a mode ta} (h : memoriesWf s) : Keeps (execPhreg d a mode ta s) :=
  keeps_phaserOp h fun _ _ => kept_iteFst h (kept_iteFst h (kept_iteFst h (kept_putPhaser h)))

theorem keeps_execPhdrop {d a ta} (h : memoriesWf s) :
    Keeps (execPhdrop d a ta s) := keeps_phaserOp h fun _ _ => kept_iteFst h (kept_putPhaser h)

theorem keeps_execPhbytes {d a b ta tb} (h : memoriesWf s) : Keeps (execPhbytes d a b ta tb s) :=
  keeps_ite (keeps_next (kept_illegal h)) (keeps_phaserOp h fun _ _ => kept_putPhaser h)

theorem keeps_phaserArrive {d a ta signal wait} (h : memoriesWf s) :
    Keeps (s.phaserArrive d a ta signal wait) :=
  keeps_issue h (keeps_next (kept_arrive h fun _ _ h => kept_arriveAct h))

theorem keeps_execBar (h : memoriesWf s) :
    Keeps (execBar s) := keeps_issue h (keeps_next (kept_arrive (kept_startBarrier h) fun _ _ h => kept_arriveAct h))

theorem keeps_execPhaserWaitRelease {w} (h : memoriesWf s) : Keeps (execPhaserWaitRelease w s) := by
  unfold execPhaserWaitRelease
  dsimp only
  split
  · exact keeps_next h
  · split
    · exact keeps_next h
    · split
      · exact keeps_next h
      · split
        · exact keeps_next h
        · split <;> exact keeps_next (kept_setWeltAt (kept_phaseTry h))

theorem keeps_execBarto {a b ta tb} (h : memoriesWf s) : Keeps (execBarto a b ta tb s) := by
  unfold execBarto
  refine keeps_issue h ?_
  dsimp only
  split
  · exact keeps_next (kept_illegal h)
  · exact keeps_next (kept_retire (kept_setCg h (memoriesWf_wgAt h _)))

theorem keeps_execBarrierTimeout {g} (h : memoriesWf s) : Keeps (execBarrierTimeout g s) := by
  have reported : memoriesWf (if (s.wgAt g).barRecord = 0 then s
      else s.writeRecord (s.launchOf (s.wgAt g)).ctx (s.wgAt g).barRecord (s.barrierRecord g)) :=
    kept_ite h (kept_writeRecord h)
  have halted (ws : List Nat) (k : HaltKind) : memoriesWf (ws.foldl (fun s i => s.haltWelt k i) s) :=
    kept_foldl h fun _ h _ => kept_haltWelt h
  unfold execBarrierTimeout
  dsimp only
  split
  · exact keeps_next (kept_setWgAt h (memoriesWf_wgAt h _))
  · refine keeps_ite (keeps_next h) (keeps_ite (keeps_next (kept_post h)) ?_)
    split
    · exact keeps_next (kept_post h)
    · exact keeps_ite (keeps_next (kept_raiseIn (kept_setWgAt reported (memoriesWf_wgAt reported _))))
        (keeps_next (kept_post (kept_setWgAt (halted _ _) (memoriesWf_wgAt (halted _ _) _))))

theorem keeps_execFlushda (h : memoriesWf s) :
    Keeps (execFlushda s) := keeps_issue h (keeps_next (kept_retire (kept_setCg h (memoriesWf_wgAt h _))))

theorem keeps_lockOp {d deps k} (h : memoriesWf s) (hk : Keeps k) : Keeps (s.lockOp d deps k) := by
  unfold State.lockOp
  split
  · exact keeps_next (kept_deliverWound h)
  · refine keeps_issue h ?_
    split
    · exact keeps_next (kept_deliverWound h)
    · split
      · split
        · exact keeps_next (kept_lockDone h)
        · exact hk
      · exact hk

theorem keeps_request {d t name mode conv} (h : memoriesWf s) : Keeps (s.request d t name mode conv) := by
  unfold State.request
  dsimp only
  split
  · exact keeps_next h
  · split
    · exact keeps_next (kept_stall (kept_atSwitchPoint h))
    · split
      · exact keeps_next (kept_lockGranted (kept_setCw (kept_grantLock (kept_enterLock h))))
      · exact keeps_next (kept_stall (kept_atSwitchPoint (kept_queueLock (kept_enterLock h))))

theorem keeps_lockChecks {d name mode conv k} (h : memoriesWf s) (hk : ∀ t, Keeps (k t)) :
    Keeps (s.lockChecks d name mode conv k) := by
  unfold State.lockChecks
  split
  · exact keeps_next (kept_illegal h)
  · exact keeps_ite (keeps_next (kept_illegal h)) (keeps_ite (keeps_next (kept_illegal h))
      (keeps_ite (keeps_next (kept_lockDone h)) (keeps_ite (keeps_next (kept_lockDone h))
      (keeps_ite (keeps_next (kept_trapAt h)) (keeps_ite (keeps_next (kept_lockDone h)) (hk _))))))

theorem keeps_orGranted {d a mode ta k} (h : memoriesWf s) (hk : Keeps k) :
    Keeps (s.orGranted d a mode ta k) := by
  unfold State.orGranted
  split
  · exact keeps_issue h (keeps_next (kept_lockGranted h))
  · exact hk

theorem keeps_execLkacq {d a mode ta} (h : memoriesWf s) : Keeps (execLkacq d a mode ta s) :=
  keeps_orGranted h (keeps_lockOp h (keeps_lockChecks h fun _ => keeps_request h))

theorem keeps_execLkup {d a mode ta} (h : memoriesWf s) : Keeps (execLkup d a mode ta s) :=
  keeps_orGranted h (keeps_lockOp h (keeps_lockChecks h fun _ => keeps_request h))

theorem keeps_execLktry {d a mode ta} (h : memoriesWf s) : Keeps (execLktry d a mode ta s) :=
  keeps_lockOp h (keeps_lockChecks h fun _ => keeps_ite (keeps_request h) (keeps_next (kept_lockDone h)))

theorem keeps_releaseFence {name k} (h : memoriesWf s) (hk : ∀ t, memoriesWf t → Keeps (k t)) :
    Keeps (s.releaseFence name k) := keeps_fencedAs h (hk _ (kept_afterFull h))

theorem keeps_execLkrel {d a ta} (h : memoriesWf s) : Keeps (execLkrel d a ta s) := by
  unfold execLkrel
  refine keeps_lockOp h ?_
  dsimp only
  split
  · exact keeps_next (kept_illegal h)
  · exact keeps_ite (keeps_next (kept_illegal h)) (keeps_ite (keeps_next (kept_lockDone h))
      (keeps_ite (keeps_next (kept_trapAt h))
      (keeps_releaseFence h fun _ h => keeps_next (kept_lockDone (kept_setCw (kept_releaseName h))))))

theorem keeps_lockBegin {d wt} (h : memoriesWf s) : Keeps (s.lockBegin d wt) := by
  unfold State.lockBegin
  refine keeps_lockOp h ?_
  split
  · exact keeps_next (kept_illegal h)
  · exact keeps_next (kept_lockDone h)

theorem keeps_execLkend {d} (h : memoriesWf s) : Keeps (execLkend d s) := by
  unfold execLkend
  refine keeps_lockOp h ?_
  split
  · exact keeps_next (kept_illegal h)
  · exact keeps_releaseFence h fun _ h => keeps_next (kept_lockDone (kept_releaseAll h))

theorem keeps_execLkabort {d} (h : memoriesWf s) : Keeps (execLkabort d s) := by
  unfold execLkabort
  refine keeps_issue h ?_
  split
  · exact keeps_next (kept_illegal h)
  · exact keeps_releaseFence h fun _ h => keeps_next (kept_lockDone (kept_releaseAll h))

theorem keeps_execLkstat {d a ta} (h : memoriesWf s) : Keeps (execLkstat d a ta s) := by
  unfold execLkstat
  refine keeps_issue h ?_
  dsimp only
  split
  · exact keeps_next (kept_lockDone h)
  · exact keeps_next (kept_illegal h)

theorem keeps_execLkmat {d a ta} (h : memoriesWf s) : Keeps (execLkmat d a ta s) := by
  unfold execLkmat
  refine keeps_lockOp h ?_
  dsimp only
  split
  · exact keeps_next (kept_illegal h)
  · split <;> exact keeps_next (kept_lockDone h)

theorem keeps_execLockGrant {k} (h : memoriesWf s) : Keeps (execLockGrant k s) := by
  unfold execLockGrant
  split
  · exact keeps_next h
  · exact keeps_next (kept_foldl h fun _ h _ => h)

theorem keeps_execWoundDelivery {w} (h : memoriesWf s) : Keeps (execWoundDelivery w s) := by
  unfold execWoundDelivery
  dsimp only
  split
  · exact keeps_next h
  · split
    · split
      · exact keeps_next (kept_deliverWound h)
      · exact keeps_next h
    · split
      · exact keeps_next (kept_deliverWound h)
      · exact keeps_next h

theorem keeps_execWoundPatienceExpiry {w} (h : memoriesWf s) : Keeps (execWoundPatienceExpiry w s) := by
  unfold execWoundPatienceExpiry
  dsimp only
  split
  · exact keeps_next h
  · split
    · exact keeps_next h
    · split
      · exact keeps_next h
      · exact keeps_next (kept_setWeltAt (kept_report h))

theorem keeps_execCoreHungry {core} (h : memoriesWf s) :
    Keeps (execCoreHungry core s) := keeps_next (kept_setHungry h)

theorem keeps_execTokenSpend {core} (h : memoriesWf s) :
    Keeps (execTokenSpend core s) := keeps_next (kept_spendNow h)

theorem keeps_execTokenReturn {core} (h : memoriesWf s) :
    Keeps (execTokenReturn core s) := keeps_next (kept_returnTokens (kept_takeDue h))

theorem keeps_execPowerQuotaChange {part q quota} (h : memoriesWf s) :
    Keeps (execPowerQuotaChange part q quota s) := by
  unfold execPowerQuotaChange
  split
  · exact keeps_next (kept_setQuota h)
  · exact keeps_next h

theorem keeps_execSliceRatioChange {core slice code} (h : memoriesWf s) :
    Keeps (execSliceRatioChange core slice code s) := keeps_next (kept_post (kept_setSlice h))

theorem keeps_execSliceRatioTakesEffect {core slice} (h : memoriesWf s) :
    Keeps (execSliceRatioTakesEffect core slice s) := keeps_next (kept_setSlice h)

theorem keeps_execReadGrantChange {core slice grants} (h : memoriesWf s) :
    Keeps (execReadGrantChange core slice grants s) := keeps_next (kept_setSlice h)

theorem keeps_execUnassignedOpcode {hdr} (h : memoriesWf s) :
    Keeps (execUnassignedOpcode hdr s) := keeps_next (kept_illegalWord h)

theorem keeps_trapOp {a ta sup} (h : memoriesWf s) : Keeps (s.trapOp a ta sup) := by
  unfold State.trapOp
  refine keeps_issue h ?_
  dsimp only
  split
  · exact keeps_next (kept_illegal h)
  · exact keeps_next (kept_raise h)

theorem keeps_execBrk (h : memoriesWf s) : Keeps (execBrk s) := keeps_issue h (keeps_next (kept_raise h))

theorem keeps_execTret (h : memoriesWf s) :
    Keeps (execTret s) := keeps_issue h (keeps_next (kept_trapReturn h))

theorem keeps_execSrd {d lv sl} (h : memoriesWf s) : Keeps (execSrd d lv sl s) := by
  unfold execSrd
  refine keeps_issue h ?_
  split
  · exact keeps_next (kept_illegal h)
  · exact keeps_next (kept_retire h)

theorem keeps_execSrdLaneid {d} (h : memoriesWf s) :
    Keeps (execSrdLaneid d s) := keeps_issue h (keeps_next (kept_retire h))

theorem keeps_execSwr {a ta lv sl} (h : memoriesWf s) : Keeps (execSwr a ta lv sl s) := by
  unfold execSwr
  refine keeps_issue h ?_
  split
  · exact keeps_next (kept_illegal h)
  · exact keeps_next (kept_retire h)

theorem keeps_execSkey {a ta c tc} (h : memoriesWf s) : Keeps (execSkey a ta c tc s) := by
  unfold execSkey
  refine keeps_issue h ?_
  dsimp only
  refine keeps_issue h ?_
  split
  · exact keeps_next (kept_illegal h)
  · split
    · exact keeps_next (kept_illegal h)
    · split
      · exact keeps_next (kept_illegal h)
      · exact keeps_next (kept_retire h)

theorem keeps_execTlbinv {a b ta tb} (h : memoriesWf s) : Keeps (execTlbinv a b ta tb s) := by
  unfold execTlbinv
  refine keeps_issue h ?_
  dsimp only
  split
  · exact keeps_next (kept_illegal h)
  · split
    · exact keeps_next (kept_retire (kept_unclassify (kept_dropTlb (kept_showCtx h))))
    · exact keeps_next (kept_stall (kept_dropTlb (kept_showCtx h)))

theorem keeps_execVacate {d a b ta tb} (h : memoriesWf s) : Keeps (execVacate d a b ta tb s) := by
  unfold execVacate
  refine keeps_issue h ?_
  dsimp only
  split
  · exact keeps_next (kept_illegal h)
  · split
    · split
      · split
        · exact keeps_next (kept_retire (kept_endVacate (kept_finishSaves h)))
        · exact keeps_next (kept_stall (kept_finishSaves h))
      · exact keeps_next (kept_retire h)
    · exact keeps_next (kept_retire h)
    · split
      · exact keeps_next (kept_retire h)
      · exact keeps_next (kept_stall (kept_beginVacate h))
      · exact keeps_next (kept_retire h)

theorem keeps_execHaltwg {d a b ta tb} (h : memoriesWf s) : Keeps (execHaltwg d a b ta tb s) := by
  unfold execHaltwg
  refine keeps_issue h ?_
  dsimp only
  split
  · exact keeps_next (kept_illegal h)
  · split
    · exact keeps_next (kept_retire h)
    · split
      · exact keeps_next (kept_retire h)
      · split
        · exact keeps_next (kept_retire (kept_flagLaunch h))
        · split
          · split
            · split
              · exact keeps_next (kept_faultWg (kept_startKill h))
              · exact keeps_next (kept_stall (kept_startKill h))
            · split
              · exact keeps_next (kept_faultWg (kept_startKill (kept_flagLaunch h)))
              · exact keeps_next (kept_stall (kept_startKill (kept_flagLaunch h)))
          · split
            · exact keeps_next (kept_retire (kept_stopWg (kept_flagLaunch (kept_startKill h))))
            · exact keeps_next (kept_stall (kept_flagLaunch (kept_startKill h)))

theorem keeps_execSiblingStop {w} (h : memoriesWf s) : Keeps (execSiblingStop w s) := by
  unfold execSiblingStop
  dsimp only
  split <;> exact keeps_next h

theorem keeps_execCoreStall {core} (h : memoriesWf s) : Keeps (execCoreStall core s) := by
  unfold execCoreStall
  split
  · exact keeps_next (kept_foldl h fun _ h _ => kept_haltWelt h)
  · exact keeps_next h

theorem keeps_execSingleStepComplete {w} (h : memoriesWf s) : Keeps (execSingleStepComplete w s) := by
  unfold execSingleStepComplete
  dsimp only
  split
  · exact keeps_next h
  · split
    · exact keeps_next h
    · split
      · exact keeps_next h
      · exact keeps_next (kept_raiseIn h)

theorem keeps_execWorkgroupDispatch {l core} (h : memoriesWf s) : Keeps (execWorkgroupDispatch l core s) := by
  unfold execWorkgroupDispatch
  refine keeps_next ?_
  split
  · exact kept_dispatch h
  · exact h

theorem keeps_execGangCandidateReserve {l} (h : memoriesWf s) : Keeps (execGangCandidateReserve l s) := by
  unfold execGangCandidateReserve
  dsimp only
  split <;> exact keeps_next h

theorem keeps_execGangPatienceExpiry {l} (h : memoriesWf s) : Keeps (execGangPatienceExpiry l s) := by
  unfold execGangPatienceExpiry
  dsimp only
  split
  · exact keeps_next h
  · split
    · exact keeps_next h
    · split
      · exact keeps_next (kept_post (kept_finishSaves (kept_startVacate h)))
      · split
        · exact keeps_next (kept_flagLaunch h)
        · exact keeps_next h

theorem keeps_execWorkgroupMove {g core} (h : memoriesWf s) : Keeps (execWorkgroupMove g core s) := by
  unfold execWorkgroupMove
  dsimp only
  split
  · split
    · exact keeps_next h
    · split
      · exact keeps_next h
      · exact keeps_next (kept_post (kept_foldl h fun _ h _ => (kept_haltWg (kept_setWgAt h (memoriesWf_wgAt h _)))))
  · split
    · exact keeps_next h
    · split
      · exact keeps_next h
      · split
        · exact keeps_next (kept_finishMove h)
        · exact keeps_next (kept_foldl h fun _ h _ => (kept_setWgAt h (memoriesWf_wgAt h _)))

theorem keeps_execTimeSliceExpiry {ctx core} (h : memoriesWf s) : Keeps (execTimeSliceExpiry ctx core s) := by
  unfold execTimeSliceExpiry
  dsimp only
  split
  · split
    · exact keeps_next (kept_post (kept_finishSaves h))
    · exact keeps_next (kept_setSlicedOut (kept_dispatchOthers (kept_restartCharge (kept_finishSaves h))))
  · split
    · exact keeps_next h
    · split
      · exact keeps_next (kept_post (kept_setSlicedOut (kept_startVacate h)))
      · split
        · exact keeps_next h
        · exact keeps_next (kept_restartCharge h)

theorem keeps_execLaunchEnd {l} (h : memoriesWf s) : Keeps (execLaunchEnd l s) := by
  unfold execLaunchEnd
  dsimp only
  split
  · exact keeps_next (kept_endSaved h)
  · split
    · exact keeps_next (kept_endSaved h)
    · refine keeps_next ?_
      split
      · exact kept_hostEnd (kept_setLaunchAt (kept_endRanges (kept_applyLaunch (kept_endSaved h))))
      · exact kept_setLaunchAt (kept_endRanges (kept_applyLaunch (kept_endSaved h)))

theorem keeps_execCoreClockGate {core} (h : memoriesWf s) : Keeps (execCoreClockGate core s) := by
  unfold execCoreClockGate
  split <;> exact keeps_next h

theorem keeps_execCorePowerGate {core} (h : memoriesWf s) : Keeps (execCorePowerGate core s) := by
  unfold execCorePowerGate
  split
  · split <;> exact keeps_next h
  · exact keeps_next h

theorem keeps_execHang {core} (h : memoriesWf s) : Keeps (execHang core s) := by
  unfold execHang
  dsimp only
  split
  · exact keeps_next h
  · exact keeps_next (kept_setCoreAt (kept_foldl h fun _ h _ => kept_hangWg h))

theorem keeps_execLaceCycle (h : memoriesWf s) : Keeps (execLaceCycle s) := by
  have turned (cores quarters : List Nat) :
      memoriesWf (quarters.foldl State.turnRing (cores.foldl State.noteBusy { s with now := s.now + 1 })) :=
    kept_foldl (kept_foldl (kept_withNow h) fun _ h _ => kept_noteBusy h) fun _ h _ => kept_turnRing h
  have due (cores : List Nat) := kept_foldl (turned cores (List.range 4)) (l := cores) (f := State.ratioDue)
    fun _ h _ => kept_ratioDue h
  unfold execLaceCycle
  generalize List.range 192 = cores
  exact keeps_next (kept_withAgenda (kept_markWaiting (kept_chargeCycle (kept_finishVacates (kept_finishSaves (due cores))))))

theorem keeps_command {ep p kill k} (h : memoriesWf s) (hk : ∀ t c, memoriesWf t → memoriesWf (k t c)) :
    Keeps (s.command ep p kill k) := by
  unfold State.command
  split
  · exact keeps_next (kept_answerNone h)
  next c _ =>
    have acknowledged : memoriesWf (s.acknowledge c (pAck p)) := kept_acknowledge h
    exact keeps_ite (keeps_next (kept_refuseCmd acknowledged)) (keeps_ite (keeps_next (kept_refuseCmd acknowledged))
      (keeps_ite (keeps_next (kept_refuseCmd acknowledged)) (keeps_ite (keeps_next (kept_refuseCmd acknowledged))
      (keeps_next (hk _ _ (kept_setCtxAt acknowledged))))))

theorem keeps_cmdUnknown {ep pkt} (h : memoriesWf s) :
    Keeps (s.cmdUnknown ep pkt) := keeps_command h fun _ _ h => kept_answerCmd h

theorem keeps_cmdLaunch {ep pkt} (h : memoriesWf s) : Keeps (s.cmdLaunch ep pkt) :=
  keeps_command h fun _ _ h => kept_withFlits h
    (kept_ite (kept_answerCmd h) (kept_ite (kept_answerCmd h) (kept_answerCmd (kept_accept h))))

theorem keeps_cmdCancel {ep pkt} (h : memoriesWf s) : Keeps (s.cmdCancel ep pkt) := by
  refine keeps_command h fun t c h => kept_withFlits h ?_
  split
  · exact kept_answerCmd h
  · exact kept_answerCmd (kept_ite h (kept_flagLaunch h))

theorem keeps_cmdSeed {ep pkt} (h : memoriesWf s) : Keeps (s.cmdSeed ep pkt) := by
  refine keeps_command h fun t c h => kept_withFlits h ?_
  dsimp only
  split
  · exact kept_answerCmd h
  · exact kept_answerCmd (kept_setCtxAt h)

theorem keeps_cmdVacate {ep pkt} (h : memoriesWf s) : Keeps (s.cmdVacate ep pkt) := by
  refine keeps_command h fun t c h => kept_withFlits h ?_
  dsimp only
  split
  · exact kept_answerCmd h
  · exact kept_answerCmd h
  · exact kept_beginVacate h
  · exact kept_answerCmd h

theorem keeps_cmdKill {ep pkt} (h : memoriesWf s) :
    Keeps (s.cmdKill ep pkt) := keeps_command h fun _ _ h => kept_withFlits h (kept_post (kept_setCtxAt h))

theorem keeps_cmdSync {ep pkt} (h : memoriesWf s) : Keeps (s.cmdSync ep pkt) := by
  unfold State.cmdSync
  split
  · exact keeps_next (kept_answerNone h)
  · exact keeps_next (kept_withSent (kept_setCtxAt (kept_acknowledge h)))

theorem keeps_hostCommand {ep pkt} (h : memoriesWf s) : Keeps (s.hostCommand ep pkt) := by
  unfold State.hostCommand
  split
  · exact keeps_cmdLaunch h
  · exact keeps_cmdCancel h
  · exact keeps_cmdSeed h
  · exact keeps_cmdVacate h
  · exact keeps_cmdKill h
  · exact keeps_cmdSync h
  · exact keeps_cmdUnknown h

theorem keeps_execLaunchCommand {ep pkt} (h : memoriesWf s) : Keeps (execLaunchCommand ep pkt s) := by
  unfold execLaunchCommand
  split
  · exact keeps_cmdLaunch h
  · exact keeps_hostCommand h

theorem keeps_execCancel {ep pkt} (h : memoriesWf s) : Keeps (execCancel ep pkt s) := by
  unfold execCancel
  split
  · exact keeps_cmdCancel h
  · exact keeps_hostCommand h

theorem keeps_execSeedCommand {ep pkt} (h : memoriesWf s) : Keeps (execSeedCommand ep pkt s) := by
  unfold execSeedCommand
  split
  · exact keeps_cmdSeed h
  · exact keeps_hostCommand h

theorem keeps_execVacateCommand {ep pkt} (h : memoriesWf s) : Keeps (execVacateCommand ep pkt s) := by
  unfold execVacateCommand
  split
  · exact keeps_cmdVacate h
  · exact keeps_hostCommand h

theorem keeps_execKill {ep pkt} (h : memoriesWf s) : Keeps (execKill ep pkt s) := by
  unfold execKill
  split
  · exact keeps_cmdKill h
  · exact keeps_hostCommand h

theorem keeps_execSync {ep pkt} (h : memoriesWf s) : Keeps (execSync ep pkt s) := by
  unfold execSync
  split
  · exact keeps_cmdSync h
  · exact keeps_hostCommand h

theorem keeps_execUnknownCommand {ep pkt} (h : memoriesWf s) : Keeps (execUnknownCommand ep pkt s) := by
  unfold execUnknownCommand
  split
  · exact keeps_cmdUnknown h
  · exact keeps_hostCommand h

theorem keeps_execWormusLinkLoss {port} (h : memoriesWf s) :
    Keeps (execWormusLinkLoss port s) := keeps_next (kept_foldl h fun _ h _ => (memoriesWf_congr h rfl rfl rfl))

theorem keeps_execHostDataWrite {ctx va bytes} (h : memoriesWf s) :
    Keeps (execHostDataWrite ctx va bytes s) := by
  unfold execHostDataWrite
  dsimp only
  split
  · exact keeps_next (kept_withDataOut h)
  · exact keeps_ite (keeps_next (kept_withDataOut h)) (keeps_next (kept_withDataOut
      (kept_noteWrites (kept_clearBad (kept_putLocs (kept_unveil (kept_homeTouch (kept_settle h))))))))

theorem keeps_execHostDataRead {ctx va n} (h : memoriesWf s) : Keeps (execHostDataRead ctx va n s) := by
  unfold execHostDataRead
  dsimp only
  split
  · exact keeps_next h
  · split
    · exact keeps_next h
    · exact keeps_next (memoriesWf_congr (kept_homeTouch (kept_settle h)) rfl rfl rfl)

theorem keeps_execPartitionCreate {spec} (h : memoriesWf s) : Keeps (execPartitionCreate spec s) :=
  keeps_ite (keeps_next h) (keeps_ite (keeps_next (kept_stepFailed h))
    (keeps_ite (keeps_next (kept_withBringup (kept_imageRefused h)))
    (keeps_next (kept_foldl (kept_withParts h) fun _ h _ => kept_ite h (kept_setQuota h)))))

theorem keeps_execContextCreate {spec} (h : memoriesWf s) : Keeps (execContextCreate spec s) := by
  unfold execContextCreate
  split
  · exact keeps_next h
  · split
    · exact keeps_next (kept_stepFailed h)
    · exact keeps_next h

theorem kept_stopWgs {gs hs : List Nat} (h : memoriesWf s) :
    memoriesWf (hs.foldl (fun s g => if (s.wgAt g).st != .resident || s.atRest g then s.stopWg g true else s)
      (gs.foldl (fun s g => s.startKill g none) s)) :=
  kept_foldl (kept_foldl h fun _ h _ => kept_startKill h) fun _ h _ => kept_ite (kept_stopWg h) h

theorem keeps_execContextKill {ctx cause} (h : memoriesWf s) : Keeps (execContextKill ctx cause s) := by
  have ending : memoriesWf (if (s.ctxAt ctx).ending then s
      else s.setCtxAt ctx { s.ctxAt ctx with ending := true, endCause := some cause }) := kept_ite h (kept_setCtxAt h)
  refine keeps_ite (keeps_next h) (keeps_ite (keeps_next (kept_post (kept_stopWgs (kept_killLaunches ending))))
    (keeps_ite (keeps_next (kept_post (kept_clearCtx (kept_stopWgs (kept_killLaunches ending)))))
    (keeps_next (kept_setCtxAt ?_))))
  split
  · exact kept_tellMgmt (kept_complete (kept_clearCtx (kept_stopWgs (kept_killLaunches ending))))
  · exact kept_complete (kept_clearCtx (kept_stopWgs (kept_killLaunches ending)))

theorem keeps_execPartitionReset {part ok} (h : memoriesWf s) : Keeps (execPartitionReset part ok s) := by
  unfold execPartitionReset
  dsimp only
  split
  · exact keeps_next h
  · exact keeps_ite (keeps_ite (keeps_next h)
      (keeps_next (kept_withBringup (kept_imageRefused (kept_setPart (kept_dropTokens h))))))
      (keeps_next (kept_post (kept_foldl h fun _ h _ => kept_post (kept_setCtxAt h))))

theorem keeps_execModuleReset (h : memoriesWf s) :
    Keeps (execModuleReset s) := keeps_next (kept_resetModule h)

theorem keeps_execBringUp {ok} (h : memoriesWf s) : Keeps (execBringUp ok s) := by
  unfold execBringUp
  dsimp only
  split
  · split
    · exact keeps_next h
    · exact keeps_next (kept_imageRefused h)
  · split
    · exact keeps_next h
    · exact keeps_next (kept_stepFailed h)
  · split
    · exact keeps_next h
    · exact keeps_next (kept_stepFailed h)
  · split
    · exact keeps_next h
    · exact keeps_next (kept_stepFailed h)
  · exact keeps_next h
  · exact keeps_next h

theorem keeps_execThermalThrottle {q celsius} (h : memoriesWf s) :
    Keeps (execThermalThrottle q celsius s) := by
  unfold execThermalThrottle
  split
  · exact keeps_next h
  · exact keeps_next (kept_tellMgmt (kept_foldl h fun _ h _ => kept_setQuota h))

theorem keeps_execThermalReset {q celsius} (h : memoriesWf s) : Keeps (execThermalReset q celsius s) := by
  unfold execThermalReset
  split
  · exact keeps_next h
  · exact keeps_next (kept_resetModule (kept_tellMgmt h))

theorem keeps_execUncontainedError {addr ctxs} (h : memoriesWf s) :
    Keeps (execUncontainedError addr ctxs s) :=
  keeps_next (kept_foldl (kept_foldl h fun _ h _ => kept_tellMgmt h) fun _ h _ => h)

theorem keeps_execCorrectedErrorReport {counts} (h : memoriesWf s) :
    Keeps (execCorrectedErrorReport counts s) :=
  keeps_ite (keeps_next (kept_withCounts (kept_tellMgmt h))) (keeps_next h)

theorem keeps_execAttestationRequest {ctx nonce} (h : memoriesWf s) :
    Keeps (execAttestationRequest ctx nonce s) := by
  unfold execAttestationRequest
  dsimp only
  split <;> exact keeps_next h

theorem keeps_execSecurityVersionRaise {ver sig} (h : memoriesWf s) :
    Keeps (execSecurityVersionRaise ver sig s) := by
  unfold execSecurityVersionRaise
  split <;> exact keeps_next h

theorem keeps_execPageWalk {core ctx va} (h : memoriesWf s) : Keeps (execPageWalk core ctx va s) := by
  unfold execPageWalk
  dsimp only
  split
  · exact keeps_next h
  · split
    · split
      · exact keeps_next (kept_fillTlb h)
      · split <;> exact keeps_next h
    · exact keeps_next (memoriesWf_congr (kept_fillTlb h) rfl rfl rfl)

theorem keeps_execPageMiss {core page} (h : memoriesWf s) : Keeps (execPageMiss core page s) := by
  unfold execPageMiss
  split
  · exact keeps_next (kept_missLine h)
  · exact keeps_next h

theorem keeps_execLineEviction {core line} (h : memoriesWf s) : Keeps (execLineEviction core line s) := by
  unfold execLineEviction
  dsimp only
  split
  · split
    · refine keeps_next ?_
      split
      · exact kept_combine h
      · exact h
    · split
      · refine keeps_next (memoriesWf_congr (s := _) ?_ rfl rfl rfl)
        split
        · exact kept_combine h
        · exact h
      · refine keeps_next (kept_giveBack ?_)
        split
        · exact kept_combine h
        · exact h
  · refine keeps_next ?_
    split
    · exact kept_combine h
    · exact h

theorem keeps_execWriteBackArrival {k} (h : memoriesWf s) : Keeps (execWriteBackArrival k s) := by
  unfold execWriteBackArrival
  split
  · exact keeps_next h
  · dsimp only
    split
    · exact keeps_next (kept_trimL2 (kept_setDir h))
    · exact keeps_next h

theorem keeps_execPageRecordDrop {page} (h : memoriesWf s) : Keeps (execPageRecordDrop page s) := by
  unfold execPageRecordDrop
  split
  · split
    · exact keeps_next (kept_sharePage h)
    · exact keeps_next h
  · exact keeps_next h

theorem keeps_uni2 {d a b ta tb f} (h : memoriesWf s) : Keeps (s.uni2 d a b ta tb f) := keeps_uniOp h

theorem keeps_uni1 {d a ta len f} (h : memoriesWf s) : Keeps (s.uni1 d a ta len f) := keeps_uniOp h

theorem keeps_uni0 {d len x} (h : memoriesWf s) : Keeps (s.uni0 d len x) := keeps_uniOp h

theorem keeps_maskSet {d x} (h : memoriesWf s) : Keeps (s.maskSet d x) := keeps_uniOp h

/-- Every instruction and every event keeps the memories, by the form that its meaning has. -/
theorem exec_keeps {i} (h : memoriesWf s) : Keeps (exec i s) := by
  unfold exec
  cases i with
  | rngLand => exact keeps_execRngLand h
  | loadLand => exact keeps_execLoadLand h
  | farAtomic => exact keeps_execFarAtomic h
  | hostAtomicLeaseTimeout => exact keeps_execHostAtomicLeaseTimeout h
  | commutativeCombination => exact keeps_execCommutativeCombination h
  | fenceComplete => exact keeps_execFenceComplete h
  | copyLineLand => exact keeps_execCopyLineLand h
  | copyFail _ _ kind => exact keeps_execCopyFail (kind := kind) h
  | cbSlotClaim => exact keeps_execCbSlotClaim h
  | streamInstructionEffect => exact keeps_execStreamInstructionEffect h
  | matrixStep => exact keeps_execMatrixStep h
  | regionStatusReturn => exact keeps_execRegionStatusReturn h
  | refitCommit => exact keeps_execRefitCommit h
  | regionLineEvaluation => exact keeps_execRegionLineEvaluation h
  | regionStore => exact keeps_execRegionStore h
  | phaserWaitRelease => exact keeps_execPhaserWaitRelease h
  | barrierTimeout => exact keeps_execBarrierTimeout h
  | lockGrant => exact keeps_execLockGrant h
  | woundDelivery => exact keeps_execWoundDelivery h
  | woundPatienceExpiry => exact keeps_execWoundPatienceExpiry h
  | siblingStop => exact keeps_execSiblingStop h
  | coreStall => exact keeps_execCoreStall h
  | singleStepComplete => exact keeps_execSingleStepComplete h
  | pageWalk => exact keeps_execPageWalk h
  | pageMiss => exact keeps_execPageMiss h
  | writeBackArrival => exact keeps_execWriteBackArrival h
  | workgroupDispatch => exact keeps_execWorkgroupDispatch h
  | gangCandidateReserve => exact keeps_execGangCandidateReserve h
  | gangPatienceExpiry => exact keeps_execGangPatienceExpiry h
  | workgroupMove => exact keeps_execWorkgroupMove h
  | timeSliceExpiry => exact keeps_execTimeSliceExpiry h
  | launchEnd => exact keeps_execLaunchEnd h
  | tokenSpend => exact keeps_execTokenSpend h
  | tokenReturn => exact keeps_execTokenReturn h
  | coreHungry => exact keeps_execCoreHungry h
  | powerQuotaChange => exact keeps_execPowerQuotaChange h
  | sliceRatioChange => exact keeps_execSliceRatioChange h
  | sliceRatioTakesEffect => exact keeps_execSliceRatioTakesEffect h
  | readGrantChange => exact keeps_execReadGrantChange h
  | thermalThrottle => exact keeps_execThermalThrottle h
  | thermalReset => exact keeps_execThermalReset h
  | coreClockGate => exact keeps_execCoreClockGate h
  | corePowerGate => exact keeps_execCorePowerGate h
  | coreWake | wormusPortRestore | watchArm | watchDisarm | coherenceLeaseAnswer => exact keeps_next h
  | hang => exact keeps_execHang h
  | uncontainedError => exact keeps_execUncontainedError h
  | correctedErrorReport => exact keeps_execCorrectedErrorReport h
  | launchCommand => exact keeps_execLaunchCommand h
  | cancel => exact keeps_execCancel h
  | seedCommand => exact keeps_execSeedCommand h
  | vacateCommand => exact keeps_execVacateCommand h
  | kill => exact keeps_execKill h
  | sync => exact keeps_execSync h
  | unknownCommand => exact keeps_execUnknownCommand h
  | wormusLinkLoss => exact keeps_execWormusLinkLoss h
  | hostDataWrite => exact keeps_execHostDataWrite h
  | hostDataRead => exact keeps_execHostDataRead h
  | partitionCreate => exact keeps_execPartitionCreate h
  | contextCreate => exact keeps_execContextCreate h
  | contextKill => exact keeps_execContextKill h
  | partitionReset => exact keeps_execPartitionReset h
  | moduleReset => exact keeps_execModuleReset h
  | bringUp => exact keeps_execBringUp h
  | attestationRequest => exact keeps_execAttestationRequest h
  | securityVersionRaise => exact keeps_execSecurityVersionRaise h
  | unassignedOpcode => exact keeps_execUnassignedOpcode h
  | phaserResultReturn => exact keeps_execPhaserResultReturn h
  | lineEviction => exact keeps_execLineEviction h
  | pageRecordDrop => exact keeps_execPageRecordDrop h
  | laceCycle => exact keeps_execLaceCycle h
  | add | sub | mulLo | mulHi | min | max | and | or | xor | andn | shl | shr | sar | rot => exact keeps_vec2 h
  | addImm | shlImm | shrImm | sarImm | rotImm | abs | neg | not | clz | popc | brev | mov => exact keeps_vec1 h
  | addX | subX | mulLoX | mulHiX | minX | maxX | andX | orX | xorX | andnX | bfi | addSat | subSat => exact keeps_vec2X h
  | mad | sel | movi | litVector | fclass => exact keeps_vecOp h
  | absX | negX | notX | clzX | popcX | brevX | bfe | movX => exact keeps_vec1X h
  | shlX | shrX | sarX | rotX => exact keeps_shiftX h
  | cmp => exact keeps_maskOp h
  | uniformAdd | uniformSub | uniformMulLo | uniformMulHiS | uniformMulHiN | uniformMinS | uniformMinN
  | uniformMaxS | uniformMaxN | uniformAddSatS | uniformAddSatN | uniformSubSatS | uniformSubSatN
  | uniformAnd | uniformOr | uniformXor | uniformAndn | uniformShl | uniformShr | uniformSar | uniformRot => exact keeps_uni2 h
  | uniformAbs | uniformNeg | uniformNot | uniformClz | uniformPopc | uniformBrev | uniformMov
  | uniformAddImm | uniformAndImm | uniformOrImm | uniformXorImm | uniformShlImm | uniformShrImm
  | uniformSarImm | uniformBfe => exact keeps_uni1 h
  | uniformMovi | litUniform | seedTop | seedDepth | mget => exact keeps_uni0 h
  | uniformMad | uniformBfi | uniformCmp | uniformSel | mset | nop | tokq => exact keeps_uniOp h
  | mand | mor | mxor | mandn | mnot | mmov => exact keeps_maskSet h
  | pollMask | pollPeers | pollCount | foldAdd | foldMin | foldMax | foldAnd | foldOr | foldXor | scanInc
  | scanExc => exact keeps_collVec h
  | pollSome | pollEvery | pollSame | pollLead | pollLeadWelt => exact keeps_collMask h
  | passFrom | passBack | passAhead | passSwap | passTurn => exact keeps_pass h
  | rng => exact keeps_execRng h
  | ident => exact keeps_execIdent h
  | fadd | fsub | fmul | fmin | fmax | fdiv | faddX | fsubX | fmulX | fminX | fmaxX | fdivX => exact keeps_float2 h
  | fsqrt | fsqrtX => exact keeps_float1 h
  | ffma => exact keeps_floatOp h
  | frcpA | frsqA | fexp2A | flog2A => exact keeps_approx1 h
  | fcmp => exact keeps_execFcmp h
  | cvt => exact keeps_execCvt h
  | cvtn | cvtnFrom | bscale | qnt | dqnt => exact keeps_narrowOp h
  | ld | ldX | ldx | lds => exact keeps_loadOp h
  | ldProbe => exact keeps_execLdProbe h
  | st | stX | stx | sts => exact keeps_storeOp h
  | stc => exact keeps_execStc h
  | ldw => exact keeps_execLdw h
  | stw => exact keeps_execStw h
  | pref => exact keeps_execPref h
  | stmap => exact keeps_execStmap h
  | stunmap => exact keeps_execStunmap h
  | stflush => exact keeps_execStflush h
  | atomAdd | atomMin | atomMax | atomAnd | atomOr | atomXor | atomExch | atomCas | atomIncwrap | atomdAdd
  | atomdMin | atomdMax | atomdAnd | atomdOr | atomdXor | atomdIncwrap => exact keeps_atomic h
  | crdecl => exact keeps_execCrdecl h
  | cradd => exact keeps_execCradd h
  | fence => exact keeps_execFence h
  | ifence => exact keeps_execIfence h
  | cpy => exact keeps_execCpy h
  | cpyMc => exact keeps_execCpyMc h
  | cpyColl => exact keeps_execCpyColl h
  | cbinit => exact keeps_execCbinit h
  | cbwait => exact keeps_execCbwait h
  | cbpop => exact keeps_execCbpop h
  | cbfree => exact keeps_execCbfree h
  | mres => exact keeps_execMres h
  | mrel => exact keeps_execMrel h
  | mzero => exact keeps_execMzero h
  | mwait | mwaitAll => exact keeps_mwait h
  | mfmt => exact keeps_execMfmt h
  | mstep => exact keeps_execMstep h
  | mloop => exact keeps_execMloop h
  | mrd => exact keeps_execMrd h
  | mwr => exact keeps_execMwr h
  | mskv => exact keeps_execMskv h
  | msamp => exact keeps_execMsamp h
  | rgmake => exact keeps_execRgmake h
  | rgdrop => exact keeps_execRgdrop h
  | rgfit => exact keeps_execRgfit h
  | rgstat => exact keeps_execRgstat h
  | phnew => exact keeps_execPhnew h
  | phfree => exact keeps_execPhfree h
  | phreg => exact keeps_execPhreg h
  | phdrop => exact keeps_execPhdrop h
  | phsig | phwait | pharr => exact keeps_phaserArrive h
  | phbytes => exact keeps_execPhbytes h
  | bar => exact keeps_execBar h
  | barto => exact keeps_execBarto h
  | flushda => exact keeps_execFlushda h
  | lkmat => exact keeps_execLkmat h
  | lkbegin | lkbeginWt => exact keeps_lockBegin h
  | lkend => exact keeps_execLkend h
  | lkabort => exact keeps_execLkabort h
  | lkacq => exact keeps_execLkacq h
  | lktry => exact keeps_execLktry h
  | lkup => exact keeps_execLkup h
  | lkrel => exact keeps_execLkrel h
  | lkstat => exact keeps_execLkstat h
  | go | br | brx => exact keeps_goTo h
  | call | callx => exact keeps_call h
  | ret => exact keeps_execRet h
  | exit => exact keeps_execExit h
  | yield => exact keeps_execYield h
  | launch => exact keeps_execLaunch h
  | join => exact keeps_execJoin h
  | trap | trapS => exact keeps_trapOp h
  | brk => exact keeps_execBrk h
  | tret => exact keeps_execTret h
  | srd => exact keeps_execSrd h
  | srdLaneid => exact keeps_execSrdLaneid h
  | swr => exact keeps_execSwr h
  | skey => exact keeps_execSkey h
  | tlbinv => exact keeps_execTlbinv h
  | vacate => exact keeps_execVacate h
  | haltwg => exact keeps_execHaltwg h

/-- The state that a fetch hands on, to an instruction or as the step's own result. -/
def Fetched.state : Fetched → State
  | .run _ t => t
  | .took t => t

theorem kept_fetchInstr {c n} (h : memoriesWf s) : memoriesWf (s.fetchInstr c n).state := by
  unfold State.fetchInstr
  dsimp only
  split
  · exact kept_fetchTrap h
  · split
    · exact kept_fetchTrap h
    · split
      · exact h
      · split
        · exact h
        · split
          · exact h
          · split
            · exact kept_stall h
            · split
              · exact kept_raiseEarly h
              · split
                · exact kept_deliverWound h
                · exact kept_ite h (kept_splitStitch h)

theorem kept_fetchNext (h : memoriesWf s) : memoriesWf s.fetchNext.state := by
  have held : memoriesWf (s.holdCode s.cw.pc) := kept_holdCode h
  unfold State.fetchNext
  split
  · exact kept_fetchInstr (kept_holdInstr h)
  · dsimp only
    split
    · exact kept_fetchTrap held
    · split
      · exact held
      · exact kept_fetchInstr (kept_holdInstr (kept_setCw held))

theorem kept_prepare (h : memoriesWf s) : memoriesWf s.prepare.state := by
  have ready : memoriesWf s.noteReady.noteWide := kept_noteWide (kept_noteReady h)
  have turned : memoriesWf { s.noteReady.noteWide with
      turn := Config.nextTurn s.noteReady.noteWide.tick, tick := s.noteReady.noteWide.tick + 1 } := ready
  unfold State.prepare
  generalize s.noteReady.noteWide = n at ready
  dsimp only
  cases n.pick with
  | welt i => exact kept_fetchNext (kept_choose ready)
  | event k =>
    dsimp only
    split <;> exact ready
  | input =>
    dsimp only
    split <;> exact ready
  | clock => exact ready
  | reveal k => exact kept_reveal ready
  | resume i => exact kept_resume ready
  | stitch is => exact ready
  | dropCode i k => exact ready
  | dropTlb k => exact ready
  | rebound g k => exact kept_endRebind ready

end

/-- Settles O57: every function of the model that makes a state keeps its memories in canonical form, and so does every
meaning that `exec` dispatches to and every move that `prepare` makes ready. -/
theorem stepKeepsMemories : Obligations.StepKeepsMemories := by
  unfold Obligations.StepKeepsMemories
  intro s t h stepped
  have prepared := kept_prepare h
  unfold step at stepped
  split at stepped
  next made =>
    rw [made] at prepared
    exact exec_keeps prepared t stepped
  next made =>
    rw [made] at prepared
    exact Host.Outcome.next.inj stepped ▸ prepared

end Sys2Proof.Machine

namespace Sys2Proof.Machine

/-! ### A combination of which a mapped stash block is told (O25) -/

section

open Safety Claims

-- The kernel evaluates one closed fact after another, which keeps few threads.
set_option Elab.async false

/-- The combination of the outstanding partial writes the block that is mapped onto its line, of which a welt of the gang
is told. -/
theorem combiningState_combination : ((combiningState.combine fun p => combiningState.looseLaunch p &&
    (combiningState.launchAt p.launch).ctx == 0 && p.line == 0).weltAt 1).unfenced.length = 1 := by decide +kernel

end

/-- Refutes O25: a combination writes the home's line (R238), and where a stash block is mapped onto it every welt of the
gang needs an operand-ready fence for that write (R181, R234), so a combination does not leave every welt as it was. -/
theorem not_commutativeRanges : ¬ Obligations.CommutativeRanges := by
  unfold Obligations.CommutativeRanges
  rintro ⟨-, -, combines⟩
  obtain ⟨u, run, welts, -⟩ := combines combiningState 0 0
  obtain rfl := Host.Outcome.next.inj run
  have told := combiningState_combination
  rw [State.weltAt, welts] at told
  exact absurd (combiningState_tells.1.symm.trans told) (by decide)

end Sys2Proof.Machine

namespace Sys2Proof.Machine

/-! ### The order in which the operations of an instruction are carried out (R240) -/

section

open Safety Claims

-- The kernel evaluates one closed fact after another, which keeps few threads.
set_option Elab.async false

theorem nodup_eraseDups {α : Type} [BEq α] [LawfulBEq α] : ∀ l : List α, l.eraseDups.Nodup
  | [] => by simp
  | a :: l => by
    rw [List.eraseDups_cons]
    refine List.nodup_cons.2 ⟨fun h => ?_, nodup_eraseDups _⟩
    simpa using List.mem_eraseDups.1 h
termination_by l => l.length
decreasing_by exact Nat.lt_succ_of_le (List.length_filter_le ..)

/-- Whatever the order of the lanes, each operation is carried out once. -/
theorem orderOps_perm (order : List (Fin 32)) {ops : List AtomOp} (h : ops.Nodup) : (orderOps order ops).Perm ops := by
  have known {o : AtomOp} : o ∈ (order.filterMap fun i => ops.find? fun o => o.lane == i.val) → o ∈ ops := fun hm => by
    obtain ⟨i, -, hi⟩ := List.mem_filterMap.1 hm
    exact List.mem_of_find?_eq_some hi
  unfold orderOps
  dsimp only
  generalize order.filterMap _ = first at known
  refine (List.perm_ext_iff_of_nodup ((nodup_eraseDups _).append (h.filter _) fun o ho hl => ?_) h).2 fun o => ?_
  · have := (List.mem_filter.1 hl).2
    simp [List.mem_eraseDups.1 ho] at this
  · rw [List.mem_append, List.mem_eraseDups, List.mem_filter]
    by_cases hf : o ∈ first <;> simp [hf, known]

theorem orderOps_singleton (order : List (Fin 32)) (o : AtomOp) : orderOps order [o] = [o] :=
  List.perm_singleton.1 (orderOps_perm order (List.nodup_singleton o))

/-! ### A far atomic of a type that its operation does not have (O23) -/

/-- A bitwise AND of FP32 words, which no instruction asks for (R282). -/
def floatAnd : AtomOp := ⟨0, (List.range 4).map .dev, 3, .f32, 1, 0, none⟩

/-- The AND in flight, where memory is zero. -/
def floatAndState : State := { State.reset with
  ctxs := [Ctx.init]
  launches := [Launch.init]
  wgs := [Wg.init]
  welts := [{ Welt.init with flights := [⟨0, 0, .atom [floatAnd]⟩], nextFlight := 1 }] }

theorem wholeOps_floatAnd : wholeOps floatAndState [floatAnd] := by
  refine ⟨fun o ho => ?_, List.pairwise_singleton ..⟩
  obtain rfl := List.mem_singleton.1 ho
  refine ⟨by decide, by decide, fun a ha => ?_⟩
  obtain ⟨k, -, rfl⟩ := List.mem_map.1 ha
  exact ⟨.inl ⟨k, rfl⟩, rfl⟩

theorem exec_farAtomic_floatAnd : exec (.farAtomic 0 0) floatAndState =
    .next (((((floatAndState.doAtom 0 false floatAnd).1.weltFlags 0
      ((floatAndState.doAtom 0 false floatAnd).2.2 ||| 0)).dropFlight 0 0)).settleTxn 0) := by
  have ordered := orderOps_singleton (Config.atomicOrder floatAndState.tick) floatAnd
  have flies : (floatAndState.weltAt 0).flights.find? (fun f => f.num == 0) = some ⟨0, 0, .atom [floatAnd]⟩ := rfl
  simp only [exec_farAtomic, execFarAtomic, flies, ordered]
  rfl

/-- The engine stores the AND of the two words, where the statement has it store the operand. -/
theorem floatAnd_stored : (((((floatAndState.doAtom 0 false floatAnd).1.weltFlags 0
      ((floatAndState.doAtom 0 false floatAnd).2.2 ||| 0)).dropFlight 0 0)).settleTxn 0).getByte (.dev 0) = 0 ∧
    afterOp floatAndState.getByte floatAnd (.dev 0) = 1 := by decide +kernel

end

/-- Refutes O23: the statement does not ask that an operation in flight has a type of its instruction, and of FP32 words the
engine stores the AND where the statement has it store the operand. -/
theorem not_farAtomicsCarryOut : ¬ Obligations.FarAtomicsCarryOut := by
  unfold Obligations.FarAtomicsCarryOut
  intro carries
  obtain ⟨u, os, run, perm, ⟨applied, -⟩, -⟩ := carries floatAndState 0 0 0 [floatAnd] (by decide) (by decide)
    (by unfold Safety.memoriesWf; decide) (by unfold Claims.noPartials; decide) wholeOps_floatAnd rfl
  obtain rfl := List.perm_singleton.1 perm
  obtain rfl := Host.Outcome.next.inj (exec_farAtomic_floatAnd.symm.trans run)
  obtain ⟨stored, asked⟩ := floatAnd_stored
  have both := (applied floatAnd (List.mem_singleton_self _) (.dev 0) (by decide)).trans asked
  exact absurd (stored.symm.trans both) (by decide)

end Sys2Proof.Machine

namespace Sys2Proof.Machine

/-! ### A flush of a block whose range the tables map no longer (O21) -/

section

open Safety Claims

-- The kernel evaluates one closed fact after another, which keeps few threads.
set_option Elab.async false

/-- A welt whose first block is bound to a range that no table maps any more, with a dirty line in it from before. -/
def strandedState : State := { State.reset with
  ctxs := [Ctx.init]
  launches := [Launch.init]
  wgs := [{ Wg.init with blocks := Wg.init.blocks.set 0 0xC000000000000000 }]
  welts := [startedWelt]
  cached := [⟨0, (0, 0, 0), some (0, 0), true, true⟩] }

theorem strandedState_issues : strandedState.issues strandedState.cw.A (({} : Deps).wsrc false 0) 0 = true := by
  decide +kernel

/-- The line is in no block that is bound to its range, so the flush ends at once and the line stays dirty. -/
theorem strandedState_stays : strandedState.blockDirty 0 0 = [] ∧ (match exec (.stflush 0 false) strandedState with
    | .next u => u.cached
    | _ => []) = [⟨0, (0, 0, 0), some (0, 0), true, true⟩] := by decide +kernel

end

/-- Refutes O21: STFLUSH writes back the lines of a block that lie in the range that the tables map for it, and where they
map none any more a dirty line of the block stays dirty. -/
theorem not_stashBlocks : ¬ Obligations.StashBlocks := by
  unfold Obligations.StashBlocks
  intro blocks
  obtain ⟨-, flushes⟩ := blocks strandedState 0 0 false (by unfold Safety.issuing; decide)
    (by unfold Safety.memoriesWf; decide) (by decide)
  obtain ⟨each, -⟩ := flushes strandedState_issues ⟨by decide, by decide⟩
  obtain ⟨clean, stays⟩ := strandedState_stays
  obtain ⟨now, -⟩ := each _ (List.mem_cons_of_mem _ (List.mem_singleton_self _)) fun _ => by decide
  obtain ⟨u, run, -, flushed⟩ := now (fun r hr => absurd hr List.not_mem_nil)
    (fun ⟨f, hf, _⟩ => absurd hf List.not_mem_nil) clean
  obtain ⟨-, -, cleaned⟩ := flushed
  have ran : exec (.stflush 0 false) strandedState = .next u := run
  rw [ran] at stays
  have kept : u.cached = [⟨0, (0, 0, 0), some (0, 0), true, true⟩] := stays
  have dirty := cleaned ⟨0, (0, 0, 0), some (0, 0), true, true⟩ (by rw [kept]; exact List.mem_singleton_self _) rfl
  cases dirty

end Sys2Proof.Machine

namespace Sys2Proof.Machine

/-! ### A write of the host where a copy writes unobserved (O55) -/

section

open Safety Claims

-- The kernel evaluates one closed fact after another, which keeps few threads.
set_option Elab.async false

/-- A copy into a mapped block, bound to the first bytes of device memory, whose completion nobody has observed; the first
page of the context is mapped to them for loads and stores. -/
def copyingState : State := { State.reset with
  ctxs := [Ctx.init]
  launches := [Launch.init]
  tlb2 := [⟨0, 0, 0, 2 ^ 21, 0x8C00000000000000, false⟩]
  wgs := [Wg.init]
  welts := [Welt.init]
  copies := [⟨0, 0, 0, 0, ⟨0, 0, 0⟩, [], 128, 0, none, none, none, none, 0, 0, [], 0, 0, 0, none, [(0, 128)], [], true, false⟩] }

/-- What the host asks for. -/
def hostWrites (b : Byte) : Instr := .hostDataWrite 0 0 [b]

theorem copyingState_translates :
    ((List.range 1).mapM fun i => copyingState.translate none 0 0 .store (0 + BitVec.ofNat 64 i)) = .ok [.dev 0] := by
  decide +kernel

/-- Whatever the host writes there, the byte stays undefined, and the same. -/
theorem copyingState_hides : [0, 1].all (fun b => match exec (hostWrites b) copyingState with
    | .next u => u.unobservedDev 0 && u.tick == 0
    | _ => false) = true := by decide +kernel

theorem getByte_hostWrites {b : Byte} (hb : b ∈ [0, 1]) {u : State}
    (run : exec (hostWrites b) copyingState = .next u) : u.getByte (.dev 0) = Config.undefByte 0 0 := by
  have hides := List.all_eq_true.1 copyingState_hides b hb
  rw [run] at hides
  obtain ⟨hidden, tick⟩ := Bool.and_eq_true_iff.1 hides
  simp only [State.getByte, hidden, if_true, State.undefByte, eq_of_beq tick]
  rfl

end

/-- Refutes O55: a byte that a copy writes unobserved (R291) stays undefined when the host writes it, so it cannot read as
what the host wrote whatever that is. -/
theorem not_deviceEvents : ¬ Obligations.DeviceEvents := by
  unfold Obligations.DeviceEvents
  rintro ⟨-, management⟩
  obtain ⟨-, -, -, -, -, -, -, -, -, -, -, -, data, -⟩ := management copyingState
  have reads (b : Byte) (hb : b ∈ [0, 1]) : b = Config.undefByte 0 0 := by
    obtain ⟨write, -⟩ := data 0 0 0 [b] [.dev 0] (by unfold Claims.noPartials; decide)
    obtain ⟨u, run, -, holds, -⟩ := write (by unfold Safety.memoriesWf; decide) copyingState_translates (by decide)
      (fun l hl => by obtain rfl := List.mem_singleton.1 hl; exact id)
    exact ((holds 0 (by decide)).1).symm.trans (getByte_hostWrites hb run)
  exact absurd ((reads 0 (by decide)).trans (reads 1 (by decide)).symm) (by decide)

end Sys2Proof.Machine

namespace Sys2Proof.Machine

/-! ### A buffered entry of a type that its operation does not have (O36) -/

section

open Safety Claims

-- The kernel evaluates one closed fact after another, which keeps few threads.
set_option Elab.async false

/-- A bitwise AND of FP32 words among the entries of a pool, which no instruction records (R284), and its locations. -/
def andEntry : DetEntry := ⟨0, 0, 0, 3, 0, 0, 0x80, ⟨3, [], 3, .f32, 1, 0, none⟩⟩

def andLocs : List Loc := [.dev 0x80, .dev 0x81, .dev 0x82, .dev 0x83]

/-- The phaser of device scope whose one member has not signalled yet, and the welt that is this member. -/
def andPhaser : Phaser := ⟨6, 0, 0, 6, 0, 0, 0, [(0, 3, false, 0)], 0, none, []⟩

/-- Both, where the tables map the first page and memory is zero. -/
def andState : State := { State.reset with
  ctxs := [Ctx.init]
  launches := [Launch.init]
  tlb2 := [⟨0, 0, 0, 2 ^ 21, 0x8C00000000000000, false⟩]
  wgs := [Wg.init]
  welts := [{ startedWelt with w := startedWelt.w.set 6 6 }]
  phasers := [andPhaser]
  pooled := [andEntry] }

theorem not_waiting_of {p : Phaser} (pending : p.pending = 0) (signaller : ∃ m ∈ p.members, m.2.1 = 1 ∨ m.2.1 = 3)
    (signalled : ∀ m ∈ p.members, (m.2.1 = 1 ∨ m.2.1 = 3) → m.2.2.1 = true) : ¬waiting p := by
  rintro (more | none | ⟨m, hm, mode, late⟩)
  · exact more pending
  · obtain ⟨m, hm, mode⟩ := signaller
    obtain ⟨one, three⟩ := none m hm
    exact mode.elim one three
  · rw [signalled m hm mode] at late
    cases late

theorem andState_together : together andState := by
  unfold Claims.together Claims.converged
  decide +kernel

theorem andState_issues :
    andState.issues andState.cw.A ((({} : Deps).wsrc true 6).wdst 63) 0 = true := by decide +kernel

theorem andState_translates : andState.translateN none (andState.launchAt andEntry.launch).ctx andEntry.level .both
    (BitVec.ofNat 64 andEntry.addr) andEntry.op.ty.bytes = .ok andLocs := by decide +kernel

theorem andState_advances : ¬waiting (andPhaser.setMember 0 true 0) :=
  not_waiting_of rfl ⟨_, List.mem_singleton_self _, .inr rfl⟩ (by decide)

theorem wholeOps_andEntry : wholeOps andState [{ andEntry.op with locs := andLocs }] := by
  refine ⟨fun o ho => ?_, List.pairwise_singleton ..⟩
  obtain rfl := List.mem_singleton.1 ho
  refine ⟨by decide, by decide, fun a ha => ?_⟩
  simp only [andLocs, List.mem_cons, List.not_mem_nil, or_false] at ha
  rcases ha with rfl | rfl | rfl | rfl <;> exact ⟨.inl ⟨_, rfl⟩, rfl⟩

/-- The first byte of the entry's word after a step. -/
def byteAfter : Result → BitVec 8
  | .next u => u.getByte (.dev 0x80)
  | _ => 1

/-- The advance stores the AND of the two words. -/
theorem andEntry_stored : byteAfter (exec (.phsig 63 6 true) andState) = 0 := by decide +kernel

/-- The statement has it store the operand. -/
theorem andEntry_asked : afterOp andState.getByte { andEntry.op with locs := andLocs } (.dev 0x80) = 1 := by
  decide +kernel

end

/-- Refutes O36: the statement does not ask that a buffered operation has a type of its instruction, and of FP32 words the
advance of a device-scope phaser stores the AND where the statement has it store the operand. -/
theorem not_phaserArrivals : ¬ Obligations.PhaserArrivals := by
  unfold Obligations.PhaserArrivals
  rintro ⟨arrives, -⟩
  obtain ⟨-, signals, -⟩ := arrives andState 63 6 true 0 andPhaser 3 false 0 (by unfold Safety.issuing; decide)
    andState_together (by decide) andState_issues (by decide) (by decide) (by decide)
  obtain ⟨u, run, -, -, -, device⟩ := signals (.inr rfl) rfl andState_advances
  obtain ⟨-, applied⟩ := device rfl
  obtain ⟨carried, -⟩ := applied andEntry andLocs (by unfold Claims.noPartials; decide) rfl (by decide +kernel)
    (by decide) (by decide) (by unfold Safety.memoriesWf; decide) wholeOps_andEntry
    (fun a ha => by
      simp only [andLocs, List.mem_cons, List.not_mem_nil, or_false] at ha
      rcases ha with rfl | rfl | rfl | rfl <;> exact ⟨_, rfl⟩)
    andState_translates
  have stored : byteAfter (.next u) = 0 := (congrArg byteAfter run).symm.trans andEntry_stored
  have asked := (carried _ (List.mem_singleton_self _) (.dev 0x80) (by decide)).trans andEntry_asked
  exact absurd (stored.symm.trans asked) (by decide)

end Sys2Proof.Machine

/-!
Atomics that are ready, and those that are buffered (R241, R269, R281, R282, R284): the operations of an instruction, its
entries in the buffer, and O24.
-/

namespace Sys2Proof.Machine

section

open Safety Claims

/-! ### The operations of an atomic (R281, R282) -/

section
variable {s : State} {e : Lanes} {ty : Ty} {A : Nat → W64}

/-- The accesses of the lanes of `e`, one for each. -/
def State.atomAccesses (s : State) (e : Lanes) (ty : Ty) (A : Nat → W64) : List Access :=
  accessesOf e 1 (fun l _ => A l) fun a => s.consume (s.dataXlate .both ty.bytes a)

theorem mem_atomAccesses {a : Access} : a ∈ s.atomAccesses e ty A ↔
    ∃ l < 32, e.getLsbD l ∧ ⟨l, 0, A l, some (A l), s.consume (s.dataXlate .both ty.bytes (A l))⟩ = a := by
  simp only [State.atomAccesses, mem_accessesOf, Nat.lt_one_iff, exists_eq_left]

theorem atomAccesses_ne_nil (h : e ≠ 0) : s.atomAccesses e ty A ≠ [] := by
  obtain ⟨l, hl, he⟩ := (lanes_ne_zero_iff e).1 h
  exact List.ne_nil_of_mem (mem_atomAccesses.2 ⟨l, hl, he, rfl⟩)

theorem performs_of_atomicsReady (h : atomicsReady s e ty A) :
    s.Performs true true ty.bytes (s.atomAccesses e ty A) := by
  obtain ⟨-, -, ready⟩ := h
  refine ⟨fun a ha v hv => ?_, fun a ha => ?_, fun a ha ls hls => ?_, fun a ha ls hls => ?_⟩ <;>
    obtain ⟨l, hl, he, rfl⟩ := mem_atomAccesses.1 ha <;>
    obtain ⟨-, unwatched, ls', ok, flying, ratio⟩ := ready l hl he
  · rwa [← Option.some.inj hv]
  · exact ⟨ls', ok⟩
  · rwa [Except.ok.inj (hls.symm.trans ok)]
  · rwa [Except.ok.inj (hls.symm.trans ok)]

/-- Translations entered do not bear on whether accesses are performed. -/
theorem State.Performs.fillTlbs {load store : Bool} {size : Nat} {as : List Access}
    (h : s.Performs load store size as) (bs : List Access) : (s.fillTlbs bs).Performs load store size as := by
  obtain ⟨tlb, tlb2, uses, filled⟩ := fillTlbs_eq s bs
  rw [filled]
  exact ⟨h.watch, h.locs, h.flying, h.ratio⟩

theorem mem_operations {op : Nat} {d c : VReg} {rt : Bool} {o : AtomOp} : o ∈ operations s e op ty d c rt A ↔
    ∃ l < 32, e.getLsbD l ∧ ∃ ls, s.consume (s.dataXlate .both ty.bytes (A l)) = .ok ls ∧
      s.atomOf op ty d c rt l ls = o := by
  simp only [operations, List.mem_filterMap, List.mem_filter, List.mem_range, and_assoc]
  refine exists_congr fun l => and_congr_right fun _ => and_congr_right fun _ => ?_
  cases s.consume (s.dataXlate .both ty.bytes (A l)) <;> simp [State.atomOf]

/-- Each lane asks for one operation at most. -/
theorem operations_apart (op : Nat) (d c : VReg) (rt : Bool) :
    (operations s e op ty d c rt A).Pairwise fun o o' => o.lane ≠ o'.lane := by
  refine List.Pairwise.filterMap _ (R := (· ≠ ·)) (fun l l' apart o ho o' ho' => ?_)
    ((List.nodup_range.filter _) : ((List.range 32).filter fun l => e.getLsbD l).Nodup)
  have lane {k : Nat} {o : AtomOp} (h : (match s.consume (s.dataXlate .both ty.bytes (A k)) with
      | .ok ls => some (s.atomOf op ty d c rt k ls)
      | .error _ => none) = some o) : o.lane = k := by
    split at h
    · rw [← Option.some.inj h]; rfl
    · cases h
  rwa [lane ho, lane ho']

/-- The operations that ATOM reads off its accesses. -/
def State.opsOf (s : State) (op : Nat) (ty : Ty) (d c : VReg) (rt : Bool) (as : List Access) : List AtomOp :=
  as.filterMap fun a => match a.locs with
    | .ok ls => some (s.atomOf op ty d c rt a.lane ls)
    | .error _ => none

/-- They are those that its lanes ask for. -/
theorem opsOf_atomAccesses (op : Nat) (d c : VReg) (rt : Bool) :
    s.opsOf op ty d c rt (s.atomAccesses e ty A) = operations s e op ty d c rt A := by
  have one : s.atomAccesses e ty A = (Lanes.nats e).map fun l =>
      ⟨l, 0, A l, some (A l), s.consume (s.dataXlate .both ty.bytes (A l))⟩ :=
    (List.flatMap_congr fun _ _ => rfl).trans (List.flatMap_pure_eq_map _ _)
  rw [one, State.opsOf, List.filterMap_map]
  rfl

theorem operations_ne_nil (h : atomicsReady s e ty A) (op : Nat) (d c : VReg) (rt : Bool) :
    operations s e op ty d c rt A ≠ [] := by
  obtain ⟨-, some_lane, ready⟩ := h
  obtain ⟨l, hl, he⟩ := (lanes_ne_zero_iff e).1 some_lane
  obtain ⟨-, -, ls, ok, -⟩ := ready l hl he
  exact List.ne_nil_of_mem (mem_operations.2 ⟨l, hl, he, ls, ok, rfl⟩)

end

/-- With no replay every lane of E is still to be done. -/
theorem todo_of_no_replay {s : State} {p : BitVec 2} (h : s.cw.replay = none) : s.todo p = s.E p := by
  have word : s.cw.restartWord = 0 := by rw [Welt.restartWord, h]
  rw [State.todo, Welt.replayLanes, word]
  exact BitVec.and_allOnes

/-- ATOM or ATOMD of lanes that may all perform it enters their translations; then it records its operations, where they are
buffered, or starts them. -/
theorem atomic_ready {s : State} {op : Nat} {buffered : Bool} {d i c : VReg} {w : WReg} {f p : BitVec 2} {t tc rt : Bool}
    {ty : Ty} {disp : BitVec 13} {A : Nat → W64} {r : Result} (addr : A = fun l => s.elemAddr w i f ty.bytes disp l 0)
    (ready : atomicsReady s (s.E p) ty A)
    (issues : s.issues (s.E p) (
      let src := (memDeps {} t w i.toNat f 1).src tc (regsOf ty c.toNat)
      let src := if op = 7 then src.src t (regsOf ty d.toNat) else src
      if rt then src.dst (regsOf ty d.toNat) else src) 0 = true)
    (ordered : (buffered || s.cl.det) = false → s.cl.walker = true → op ≠ 6 ∧ op ≠ 7)
    (records : (buffered || s.cl.det) = true →
      ∃ u, (s.fillTlbs (s.atomAccesses (s.E p) ty A)).recordAtoms (operations s (s.E p) op ty d c rt A) A = some u ∧
        .next (u.retire u.cw 2) = r)
    (starts : (buffered || s.cl.det) = false →
      (s.fillTlbs (s.atomAccesses (s.E p) ty A)).runAtoms 2 (operations s (s.E p) op ty d c rt A) A = r) :
    s.atomic op buffered d w i f t p c tc ty rt disp = r := by
  subst addr
  let A := fun l => s.elemAddr w i f ty.bytes disp l 0
  have lanes : (if rt then s.todo p else s.E p) = s.E p := by rw [todo_of_no_replay ready.1, ite_self]
  have performs := performs_of_atomicsReady ready
  have aligned : (s.E p &&& Lanes.ofPred fun l => (A l).toNat % ty.bytes != 0) = 0 := by
    refine (lanes_eq_zero_iff _).2 fun l hl => ?_
    rw [BitVec.getLsbD_and, ofPred_getLsbD _ _ hl]
    cases he : (s.E p).getLsbD l
    · rfl
    · simp [A, (ready.2.2 l hl he).1]
  have unordered : (s.cl.walker && !(buffered || s.cl.det) && (op == 6 || op == 7) && s.E p != 0) = false := by
    cases hb : buffered || s.cl.det
    · cases hw : s.cl.walker
      · rfl
      · obtain ⟨exch, cas⟩ := ordered hb hw
        simp [exch, cas]
    · simp
  have some_op : (operations s (s.E p) op ty d c rt A).isEmpty = false := by
    rw [List.isEmpty_eq_false_iff]
    exact operations_ne_nil ready _ _ _ _
  unfold State.atomic
  dsimp only
  simp only [lanes]
  rw [issue_go _ _ _ _ _ issues, unordered, if_neg (by decide), if_neg (not_not.2 aligned)]
  change (if s.watchLanes true true ty.bytes (s.atomAccesses (s.E p) ty A) ≠ 0 then _ else _) = _
  rw [if_neg (not_not.2 performs.watchLanes)]
  change State.inOrder (s.fillTlbs (s.atomAccesses (s.E p) ty A)) (accessLocs (s.atomAccesses (s.E p) ty A)) _ = _
  rw [(performs.fillTlbs _).inOrder]
  change (match firstFault (s.atomAccesses (s.E p) ty A) with | none => _ | some _ => _) = _
  rw [performs.firstFault]
  dsimp only
  generalize asked : List.filterMap _ (accessesOf (s.E p) 1 _ _) = ops
  obtain rfl : ops = operations s (s.E p) op ty d c rt A := asked.symm.trans (opsOf_atomAccesses ..)
  rw [some_op, if_neg Bool.false_ne_true]
  by_cases hb : (buffered || s.cl.det) = true
  · obtain ⟨u, recorded, rfl⟩ := records hb
    rw [if_pos hb]
    generalize now : State.recordAtoms _ _ _ = x
    obtain rfl : x = some u := now.symm.trans recorded
    rfl
  · rw [if_neg hb]
    exact starts (Bool.eq_false_iff.2 hb)

/-! ### The forms of ATOM (R282) -/

/-- The forms of ATOM, each with the code of its operation and whether it returns the old value. -/
def atomForm (d i c : VReg) (w : WReg) (f p : BitVec 2) (t tc rt : Bool) (ty : Ty) (disp : BitVec 13)
    (form : Instr × Nat × Bool) : Prop :=
  form ∈ ([(.atomAdd d w i f t p c tc ty rt disp, 0, rt), (.atomMin d w i f t p c tc ty rt disp, 1, rt),
    (.atomMax d w i f t p c tc ty rt disp, 2, rt), (.atomAnd d w i f t p c tc ty rt disp, 3, rt),
    (.atomOr d w i f t p c tc ty rt disp, 4, rt), (.atomXor d w i f t p c tc ty rt disp, 5, rt),
    (.atomExch d w i f t p c tc ty rt disp, 6, rt), (.atomCas d w i f t p c tc ty disp, 7, true),
    (.atomIncwrap d w i f t p c tc ty rt disp, 8, rt)] : List (Instr × Nat × Bool))

/-- The types that an operation is for: numbers for sums and extrema, raw words for logic and exchanges, naturals of a word or a
pair for a wrapped increment (R282). -/
def opFits (op : Nat) (ty : Ty) : Bool :=
  if op ≤ 2 then ty.isFoldNumber else if op ≤ 7 then ty.isRaw else op == 8 && ty.isNat3264

section
variable {d i c : VReg} {w : WReg} {f p : BitVec 2} {t tc rt : Bool} {ty : Ty} {disp : BitVec 13} {ins : Instr} {op : Nat}
  {ret : Bool}

theorem exec_atomForm (h : atomForm d i c w f p t tc rt ty disp (ins, op, ret)) (s : State) :
    exec ins s = s.atomic op false d w i f t p c tc ty ret disp := by
  simp only [atomForm, List.mem_cons, List.not_mem_nil, or_false, Prod.mk.injEq] at h
  obtain ⟨rfl, rfl, rfl⟩ | ⟨rfl, rfl, rfl⟩ | ⟨rfl, rfl, rfl⟩ | ⟨rfl, rfl, rfl⟩ | ⟨rfl, rfl, rfl⟩ | ⟨rfl, rfl, rfl⟩ |
    ⟨rfl, rfl, rfl⟩ | ⟨rfl, rfl, rfl⟩ | ⟨rfl, rfl, rfl⟩ := h <;> rfl

/-- A form that is well-formed has a type for its operation, and an even destination for a pair. -/
theorem wellFormed_atomForm (h : atomForm d i c w f p t tc rt ty disp (ins, op, ret)) (wf : ins.wellFormed = true) :
    opFits op ty = true ∧ (ret = true → ty.evenOk d = true) := by
  have dest {x : Bool} (g : (if x = true then ty.evenOk d else d == 0) = true) (hx : x = true) : ty.evenOk d = true :=
    (if_pos hx).symm.trans g
  simp only [atomForm, List.mem_cons, List.not_mem_nil, or_false, Prod.mk.injEq] at h
  obtain ⟨rfl, rfl, rfl⟩ | ⟨rfl, rfl, rfl⟩ | ⟨rfl, rfl, rfl⟩ | ⟨rfl, rfl, rfl⟩ | ⟨rfl, rfl, rfl⟩ | ⟨rfl, rfl, rfl⟩ |
    ⟨rfl, rfl, rfl⟩ | ⟨rfl, rfl, rfl⟩ | ⟨rfl, rfl, rfl⟩ := h <;>
    simp only [Instr.wellFormed, Bool.and_eq_true] at wf
  case inr.inr.inr.inr.inr.inr.inr.inl =>
    obtain ⟨⟨⟨-, raw⟩, even⟩, -⟩ := wf
    exact ⟨raw, fun _ => even⟩
  all_goals
    obtain ⟨⟨⟨-, fits⟩, -⟩, even⟩ := wf
    exact ⟨fits, dest even⟩

end

/-! ### An instruction that has changed its state before it retires -/

/-- Before its welt retires an instruction has written the registers `rs` of the lanes of `e` and the sticky flags `fl`, and of
what else its own welt is it has changed notes of accesses, the marks of streams and what it waits for alone; the registers of
every other welt are as they were. -/
structure Prepared (s t : State) (e : Lanes) (rs : List Nat) (fl : FlagBits) : Prop where
  cur : t.cur = s.cur
  legacy : t.legacy = s.legacy
  own : { t.cw with
    lanes := s.cw.lanes, fpctl := s.cw.fpctl, observed := s.cw.observed, unfenced := s.cw.unfenced
    streams := s.cw.streams, wait := s.cw.wait } = s.cw
  lanes : ∀ i < 32, { t.cw.lane i with v := (s.cw.lane i).v, full := (s.cw.lane i).full, bad := (s.cw.lane i).bad } =
    s.cw.lane i
  kept : ∀ i < 32, ∀ r < 128, (e.getLsbD i → r ∉ rs) → sameReg (t.cw.lane i) (s.cw.lane i) r
  flags : t.cw.fpctl = s.cw.fpctl ||| fl.setWidth 32
  others : ∀ i, i ≠ s.cur → sameRegisters (s.weltAt i) (t.weltAt i)

/-- The same lanes issue. -/
theorem Prepared.issue {s t : State} {e : Lanes} {rs : List Nat} {fl : FlagBits} (p : Prepared s t e rs fl) :
    t.cw.A = s.cw.A := by
  have serial : t.cw.serial = s.cw.serial := (congrArg Welt.serial p.own :)
  have live := live_of_keys serial (fun i hi => (congrArg Lane.x (p.lanes i hi) :)) fun i hi =>
    (congrArg Lane.h (p.lanes i hi) :)
  exact (leader_of_keys live fun i hi => (congrArg Lane.key (p.lanes i hi) :)).2

theorem Prepared.reaching {s t u : State} {e : Lanes} {rs : List Nat} {fl : FlagBits} {len : Nat}
    (p : Prepared s t e rs fl) (h : Reaching t u len e rs [] [] 0) : Reaching s u len e rs [] [] fl := by
  have own := p.own
  have uniform : t.cw.w = s.cw.w ∧ t.cw.wfull = s.cw.wfull ∧ t.cw.wbad = s.cw.wbad :=
    ⟨(congrArg Welt.w own :), (congrArg Welt.wfull own :), (congrArg Welt.wbad own :)⟩
  have m : t.cw.m = s.cw.m := (congrArg Welt.m own :)
  have special : t.cw.handles = s.cw.handles ∧ t.cw.nanrec = s.cw.nanrec ∧ t.cw.skivestat = s.cw.skivestat ∧
      t.cw.level = s.cw.level :=
    ⟨(congrArg Welt.handles own :), (congrArg Welt.nanrec own :), (congrArg Welt.skivestat own :),
      (congrArg Welt.level own :)⟩
  have traps : t.cw.traps = s.cw.traps ∧ t.cw.halt = s.cw.halt ∧ t.cw.replay = s.cw.replay :=
    ⟨(congrArg Welt.traps own :), (congrArg Welt.halt own :), (congrArg Welt.replay own :)⟩
  refine ⟨⟨fun i hi => ?_, fun i hi => ?_, fun i hi r hr g => ?_⟩, fun r hr g => ?_, fun r hr g => ?_, ?_, ?_,
    fun h0 h1 => ?_, fun i hi => ?_⟩
  · have pc : (t.cw.lane i).pc = (s.cw.lane i).pc := (congrArg Lane.pc (p.lanes i hi) :)
    rw [h.lanes.pc i hi, p.issue, pc]
  · obtain ⟨depth, x, hold, seg⟩ := h.lanes.key i hi
    exact ⟨depth.trans (congrArg Lane.depth (p.lanes i hi) :), x.trans (congrArg Lane.x (p.lanes i hi) :),
      hold.trans (congrArg Lane.h (p.lanes i hi) :), seg.trans (congrArg Lane.seg (p.lanes i hi) :)⟩
  · exact sameReg_trans (h.lanes.kept i hi r hr g) (p.kept i hi r hr g)
  · obtain ⟨w, wfull, wbad⟩ := uniform
    exact sameUniform_trans (h.uniform r hr g) ⟨by rw [Welt.rdW, Welt.rdW, w], by rw [Welt.fullW, Welt.fullW, wfull],
      by rw [wbad]⟩
  · have masks := h.masks r hr g
    rw [p.legacy] at masks
    exact masks.trans (mask_of_m _ r m)
  · have flags := h.flags
    rw [p.flags] at flags
    exact flags.trans (BitVec.or_zero)
  · obtain ⟨handles, nanrec, skivestat, level⟩ := h.special
    exact ⟨handles.trans special.1, nanrec.trans special.2.1, skivestat.trans special.2.2.1, level.trans special.2.2.2⟩
  · obtain ⟨same, halt, replay⟩ := traps
    exact (h.traps (halt.trans h0) (replay.trans h1)).trans same
  · have first := p.others i hi
    have second := h.others i (p.cur ▸ hi)
    obtain ⟨a1, a2, a3, a4, a5, a6, a7, a8, a9, a10, a11, a12⟩ := first
    obtain ⟨b1, b2, b3, b4, b5, b6, b7, b8, b9, b10, b11, b12⟩ := second
    exact ⟨b1.trans a1, b2.trans a2, b3.trans a3, b4.trans a4, b5.trans a5, b6.trans a6, b7.trans a7, b8.trans a8,
      b9.trans a9, b10.trans a10, b11.trans a11, b12.trans a12⟩

/-- A welt that retires stays in its workgroup, and the workgroup is as it was. -/
theorem cg_retire {s : State} (w : Welt) (len : Nat) (h : issuing s) (hw : w.wg = s.cw.wg) :
    (s.retire w len).cg = s.cg := by
  have wgs : (s.retire w len).wgs = s.wgs := (congrArg State.wgs (outside_retireWith ..).rest :)
  have own : (s.retire w len).cw.wg = s.cw.wg := by
    rw [State.retire, cw_retireWith _ _ h, ← hw]
    exact (congrArg Welt.wg (Welt.settleHalt_rest _ _) :).trans (by simp)
  rw [State.cg, State.cg, own, State.wgAt, State.wgAt, wgs]

/-! ### Entries in the buffer (R241, R284) -/

/-- The element of a load that lands what an operation returns. -/
def AtomOp.elem (d : VReg) (o : AtomOp) : Elem := { lane := o.lane, dst := d.toNat, ty := o.ty, locs := o.locs }

/-- A welt with the values that a buffered atomic returns, where it returns any: those that loads would (R284). -/
def State.landOps (s : State) (w : Welt) (rt : Bool) (d : VReg) (ops : List AtomOp) : Welt :=
  if rt then w.landAll (fun e => s.seenLocs ⟨s.cur, BitVec.twoPow 32 e.lane⟩ e.locs) (ops.map (AtomOp.elem d)) else w

/-- A state with entries of the issuing workgroup's operations in its buffer. -/
def State.withEntries (s : State) (ops : List AtomOp) (A : Nat → W64) : State :=
  s.setCg { s.cg with detBuf := s.cg.detBuf ++ ops.map fun o => s.entryOf o (A o.lane) }

/-- The same, with what the operations return. -/
def State.recorded (s : State) (ops : List AtomOp) (A : Nat → W64) (rt : Bool) (d : VReg) : State :=
  (s.withEntries ops A).setCw (s.landOps (s.withEntries ops A).cw rt d ops)

/-- Where the core's buffer has room and no partial is outstanding that a return would see, all operations are recorded. -/
theorem recordAtoms_of_room {s : State} {d : VReg} {rt : Bool} {A : Nat → W64} {ops : List AtomOp} (dst : ∀ o ∈ ops, o.dst = if rt then some d.toNat else none) (settled : rt = true → noPartials s)
    (room : s.detCount s.cg.core + ops.length ≤ 4096) : s.recordAtoms ops A = some (s.recorded ops A rt d) := by
  have before : (if (ops.all fun o => o.dst.isNone) = true then s else s.settle (ops.flatMap (·.locs))) = s := by
    cases rt with
    | true => rw [settle_of_noPartials (settled rfl), ite_self]
    | false => exact if_pos (List.all_eq_true.2 fun o ho => by rw [dst o ho]; rfl)
  have full : s.detCount s.cg.core + (ops.map fun o => s.entryOf o (A o.lane)).length - 4096 = 0 := by
    rw [List.length_map]
    omega
  have buffered : s.bufferAtoms (ops.map fun o => s.entryOf o (A o.lane)) = some (s.withEntries ops A) := by
    unfold State.bufferAtoms
    dsimp only
    rw [full, if_pos (Nat.zero_le _), if_pos rfl, List.drop_zero]
    rfl
  have lands (w : Welt) : (ops.foldl (fun w o => match o.dst with
      | some d => w.land o.lane d o.ty (s.wouldLoad o)
      | none => w) w) = s.landOps w rt d ops := by
    rw [State.landOps]
    cases rt with
    | true =>
      rw [if_pos rfl, Welt.landAll, List.foldl_map]
      refine List.foldl_ext _ _ w fun w o ho => ?_
      rw [dst o ho, State.wouldLoad, settle_of_noPartials (settled rfl)]
      rfl
    | false =>
      rw [if_neg Bool.false_ne_true]
      refine (List.foldl_ext _ (fun w _ => w) w fun w o ho => ?_).trans (List.foldl_fixed ..)
      rw [dst o ho]
      rfl
  unfold State.recordAtoms
  dsimp only
  rw [before, buffered, Option.map_some]
  exact congrArg (fun w => some ((s.withEntries ops A).setCw w)) (lands _)

theorem getByte_withEntries (s : State) (ops : List AtomOp) (A : Nat → W64) (l : Loc) :
    (s.withEntries ops A).getByte l = s.getByte l :=
  getByte_of_tangible (tangible_setWgAt s s.cw.wg
    { s.cg with detBuf := s.cg.detBuf ++ ops.map fun o => s.entryOf o (A o.lane) } rfl) l

theorem legacy_withEntries (s : State) (ops : List AtomOp) (A : Nat → W64) : (s.withEntries ops A).legacy = s.legacy := by
  have launch : (s.withEntries ops A).cg.launch = s.cg.launch := by
    have e := map_set_of_eq Wg.launch s.wgs s.cw.wg Wg.init
      { s.cg with detBuf := s.cg.detBuf ++ ops.map fun o => s.entryOf o (A o.lane) } rfl
    have at_ := congrArg (fun x => x.getD s.cw.wg Wg.init.launch) e
    simp only [List.getD_map] at at_
    exact at_
  rw [State.legacy, State.cl, State.launchOf, launch]
  rfl

/-- Values that land leave of a lane all but its registers alone. -/
theorem lane_landAll_rest (w : Welt) (val : Elem → W64) (es : List Elem) {i : Nat} (hi : i < 32) :
    { (w.landAll val es).lane i with v := (w.lane i).v, full := (w.lane i).full, bad := (w.lane i).bad } = w.lane i := by
  induction es generalizing w with
  | nil => rfl
  | cons e es ih =>
    let back (x : Lane) : Lane := { x with v := (w.lane i).v, full := (w.lane i).full, bad := (w.lane i).bad }
    rw [landAll_cons]
    refine (congrArg back (ih (w.land e.lane e.dst e.ty (val e))) :).trans ?_
    rw [lane_land _ _ _ _ _ hi]
    split
    · unfold Lane.wrTy
      split <;> rfl
    · rfl

/-- Operations of lanes of `e`, one for each at most, of one type and with one destination where they return. -/
structure Asked (e : Lanes) (ty : Ty) (d : VReg) (rt : Bool) (ops : List AtomOp) : Prop where
  each : ∀ o ∈ ops, o.lane < 32 ∧ e.getLsbD o.lane = true ∧ o.ty = ty ∧ o.dst = if rt then some d.toNat else none
  apart : ops.Pairwise fun o o' => o.lane ≠ o'.lane

theorem asked_operations (s : State) (e : Lanes) (op : Nat) (ty : Ty) (d c : VReg) (rt : Bool) (A : Nat → W64) :
    Asked e ty d rt (operations s e op ty d c rt A) := by
  refine ⟨fun o ho => ?_, operations_apart op d c rt⟩
  obtain ⟨l, hl, he, ls, -, rfl⟩ := mem_operations.1 ho
  exact ⟨hl, he, rfl, rfl⟩

theorem lt_of_mem_regsOf {ty : Ty} {d : VReg} (even : ty.evenOk d = true) {r : Nat} (hr : r ∈ regsOf ty d.toNat) :
    r < 128 := by
  unfold regsOf at hr
  split at hr
  case isTrue pair =>
    have := even_of_evenOk even pair
    simp only [List.mem_cons, List.not_mem_nil, or_false] at hr
    omega
  case isFalse => exact List.mem_singleton.1 hr ▸ d.isLt

section
variable {e : Lanes} {ty : Ty} {d : VReg} {rt : Bool} {ops : List AtomOp}

/-- What a buffered atomic returns changes the destinations of its lanes alone. -/
theorem sameReg_landOps (asked : Asked e ty d rt ops) (v : State) (w : Welt) {i r : Nat} (hi : i < 32) (hr : r < 128)
    (out : e.getLsbD i = true → r ∉ if rt then regsOf ty d.toNat else []) :
    sameReg ((v.landOps w rt d ops).lane i) (w.lane i) r := by
  unfold State.landOps
  cases rt with
  | true =>
    rw [if_pos rfl]
    refine sameReg_landAll _ _ hi hr fun x hx here => ?_
    obtain ⟨o, ho, rfl⟩ := List.mem_map.1 hx
    obtain ⟨-, he, rfl, -⟩ := asked.each o ho
    exact out (here ▸ he)
  | false => exact ⟨rfl, rfl, rfl⟩

/-- Its destinations hold what loads would return (R284). -/
theorem rdTy_landOps (asked : Asked e ty d true ops) (v : State) (w : Welt) (even : ty.evenOk d = true) {o : AtomOp}
    (ho : o ∈ ops) : ((v.landOps w true d ops).lane o.lane).rdTy ty d.toNat =
      image ty (num ty (v.seenLocs ⟨v.cur, BitVec.twoPow 32 o.lane⟩ o.locs)) := by
  have regs : ∀ x ∈ ops.map (AtomOp.elem d), x.lane < 32 ∧ ∀ r ∈ regsOf x.ty x.dst, r < 128 := by
    intro x hx
    obtain ⟨o, ho, rfl⟩ := List.mem_map.1 hx
    obtain ⟨lane, -, rfl, -⟩ := asked.each o ho
    exact ⟨lane, fun r hr => lt_of_mem_regsOf even hr⟩
  have apart : (ops.map (AtomOp.elem d)).Pairwise fun x y =>
      x.lane ≠ y.lane ∨ ∀ r ∈ regsOf x.ty x.dst, r ∉ regsOf y.ty y.dst :=
    List.pairwise_map.2 (asked.apart.imp fun h => .inl h)
  obtain ⟨value, -⟩ := landAll_mem w (fun x => v.seenLocs ⟨v.cur, BitVec.twoPow 32 x.lane⟩ x.locs) regs apart
    (List.mem_map_of_mem (f := AtomOp.elem d) ho)
  obtain ⟨-, -, rfl, -⟩ := asked.each o ho
  exact value.trans (loadImage_read ..)

end

section
variable {s v : State} {e : Lanes} {ty : Ty} {d : VReg} {rt : Bool} {ops : List AtomOp} (A : Nat → W64) (h : issuing s)
  (same : v.untranslated = s.untranslated)
include h same

theorem cw_recorded : issuing (v.recorded ops A rt d) ∧ (v.recorded ops A rt d).cw = v.landOps s.cw rt d ops := by
  have welts : v.welts = s.welts := (congrArg State.welts same :)
  have cur : v.cur = s.cur := (congrArg State.cur same :)
  have ready : issuing (v.withEntries ops A) := by
    unfold issuing at h ⊢
    rw [← cur, ← welts] at h
    exact h
  have before : (v.withEntries ops A).cw = s.cw := by
    have own : (v.withEntries ops A).cw = v.cw := rfl
    rw [own, State.cw, State.cw, State.weltAt, State.weltAt, cur, welts]
  refine ⟨?_, ?_⟩
  · unfold issuing State.recorded State.setCw State.setWeltAt
    rw [List.length_set]
    exact ready
  · rw [State.recorded, cw_setCw _ _ ready, before]

/-- The state that a buffered atomic retires from. -/
theorem prepared_recorded (asked : Asked e ty d rt ops) :
    Prepared s (v.recorded ops A rt d) e (if rt then regsOf ty d.toNat else []) 0 := by
  obtain ⟨-, cw⟩ := cw_recorded (rt := rt) (d := d) (ops := ops) A h same
  have welts : v.welts = s.welts := (congrArg State.welts same :)
  have cur : v.cur = s.cur := (congrArg State.cur same :)
  have only : { v.landOps s.cw rt d ops with lanes := s.cw.lanes } = s.cw := by
    unfold State.landOps
    split
    · exact landAll_rest ..
    · rfl
  refine ⟨cur, ?_, ?_, fun i hi => ?_, fun i hi r hr out => ?_, ?_, fun i hi => ?_⟩
  · have wg : (v.recorded ops A rt d).cw.wg = v.cw.wg := by
      have before : v.cw = s.cw := (congrArg State.cw same :)
      rw [cw, before]
      exact (congrArg Welt.wg only :)
    have own : (v.recorded ops A rt d).legacy = (v.withEntries ops A).legacy := by
      rw [State.legacy, State.cl, State.cg, wg]
      rfl
    rw [own, legacy_withEntries]
    exact (congrArg State.legacy same :)
  · rw [cw]
    let back (x : Welt) : Welt := { x with
      lanes := s.cw.lanes, fpctl := s.cw.fpctl, observed := s.cw.observed, unfenced := s.cw.unfenced
      streams := s.cw.streams, wait := s.cw.wait }
    exact (congrArg back only :)
  · rw [cw]
    unfold State.landOps
    split
    · exact lane_landAll_rest _ _ _ hi
    · rfl
  · rw [cw]
    exact sameReg_landOps asked v s.cw hi hr out
  · rw [cw]
    exact (congrArg Welt.fpctl only :).trans BitVec.or_zero.symm
  · have other : (v.recorded ops A rt d).weltAt i = s.weltAt i :=
      (weltAt_setCw_ne _ _ _ (cur.symm ▸ hi)).trans (congrArg (fun x => x.getD i Welt.init) welts)
    rw [other]
    exact sameRegisters_of_registers rfl

/-- What a buffered atomic leaves as it retires. -/
theorem retire_recorded (hw : s.cw.wg < s.wgs.length) (asked : Asked e ty d rt ops)
    (even : rt = true → ty.evenOk d = true) :
    let u := (v.recorded ops A rt d).retire (v.recorded ops A rt d).cw 2
    (∀ l, u.getByte l = s.getByte l) ∧
      (u.cg.detBuf = s.cg.detBuf ++ ops.map fun o =>
        ⟨s.cg.launch, s.cg.logical, s.cw.index, o.lane, s.cw.order, s.cw.level, (A o.lane).toNat, o⟩) ∧
      Reaching s u 2 e (if rt then regsOf ty d.toNat else []) [] [] 0 ∧
      (rt = true → ∀ o ∈ ops, (u.cw.lane o.lane).rdTy ty d.toNat =
        image ty (num ty (s.seenLocs ⟨s.cur, BitVec.twoPow 32 o.lane⟩ o.locs))) := by
  obtain ⟨ready, cw⟩ := cw_recorded (rt := rt) (d := d) (ops := ops) A h same
  have prepared := prepared_recorded A h same asked
  have wgs : v.wgs = s.wgs := (congrArg State.wgs same :)
  have cur : v.cur = s.cur := (congrArg State.cur same :)
  have before : v.cw = s.cw := (congrArg State.cw same :)
  have out : Outside (v.recorded ops A rt d) ((v.recorded ops A rt d).retire (v.recorded ops A rt d).cw 2) :=
    outside_retireWith ..
  refine ⟨fun l => ?_, ?_, ?_, fun hr o ho => ?_⟩
  · rw [out.bytes]
    refine (getByte_setWeltAt ..).trans ((getByte_withEntries ..).trans ?_)
    exact getByte_of_uncached (uncached_of_untranslated same) l
  · have own : (v.recorded ops A rt d).cw.wg = s.cw.wg := (congrArg Welt.wg prepared.own :)
    have entries : (v.withEntries ops A).wgAt s.cw.wg =
        { v.cg with detBuf := v.cg.detBuf ++ ops.map fun o => v.entryOf o (A o.lane) } := by
      rw [State.withEntries, State.setCg, before]
      exact (wgAt_setWgAt ..).trans (if_pos ⟨rfl, wgs ▸ hw⟩)
    have group : v.cg = s.cg := (congrArg State.cg same :)
    rw [cg_retire _ _ ready rfl, State.cg, own]
    refine (congrArg Wg.detBuf entries).trans ?_
    simp only [State.entryOf, group, before]
  · exact prepared.reaching (reaching_retire 2 ready (fun _ _ => rfl) (fun _ _ _ _ _ => ⟨rfl, rfl, rfl⟩)
      ⟨rfl, rfl, rfl⟩ (fun _ _ _ => rfl) rfl ⟨rfl, rfl, rfl, rfl⟩ ⟨rfl, rfl, rfl⟩)
  · subst hr
    obtain ⟨hl, -⟩ := asked.each o ho
    rw [rdTy_retire _ _ _ ready _ hl, cw]
    refine (rdTy_landOps asked v s.cw (even rfl) ho).trans ?_
    rw [seenLocs_of_uncached (uncached_of_untranslated same), cur]

end

/-- An atomic that is buffered: its entries are recorded, no byte changes, and its destinations hold what loads would
return. -/
theorem atomic_buffers {s : State} {op : Nat} {buffered : Bool} {d i c : VReg} {w : WReg} {f p : BitVec 2}
    {t tc rt : Bool} {ty : Ty} {disp : BitVec 13} {A : Nat → W64} (h : issuing s) (hw : s.cw.wg < s.wgs.length)
    (addr : A = fun l => s.elemAddr w i f ty.bytes disp l 0) (buffers : (buffered || s.cl.det) = true)
    (settled : rt = true → noPartials s) (even : rt = true → ty.evenOk d = true)
    (issues : s.issues (s.E p) (
      let src := (memDeps {} t w i.toNat f 1).src tc (regsOf ty c.toNat)
      let src := if op = 7 then src.src t (regsOf ty d.toNat) else src
      if rt then src.dst (regsOf ty d.toNat) else src) 0 = true)
    (ready : atomicsReady s (s.E p) ty A)
    (room : s.detCount s.cg.core + (operations s (s.E p) op ty d c rt A).length ≤ 4096) :
    let ops := operations s (s.E p) op ty d c rt A
    ∃ u, s.atomic op buffered d w i f t p c tc ty rt disp = .next u ∧ (∀ l, u.getByte l = s.getByte l) ∧
      (u.cg.detBuf = s.cg.detBuf ++ ops.map fun o =>
        ⟨s.cg.launch, s.cg.logical, s.cw.index, o.lane, s.cw.order, s.cw.level, (A o.lane).toNat, o⟩) ∧
      Reaching s u 2 (s.E p) (if rt then regsOf ty d.toNat else []) [] [] 0 ∧
      (rt = true → ∀ o ∈ ops, (u.cw.lane o.lane).rdTy ty d.toNat =
        image ty (num ty (s.seenLocs ⟨s.cur, BitVec.twoPow 32 o.lane⟩ o.locs))) := by
  intro ops
  let v := s.fillTlbs (s.atomAccesses (s.E p) ty A)
  have asked : Asked (s.E p) ty d rt ops := asked_operations ..
  have same : v.untranslated = s.untranslated := by
    obtain ⟨tlb, tlb2, uses, filled⟩ := fillTlbs_eq s (s.atomAccesses (s.E p) ty A)
    have e := congrArg State.untranslated filled
    exact e
  have recorded : v.recordAtoms ops A = some (v.recorded ops A rt d) := by
    refine recordAtoms_of_room (fun o ho => (asked.each o ho).2.2.2) (fun hr => ?_) ?_
    · exact noPartials_of_uncached (uncached_of_untranslated same) (settled hr)
    · have count : v.detCount v.cg.core = s.detCount s.cg.core :=
        (congrArg (fun x : State => x.detCount x.cg.core) same :)
      rw [count]
      exact room
  exact ⟨_, atomic_ready addr ready issues (fun off => absurd buffers (by simp [off])) (fun _ => ⟨_, recorded, rfl⟩)
    fun off => absurd buffers (by simp [off]), retire_recorded A h same hw asked even⟩

/-- Where no register is named, no lane need be. -/
theorem Reaching.of_no_registers {s u : State} {len : Nat} {e : Lanes} {ws ms : List Nat} {fl : FlagBits}
    (h : Reaching s u len e [] ws ms fl) (e' : Lanes) : Reaching s u len e' [] ws ms fl :=
  ⟨⟨h.lanes.pc, h.lanes.key, fun i hi r hr _ => h.lanes.kept i hi r hr fun _ => List.not_mem_nil⟩, h.uniform, h.masks,
    h.flags, h.special, h.traps, h.others⟩

end

/-- Settles O24: ATOMD, and ATOM of a deterministic launch, through `atomic_buffers`. -/
theorem bufferedAtomics : Obligations.BufferedAtomics := by
  unfold Obligations.BufferedAtomics
  intro s d i c w f p t tc rt ty disp h hw A src recorded
  refine ⟨fun q hq => ?_, fun q hq => ?_⟩
  · have key (op : Nat) (hop : op ≠ 7) (issues : s.issues (s.E p) src 0 = true)
        (ready : Claims.atomicsReady s (s.E p) ty A)
        (room : s.detCount s.cg.core + (Claims.operations s (s.E p) op ty 0 c false A).length ≤ 4096) :
        ∃ u, s.atomic op true 0 w i f t p c tc ty false disp = .next u ∧
          recorded u (Claims.operations s (s.E p) op ty 0 c false A) ∧ Safety.Reaching s u 2 0 [] [] [] 0 := by
      obtain ⟨u, run, bytes, entries, reach, -⟩ := atomic_buffers (op := op) (buffered := true) (d := 0) (rt := false) h hw
        rfl rfl nofun nofun (by rw [if_neg Bool.false_ne_true, if_neg hop]; exact issues) ready room
      exact ⟨u, run, ⟨bytes, entries⟩, Reaching.of_no_registers reach 0⟩
    simp only [List.mem_cons, List.not_mem_nil, or_false] at hq
    obtain rfl | rfl | rfl | rfl | rfl | rfl | rfl := hq <;>
      exact fun _ issues ready room => key _ (by decide) issues ready room
  · obtain ⟨ins, op, ret⟩ := q
    intro det partials wf issues ready room
    obtain ⟨-, even⟩ := wellFormed_atomForm hq wf
    obtain ⟨u, run, bytes, entries, rest⟩ := atomic_buffers (op := op) (buffered := false) h hw rfl
      (by rw [det]; rfl) (fun _ => partials) even issues ready room
    exact ⟨u, (exec_atomForm hq s).trans run, ⟨bytes, entries⟩, rest⟩

end Sys2Proof.Machine

/-!
Atomics that are carried out (R240, R243, R281, R282): what one operation leaves alone, the bytes that it stores, operations one
after another, and O22.
-/

namespace Sys2Proof.Machine

section

open Safety Claims

/-! ### What an access notes (R181, R235, R236, R246, R248, R252) -/

/-- A welt apart from what it has observed, the writes that its steps may read, its streams and what it waits for. -/
def Welt.unnoted (x : Welt) : Welt :=
  { x with observed := [], unfenced := [], streams := Welt.init.streams, wait := .none }

/-- A workgroup apart from its accumulators. -/
def Wg.untiled (g : Wg) : Wg := { g with acc := [] }

/-- A state apart from what accesses note of what they read and write: the caches and TLBs, who sees which store, the messages,
what welts know and wait for, and accumulator cells that a write has spoilt. -/
def State.unnoted (s : State) : State :=
  { s.uncached with
    veils := [], messages := [], nextVeil := 0
    welts := s.welts.map Welt.unnoted
    wgs := s.wgs.map Wg.untiled }

theorem unnoted_of_uncached {s t : State} (h : t.uncached = s.uncached) : t.unnoted = s.unnoted := by
  let back (x : State) : State := { x with
    veils := [], messages := [], nextVeil := 0
    welts := x.welts.map Welt.unnoted
    wgs := x.wgs.map Wg.untiled }
  exact (congrArg back h :)

theorem unnoted_setWeltAt (s : State) (i : Nat) (w : Welt) (h : w.unnoted = (s.weltAt i).unnoted) :
    (s.setWeltAt i w).unnoted = s.unnoted := by
  have welts := map_set_of_eq Welt.unnoted s.welts i Welt.init w h
  exact congrArg (fun ws => ({ s.unnoted with welts := ws } : State)) welts

theorem unnoted_setWgAt (s : State) (i : Nat) (g : Wg) (h : g.untiled = (s.wgAt i).untiled) :
    (s.setWgAt i g).unnoted = s.unnoted := by
  have wgs := map_set_of_eq Wg.untiled s.wgs i Wg.init g h
  exact congrArg (fun gs => ({ s.unnoted with wgs := gs } : State)) wgs

theorem unnoted_of_noted {s t : State} {w : Nat} (h : s.Noted w t) : t.unnoted = s.unnoted := by
  obtain ⟨o, f, rfl⟩ := h
  exact unnoted_setWeltAt _ _ _ rfl

theorem unnoted_unveil (s : State) (ls : List Loc) : (s.unveil ls).unnoted = s.unnoted := by
  unfold State.unveil
  split <;> rfl

theorem unnoted_addVeil (s : State) (r : Reader) (level : Nat) (ls : List Loc) :
    (s.addVeil r level ls).unnoted = s.unnoted := by
  unfold State.addVeil
  dsimp only
  split <;> rfl

theorem unnoted_noteMessage (s : State) (w num : Nat) (ls : List Loc) : (s.noteMessage w num ls).unnoted = s.unnoted := by
  unfold State.noteMessage
  dsimp only
  split <;> rfl

theorem unnoted_spoil (s : State) (g tile : Nat) (t : Ty) (rows cols : List Nat) :
    (s.spoil g tile t rows cols).unnoted = s.unnoted := by
  have key (acc : List Host.Cell) : (s.setWgAt g { s.wgAt g with acc := acc }).unnoted = s.unnoted :=
    unnoted_setWgAt _ _ _ rfl
  exact key _

theorem unnoted_noteWrites (s : State) (by_ copy : Option Nat) (spans : List Span) :
    (s.noteWrites by_ copy spans).unnoted = s.unnoted := by
  unfold State.noteWrites
  split
  · rfl
  · dsimp only
    refine (foldl_keeps State.unnoted (fun t i => ?_) _ _).trans ?_
    · split
      · rfl
      · refine foldl_keeps State.unnoted (fun t st => foldl_keeps State.unnoted (fun t o => ?_) _ t) _ t
        split
        · exact unnoted_spoil ..
        · rfl
    · have marked (f : Welt × Nat → Welt) (hf : ∀ e, (f e).unnoted = e.1.unnoted) :
          (s.welts.zipIdx.map f).map Welt.unnoted = s.welts.map Welt.unnoted := by
        rw [List.map_map, funext (f := Welt.unnoted ∘ f) hf]
        refine (List.map_map (f := Prod.fst) (g := Welt.unnoted)).symm.trans ?_
        rw [List.zipIdx_map_fst]
      refine congrArg (fun ws => ({ s.unnoted with welts := ws } : State)) (marked _ fun e => ?_)
      split <;> rfl

/-! ### What an equal state apart from notes and bytes tells -/

/-- A state apart from what accesses note and from the bytes of device and host memory. -/
def State.blank (s : State) : State := { s.unnoted with mem := [], host := [] }

theorem blank_of_unnoted {s t : State} (h : t.unnoted = s.unnoted) : t.blank = s.blank := by
  let back (x : State) : State := { x with mem := [], host := [] }
  exact (congrArg back h :)

section
variable {s t : State} (h : t.blank = s.blank)
include h

theorem cur_of_blank : t.cur = s.cur := (congrArg State.cur h :)

theorem copies_of_blank : t.copies = s.copies := (congrArg State.copies h :)

theorem welts_of_blank : t.welts.length = s.welts.length := by
  have e := congrArg (fun x : State => x.welts.length) h
  simpa only [State.blank, State.unnoted, List.length_map] using e

theorem weltAt_of_blank (i : Nat) : (t.weltAt i).unnoted = (s.weltAt i).unnoted := by
  have e := congrArg (fun x : State => x.welts.getD i Welt.init.unnoted) h
  simpa only [State.blank, State.unnoted, List.getD_map, State.weltAt] using e

theorem wgAt_of_blank (g : Nat) : (t.wgAt g).untiled = (s.wgAt g).untiled := by
  have e := congrArg (fun x : State => x.wgs.getD g Wg.init.untiled) h
  simpa only [State.blank, State.unnoted, List.getD_map, State.wgAt] using e

theorem cw_of_blank : t.cw.unnoted = s.cw.unnoted := by
  rw [State.cw, cur_of_blank h]
  exact weltAt_of_blank h s.cur

theorem cg_of_blank : t.cg.untiled = s.cg.untiled := by
  have wg : t.cw.wg = s.cw.wg := (congrArg Welt.wg (cw_of_blank h) :)
  rw [State.cg, wg]
  exact wgAt_of_blank h s.cw.wg

theorem legacy_of_blank : t.legacy = s.legacy := by
  have launch : t.cg.launch = s.cg.launch := (congrArg Wg.launch (cg_of_blank h) :)
  have launches : t.launches = s.launches := (congrArg State.launches h :)
  rw [State.legacy, State.cl, State.launchOf, State.launchAt, launch, launches]
  rfl

theorem cc_of_blank : t.cc = s.cc := by
  have launch : t.cg.launch = s.cg.launch := (congrArg Wg.launch (cg_of_blank h) :)
  have launches : t.launches = s.launches := (congrArg State.launches h :)
  have ctxs : t.ctxs = s.ctxs := (congrArg State.ctxs h :)
  simp only [State.cc, State.cl, State.launchOf, State.launchAt, State.ctxAt, launch, launches, ctxs]

theorem noPartials_of_blank (p : noPartials s) : noPartials t := by
  obtain ⟨pooled, wgs⟩ := p
  refine ⟨(congrArg State.pooledPartials h :).trans pooled, fun g hg => ?_⟩
  have all : t.wgs.map Wg.untiled = s.wgs.map Wg.untiled := (congrArg State.wgs h :)
  obtain ⟨g', hg', same⟩ := List.mem_map.1 (all ▸ List.mem_map_of_mem (f := Wg.untiled) hg)
  exact (congrArg Wg.partials same :).symm.trans (wgs g' hg')

/-- The byte that a reader finds is the one that stands, or is undefined for other reasons. -/
theorem getByte_of_blank {l : Loc} (raw : t.rawByte l = s.rawByte l) : t.getByte l = s.getByte l := by
  have tick : t.tick = s.tick := (congrArg State.tick h :)
  have copies := copies_of_blank h
  have spaces (space g off : Nat) : t.unobserved space g off = s.unobserved space g off := by
    rw [State.unobserved, copies]
    rfl
  have dev (a : Nat) : t.unobservedDev a = s.unobservedDev a := by
    rw [State.unobservedDev, copies]
    rfl
  cases l <;> simp only [State.getByte, raw, spaces, dev, State.undefByte, tick]

end

theorem getByte_of_unnoted {s t : State} (h : t.unnoted = s.unnoted) (l : Loc) : t.getByte l = s.getByte l := by
  have raw : t.rawByte l = s.rawByte l := by
    cases l with
    | region i off =>
      have regions : t.regions.map (fun r => { r with cached := [] }) = s.regions.map fun r => { r with cached := [] } :=
        (congrArg State.regions h :)
      have one := congrArg (fun rs : List Region => rs[i]?) regions
      simp only [List.getElem?_map] at one
      simp only [State.rawByte]
      cases ht : t.regions[i]? <;> cases hs : s.regions[i]? <;> simp only [ht, hs, Option.map_none, Option.map_some,
        reduceCtorEq, Option.some.injEq] at one ⊢
      exact (congrArg (fun r : Region => r.byteAt off) one :)
    | stash g off => exact (congrArg (fun x : Wg => cellRead x.stash off) (wgAt_of_blank (blank_of_unnoted h) g) :)
    | opbuf g off => exact (congrArg (fun x : Wg => cellRead x.opbuf off) (wgAt_of_blank (blank_of_unnoted h) g) :)
    | dev a => exact (congrArg (fun x : State => cellRead x.mem a) h :)
    | block g off a => exact (congrArg (fun x : State => cellRead x.mem a) h :)
    | host p k => exact (congrArg (fun x : State => cellRead x.host k) h :)
    | byte b => rfl
  exact getByte_of_blank (blank_of_unnoted h) raw

/-! ### Bytes of device and host memory that are stored (R228, R234, R240) -/

/-- A byte of device or host memory that no copy leaves undefined. -/
def plain (s : State) (a : Loc) : Prop := ((∃ k, a = .dev k) ∨ ∃ p k, a = .host p k) ∧ settled s a

theorem plain_of_copies {s t : State} (h : t.copies = s.copies) {a : Loc} (p : plain s a) : plain t a := by
  obtain ⟨⟨k, rfl⟩ | ⟨q, k, rfl⟩, stands⟩ := p
  · refine ⟨.inl ⟨k, rfl⟩, ?_⟩
    simp only [settled, State.unobservedDev, h] at stands ⊢
    exact stands
  · exact ⟨.inr ⟨q, k, rfl⟩, trivial⟩

theorem getByte_of_plain {s : State} {a : Loc} (p : plain s a) : s.getByte a = s.rawByte a := by
  obtain ⟨⟨k, rfl⟩ | ⟨q, k, rfl⟩, stands⟩ := p
  · exact if_neg (by simpa [settled] using stands)
  · rfl

/-- A byte that is no residual of a copy is stored as it is. -/
theorem outByte_of_plain {s : State} {a : Loc} (p : plain s a) (b : Byte) : s.outByte a b = b := by
  obtain ⟨⟨k, rfl⟩ | ⟨q, k, rfl⟩, stands⟩ := p
  · refine if_neg fun residual => ?_
    obtain ⟨c, hc, here⟩ := List.any_eq_true.1 residual
    obtain ⟨open_, inside⟩ := Bool.and_eq_true_iff.1 here
    have unobserved : s.unobservedDev k = true := by
      refine List.any_eq_true.2 ⟨c, hc, Bool.and_eq_true_iff.2 ⟨open_, ?_⟩⟩
      rw [List.any_append, inside, Bool.or_true]
    exact absurd (unobserved.symm.trans stands) (by decide)
  · rfl

/-- What stands at a location once a byte has been stored in device or host memory: that byte, where both are one cell. -/
theorem rawByte_putByte {s : State} (wf : memoriesWf s) {l : Loc} (hl : (∃ k, l = .dev k) ∨ ∃ p k, l = .host p k) (b : Byte)
    (a : Loc) : (s.putByte l b).rawByte a = if cellOf a = cellOf l then b else s.rawByte a := by
  obtain ⟨mem, host, -⟩ := wf
  obtain ⟨k, rfl⟩ | ⟨p, k, rfl⟩ := hl
  · cases a with
    | dev q | block _ _ q =>
      simp only [cellOf, Loc.dev.injEq]
      exact cellRead_cellWrite mem k b q
    | _ => rfl
  · cases a with
    | host _ q =>
      simp only [cellOf, Loc.host.injEq, true_and]
      exact cellRead_cellWrite host k b q
    | _ => rfl

/-- What stands at a location once bytes have been stored in distinct cells of device or host memory. -/
theorem rawByte_putLocs {s : State} (wf : memoriesWf s) {ls : List Loc} {bs : List Byte} (count : ls.length = bs.length)
    (cells : ∀ l ∈ ls, (∃ k, l = .dev k) ∨ ∃ p k, l = .host p k) (apart : (ls.map cellOf).Nodup) (a : Loc) :
    (s.putLocs ls bs).rawByte a = match (ls.map cellOf).idxOf? (cellOf a) with
      | some k => bs.getD k 0
      | none => s.rawByte a := by
  induction ls generalizing s bs with
  | nil => rfl
  | cons l ls ih =>
    obtain _ | ⟨b, bs⟩ := bs
    · cases count
    rw [List.map_cons, List.nodup_cons] at apart
    obtain ⟨fresh, apart⟩ := apart
    have rest := ih (memoriesWf_putByte wf l b) (Nat.succ.inj count) (fun l hl => cells l (.tail _ hl)) apart
    rw [State.putLocs, rest, rawByte_putByte wf (cells l (.head _)), List.map_cons, List.idxOf?_cons]
    by_cases same : cellOf a = cellOf l
    · rw [same, List.idxOf?_eq_none_iff.2 fresh]
      simp
    · rw [if_neg same, if_neg (by simpa using Ne.symm same)]
      cases (ls.map cellOf).idxOf? (cellOf a) <;> rfl

/-- A store of bytes in device or host memory does not touch what accesses note. -/
theorem unnoted_putLocs (s : State) {ls : List Loc} (cells : ∀ l ∈ ls, (∃ k, l = .dev k) ∨ ∃ p k, l = .host p k)
    (bs : List Byte) : (s.putLocs ls bs).unnoted = s.unnoted.putLocs ls bs := by
  induction ls generalizing s bs with
  | nil => rfl
  | cons l ls ih =>
    obtain _ | ⟨b, bs⟩ := bs
    · rfl
    rw [State.putLocs, ih (s.putByte l b) (fun l hl => cells l (.tail _ hl))]
    obtain ⟨k, rfl⟩ | ⟨p, k, rfl⟩ := cells l (.head _) <;> rfl

theorem blank_putLocs (s : State) {ls : List Loc} (cells : ∀ l ∈ ls, (∃ k, l = .dev k) ∨ ∃ p k, l = .host p k)
    (bs : List Byte) : (s.putLocs ls bs).blank = s.blank := by
  induction ls generalizing s bs with
  | nil => rfl
  | cons l ls ih =>
    obtain _ | ⟨b, bs⟩ := bs
    · rfl
    rw [State.putLocs, ih (s.putByte l b) (fun l hl => cells l (.tail _ hl))]
    obtain ⟨k, rfl⟩ | ⟨p, k, rfl⟩ := cells l (.head _) <;> rfl

/-! ### The value that an atomic stores (R92, R282) -/

theorem setWidth_wrapTo (t : Ty) (z : Int) : (wrapTo t z).setWidth t.width = BitVec.ofInt t.width z := by
  have narrow := width_le t
  unfold wrapTo
  dsimp only
  split <;> refine BitVec.eq_of_getLsbD_eq fun j hj => ?_
  · have : j < 64 := by omega
    simp only [BitVec.getLsbD_setWidth, BitVec.getLsbD_signExtend, hj, this, decide_true, Bool.true_and, if_true]
  · have : j < 64 := by omega
    simp only [BitVec.getLsbD_setWidth, hj, this, decide_true, Bool.true_and]

/-- Only sums and extrema are for floats (R282). -/
theorem isFloat_of_opFits {op : Nat} {ty : Ty} (fits : opFits op ty = true) (large : 3 ≤ op) : ty.isFloat = false := by
  unfold opFits at fits
  rw [if_neg (by omega)] at fits
  split at fits
  · revert fits
    cases ty <;> decide
  · obtain ⟨-, natural⟩ := Bool.and_eq_true_iff.1 fits
    revert natural
    cases ty <;> decide

/-- The low bits that an atomic of a type for it stores are those of the operation of R92. -/
theorem setWidth_atomNew {op : Nat} {ty : Ty} (fits : opFits op ty = true) (old v cmp : W64) :
    (atomNew op ty old v cmp).1.setWidth ty.width = (atomValue op ty old v cmp).setWidth ty.width := by
  have number (z : Int) : (BitVec.ofInt 64 z).setWidth ty.width = BitVec.ofInt ty.width z := setWidth_ofInt (width_le ty) z
  have raw := isFloat_of_opFits fits
  unfold atomNew atomValue
  match op with
  | 0 =>
    cases float : ty.isFloat
    · simp only [Bool.false_eq_true, if_false, setWidth_wrapTo, intOf_eq_num, number]
    · simp only [if_true]
  | 1 =>
    cases float : ty.isFloat
    · simp only [Bool.false_eq_true, if_false, intOf_eq_num, number, min_def, apply_ite (BitVec.ofInt ty.width), ofInt_num,
        apply_ite (BitVec.setWidth ty.width)]
    · simp only [if_true]
  | 2 =>
    cases float : ty.isFloat
    · simp only [Bool.false_eq_true, if_false, intOf_eq_num, number, max_def', apply_ite (BitVec.ofInt ty.width), ofInt_num,
        apply_ite (BitVec.setWidth ty.width)]
    · simp only [if_true]
  | 3 | 4 | 5 | 6 | 7 => simp only [raw (by decide), Bool.false_eq_true, if_false]
  | n + 8 => simp only [raw (by omega), Bool.false_eq_true, if_false]

theorem atomNew_flags {op : Nat} {ty : Ty} (int : ty.isFloat = false) (old v cmp : W64) :
    (atomNew op ty old v cmp).2 = 0 := by
  unfold atomNew
  split <;> simp [int]

/-! ### One operation (R238, R240, R248) -/

/-- An operation on a location of whole bytes of device or host memory that no copy leaves undefined, of a type that its
operation is for. -/
structure Sound (s : State) (o : AtomOp) : Prop where
  cells : (o.locs.map cellOf).Nodup
  count : o.locs.length = o.ty.bytes
  plain : ∀ a ∈ o.locs, plain s a
  fits : opFits o.op o.ty = true

theorem Sound.of_copies {s t : State} {o : AtomOp} (h : t.copies = s.copies) (p : Sound s o) : Sound t o :=
  ⟨p.cells, p.count, fun a ha => plain_of_copies h (p.plain a ha), p.fits⟩

/-- What an operation stores where it finds a value. -/
def AtomOp.bytes (o : AtomOp) (old : W64) : List Byte := bytesLE (atomNew o.op o.ty old o.val o.cmp).1 o.ty.bytes

theorem length_bytesLE (x : W64) (n : Nat) : (bytesLE x n).length = n := by
  rw [bytesLE, List.length_map, List.length_range]

section
variable {s : State} {o : AtomOp} (sound : Sound s o)
include sound

/-- An operation applied to a state that differs in notes alone finds the same value, and stores the same bytes. -/
theorem applyAtom_unnoted {x : State} (h : x.unnoted = s.unnoted) :
    (x.applyAtom o).1.unnoted = (s.putLocs o.locs (o.bytes (s.getLocs o.locs))).unnoted ∧
      (x.applyAtom o).2 = (s.getLocs o.locs, (atomNew o.op o.ty (s.getLocs o.locs) o.val o.cmp).2) := by
  have old : x.getLocs o.locs = s.getLocs o.locs := by
    rw [State.getLocs, funext (getByte_of_unnoted h)]
    rfl
  have copies : x.copies = s.copies := copies_of_blank (blank_of_unnoted h)
  have out : ((o.locs.zip (o.bytes (s.getLocs o.locs))).map fun y => x.outByte y.1 y.2) = o.bytes (s.getLocs o.locs) := by
    refine (List.map_congr_left fun y hy => ?_).trans (List.map_snd_zip ?_)
    · exact outByte_of_plain (plain_of_copies copies (sound.plain _ (List.of_mem_zip hy).1)) y.2
    · rw [AtomOp.bytes, length_bytesLE, sound.count]
  have cells (a : Loc) (ha : a ∈ o.locs) := (sound.plain a ha).1
  unfold State.applyAtom
  dsimp only
  rw [old]
  refine ⟨?_, rfl⟩
  change ((x.unveil o.locs).putLocs o.locs ((o.locs.zip (o.bytes (s.getLocs o.locs))).map fun y =>
    x.outByte y.1 y.2)).unnoted = _
  rw [out, unnoted_putLocs _ cells, unnoted_putLocs _ cells, unnoted_unveil, h]

/-- One operation carried out: apart from notes, the bytes of its location are those that it stores. -/
theorem doAtom_unnoted (partials : noPartials s) (w : Nat) (near : Bool) :
    (s.doAtom w near o).1.unnoted = (s.putLocs o.locs (o.bytes (s.getLocs o.locs))).unnoted ∧
      (s.doAtom w near o).2 = (s.getLocs o.locs, (atomNew o.op o.ty (s.getLocs o.locs) o.val o.cmp).2) := by
  unfold State.doAtom
  dsimp only
  rw [settle_of_noPartials partials]
  have touched : (if near then s.touchLocs (s.coreOfWelt w) true o.locs else s.homeTouch true o.locs).unnoted =
      s.unnoted := by
    split
    · exact unnoted_of_uncached (uncached_touchLocs ..)
    · exact unnoted_of_uncached (uncached_homeTouch ..)
  generalize (if near then s.touchLocs (s.coreOfWelt w) true o.locs else s.homeTouch true o.locs) = x at touched
  have heard : ((x.noteNums w (x.newest o.locs)).hearLoad ⟨w, BitVec.twoPow 32 o.lane⟩ o.locs).unnoted = s.unnoted :=
    (unnoted_of_noted (noted_hearLoad ..)).trans ((unnoted_of_noted (noted_noteNums ..)).trans touched)
  generalize ((x.noteNums w (x.newest o.locs)).hearLoad ⟨w, BitVec.twoPow 32 o.lane⟩ o.locs) = y at heard
  obtain ⟨stored, told⟩ := applyAtom_unnoted sound heard
  refine ⟨?_, told⟩
  rw [unnoted_noteWrites, unnoted_noteMessage]
  split
  · exact stored
  · rw [unnoted_addVeil]
    exact stored

end

/-- The bytes of a value, cut out one by one. -/
theorem getD_bytesLE (x : W64) {n k : Nat} (h : k < n) : (bytesLE x n).getD k 0 = x.extractLsb' (8 * k) 8 := by
  rw [List.getD_eq_getElem _ _ (by rw [length_bytesLE]; exact h)]
  simp only [bytesLE, List.getElem_map, List.getElem_range]

/-- Equal low bits have equal bytes there. -/
theorem extract_of_setWidth {x y : W64} {w k : Nat} (h : x.setWidth w = y.setWidth w) (hk : 8 * k + 8 ≤ w) :
    x.extractLsb' (8 * k) 8 = y.extractLsb' (8 * k) 8 := by
  refine BitVec.eq_of_getLsbD_eq fun j hj => ?_
  have low := congrArg (fun z => z.getLsbD (8 * k + j)) h
  have inside : 8 * k + j < w := by omega
  simp only [BitVec.getLsbD_setWidth, inside, decide_true, Bool.true_and] at low
  simp only [BitVec.getLsbD_extractLsb', hj, decide_true, Bool.true_and, low]

theorem bytes_mul_eight (t : Ty) : 8 * (t.width / 8) ≤ t.width := Nat.mul_div_le ..

section
variable {s : State} {o : AtomOp} (sound : Sound s o) (wf : memoriesWf s)
include sound wf

/-- What stands once the bytes of an operation are stored is what R282 says, at every byte of device or host memory. -/
theorem rawByte_stored (a : Loc) (p : plain s a) :
    (s.putLocs o.locs (o.bytes (s.getLocs o.locs))).rawByte a = afterOp s.getByte o a := by
  have count : o.locs.length = (o.bytes (s.getLocs o.locs)).length := by
    rw [AtomOp.bytes, length_bytesLE, sound.count]
  rw [rawByte_putLocs wf count (fun l hl => (sound.plain l hl).1) sound.cells, afterOp]
  cases found : (o.locs.map cellOf).idxOf? (cellOf a) with
  | none => exact (getByte_of_plain p).symm
  | some k =>
    have inside : k < o.ty.bytes := by
      have := (List.idxOf?_eq_some_iff.1 found).1
      rwa [List.length_map, sound.count] at this
    have narrow : 8 * k + 8 ≤ o.ty.width := by
      have := bytes_mul_eight o.ty
      rw [Ty.bytes] at inside
      omega
    exact (getD_bytesLE _ inside).trans (extract_of_setWidth (setWidth_atomNew sound.fits ..) narrow)

theorem rawByte_untouched (a : Loc) (out : ∀ b ∈ o.locs, cellOf a ≠ cellOf b) :
    (s.putLocs o.locs (o.bytes (s.getLocs o.locs))).rawByte a = s.rawByte a := by
  have count : o.locs.length = (o.bytes (s.getLocs o.locs)).length := by
    rw [AtomOp.bytes, length_bytesLE, sound.count]
  have absent : (o.locs.map cellOf).idxOf? (cellOf a) = none := by
    refine List.idxOf?_eq_none_iff.2 fun mem => ?_
    obtain ⟨b, hb, same⟩ := List.mem_map.1 mem
    exact out b hb same.symm
  rw [rawByte_putLocs wf count (fun l hl => (sound.plain l hl).1) sound.cells, absent]

/-- One operation carried out (R240, R282): its bytes are those of its result, every other byte is as it was. -/
theorem doAtom_spec (partials : noPartials s) (w : Nat) (near : Bool) :
    let t := (s.doAtom w near o).1
    t.blank = s.blank ∧ (∀ a, plain s a → t.getByte a = afterOp s.getByte o a) ∧
      ∀ a, (∀ b ∈ o.locs, cellOf a ≠ cellOf b) → t.getByte a = s.getByte a := by
  obtain ⟨stored, -⟩ := doAtom_unnoted sound partials w near
  have blank : (s.putLocs o.locs (o.bytes (s.getLocs o.locs))).blank = s.blank :=
    blank_putLocs s (fun l hl => (sound.plain l hl).1) _
  refine ⟨(blank_of_unnoted stored).trans blank, fun a p => ?_, fun a out => ?_⟩
  · rw [getByte_of_unnoted stored, getByte_of_plain (plain_of_copies (copies_of_blank blank) p)]
    exact rawByte_stored sound wf a p
  · rw [getByte_of_unnoted stored]
    exact getByte_of_blank blank (rawByte_untouched sound wf a out)

end

/-! ### Operations one after another (R240) -/

/-- Readings of memory that agree on the plain bytes agree there after an operation on such bytes. -/
theorem afterOp_congr {P : Loc → Prop} {m n : Loc → Byte} (h : ∀ a, P a → m a = n a) {o : AtomOp}
    (ho : ∀ a ∈ o.locs, P a) : valueOf m o.locs = valueOf n o.locs ∧ ∀ a, P a → afterOp m o a = afterOp n o a := by
  have value : valueOf m o.locs = valueOf n o.locs := by
    rw [valueOf, valueOf, List.map_congr_left fun a ha => h a (ho a ha)]
  refine ⟨value, fun a p => ?_⟩
  rw [afterOp, afterOp, value]
  split
  · rfl
  · exact h a p

theorem foldl_afterOp_congr {P : Loc → Prop} {ops : List AtomOp} (ho : ∀ o ∈ ops, ∀ a ∈ o.locs, P a) {m n : Loc → Byte}
    (h : ∀ a, P a → m a = n a) :
    oldValues m ops = oldValues n ops ∧ ∀ a, P a → ops.foldl afterOp m a = ops.foldl afterOp n a := by
  induction ops generalizing m n with
  | nil => exact ⟨rfl, h⟩
  | cons o os ih =>
    obtain ⟨value, after⟩ := afterOp_congr h (ho o (.head _))
    obtain ⟨olds, fold⟩ := ih (fun o ho' => ho o (.tail _ ho')) after
    exact ⟨by rw [oldValues, oldValues, value, olds], fold⟩

/-- Operations carried out one after another (R240): each finds what those before it left. -/
theorem doAtoms_spec (w : Nat) (near : Bool) {ops : List AtomOp} {s : State} (wf : memoriesWf s) (partials : noPartials s)
    (sound : ∀ o ∈ ops, Sound s o) :
    let r := State.doAtoms w near ops s
    r.1.blank = s.blank ∧ (∀ a, plain s a → r.1.getByte a = ops.foldl afterOp s.getByte a) ∧
      (∀ a, (∀ o ∈ ops, ∀ b ∈ o.locs, cellOf a ≠ cellOf b) → r.1.getByte a = s.getByte a) ∧
      (∀ x, x ∈ r.2.1 ↔ ∃ y ∈ oldValues s.getByte ops, ∃ d, y.1.dst = some d ∧ x = (y.1.lane, d, y.1.ty, y.2)) ∧
      ((∀ o ∈ ops, o.ty.isFloat = false) → r.2.2 = 0) := by
  induction ops generalizing s with
  | nil => exact ⟨rfl, fun _ _ => rfl, fun _ _ => rfl, fun x => by simp [State.doAtoms, oldValues], fun _ => rfl⟩
  | cons o os ih =>
    have first := sound o (.head _)
    obtain ⟨blank, after, untouched⟩ := doAtom_spec first wf partials w near
    obtain ⟨-, told⟩ := doAtom_unnoted first partials w near
    have copies := copies_of_blank blank
    obtain ⟨blanks, bytes, others, olds, flags⟩ := ih (kept_doAtom wf) (noPartials_of_blank blank partials)
      fun o' ho' => (sound o' (.tail _ ho')).of_copies copies
    have plainly : ∀ o' ∈ os, ∀ a ∈ o'.locs, plain s a := fun o' ho' a ha => (sound o' (.tail _ ho')).plain a ha
    obtain ⟨sameOlds, fold⟩ := foldl_afterOp_congr plainly after
    refine ⟨blanks.trans blank, fun a p => ?_, fun a out => ?_, fun x => ?_, fun int => ?_⟩
    · exact (bytes a (plain_of_copies copies p)).trans (fold a p)
    · exact (others a fun o' ho' => out o' (.tail _ ho')).trans (untouched a (out o (.head _)))
    · rw [oldValues, ← sameOlds]
      simp only [State.doAtoms, told, List.mem_append, olds, List.mem_cons, exists_eq_or_imp]
      refine or_congr ?_ Iff.rfl
      cases o.dst with
      | none => simp
      | some d => simp [valueOf, State.getLocs]
    · simp only [State.doAtoms, told, flags fun o' ho' => int o' (.tail _ ho'), atomNew_flags (int o (.head _))]
      rfl

/-! ### Classification and leases (R235, R243) -/

theorem unnoted_classifyAtoms (s : State) (core : Nat) (ops : List AtomOp) :
    (s.classifyAtoms core ops).unnoted = s.unnoted := by
  refine foldl_keeps State.unnoted (fun t o => ?_) ops s
  split
  · split
    · rfl
    · exact unnoted_of_uncached (uncached_classify ..)
  · rfl

theorem unnoted_endLease (s : State) (w : Nat) : (s.endLease w).unnoted = s.unnoted := by
  unfold State.endLease
  split
  · refine (foldl_keeps State.unnoted (fun t k => unnoted_of_uncached (uncached_recallLine t k)) _ _).trans ?_
    exact unnoted_setWeltAt _ _ _ rfl
  · rfl

/-- The state that an atomic retires from: operations carried out, and their conditions in the flags. -/
theorem prepared_weltFlags {s t : State} (h : issuing s) (blank : t.blank = s.blank) (e : Lanes) (rs : List Nat)
    (fl : FlagBits) : issuing (t.weltFlags s.cur fl) ∧ Prepared s (t.weltFlags s.cur fl) e rs fl := by
  have cur := cur_of_blank blank
  have count := welts_of_blank blank
  have ready : issuing t := by
    unfold issuing
    rw [cur, count]
    exact h
  have before := cw_of_blank blank
  have cw : (t.weltFlags s.cur fl).cw = { t.cw with fpctl := orFlags t.cw.fpctl fl } := by
    rw [← cur]
    exact cw_setCw t _ ready
  have own : { t.cw with
      observed := s.cw.observed, unfenced := s.cw.unfenced, streams := s.cw.streams, wait := s.cw.wait } = s.cw := by
    let back (x : Welt) : Welt := { x with
      observed := s.cw.observed, unfenced := s.cw.unfenced, streams := s.cw.streams, wait := s.cw.wait }
    exact (congrArg back before :)
  have lanes : (t.weltFlags s.cur fl).cw.lanes = s.cw.lanes := by
    rw [cw]
    exact (congrArg Welt.lanes before :)
  refine ⟨?_, ⟨cur, ?_, ?_, fun i hi => ?_, fun i hi r hr out => ?_, ?_, fun i hi => ?_⟩⟩
  · unfold issuing State.weltFlags State.setWeltAt
    rw [List.length_set]
    exact ready
  · have wg : (t.weltFlags s.cur fl).cw.wg = t.cw.wg := by rw [cw]
    have same : (t.weltFlags s.cur fl).legacy = t.legacy := by
      rw [State.legacy, State.cl, State.cg, wg]
      rfl
    exact same.trans (legacy_of_blank blank)
  · rw [cw]
    let back (x : Welt) : Welt := { x with lanes := s.cw.lanes, fpctl := s.cw.fpctl }
    exact (congrArg back own :)
  · rw [lane_congr lanes]
  · rw [lane_congr lanes]
    exact ⟨rfl, rfl, rfl⟩
  · rw [cw]
    have flags : t.cw.fpctl = s.cw.fpctl := (congrArg Welt.fpctl before :)
    rw [← flags]
    rfl
  · have other : (t.weltFlags s.cur fl).weltAt i = t.weltAt i :=
      (weltAt_setWeltAt ..).trans (if_neg fun g => hi g.1.symm)
    rw [other]
    exact sameRegisters_of_registers (congrArg Welt.registers (weltAt_of_blank blank i) :)

/-! ### Operations that fly (R53, R240, R282) -/

/-- The destinations of some operations made empty. -/
def Welt.emptyOps (w : Welt) (ops : List AtomOp) : Welt :=
  ops.foldl (fun w o => match o.dst with
    | some d => w.markDst o.lane d o.ty false
    | none => w) w

/-- An access of the lane of an operation. -/
def AtomOp.access (o : AtomOp) : Access := ⟨o.lane, 0, 0, none, .ok o.locs⟩

/-- A state whose issuing welt retires with the destinations of its operations empty: the values `es` that the near ones found fly
to LOAD_LAND, the far ones to FAR_ATOMIC. -/
def State.flyAtoms (x : State) (i len : Nat) (ops : List AtomOp) (es : List (Nat × Nat × Ty × W64)) (far : List AtomOp) :
    State :=
  let w0 := x.cw.emptyOps ops
  let w1 := if es.isEmpty then w0 else w0.launchFlight (.value es)
  let w2 := if far.isEmpty then w1 else w1.launchFlight (.atom far)
  let s2 := x.retire w2 len
  let s3 := if es.isEmpty then s2 else s2.post (.loadLand i w0.nextFlight)
  if far.isEmpty then s3 else s3.post (.farAtomic i w1.nextFlight)

/-- Events made due change the agenda alone. -/
theorem posted_rest (y : State) (a b : Instr) (p q : Bool) :
    { (let z := if p then y else y.post a
       if q then z else z.post b) with agenda := y.agenda } = y := by
  cases p <;> cases q <;> rfl

/-- An atomic that starts classifies the pages of its lines, carries out what is near and lets the rest fly. -/
theorem startAtoms_eq (s : State) (len : Nat) (ops : List AtomOp) :
    s.startAtoms len ops =
      let t := s.classifyAtoms s.cg.core ops
      let r := State.doAtoms t.cur true (orderOps (Config.atomicOrder t.tick) (ops.filter (t.isNear s.cg.core))) t
      (r.1.weltFlags t.cur r.2.2).flyAtoms t.cur len ops r.2.1 (ops.filter fun o => !(t.isNear s.cg.core o)) := rfl

section
variable {x : State} {e : Lanes} {ty : Ty} {d : VReg} {rt : Bool} {ops : List AtomOp} (h : issuing x)
  (asked : Asked e ty d rt ops)

/-- The registers of a lane that its operations return values to. -/
def opDsts (ty : Ty) (d : VReg) (rt : Bool) (ops : List AtomOp) (l : Nat) : List Nat :=
  if rt then laneDsts ty (fun _ => d.toNat) (ops.map AtomOp.access) l else []

include asked

theorem mem_opDsts {l r : Nat} : r ∈ opDsts ty d rt ops l ↔ rt = true ∧ (∃ o ∈ ops, o.lane = l) ∧ r ∈ regsOf ty d.toNat := by
  unfold opDsts
  cases rt with
  | true =>
    simp only [if_true, true_and, mem_laneDsts, List.mem_map, exists_exists_and_eq_and, AtomOp.access]
    exact ⟨fun ⟨o, ho, lane, hr⟩ => ⟨⟨o, ho, lane⟩, hr⟩, fun ⟨⟨o, ho, lane⟩, hr⟩ => ⟨o, ho, lane, hr⟩⟩
  | false => simp

theorem emptyOps_eq (w : Welt) : w.emptyOps ops =
    if rt then w.emptyDsts ty (fun _ => d.toNat) (ops.map AtomOp.access) else w := by
  unfold Welt.emptyOps
  cases rt with
  | true =>
    rw [if_pos rfl, Welt.emptyDsts, List.foldl_map]
    refine List.foldl_ext _ _ w fun w o ho => ?_
    obtain ⟨-, -, hty, dst⟩ := asked.each o ho
    rw [dst, hty]
    rfl
  | false =>
    rw [if_neg Bool.false_ne_true]
    refine (List.foldl_ext _ (fun w _ => w) w fun w o ho => ?_).trans (List.foldl_fixed ..)
    obtain ⟨-, -, -, dst⟩ := asked.each o ho
    rw [dst]
    rfl

theorem emptyOps_rest (w : Welt) : { w.emptyOps ops with lanes := w.lanes } = w := by
  rw [emptyOps_eq asked]
  split
  · exact emptyDsts_rest ..
  · rfl

theorem lane_emptyOps (w : Welt) {l : Nat} (hl : l < 32) :
    (w.emptyOps ops).lane l = (w.lane l).emptyAll (opDsts ty d rt ops l) := by
  rw [emptyOps_eq asked, opDsts]
  split
  · exact lane_emptyDsts _ _ _ _ hl
  · rfl

include h

/-- Of the registers only the destinations differ, and they are empty, once a welt that has sent flights retires. -/
theorem retire_emptied {w : Welt} (len : Nat)
    (sent : { w with flights := x.cw.flights, nextFlight := x.cw.nextFlight } = x.cw.emptyOps ops) :
    Reaching x (x.retire w len) len e (if rt then regsOf ty d.toNat else []) [] [] 0 ∧
      (rt = true → ∀ o ∈ ops, ∀ r ∈ regsOf ty d.toNat, r < 128 →
        ((x.retire w len).cw.lane o.lane).full.getLsbD r = false) := by
  have rest : { w with lanes := x.cw.lanes, flights := x.cw.flights, nextFlight := x.cw.nextFlight } = x.cw := by
    let back (y : Welt) : Welt := { y with lanes := x.cw.lanes }
    exact (congrArg back sent :).trans (emptyOps_rest asked x.cw)
  have lane (i : Nat) (hi : i < 32) : w.lane i = (x.cw.lane i).emptyAll (opDsts ty d rt ops i) := by
    rw [← lane_emptyOps asked x.cw hi, ← sent]
    rfl
  refine ⟨reaching_retire len h (fun i hi => ?_) (fun i hi r hr out => ?_)
    ⟨(congrArg Welt.w rest :), (congrArg Welt.wfull rest :), (congrArg Welt.wbad rest :)⟩
    (fun r _ _ => mask_of_m _ r (congrArg Welt.m rest :)) (congrArg Welt.fpctl rest :)
    ⟨(congrArg Welt.handles rest :), (congrArg Welt.nanrec rest :), (congrArg Welt.skivestat rest :),
      (congrArg Welt.level rest :)⟩
    ⟨(congrArg Welt.traps rest :), (congrArg Welt.halt rest :), (congrArg Welt.replay rest :)⟩, fun hrt o ho r hr hq => ?_⟩
  · let back (y : Lane) : Lane := { y with
      v := (x.cw.lane i).v, full := (x.cw.lane i).full, bad := (x.cw.lane i).bad }
    exact (congrArg back (lane i hi)).trans (congrArg back (emptyAll_rest (x.cw.lane i) _) :)
  · rw [lane i hi]
    refine sameReg_emptyAll _ _ hr fun mem => ?_
    obtain ⟨hrt, ⟨o, ho, rfl⟩, hreg⟩ := (mem_opDsts asked).1 mem
    obtain ⟨-, he, -⟩ := asked.each o ho
    exact out he (by rwa [if_pos hrt])
  · obtain ⟨hl, -⟩ := asked.each o ho
    have retired := lane_retire x w len h o.lane hl
    have full : ((x.retire w len).cw.lane o.lane).full = (w.lane o.lane).full := by rw [retired]; split <;> rfl
    have mem : r ∈ opDsts ty d rt ops o.lane := (mem_opDsts asked).2 ⟨hrt, ⟨o, ho, rfl⟩, hr⟩
    rw [full, lane o.lane hl, full_emptyAll _ _ hq]
    simp [mem]

/-- What flying operations leave: the destinations empty, every byte as it was. -/
theorem flyAtoms_spec (i len : Nat) (es : List (Nat × Nat × Ty × W64)) (far : List AtomOp) :
    let u := x.flyAtoms i len ops es far
    Reaching x u len e (if rt then regsOf ty d.toNat else []) [] [] 0 ∧ (∀ l, u.getByte l = x.getByte l) ∧
      (rt = true → ∀ o ∈ ops, ∀ r ∈ regsOf ty d.toNat, r < 128 → (u.cw.lane o.lane).full.getLsbD r = false) := by
  let w1 := if es.isEmpty then x.cw.emptyOps ops else (x.cw.emptyOps ops).launchFlight (.value es)
  let w2 := if far.isEmpty then w1 else w1.launchFlight (.atom far)
  have before : { x.cw.emptyOps ops with flights := x.cw.flights, nextFlight := x.cw.nextFlight } = x.cw.emptyOps ops := by
    have rest := emptyOps_rest asked x.cw
    have flights : (x.cw.emptyOps ops).flights = x.cw.flights := (congrArg Welt.flights rest :)
    have next : (x.cw.emptyOps ops).nextFlight = x.cw.nextFlight := (congrArg Welt.nextFlight rest :)
    rw [← flights, ← next]
  have sent : { w2 with flights := x.cw.flights, nextFlight := x.cw.nextFlight } = x.cw.emptyOps ops := by
    simp only [w2, w1]
    split <;> split <;> exact before
  obtain ⟨reach, empty⟩ := retire_emptied h asked len sent
  have out : Outside x (x.retire w2 len) := outside_retireWith ..
  have same : { x.flyAtoms i len ops es far with agenda := (x.retire w2 len).agenda } = x.retire w2 len :=
    posted_rest (x.retire w2 len) (.loadLand i (x.cw.emptyOps ops).nextFlight) (.farAtomic i w1.nextFlight) es.isEmpty
      far.isEmpty
  have cw : (x.flyAtoms i len ops es far).cw = (x.retire w2 len).cw := (congrArg State.cw same :)
  have other (j : Nat) : (x.flyAtoms i len ops es far).weltAt j = (x.retire w2 len).weltAt j :=
    (congrArg (fun y : State => y.weltAt j) same :)
  refine ⟨⟨cw ▸ reach.lanes, cw ▸ reach.uniform, cw ▸ reach.masks, cw ▸ reach.flags, cw ▸ reach.special, cw ▸ reach.traps,
    fun j hj => other j ▸ reach.others j hj⟩, fun l => ?_, cw ▸ empty⟩
  exact (congrArg (fun y : State => y.getByte l) same :).trans (out.bytes l)

/-- Values that near operations found fly to LOAD_LAND where nothing is far. -/
theorem flyAtoms_values (i len : Nat) {es : List (Nat × Nat × Ty × W64)} (hes : es ≠ []) :
    let u := x.flyAtoms i len ops es []
    u.cw.flights = x.cw.flights ++ [⟨x.cw.nextFlight, x.cw.order, .value es⟩] ∧
      .loadLand i x.cw.nextFlight ∈ u.agenda := by
  have rest := emptyOps_rest asked x.cw
  have next : (x.cw.emptyOps ops).nextFlight = x.cw.nextFlight := (congrArg Welt.nextFlight rest :)
  have sends : x.flyAtoms i len ops es [] =
      (x.retire ((x.cw.emptyOps ops).launchFlight (.value es)) len).post (.loadLand i x.cw.nextFlight) := by
    unfold State.flyAtoms
    dsimp only
    rw [List.isEmpty_eq_false_iff.2 hes, next]
    rfl
  rw [sends]
  refine ⟨(flights_retire x _ len h).trans ?_, List.mem_append_right _ (List.mem_singleton_self _)⟩
  let sent (y : Welt) := y.flights ++ [⟨y.nextFlight, y.order, .value es⟩]
  exact (congrArg sent rest :)

/-- Where nothing is near the operations fly to FAR_ATOMIC. -/
theorem flyAtoms_far (i len : Nat) (some_op : ops ≠ []) :
    let u := x.flyAtoms i len ops [] ops
    u.cw.flights = x.cw.flights ++ [⟨x.cw.nextFlight, x.cw.order, .atom ops⟩] ∧
      .farAtomic i x.cw.nextFlight ∈ u.agenda := by
  have rest := emptyOps_rest asked x.cw
  have next : (x.cw.emptyOps ops).nextFlight = x.cw.nextFlight := (congrArg Welt.nextFlight rest :)
  have sends : x.flyAtoms i len ops [] ops =
      (x.retire ((x.cw.emptyOps ops).launchFlight (.atom ops)) len).post (.farAtomic i x.cw.nextFlight) := by
    unfold State.flyAtoms
    dsimp only
    rw [List.isEmpty_eq_false_iff.2 some_op, List.isEmpty_nil]
    simp only [Bool.false_eq_true, if_false, if_true, next]
  rw [sends]
  refine ⟨(flights_retire x _ len h).trans ?_, List.mem_append_right _ (List.mem_singleton_self _)⟩
  let sent (y : Welt) := y.flights ++ [⟨y.nextFlight, y.order, .atom ops⟩]
  exact (congrArg sent rest :)

end

/-! ### What an atomic that starts leaves (R240, R282) -/

theorem mem_of_mem_oldValues {m : Loc → Byte} {ops : List AtomOp} {y : AtomOp × W64} (h : y ∈ oldValues m ops) :
    y.1 ∈ ops := by
  induction ops generalizing m with
  | nil => cases h
  | cons o os ih =>
    obtain rfl | h := List.mem_cons.1 h
    · exact .head _
    · exact .tail _ (ih h)

/-- What the near operations leave, each destination in the lanes that return (R240, R282). -/
def NearStarts (s u : State) (e : Lanes) (ty : Ty) (d : VReg) (rt : Bool) (ops : List AtomOp) : Prop :=
  ∃ fl os, os.Perm ops ∧ carriedOut s u os ∧ Reaching s u 2 e (if rt then regsOf ty d.toNat else []) [] [] fl ∧
    (ty.isFloat = false → fl = 0) ∧
    (rt = true → ∃ es, u.cw.flights = s.cw.flights ++ [⟨s.cw.nextFlight, s.cw.order, .value es⟩] ∧
      (∀ x, x ∈ es ↔ ∃ y ∈ oldValues s.getByte os, x = (y.1.lane, d.toNat, ty, y.2)) ∧
      .loadLand s.cur s.cw.nextFlight ∈ u.agenda)

/-- What operations leave that are all far (R240). -/
def FarStarts (s u : State) (e : Lanes) (ty : Ty) (d : VReg) (rt : Bool) (ops : List AtomOp) : Prop :=
  (∀ l, u.getByte l = s.getByte l) ∧ Reaching s u 2 e (if rt then regsOf ty d.toNat else []) [] [] 0 ∧
    u.cw.flights = s.cw.flights ++ [⟨s.cw.nextFlight, s.cw.order, .atom ops⟩] ∧
    .farAtomic s.cur s.cw.nextFlight ∈ u.agenda

section
variable {s b : State} {e : Lanes} {ty : Ty} {d : VReg} {rt : Bool} {ops : List AtomOp} (h : issuing s)
  (same : b.unnoted = s.unnoted) (wf : memoriesWf b) (partials : noPartials s) (asked : Asked e ty d rt ops)
  (sound : ∀ o ∈ ops, Sound s o) (some_op : ops ≠ [])
include h same wf partials asked sound

/-- The destinations are empty until the old values land, whatever is near and far. -/
theorem startAtoms_empties (hrt : rt = true) : ∀ o ∈ ops, ∀ r ∈ regsOf ty d.toNat, r < 128 →
    ((b.startAtoms 2 ops).cw.lane o.lane).full.getLsbD r = false := by
  have classified : (b.classifyAtoms b.cg.core ops).unnoted = s.unnoted := (unnoted_classifyAtoms ..).trans same
  have wf' : memoriesWf (b.classifyAtoms b.cg.core ops) := kept_classifyAtoms wf
  rw [startAtoms_eq]
  dsimp only
  generalize b.classifyAtoms b.cg.core ops = t at classified wf'
  have copies := copies_of_blank (blank_of_unnoted classified)
  have near : ∀ o ∈ orderOps (Config.atomicOrder t.tick) (ops.filter (t.isNear b.cg.core)), Sound t o := by
    have perm := orderOps_perm (Config.atomicOrder t.tick)
      (List.Pairwise.imp (fun apart same => apart (congrArg AtomOp.lane same)) (asked.apart.filter (t.isNear b.cg.core)))
    exact fun o ho => (sound o (List.mem_filter.1 (perm.mem_iff.1 ho)).1).of_copies copies
  obtain ⟨blank, -⟩ := doAtoms_spec t.cur true wf' (noPartials_of_blank (blank_of_unnoted classified) partials) near
  have cur : t.cur = s.cur := cur_of_blank (blank_of_unnoted classified)
  obtain ⟨ready, -⟩ := prepared_weltFlags h (blank.trans (blank_of_unnoted classified)) e [] (State.doAtoms t.cur true
    (orderOps (Config.atomicOrder t.tick) (ops.filter (t.isNear b.cg.core))) t).2.2
  rw [← cur] at ready
  obtain ⟨-, -, empty⟩ := flyAtoms_spec ready asked t.cur 2 (State.doAtoms t.cur true
    (orderOps (Config.atomicOrder t.tick) (ops.filter (t.isNear b.cg.core))) t).2.1
    (ops.filter fun o => !(t.isNear b.cg.core o))
  exact empty hrt

include some_op

/-- Where the core holds every line exclusively the operations are carried out at once. -/
theorem startAtoms_near
    (near : ∀ o ∈ ops, (b.classifyAtoms b.cg.core ops).isNear b.cg.core o = true) :
    NearStarts s (b.startAtoms 2 ops) e ty d rt ops := by
  have classified : (b.classifyAtoms b.cg.core ops).unnoted = s.unnoted := (unnoted_classifyAtoms ..).trans same
  have wf' : memoriesWf (b.classifyAtoms b.cg.core ops) := kept_classifyAtoms wf
  rw [startAtoms_eq]
  dsimp only
  generalize b.classifyAtoms b.cg.core ops = t at classified wf' near
  have all : ops.filter (t.isNear b.cg.core) = ops := List.filter_eq_self.2 near
  have none_far : (ops.filter fun o => !(t.isNear b.cg.core o)) = [] :=
    List.filter_eq_nil_iff.2 fun o ho => by simp [near o ho]
  have distinct : ops.Nodup := List.Pairwise.imp (fun apart same => apart (congrArg AtomOp.lane same)) asked.apart
  have perm := orderOps_perm (Config.atomicOrder t.tick) distinct
  rw [all, none_far]
  generalize orderOps (Config.atomicOrder t.tick) ops = os at perm
  have same' := blank_of_unnoted classified
  have copies := copies_of_blank same'
  have cur : t.cur = s.cur := cur_of_blank same'
  have read : t.getByte = s.getByte := funext (getByte_of_unnoted classified)
  obtain ⟨blank, bytes, others, olds, flags⟩ := doAtoms_spec t.cur true wf' (noPartials_of_blank same' partials)
    fun o ho => (sound o (perm.mem_iff.1 ho)).of_copies copies
  generalize State.doAtoms t.cur true os t = q at blank bytes others olds flags
  obtain ⟨ready, prepared⟩ := prepared_weltFlags h (blank.trans same') e (if rt then regsOf ty d.toNat else []) q.2.2
  rw [cur]
  obtain ⟨reach, kept, -⟩ := flyAtoms_spec ready asked s.cur 2 q.2.1 []
  have flagged (l : Loc) : (q.1.weltFlags s.cur q.2.2).getByte l = q.1.getByte l := getByte_setWeltAt ..
  refine ⟨q.2.2, os, perm, ⟨fun o ho a ha => ?_, fun a out => ?_⟩, prepared.reaching reach,
    fun int => flags fun o ho => ?_, fun hrt => ?_⟩
  · rw [kept, flagged, ← read]
    exact bytes a (plain_of_copies copies ((sound o (perm.mem_iff.1 ho)).plain a ha))
  · rw [kept, flagged, ← read]
    exact others a out
  · obtain ⟨-, -, hty, -⟩ := asked.each o (perm.mem_iff.1 ho)
    exact hty ▸ int
  · have returned (x : Nat × Nat × Ty × W64) :
        x ∈ q.2.1 ↔ ∃ y ∈ oldValues s.getByte os, x = (y.1.lane, d.toNat, ty, y.2) := by
      rw [olds, read]
      refine exists_congr fun y => and_congr_right fun hy => ?_
      obtain ⟨-, -, hty, dst⟩ := asked.each y.1 (perm.mem_iff.1 (mem_of_mem_oldValues hy))
      rw [dst, if_pos hrt, hty]
      simp
    have some_value : q.2.1 ≠ [] := by
      obtain ⟨o, os', rfl⟩ := List.exists_cons_of_ne_nil fun none => some_op (perm.symm.trans (none ▸ .refl _)).eq_nil
      exact List.ne_nil_of_mem ((returned _).2 ⟨_, .head _, rfl⟩)
    obtain ⟨flights, due⟩ := flyAtoms_values ready asked s.cur 2 some_value
    have own := prepared.own
    have next : (q.1.weltFlags s.cur q.2.2).cw.nextFlight = s.cw.nextFlight := (congrArg Welt.nextFlight own :)
    have before : (q.1.weltFlags s.cur q.2.2).cw.flights = s.cw.flights := (congrArg Welt.flights own :)
    have order : (q.1.weltFlags s.cur q.2.2).cw.order = s.cw.order := (congrArg Welt.order own :)
    rw [next, before, order] at flights
    rw [next] at due
    exact ⟨q.2.1, flights, returned, due⟩

omit wf partials sound in
/-- Where the core holds no line exclusively the operations fly to the engine. -/
theorem startAtoms_far
    (far : ∀ o ∈ ops, (b.classifyAtoms b.cg.core ops).isNear b.cg.core o = false) :
    FarStarts s (b.startAtoms 2 ops) e ty d rt ops := by
  have classified : (b.classifyAtoms b.cg.core ops).unnoted = s.unnoted := (unnoted_classifyAtoms ..).trans same
  rw [startAtoms_eq]
  dsimp only
  generalize b.classifyAtoms b.cg.core ops = t at classified far
  have all : (ops.filter fun o => !(t.isNear b.cg.core o)) = ops :=
    List.filter_eq_self.2 fun o ho => by simp [far o ho]
  have none_near : ops.filter (t.isNear b.cg.core) = [] := List.filter_eq_nil_iff.2 fun o ho => by simp [far o ho]
  have nothing : orderOps (Config.atomicOrder t.tick) [] = [] :=
    List.perm_nil.1 (orderOps_perm _ List.nodup_nil)
  have cur : t.cur = s.cur := cur_of_blank (blank_of_unnoted classified)
  rw [all, none_near, nothing, State.doAtoms, cur]
  obtain ⟨ready, prepared⟩ := prepared_weltFlags h (blank_of_unnoted classified) e (if rt then regsOf ty d.toNat else []) 0
  obtain ⟨reach, kept, -⟩ := flyAtoms_spec ready asked s.cur 2 [] ops
  obtain ⟨flights, due⟩ := flyAtoms_far ready asked s.cur 2 some_op
  have own := prepared.own
  have next : (t.weltFlags s.cur 0).cw.nextFlight = s.cw.nextFlight := (congrArg Welt.nextFlight own :)
  have before : (t.weltFlags s.cur 0).cw.flights = s.cw.flights := (congrArg Welt.flights own :)
  have order : (t.weltFlags s.cur 0).cw.order = s.cw.order := (congrArg Welt.order own :)
  rw [next, before, order] at flights
  rw [next] at due
  refine ⟨fun l => ?_, prepared.reaching reach, flights, due⟩
  rw [kept]
  exact (getByte_setWeltAt ..).trans (getByte_of_unnoted classified l)

end

/-! ### The means for host pages (R243) -/

theorem lanesOf_getLsbD (ops : List AtomOp) (f : AtomOp → Bool) {l : Nat} (hl : l < 32) :
    (lanesOf ops f).getLsbD l = true ↔ ∃ o ∈ ops, o.lane = l ∧ f o = true := by
  rw [lanesOf, ofPred_getLsbD _ _ hl]
  simp only [List.any_eq_true, Bool.and_eq_true, beq_iff_eq]

/-- A lease is for host memory, which no core's cache holds exclusively. -/
theorem isNear_of_lease {c : Ctx} {o : AtomOp} (h : o.way c = .lease) (x : State) (core : Nat) :
    x.isNear core o = false := by
  unfold AtomOp.way at h
  unfold State.isNear
  split at h
  · next p k head => rw [head]
  · cases h

section
variable {v : State} {ops : List AtomOp} {e : Lanes} (A : Nat → W64)
  (lanes : ∀ l < 32, e.getLsbD l = true ↔ ∃ o ∈ ops, o.lane = l)

theorem lanesBy_eq_zero {k : HostWay} (h : ∀ o ∈ ops, o.way v.cc ≠ k) : v.lanesBy ops k = 0 := by
  refine (lanes_eq_zero_iff _).2 fun l hl => Bool.eq_false_iff.2 fun mem => ?_
  obtain ⟨o, ho, -, way⟩ := (lanesOf_getLsbD _ _ hl).1 mem
  exact h o ho (eq_of_beq way)

/-- Where no operation needs a lease or lacks a means, all start. -/
theorem runAtoms_native (native : ∀ o ∈ ops, o.way v.cc = .native) :
    v.runAtoms 2 ops A = .next (v.startAtoms 2 ops) := by
  have none_ : v.lanesBy ops .none = 0 := lanesBy_eq_zero fun o ho => by rw [native o ho]; decide
  have lease : v.lanesBy ops .lease = 0 := lanesBy_eq_zero fun o ho => by rw [native o ho]; decide
  rw [State.runAtoms, none_, if_neg (not_not.2 rfl), State.withLease, lease, if_pos rfl]
  rfl

include lanes

theorem lanesBy_eq {k : HostWay} (h : ∀ o ∈ ops, o.way v.cc = k) : v.lanesBy ops k = e := by
  refine BitVec.eq_of_getLsbD_eq fun l hl => Bool.eq_iff_iff.2 ?_
  rw [State.lanesBy, lanesOf_getLsbD _ _ hl, lanes l hl]
  exact exists_congr fun o => and_congr_right fun ho => by simp [h o ho]

variable (some_lane : e ≠ 0)
include some_lane

/-- Where no operation has a means, none starts. -/
theorem runAtoms_without_means (none_ : ∀ o ∈ ops, o.way v.cc = .none) :
    v.runAtoms 2 ops A = .next (v.hostAtomic A e) := by
  rw [State.runAtoms, lanesBy_eq lanes none_, if_pos some_lane]

section
variable (lease : ∀ o ∈ ops, o.way v.cc = .lease)
include lease

omit lanes some_lane in
/-- The leases come first. -/
theorem runAtoms_lease : v.runAtoms 2 ops A = v.withLease ops fun x refused =>
    if refused.isEmpty then .next (x.startAtoms 2 ops) else .next (x.hostAtomic A (lanesOn ops refused)) := by
  have none_ : v.lanesBy ops .none = 0 := lanesBy_eq_zero fun o ho => by rw [lease o ho]; decide
  rw [State.runAtoms, none_, if_neg (not_not.2 rfl)]

omit lanes some_lane in
theorem filter_lease : ops.filter (fun o => o.way v.cc == .lease) = ops :=
  List.filter_eq_self.2 fun o ho => by simp [lease o ho]

theorem runAtoms_asks (idle : v.cw.wait = .none) :
    v.runAtoms 2 ops A = .next (v.stall (.lease e (hostLines ops) [] v.now)) := by
  rw [runAtoms_lease A lease, State.withLease, lanesBy_eq lanes lease, if_neg some_lane, filter_lease lease, idle]

theorem runAtoms_waits {answers : List Bool} {t : Nat} (waits : v.cw.wait = .lease e (hostLines ops) answers t)
    (short : answers.length < (hostLines ops).length) :
    v.runAtoms 2 ops A = .next (v.stall (.lease e (hostLines ops) answers t)) := by
  rw [runAtoms_lease A lease, State.withLease, lanesBy_eq lanes lease, if_neg some_lane, filter_lease lease, waits]
  simp [Nat.not_le.2 short]

theorem runAtoms_answered {answers : List Bool} {t : Nat} (waits : v.cw.wait = .lease e (hostLines ops) answers t)
    (whole : answers.length = (hostLines ops).length) : v.runAtoms 2 ops A =
      let refused := (((hostLines ops).zip answers).filter fun x => !x.2).map (·.1)
      if refused.isEmpty then .next ((v.endLease v.cur).startAtoms 2 ops)
      else .next ((v.endLease v.cur).hostAtomic A (lanesOn ops refused)) := by
  rw [runAtoms_lease A lease, State.withLease, lanesBy_eq lanes lease, if_neg some_lane, filter_lease lease, waits]
  simp [whole]

/-- Where a lease is refused, no operation takes effect, and the lanes that meet a refused line trap. -/
theorem runAtoms_refused {answers : List Bool} {t : Nat} (waits : v.cw.wait = .lease e (hostLines ops) answers t)
    (whole : answers.length = (hostLines ops).length) (refused : false ∈ answers) : ∃ m : Lanes,
      (∀ l < 32, m.getLsbD l ↔ ∃ o ∈ ops, o.lane = l ∧ ∃ k ∈ hostLines [o], (k, false) ∈ (hostLines ops).zip answers) ∧
      v.runAtoms 2 ops A = .next ((v.endLease v.cur).hostAtomic A m) := by
  have mem (k : LineKey) : k ∈ (((hostLines ops).zip answers).filter fun x => !x.2).map (·.1) ↔
      (k, false) ∈ (hostLines ops).zip answers := by
    simp [List.mem_map, List.mem_filter]
  refine ⟨lanesOn ops ((((hostLines ops).zip answers).filter fun x => !x.2).map (·.1)), fun l hl => ?_, ?_⟩
  · refine (lanesOf_getLsbD _ _ hl).trans ?_
    simp only [List.any_eq_true, List.contains_iff_mem, mem]
  · have some_refused : ((((hostLines ops).zip answers).filter fun x => !x.2).map (·.1)) ≠ [] := by
      obtain ⟨i, hi, no⟩ := List.getElem_of_mem refused
      have inside : i < ((hostLines ops).zip answers).length := by rw [List.length_zip]; omega
      refine List.ne_nil_of_mem ((mem (hostLines ops)[i]).2 ?_)
      rw [← no, ← List.getElem_zip (h := inside)]
      exact List.getElem_mem inside
    rw [runAtoms_answered A lanes some_lane lease waits whole]
    dsimp only
    rw [List.isEmpty_eq_false_iff.2 some_refused]
    rfl

/-- Where every lease is granted, all operations start. -/
theorem runAtoms_granted {t : Nat}
    (waits : v.cw.wait = .lease e (hostLines ops) ((hostLines ops).map fun _ => true) t) :
    v.runAtoms 2 ops A = .next ((v.endLease v.cur).startAtoms 2 ops) := by
  have none_refused : (((hostLines ops).zip ((hostLines ops).map fun _ => true)).filter fun x => !x.2) = [] := by
    refine List.filter_eq_nil_iff.2 fun x hx => ?_
    obtain ⟨k, -, yes⟩ := List.mem_map.1 (List.of_mem_zip hx).2
    simp [← yes]
  rw [runAtoms_answered A lanes some_lane lease waits (List.length_map ..)]
  dsimp only
  rw [none_refused]
  rfl

end

end

/-! ### Every form of ATOM (R240, R243, R281, R282) -/

/-- The lanes of `e` are those of the operations that they ask for. -/
theorem lanes_operations {s : State} {e : Lanes} {ty : Ty} {A : Nat → W64} (ready : atomicsReady s e ty A) (op : Nat)
    (d c : VReg) (rt : Bool) : ∀ l < 32, e.getLsbD l = true ↔ ∃ o ∈ operations s e op ty d c rt A, o.lane = l := by
  intro l hl
  obtain ⟨-, -, each⟩ := ready
  constructor
  · intro he
    obtain ⟨-, -, ls, ok, -⟩ := each l hl he
    exact ⟨_, mem_operations.2 ⟨l, hl, he, ls, ok, rfl⟩, rfl⟩
  · rintro ⟨o, ho, rfl⟩
    obtain ⟨-, he, -⟩ := (asked_operations s e op ty d c rt A).each o ho
    exact he

theorem sound_operations {s : State} {e : Lanes} {ty : Ty} {A : Nat → W64} {op : Nat} {d c : VReg} {rt : Bool}
    (fits : opFits op ty = true) (whole : wholeOps s (operations s e op ty d c rt A)) :
    ∀ o ∈ operations s e op ty d c rt A, Sound s o := by
  intro o ho
  obtain ⟨cells, count, stands⟩ := whole.1 o ho
  obtain ⟨l, hl, he, ls, ok, rfl⟩ := mem_operations.1 ho
  exact ⟨cells, count, stands, fits⟩

/-- What an atomic leaves that starts from the translations of its lanes, or from there with its leases released. -/
theorem starts_spec {s v b : State} {e : Lanes} {ty : Ty} {A : Nat → W64} {op : Nat} {d c : VReg} {rt : Bool}
    (h : issuing s) (wf : memoriesWf s) (partials : noPartials s) (ready : atomicsReady s e ty A)
    (fits : opFits op ty = true) (even : rt = true → ty.evenOk d = true)
    (filled : v = s.fillTlbs (s.atomAccesses e ty A)) (base : b = v ∨ b = v.endLease v.cur)
    (whole : wholeOps s (operations s e op ty d c rt A)) :
    let ops := operations s e op ty d c rt A
    ((∀ o ∈ ops, (b.classifyAtoms b.cg.core ops).isNear b.cg.core o = true) →
      NearStarts s (b.startAtoms 2 ops) e ty d rt ops) ∧
    ((∀ o ∈ ops, (b.classifyAtoms b.cg.core ops).isNear b.cg.core o = false) →
      FarStarts s (b.startAtoms 2 ops) e ty d rt ops) ∧
    (rt = true → ∀ l < 32, e.getLsbD l = true → ∀ r ∈ regsOf ty d.toNat,
      ((b.startAtoms 2 ops).cw.lane l).full.getLsbD r = false) := by
  intro ops
  have asked : Asked e ty d rt ops := asked_operations ..
  have sound : ∀ o ∈ ops, Sound s o := sound_operations fits whole
  have some_op : ops ≠ [] := operations_ne_nil ready op d c rt
  have lanes := lanes_operations ready op d c rt
  have entered : v.unnoted = s.unnoted := by
    obtain ⟨tlb, tlb2, uses, e⟩ := fillTlbs_eq s (s.atomAccesses e ty A)
    rw [filled, e]
    rfl
  have wf' : memoriesWf v := filled ▸ kept_fillTlbs wf
  have same : b.unnoted = s.unnoted := by
    obtain rfl | rfl := base
    · exact entered
    · exact (unnoted_endLease ..).trans entered
  have wf'' : memoriesWf b := by
    obtain rfl | rfl := base
    · exact wf'
    · exact kept_endLease wf'
  refine ⟨startAtoms_near h same wf'' partials asked sound some_op, startAtoms_far h same asked some_op,
    fun hrt l hl he r hr => ?_⟩
  obtain ⟨o, ho, rfl⟩ := (lanes l hl).1 he
  exact startAtoms_empties h same wf'' partials asked sound hrt o ho r hr (lt_of_mem_regsOf (even hrt) hr)

end

/-- Settles O22: the forms of ATOM run `runAtoms` on the operations that their lanes ask for; the means of R243 decide between a
trap, a wait and the start, and what starts is `NearStarts` or `FarStarts`. -/
theorem atomicsStart : Obligations.AtomicsStart := by
  unfold Obligations.AtomicsStart
  intro s d i c w f p t tc rt ty disp h wf partials det q hq
  obtain ⟨ins, op, ret⟩ := q
  intro formed issues v leased walker ready
  let A : Nat → W64 := fun l => s.elemAddr w i f ty.bytes disp l 0
  let ops := Claims.operations s (s.E p) op ty d c ret A
  have form : atomForm d i c w f p t tc rt ty disp (ins, op, ret) := hq
  obtain ⟨fits, even⟩ := wellFormed_atomForm form formed
  have run {r : Result} (starts : v.runAtoms 2 ops A = r) : exec ins s = r :=
    (exec_atomForm form s).trans (atomic_ready rfl ready issues (fun _ => walker)
      (fun on => absurd on (by simp [det])) fun _ => starts)
  have same : v.untranslated = s.untranslated := by
    obtain ⟨tlb, tlb2, uses, e⟩ := fillTlbs_eq s (s.atomAccesses (s.E p) ty A)
    have both := congrArg State.untranslated e
    exact both
  have context : v.cc = s.cc := (congrArg State.cc same :)
  have waiting : v.cw.wait = s.cw.wait := (congrArg (fun x : State => x.cw.wait) same :)
  have core : v.cg.core = s.cg.core := (congrArg (fun x : State => x.cg.core) same :)
  have now : v.now = s.now := (congrArg State.now same :)
  have lanes := lanes_operations ready op d c ret
  have some_lane : s.E p ≠ 0 := ready.2.1
  have some_op : ops ≠ [] := operations_ne_nil ready op d c ret
  refine ⟨fun without => ?_, fun lease => ⟨fun idle => ?_, fun t0 answers waits => ⟨fun short => ?_, fun all refused => ?_⟩⟩,
    fun whole means => ?_⟩
  · exact run (runAtoms_without_means A lanes some_lane (context ▸ without))
  · have asks := runAtoms_asks A lanes some_lane (context ▸ lease) (waiting.trans idle)
    exact run (now ▸ asks)
  · exact run (runAtoms_waits A lanes some_lane (context ▸ lease) (waiting.trans waits) short)
  · obtain ⟨m, refuses, traps⟩ := runAtoms_refused A lanes some_lane (context ▸ lease) (waiting.trans waits) all refused
    have cur : v.cur = s.cur := (congrArg State.cur same :)
    exact ⟨m, refuses, run (cur ▸ traps)⟩
  · obtain native | ⟨lease, t0, waits⟩ := means
    · obtain ⟨near, far, empty⟩ := starts_spec h wf partials ready fits even rfl (.inl rfl) whole
      have starts := run (runAtoms_native A (context ▸ native))
      refine ⟨fun held => ?_, fun away => ?_, fun u ran hrt l hl he r hr => ?_⟩
      · obtain ⟨fl, os, rest⟩ := near (core ▸ held)
        exact ⟨_, fl, os, starts, rest⟩
      · exact ⟨_, starts, far (core ▸ away)⟩
      · obtain rfl := Host.Outcome.next.inj (starts.symm.trans ran)
        exact empty hrt l hl he r (by rwa [if_pos hrt] at hr)
    · obtain ⟨-, far, empty⟩ := starts_spec h wf partials ready fits even rfl (.inr rfl) whole
      have starts := run (runAtoms_granted A lanes some_lane (context ▸ lease) (waiting.trans waits))
      refine ⟨fun held => ?_, fun _ => ?_, fun u ran hrt l hl he r hr => ?_⟩
      · obtain ⟨o, ho⟩ := List.exists_mem_of_ne_nil _ some_op
        exact absurd (held o ho) (by rw [Claims.near, isNear_of_lease (lease o ho)]; decide)
      · exact ⟨_, starts, far fun o ho => isNear_of_lease (lease o ho) _ _⟩
      · obtain rfl := Host.Outcome.next.inj (starts.symm.trans ran)
        exact empty hrt l hl he r (by rwa [if_pos hrt] at hr)

end Sys2Proof.Machine
